-- ==== Sys2Proof/Syntax.lean ====
section
/-! DEFINITION. The commands of the block: one constructor per row of spec/opcode_table.json. -/

namespace Sys2Proof

/-- A logical stall (R12). -/
abbrev StallId := Fin 48
/-- A sequencer context of a stall (R120). -/
abbrev CtxId := Fin 4

/-- A split of a stall (R81). -/
abbrev SplitId := Fin 4
/-- A Porter channel of a stall (R174). -/
abbrev ChanId := Fin 8
/-- A memory unit (R265). -/
abbrev UnitId := Fin 24
/-- A pitch (R368). -/
abbrev PitchId := Fin 24
/-- An HBM stack (R265). -/
abbrev StackId := Fin 12
/-- A queue (R312). -/
abbrev QueueId := Fin 1024
/-- A function: 0 the PF, v for VF v (R534). -/
abbrev FnId := Fin 25
/-- A bell group (R312). -/
abbrev GroupId := Fin 64
/-- A hardware slot (R356). -/
abbrev SlotId := Fin 64
/-- An MSI-X vector of a function (R375). -/
abbrev VectorId := Fin 64
/-- A fence-table index (R346). -/
abbrev FenceId := Fin 8192
/-- A bay window (R172). -/
abbrev WinId := Fin 8
/-- A common-stock region (R287) or a packed region of a pitch (R241). -/
abbrev RegionId := Fin 16
/-- A port (R411). -/
abbrev PortId := Fin 8
/-- A link (R409). -/
abbrev LinkId := Fin 32
/-- A die sensor (R509). -/
abbrev SensorId := Fin 68
/-- A firmware component: its code less 1 (Table 21-10). -/
abbrev FwId := Fin 5

/-- Where a payload word of a request or of its answer takes an error on its way (R280): a router's input, an input of a die-to-die
interface, or the SRAM of the controller that holds it. -/
inductive WordPlace where
  | router (x : Fin 15) (y : Fin 6)
  | dieToDie (iod : Fin 2)
  | controller
  deriving DecidableEq, Repr

/-- Bits that an error flips in a 39-bit payload word (R163, R280): the place, its input (0 north, 1 east, 2 south, 3 west, 4 station),
the word within the flit, and the bits. -/
structure WordUpset where
  place : WordPlace
  input : Fin 5
  word : Fin 16
  flips : BitVec 39
  deriving DecidableEq, Repr

/-- A request in flight that a controller serves, and the error that its payload takes on its way (R280). -/
structure Served where
  id : Nat
  err : Option WordUpset
  deriving DecidableEq, Repr

/-- What a chip reset, or start-up, finds of a memory unit: a pseudo-channel that fails training (R465), or a controller that did not confirm
step 3, with the accepted writes that it had not written back, by their lines' numbers in the unit (R466). -/
inductive UnitFinding where
  | pch (u : UnitId) (k : Fin 32)
  | silent (u : UnitId) (lines : List Nat)
  deriving DecidableEq, Repr

/-- How a line read comes back from the stack (R282): good, one symbol corrected, or uncorrectable, as `Machine.lineDecode` reads its word. -/
inductive LineOutcome where
  | good
  | corrected (symbol : Nat)
  | bad
  deriving DecidableEq, Repr

/-- An error that a fault of the hardware brings about in one slot of a split (R88): in the partial of a column as it leaves the till,
in units of its window; in the block sum `m × 2^e` that a column adds for a block of 32 reduction indices (a cell, a product, a block
scaler, a return stage); in the element that a feeder gives to a row, beside what it sums; in the weight code that the loader gives to a
cell, beside what it sums; in the residue that the check column, or the check-row cell of a column, compares. -/
inductive ArrayUpset where
  | till (col : Nat) (err : Int)
  | cell (block col : Nat) (m e : Int)
  | feeder (row : Nat) (m e : Int)
  | loader (row col code : Nat)
  | checkColumn (err : Nat)
  | checkRow (col err : Nat)
  deriving DecidableEq, Repr

/-- A status block (R342): a queue's or a pitch's. -/
inductive BlockId where
  | queue (q : QueueId)
  | pitch (p : PitchId)
  deriving DecidableEq, Repr

/-- A ring with a consumed-count word (R405, R451): a Daybook or a fault ring of a pitch, or the installer's as 24. -/
inductive RingId where
  | daybook (k : Fin 25)
  | fault (k : Fin 25)
  deriving DecidableEq, Repr

/-- The fields of a format-A instruction below its opcode (Table 5-5), as the word holds them. -/
structure FmtA where
  gn : Bool
  gp : Fin 8
  d : Fin 32
  s1 : Fin 32
  s2 : Fin 32
  s3 : Fin 32
  x : BitVec 32
  deriving DecidableEq, Repr

/-- The fields of a format-B instruction below its opcode (Table 5-5). -/
structure FmtB where
  gn : Bool
  gp : Fin 8
  d : Fin 32
  s1 : Fin 32
  i : BitVec 42
  deriving DecidableEq, Repr

/-- The fields of a format-C instruction below its opcode (Table 5-5). -/
structure FmtC where
  gn : Bool
  gp : Fin 8
  s1 : Fin 32
  x : BitVec 15
  off : BitVec 32
  deriving DecidableEq, Repr

/-- Where an uncorrectable error of state lies (Table 18-1): the front end's state for a pitch, a caller's, what the callers share, an
aisle router's by its place in the mesh, TC6's, or logic that every split of a stall depends on (R94): its array's clock and power delivery,
or its sequencer's shared fetch path. -/
inductive StateLoc where
  | pitchState (p : PitchId)
  | stall (st : StallId) (fetch : Bool)
  | caller (c : Fin 4)
  | shared
  | router (x : Fin 15) (y : Fin 6)
  | tc6
  deriving DecidableEq, Repr

/-- A configuration request (R570, Table 22-3, R534): a read of the identification, of the MSI-X table size, of another register by its offset, or a write of NumVFs
with VF Enable, of a function's MSI-X function mask, or of another register. -/
inductive CfgReq where
  | ident
  /-- the table size of the MSI-X capability -/
  | msixSize
  | read (reg : Nat)
  | numVfs (n : Nat)
  | fnMask (on : Bool)
  | write (reg : Nat)
  deriving DecidableEq, Repr

/-- A host read of the FK2 that fails (Table 22-2): a doorbell scan, a descriptor fetch, a consumed-count word of a CQ, a ring or a reclaim
log, or a Porter read. -/
inductive HostRead where
  | scan (g : GroupId)
  | fetch (q : QueueId)
  | cqCount (q : QueueId)
  | ringCount (k : RingId)
  | rclCount (p : PitchId)
  | porter (st : StallId) (ch : ChanId)
  deriving DecidableEq, Repr

/-- An SPDM request (R519). `sha384` says that the requester offers SHA-384, `key` names the slot whose key a FINISH proves, and `mac` says
that its HMAC verifies. -/
inductive SpdmReq where
  | getVersion
  | getCapabilities
  | negotiateAlgorithms (sha384 : Bool)
  | getDigests
  | getCertificate (slot off len : Nat)
  | challenge (slot : Nat) (nonce : List Byte)
  | getMeasurements (block : Nat) (nonce : List Byte)
  | keyExchange (slot : Nat) (asksKey : Bool)
  | finish (key : Option Nat) (sig : List Byte) (mac : Bool)
  | heartbeat
  | endSession
  | other (code : Nat)
  deriving DecidableEq, Repr

/-- A PLDM sensor (Table 22-15). -/
inductive PldmSensor where
  | power
  | powerLimit
  | stage
  | dieTemp (n : Fin 68)
  | dieStep (n : Fin 68)
  | stackTemp (n : Fin 12)
  | stackStep (n : Fin 12)
  | stalls
  | spares
  | pchOut
  | halfLinks
  | replace
  | links (port : PortId)
  | pitch (p : PitchId)
  | time
  deriving DecidableEq, Repr

/-- A PLDM request (R553): a command of Type 0, a PDR of the repository by its handle, a reading, or anything else. -/
inductive PldmReq where
  | base (code : Nat)
  | pdr (handle : Nat)
  | read (sensor : PldmSensor)
  | other (type code : Nat)
  deriving DecidableEq, Repr

/-- An MCTP control message (R552), or a PLDM request, which comes over the same bindings and has no row of its own (DESIGN CHOICE, log
entry 141). -/
inductive MctpReq where
  | setEid (e : Nat)
  | getEid
  | other (code : Nat)
  | pldm (r : PldmReq)
  deriving DecidableEq, Repr

/-- A JTAG instruction (R555): the two always answered, and those of the consent token's SCOPE. -/
inductive JtagOp where
  | bypass
  | idcode
  | regRead (fn : FnId) (off : Nat)
  | regWrite (fn : FnId) (off : Nat) (v : BitVec 64)
  | scan (chain : Nat)
  | memRead (u : UnitId) (off n : Nat)
  | other (code : Nat)
  deriving DecidableEq, Repr

/-- The commands of the block, one constructor per row of spec/opcode_table.json, in the table's order. -/
inductive Instr where
  /-- NOP (R133). Instruction that does nothing for one issue cycle. -/
  | nop (st : StallId) (cx : CtxId) (f : FmtA)
  /-- ADD (R133). Adds two general registers modulo 2^64. -/
  | add (st : StallId) (cx : CtxId) (f : FmtA)
  /-- SUB (R133). Subtracts two general registers modulo 2^64. -/
  | sub (st : StallId) (cx : CtxId) (f : FmtA)
  /-- MUL (R133). Writes the low 64 bits of a product. -/
  | mul (st : StallId) (cx : CtxId) (f : FmtA)
  /-- MULH (R133). Writes the high 64 bits of a signed product. -/
  | mulh (st : StallId) (cx : CtxId) (f : FmtA)
  /-- AND (R133). Bitwise and of two general registers. -/
  | and (st : StallId) (cx : CtxId) (f : FmtA)
  /-- OR (R133). Bitwise or of two general registers. -/
  | or (st : StallId) (cx : CtxId) (f : FmtA)
  /-- XOR (R133). Bitwise exclusive or of two general registers. -/
  | xor (st : StallId) (cx : CtxId) (f : FmtA)
  /-- SHL (R133). Shifts a general register left by an immediate or a register amount. -/
  | shl (st : StallId) (cx : CtxId) (f : FmtA)
  /-- SHR (R133). Logical right shift of a general register. -/
  | shr (st : StallId) (cx : CtxId) (f : FmtA)
  /-- SAR (R133). Arithmetic right shift of a general register. -/
  | sar (st : StallId) (cx : CtxId) (f : FmtA)
  /-- ADDI (R133). Adds a sign-extended immediate to a general register. -/
  | addi (st : StallId) (cx : CtxId) (f : FmtA)
  /-- MOVI (R133). Loads a sign-extended 42-bit immediate. -/
  | movi (st : StallId) (cx : CtxId) (f : FmtB)
  /-- MOVH (R133). Sets the high 22 bits of a general register from an immediate. -/
  | movh (st : StallId) (cx : CtxId) (f : FmtB)
  /-- CMP (R133). Sets a predicate from a comparison of two general registers, including sequence precedence. -/
  | cmp (st : StallId) (cx : CtxId) (f : FmtA)
  /-- CMPI (R133). Sets a predicate from a comparison against an immediate. -/
  | cmpi (st : StallId) (cx : CtxId) (f : FmtA)
  /-- PLOG (R133). Combines two predicates by a logical operation. -/
  | plog (st : StallId) (cx : CtxId) (f : FmtA)
  /-- MOVA (R125). Writes an address register from a general register plus offset. -/
  | mova (st : StallId) (cx : CtxId) (f : FmtA)
  /-- MOVG (R125). Copies an address register into a general register. -/
  | movg (st : StallId) (cx : CtxId) (f : FmtA)
  /-- LD (R135). Issues an 8-byte device-memory load. -/
  | ld (st : StallId) (cx : CtxId) (f : FmtA)
  /-- ST (R135). Posts an 8-byte device-memory store. -/
  | st (st : StallId) (cx : CtxId) (f : FmtA)
  /-- LDB (R145). Reads one bay word under a SEQ token. -/
  | ldb (st : StallId) (cx : CtxId) (f : FmtA) (ups : List (Nat × BitVec 39))
  /-- STB (R145). Writes one bay word under a SEQ token. -/
  | stb (st : StallId) (cx : CtxId) (f : FmtA)
  /-- FLAGS (R51). Returns the instance's TILL_SAT and NONFINITE flags. -/
  | flags (st : StallId) (cx : CtxId) (f : FmtA)
  /-- BR (R136). Relative branch, checked against the innermost loop body. -/
  | br (st : StallId) (cx : CtxId) (f : FmtC)
  /-- JR (R136). Jump to the address in a general register. -/
  | jr (st : StallId) (cx : CtxId) (f : FmtC)
  /-- CALL (R136). Writes the return address to g31 and branches. -/
  | call (st : StallId) (cx : CtxId) (f : FmtC)
  /-- LOOP (R136). Starts a hardware loop with a register count. -/
  | loop (st : StallId) (cx : CtxId) (f : FmtC)
  /-- LOOPI (R136). Starts a hardware loop with an immediate count. -/
  | loopi (st : StallId) (cx : CtxId) (f : FmtC)
  /-- LBRK (R136). Leaves the innermost active loop. -/
  | lbrk (st : StallId) (cx : CtxId) (f : FmtC)
  /-- END (R123). Ends the instance once its outstanding work completes. -/
  | endInst (st : StallId) (cx : CtxId) (f : FmtC)
  /-- TSET (R127). Writes one word of a tensor descriptor register. -/
  | tset (st : StallId) (cx : CtxId) (f : FmtA)
  /-- TGET (R127). Reads one word of a tensor descriptor register. -/
  | tget (st : StallId) (cx : CtxId) (f : FmtA)
  /-- TLD (R127). Loads a 64-byte tensor descriptor from memory. -/
  | tld (st : StallId) (cx : CtxId) (f : FmtA)
  /-- TST (R127). Posts a store of a tensor descriptor to memory. -/
  | tst (st : StallId) (cx : CtxId) (f : FmtA)
  /-- TMOV (R127). Copies a tensor descriptor register. -/
  | tmov (st : StallId) (cx : CtxId) (f : FmtA)
  /-- TADV (R127). Adds a register to one descriptor field, wrapping within it. -/
  | tadv (st : StallId) (cx : CtxId) (f : FmtA)
  /-- PASS (R69). Queues an array pass on a split. -/
  | pass (st : StallId) (cx : CtxId) (f : FmtA)
  /-- WLD (R66). Starts loading a weight tile, or a diagonal tile, into a split's shadow bank. -/
  | wld (st : StallId) (cx : CtxId) (f : FmtA)
  /-- ASCL (R77). Writes a split's activation-scale register. -/
  | ascl (st : StallId) (cx : CtxId) (f : FmtA)
  /-- DCTW (R101). Writes a drain-control register of a split and phase. -/
  | dctw (st : StallId) (cx : CtxId) (f : FmtA)
  /-- SATM (R108). Reads a word of the latest ended pass's saturation mask. -/
  | satm (st : StallId) (cx : CtxId) (f : FmtA)
  /-- SPLT (R84). Changes the stall's split configuration. -/
  | splt (st : StallId) (cx : CtxId) (f : FmtA)
  /-- VLD (R155). Loads a bay row into a vector register. -/
  | vld (st : StallId) (cx : CtxId) (f : FmtA) (ups : List (Nat × BitVec 39))
  /-- VST (R155). Stores a vector register into a bay row. -/
  | vst (st : StallId) (cx : CtxId) (f : FmtA)
  /-- VLDC (R155). Loads a bay column into a vector register. -/
  | vldc (st : StallId) (cx : CtxId) (f : FmtA) (ups : List (Nat × BitVec 39))
  /-- VSTC (R155). Stores a vector register into a bay column. -/
  | vstc (st : StallId) (cx : CtxId) (f : FmtA)
  /-- VBC (R137). Broadcasts a scalar to every lane. -/
  | vbc (st : StallId) (cx : CtxId) (f : FmtA)
  /-- VLANE (R137). Extracts one lane into a general register. -/
  | vlane (st : StallId) (cx : CtxId) (f : FmtA)
  /-- VADD (R137). Lane-wise addition. -/
  | vadd (st : StallId) (cx : CtxId) (f : FmtA)
  /-- VSUB (R137). Lane-wise subtraction. -/
  | vsub (st : StallId) (cx : CtxId) (f : FmtA)
  /-- VMUL (R137). Lane-wise multiplication. -/
  | vmul (st : StallId) (cx : CtxId) (f : FmtA)
  /-- VFMA (R137). Lane-wise fused multiply-add with one rounding. -/
  | vfma (st : StallId) (cx : CtxId) (f : FmtA)
  /-- VMAX (R137). Lane-wise maximum. -/
  | vmax (st : StallId) (cx : CtxId) (f : FmtA)
  /-- VMIN (R137). Lane-wise minimum. -/
  | vmin (st : StallId) (cx : CtxId) (f : FmtA)
  /-- VLOG (R137). Lane-wise bitwise logic. -/
  | vlog (st : StallId) (cx : CtxId) (f : FmtA)
  /-- VSH (R137). Lane-wise shift. -/
  | vsh (st : StallId) (cx : CtxId) (f : FmtA)
  /-- VCMP (R137). Lane-wise comparison producing masks. -/
  | vcmp (st : StallId) (cx : CtxId) (f : FmtA)
  /-- VSEL (R137). Bitwise select between two vectors. -/
  | vsel (st : StallId) (cx : CtxId) (f : FmtA)
  /-- VCVT (R137). Converts lanes between FP32, BF16 and INT32. -/
  | vcvt (st : StallId) (cx : CtxId) (f : FmtA)
  /-- VSFU (R140). Applies a special function to FP32 lanes. -/
  | vsfu (st : StallId) (cx : CtxId) (f : FmtA)
  /-- VRED (R138). Reduces lanes by a fixed binary tree into a general register. -/
  | vred (st : StallId) (cx : CtxId) (f : FmtA)
  /-- VRMAX (R141). Row-statistics maximum of an integer and a ceiling. -/
  | vrmax (st : StallId) (cx : CtxId) (f : FmtA)
  /-- VEXPD (R141). Computes 2 to the power of an FP32 less an integer. -/
  | vexpd (st : StallId) (cx : CtxId) (f : FmtA)
  /-- VSCA (R52). Finds the activation scale of a tensor and optionally writes it to a split. -/
  | vsca (st : StallId) (cx : CtxId) (f : FmtA)
  /-- VSCF (R50). Runs the scale finder to write an FB tensor and report its ceiling. -/
  | vscf (st : StallId) (cx : CtxId) (f : FmtA)
  /-- VWADD (R116). Adds two WIDE tensors element by element. -/
  | vwadd (st : StallId) (cx : CtxId) (f : FmtA)
  /-- VWCVT (R118). Converts a WIDE tensor to a drain format. -/
  | vwcvt (st : StallId) (cx : CtxId) (f : FmtA)
  /-- VWANC (R141). Adds per-row integers to the anchors of a WIDE tensor. -/
  | vwanc (st : StallId) (cx : CtxId) (f : FmtA)
  /-- VCVTT (R55). Converts a tensor between unscaled plain formats. -/
  | vcvtt (st : StallId) (cx : CtxId) (f : FmtA)
  /-- PCOPY (R178). Issues a Porter copy transfer. -/
  | pcopy (st : StallId) (cx : CtxId) (f : FmtA)
  /-- PGATH (R180). Issues a Porter gather of rows. -/
  | pgath (st : StallId) (cx : CtxId) (f : FmtA)
  /-- PWALK (R220). Issues a page walk into a bay tile. -/
  | pwalk (st : StallId) (cx : CtxId) (f : FmtA)
  /-- PCONV (R183). Issues an MX to FB or FB to MX conversion transfer. -/
  | pconv (st : StallId) (cx : CtxId) (f : FmtA)
  /-- PSEND (R418). Issues a message send, a collective send or a window write. -/
  | psend (st : StallId) (cx : CtxId) (f : FmtA)
  /-- PPOST (R418). Posts a receive buffer, a collective receive or a window read. -/
  | ppost (st : StallId) (cx : CtxId) (f : FmtA)
  /-- PTIME (R193). Returns a Porter channel quantity for the calling context. -/
  | ptime (st : StallId) (cx : CtxId) (f : FmtA)
  /-- WAITU (R134). Waits until a unit's outstanding count falls to a value. -/
  | waitu (st : StallId) (cx : CtxId) (f : FmtA)
  /-- TKACQ (R143). Requests a bay token, waiting until it can be granted. -/
  | tkacq (st : StallId) (cx : CtxId) (f : FmtA)
  /-- TKTRY (R143). Requests a bay token without waiting. -/
  | tktry (st : StallId) (cx : CtxId) (f : FmtA)
  /-- TKPASS (R144). Issues a deferred hand-over of a token to another client. -/
  | tkpass (st : StallId) (cx : CtxId) (f : FmtA)
  /-- TKREL (R144). Issues a deferred release of a token. -/
  | tkrel (st : StallId) (cx : CtxId) (f : FmtA)
  /-- TKWAIT (R144). Waits until deferred actions on a handle have taken effect. -/
  | tkwait (st : StallId) (cx : CtxId) (f : FmtA)
  /-- AADD (R147). Issues a memory-side atomic add. -/
  | aadd (st : StallId) (cx : CtxId) (f : FmtA)
  /-- AMIN (R147). Issues a memory-side atomic minimum. -/
  | amin (st : StallId) (cx : CtxId) (f : FmtA)
  /-- AMAX (R147). Issues a memory-side atomic maximum. -/
  | amax (st : StallId) (cx : CtxId) (f : FmtA)
  /-- ACAS (R147). Issues a 64-bit memory-side compare-and-swap. -/
  | acas (st : StallId) (cx : CtxId) (f : FmtA)
  /-- AWADD (R117). Issues a memory-side till-format add. -/
  | awadd (st : StallId) (cx : CtxId) (f : FmtA)
  /-- ATENS (R184). Issues a memory-side add of a bay tensor into device memory. -/
  | atens (st : StallId) (cx : CtxId) (f : FmtA)
  /-- MFEN (R135). Waits until the context's earlier writes are visible chip-wide. -/
  | mfen (st : StallId) (cx : CtxId) (f : FmtA)
  /-- MARK (R407). Posts a program-marker record to the pitch's Daybook. -/
  | mark (st : StallId) (cx : CtxId) (f : FmtA)
  /-- TIME (R391). Reads FK time into a general register. -/
  | time (st : StallId) (cx : CtxId) (f : FmtA)
  /-- CYC (R121). Reads the stall's cycle count since the instance started. -/
  | cyc (st : StallId) (cx : CtxId) (f : FmtA)
  /-- LD_DATA_RETURN (R135). Data of an outstanding load or descriptor load reaches its register. -/
  | ldDataReturn (id : Nat)
  /-- ATOMIC_RESPONSE (R148). An atomic's old value or acknowledgement returns to its context. -/
  | atomicResponse (id : Nat)
  /-- MFEN_COMPLETE (R135). A waiting MFEN finds every earlier write visible and lets the context go on. -/
  | mfenComplete (st : StallId) (cx : CtxId)
  /-- WAITU_RETURN (R134). A unit's count falls to the WAITU value and the context resumes. -/
  | waituReturn (st : StallId) (cx : CtxId)
  /-- TOKEN_GRANT (R146). A waiting token request is granted once no overlap remains and an entry is free. -/
  | tokenGrant (n : Nat)
  /-- DEFERRED_TOKEN_EFFECT (R144). A deferred TKPASS or TKREL takes effect once earlier operations are done with the rows. -/
  | deferredTokenEffect (n : Nat)
  /-- INSTANCE_END (R123). An END instance finishes when all its work completes, ending the launch when all instances have ended. -/
  | instanceEnd (st : StallId) (cx : CtxId)
  /-- PASS_ENTRY (R74). A waiting pass enters its split at the earliest permitted slot and latches its registers. -/
  | passEntry (st : StallId) (sp : SplitId)
  /-- ARRAY_SLOT (R60). One slot of a split advances its cells, loader, block scalers, tills and drains, unless it holds. -/
  | arraySlot (st : StallId) (sp : SplitId) (hold : Bool) (upset : Option ArrayUpset) (ups : List (Nat × BitVec 39))
  /-- OUTPUT_ROWS_RELEASE (R91). The array releases a pass's output rows once every check verdict is clean, completing the pass. -/
  | outputRowsRelease (st : StallId) (sp : SplitId)
  /-- SWEEP_COMPLETE (R456). A stall's sweep finishes, freeing tokens and letting the completion be written. -/
  | sweepComplete (st : StallId)
  /-- SWEEP_TIMEOUT (R455). A sweep not finished in 20 µs puts the stall into DARK and maps it out. -/
  | sweepTimeout (st : StallId)
  /-- REMOTE_BAY_REQUEST (R169). A remote bay request from another stall reaches the bay's AISLE requester and is served. -/
  | remoteBayRequest (st : StallId) (ch : ChanId) (ups : List (Nat × BitVec 39))
  /-- BAY_CORRECTED_REWRITE (R165). The bay rewrites a corrected word through the maintenance path unless a write intervened. -/
  | bayCorrectedRewrite (n : Nat)
  /-- WINDOW_FORCE (R173). An enabled bay window comes into force once its stall runs no launch. -/
  | windowForce (n : WinId)
  /-- PORTER_PAIR_CHECK (R186). A staged data and scale pair is complete and is checked before any byte leaves. -/
  | porterPairCheck (st : StallId) (eng : Fin 20)
  /-- PORTER_TRANSFER_COMPLETE (R190). A transfer's last effect reaches its completion point; it takes its timestamp and tally. -/
  | porterTransferComplete (st : StallId) (ch : ChanId) (host : List Byte) (ups : List (Nat × BitVec 39))
  /-- PORTER_STARVATION (R195). A channel request unserved for 1,024 cycles is served next ahead of all others. -/
  | porterStarvation (st : StallId) (ch : ChanId)
  /-- PAGE_WALK_HEADER_READ (R219). A page walk receives its list header and checks it and the walk operands. -/
  | pageWalkHeaderRead (st : StallId) (ch : ChanId)
  /-- SCALE_FRAME_CHECK (R222). A page walk receives a scale-frame header and checks it against the entry. -/
  | scaleFrameCheck (st : StallId) (ch : ChanId)
  /-- PAGE_WALK_EPOCH_READ (R221). The epoch read closing a group returns and is compared with the starting epoch. -/
  | pageWalkEpochRead (st : StallId) (ch : ChanId)
  /-- BLOCK_DECODE (R261). A packed block's header and payload arrive and are checked and decoded. -/
  | blockDecode (st : StallId) (eng : Fin 12)
  /-- ENCODED_WRITE_PASS (R254). An encoding write's histogram or encoding pass over its source runs and writes units. -/
  | encodedWritePass (st : StallId) (ch : ChanId) (ups : List (Nat × BitVec 39))
  /-- ENT_TABLE_BUILD_DONE (R255). A table slot moves from BUILDING to READY when its lengths and decode structures are written. -/
  | entTableBuildDone (st : StallId) (ch : ChanId)
  /-- ENT_DECODER_TABLE_LOAD (R264). A stall's ENT decoder finishes loading a table it did not hold. -/
  | entDecoderTableLoad (st : StallId)
  /-- FACTOR_EXPAND_TILE (R259). The factor expander expands a LOWR tile once its factors are held. -/
  | factorExpandTile (st : StallId) (eng : Fin 12)
  /-- MEMORY_READ (R282). A controller serves a line read with correction, poison or replica repair. -/
  | memoryRead (job : Option Served) (u : UnitId) (off : Nat) (o : LineOutcome) (alt : LineOutcome) (again : LineOutcome)
  /-- MEMORY_WRITE (R266). A controller performs a line or partial-line write. -/
  | memoryWrite (job : Served)
  /-- MEMORY_ATOMIC (R278). A controller performs an atomic and returns the previous value. -/
  | memoryAtomic (id : Nat) (o : LineOutcome)
  /-- ATOMIC_BUFFER_EVICT (R279). A line is written back from the atomic buffer when space is needed. -/
  | atomicBufferEvict (u : UnitId)
  /-- PATROL_READ (R283). The controller's patrol reads a line of its unit. -/
  | patrolRead (u : UnitId) (o : LineOutcome) (alt : LineOutcome) (again : LineOutcome)
  /-- STACK_TEMP_REPORT (R295). A stack's 10 µs temperature report steps its thermal state. -/
  | stackTempReport (k : StackId) (temp : BitVec 12)
  /-- MEMORY_UNIT_POWER_DOWN (R503). A unit with no request for 2 µs enters POWER_DOWN. -/
  | memoryUnitPowerDown (u : UnitId)
  /-- BELL_WRITE (R319). A bell-page write sets a group's pending bit and wakes the front end. -/
  | bellWrite (fn : FnId) (off : Nat) (size : Nat) (data : BitVec 32)
  /-- CALLER_START (R502). The wake logic starts the callers after a bell or internal wake. -/
  | callerStart
  /-- DOORBELL_SCAN (R321). A group's doorbell entries return and each queue's entry is checked. -/
  | doorbellScan (g : GroupId) (entries : List W64)
  /-- GROUP_RESCAN (R323). Active groups are rescanned every 2 µs without a bell. -/
  | groupRescan (g : GroupId) (entries : List W64)
  /-- FRONT_END_IDLE_CHECK (R324). A front end that found nothing new runs its final scans and returns to sleep or to BUSY. -/
  | frontEndIdleCheck
  /-- DESCRIPTOR_FETCH (R322). Fetched descriptor slots arrive and are accepted or treated as not yet written. -/
  | descriptorFetch (q : QueueId) (slots : List (List Byte))
  /-- CQ_DOORBELL_POLL (R339). A CQ with waiting records rereads its doorbell entry every 2 µs. -/
  | cqDoorbellPoll (q : QueueId) (entry : W64)
  /-- COMPLETION_RECORD_WRITE (R338). A completion record, its status blocks and MSI-X cause are written once effects are visible and the slot is free. -/
  | completionRecordWrite (q : QueueId)
  /-- STATUS_BLOCK_WRITE (R343). A status block is written within 2 µs of a change, coalescing changes. -/
  | statusBlockWrite (k : BlockId)
  /-- WATERMARK_REFRESH (R238). The pitch block's watermark is rewritten at least every 100 µs while no launch is in flight. -/
  | watermarkRefresh (p : PitchId)
  /-- DESC_NOP (R325). A NOP descriptor completes with no effect. -/
  | descNop (q : QueueId)
  /-- LAUNCH (R329). A LAUNCH descriptor comes to start and is checked for placement. -/
  | launch (q : QueueId)
  /-- LAUNCH_PLACE (R329). The front end places a launch when stalls, splits and rows come free. -/
  | launchPlace (q : QueueId)
  /-- WAIT (R352). A WAIT descriptor starts when its fence reaches VALUE, or blocks. -/
  | wait (q : QueueId)
  /-- SIGNAL (R353). A SIGNAL descriptor raises a fence value after earlier descriptors complete. -/
  | signal (q : QueueId)
  /-- SIGNAL_WRITE_VISIBLE (R353). A SIGNAL's fence-word write becomes visible; the entry is set and blocked WAITs are re-evaluated. -/
  | signalWriteVisible (n : FenceId)
  /-- PAGE_EDIT (R230). A PAGE_EDIT descriptor edits a page list and adjusts frame counts in order. -/
  | pageEdit (q : QueueId)
  /-- TABLE_RELEASE (R255). A TABLE_RELEASE descriptor frees or releases an ENT table slot. -/
  | tableRelease (q : QueueId)
  /-- QUEUE_CREATE (R334). Creates an SQ or CQ and writes its first status block. -/
  | queueCreate (q : QueueId)
  /-- QUEUE_DELETE (R336). Stops a queue, optionally killing its descriptors, and deletes it. -/
  | queueDelete (q : QueueId)
  /-- RESYNC (R344). Rereads doorbells, optionally holds SQs, and rewrites every status block of a pitch. -/
  | resync (q : QueueId) (entries : List (Nat × W64))
  /-- RESUME (R344). Returns HELD SQs to ACTIVE, optionally rebasing one. -/
  | resume (q : QueueId)
  /-- HOSTWIN (R335). Registers, changes or removes a host window. -/
  | hostwin (q : QueueId)
  /-- KILL (R336). Ends a named descriptor with KILLED. -/
  | kill (q : QueueId)
  /-- PITCH_RESET (R382). A PITCH_RESET descriptor starts a warm or scrub reset of a pitch. -/
  | pitchReset (q : QueueId)
  /-- FW_OPEN (R529). Checks a bundle header and opens a firmware session, erasing inactive slots. -/
  | fwOpen (q : QueueId) (hdr : List Byte)
  /-- FW_BLOCK (R529). Writes an image block into a LOADING slot. -/
  | fwBlock (q : QueueId) (data : List Byte)
  /-- FW_COMMIT (R529). Hashes a loaded image and commits the slot on a match. -/
  | fwCommit (q : QueueId)
  /-- FW_ACTIVATE (R529). Starts activation of a committed component. -/
  | fwActivate (q : QueueId)
  /-- SLOT_ASSIGN (R360). A free hardware slot is given to a ready SQ by the pitch's mode. -/
  | slotAssign (n : SlotId) (q : QueueId)
  /-- BLOCKED_SLOT_RELEASE (R359). A blocked resident SQ is released within 2 µs when a ready SQ waits and no slot is free. -/
  | blockedSlotRelease (n : SlotId)
  /-- SLICE_EXPIRY (R361). A ROTATE time slice runs out and the resident SQ is released at its next start boundary. -/
  | sliceExpiry (n : SlotId)
  /-- MSIX_HOLD_EXPIRY (R377). A vector's HOLD time since its oldest cause passes and it sends a message. -/
  | msixHoldExpiry (fn : FnId) (v : VectorId)
  /-- MSIX_UNMASK (R377). The host unmasks a vector and its pending message is sent. -/
  | msixUnmask (fn : FnId) (v : VectorId)
  /-- PITCH_ENABLE (R369). EN written 1 to an OFF pitch runs an enabling scrub and brings the pitch to RUNNING. -/
  | pitchEnable (p : PitchId) (v : W64)
  /-- PITCH_DISABLE (R370). EN written 0 runs a disabling reset and returns the pitch to OFF. -/
  | pitchDisable (p : PitchId)
  /-- PRST_WARM_CMD (R381). PT_PRSTp CMD 1 starts a warm reset of a pitch. -/
  | prstWarmCmd (p : PitchId)
  /-- PRST_SCRUB_CMD (R383). PT_PRSTp CMD 2 starts a scrub reset of a pitch. -/
  | prstScrubCmd (p : PitchId)
  /-- FUNCTION_LEVEL_RESET (R387). An FLR resets the function's pitch and tears the function down. -/
  | functionLevelReset (fn : FnId)
  /-- VF_DISABLE (R381). Clearing VF Enable or lowering NumVFs resets and tears down the affected pitches. -/
  | vfDisable (n : Nat)
  /-- XLAT_INVAL (R271). INVAL drops every cached translation entry of a pitch. -/
  | xlatInval (p : PitchId) (v : W64)
  /-- CSRES_WRITE (R286). Sets the common-stock reserve while no unit belongs to a pitch. -/
  | csresWrite (v : W64)
  /-- CS_ENABLE (R288). EN of a common-stock region is written and the region leaves or enters OFF. -/
  | csEnable (n : RegionId) (v : W64)
  /-- CS_SEAL (R289). SEAL of a common-stock region is written to seal or unseal it. -/
  | csSeal (n : RegionId) (on : Bool)
  /-- LIFT (R293). LIFT returns a quarantined region to SEALED if DIRTY is clear. -/
  | lift (n : RegionId)
  /-- CS_STATE_DEFERRED (R289). A held SEAL or EN change takes effect once no launch naming the region is in flight. -/
  | csStateDeferred (n : RegionId)
  /-- PKR_EN_EFFECT (R241). A packed-region EN change takes effect once the pitch has no launch in flight. -/
  | pkrEnEffect (p : PitchId) (n : RegionId)
  /-- TABLE_AREA_ENABLE (R253). PT_PKTBL EN taking effect writes every slot FREE. -/
  | tableAreaEnable (p : PitchId)
  /-- FCT_EN_EFFECT (R548). A frame-count table EN change takes effect once no launch or PAGE_EDIT is in flight. -/
  | fctEnEffect (p : PitchId)
  /-- FENCE_QUERY (R349). PT_FNDEF QUERY shows a fence entry's owner and validity. -/
  | fenceQuery (fn : FnId) (i : FenceId)
  /-- FENCE_DEFINE (R349). PT_FNDEF DEFINE zeroes the fence word and defines the entry. -/
  | fenceDefine (fn : FnId) (i : FenceId) (owner : QueueId)
  /-- FENCE_UNDEFINE (R349). PT_FNDEF UNDEFINE undefines a fence entry. -/
  | fenceUndefine (fn : FnId) (i : FenceId)
  /-- BAYWIN_OPEN (R173). EN of a bay window is written 1 and the window comes into force when allowed. -/
  | baywinOpen (n : WinId) (v : W64)
  /-- BAYWIN_CLOSE (R173). EN of a bay window is written 0, closing it at once. -/
  | baywinClose (n : WinId)
  /-- DUMP_RELEASE (R459). RELEASE of PT_DUMP_BASE clears FULL of the retain buffer. -/
  | dumpRelease (fn : FnId)
  /-- STOCKTAKE_RELEASE (R471). RELEASE of GH_DUMP_CFG clears FULL of the stocktake buffer. -/
  | stocktakeRelease
  /-- AQ_ENABLE (R545). EN of PT_AQ_CFG written 1 creates the admin pair when valid. -/
  | aqEnable (fn : FnId) (v : W64)
  /-- AQ_DISABLE (R545). EN of PT_AQ_CFG written 0 tears down the admin pair. -/
  | aqDisable (fn : FnId)
  /-- PSB_ENABLE (R547). EN of PT_PSB_BASE starts writing the pitch block. -/
  | psbEnable (fn : FnId) (v : W64)
  /-- MAILBOX_DISABLE_EFFECT (R416). A mailbox EN of 0 takes effect once no buffer or send uses it. -/
  | mailboxDisableEffect (p : PitchId) (inbox : Bool) (m : Fin 256)
  /-- TIME_LOAD (R394). GH_TIME_LOAD loads FK time while every pitch is OFF. -/
  | timeLoad (v : W64)
  /-- TSYNC_WRITE (R397). A GH_TSYNC write sets the alignment role and restarts alignment. -/
  | tsyncWrite (v : W64)
  /-- PORT_ENABLE (R411). EN of a port written 1 starts training its links. -/
  | portEnable (n : PortId) (v : W64)
  /-- PORT_DISABLE (R411). EN of a port written 0 drops its links to OFF. -/
  | portDisable (n : PortId)
  /-- ACCEPT (R429). ACCEPT moves a port's quarantined links to ROUTED as wired. -/
  | accept (n : PortId)
  /-- MODE_WRITE (R480). A MOD_PAIR MODE write starts or ends pairing of a D1536. -/
  | modeWrite (m : Fin 4)
  /-- CRST_GO (R463). GO of GH_CRST starts a chip reset. -/
  | crstGo
  /-- CRST_DUMP (R468). DUMP with GO starts a chip reset that takes a stocktake first. -/
  | crstDump
  /-- REGISTER_WRITE (R541). A BAR0 write to a register without a row of its own is applied or ignored. -/
  | registerWrite (fn : FnId) (off : Nat) (size : Nat) (v : W64) (poison : Bool)
  /-- ID (R518). Security command returning UID, slots, policy and COUNT. -/
  | id (bad : Bool)
  /-- ENROLL (R518). Security command enrolling a public key into a slot. -/
  | enroll (slot scheme : Nat) (key sig : List Byte) (bad : Bool)
  /-- REVOKE (R518). Security command revoking a key slot. -/
  | revoke (slot : Nat) (sig : List Byte) (bad : Bool)
  /-- POLICY (R518). Security command setting the policy word. -/
  | policy (word : BitVec 6) (sig : List Byte) (bad : Bool)
  /-- AUDIT_READ (R521). Security command copying audit slots to host memory. -/
  | auditRead (first count : Nat) (addr : W64) (bad : Bool)
  /-- AUDIT_ACK (R523). Security command acknowledging audit records so segments may be erased. -/
  | auditAck (aseq : Nat) (bad : Bool)
  /-- AUDIT_SEAL (R522). Security command forcing an audit checkpoint. -/
  | auditSeal (bad : Bool)
  /-- DEBUG_NONCE (R524). Security command issuing a fresh debug nonce. -/
  | debugNonce (bad : Bool)
  /-- CONSENT (R524). Security command loading a signed consent token. -/
  | consent (token : List Byte) (bad : Bool)
  /-- RELOCK (R524). Security command closing JTAG debug. -/
  | relock (bad : Bool)
  /-- AUDIT_CHECKPOINT (R522). A signed checkpoint is written after 256 records or 60 s. -/
  | auditCheckpoint
  /-- DEBUG_UNLOCK (R524). A maker signature over the consent token opens JTAG within its scope. -/
  | debugUnlock (scheme : Nat) (sig : List Byte)
  /-- DEBUG_EXPIRY (R524). FK time passes NOT_AFTER and debug closes. -/
  | debugExpiry
  /-- FW_CONFIRM (R526). A trial image confirms its health and its slot becomes ACTIVE. -/
  | fwConfirm (c : FwId)
  /-- FW_TRIAL_FAILURE (R526). A trial window passes or the component stops, restarting or falling back. -/
  | fwTrialFailure (c : FwId)
  /-- BAR4_WRITE (R550). A host write through the set-up window reaches device memory or is refused. -/
  | bar4Write (fn : FnId) (off : Nat) (bytes : List Byte) (poison : Bool)
  /-- BAR4_READ (R550). A host read through the set-up window returns data, zeros or poison. -/
  | bar4Read (fn : FnId) (off : Nat) (n : Nat)
  /-- PCIE_CONFIG_REQUEST (R570). A configuration request is answered, with Retry Status until start-up finishes. -/
  | pcieConfigRequest (fn : FnId) (r : CfgReq)
  /-- PCIE_COMPLETION_ERROR (R538). A timeout or error completion on one of the FK2's own host reads. -/
  | pcieCompletionError (r : HostRead)
  /-- SLOW_CLOCK_TICK (R392). The Gatehouse advances FK time by one steered tick. -/
  | slowClockTick
  /-- PPS_EDGE (R396). A rising PPS_IN edge is measured and accepted or rejected. -/
  | ppsEdge
  /-- TSYNC_EXCHANGE (R397). A follower's period starts a TSYNC exchange and judges the last one. -/
  | tsyncExchange
  /-- TSYNC_REQUEST (R397). A chip receives a TSYNC request and replies with its stamps. -/
  | tsyncRequest (n : Nat)
  /-- TSYNC_REPLY (R397). A follower receives a TSYNC reply and computes offset and steering. -/
  | tsyncReply (n : Nat)
  /-- DAYBOOK_HEAD_POLL (R405). A full Daybook or fault ring rereads its consumed count every 10 µs. -/
  | daybookHeadPoll (k : RingId) (count : W64)
  /-- RECLAIM_HEAD_POLL (R549). A full reclaim log rereads its consumed count every 10 µs. -/
  | reclaimHeadPoll (p : PitchId) (count : W64)
  /-- LINK_TRAINED (R411). Training completes on four or two lanes and the link sends IDENT. -/
  | linkTrained (i : LinkId) (full : Bool)
  /-- LINK_TRAIN_TIMEOUT (R411). Training does not complete in 100 ms and restarts. -/
  | linkTrainTimeout (i : LinkId)
  /-- IDENT (R428). A received IDENT is checked against the wiring plan. -/
  | ident (n : Nat)
  /-- IDENT_TIMEOUT (R411). No IDENT arrives in 10 ms and IDENT is sent again. -/
  | identTimeout (i : LinkId)
  /-- WIRING_WAIT_EXPIRY (R428). The 100 ms wait for a possible swap partner ends and the mismatch is reported. -/
  | wiringWaitExpiry (n : PortId)
  /-- LOSS_OF_SIGNAL (R411). A link loses signal, drops its messages and retrains. -/
  | lossOfSignal (i : LinkId)
  /-- FLIT_RECEIVE (R413). A flit arrives and is accepted, credited and acknowledged, or dropped with a retry request. -/
  | flitReceive (i : LinkId) (flit : List Byte) (fec : Bool)
  /-- RETRY_REQUEST (R413). A retry request flit makes the sender replay, failing the link at 8 replays. -/
  | retryRequest (i : LinkId) (ack : BitVec 16)
  /-- LINK_ACK_TIMEOUT (R413). A non-idle flit unacknowledged for 10 µs fails the link. -/
  | linkAckTimeout (i : LinkId)
  /-- DATA (R418). A DATA message is deposited into a posted buffer, refused, or forwarded by a collective. -/
  | data (n : Nat)
  /-- ACK (R418). An ACK completes the PSEND that sent the message. -/
  | ack (n : Nat)
  /-- REFUSE (R420). A REFUSE ends the sending PSEND with its status. -/
  | refuse (n : Nat)
  /-- CREDIT (R417). A CREDIT adds a receive buffer to an outbound mailbox FIFO, or resets it. -/
  | credit (n : Nat)
  /-- WREQ (R421). A window request is queued and served against a bay window, or refused. -/
  | wreq (n : Nat) (ups : List (Nat × BitVec 39))
  /-- WRESP (R421). Window read data or write acknowledgement arrives and completes the transfer. -/
  | wresp (n : Nat) (ups : List (Nat × BitVec 39))
  /-- COLL_END (R439). A COLL_END ends the collective at the member and is passed on. -/
  | collEnd (n : Nat)
  /-- THERMAL_SLOW (R442). A THERMAL_SLOW is forwarded and suspends or resumes hang counting for its job. -/
  | thermalSlow (n : Nat)
  /-- SLOW_LIMIT_EXPIRY (R442). LIMIT seconds pass and a THERMAL_SLOW suspension ends. -/
  | slowLimitExpiry (job : Nat)
  /-- PEER_EPOCH (R438). A new epoch of a chip drops its old messages, sends and credits and ends its collectives. -/
  | peerEpoch (n : Nat)
  /-- PAIR_WRITE (R483). The secondary writes a mirrored line copy. -/
  | pairWrite (n : Nat)
  /-- PAIR_STATE (R484). The secondary applies a front-end state change and acknowledges it. -/
  | pairState (n : Nat)
  /-- PAIR_DIGEST (R491). The primary compares digests and may raise SDC_MISMATCH before the completion. -/
  | pairDigest (n : Nat)
  /-- PAIR_FAIL (R487). The secondary takes over after the primary's chip fatal fault. -/
  | pairFail (n : Nat)
  /-- PAIR_JOIN (R480). Two JOINING packages meet the conditions and become PAIRED. -/
  | pairJoin (mode : Fin 4) (live : Nat) (off : Bool)
  /-- HEARTBEAT (R487). A clerk sends its heartbeat every 100 µs on both paths. -/
  | heartbeat
  /-- HEARTBEAT_RECEIVE (R487). A partner's heartbeat arrives on the bridge or sideband. -/
  | heartbeatReceive (bridge : Bool) (partner : Fin 5)
  /-- HEARTBEAT_SILENCE (R487). Heartbeats are silent for 1 ms, causing takeover or ending the pair. -/
  | heartbeatSilence
  /-- POWER_LOSS (R487). A POWER_LOSS notice from the partner causes takeover or single running. -/
  | powerLoss (cause : Nat)
  /-- BRIDGE_CREDIT_TIMEOUT (R486). No mirror credit for 1 ms ends the pair and held writes proceed unmirrored. -/
  | bridgeCreditTimeout
  /-- HANG_WINDOW (R462). A subject without progress for a window raises a HANG event. -/
  | hangWindow
  /-- STOCKTAKE_READ_TIMEOUT (R469). A shadow read unanswered for 2 µs marks the unit UNIT_SILENT. -/
  | stocktakeReadTimeout (words : Nat)
  /-- STOCKTAKE_LIMIT (R469). The stocktake stops at 60 ms and is marked TRUNC. -/
  | stocktakeLimit
  /-- STALL_DOZE (R498). A stall without work for 64 cycles stops its clock. -/
  | stallDoze (st : StallId)
  /-- STALL_NAP (R498). A dozing stall idle for NAP_IDLE is power-gated. -/
  | stallNap (st : StallId)
  /-- STALL_DARK (R498). A napping stall without a launch for DARK_IDLE is powered off. -/
  | stallDark (st : StallId)
  /-- STALL_WAKE (R498). Work reaching a sleeping stall returns it to ACTIVE. -/
  | stallWake (st : StallId)
  /-- POWER_LIMIT_PERIOD (R506). Every 50 µs the clerk reads input power and adjusts the limiting stage. -/
  | powerLimitPeriod (watts : Nat)
  /-- CURRENT_ALARM (R508). A VDD_CORE current alarm throttles every split to 4 of 8 slots. -/
  | currentAlarm
  /-- CURRENT_ALARM_CLEAR (R508). Current below 2,600 A for 10 µs lifts the alarm throttle. -/
  | currentAlarmClear
  /-- DIE_SENSOR_READ (R510). A 10 µs die sensor reading steps its thermal state. -/
  | dieSensorRead (n : SensorId) (temp : Option (BitVec 12))
  /-- THERMAL_CEILING_STEP (R510). A HOT ceiling moves by 25 MHz each 100 µs. -/
  | thermalCeilingStep (n : SensorId)
  /-- SUPPLY_GOOD (R559). The input holds 46 V for 10 ms; VDD_GH starts and GATE is verified. -/
  | supplyGood (active other : Bool)
  /-- UNDERVOLTAGE (R560). The input below 44 V for 1 ms removes every rail but VDD_GH. -/
  | undervoltage
  /-- LOSS_OF_SUPPLY (R560). The input leaves range for 100 µs and every rail falls. -/
  | lossOfSupply
  /-- PWR_EN_ASSERT (R561). PWR_EN high starts the rail order once the clerk runs and no trip holds it. -/
  | pwrEnAssert
  /-- PWR_EN_DEASSERT (R562). PWR_EN low ends work and removes the rails in reverse order. -/
  | pwrEnDeassert
  /-- RAIL_IN_LIMITS (R561). A rail reaches its limits and the next starts, asserting PWRGD after the last. -/
  | railInLimits (r : Fin 6)
  /-- RAIL_ORDER_TIMEOUT (R561). PWRGD not reached within 20 ms removes the rails. -/
  | railOrderTimeout
  /-- REGULATOR_FAULT (R563). A regulator leaving regulation removes the package's rails. -/
  | regulatorFault (r : Fin 7)
  /-- CABLE_OVERCURRENT (R565). A cable end drawing over 1.2 A for 1 ms loses its supply. -/
  | cableOvercurrent (n : PortId)
  /-- PERST_ASSERT (R571). PERST# low resets the host port and, after start-up, the chip. -/
  | perstAssert
  /-- HBM_TRAINING_DONE (R569). HBM training finishes and start-up runs built-in checks and starts the front end. -/
  | hbmTrainingDone (hot : List StackId) (units : List UnitFinding) (sts : List StallId)
  /-- DIE_TO_DIE_LANE_FAILURE (R301). A die-to-die lane that the adapter's retry cannot recover causes a chip fatal fault. -/
  | dieToDieLaneFailure (iod : Fin 2) (syn : W64)
  /-- CALLER_SILENCE (R444). A caller that has given the clerk no sign of life for 10 ms causes a chip fatal fault. -/
  | callerSilence (c : Fin 4)
  /-- UNCORRECTABLE_STATE_ERROR (R444). An uncorrectable error in front-end, caller, aisle-router or TC6 state causes a pitch fatal or chip fatal fault. -/
  | uncorrectableStateError (loc : StateLoc) (syn : W64)
  /-- CLOCK_OR_POWER_FAULT (R444). A clock or power fault of the compute die, including a regulator transient held in limits, causes a chip fatal fault. -/
  | clockOrPowerFault (domain : Fin 8)
  /-- LANE_ERROR_RATIO_CHECK (R472). The pre-FEC symbol error ratio measured over 1 s exceeds 10^-4 and the link's lane pair is mapped out. -/
  | laneErrorRatioCheck (i : LinkId)
  /-- TENSOR_OPERATION_COMPLETE (R134). A posted vector tensor operation writes its last element, and its result register is written and its VEC count falls. -/
  | tensorOperationComplete (st : StallId) (cx : CtxId) (ups : List (Nat × BitVec 39))
  /-- INSTRUCTION_CACHE_FILL (R131). An instruction fetch from device memory returns into the instruction cache, or returns poisoned and ends the launch. -/
  | instructionCacheFill (st : StallId) (cx : CtxId) (line : Nat)
  /-- SCRUB_ZEROING_DONE (R383). The zeroing of a pitch's private space finishes, and the scrub sequence goes on to restore, report and signal. -/
  | scrubZeroingDone (p : PitchId)
  /-- PITCH_RESTORE_DONE (R382). The pitch's units leave self-refresh and its controllers and stalls pass their checks, letting steps 8 and 9 of the reset run. -/
  | pitchRestoreDone (p : PitchId)
  /-- COMPUTE_DIE_RESET_DONE (R464). The compute-die reset of a chip reset finishes, with fuses reloaded and spares applied, and HBM retraining begins. -/
  | computeDieResetDone
  /-- COMPONENT_VERIFIED (R569). The clerk finishes verifying a firmware image from flash at start-up, letting HBM training or the front end start, or falling back. -/
  | componentVerified (c : FwId) (active other : Bool)
  /-- RAIL_DISCHARGED (R562). A rail being removed falls below 10 % of its typical level, so that the next rail starts to fall or the removal ends. -/
  | railDischarged (r : Fin 6)
  /-- SPDM_MESSAGE (R519). An SPDM request over MCTP is answered: version, certificates, challenge, measurements or key exchange. -/
  | spdmMessage (vdm : Bool) (sess : Option Nat) (r : SpdmReq)
  /-- MCTP_CONTROL_MESSAGE (R552). An MCTP control message, such as one assigning the endpoint ID, is received and acted on. -/
  | mctpControlMessage (vdm : Bool) (r : MctpReq)
  /-- JTAG_INSTRUCTION (R555). A JTAG instruction is executed within the unlocked scope, or acts as BYPASS. -/
  | jtagInstruction (op : JtagOp)
  /-- PERST_DEASSERT (R570). PERST# goes high and the host port trains, answering with Request Retry Status until start-up finishes. -/
  | perstDeassert
  deriving DecidableEq, Repr

end Sys2Proof
end

