-- ==== Sys2Proof/WellFormed.lean ====
section
/-! DEFINITION. Well-formed commands: the bounds that the spec gives the operands and that their types do not already keep. A sender sends
only well-formed commands; exec is total and gives an ill-formed one an outcome as well. -/

namespace Sys2Proof

/-- A line outcome names one of the 36 symbols of a codeword (R281, R282). -/
def LineOutcome.wf : LineOutcome → Bool
  | .good => true
  | .corrected sym => decide (sym < 36)
  | .bad => true

/-- Upset bay words: each key is a word address of a bay, and each pattern is not the word's own (R151, R163). -/
def upsOk (ups : List (Nat × BitVec 39)) : Bool := ups.all (fun u => decide (u.1 < 2 ^ 22) && u.2 != 0)

/-- The offset of a 64-byte line of a memory unit (R265). -/
def lineOff (off : Nat) : Bool := decide (off < 2 ^ 35) && off % 64 == 0

/-- The size of one register or bell access: 1, 2, 4 or 8 bytes (R319, R541). -/
def sizeOk (size : Nat) : Bool := size == 1 || size == 2 || size == 4 || size == 8

/-- A configuration request names a dword of the 4 KiB configuration space (R570), or at most 24 virtual functions (R534). -/
def CfgReq.wf : CfgReq → Bool
  | .ident => true
  | .msixSize => true
  | .read reg => decide (reg < 4096) && reg % 4 == 0
  | .numVfs n => decide (n ≤ 24)
  | .fnMask _ => true
  | .write reg => decide (reg < 4096) && reg % 4 == 0

/-- An SPDM request's numbers lie in their fields, and its nonces have 32 bytes (R519). -/
def SpdmReq.wf : SpdmReq → Bool
  | .getVersion => true
  | .getCapabilities => true
  | .negotiateAlgorithms _ => true
  | .getDigests => true
  | .getCertificate slot off len => decide (slot < 8) && decide (off < 2 ^ 16) && decide (len < 2 ^ 16)
  | .challenge slot nonce => decide (slot < 8) && nonce.length == 32
  | .getMeasurements block nonce => decide (block < 256) && nonce.length == 32
  | .keyExchange slot _ => decide (slot < 8)
  | .finish key _ _ => key.all (fun k => decide (k < 8))
  | .heartbeat => true
  | .endSession => true
  | .other code => decide (code < 256)

/-- An MCTP control message's numbers are bytes (R552). -/
def MctpReq.wf : MctpReq → Bool
  | .setEid e => decide (e < 256)
  | .getEid => true
  | .other code => decide (code < 256)
  | .pldm (.base code) => decide (code < 256)
  | .pldm (.pdr h) => decide (h < 2 ^ 32)
  | .pldm (.read _) => true
  | .pldm (.other ty code) => decide (0 < ty) && decide (ty < 64) && decide (code < 256)

/-- A JTAG instruction reaches a register of a BAR0 or bytes of a memory unit (R555). -/
def JtagOp.wf : JtagOp → Bool
  | .bypass => true
  | .idcode => true
  | .regRead _ off => decide (off < 2 ^ 25) && off % 8 == 0
  | .regWrite _ off _ => decide (off < 2 ^ 25) && off % 8 == 0
  | .scan _ => true
  | .memRead _ off n => decide (off + n ≤ 2 ^ 35)
  | .other _ => true

/-- Lines of a unit are numbered below 2^29. -/
def UnitFinding.wf : UnitFinding → Bool
  | .pch .. => true
  | .silent _ ls => ls.all (fun k => decide (k < 2 ^ 29))

/-- Well-formed commands. The fields of a stall instruction are all legal to send: what the stall does with a reserved field is the
instruction's meaning. -/
def Instr.wf : Instr → Bool
  | .ldb _ _ _ ups => upsOk ups
  | .vld _ _ _ ups => upsOk ups
  | .vldc _ _ _ ups => upsOk ups
  | .arraySlot _ _ _ _ ups => upsOk ups
  | .remoteBayRequest _ _ ups => upsOk ups
  | .porterTransferComplete _ _ host ups => decide (host.length < 2 ^ 32) && upsOk ups
  | .encodedWritePass _ _ ups => upsOk ups
  | .memoryRead _ _ off o alt again => lineOff off && o.wf && alt.wf && again.wf
  | .memoryAtomic _ o => o.wf
  | .patrolRead _ o alt again => o.wf && alt.wf && again.wf
  | .bellWrite _ off size _ => decide (off + size ≤ 4096) && sizeOk size
  | .doorbellScan _ entries => entries.length == 16
  | .groupRescan _ entries => entries.length == 16
  | .descriptorFetch _ slots => decide (slots.length ≤ 16) && slots.all (fun b => b.length == 64)
  | .resync _ entries => entries.all (fun e => decide (e.1 < 1024))
  | .fwOpen _ hdr => decide (hdr.length ≤ 16384)
  | .fwBlock _ block => decide (block.length < 2 ^ 32)
  | .vfDisable n => decide (n ≤ 24)
  | .registerWrite _ off size _ _ => decide (off + size ≤ 2 ^ 25) && sizeOk size
  | .enroll slot scheme _ _ _ => decide (slot < 256) && decide (scheme < 256)
  | .revoke slot _ _ => decide (slot < 256)
  | .auditRead first count _ _ => decide (first < 2 ^ 64) && decide (count < 2 ^ 32)
  | .auditAck aseq _ => decide (aseq < 2 ^ 64)
  | .debugUnlock scheme _ => decide (scheme < 256)
  | .bar4Write _ off bytes _ => decide (0 < bytes.length) && decide (bytes.length ≤ 512) && decide (off + bytes.length ≤ 2 ^ 36)
  | .bar4Read _ off n => decide (0 < n) && decide (n ≤ 4096) && decide (off + n ≤ 2 ^ 36)
  | .pcieConfigRequest _ r => r.wf
  | .flitReceive _ flit _ => flit.length == 256
  | .wreq _ ups => upsOk ups
  | .wresp _ ups => upsOk ups
  | .slowLimitExpiry job => decide (job < 2 ^ 32)
  | .pairJoin _ live _ => decide (live ≤ 48)
  | .powerLoss cause => decide (cause < 256)
  | .stocktakeReadTimeout words => decide (words < 2 ^ 32)
  | .hbmTrainingDone hot units sts => decide (hot.length ≤ 12) && units.all UnitFinding.wf && decide (sts.length ≤ 48)
  | .tensorOperationComplete _ _ ups => upsOk ups
  | .instructionCacheFill _ _ line => decide (line < 2 ^ 17)
  | .spdmMessage _ _ r => r.wf
  | .mctpControlMessage _ r => r.wf
  | .jtagInstruction op => op.wf
  | .nop .. | .add .. | .sub .. | .mul .. | .mulh .. | .and .. | .or .. | .xor .. | .shl .. | .shr .. | .sar .. | .addi ..
  | .movi .. | .movh .. | .cmp .. | .cmpi .. | .plog .. | .mova .. | .movg .. | .ld .. | .st .. | .stb .. | .flags .. | .br ..
  | .jr .. | .call .. | .loop .. | .loopi .. | .lbrk .. | .endInst .. | .tset .. | .tget .. | .tld .. | .tst .. | .tmov ..
  | .tadv .. | .pass .. | .wld .. | .ascl .. | .dctw .. | .satm .. | .splt .. | .vst .. | .vstc .. | .vbc .. | .vlane ..
  | .vadd .. | .vsub .. | .vmul .. | .vfma .. | .vmax .. | .vmin .. | .vlog .. | .vsh .. | .vcmp .. | .vsel .. | .vcvt ..
  | .vsfu .. | .vred .. | .vrmax .. | .vexpd .. | .vsca .. | .vscf .. | .vwadd .. | .vwcvt .. | .vwanc .. | .vcvtt .. | .pcopy ..
  | .pgath .. | .pwalk .. | .pconv .. | .psend .. | .ppost .. | .ptime .. | .waitu .. | .tkacq .. | .tktry .. | .tkpass ..
  | .tkrel .. | .tkwait .. | .aadd .. | .amin .. | .amax .. | .acas .. | .awadd .. | .atens .. | .mfen .. | .mark .. | .time ..
  | .cyc .. | .ldDataReturn .. | .atomicResponse .. | .mfenComplete .. | .waituReturn .. | .tokenGrant ..
  | .deferredTokenEffect .. | .instanceEnd .. | .passEntry .. | .outputRowsRelease .. | .sweepComplete .. | .sweepTimeout ..
  | .bayCorrectedRewrite .. | .windowForce .. | .porterPairCheck .. | .porterStarvation .. | .pageWalkHeaderRead ..
  | .scaleFrameCheck .. | .pageWalkEpochRead .. | .blockDecode .. | .entTableBuildDone .. | .entDecoderTableLoad ..
  | .computeDieResetDone | .factorExpandTile .. | .memoryWrite .. | .atomicBufferEvict .. | .stackTempReport .. | .memoryUnitPowerDown ..
  | .callerStart .. | .frontEndIdleCheck .. | .cqDoorbellPoll .. | .completionRecordWrite .. | .statusBlockWrite ..
  | .watermarkRefresh .. | .descNop .. | .launch .. | .launchPlace .. | .wait .. | .signal .. | .signalWriteVisible ..
  | .pageEdit .. | .tableRelease .. | .queueCreate .. | .queueDelete .. | .resume .. | .hostwin .. | .kill .. | .pitchReset ..
  | .fwCommit .. | .fwActivate .. | .slotAssign .. | .blockedSlotRelease .. | .sliceExpiry .. | .msixHoldExpiry ..
  | .msixUnmask .. | .pitchEnable .. | .pitchDisable .. | .prstWarmCmd .. | .prstScrubCmd .. | .functionLevelReset ..
  | .xlatInval .. | .csresWrite .. | .csEnable .. | .csSeal .. | .lift .. | .csStateDeferred .. | .pkrEnEffect ..
  | .tableAreaEnable .. | .fctEnEffect .. | .fenceQuery .. | .fenceDefine .. | .fenceUndefine .. | .baywinOpen ..
  | .baywinClose .. | .dumpRelease .. | .stocktakeRelease .. | .aqEnable .. | .aqDisable .. | .psbEnable ..
  | .mailboxDisableEffect .. | .timeLoad .. | .tsyncWrite .. | .portEnable .. | .portDisable .. | .accept .. | .modeWrite ..
  | .crstGo .. | .crstDump .. | .id .. | .policy .. | .auditSeal .. | .debugNonce .. | .consent .. | .relock ..
  | .auditCheckpoint .. | .debugExpiry .. | .fwConfirm .. | .fwTrialFailure .. | .pcieCompletionError .. | .slowClockTick ..
  | .ppsEdge .. | .tsyncExchange .. | .tsyncRequest .. | .tsyncReply .. | .daybookHeadPoll .. | .reclaimHeadPoll ..
  | .linkTrained .. | .linkTrainTimeout .. | .ident .. | .identTimeout .. | .wiringWaitExpiry .. | .lossOfSignal ..
  | .retryRequest .. | .linkAckTimeout .. | .data .. | .ack .. | .refuse .. | .credit .. | .collEnd .. | .thermalSlow ..
  | .peerEpoch .. | .pairWrite .. | .pairState .. | .pairDigest .. | .pairFail .. | .heartbeat .. | .heartbeatReceive ..
  | .heartbeatSilence .. | .bridgeCreditTimeout .. | .hangWindow .. | .stocktakeLimit .. | .stallDoze .. | .stallNap ..
  | .stallDark .. | .stallWake .. | .powerLimitPeriod .. | .currentAlarm .. | .currentAlarmClear .. | .dieSensorRead ..
  | .thermalCeilingStep .. | .supplyGood .. | .undervoltage .. | .lossOfSupply .. | .pwrEnAssert .. | .pwrEnDeassert ..
  | .railInLimits .. | .railOrderTimeout .. | .regulatorFault .. | .cableOvercurrent .. | .perstAssert ..
  | .dieToDieLaneFailure .. | .callerSilence .. | .uncorrectableStateError .. | .clockOrPowerFault .. | .laneErrorRatioCheck ..
  | .scrubZeroingDone .. | .pitchRestoreDone .. | .componentVerified .. | .railDischarged ..
  | .perstDeassert .. => true

end Sys2Proof
end

