-- ==== Sys2Proof/Decode.lean ====
section
/-! DEFINITION. The words of stall instructions (spec 05 Table 5-5, Tables 5-7 to 5-11), and the command that a word of the opcode table
spells. No row of spec/opcode_table.json has bits: commands reach the block as events, and the fields of a stall instruction stand in its
operands; what the sequencer reads of a fetched word is here. -/

namespace Sys2Proof

/-- The command that a word of `nbits` bits spells by the table: no row gives bits, so none. -/
def decodeTableWord (nbits w : Nat) : Option Instr :=
  let _ := nbits
  let _ := w
  none

/-- A field of `n` bits of an instruction word, from a bit on. -/
def wordField (w : W64) (lo n : Nat) : Fin (2 ^ n) := (w.extractLsb' lo n).toFin

/-- OP, GN and GP of an instruction word (Table 5-5). -/
def wordOp (w : W64) : Nat := (wordField w 56 8).val
def wordGn (w : W64) : Bool := w.getLsbD 55
def wordGp (w : W64) : Fin 8 := wordField w 52 3

/-- The fields of the three formats (Table 5-5). -/
def FmtA.ofWord (w : W64) : FmtA :=
  { gn := wordGn w, gp := wordGp w, d := wordField w 47 5, s1 := wordField w 42 5, s2 := wordField w 37 5, s3 := wordField w 32 5,
    x := w.extractLsb' 0 32 }
def FmtB.ofWord (w : W64) : FmtB :=
  { gn := wordGn w, gp := wordGp w, d := wordField w 47 5, s1 := wordField w 42 5, i := w.extractLsb' 0 42 }
def FmtC.ofWord (w : W64) : FmtC :=
  { gn := wordGn w, gp := wordGp w, s1 := wordField w 47 5, x := w.extractLsb' 32 15, off := w.extractLsb' 0 32 }

/-- The instruction of a word for a context of a stall; none where the opcode is not listed in Tables 5-7 to 5-11 (R132, R133). What the
environment adds to an instruction that reads a bay, the upset bits, is not in the word. -/
def seqInstr (st : StallId) (cx : CtxId) (w : W64) : Option Instr :=
  match wordOp w with
  | 0x00 => some (.nop st cx (FmtA.ofWord w))
  | 0x01 => some (.add st cx (FmtA.ofWord w))
  | 0x02 => some (.sub st cx (FmtA.ofWord w))
  | 0x03 => some (.mul st cx (FmtA.ofWord w))
  | 0x04 => some (.mulh st cx (FmtA.ofWord w))
  | 0x05 => some (.and st cx (FmtA.ofWord w))
  | 0x06 => some (.or st cx (FmtA.ofWord w))
  | 0x07 => some (.xor st cx (FmtA.ofWord w))
  | 0x08 => some (.shl st cx (FmtA.ofWord w))
  | 0x09 => some (.shr st cx (FmtA.ofWord w))
  | 0x0A => some (.sar st cx (FmtA.ofWord w))
  | 0x0B => some (.addi st cx (FmtA.ofWord w))
  | 0x0C => some (.movi st cx (FmtB.ofWord w))
  | 0x0D => some (.movh st cx (FmtB.ofWord w))
  | 0x0E => some (.cmp st cx (FmtA.ofWord w))
  | 0x0F => some (.cmpi st cx (FmtA.ofWord w))
  | 0x10 => some (.plog st cx (FmtA.ofWord w))
  | 0x11 => some (.mova st cx (FmtA.ofWord w))
  | 0x12 => some (.movg st cx (FmtA.ofWord w))
  | 0x13 => some (.ld st cx (FmtA.ofWord w))
  | 0x14 => some (.st st cx (FmtA.ofWord w))
  | 0x15 => some (.ldb st cx (FmtA.ofWord w) [])
  | 0x16 => some (.stb st cx (FmtA.ofWord w))
  | 0x17 => some (.flags st cx (FmtA.ofWord w))
  | 0x20 => some (.br st cx (FmtC.ofWord w))
  | 0x21 => some (.jr st cx (FmtC.ofWord w))
  | 0x22 => some (.call st cx (FmtC.ofWord w))
  | 0x24 => some (.loop st cx (FmtC.ofWord w))
  | 0x25 => some (.loopi st cx (FmtC.ofWord w))
  | 0x26 => some (.lbrk st cx (FmtC.ofWord w))
  | 0x27 => some (.endInst st cx (FmtC.ofWord w))
  | 0x30 => some (.tset st cx (FmtA.ofWord w))
  | 0x31 => some (.tget st cx (FmtA.ofWord w))
  | 0x32 => some (.tld st cx (FmtA.ofWord w))
  | 0x33 => some (.tst st cx (FmtA.ofWord w))
  | 0x34 => some (.tmov st cx (FmtA.ofWord w))
  | 0x35 => some (.tadv st cx (FmtA.ofWord w))
  | 0x40 => some (.pass st cx (FmtA.ofWord w))
  | 0x41 => some (.wld st cx (FmtA.ofWord w))
  | 0x42 => some (.ascl st cx (FmtA.ofWord w))
  | 0x43 => some (.dctw st cx (FmtA.ofWord w))
  | 0x44 => some (.satm st cx (FmtA.ofWord w))
  | 0x45 => some (.splt st cx (FmtA.ofWord w))
  | 0x50 => some (.vld st cx (FmtA.ofWord w) [])
  | 0x51 => some (.vst st cx (FmtA.ofWord w))
  | 0x52 => some (.vldc st cx (FmtA.ofWord w) [])
  | 0x53 => some (.vstc st cx (FmtA.ofWord w))
  | 0x54 => some (.vbc st cx (FmtA.ofWord w))
  | 0x55 => some (.vlane st cx (FmtA.ofWord w))
  | 0x56 => some (.vadd st cx (FmtA.ofWord w))
  | 0x57 => some (.vsub st cx (FmtA.ofWord w))
  | 0x58 => some (.vmul st cx (FmtA.ofWord w))
  | 0x59 => some (.vfma st cx (FmtA.ofWord w))
  | 0x5A => some (.vmax st cx (FmtA.ofWord w))
  | 0x5B => some (.vmin st cx (FmtA.ofWord w))
  | 0x5C => some (.vlog st cx (FmtA.ofWord w))
  | 0x5D => some (.vsh st cx (FmtA.ofWord w))
  | 0x5E => some (.vcmp st cx (FmtA.ofWord w))
  | 0x5F => some (.vsel st cx (FmtA.ofWord w))
  | 0x60 => some (.vcvt st cx (FmtA.ofWord w))
  | 0x61 => some (.vsfu st cx (FmtA.ofWord w))
  | 0x62 => some (.vred st cx (FmtA.ofWord w))
  | 0x63 => some (.vrmax st cx (FmtA.ofWord w))
  | 0x64 => some (.vexpd st cx (FmtA.ofWord w))
  | 0x68 => some (.vsca st cx (FmtA.ofWord w))
  | 0x69 => some (.vscf st cx (FmtA.ofWord w))
  | 0x6A => some (.vwadd st cx (FmtA.ofWord w))
  | 0x6B => some (.vwcvt st cx (FmtA.ofWord w))
  | 0x6C => some (.vwanc st cx (FmtA.ofWord w))
  | 0x6D => some (.vcvtt st cx (FmtA.ofWord w))
  | 0x80 => some (.pcopy st cx (FmtA.ofWord w))
  | 0x81 => some (.pgath st cx (FmtA.ofWord w))
  | 0x82 => some (.pwalk st cx (FmtA.ofWord w))
  | 0x83 => some (.pconv st cx (FmtA.ofWord w))
  | 0x84 => some (.psend st cx (FmtA.ofWord w))
  | 0x85 => some (.ppost st cx (FmtA.ofWord w))
  | 0x86 => some (.ptime st cx (FmtA.ofWord w))
  | 0x87 => some (.waitu st cx (FmtA.ofWord w))
  | 0x90 => some (.tkacq st cx (FmtA.ofWord w))
  | 0x91 => some (.tktry st cx (FmtA.ofWord w))
  | 0x92 => some (.tkpass st cx (FmtA.ofWord w))
  | 0x93 => some (.tkrel st cx (FmtA.ofWord w))
  | 0x94 => some (.tkwait st cx (FmtA.ofWord w))
  | 0x98 => some (.aadd st cx (FmtA.ofWord w))
  | 0x99 => some (.amin st cx (FmtA.ofWord w))
  | 0x9A => some (.amax st cx (FmtA.ofWord w))
  | 0x9B => some (.acas st cx (FmtA.ofWord w))
  | 0x9C => some (.awadd st cx (FmtA.ofWord w))
  | 0x9D => some (.atens st cx (FmtA.ofWord w))
  | 0x9F => some (.mfen st cx (FmtA.ofWord w))
  | 0xA0 => some (.mark st cx (FmtA.ofWord w))
  | 0xA1 => some (.time st cx (FmtA.ofWord w))
  | 0xA2 => some (.cyc st cx (FmtA.ofWord w))
  | _ => none

end Sys2Proof
end

