-- ==== Sys2Proof/Config.lean ====
section
/-! DEFINITION. What an implementation fixes and the values the spec leaves open: constants without a body, so that no
proof can see a value of them. Each is named in a row of notes/assumptions. -/

namespace Sys2Proof.Config

/-- FREE VALUE. Nanoseconds interpolated between two slow-clock ticks at the n-th time reading (R392); used modulo 40. -/
opaque fineNs : Nat → Nat

/-- FREE VALUE. A stall's cycle count advances by this much between two readings (R121, CYC). -/
opaque cycles : Nat → Nat

/-- FREE VALUE. The approximation the special-function block gives for a function code and an FP32 operand (R140);
used only where it meets the accuracy of Table 5-12. -/
opaque sfu : Nat → W32 → W32

/-- FREE VALUE. The approximation of VEXPD for an FP32 operand and an INT32 operand (R141); used only within its accuracy. -/
opaque vexpd : W32 → W32 → W32

/-- FREE VALUE. The ceiling that VSCF reports for a tensor of zeros alone, by the descriptors of its operands (R99 gives none; R139 makes it
depend on them alone). -/
opaque zeroCeil : BitVec 512 → BitVec 512 → W64

/-- FREE VALUE. SHA-384 of a byte string, 48 bytes (R521, R529): a fixed function of its operand. -/
opaque sha384 : List Byte → List Byte

/-- The manufacturing record that the maker wrote when it sealed the device (R522): what it says is not in the spec. -/
opaque sealRecord : List Byte

/-- FREE VALUE. Whether a signature over a message verifies under an algorithm and a key (R516 to R529). -/
opaque verify : Nat → List Byte → List Byte → List Byte → Bool

/-- FREE VALUE. The chip's own signature over a message with its identity key, under an algorithm (R519 to R522). -/
opaque sign : Nat → List Byte → List Byte

/-- FREE VALUE. The n-th nonce of the security block (R524), 32 bytes. -/
opaque nonce : Nat → List Byte

/-- FREE VALUE. The body of an SPDM answer, by a free index, what the request says and what the answer holds (R519 leaves the form to DSP0274). -/
opaque spdmBody : Nat → List Nat → List Byte → List Byte

/-- FREE VALUE. The answers of PLDM discovery by command, those of Type 2's commands that say something of the repository or the sensors
rather than read one, and the PDRs of the fixed repository by handle; none for a command or a handle that does not exist (R553 leaves
their form to DMTF's documents). -/
opaque pldmBase : Nat → Option (List Byte)
opaque pldmType2 : Nat → Option (List Byte)
opaque pldmPdr : Nat → Option (List Byte)

/-- FREE VALUE. How the numbers that a measurement block holds are laid out before they are hashed, by the block's index; the security ROM
and the images as shipped (R520 names the contents and gives no layout). -/
opaque measured : Nat → List Nat → List Byte
opaque securityRom : List Byte
opaque shippedImage : Nat → List Byte

/-- FREE VALUE. What the requester of a session signs in FINISH (R519; DSP0274's transcript), by the session. -/
opaque spdmTranscript : Nat → List Byte

/-- FREE VALUE. What a scan of a chain over JTAG shifts out, by a free index and the chain (R555). -/
opaque scanChain : Nat → Nat → Nat

/-- FREE VALUE. The reservations of a station for answers and acknowledgements beside its first (R306 names no number), by the station. -/
opaque replyPlaces : Nat → Nat

/-- FREE VALUE. The flits of a lane that may be on their way to a controller beside those of its station's own input buffer (R303: the
routers on the way hold 32 each, and the controller's queue has no number), by the controller and the lane. -/
opaque laneFlits : Nat → Nat → Nat

/-- FREE VALUE. A 64-bit value where the spec gives an operation a result and does not state it. -/
opaque anyWord : Nat → W64

/-- FREE VALUE. A byte where the spec leaves a byte's content open. -/
opaque anyByte : Nat → Byte

/-- FREE VALUE. The 64 bytes of a retained copy's section header for a stall, its lowest split and number of splits, and the row range of
each bay (R458 names what it gives and not where). -/
opaque dumpSection : Nat → Nat → Nat → List (Option (Nat × Nat)) → List Byte

/-- FREE VALUE. The maker's public key of a scheme, which MAKER_ROOT vouches for (R516, R524, R527). -/
opaque makerKey : Nat → List Byte

/-- FREE VALUE. The payload bytes of a security command for its numbers and its key, and the bytes of a response beside what the spec
places (Table 21-5 names their fields and gives no layout). -/
opaque secPayload : Nat → List Nat → List Byte → List Byte
opaque secReply : Nat → List Nat → List Byte

/-- FREE VALUE. The fixed hash that picks a link of a port for a source, destination and mailbox (R424). -/
opaque linkHash : Nat → Nat → Nat → Nat

/-- FREE VALUE. The ARG of a window request for its window, first row, bytes and direction, and its reading (R421 gives the
request's operands and not the layout of ARG). -/
opaque wreqArg : Nat → Nat → Nat → Bool → W64
opaque wreqFields : W64 → Nat × Nat × Nat × Bool

/-- FREE VALUE. The stocktake's units: how many, the 8 bytes that begin a unit's section header, and its shadow words (R468,
R470 name what is read and not its extent). -/
opaque shadowUnits : Nat
opaque shadowHead : Nat → List Byte
opaque shadowWords : Nat → List W64

/-- FREE VALUE. The steering rate a slew takes, in 2^-32 ns per tick (R395 bounds it and no rule gives it). -/
opaque slew : Nat → Int

/-- FREE VALUE. How a TSYNC reply carries t2, t3, STATE and HOPS (R397 names them and gives no layout), and its reading. -/
opaque tsyncReply : Nat → Nat → Nat → Nat → List Byte
opaque tsyncFields : List Byte → Nat × Nat × Nat × Nat

/-- FREE VALUE. What a byte of an erased slot reads as (R526 erases a slot and does not say to what). -/
opaque erasedByte : Nat → Byte

/-- FREE VALUE. The vendor identifier (Table 22-3 does not number it), and what a register of configuration space that Table 22-3 does not
give reads as, by a free index, the function and the register's offset. -/
opaque vendorId : Nat
opaque cfgRead : Nat → Nat → Nat → Nat

/-- FREE VALUE. The identification code that IDCODE returns (R516 gives none). -/
opaque idcode : Nat

end Sys2Proof.Config
end

