-- ==== Sys2Proof/Machine/Formats.lean ====
section
/-! DEFINITION. The arithmetic of the number formats: exact values, element encodings, rounding, overflow, the
stochastic-rounding generator, block and slab scales, CRC-32 and the check residues (spec 02, 03 R85, 04 R98, R104). -/

namespace Sys2Proof

/-- A number as the FK2's arithmetic sees it: a sign, a magnitude `m × 2^e`, or a non-finite value.
A zero magnitude keeps its sign (R30). -/
inductive FNum where
  | nan
  | inf (neg : Bool)
  | fin (neg : Bool) (m : Nat) (e : Int)
  deriving DecidableEq, Repr

/-- An exact dyadic value `m × 2^e`. -/
structure Dy where
  m : Int
  e : Int
  deriving DecidableEq, Repr

namespace Dy
/-- Zero. -/
def zero : Dy := ⟨0, 0⟩
/-- `m` and `e` with the exponent lowered to `e'` (no more than `e`). -/
def mantAt (a : Dy) (e' : Int) : Int := a.m * 2 ^ (a.e - e').toNat
/-- The exact sum. -/
def add (a b : Dy) : Dy :=
  let e := min a.e b.e
  ⟨a.mantAt e + b.mantAt e, e⟩
/-- The exact product. -/
def mul (a b : Dy) : Dy := ⟨a.m * b.m, a.e + b.e⟩
/-- The negation. -/
def neg (a : Dy) : Dy := ⟨-a.m, a.e⟩
/-- The exact difference. -/
def sub (a b : Dy) : Dy := a.add b.neg
/-- The value times a power of two. -/
def scale (a : Dy) (k : Int) : Dy := ⟨a.m, a.e + k⟩
/-- Strictly less. -/
def lt (a b : Dy) : Bool :=
  let e := min a.e b.e
  decide (a.mantAt e < b.mantAt e)
/-- At most. -/
def le (a b : Dy) : Bool := !(lt b a)
/-- The magnitude. -/
def abs (a : Dy) : Dy := ⟨a.m.natAbs, a.e⟩
/-- A sum of values. -/
def sum (l : List Dy) : Dy := l.foldl add zero
/-- The power of two `2^k`. -/
def pow2 (k : Int) : Dy := ⟨1, k⟩
/-- The exponent of the leading bit of a non-zero magnitude: `⌊log2 |a|⌋`. -/
def log2 (a : Dy) : Int := (Nat.log2 a.m.natAbs : Int) + a.e
/-- `⌈log2 |a|⌉` of a non-zero magnitude. -/
def clog2 (a : Dy) : Int :=
  let n := Nat.log2 a.m.natAbs
  if 2 ^ n = a.m.natAbs then (n : Int) + a.e else (n : Int) + 1 + a.e
/-- `⌊a⌋`. -/
def floor (a : Dy) : Int := if 0 ≤ a.e then a.m * 2 ^ a.e.toNat else a.m.fdiv (2 ^ (-a.e).toNat)
/-- `⌈a⌉`. -/
def ceil (a : Dy) : Int := -(floor a.neg)
end Dy

/-- The exact value of a finite number. -/
def FNum.toDy : FNum → Dy
  | .fin neg m e => ⟨if neg then -(m : Int) else m, e⟩
  | _ => Dy.zero

/-- A number from an exact value, zero taking the sign given. -/
def FNum.ofDy (zeroNeg : Bool) (a : Dy) : FNum :=
  if a.m = 0 then .fin zeroNeg 0 0 else .fin (decide (a.m < 0)) a.m.natAbs a.e

/-- Whether a number is finite. -/
def FNum.isFin : FNum → Bool
  | .fin _ _ _ => true
  | _ => false

/-- Whether a number is zero. -/
def FNum.isZero : FNum → Bool
  | .fin _ m _ => m == 0
  | _ => false

/-- Whether a number is NaN. -/
def FNum.isNaN : FNum → Bool
  | .nan => true
  | _ => false

/-- The sign bit of a number; NaN counts as positive (R55). -/
def FNum.sign : FNum → Bool
  | .nan => false
  | .inf n => n
  | .fin n _ _ => n

/-- Negation. -/
def FNum.negate : FNum → FNum
  | .nan => .nan
  | .inf n => .inf (!n)
  | .fin n m e => .fin (!n) m e

/-- The IEEE 754 product, exact (R137). -/
def FNum.mul : FNum → FNum → FNum
  | .nan, _ => .nan
  | _, .nan => .nan
  | .inf n, .inf k => .inf (n != k)
  | .inf n, .fin k m _ => if m = 0 then .nan else .inf (n != k)
  | .fin n m _, .inf k => if m = 0 then .nan else .inf (n != k)
  | .fin n m e, .fin k m' e' => .fin (n != k) (m * m') (e + e')

/-- The IEEE 754 sum, exact; an exact zero of opposite signs is +0 (R137). -/
def FNum.add : FNum → FNum → FNum
  | .nan, _ => .nan
  | _, .nan => .nan
  | .inf n, .inf k => if n = k then .inf n else .nan
  | .inf n, .fin _ _ _ => .inf n
  | .fin _ _ _, .inf k => .inf k
  | .fin n m e, .fin k m' e' =>
    if m = 0 ∧ m' = 0 then .fin (n && k) 0 0
    else FNum.ofDy false (Dy.add (FNum.toDy (.fin n m e)) (FNum.toDy (.fin k m' e')))

/-! ### Element encodings (R27) -/

/-- A binary floating-point encoding. `lastExp` says how its top exponent code is used. -/
structure FpFmt where
  /-- exponent bits -/
  eb : Nat
  /-- mantissa bits -/
  mb : Nat
  bias : Int
  /-- the format has infinities and NaNs in the top exponent code -/
  ieee : Bool
  /-- the all-ones code is NaN and nothing else is non-finite (FP8 E4M3) -/
  onesNaN : Bool
  deriving DecidableEq, Repr

/-- The element formats of Table 2-1. -/
inductive Elem where
  | fp4 | fp6e2m3 | fp6e3m2 | fp8e4m3 | fp8e5m2 | int4 | int8 | bf16 | fp32
  deriving DecidableEq, Repr

/-- The layout of a floating-point element format; none for the integers (Table 2-1). -/
def Elem.fp : Elem → Option FpFmt
  | .fp4 => some ⟨2, 1, 1, false, false⟩
  | .fp6e2m3 => some ⟨2, 3, 1, false, false⟩
  | .fp6e3m2 => some ⟨3, 2, 3, false, false⟩
  | .fp8e4m3 => some ⟨4, 3, 7, false, true⟩
  | .fp8e5m2 => some ⟨5, 2, 15, true, false⟩
  | .bf16 => some ⟨8, 7, 127, true, false⟩
  | .fp32 => some ⟨8, 23, 127, true, false⟩
  | .int4 => none
  | .int8 => none

/-- Bits of an element. -/
def Elem.width : Elem → Nat
  | .fp4 => 4 | .int4 => 4 | .fp6e2m3 => 6 | .fp6e3m2 => 6
  | .fp8e4m3 => 8 | .fp8e5m2 => 8 | .int8 => 8 | .bf16 => 16 | .fp32 => 32

/-- The value of a floating-point code (R27). -/
def FpFmt.decode (f : FpFmt) (code : Nat) : FNum :=
  let m := code % 2 ^ f.mb
  let e := (code / 2 ^ f.mb) % 2 ^ f.eb
  let neg := bit code (f.mb + f.eb)
  if f.ieee && e == 2 ^ f.eb - 1 then (if m = 0 then .inf neg else .nan)
  else if f.onesNaN && e == 2 ^ f.eb - 1 && m == 2 ^ f.mb - 1 then .nan
  else if e = 0 then .fin neg m (1 - f.bias - f.mb)
  else .fin neg (2 ^ f.mb + m) ((e : Int) - f.bias - f.mb)

/-- The value of an element code; a negative zero of a narrow format reads as zero (R27, R30, R32). -/
def Elem.decode (el : Elem) (code : Nat) : FNum :=
  match el.fp with
  | some f =>
    match f.decode code with
    | .fin neg m e => .fin (neg && (el == .bf16 || el == .fp32 || m != 0)) m e
    | v => v
  | none => FNum.ofDy false ⟨signed el.width code, 0⟩

/-- The code of the largest finite magnitude of a floating-point format. -/
def FpFmt.maxCode (f : FpFmt) : Nat :=
  if f.ieee then (2 ^ f.eb - 2) * 2 ^ f.mb + (2 ^ f.mb - 1)
  else if f.onesNaN then (2 ^ f.eb - 1) * 2 ^ f.mb + (2 ^ f.mb - 2)
  else 2 ^ (f.eb + f.mb) - 1

/-- Emax: the largest finite magnitude of a format; 127 and 7 for the integers (R50, R32). -/
def Elem.emax (el : Elem) : Dy :=
  match el.fp with
  | some f => (f.decode f.maxCode).toDy
  | none => if el = .int4 then ⟨7, 0⟩ else ⟨127, 0⟩

/-- The canonical NaN of a format that has one (R55). -/
def Elem.nanCode : Elem → Option Nat
  | .fp8e4m3 => some 0x7F
  | .fp8e5m2 => some 0x7E
  | .bf16 => some 0x7FC0
  | .fp32 => some 0x7FC00000
  | _ => none

/-- The code of infinity of a format that has one. -/
def Elem.infCode : Elem → Option Nat
  | .fp8e5m2 => some 0x7C
  | .bf16 => some 0x7F80
  | .fp32 => some 0x7F800000
  | _ => none

/-- The rounding modes (R54). -/
inductive RMode where
  | rne | rtz | sr
  deriving DecidableEq, Repr

/-- The rounding mode of a 2-bit field; 3 is reserved (R54). -/
def RMode.ofCode : Nat → Option RMode
  | 0 => some .rne
  | 1 => some .rtz
  | 2 => some .sr
  | _ => none

/-- A magnitude `m × 2^e` rounded to a multiple of `2^q`: the multiple (R54, R56). `r` is the 24 random bits. -/
def roundMag (md : RMode) (r : Nat) (m : Nat) (e q : Int) : Nat :=
  if q ≤ e then m * 2 ^ (e - q).toNat
  else
    let d := 2 ^ (q - e).toNat
    let lo := m / d
    let rem := m % d
    if rem = 0 then lo
    else match md with
      | .rtz => lo
      | .rne =>
        if 2 * rem < d then lo
        else if d < 2 * rem then lo + 1
        else if lo % 2 = 0 then lo else lo + 1
      | .sr => if 2 ^ 24 ≤ rem * 2 ^ 24 / d + r then lo + 1 else lo

/-- A finite non-zero magnitude rounded into a floating-point format: its code without sign, or none when it lies beyond
the largest finite magnitude. -/
def FpFmt.roundCode (f : FpFmt) (md : RMode) (r : Nat) (m : Nat) (e : Int) : Option Nat :=
  let lsb := 1 - f.bias - f.mb
  let q := max ((Nat.log2 m : Int) + e - f.mb) lsb
  let n := roundMag md r m e q
  let (n, q) := if 2 ^ (f.mb + 1) ≤ n then (n / 2, q + 1) else (n, q)
  let code := if n < 2 ^ f.mb then n else ((q - lsb + 1).toNat) * 2 ^ f.mb + (n - 2 ^ f.mb)
  if code ≤ f.maxCode then some code else none

/-- What a conversion writes and whether it sets NONFINITE (R54, R55). -/
def Elem.encode (el : Elem) (md : RMode) (nonsat : Bool) (r : Nat) (v : FNum) : Nat × Bool :=
  let signBit := fun (neg : Bool) => b2n neg * 2 ^ (el.width - 1)
  match el.fp with
  | some f =>
    match v with
    | .nan => match el.nanCode with
      | some c => (c, false)
      | none => (0, true)
    | .inf neg => match el.infCode with
      | some c => (signBit neg + c, false)
      | none =>
        if f.onesNaN && nonsat then (0x7F, true) else (signBit neg + f.maxCode, true)
    | .fin neg m e =>
      let keep := el == .bf16 || el == .fp32
      if m = 0 then ((if keep then signBit neg else 0), false)
      else match f.roundCode md r m e with
        | some c => ((if c = 0 then (if keep then signBit neg else 0) else signBit neg + c), false)
        | none =>
          if nonsat then
            match el.infCode with
            | some c => (signBit neg + c, false)
            | none => if f.onesNaN then (0x7F, false) else (signBit neg + f.maxCode, false)
          else (signBit neg + f.maxCode, false)
  | none =>
    let top : Nat := if el = .int4 then 7 else 127
    let put := fun (neg : Bool) (n : Nat) => lowBits el.width (if neg then -(n : Int) else (n : Int))
    match v with
    | .nan => (0, true)
    | .inf neg => (put neg top, true)
    | .fin neg m e => if m = 0 then (0, false) else (put neg (min top (roundMag md r m e 0)), false)

/-! ### Stochastic rounding (R57) -/

/-- The mixing step of the generator. -/
def srMix (x : W64) : W64 :=
  let x := x + 0x9E3779B97F4A7C15#64
  let x := (x ^^^ (x >>> 30)) * 0xBF58476D1CE4E5B9#64
  let x := (x ^^^ (x >>> 27)) * 0x94D049BB133111EB#64
  x ^^^ (x >>> 31)

/-- The 24 random bits of an element (R57). -/
def srBits (seed : W64) (tag : Half) (index : Nat) : Nat :=
  let counter : W64 := BitVec.ofNat 64 (tag.toNat * 2 ^ 48 + index % 2 ^ 48)
  (srMix (srMix seed ^^^ counter)).toNat / 2 ^ 40

/-! ### Scales (R36, R37, R45) -/

/-- The value of a UE5M3 block scale (R36). -/
def ue5m3 (code : Nat) : Dy :=
  let e := (code % 256) / 8
  let m := code % 8
  if e = 0 then ⟨m, -17⟩ else ⟨8 + m, (e : Int) - 18⟩

/-- The smallest UE5M3 code whose value is at least `x / y` for positive `x` and `y` (R50 step 3). -/
def ue5m3AtLeast (x y : Dy) : Nat :=
  ((List.range 255).find? (fun c => decide (c ≠ 0) && Dy.le x (Dy.mul (ue5m3 c) y))).getD 255

/-- The value of a slab scale, or none when it breaks R37. -/
def slabScale (code : Half) : Option Dy :=
  match Elem.bf16.decode code.toNat with
  | .fin neg m e => if m = 0 then some Dy.zero else if neg then none else some ⟨m, e⟩
  | _ => none

/-- The BF16 code of the power of two `2^k`, for `-133 ≤ k ≤ 127`. -/
def bf16Pow2 (k : Int) : Half :=
  if -126 ≤ k then BitVec.ofNat 16 ((k + 127).toNat * 128) else BitVec.ofNat 16 (2 ^ (k + 133).toNat)

/-- The exponent `k` of a BF16 code that is exactly `2^k`, normal or subnormal (R77). -/
def bf16Log2 (code : Half) : Option Int :=
  match Elem.bf16.decode code.toNat with
  | .fin neg m e =>
    if neg || m == 0 then none
    else if 2 ^ Nat.log2 m = m then some ((Nat.log2 m : Int) + e) else none
  | _ => none

/-! ### Format codes (R33) -/

/-- How a tensor's format is built (Table 2-2). -/
inductive Fam where
  | plain | fb | mx | wide
  deriving DecidableEq, Repr

/-- A listed format code: its family and its element encoding. A WIDE tensor has no element encoding of its own;
its entry holds FP32 there and nothing reads it. -/
structure Fmt where
  fam : Fam
  el : Elem
  deriving DecidableEq, Repr

/-- The formats of Table 2-2; every other code is reserved. -/
def Fmt.ofCode : Nat → Option Fmt
  | 0x01 => some ⟨.plain, .fp32⟩
  | 0x02 => some ⟨.plain, .bf16⟩
  | 0x10 => some ⟨.plain, .fp8e4m3⟩
  | 0x11 => some ⟨.plain, .fp8e5m2⟩
  | 0x12 => some ⟨.plain, .int8⟩
  | 0x14 => some ⟨.plain, .fp6e2m3⟩
  | 0x15 => some ⟨.plain, .fp6e3m2⟩
  | 0x18 => some ⟨.plain, .fp4⟩
  | 0x19 => some ⟨.plain, .int4⟩
  | 0x20 => some ⟨.fb, .fp8e4m3⟩
  | 0x21 => some ⟨.fb, .fp8e5m2⟩
  | 0x22 => some ⟨.fb, .int8⟩
  | 0x24 => some ⟨.fb, .fp6e2m3⟩
  | 0x25 => some ⟨.fb, .fp6e3m2⟩
  | 0x28 => some ⟨.fb, .fp4⟩
  | 0x29 => some ⟨.fb, .int4⟩
  | 0x30 => some ⟨.mx, .fp8e4m3⟩
  | 0x31 => some ⟨.mx, .fp8e5m2⟩
  | 0x32 => some ⟨.mx, .int8⟩
  | 0x34 => some ⟨.mx, .fp6e2m3⟩
  | 0x35 => some ⟨.mx, .fp6e3m2⟩
  | 0x38 => some ⟨.mx, .fp4⟩
  | 0x40 => some ⟨.wide, .fp32⟩
  | _ => none

/-- The code of a format. -/
def Fmt.toCode (f : Fmt) : Nat :=
  match f.fam with
  | .wide => 0x40
  | .plain => match f.el with
    | .fp32 => 0x01 | .bf16 => 0x02 | .fp8e4m3 => 0x10 | .fp8e5m2 => 0x11 | .int8 => 0x12
    | .fp6e2m3 => 0x14 | .fp6e3m2 => 0x15 | .fp4 => 0x18 | .int4 => 0x19
  | .fb => match f.el with
    | .fp8e4m3 => 0x20 | .fp8e5m2 => 0x21 | .int8 => 0x22 | .fp6e2m3 => 0x24 | .fp6e3m2 => 0x25
    | .fp4 => 0x28 | .int4 => 0x29 | .bf16 => 0 | .fp32 => 0
  | .mx => match f.el with
    | .fp8e4m3 => 0x30 | .fp8e5m2 => 0x31 | .int8 => 0x32 | .fp6e2m3 => 0x34 | .fp6e3m2 => 0x35
    | .fp4 => 0x38 | .int4 => 0 | .bf16 => 0 | .fp32 => 0

/-- The size of a scale record of a family by its element width (Table 2-5). -/
def recordSize (el : Elem) : Nat :=
  match el.width with
  | 8 => 168
  | 6 => 216
  | _ => 296

/-- Bytes of a block of 32 elements. -/
def blockBytes (el : Elem) : Nat := 4 * el.width

/-- Block `b0` and slab `s0` that first start in segment `i` (R42). -/
def firstBlock (el : Elem) (i : Nat) : Nat := ceilDiv (4096 * i) (blockBytes el)
def firstSlab (el : Elem) (i : Nat) : Nat := ceilDiv (4096 * i) (16 * blockBytes el)

/-! ### The till's constants (R98, R100) -/

/-- The element exponent of Table 4-1; BF16 is bounded by the descriptor's CEIL. -/
def Elem.ex : Elem → Int → Int
  | .fp4, _ => 3 | .int4, _ => 3 | .fp6e2m3, _ => 3 | .fp6e3m2, _ => 5 | .int8, _ => 7
  | .fp8e4m3, _ => 9 | .fp8e5m2, _ => 16 | .bf16, ceil => ceil | .fp32, ceil => ceil

/-- The index of a till rounding (R104). -/
def tillIndex (e b' : Nat) : Nat := (e % 2 ^ 27) * 2 ^ 21 + b'

/-- A value rounded into the window of anchor `A`: the integer T whose unit is `2^(A - 126)` (R103, R104). -/
def tillRound (seed : W64) (outTag : Half) (A : Int) (e b' : Nat) (x : Dy) : Int :=
  let r := srBits seed (~~~ outTag) (tillIndex e b')
  let n := roundMag .sr r x.m.natAbs x.e (A - 126)
  if x.m < 0 then -(n : Int) else n

/-- The largest till integer; the least is its complement (R96). -/
def tMax : Int := 2 ^ 127 - 1
def tMin : Int := -(2 ^ 127)

/-- The integer held inside the till's range, and whether it saturated (R107). -/
def tillClamp (t : Int) : Int × Bool :=
  if tMax < t then (tMax, true) else if t < tMin then (tMin, true) else (t, false)

/-! ### Check residues (R85) -/

/-- The modulus `2^61 - 1`. -/
def m61 : Nat := 2 ^ 61 - 1

/-- The residue of a dyadic value (R85). -/
def rho (a : Dy) : Nat :=
  let r := ((a.m.natAbs % m61) * 2 ^ (a.e % 61).toNat) % m61
  if a.m < 0 then (m61 - r) % m61 else r

/-- The residue sum. -/
def rhoAdd (a b : Nat) : Nat := (a + b) % m61
/-- The residue difference. -/
def rhoSub (a b : Nat) : Nat := (a + (m61 - b % m61)) % m61
/-- The residue product. -/
def rhoMul (a b : Nat) : Nat := (a * b) % m61

/-! ### CRC-32 (R41) -/

/-- One bit of the reflected CRC-32 register. -/
def crcBit (c : W32) : W32 := if c.getLsbD 0 then (c >>> 1) ^^^ 0xEDB88320#32 else c >>> 1

/-- One byte of the CRC-32. -/
def crcByte (c : W32) (b : Byte) : W32 :=
  crcBit (crcBit (crcBit (crcBit (crcBit (crcBit (crcBit (crcBit (c ^^^ b.zeroExtend 32))))))))

/-- The CRC-32 of IEEE 802.3 (R41). -/
def crc32 (bs : List Byte) : W32 := (bs.foldl crcByte 0xFFFFFFFF#32) ^^^ 0xFFFFFFFF#32

/-! ### Sub-byte packing (R29) -/

/-- The codes of a packed stream of `n` elements of a given width, least significant bit first. -/
def unpackCodes (w : Nat) (bs : List Byte) (n : Nat) : List Nat :=
  let v := leNat bs
  (List.range n).map (fun i => (v / 2 ^ (w * i)) % 2 ^ w)

/-- The bytes of a packed stream of codes, the last byte filled with zeros. -/
def packCodes (w : Nat) (codes : List Nat) : List Byte :=
  let v := codes.foldr (fun c acc => c % 2 ^ w + acc * 2 ^ w) 0
  leBytes (ceilDiv (w * codes.length) 8) v

end Sys2Proof
end

