-- ==== Sys2Proof/Machine/Tab.lean ====
section
/-! DEFINITION. Sparse tables: lists of key and value pairs in one canonical form (keys strictly rising, no entry equal
to what an unlisted key reads as), and the operations that read and write them. -/

namespace Sys2Proof

/-- A sparse table by number. `Tab Byte` is a list of `Host.Cell`. -/
abbrev Tab (α : Type) := List (Nat × α)

variable {α : Type}

/-- The entry of a key, if it is listed. -/
def Tab.find : Tab α → Nat → Option α
  | [], _ => none
  | (k', v) :: t, k => if k = k' then some v else Tab.find t k

/-- What a key reads as: its entry, or the default `d`. -/
def Tab.get (d : α) (t : Tab α) (k : Nat) : α := (Tab.find t k).getD d

/-- The table with the entry of a key put in its place. -/
def Tab.put : Tab α → Nat → α → Tab α
  | [], k, v => [(k, v)]
  | (k', v') :: t, k, v =>
    if k < k' then (k, v) :: (k', v') :: t
    else if k = k' then (k, v) :: t
    else (k', v') :: Tab.put t k v

/-- The table with a key unlisted. -/
def Tab.del : Tab α → Nat → Tab α
  | [], _ => []
  | (k', v') :: t, k => if k = k' then t else (k', v') :: Tab.del t k

/-- The table with a key set: a value equal to the default unlists the key. -/
def Tab.set [DecidableEq α] (d : α) (t : Tab α) (k : Nat) (v : α) : Tab α :=
  if v = d then Tab.del t k else Tab.put t k v

/-- Keys strictly rising. -/
def Tab.rising : Tab α → Bool
  | [] => true
  | [_] => true
  | (k, _) :: (k', v') :: t => decide (k < k') && Tab.rising ((k', v') :: t)

/-- The canonical form of a table with default `d`. -/
def Tab.wf [DecidableEq α] (d : α) (t : Tab α) : Bool :=
  Tab.rising t && t.all (fun p => decide (p.2 ≠ d))

/-- The table changed at one key by a function of what it reads as. -/
def Tab.modify [DecidableEq α] (d : α) (t : Tab α) (k : Nat) (f : α → α) : Tab α :=
  Tab.set d t k (f (Tab.get d t k))

/-- The `n` values read at keys `k`, `k + 1`, … -/
def Tab.getRange (d : α) (t : Tab α) (k : Nat) : Nat → List α
  | 0 => []
  | n + 1 => Tab.get d t k :: Tab.getRange d t (k + 1) n

/-- The table with a list of values written at keys `k`, `k + 1`, … -/
def Tab.setRange [DecidableEq α] (d : α) (t : Tab α) (k : Nat) : List α → Tab α
  | [] => t
  | v :: vs => Tab.setRange d (Tab.set d t k v) (k + 1) vs

/-- The table with every key of a range reading as the default. -/
def Tab.clearRange (t : Tab α) (lo hi : Nat) : Tab α :=
  t.filter (fun p => !(decide (lo ≤ p.1) && decide (p.1 < hi)))

end Sys2Proof
end

