-- ==== Sys2Proof/Machine/TypesMem.lean ====
section
/-! DEFINITION. The state of device memory and its controllers (spec 11). -/

namespace Sys2Proof.Machine

/-- Who made a memory request. -/
inductive MemClient where
  /-- a sequencer context: stall, context, launch -/
  | ctx (stall ctx launch : Nat)
  /-- the host through a function's set-up window -/
  | host (fn : Nat)
  deriving DecidableEq, Repr

/-- The memory-side operations (Table 11-6). -/
inductive AtomOp where
  | addF32 | addBf16 | addI32 | addI64 | minF32 | minBf16 | minI32 | minI64
  | maxF32 | maxBf16 | maxI32 | maxI64 | cas | addTill
  deriving DecidableEq, Repr

/-- What a memory request asks for. Registers are those of the requesting context; register 0 of an atomic is none. -/
inductive MemKind where
  | load (reg : Nat)
  | loadT (reg : Nat)
  | store (bytes : List Byte)
  | atom (op : AtomOp) (reg : Nat) (x y : W64)
  | hostWrite (bytes : List Byte) (poison : Bool)
  deriving DecidableEq, Repr

/-- Where a device address lands: a unit and an offset in it, and the replica's place for a replicated region. -/
structure Place where
  unit : Nat
  off : Nat
  replica : Option (Nat × Nat)
  region : Option Nat
  deriving DecidableEq, Repr

/-- What a controller answers to a request it has served: the bytes, whether they are poisoned, and the saturation bit of
a till-format add (R117). -/
structure MemAns where
  bytes : List Byte
  poison : Bool
  sat : Bool
  deriving DecidableEq, Repr

/-- A request on its way to a controller, or served and on its way back. -/
structure MemReq where
  id : Nat
  client : MemClient
  pitch : Nat
  pc : W64
  /-- the opcode of the instruction that made it, 0 for the host's -/
  op : Nat
  kind : MemKind
  addr : W64
  place : Place
  /-- the answer, once the controller has served it -/
  served : Option MemAns
  deriving DecidableEq, Repr

/-- The states of a common-stock region (Table 11-9). -/
inductive CsState where
  | off | load | sealed | quarantined
  deriving DecidableEq, Repr

/-- The code of a region state. -/
def CsState.code : CsState → Nat
  | .off => 0 | .load => 1 | .sealed => 2 | .quarantined => 3

/-- A common-stock region beside its registers (R287, R289). -/
structure CsRegion where
  state : CsState
  /-- a SEAL or EN change that waits for launches to end: the SEAL and EN asked for -/
  held : Option (Bool × Bool)
  deriving DecidableEq, Repr

/-- A region that is off. -/
def CsRegion.reset : CsRegion := ⟨.off, none⟩

/-- An HBM stack (Table 11-13): step 0 NORMAL to 3 SHUTDOWN, temperature in 1/8 °C, powered, and the time of its latest step. -/
structure Stack where
  step : Nat
  temp : BitVec 12
  off : Bool
  since : W64
  deriving DecidableEq, Repr

/-- A stack at power-on. -/
def Stack.reset : Stack := ⟨0, 0, false, 0⟩

/-- The power state of a memory unit (R503). -/
inductive UnitPwr where
  | active | powerDown | selfRefresh
  deriving DecidableEq, Repr

/-- A table slot of the Packer in use by a launch's block or encoding write (R255, R256): the launch, the stall, the unit (ENGINE of
Table 7-5), the pitch, the slot, and whether the slot is being built. -/
structure EntUse where
  launch : Nat
  stall : Nat
  unit : Nat
  pitch : Nat
  slot : Nat
  building : Bool
  deriving DecidableEq, Repr

/-- Device memory and its controllers. -/
structure Mem where
  /-- bytes by unit × 2^35 + unit offset -/
  bytes : Tab Byte
  /-- lines whose poison differs from what `lost` says of them, by the byte key divided by 64 -/
  poison : Tab Bool
  /-- ranges of lines that were poisoned whole (R292) or cleared whole since, the latest first: first line, number of lines, poisoned -/
  lost : List (Nat × Nat × Bool)
  /-- cached translation entries, by pitch × 2^27 + page (R271) -/
  tlb : Tab W64
  reqs : List MemReq
  /-- lines in the atomic buffers, by line key, in order of arrival (R279) -/
  atomicBuf : List Nat
  regions : Vector CsRegion 16
  /-- primary lines served from the replica until the next chip reset (R291) -/
  badLines : List Nat
  patrol : Vector Nat 24
  hbms : Vector Stack 12
  pwr : Vector UnitPwr 24
  /-- pseudo-channels mapped out, bit by pseudo-channel, and capacity in GiB (R474) -/
  pchOut : Vector (BitVec 32) 24
  /-- those among them that the last chip reset has taken out of the capacity (R474) -/
  pchCut : Vector (BitVec 32) 24
  entUse : List EntUse
  deriving DecidableEq, Repr

/-- Whether a range of lines as a whole says that a line is poisoned. -/
def Mem.isLost (m : Mem) (k : Nat) : Bool :=
  ((m.lost.find? (fun r => decide (r.1 ≤ k) && decide (k < r.1 + r.2.1))).map (·.2.2)).getD false

/-- Whether a line is poisoned. -/
def Mem.poisoned (m : Mem) (k : Nat) : Bool := Tab.get false m.poison k != m.isLost k

/-- Memory with a line poisoned, or not. -/
def Mem.setPoison (m : Mem) (k : Nat) (v : Bool) : Mem := { m with poison := Tab.set false m.poison k (v != m.isLost k) }

/-- Memory with a range of lines poisoned or cleared as a whole. -/
def Mem.setLost (m : Mem) (a n : Nat) (v : Bool) : Mem :=
  { m with poison := Tab.clearRange m.poison a (a + n), lost := (a, n, v) :: m.lost }

/-- Whether some line of a range is poisoned. -/
def Mem.poisonIn (m : Mem) (a n : Nat) : Bool :=
  let mine := fun (k : Nat) => decide (a ≤ k) && decide (k < a + n)
  m.poison.any (fun e => mine e.1 && !m.isLost e.1)
    || m.lost.any (fun r => r.2.2 &&
      (let lo := max a r.1
       let hi := min (a + n) (r.1 + r.2.1)
       decide ((m.poison.filter (fun e => decide (lo ≤ e.1) && decide (e.1 < hi) && m.isLost e.1)).length < hi - lo)))

/-- Device memory at power-on: nothing listed. -/
def Mem.reset : Mem :=
  { bytes := [], poison := [], lost := [], tlb := [], reqs := [], atomicBuf := [], regions := Vector.replicate 16 CsRegion.reset,
    badLines := [], patrol := Vector.replicate 24 0, hbms := Vector.replicate 12 Stack.reset,
    pwr := Vector.replicate 24 .active, pchOut := Vector.replicate 24 0, pchCut := Vector.replicate 24 0, entUse := [] }

end Sys2Proof.Machine
end

