-- ==== Sys2Proof/Machine/Aisles.lean ====
section
/-! DEFINITION. The aisle network as requests meet it: stations and their places, routes, attach points, traffic classes and lanes, the
flits of a packet, and the times of a remote bay access (spec 12 R298 to R302, R311). -/

namespace Sys2Proof.Machine

/-! ### The mesh (R298, Table 12-1) -/

/-- A station of the mesh. -/
inductive Station where
  | front
  /-- attach points of the interfaces to IOD0 and IOD1 -/
  | west (k : Fin 4)
  | east (k : Fin 4)
  /-- the fuse, test and sensor station -/
  | fuse
  | mc (u : Fin 24)
  /-- a physical stall -/
  | stall (n : Fin 52)
  deriving DecidableEq, Repr

/-- Where a station sits: column and row. -/
def Station.place : Station → Nat × Nat
  | .front => (0, 0)
  | .west k => (0, k.val + 1)
  | .east k => (14, k.val + 1)
  | .fuse => (0, 5)
  | .mc u => if u.val < 12 then (u.val + 1, 0) else (u.val - 11, 5)
  | .stall n => (n.val % 13 + 1, n.val / 13 + 1)

/-- Every station. -/
def stations : List Station :=
  [.front, .fuse] ++ (List.finRange 4).map .west ++ (List.finRange 4).map .east ++ (List.finRange 24).map .mc
    ++ (List.finRange 52).map .stall

/-- The station at a router, if it has one. -/
def stationAt (x y : Nat) : Option Station := stations.find? (fun t => t.place == (x, y))

/-- The neighbours of a router, where they exist: north, east, south, west. -/
def meshLinks (x y : Nat) : List (Nat × Nat) :=
  (if 0 < y then [(x, y - 1)] else []) ++ (if x < 14 then [(x + 1, y)] else []) ++ (if y < 5 then [(x, y + 1)] else [])
    ++ (if 0 < x then [(x - 1, y)] else [])

/-! ### Routes (R300) -/

/-- The numbers from one to another, the first left out. -/
def walkTo (a b : Nat) : List Nat := if a ≤ b then (List.range (b - a)).map (a + 1 + ·) else (List.range (a - b)).map (a - 1 - ·)

/-- The routers that a packet passes after its first: along the row, then along the column. -/
def meshRoute (a b : Nat × Nat) : List (Nat × Nat) := (walkTo a.1 b.1).map (fun x => (x, a.2)) ++ (walkTo a.2 b.2).map (fun y => (b.1, y))

/-- The hops between two stations. -/
def Station.hops (a b : Station) : Nat := (meshRoute a.place b.place).length

/-- The attach point of a station towards IOD0, or IOD1. -/
def Station.attach (t : Station) (iod1 : Bool) : Station :=
  let k : Fin 4 := match t with
    | .stall n => Fin.ofNat 4 (n.val / 13)
    | .mc u => if u.val < 12 then 0 else 3
    | .west k => k
    | .east k => k
    | .front => 0
    | .fuse => 3
  if iod1 then .east k else .west k

/-! ### Traffic classes and lanes (R302, Table 12-2) -/

/-- The ten lanes, in the order of the table. -/
inductive Lane where
  | tc0 | tc1 | tc2 | tc3q | tc3r | tc4v0 | tc4v1 | tc4c | tc5 | tc6
  deriving DecidableEq, Repr

/-- A lane's number in the order of the table, as a syndrome names it. -/
def Lane.code : Lane → Nat
  | .tc0 => 0 | .tc1 => 1 | .tc2 => 2 | .tc3q => 3 | .tc3r => 4 | .tc4v0 => 5 | .tc4v1 => 6 | .tc4c => 7 | .tc5 => 8 | .tc6 => 9

/-- The traffic class of a lane. -/
def Lane.cls : Lane → Nat
  | .tc0 => 0 | .tc1 => 1 | .tc2 => 2 | .tc3q => 3 | .tc3r => 3 | .tc4v0 => 4 | .tc4v1 => 4 | .tc4c => 4 | .tc5 => 5 | .tc6 => 6

/-- The lane of a request to a controller; its answer travels in TC0. -/
def MemKind.lane : MemKind → Lane
  | .load _ | .loadT _ => .tc2
  | .store _ | .atom .. | .hostWrite .. => .tc1

/-- The station that sends a request: a logical stall, or the host port by its function (R305). -/
def MemClient.station : MemClient → Nat
  | .ctx st _ _ => st
  | .host _ => 48

/-! ### Packets (R299) -/

/-- The flits of a request that carries bytes, and of a response. -/
def requestFlits (bytes : Nat) : Nat := 1 + (bytes + 63) / 64
def responseFlits (bytes : Nat) : Nat := (bytes + 63) / 64

/-- The flits that a request puts into its lane: a read carries its header alone. -/
def MemKind.flits : MemKind → Nat
  | .load _ | .loadT _ => 1
  | .store bs | .hostWrite bs _ => requestFlits bs.length
  | .atom .. => requestFlits 16

/-- The flits of an input buffer of one lane, at a router or at a station (R303). -/
def laneBuffer : Nat := 32

/-- Whether a station has a reservation left for one more answer (R306): those of its requests that have not been answered are taken. -/
def Mem.replyRoom (m : Mem) (station : Nat) : Bool :=
  decide ((m.reqs.filter (fun r => r.client.station == station)).length ≤ Config.replyPlaces station)

/-- Whether a lane to a controller has credits for the flits of one more request (R303). -/
def Mem.laneRoom (m : Mem) (unit : Nat) (k : MemKind) : Bool :=
  decide (((m.reqs.filter (fun r => r.place.unit == unit && r.served.isNone && r.kind.lane == k.lane)).map (fun r => r.kind.flits)).sum + k.flits
    ≤ Config.laneFlits unit k.lane.code + laneBuffer)

/-- Whether a station may send a request to a controller. -/
def Mem.room (m : Mem) (station unit : Nat) (k : MemKind) : Bool := m.replyRoom station && m.laneRoom unit k

/-! ### Remote bay access (R311) -/

/-- Nanoseconds from station to station over a number of hops. -/
def oneWayNs (hops : Nat) : Nat := 4 + hops

/-- Picoseconds from the issue of a remote read or write of up to 64 bytes to its data or acknowledgement, with an idle port ring; `cycle`
is the target's cycle in picoseconds. -/
def remotePs (hops cycle : Nat) : Nat := 1000 * (2 * oneWayNs hops) + 3 * cycle

end Sys2Proof.Machine
end

