-- ==== Sys2Proof/Machine/Fuses.lean ====
section
/-! DEFINITION. Where stalls and controllers sit in the mesh, and the fuse map (spec 01 R12 to R14; 12 R298). -/

namespace Sys2Proof.Machine

/-- The mesh position of a physical stall (R298). -/
def stallPos (n : Nat) : Nat × Nat := (n % 13 + 1, n / 13 + 1)

/-- The mesh position of the controller of a memory unit (Table 12-1). -/
def unitPos (u : Nat) : Nat × Nat := if u < 12 then (u + 1, 0) else (u - 11, 5)

/-- Aisle hops between a physical stall and a unit's controller. -/
def aisleHops (n u : Nat) : Nat :=
  let a := stallPos n
  let b := unitPos u
  (max a.1 b.1 - min a.1 b.1) + (max a.2 b.2 - min a.2 b.2)

/-- The physical stall of a list that is nearest to a unit's controller; ties go to the lower number (R13). -/
def nearest (free : List Nat) (u : Nat) : Option Nat :=
  free.foldl (fun best n => match best with
    | none => some n
    | some m => if aisleHops n u < aisleHops m u then some n else some m) none

/-- The fuse map of a package with given spares: each unit takes its two nearest enabled stalls (R13). DESIGN CHOICE: where the nearest
stalls of several units overlap, R13 gives no order; units take theirs in ascending unit number, of the stalls still free (log 144). -/
def fuseMap (spares : List Nat) : List Nat :=
  ((List.range 24).foldl (fun (r : List Nat × List Nat) u =>
    let a := (nearest r.1 u).getD 0xFF
    let free := r.1.filter (· != a)
    let b := (nearest free u).getD 0xFF
    (free.filter (· != b), r.2 ++ [a, b])) ((List.range 52).filter (fun n => !spares.contains n), [])).2

end Sys2Proof.Machine
end

