-- ==== Sys2Proof/Machine/TypesFront.lean ====
section
/-! DEFINITION. The state of the front end, the pitches, the rings and the recorded output (spec 13 to 16, 18). -/

namespace Sys2Proof.Machine

/-- The status codes of Table 0-4 (R9). -/
inductive Status where
  | ok | killed | pitchReset | accessDenied | badDescriptor | badProgram
  | poisonConsumed | quarantinedRegion | checkMismatch | tillOverflow
  | scaleSkew | stalePagelist | pageTagMismatch
  | decodeShort | decodeLong | tableMissing
  | peerReset | peerUnreachable | hwFault
  deriving DecidableEq, Repr

/-- The code of a status (Table 0-4). -/
def Status.code : Status → Nat
  | .ok => 0x00 | .killed => 0x01 | .pitchReset => 0x02 | .accessDenied => 0x10 | .badDescriptor => 0x11
  | .badProgram => 0x12 | .poisonConsumed => 0x20 | .quarantinedRegion => 0x21 | .checkMismatch => 0x22
  | .tillOverflow => 0x23 | .scaleSkew => 0x30 | .stalePagelist => 0x31 | .pageTagMismatch => 0x32
  | .decodeShort => 0x40 | .decodeLong => 0x41 | .tableMissing => 0x42 | .peerReset => 0x50
  | .peerUnreachable => 0x51 | .hwFault => 0x60

/-- The status of a code (Table 0-4). -/
def Status.ofCode (c : Nat) : Option Status :=
  [Status.ok, .killed, .pitchReset, .accessDenied, .badDescriptor, .badProgram, .poisonConsumed, .quarantinedRegion, .checkMismatch,
    .tillOverflow, .scaleSkew, .stalePagelist, .pageTagMismatch, .decodeShort, .decodeLong, .tableMissing, .peerReset, .peerUnreachable,
    .hwFault].find? (fun s => s.code == c)

/-- The state of a queue (Table 13-13). -/
inductive QState where
  | active | held | stopped | deleted
  deriving DecidableEq, Repr

/-- The code of a queue state. -/
def QState.code : QState → Nat
  | .active => 0 | .held => 1 | .stopped => 2 | .deleted => 3

/-- A fetched descriptor of an SQ that has not completed (R322, R325). -/
structure Desc where
  hseq : W32
  bytes : List Byte
  started : Bool
  /-- its record waits to be written (R338) -/
  finished : Bool
  /-- the slot it started from, if any (R367) -/
  slot : Option Nat
  /-- a WAIT that has blocked as head (R352), or a launch in PLACE (R329) -/
  blocked : Bool
  /-- a launch's mask, parameters and seed once its parameter header has been read (R331) -/
  ovr : Option (BitVec 48 × W64 × W64)
  /-- the launch it became -/
  launch : Option Nat
  /-- when it entered PLACE (R362) -/
  placeTime : W64
  deriving DecidableEq, Repr

/-- A completion record that waits for its slot (R339). -/
structure CRec where
  sq : Nat
  hseq : W32
  status : Nat
  cflags : Nat
  info : W64
  launch : Option Nat
  deriving DecidableEq, Repr

/-- A submission or completion queue (R312 to R344). -/
structure Queue where
  isCq : Bool
  admin : Bool
  fn : Nat
  log2 : Nat
  base : W64
  status : W64
  cq : Nat
  vector : Nat
  prio : Nat
  state : QState
  reason : Nat
  dbSeen : W64
  sseq : W32
  /-- SQ: e, the HSEQ of the newest descriptor fetched. CQ: DSEQ of the newest record written -/
  newest : W32
  /-- SQ: x, slot of the next descriptor. CQ: slot of the next record -/
  nextIdx : Nat
  /-- SQ: descriptors told of by the doorbell and not yet fetched -/
  toFetch : Nat
  started : W32
  doneLow : W32
  /-- completed HSEQs above `doneLow` -/
  doneSet : List Nat
  /-- HSEQs that a RESUME with REBASE has passed over: the last before them and the last of them (Table 13-11) -/
  jumps : List (Nat × Nat)
  doneCount : W64
  descs : List Desc
  /-- CQ: consumed DSEQ and head slot as last read -/
  consumed : W32
  headIdx : Nat
  waiting : List CRec
  records : W64
  /-- a status block is due (R343) -/
  dirty : Bool
  /-- the QUEUE_DELETE that waits for the queue's descriptors: its SQ and HSEQ (R336) -/
  closing : Option (Nat × W32)
  deriving DecidableEq, Repr

/-- A queue as R546 creates it, before its own fields are set. -/
def Queue.blank : Queue :=
  { isCq := false, admin := false, fn := 0, log2 := 4, base := 0, status := 0, cq := 0, vector := 0xFF, prio := 0,
    state := .active, reason := 0, dbSeen := 0, sseq := 0, newest := 0, nextIdx := 0, toFetch := 0, started := 0,
    doneLow := 0, doneSet := [], jumps := [], doneCount := 0, descs := [], consumed := 0, headIdx := 0, waiting := [], records := 0,
    dirty := false, closing := none }

/-- A launch from its placement to the writing of its record (R329, R453). -/
structure Launch where
  pitch : Nat
  sq : Nat
  hseq : W32
  mask : BitVec 48
  prog : Nat
  codeLen : Nat
  /-- bytes of its program image, by device address, that its own writes have replaced in memory: as its fetches see them (R131) -/
  image : List (Nat × Byte)
  param : W64
  seed : W64
  /-- allotted rows of each bay: none or (first, last) -/
  rows : List (Option (Nat × Nat))
  csr : Half
  strictOvf : Bool
  shape : Nat
  /-- splits held: (stall, lowest split, number of splits) -/
  splits : List (Nat × Nat × Nat)
  /-- stalls whose instance has not ended -/
  running : List Nat
  /-- stalls whose sweep has not finished -/
  sweeping : List Nat
  start : W64
  ended : Option Status
  tillSat : Bool
  nonfinite : Bool
  faulted : Bool
  /-- the dump buffer was given this launch's state (R457) -/
  retained : Bool
  progress : Nat
  /-- XOR of the CRC-64 of its writes (R490) -/
  digest : W64
  deriving DecidableEq, Repr

/-- The front end's sleep states (Table 13-2). -/
inductive FeState where
  | asleep | busy | final | check
  deriving DecidableEq, Repr

/-- A fence entry (R346). -/
structure Fence where
  owner : Nat
  value : W64
  /-- a SIGNAL that waits for its write to be visible: (queue, hseq, value) (R353) -/
  writing : Option (Nat × W32 × W64)
  deriving DecidableEq, Repr

/-- A hardware slot (Table 14-6); whether its SQ is blocked, and why, follows from the SQ. -/
structure Slot where
  queue : Option Nat
  pitch : Nat
  starts : W64
  dones : W64
  res : W64
  since : W64
  deriving DecidableEq, Repr

/-- A free slot that has counted nothing. -/
def Slot.free : Slot := ⟨none, 0, 0, 0, 0, 0⟩

/-- The states of a pitch (Table 15-1). -/
inductive PState where
  | off | running | resetting | failed
  deriving DecidableEq, Repr

/-- The code of a pitch state. -/
def PState.code : PState → Nat
  | .off => 0 | .running => 1 | .resetting => 2 | .failed => 3

/-- A pitch (R368 to R388). -/
structure Pitch where
  state : PState
  /-- the step of R382 that has not finished, 0 when no reset runs -/
  step : Nat
  scrub : Bool
  zeroed : Bool
  teardown : Bool
  enabling : Bool
  disabling : Bool
  cause : Nat
  scrubbed : Bool
  count : W32
  /-- descriptors that requested or joined the reset: (queue, HSEQ) -/
  joined : List (Nat × W32)
  /-- service descriptors ended in step 3, whose records step 8 writes -/
  toReport : List (Nat × W32)
  /-- stalls whose sweep in step 5 has not finished -/
  sweeping : List Nat
  /-- the scrub has started to zero -/
  zeroing : Bool
  masked : Bool
  /-- SSEQ of its pitch block -/
  sseq : W32
  watermark : W64
  rclCount : W64
  psbActive : Bool
  psbDirty : Bool
  cycleNo : W32
  /-- a stack of one of its units has shut down since it was enabled (R297) -/
  lost : Bool
  deriving DecidableEq, Repr

/-- A pitch that is off. -/
def Pitch.reset : Pitch :=
  { state := .off, step := 0, scrub := false, zeroed := false, teardown := false, enabling := false, disabling := false,
    cause := 0, scrubbed := false, count := 0, joined := [], toReport := [], sweeping := [], zeroing := false, masked := false, sseq := 0,
    watermark := 0, rclCount := 0, psbActive := false, psbDirty := false, cycleNo := 0, lost := false }

/-- A record ring in host memory (R403, R451, R549). -/
structure Ring where
  written : W64
  dropped : W64
  consumed : W64
  /-- records dropped since the ring was last not full, and the time of the first -/
  gap : Nat
  gapTime : W64
  deriving DecidableEq, Repr

/-- A ring nothing has been written to. -/
def Ring.zero : Ring := ⟨0, 0, 0, 0, 0⟩

/-- An MSI-X vector of a function (R375 to R377, R540). -/
structure MsiVec where
  addr : W64
  data : W32
  mask : Bool
  pend : Bool
  count : Nat
  t0 : W64
  sent : W32
  /-- causes arose while the pitch's internal mask held -/
  heldCause : Bool
  /-- HOLD in µs as it stood at the latest cause (R376) -/
  hold : Nat
  deriving DecidableEq, Repr

/-- A vector in its PCIe reset state. -/
def MsiVec.reset : MsiVec := ⟨0, 0, true, false, 0, 0, 0, false, 0⟩

/-- What the FK2 has sent to the outside, in order. -/
inductive Out where
  /-- one posted write TLP to host memory -/
  | hostWrite (addr : W64) (bytes : List Byte)
  /-- an MSI-X message -/
  | msix (fn vector : Nat) (addr : W64) (data : W32)
  /-- the completion of a host read -/
  | readData (fn : Nat) (bytes : List Byte) (poison : Bool)
  /-- a configuration completion: its data, or none for Request Retry Status -/
  | config (fn : Nat) (data : Option (List Nat))
  /-- an SPDM answer by its binding: its response code and its body -/
  | spdm (vdm : Bool) (code : Nat) (bytes : List Byte)
  /-- what a JTAG instruction shifts out; none for BYPASS -/
  | jtag (bits : Option Nat)
  /-- an MCTP control reply: the endpoint ID, or none for a failure -/
  | mctp (vdm : Bool) (eid : Option Nat)
  /-- a PLDM answer of discovery or of the PDR repository -/
  | pldmBytes (vdm : Bool) (bytes : List Byte)
  /-- the reading of a PLDM sensor; none when it is unavailable -/
  | pldmReading (vdm : Bool) (v : Option Int)
  /-- a PLDM error: the type or the command is not supported -/
  | pldmError (vdm : Bool)
  /-- a message on a link -/
  | link (link : Nat) (kind : Nat) (bytes : List Byte)
  /-- a message to the partner package over the bridge -/
  | bridge (kind : Nat) (bytes : List Byte)
  /-- a message on the module's sideband -/
  | sideband (kind : Nat) (bytes : List Byte)
  /-- a module pin driven: the pin and its level -/
  | pin (name : String) (level : Bool)
  deriving DecidableEq, Repr

end Sys2Proof.Machine
end

