-- ==== Sys2Proof/Machine/TypesLink.lean ====
section
/-! DEFINITION. The state of the ports, links, mailboxes and collectives (spec 17). -/

namespace Sys2Proof.Machine

/-- The states of a link (Table 17-2). -/
inductive LState where
  | off | train | ident | routed | quarantined
  deriving DecidableEq, Repr

/-- The code of a link state (Table 17-6). -/
def LState.code : LState → Nat
  | .off => 0 | .train => 1 | .ident => 2 | .routed => 3 | .quarantined => 4

/-- A non-idle flit kept until the peer acknowledges it, and how often it has been replayed (R413). -/
structure Kept where
  lseq : Nat
  bytes : List Byte
  replays : Nat
  deriving DecidableEq, Repr

/-- A flit that waits to be sent: KIND, VC and its 244 bytes (Table 17-3), and the message it belongs to. -/
structure TxFlit where
  kind : Nat
  vc : Nat
  data : List Byte
  msg : Nat
  deriving DecidableEq, Repr

/-- A link (R409 to R414). -/
structure Link where
  state : LState
  /-- runs on two lanes -/
  half : Bool
  /-- LSEQ of the last non-idle flit sent, and of the last flit accepted -/
  txSeq : BitVec 16
  rxSeq : BitVec 16
  kept : List Kept
  waiting : List TxFlit
  /-- flit places held at the peer, and places freed here and not yet reported, by VC -/
  credit : Vector Nat 3
  freed : Vector Nat 3
  /-- bytes of the message that is arriving, and the routing entry that its head met (R422), by VC -/
  arriving : Vector (List Byte × Nat) 3
  tx : W64
  rx : W64
  retries : W64
  down : W64
  /-- chip, port and link index named by the peer's IDENT (R427) -/
  seen : Option (Nat × Nat × Nat)
  /-- a mismatch whose report waits for a possible swap partner (R428) -/
  unreported : Bool
  /-- the lane pair is mapped out (R475) -/
  pairOut : Bool
  /-- FK times of the latest departures from ROUTED (Table 18-22) -/
  departures : List W64
  /-- TX at the last hang window (R461) -/
  txSeen : W64
  deriving DecidableEq, Repr

/-- A link when the supply comes up. Every flit place of the peer is free. -/
def Link.reset : Link :=
  { state := .off, half := false, txSeq := 0xFFFF, rxSeq := 0xFFFF, kept := [], waiting := [],
    credit := Vector.replicate 3 64, freed := Vector.replicate 3 0, arriving := Vector.replicate 3 ([], 0), tx := 0, rx := 0,
    retries := 0, down := 0, seen := none, unreported := false, pairOut := false, departures := [], txSeen := 0 }

/-- A message that has reached this chip whole: the link it came on (none for one that never left the chip), its VC, its
flits that still hold places, its header and data (Table 17-7), whether its link was not ROUTED when it came (R411), and the entry of the
routing table for its destination when its head came (R422). -/
structure Msg where
  id : Nat
  link : Option Nat
  vc : Nat
  flits : Nat
  bytes : List Byte
  early : Bool
  route : Nat
  deriving DecidableEq, Repr

/-- A PSEND's message that has left and has not been answered (R418, R421): its MSGID, the channel and transfer that sent it, the
credit taken, and what it is. -/
structure Sent where
  msgid : Nat
  stall : Nat
  chan : Nat
  xfer : Nat
  pitch : Nat
  /-- outbound mailbox and the size of the credit taken; none for a window request -/
  credit : Option (Nat × Nat)
  dst : Nat
  /-- a window request, and whether its write has been granted staging -/
  win : Bool
  granted : Bool
  /-- a gather step that the engine forwards: its collective -/
  coll : Option Nat
  /-- time and sequence of its SENT record, which the WRESP with a window write's data carries too (R402) -/
  time : W64
  seq : W32
  deriving DecidableEq, Repr

/-- A posted receive buffer (R417): the channel and transfer that posted it and its size. -/
structure Posted where
  stall : Nat
  chan : Nat
  xfer : Nat
  size : Nat
  /-- the collective and step that it serves, if any -/
  coll : Option (Nat × Nat)
  deriving DecidableEq, Repr

/-- An open collective (R430, R431). -/
structure Coll where
  serial : Nat
  pitch : Nat
  /-- device address of its schedule record -/
  addr : Nat
  header : List Byte
  members : List (List Byte)
  nextSend : Nat
  nextRecv : Nat
  done : Nat
  /-- launches that have used it (R442) -/
  launches : List Nat
  /-- THERMAL_SLOWs forwarded for its job: (ORIGIN, TIME) -/
  slowed : Bool
  deriving DecidableEq, Repr

/-- The THERMAL_SLOWs taken for a job while collectives of it are open, each forwarded once, and the suspension of hang counting, which
stands while an origin holds it (R442). -/
structure Slow where
  job : Nat
  first : W64
  origins : List (Nat × Nat × W64)
  /-- origins that still hold it -/
  holding : List (Nat × Nat)
  deriving DecidableEq, Repr

/-- A window write that has been granted staging (R421): the chip that asked, its MSGID, the stall, the bay address, the bytes, and the
window that admitted it. -/
structure Grant where
  chip : Nat
  msgid : Nat
  stall : Nat
  addr : Nat
  bytes : Nat
  win : Nat
  deriving DecidableEq, Repr

/-- The link engine and the links. -/
structure Net where
  links : Vector Link 32
  /-- messages that have arrived and wait for the engine, oldest first -/
  arrived : List Msg
  /-- messages held until a flow's old link is empty: (old link, DST, VC, bytes) (R424) -/
  held : List (Nat × Nat × Nat × List Byte)
  /-- link last taken by a flow, by SRC × 2^20 + DST × 2^8 + MBOX -/
  flows : Tab Nat
  /-- chip epochs by chip id (R436) and this chip's own -/
  epochs : Tab (BitVec 16)
  epoch : BitVec 16
  fresh : Bool
  /-- credit FIFOs by pitch × 256 + outbound mailbox (R417) -/
  credits : Tab (List Nat)
  /-- posted buffers by pitch × 256 + inbound mailbox -/
  posted : Tab (List Posted)
  sent : List Sent
  /-- window writes granted staging, oldest first (R421) -/
  grants : List Grant
  nextMsg : Nat
  colls : List Coll
  slows : List Slow
  deriving DecidableEq, Repr

/-- The net when the supply comes up. -/
def Net.reset : Net :=
  { links := Vector.replicate 32 Link.reset, arrived := [], held := [], flows := [], epochs := [], epoch := 0, fresh := true,
    credits := [], posted := [], sent := [], grants := [], nextMsg := 0, colls := [], slows := [] }

end Sys2Proof.Machine
end

