-- ==== Sys2Proof/Machine/TypesMod.lean ====
section
/-! DEFINITION. The state of roles and the audit book, firmware, power limiting and the module (spec 20, 21, 23; 22 R534,
R552). -/

namespace Sys2Proof.Machine

/-! ### Keys and the audit book (R516 to R524) -/

/-- A public key in a slot: its scheme (1 ECDSA, 2 ML-DSA-65) and its bytes (R517). -/
structure Key where
  scheme : Nat
  bytes : List Byte
  deriving DecidableEq, Repr

/-- The audit book (R521 to R523). A slot is 128 bytes and belongs to the record whose ASEQ it carries. -/
structure Book where
  /-- ASEQ of the next record -/
  next : Nat
  /-- slot of the write point, 0 to 32,767 -/
  point : Nat
  /-- slots written and not erased: ASEQ and bytes -/
  slots : Tab (Nat × List Byte)
  /-- the latest AUDIT_ACK, as the ASEQ after it -/
  acked : Nat
  stalled : Bool
  lost : Nat
  /-- CHAIN of the last record -/
  chain : List Byte
  /-- records not covered by a checkpoint, the time of the oldest, and the ASEQ of the last checkpoint -/
  open' : Nat
  oldest : W64
  sealedAt : Nat
  deriving DecidableEq, Repr

/-- Bytes 0 to 79 of the manufacturing record (R522), and CHAIN after it: H₀ over 48 zero bytes and them. -/
def sealBody : List Byte := (Config.sealRecord ++ List.replicate 80 0).take 80
def sealChain : List Byte := (Config.sha384 (List.replicate 48 0 ++ sealBody) ++ List.replicate 48 0).take 48

/-- The book of a device as shipped: the manufacturing record is its first, with ASEQ 0, and no checkpoint covers it yet (R522). -/
def Book.reset : Book :=
  { next := 1, point := 1, slots := [(0, (0, sealBody ++ sealChain))], acked := 0, stalled := false, lost := 0, chain := sealChain,
    open' := 1, oldest := 0, sealedAt := 0 }

/-- An SPDM session (R519): its id, whether it asked for mutual authentication, and the key slot that its requester proved, if any. -/
structure Session where
  id : Nat
  asksKey : Bool
  auth : Option Nat
  finished : Bool
  deriving DecidableEq, Repr

/-- The security block. -/
structure Security where
  installer : Option Key
  operators : Vector (Option Key) 24
  /-- the policy word in the bit positions of SEC_STAT [6:1] -/
  policy : BitVec 6
  count : W32
  result : Nat
  book : Book
  /-- nonces issued, and the one that a token may still name (R524) -/
  nonces : Nat
  nonce : Option (List Byte)
  /-- bytes 0 to 63 of the consent token loaded -/
  consent : Option (List Byte)
  unlocked : Bool
  /-- endpoint ids by binding (R552): PCIe VDM and I3C -/
  eidVdm : Nat
  eidI3c : Nat
  /-- GET_VERSION, GET_CAPABILITIES and NEGOTIATE_ALGORITHMS done, and the sessions (R519) -/
  spdmStep : Nat
  sessions : List Session
  deriving DecidableEq, Repr

/-- A device as shipped: no key, IALG 3, CALG 1 (Table 21-6). -/
def Security.reset : Security :=
  { installer := none, operators := Vector.replicate 24 none, policy := 0x0E, count := 0, result := 0, book := Book.reset,
    nonces := 0, nonce := none, consent := none, unlocked := false, eidVdm := 0, eidI3c := 0, spdmStep := 0, sessions := [] }

/-! ### Firmware (R525 to R533) -/

/-- The states of a firmware slot (Table 21-11). -/
inductive FwSt where
  | empty | loading | committed | armed | trial | active | failed | previous
  deriving DecidableEq, Repr

/-- The code of a slot state in the session status block (Table 21-16). PREVIOUS is never a new slot's state. -/
def FwSt.code : FwSt → Nat
  | .empty => 0 | .loading => 1 | .committed => 2 | .armed => 3 | .trial => 4 | .active => 5 | .failed => 6 | .previous => 7

/-- A firmware slot: its state, its 128-byte component entry, the image bytes written since its erasure, and the trial starts
used. -/
structure FwSlot where
  st : FwSt
  entry : List Byte
  image : Tab Byte
  trials : Nat
  deriving DecidableEq, Repr

/-- A slot that is EMPTY. -/
def FwSlot.blank : FwSlot := ⟨.empty, [], [], 0⟩

/-- The entry of an image as shipped: VERSION and SVN 0, and a COMPAT range that accepts any version. -/
def shippedEntry : List Byte :=
  List.replicate 64 0 ++ (List.range 5).flatMap (fun _ => leBytes 4 0 ++ leBytes 4 0xFFFFFFFF) ++ List.replicate 24 0

/-- A component: its two slots and its SVN floor. -/
structure FwComp where
  a : FwSlot
  b : FwSlot
  floor : Nat
  deriving DecidableEq, Repr

/-- A component as shipped: slot A is ACTIVE. -/
def FwComp.reset : FwComp := ⟨⟨.active, shippedEntry, [], 0⟩, FwSlot.blank, 0⟩

/-- An update session (R532): its bundle, its header's entries, its status block and what the block counts. -/
structure FwSess where
  bundle : Nat
  comps : List Nat
  status : W64
  sseq : W32
  blocks : Nat
  reason : Nat
  rcomp : Nat
  deriving DecidableEq, Repr

/-- Firmware: components 1 to 5 (Table 21-10) and the session. -/
structure Firmware where
  comps : Vector FwComp 5
  sess : Option FwSess
  /-- the activation of LINK in progress: its SQ and HSEQ, the port that has taken the image, and the states its links held before -/
  port : Option (Nat × W32 × Nat × List LState)
  /-- stalls that have not yet reloaded STALL, and when it was activated (Table 21-15) -/
  stale : BitVec 48
  staleFrom : W64
  deriving DecidableEq, Repr

/-- Firmware as shipped. -/
def Firmware.reset : Firmware := ⟨Vector.replicate 5 FwComp.reset, none, none, 0, 0⟩

/-! ### Power limiting and die temperature (R504 to R511) -/

/-- A die sensor: latest reading in 1/8 °C, VALID, step, and its thermal ceiling. -/
structure Sensor where
  temp : BitVec 12
  valid : Bool
  step : Nat
  ceil : Nat
  deriving DecidableEq, Repr

/-- What the clerk limits by: readings of the last millisecond (newest first), the stage, ceiling and throttle, the alarm, and
how often 50 µs were spent in stage 2 or above. -/
structure Power where
  readings : List Nat
  stage : Nat
  ceil : Nat
  k : Nat
  alarm : Bool
  ovr : Nat
  sensors : Vector Sensor 68
  deriving DecidableEq, Repr

/-- Limiting as the supply comes up (Tables 20-11, 20-13). -/
def Power.reset : Power :=
  { readings := [], stage := 0, ceil := 74, k := 0, alarm := false, ovr := 0,
    sensors := Vector.replicate 68 ⟨0, false, 0, 74⟩ }

/-! ### The module (R556 to R572) -/

/-- An entry of the health area of the module flash that no register shows (R511, R560, R561): 1 thermal trip, 2 undervoltage,
3 failing rail, 4 regulator fault; with its sensor or rail and its reading. -/
structure HealthNote where
  kind : Nat
  index : Nat
  reading : Nat
  deriving DecidableEq, Repr

/-- The supply, the rails and start-up. -/
structure Module where
  /-- the supply is good and VDD_GH is up -/
  supply : Bool
  /-- GATE has been verified and the clerk runs; both GATE slots failed (R531) -/
  clerk : Bool
  gateFailed : Bool
  pwrEn : Bool
  /-- rails of Table 23-5 after VDD_GH that are up, 0 to 6 -/
  rails : Nat
  /-- rails are being applied, or removed in reverse order (R561, R562) -/
  applying : Bool
  removing : Bool
  /-- the rails stay down until PWR_EN has been deasserted (R560, R563) -/
  latched : Bool
  /-- THERMTRIP# is held, and when the trip was (R511, R572) -/
  tripped : Bool
  tripTime : Option W64
  /-- a trip that the next start-up reports: sensor and reading -/
  tripNote : Option (Nat × Nat)
  notes : List HealthNote
  /-- components verified since the rails came up, in order; whether HBM training is done; whether start-up has finished; chip
  fatal faults during it (R569, R571) -/
  verified : List Nat
  trained : Bool
  started : Bool
  faults : Nat
  /-- PERST# is low; the host port has been trained since -/
  perst : Bool
  hostUp : Bool
  /-- ports whose cable supply is off (R565) -/
  cableOff : BitVec 8
  /-- virtual functions enabled by the SR-IOV capability (R534), and functions whose MSI-X function mask is set (R377) -/
  numVfs : Nat
  fnMask : BitVec 25
  /-- functions for which AER has logged an error of a request of the FK2 (R538) -/
  aer : BitVec 25
  deriving DecidableEq, Repr

/-- A module that has finished start-up (R569). -/
def Module.reset : Module :=
  { supply := true, clerk := true, gateFailed := false, pwrEn := true, rails := 6, applying := false, removing := false,
    latched := false, tripped := false, tripTime := none, tripNote := none, notes := [], verified := [5, 4, 3, 2],
    trained := true, started := true, faults := 0, perst := false, hostUp := true, cableOff := 0, numVfs := 0, fnMask := 0, aer := 0 }

end Sys2Proof.Machine
end

