-- ==== Sys2Proof/Machine/TypesStall.lean ====
section
/-! DEFINITION. The state of one stall: contexts, tokens, array splits, Porter channels (spec 03 to 08). -/

namespace Sys2Proof.Machine

/-- A range of rows of one bay of one stall. -/
structure Rows where
  stall : Nat
  bay : Nat
  first : Nat
  last : Nat
  deriving DecidableEq, Repr

/-- A token client (Table 5-13). -/
inductive Client where
  | seq | vec
  | feed (s : Nat)
  | drain (s : Nat)
  | port (c : Nat)
  deriving DecidableEq, Repr

/-- A deferred action on a token (R144): a hand-over to a client or a release, with the place of its issue in the
order of the stall's operations. -/
structure Deferred where
  serial : Nat
  tgt : Option Client
  deriving DecidableEq, Repr

/-- A token of a bay's table (R143): its rows, its client, the context that took it and under which handle. -/
structure Token where
  rows : Rows
  client : Client
  stall : Nat
  ctx : Nat
  handle : Nat
  launch : Nat
  deferred : List Deferred
  deriving DecidableEq, Repr

/-- A token request that waits to be granted (R143, R146), oldest first in its list. -/
structure TokReq where
  rows : Rows
  client : Client
  stall : Nat
  ctx : Nat
  handle : Nat
  launch : Nat
  deriving DecidableEq, Repr

/-- One active hardware loop (R136). -/
structure LoopRec where
  start : W64
  len : Nat
  left : W64
  deriving DecidableEq, Repr

/-- What a context stopped at an instruction waits for. -/
inductive Wait where
  | none
  | token
  | unit (code limit : Nat)
  | fence (serial : Nat)
  | ended
  | handle (k : Nat)
  deriving DecidableEq, Repr

/-- A register whose write is outstanding (R121). -/
inductive PendReg where
  | g (r : Nat)
  | t (r : Nat)
  deriving DecidableEq, Repr

/-- The vector unit's posted tensor operations (Table 5-10). -/
inductive VecKind where
  | vsca (toSplit : Option Nat)
  | vscf (rnd : RMode) (ceilReg : Nat)
  | vwadd
  | vwcvt (oscale : Half) (rnd : RMode) (nonsat : Bool)
  | vwanc (lanes : List W32)
  | vcvtt (rnd : RMode) (nonsat : Bool)
  deriving DecidableEq, Repr

/-- A posted tensor operation with its latched descriptors. -/
structure VecOp where
  serial : Nat
  pc : W64
  kind : VecKind
  d : BitVec 512
  s1 : BitVec 512
  s2 : BitVec 512
  reg : Nat
  rows : List Rows
  deriving DecidableEq, Repr

/-- A sequencer context (R120, R125). `live` says that an instance runs in it. -/
structure Ctx where
  live : Bool
  launch : Nat
  pc : W64
  g : Vector W64 32
  a : Vector W64 16
  t : Vector (BitVec 512) 16
  v : Vector (Vector W32 256) 16
  p : Vector Bool 8
  loops : List LoopRec
  wait : Wait
  pend : List PendReg
  vecq : List VecOp
  tillSat : Bool
  nonfinite : Bool
  cyc : W64
  progress : Nat
  deriving DecidableEq, Repr

/-- A context with every register zero and nothing running. -/
def Ctx.reset : Ctx :=
  { live := false, launch := 0, pc := 0, g := Vector.replicate 32 0, a := Vector.replicate 16 0,
    t := Vector.replicate 16 0, v := Vector.replicate 16 (Vector.replicate 256 0),
    p := Vector.replicate 8 false, loops := [], wait := .none, pend := [], vecq := [],
    tillSat := false, nonfinite := false, cyc := 0, progress := 0 }

/-- A decoded weight tile (R65): element codes column by column, and one block-scale code and slab-scale code per
32 reduction indices of a column. Unscaled tiles hold no scales. -/
structure Tile where
  el : Elem
  rows : Nat
  width : Nat
  codes : List Nat
  bscales : List Nat
  slabs : List Half
  /-- cells whose code is not the one that the loader read and summed: index, the code read (R88) -/
  wrong : List (Nat × Nat)
  deriving DecidableEq, Repr

/-- A tile on its way into a shadow bank (R66), or in it. -/
structure TileLoad where
  /-- its number among the tiles of its split; its bank is that modulo 2 -/
  num : Nat
  serial : Nat
  ctx : Nat
  pc : W64
  op : Nat
  /-- the pass that it belongs to, none for a WLD that no PASS has named -/
  pass : Option Nat
  index : Nat
  desc : BitVec 512
  diag : Bool
  /-- checked pairs, or decoded units, of a tile stream: index, element bytes, scale record (R185) -/
  pairs : List (Nat × List Byte × List Byte)
  data : Option Tile
  /-- rows issued -/
  issued : Nat
  deriving DecidableEq, Repr

/-- A pass that a program has queued (R69). -/
structure PassReq where
  num : Nat
  serial : Nat
  ctx : Nat
  pc : W64
  act : BitVec 512
  wgt : BitVec 512
  pre : BitVec 512
  out : BitVec 512
  word : W64
  /-- split width -/
  width : Nat
  /-- the number of its first tile among the tiles of its split -/
  tile0 : Nat
  /-- tiles whose load has been set up -/
  planned : Nat
  feedRows : List Rows
  /-- rows of its preload tensor -/
  preRows : List Rows
  drainRows : List Rows
  deriving DecidableEq, Repr

/-- A till partial (R96, R107, R110): a finite integer under the phase's anchor, a saturated extreme, or a special
state; `dres` is the residue sum of its rounding offsets (R85). -/
structure Part where
  t : Int
  sat : Bool
  special : Option FNum
  dres : Nat
  deriving DecidableEq, Repr

/-- A partial that is zero and has met no rounding. -/
def Part.zero : Part := ⟨0, false, none, 0⟩

/-- A vector that has entered a sweep, with its activations as entered (R60, R78). -/
structure VecIn where
  sweep : Nat
  v : Nat
  acts : List FNum
  /-- residues by which what the feeder summed for a row exceeds what it gave to the row (R88) -/
  off : List (Nat × Nat)
  deriving DecidableEq, Repr

/-- A pass in flight in a split, with what it latched at its first sweep (R74, R77, R102). -/
structure Pass where
  req : PassReq
  s0 : Nat
  saExp : Int
  anchors : List Int
  dctls : List W64
  ins : List VecIn
  /-- current partials, by phase × 2^24 + vector × 256 + column -/
  parts : Tab Part
  /-- residue of each start value, by the same key (R86, R87) -/
  pres : Tab Nat
  /-- residue of each partial as it left the till, by sweep × 2^24 + vector × 256 + column (R86, R87) -/
  plog : Tab Nat
  /-- partials in a special state as they left the till, by the same key (R110) -/
  specials : List Nat
  /-- columns excluded from checking, and since which slot (R89) -/
  excluded : List (Nat × Nat)
  /-- saturated output columns (R108) -/
  satCols : List Nat
  deriving DecidableEq, Repr

/-- A split of the array (R81 to R83). -/
structure Split where
  /-- activation-scale register (R77) -/
  ascl : Half
  /-- DCTL0 to DCTL3 (R101) -/
  dctl : Vector W64 4
  /-- slots since the split was configured -/
  slot : Nat
  waiting : List PassReq
  flight : List Pass
  loads : List TileLoad
  /-- the mask of the latest ended pass, bit by output column (R108) -/
  satMask : Nat
  /-- passes and tiles of the split's launch so far -/
  passCount : Nat
  tileCount : Nat
  deriving DecidableEq, Repr

/-- A split as R77, R84 and R101 leave it. -/
def Split.reset : Split :=
  { ascl := 0x3F80#16, dctl := Vector.replicate 4 0x3F80#64, slot := 0, waiting := [], flight := [], loads := [],
    satMask := 0, passCount := 0, tileCount := 0 }

/-- What a Porter transfer does (R176, R183, R184, R220, R418). -/
inductive XKind where
  | copy | gather | walk | conv | send | post | atens
  deriving DecidableEq, Repr

/-- A page that a walk has read (R221): its index, the codes of its region, and the combined scale of each block. -/
structure WalkPage where
  index : Nat
  codes : List Nat
  scales : List Nat
  deriving DecidableEq, Repr

/-- A page walk's progress (R219 to R221): the header it read, the pages it reads, their entries, how many pages' scale frames it
has checked, the pages it has read whole, and whether the closing epoch read has returned. -/
structure Walk where
  list : W64
  header : List Byte
  pages : List Nat
  entries : List Nat
  checked : Nat
  got : List WalkPage
  closed : Bool
  deriving DecidableEq, Repr

/-- A byte on its way through a unit, with the address where it was found poisoned. -/
abbrev FByte := Byte × Option Nat

/-- What a transfer has read from its source: element codes in coordinate order, or the arrays of an FB or MX tensor. -/
inductive XData where
  | codes (l : List (Nat × Option Nat))
  | runs (l : List (List FByte))
  deriving DecidableEq, Repr

/-- A segment of a read that has passed its checks, or a unit decoded: element bytes, trailer, scale record. -/
structure Seg where
  elems : List Byte
  trailer : List Byte
  record : List Byte
  deriving DecidableEq, Repr

/-- An encoding write's table (R254): its slot, none where no slot was free; its generation; its code lengths. -/
structure EncTable where
  slot : Option Nat
  gen : Nat
  lens : List Nat
  ready : Bool
  deriving DecidableEq, Repr

/-- The opcode of a transfer's instruction (Table 5-11). -/
def XKind.op : XKind → Nat
  | .copy => 0x80 | .gather => 0x81 | .walk => 0x82 | .conv => 0x83 | .send => 0x84 | .post => 0x85 | .atens => 0x9D

/-- A Porter transfer (R174, R177). -/
structure Xfer where
  serial : Nat
  ctx : Nat
  launch : Nat
  pc : W64
  kind : XKind
  d : BitVec 512
  s1 : BitVec 512
  s2 : BitVec 512
  gval : W64
  opts : BitVec 32
  rows : List Rows
  /-- host addresses of the windows of its source and its destination as they stood at issue (R335) -/
  srcHost : Option W64
  dstHost : Option W64
  walk : Option Walk
  /-- pairs checked and units decoded, by number; none for one that was poisoned -/
  pairs : List (Nat × Option Seg)
  data : Option XData
  /-- its accesses have begun (a message sent, a buffer posted), and its last effect has been seen to land -/
  begun : Bool
  written : Bool
  wrote : Nat
  zeros : Nat
  enc : Option EncTable
  msg : Nat
  /-- the open collective that it serves, its step, and the step that its deposit is still to be forwarded as (R431, R434) -/
  coll : Option Nat
  step : Nat
  fwd : Option Nat
  deriving DecidableEq, Repr

/-- What PTIME tells of a context's latest completed transfer on a channel (R193). -/
structure ChanInfo where
  time : W64
  bytes : W64
  zeros : W64
  count : W64
  deriving DecidableEq, Repr

/-- A channel about which nothing has been told. -/
def ChanInfo.zero : ChanInfo := ⟨0, 0, 0, 0⟩

/-- A Porter channel of a stall. -/
structure Chan where
  xfers : List Xfer
  info : Vector ChanInfo 4
  nXfers : W64
  nBytes : W64
  /-- cycles the oldest request has waited (R195) -/
  starving : Bool
  deriving DecidableEq, Repr

/-- A channel with nothing outstanding. -/
def Chan.reset : Chan := ⟨[], Vector.replicate 4 ChanInfo.zero, 0, 0, false⟩

/-- The power states of a stall (Table 20-4). -/
inductive PwrState where
  | active | doze | nap | dark
  deriving DecidableEq, Repr

/-- The code of a power state (Table 20-4). -/
def PwrState.code : PwrState → Nat
  | .active => 0 | .doze => 1 | .nap => 2 | .dark => 3

/-- A stall. -/
structure Stall where
  ctx : Vector Ctx 4
  /-- split configuration code (Table 3-5) -/
  config : Nat
  splits : Vector Split 4
  chans : Vector Chan 8
  /-- lines of the 64 KiB instruction cache, the latest fill first: the line's device address divided by 64, its eight words (R131) -/
  icache : List (Nat × List W64)
  /-- ENT tables held by the decoder: (id, generation), most recent first (R264) -/
  entHeld : List (Nat × Nat)
  /-- factor-buffer pieces held, most recent first: their device address and their bytes as they were fetched (R260) -/
  factors : List (Nat × List Byte)
  /-- the launch that used the factor buffer last: its sweep clears the buffer (R454, Table 18-6) -/
  factorsBy : Option Nat
  issue : W64
  slots : W64
  vec : W64
  pwr : PwrState
  fstep : Nat
  tcap : Bool
  ithr : Bool
  wakes : W32
  /-- when it last entered DOZE, PT_POWER as it stood then (R501), and when a launch last left it -/
  idleFrom : W64
  policy : W64
  freeFrom : W64
  deriving DecidableEq, Repr

/-- A stall after power-on. -/
def Stall.reset : Stall :=
  { ctx := Vector.replicate 4 Ctx.reset, config := 0, splits := Vector.replicate 4 Split.reset,
    chans := Vector.replicate 8 Chan.reset, icache := [], entHeld := [], factors := [], factorsBy := none, issue := 0, slots := 0, vec := 0,
    pwr := .dark, fstep := 64, tcap := false, ithr := false, wakes := 0, idleFrom := 0, policy := 0x6400000014#64, freeFrom := 0 }

end Sys2Proof.Machine
end

