-- ==== Sys2Proof/Machine/TypesSys.lean ====
section
/-! DEFINITION. The state of fault counting, map-out, chip resets, the stocktake and the redundant pair (spec 18, 19). -/

namespace Sys2Proof.Machine

/-- What has been counted against the thresholds of Table 18-22, as lists of FK times. -/
structure Health where
  /-- physical stalls mapped out, kept in module flash (R472) -/
  out : BitVec 52
  /-- CHECK_MISMATCH faults by physical stall -/
  mismatch : Tab (List W64)
  /-- corrected errors by physical stall × 4 + bay -/
  bayErrs : Tab (List W64)
  /-- bay words found uncorrectable and not written since, by stall × 2^22 + bay address, and those written since -/
  bayBad : List Nat
  bayMended : List Nat
  /-- uncorrectable lines and corrected symbols by unit × 32 + pseudo-channel -/
  lineBad : Tab (List W64)
  symbols : Tab (List W64)
  /-- corrected events not recorded, and the time of the last record, by a key of unit and kind (R452) -/
  unrec : Tab Nat
  lastRec : Tab W64
  /-- when the last hang window ended (R462) -/
  hangAt : W64
  /-- GH_HANGWIN as it stood when the present window began (R462) -/
  hangWin : W64
  /-- REPLACE of GH_HEALTH (R476) -/
  replace : Bool
  /-- a failover has taken place and MODE has not restored INDEPENDENT (R493) -/
  failover : Bool
  deriving DecidableEq, Repr

/-- A device with nothing recorded. -/
def Health.reset : Health :=
  { out := 0, mismatch := [], bayErrs := [], bayBad := [], bayMended := [], lineBad := [], symbols := [], unrec := [], lastRec := [], hangAt := 0, hangWin := 0x101F4,
    replace := false, failover := false }

/-- The states of a stocktake (R468 to R470). -/
structure Stock where
  /-- units not yet read, by number -/
  next : Nat
  total : Nat
  bytes : Nat
  sections : Nat
  silent : Nat
  trunc : Bool
  deriving DecidableEq, Repr

/-- A chip reset (R463 to R466, Table 18-16). -/
structure Crst where
  /-- the step that has not finished, 0 when none runs: 4 stocktake, 5 compute-die reset, 6 to 8 HBM training and after -/
  step : Nat
  cause : Nat
  count : W32
  /-- a second chip fatal fault in steps 5 to 7 holds the die (R464) -/
  retried : Bool
  held : Bool
  /-- PERST# resets the host port and the registers outside the Gatehouse and the I/O dies (R467) -/
  perst : Bool
  dump : Bool
  t0 : W64
  src : Nat
  seq : W32
  epoch : Nat
  /-- pitches that were not OFF, and those among them that a DISABLE was ending -/
  live : List Nat
  stock : Option Stock
  /-- memory units whose controller did not confirm step 3 (R466) -/
  unconfirmed : List Nat
  /-- lines that the controllers had in their atomic buffers or their queues at step 3, by the byte key divided by 64 (R466) -/
  touched : List Nat
  deriving DecidableEq, Repr

/-- No chip reset. -/
def Crst.reset : Crst :=
  { step := 0, cause := 0, count := 0, retried := false, held := false, perst := false, dump := false, t0 := 0, src := 0,
    seq := 0, epoch := 0, live := [], stock := none, unconfirmed := [], touched := [] }

/-- What a subject of hang detection showed at its last window (R461, R462). -/
structure Watch where
  seen : Nat
  last : W64
  raised : Bool
  deriving DecidableEq, Repr

/-- The states of the redundant pair (Table 19-1). -/
inductive PairState where
  | independent | joining | paired | single | stoodDown
  deriving DecidableEq, Repr

/-- The code of a pair state. -/
def PairState.code : PairState → Nat
  | .independent => 0 | .joining => 1 | .paired => 2 | .single => 3 | .stoodDown => 4

/-- A record of the primary's front end, or a write that it copies (R481, R484, R489). -/
inductive PairRec where
  | queue (n : Nat) (x : Option Queue)
  | fence (n : Nat) (x : Option Fence)
  | win (n : Nat) (x : Option (W64 × W64 × Nat))
  | slot (n : Nat) (x : Slot)
  /-- bytes that the primary is to write to host memory for a completion -/
  | host (addr : W64) (bytes : List Byte)
  /-- a register written through a function's BAR0 -/
  | reg (fn off : Nat) (v : W64)
  /-- bytes written through BAR4, by memory unit -/
  | bar (unit off : Nat) (bytes : List Byte) (poison : Bool)
  | reset (p cause : Nat) (scrub : Bool)
  /-- a launch ended by KILL -/
  | kill (sq : Nat) (hseq : W32)
  /-- a launch placed: its first instruction -/
  | launch (entry : Nat) (x : Launch)
  /-- a PSEND of a channel has completed, or ended with a status (R489) -/
  | landed (stall chan : Nat) (status : Nat)
  deriving DecidableEq, Repr

/-- A pair message that waits for a credit of its bridge link (R485). -/
structure PairMsg where
  link : Nat
  mtype : Nat
  arg : W64
  data : List Byte
  deriving DecidableEq, Repr

/-- The redundant pair as one package sees it (spec 19). -/
structure Pair where
  mode : Nat
  primary : Bool
  state : PairState
  failovers : W32
  compared : W32
  mismatch : W32
  /-- ports 0 to 6 are held OFF (R479) -/
  portsHeld : Bool
  /-- a copied write of the primary is being applied (R481) -/
  copying : Bool
  /-- sequence of PAIR_STATE messages sent and of the last one applied -/
  sentSeq : W32
  seenSeq : W32
  /-- messages that wait for credit, and those unacknowledged: MSGID, link, bytes -/
  waiting : List PairMsg
  sent : List (Nat × Nat × Nat)
  /-- front-end state as last sent -/
  shownQ : Tab Queue
  shownF : Tab Fence
  shownW : Tab (W64 × W64 × Nat)
  shownS : Vector Slot 64
  /-- what the primary has to show its hosts and holds until the secondary has acknowledged the state behind it, and how much of that
  has been sent to it (R484) -/
  heldOut : List Out
  heldTold : Nat
  /-- fences whose SIGNAL's value has been sent -/
  told : List Nat
  /-- records and status blocks that the secondary holds, by host address (Table 19-5) -/
  records : Tab (List Byte)
  /-- digests of the partner that wait for the primary's own: (SQ, HSEQ, digest, status) -/
  digests : List (Nat × W32 × W64 × Nat)
  /-- launches that are over and wait for their digests (R491) -/
  awaiting : List Nat
  /-- both heartbeats' last receipt: bridge, sideband -/
  beatBridge : W64
  beatSide : W64
  /-- host reads of the primary's channels copied here, oldest first: stall, channel, bytes (R489) -/
  copies : List (Nat × Nat × List Byte)
  /-- PSENDs of the primary's channels that have completed and whose own have not begun here, oldest first: stall, channel, status (R489) -/
  landings : List (Nat × Nat × Nat)
  deriving DecidableEq, Repr

/-- A package that is no part of a pair. -/
def Pair.reset : Pair :=
  { mode := 0, primary := false, state := .independent, failovers := 0, compared := 0, mismatch := 0, portsHeld := false,
    copying := false, sentSeq := 0, seenSeq := 0, waiting := [], sent := [], shownQ := [], shownF := [], shownW := [],
    shownS := Vector.replicate 64 Slot.free, heldOut := [], heldTold := 0, told := [], records := [], digests := [], awaiting := [], beatBridge := 0, beatSide := 0,
    copies := [], landings := [] }

end Sys2Proof.Machine

namespace Sys2Proof.Config

/-- FREE VALUE. How PAIR_STATE carries its records, and its reading (R485 names them and gives no layout). -/
opaque pairBytes : List Machine.PairRec → List Byte
opaque pairRecs : List Byte → List Machine.PairRec

/-- FREE VALUE. What bits [63:42] of the ARG of a PAIR_DIGEST say of the launch's status, and their reading (R485 gives no place for
the status that Table 19-6 reports). -/
opaque digestTag : Nat → Nat
opaque digestStatus : Nat → Nat

/-- FREE VALUE. The ARG of a PAIR_WRITE that copies a deposit or a host read into the matching buffer, and its reading: stall, channel,
and whether it is a deposit (R489 names the matching buffer, and R485 gives an ARG for device memory alone). -/
opaque pairBuf : Nat → Nat → Bool → W64
opaque pairBufAt : W64 → Option (Nat × Nat × Bool)

end Sys2Proof.Config
end

