-- ==== Sys2Proof/Machine/State.lean ====
section
/-! DEFINITION. The state of the block, what it is right after reset, and the reasons a step can stop. -/

namespace Sys2Proof.Machine

/-- Why a command stops the machine. No command of the table faults; the constructor keeps the type inhabited. -/
inductive Fault where
  /-- raised by no meaning; safe -/
  | unreachable
  deriving DecidableEq, Repr

/-- Why a command has no meaning here. -/
inductive Refusal where
  /-- a row of the table whose meaning is not written; raised by an arm of exec alone; safe -/
  | notModelled (mnemonic : String)
  deriving DecidableEq, Repr

/-- The parts of the family (R2). -/
inductive PartKind where
  | s768 | s384 | d1536
  deriving DecidableEq, Repr

/-- What is fixed in one package: its part, package index, UID and the fuse map (R2, R12 to R14, R543). -/
structure Chip where
  part : PartKind
  pkg : Nat
  uid : BitVec 128
  /-- physical stall of each logical stall; 0xFF for one that is out of service -/
  map : List Nat
  deriving DecidableEq, Repr

/-- The front end (spec 13, 14). -/
structure FrontEnd where
  queues : Tab Queue
  pendMask : BitVec 64
  st : FeState
  idlePending : Bool
  /-- the present pass has found something new, and the groups it has scanned (Table 13-2) -/
  foundNew : Bool
  passed : BitVec 64
  /-- groups whose doorbell entries are being read (R320) -/
  reading : BitVec 64
  /-- when a group last had a descriptor fetched or a record consumed (R323) -/
  lastNew : Tab W64
  /-- service SQs that are ready and not resident, in the order in which they became so (R360, R361) -/
  readyQ : List Nat
  /-- an internal wake has occurred and the callers have not met it (Table 13-2) -/
  wake : Bool
  /-- host windows by pitch × 64 + index: base, size, permission bits (R335) -/
  wins : Tab (W64 × W64 × Nat)
  launches : Tab Launch
  nextLaunch : Nat
  fences : Tab Fence
  slots : Vector Slot 64
  pitches : Vector Pitch 24
  deriving DecidableEq, Repr

/-- The clock of the Gatehouse (spec 16). -/
structure Clock where
  time : W64
  /-- no later reading is below this (R391) -/
  floor : W64
  /-- steering in parts per 2^32 of a nanosecond per tick, and the fraction carried -/
  rate : Int
  frac : Int
  /-- a load that waits for the next tick or PPS edge (R394) -/
  loadPending : Option W64
  /-- GH_TSTAT fields (Table 16-4) -/
  tstate : Nat
  valid : Bool
  ppsOk : Bool
  hops : Nat
  theta : Int
  /-- δ of the latest exchange, the one-way link delay in ns (R397) -/
  delay : Int
  ppsBad : Nat
  /-- edges accepted in a row, and the time of the last accepted one -/
  ppsRun : Nat
  ppsLast : Option W64
  /-- an exchange in progress: its t1 -/
  exch : Option W64
  exchOk : Nat
  exchFail : Nat
  deriving DecidableEq, Repr

/-- The clock when the supply comes up. -/
def Clock.reset : Clock :=
  { time := 0, floor := 0, rate := 0, frac := 0, loadPending := none, tstate := 0, valid := false, ppsOk := false,
    hops := 255, theta := 0, delay := 0, ppsBad := 0, ppsRun := 0, ppsLast := none, exch := none, exchOk := 0, exchFail := 0 }

/-- The state of the block. -/
structure State where
  /-- commands that wait, first in, first out -/
  pending : List Instr
  /-- how many free values have been drawn (the model's own) -/
  free : Nat
  /-- operations issued, in order (the model's own) -/
  serial : Nat
  chip : Chip
  stalls : Vector Stall 48
  tokens : List Token
  tokReqs : List TokReq
  /-- bay words with check bits, by stall × 2^22 + bay address (R126, R163) -/
  bays : Tab (BitVec 39)
  /-- corrected words to be rewritten (R165) -/
  rewrites : List (Nat × BitVec 39)
  mem : Mem
  /-- set-up registers that differ from their reset values, by function × 2^32 + offset -/
  regs : Tab W64
  fe : FrontEnd
  dbk : Vector Ring 25
  flt : Vector Ring 25
  rcl : Vector Ring 24
  /-- MSI-X vectors by function × 64 + vector -/
  msi : Tab MsiVec
  clk : Clock
  net : Net
  health : Health
  crst : Crst
  /-- subjects of hang detection, by kind × 2^48 + subject -/
  watch : Tab Watch
  pair : Pair
  sec : Security
  fw : Firmware
  pw : Power
  md : Module
  /-- TC5 requests accepted on PCIe by function (Table 22-10) -/
  hostAcc : Tab W64
  srcLast : Tab W64
  srcSeq : Tab W32
  out : List Out
  deriving DecidableEq, Repr

/-- The chip of the model's reset state: an S768 whose spares are P48 to P51, with the fuse map of R13 (log 6). -/
def Chip.reset : Chip := { part := .s768, pkg := 0, uid := 0, map := fuseMap [48, 49, 50, 51] }

/-- The front end after power-on. -/
def FrontEnd.reset : FrontEnd :=
  { queues := [], pendMask := 0, st := .asleep, idlePending := false, foundNew := false, passed := 0,
    reading := 0, lastNew := [], readyQ := [], wake := false, wins := [], launches := [],
    nextLaunch := 0, fences := [], slots := Vector.replicate 64 Slot.free, pitches := Vector.replicate 24 Pitch.reset }

/-- The block right after reset. -/
def State.reset : State :=
  { pending := [], free := 0, serial := 0, chip := Chip.reset, stalls := Vector.replicate 48 Stall.reset, tokens := [],
    tokReqs := [], bays := [], rewrites := [], mem := Mem.reset, regs := [], fe := FrontEnd.reset,
    dbk := Vector.replicate 25 Ring.zero, flt := Vector.replicate 25 Ring.zero, rcl := Vector.replicate 24 Ring.zero,
    msi := [], clk := Clock.reset, net := Net.reset, health := Health.reset, crst := Crst.reset, watch := [],
    pair := Pair.reset, sec := Security.reset, fw := Firmware.reset, pw := Power.reset, md := Module.reset, hostAcc := [], srcLast := [], srcSeq := [], out := [] }

end Sys2Proof.Machine
end

