-- ==== Sys2Proof/Machine/RegMap.lean ====
section
/-! DEFINITION. The set-up registers as stored words: their offsets, their reset values, and raw reads and writes
(spec 22 Tables 22-5 and 22-6 and each register's home chapter). -/

namespace Sys2Proof.Machine

/-- Capacity of a memory unit in bytes (R265). -/
def PartKind.unitBytes : PartKind → Nat
  | .s768 => 32 * 2 ^ 30
  | .s384 => 16 * 2 ^ 30
  | .d1536 => 32 * 2 ^ 30

/-- The PART code (Table 22-7). -/
def PartKind.code : PartKind → Nat
  | .s768 => 0 | .s384 => 1 | .d1536 => 2

/-- The number of ones among the low 64 bits of a number. -/
def popcount (v : Nat) : Nat := ((List.range 64).filter (fun i => bit v i)).length

/-! Offsets of the function block (Table 22-5). -/
def offAqCfg : Nat := 0x20
def offAqSqb : Nat := 0x28
def offAqCqb : Nat := 0x30
def offAqSqsb : Nat := 0x38
def offAqCqsb : Nat := 0x40
def offDba : Nat := 0x48
def offPsb : Nat := 0x50
def offFctBase : Nat := 0x58
def offFctFrames : Nat := 0x60
def offRclBase : Nat := 0x68
def offRclSize : Nat := 0x70
def offRclHead : Nat := 0x78
def offWin : Nat := 0x80
def offAccErr : Nat := 0x88
def offPkr (n : Nat) : Nat := 0x1000 + 32 * n
def offPktbl : Nat := 0x1200
def offFnArea : Nat := 0x1300
def offFnDef : Nat := 0x1308
def offSched : Nat := 0x1318
def offVmod (v : Nat) : Nat := 0x1400 + 8 * v
def offEvent : Nat := 0x1600
def offDbk : Nat := 0x1700
def offTime : Nat := 0x1728
def offFlt : Nat := 0x1740
def offDumpBase : Nat := 0x1800
def offDumpSize : Nat := 0x1808
def offMir (n : Nat) : Nat := 0x1900 + 16 * n
def offPower : Nat := 0x1A00
def offIbox (m : Nat) : Nat := 0x2000 + 8 * m
def offObox (n : Nat) : Nat := 0x2800 + 8 * n
def offMsix : Nat := 0x3000
def offPba : Nat := 0x3800

/-! Offsets of the installer block (Table 22-6). -/
def offTimeLoad : Nat := 0x1000008
def offTsync : Nat := 0x1000010
def offTstat : Nat := 0x1000018
def offGhDbk : Nat := 0x1001000
def offGhFlt : Nat := 0x1001040
def offGhDumpBase : Nat := 0x1002000
def offGhDumpCfg : Nat := 0x1002008
def offRetain : Nat := 0x1002010
def offHealth : Nat := 0x1002018
def offMapOut : Nat := 0x1002020
def offHangWin : Nat := 0x1002028
def offCrst : Nat := 0x1002030
def offPwrLimit : Nat := 0x1003000
def offPwrStat : Nat := 0x1003008
def offTsens (n : Nat) : Nat := 0x1003100 + 8 * n
def offGhWin : Nat := 0x1004018
def offXlat (p : Nat) : Nat := 0x1400000 + 0x40 * p
def offMreg (p : Nat) : Nat := 0x1400008 + 0x40 * p
def offFrange (p : Nat) : Nat := 0x1400010 + 0x40 * p
def offSlots (p : Nat) : Nat := 0x1400018 + 0x40 * p
def offPcfg (p : Nat) : Nat := 0x1400020 + 0x40 * p
def offPrst (p : Nat) : Nat := 0x1400028 + 0x40 * p
def offCsCtl (n : Nat) : Nat := 0x1410000 + 0x20 * n
def offCsMap (n : Nat) : Nat := 0x1410008 + 0x20 * n
def offCsPitch (n : Nat) : Nat := 0x1410010 + 0x20 * n
def offCsres : Nat := 0x1410200
def offTherm : Nat := 0x1410208
def offStk (k : Nat) : Nat := 0x1410300 + 8 * k
def offPch (m : Nat) : Nat := 0x1410400 + 8 * m
def offSlot (n : Nat) : Nat := 0x1500000 + 0x20 * n
def offBgrp (g : Nat) : Nat := 0x1501000 + 8 * g
def offHost (f : Nat) : Nat := 0x1502000 + 0x10 * f
def offLkChip : Nat := 0x1600000
def offSlowLim : Nat := 0x1600008
def offPort (n : Nat) : Nat := 0x1600100 + 0x10 * n
def offLink (i : Nat) : Nat := 0x1600200 + 0x20 * i
def offRtbl (c : Nat) : Nat := 0x1608000 + 8 * c
def offSecAddr : Nat := 0x1700000
def offSecCmd : Nat := 0x1700008
def offSecStat : Nat := 0x1700010
def offBayWin (n : Nat) : Nat := 0x1800000 + 8 * n
def offTally (s : Nat) : Nat := 0x1801000 + 0x20 * s
def offPchan (s c : Nat) : Nat := 0x1802000 + 0x80 * s + 0x10 * c
def offPwr (s : Nat) : Nat := 0x1804000 + 8 * s
def offLmap (s : Nat) : Nat := 0x1805000 + 8 * s
def offModPair : Nat := 0x1900000
def offModSdc : Nat := 0x1900008

/-- Input-power maximum of a part in watts: the reset value of LIMIT (R505). -/
def PartKind.maxPower : PartKind → Nat
  | .s768 => 2700 | .s384 => 2600 | .d1536 => 2700

/-- The reset value of the stored word of a register (the Reset columns of the register tables). -/
def resetWord (part : PartKind) (off : Nat) : Nat :=
  if off < 0x10000 then
    if off = offAqCfg then 0xFF * 2 ^ 48
    else if off = offAqSqb || off = offAqCqb then 4
    else if off = offRclSize then 64
    else if off = offSched then 1000 * 2 ^ 16
    else if 0x1400 ≤ off && off < 0x1600 then 2 ^ 16
    else if off = offDbk + 8 then 0x4E08
    else if off = offFlt + 8 then 8
    else if off = offPower then 20 + 100 * 2 ^ 32
    else 0
  else if 0x1400000 ≤ off && off < 0x1400600 then
    if off % 0x40 = 8 then 16 * 2 ^ 32 + 16 * 2 ^ 40 + 16 * 2 ^ 48
    else if off % 0x40 = 0x20 then 2 ^ 32
    else 0
  else if off = offTsync then 10 * 2 ^ 16
  else if off = offGhDbk + 8 then 0x4E08
  else if off = offGhFlt + 8 then 8
  else if off = offGhDumpCfg then 2 ^ 7
  else if off = offHangWin then 500 + 2 ^ 16
  else if off = offPwrLimit then part.maxPower + 2 ^ 16 + 74 * 2 ^ 24
  else if off = offTherm then 64
  else if off = offSlowLim then 30
  else 0

/-- The key of a register of a function's BAR0. -/
def regKey (fn off : Nat) : Nat := fn * 2 ^ 32 + off

/-- The stored word of a register. -/
def State.raw (s : State) (fn off : Nat) : Nat :=
  match Tab.find s.regs (regKey fn off) with
  | some w => w.toNat
  | none => resetWord s.chip.part off

/-- The state with a register's stored word set; a reset value unlists it. -/
def State.setRaw (s : State) (fn off v : Nat) : State :=
  if v % 2 ^ 64 = resetWord s.chip.part off then { s with regs := Tab.del s.regs (regKey fn off) }
  else { s with regs := Tab.put s.regs (regKey fn off) (BitVec.ofNat 64 v) }

/-- A number with bits `hi` down to `lo` replaced. -/
def setBits (w hi lo v : Nat) : Nat :=
  (w / 2 ^ (hi + 1)) * 2 ^ (hi + 1) + (v % 2 ^ (hi + 1 - lo)) * 2 ^ lo + w % 2 ^ lo

/-- The bits `hi` down to `lo` as a mask. -/
def mask (hi lo : Nat) : Nat := 2 ^ (hi + 1) - 2 ^ lo

/-- A value with the bits of a mask taken from another. -/
def blend (old v m : Nat) : Nat := (old - Nat.land old m) + Nat.land v m

/-- Whether two values differ in a mask. -/
def differs (a b m : Nat) : Bool := Nat.land a m != Nat.land b m

/-- A field of a stored register word. -/
def State.fld (s : State) (fn off hi lo : Nat) : Nat := bits (s.raw fn off) hi lo

/-- The state with one field of a register set. -/
def State.setFld (s : State) (fn off hi lo v : Nat) : State := s.setRaw fn off (setBits (s.raw fn off) hi lo v)

end Sys2Proof.Machine
end

