-- ==== Sys2Proof/Machine/Ops.lean ====
section
/-! DEFINITION. The operations every command shares: accessors of stalls and contexts, FK time and sequences, host
writes, MSI-X causes, the Daybook, fault and reclaim rings, and fault records (spec 15, 16, 18). -/

namespace Sys2Proof.Machine

/-- What a command answers. -/
abbrev Res := Host.Outcome State Fault Refusal

/-! ### Stalls and contexts -/

/-- A stall by number; a number with no stall reads as a reset stall. -/
def State.stall (s : State) (i : Nat) : Stall := s.stalls[i]?.getD Stall.reset

/-- The state with a stall changed. -/
def State.modStall (s : State) (i : Nat) (f : Stall → Stall) : State :=
  { s with stalls := s.stalls.setIfInBounds i (f (s.stall i)) }

/-- A context of a stall. -/
def State.ctxOf (s : State) (i c : Nat) : Ctx := (s.stall i).ctx[c]?.getD Ctx.reset

/-- The state with a context changed. -/
def State.modCtx (s : State) (i c : Nat) (f : Ctx → Ctx) : State :=
  s.modStall i (fun x => { x with ctx := x.ctx.setIfInBounds c (f (x.ctx[c]?.getD Ctx.reset)) })

/-- A split of a stall. -/
def State.splitOf (s : State) (i k : Nat) : Split := (s.stall i).splits[k]?.getD Split.reset

/-- The state with a split changed. -/
def State.modSplit (s : State) (i k : Nat) (f : Split → Split) : State :=
  s.modStall i (fun x => { x with splits := x.splits.setIfInBounds k (f (x.splits[k]?.getD Split.reset)) })

/-- A Porter channel of a stall. -/
def State.chanOf (s : State) (i c : Nat) : Chan := (s.stall i).chans[c]?.getD Chan.reset

/-- The state with a channel changed. -/
def State.modChan (s : State) (i c : Nat) (f : Chan → Chan) : State :=
  s.modStall i (fun x => { x with chans := x.chans.setIfInBounds c (f (x.chans[c]?.getD Chan.reset)) })

/-- A general register; g0 reads as zero (R125). -/
def Ctx.getG (c : Ctx) (r : Nat) : W64 := if r = 0 then 0 else c.g[r]?.getD 0

/-- The context with a general register written; writes to g0 are discarded (R125). -/
def Ctx.setG (c : Ctx) (r : Nat) (v : W64) : Ctx := if r = 0 then c else { c with g := c.g.setIfInBounds r v }

/-- An address register. -/
def Ctx.getA (c : Ctx) (r : Nat) : W64 := c.a[r]?.getD 0
/-- The context with an address register written. -/
def Ctx.setA (c : Ctx) (r : Nat) (v : W64) : Ctx := { c with a := c.a.setIfInBounds r v }
/-- A tensor-descriptor register. -/
def Ctx.getT (c : Ctx) (r : Nat) : BitVec 512 := c.t[r]?.getD 0
/-- The context with a tensor-descriptor register written. -/
def Ctx.setT (c : Ctx) (r : Nat) (v : BitVec 512) : Ctx := { c with t := c.t.setIfInBounds r v }
/-- A vector register. -/
def Ctx.getV (c : Ctx) (r : Nat) : Vector W32 256 := c.v[r]?.getD (Vector.replicate 256 0)
/-- The context with a vector register written. -/
def Ctx.setV (c : Ctx) (r : Nat) (v : Vector W32 256) : Ctx := { c with v := c.v.setIfInBounds r v }
/-- A predicate; p0 reads true (R125). -/
def Ctx.getP (c : Ctx) (r : Nat) : Bool := if r = 0 then true else c.p[r]?.getD false
/-- The context with a predicate written; writes to p0 are discarded (R125). -/
def Ctx.setP (c : Ctx) (r : Nat) (v : Bool) : Ctx := if r = 0 then c else { c with p := c.p.setIfInBounds r v }

/-- A launch by number. -/
def State.launch? (s : State) (l : Nat) : Option Launch := Tab.find s.fe.launches l

/-- The state with a launch changed, if it is known. -/
def State.modLaunch (s : State) (l : Nat) (f : Launch → Launch) : State :=
  match s.launch? l with
  | some x => { s with fe := { s.fe with launches := Tab.put s.fe.launches l (f x) } }
  | none => s

/-- A queue by number. -/
def State.queue? (s : State) (q : Nat) : Option Queue := Tab.find s.fe.queues q

/-- The state with a queue changed, if it exists; its status block becomes due (R343). -/
def State.modQueue (s : State) (q : Nat) (f : Queue → Queue) : State :=
  match s.queue? q with
  | some x => { s with fe := { s.fe with queues := Tab.put s.fe.queues q { f x with dirty := true } } }
  | none => s

/-- A pitch by number. -/
def State.pitch (s : State) (p : Nat) : Pitch := s.fe.pitches[p]?.getD Pitch.reset

/-- The state with a pitch changed. -/
def State.modPitch (s : State) (p : Nat) (f : Pitch → Pitch) : State :=
  { s with fe := { s.fe with pitches := s.fe.pitches.setIfInBounds p (f (s.pitch p)) } }

/-- A hardware slot. -/
def State.slotOf (s : State) (n : Nat) : Slot := s.fe.slots[n]?.getD Slot.free

/-- The state with a hardware slot changed. -/
def State.modSlot (s : State) (n : Nat) (f : Slot → Slot) : State :=
  { s with fe := { s.fe with slots := s.fe.slots.setIfInBounds n (f (s.slotOf n)) } }

/-- The state with one more operation issued. -/
def State.tickSerial (s : State) : State := { s with serial := s.serial + 1 }

/-! ### Pitches and functions (R372, R373) -/

/-- PF0: pitch 0 belongs to the physical function. -/
def State.pf0 (s : State) : Bool := s.fld 0 (offPcfg 0) 25 25 == 1

/-- The function that a pitch belongs to (R372). -/
def State.fnOf (s : State) (p : Nat) : Nat := if p = 0 && s.pf0 then 0 else p + 1

/-- The pitch that a function serves, if any; whether the function is idle is another matter (R373). -/
def State.pitchOfFn (s : State) (fn : Nat) : Option Nat :=
  if fn = 0 then (if s.pf0 then some 0 else none)
  else if fn = 1 && s.pf0 then none
  else some (fn - 1)

/-- Whether this package is the secondary of a pair: it copies or compares, and serves no function (R479, R481, R489). -/
def State.shadow (s : State) : Bool := s.pair.state == .paired && !s.pair.primary

/-- Whether this package is the primary of a pair. -/
def State.leads (s : State) : Bool := s.pair.state == .paired && s.pair.primary

/-- Whether this package's functions are idle for its place in a pair: it has stood down, or is a secondary that applies no copied write
(R481, R493). -/
def State.pairIdle (s : State) : Bool := s.pair.state == .stoodDown || (s.shadow && !s.pair.copying)

/-- The pitch that a function now serves; an idle function serves none (R373). -/
def State.servedPitch (s : State) (fn : Nat) : Option Nat :=
  match s.pitchOfFn fn with
  | some p => if (s.pitch p).state = .off || s.pairIdle then none else some p
  | none => none

/-- A field of a register of the function that a pitch belongs to. -/
def State.pfld (s : State) (p off hi lo : Nat) : Nat := s.fld (s.fnOf p) off hi lo

/-- The units of a pitch in ascending order (R268, R371). -/
def State.unitsOf (s : State) (p : Nat) : List Nat :=
  (List.range 24).filter (fun u => bit (s.raw 0 (offPcfg p)) u)

/-- The pitch that a unit belongs to: one that is not off and names it (R369). -/
def State.ownerOf (s : State) (u : Nat) : Option Nat :=
  (List.range 24).find? (fun p => (s.pitch p).state != .off && bit (s.raw 0 (offPcfg p)) u)

/-- The logical stalls of a pitch (R371). -/
def State.stallsOf (s : State) (p : Nat) : List Nat := (s.unitsOf p).flatMap (fun u => [2 * u, 2 * u + 1])

/-- MSI-X vectors of a pitch, 1 to 64 (Table 15-1). -/
def State.vectorsOf (s : State) (p : Nat) : Nat :=
  let v := s.fld 0 (offPcfg p) 38 32
  if v = 0 then 1 else min v 64

/-- Whether the compute die does not serve: in a chip reset, held, or not yet started (R425, R464, R569). -/
def State.dieDown (s : State) : Bool := decide (0 < s.crst.step) || s.crst.held || !s.md.started

/-! ### FK time and sequences (R391 to R393, R400) -/

/-- Whether the compute die's fast clocks run: its last rail is up (R299, R392). -/
def State.fine (s : State) : Bool := decide (6 ≤ s.md.rails)

/-- FK time as a unit reads it now: the master count, and while the fast clocks run a free interpolation below one tick; never below an
earlier reading (R391, R392). -/
def State.now (s : State) : W64 :=
  let t := if s.fine then s.clk.time + BitVec.ofNat 64 (Config.fineNs s.free % 40) else s.clk.time
  if (t - s.clk.floor).toNat < 2 ^ 63 then t else s.clk.floor

/-- The state after a reading of FK time. -/
def State.afterNow (s : State) : State :=
  { s with free := s.free + 1, clk := { s.clk with floor := s.now } }

/-- The timestamp of the next record of a source: later than its previous one (R393). -/
def State.stamp (s : State) (src : Nat) : W64 :=
  let last := Tab.get 0 s.srcLast src
  if last < s.now then s.now else last + 1

/-- The state after a source has stamped a record. -/
def State.afterStamp (s : State) (src : Nat) : State :=
  { s.afterNow with srcLast := Tab.set 0 s.srcLast src (s.stamp src) }

/-- The sequence number of the next Daybook, fault or reclaim record of a source (R400). -/
def State.seqOf (s : State) (src : Nat) : W32 := Tab.get 0 s.srcSeq src

/-- The state after a source has numbered a record. -/
def State.afterSeq (s : State) (src : Nat) : State :=
  { s with srcSeq := Tab.set 0 s.srcSeq src (s.seqOf src + 1) }

/-- A 64-bit value that the spec leaves open, and the state after it is drawn. -/
def State.anyWord (s : State) : W64 := Config.anyWord s.free
def State.afterAny (s : State) : State := { s with free := s.free + 1 }

/-! Source ids (Table 16-7). -/
def srcGate : Nat := 0x0000
def srcClerk : Nat := 0x0001
def srcSec : Nat := 0x0002
def srcFront : Nat := 0x0003
def srcLink (i : Nat) : Nat := 0x0100 + i
def srcEngine : Nat := 0x0120
def srcQueue (q : Nat) : Nat := 0x1000 + q
def srcPitch (p : Nat) : Nat := 0x2000 + p
def srcInstaller : Nat := 0x2018
def srcCtx (st c : Nat) : Nat := 0x3000 + 8 * st + c
def srcStall (st : Nat) : Nat := 0x3000 + 8 * st + 4
def srcChan (st ch : Nat) : Nat := 0x4000 + 8 * st + ch
def srcMc (m : Nat) : Nat := 0x5000 + m

/-! ### Output -/

/-- The state with something sent to the outside. -/
def State.emit (s : State) (o : Out) : State := { s with out := s.out ++ [o] }

/-- A request of a function accepted by the host port; the installer's own are the PF's (Table 22-10). -/
def State.hostAsk (s : State) (fn : Option Nat) : State :=
  { s with hostAcc := Tab.modify 0 s.hostAcc (fn.getD 0) (· + 1) }

/-- The state with one posted write TLP sent to host memory (R536) for a function, or for the installer. A secondary writes nothing for
a pitch. -/
def State.hostWrite (s : State) (fn : Option Nat) (addr : Nat) (bs : List Byte) : State :=
  if s.shadow && (fn.bind s.pitchOfFn).isSome then s else (s.hostAsk fn).emit (.hostWrite (BitVec.ofNat 64 addr) bs)

/-- A completion record or a status block written for a function. A primary holds it until its secondary has acknowledged the state behind
it (R484). -/
def State.hostShow (s : State) (fn : Nat) (addr : Nat) (bs : List Byte) : State :=
  if s.leads then
    let o := Out.hostWrite (BitVec.ofNat 64 addr) bs
    { s.hostAsk (some fn) with pair := { s.pair with heldOut := s.pair.heldOut ++ [o] } }
  else s.hostWrite (some fn) addr bs

/-- A message that follows whatever is held. -/
def State.emitAfter (s : State) (o : Out) : State :=
  if s.pair.heldOut.isEmpty then s.emit o else { s with pair := { s.pair with heldOut := s.pair.heldOut ++ [o] } }

/-! ### MSI-X (R375 to R378) -/

/-- An MSI-X vector of a function. -/
def State.msiOf (s : State) (fn v : Nat) : MsiVec := Tab.get MsiVec.reset s.msi (fn * 64 + v)

/-- The state with a vector changed. -/
def State.modMsi (s : State) (fn v : Nat) (f : MsiVec → MsiVec) : State :=
  { s with msi := Tab.modify MsiVec.reset s.msi (fn * 64 + v) f }

/-- How many vectors a function's table has (R540, R375). -/
def State.tableSize (s : State) (fn : Nat) : Nat :=
  match s.pitchOfFn fn with
  | some p => s.vectorsOf p
  | none => if fn = 0 then 4 else 0

/-- Whether the mask of a vector or of its function holds messages back. -/
def State.msiMasked (s : State) (fn v : Nat) : Bool := (s.msiOf fn v).mask || s.md.fnMask.getLsbD fn

/-- Whether a function is idle: a virtual function that serves no pitch, which sends no message (R373). -/
def State.fnIdle (s : State) (fn : Nat) : Bool := fn != 0 && (s.servedPitch fn).isNone

/-- A message of a vector: sent at once, or held as the pending bit where the mask holds it back (R377 step 3).
Either way it counts as sent. -/
def State.sendMsi (s : State) (fn v : Nat) : State :=
  let m := s.msiOf fn v
  let held := s.msiMasked fn v
  let s1 := s.modMsi fn v (fun m => { m with pend := m.pend || held, count := 0, sent := m.sent + 1 })
  if held then s1 else s1.emitAfter (.msix fn v m.addr m.data)

/-- COUNT of a vector's moderation register; 0 acts as 1 (Table 15-3). -/
def State.vmodCount (s : State) (fn v : Nat) : Nat := max 1 (s.fld fn (offVmod v) 23 16)
/-- HOLD of a vector's moderation register in µs. -/
def State.vmodHold (s : State) (fn v : Nat) : Nat := s.fld fn (offVmod v) 11 0

/-- Whether the internal mask of the function's pitch holds (R382 step 1). -/
def State.internalMask (s : State) (fn : Nat) : Bool :=
  match s.pitchOfFn fn with
  | some p => (s.pitch p).masked
  | none => false

/-- A cause on a vector (R377). -/
def State.raiseCause (s : State) (fn v : Nat) : State :=
  if s.tableSize fn ≤ v || s.shadow then s
  else if s.internalMask fn then s.modMsi fn v (fun m => { m with heldCause := true })
  else
    let t := s.now
    let s1 := s.afterNow.modMsi fn v (fun m =>
      { m with t0 := if m.count = 0 then t else m.t0, count := m.count + 1, hold := s.vmodHold fn v })
    if s1.vmodHold fn v = 0 || s1.vmodCount fn v ≤ (s1.msiOf fn v).count then s1.sendMsi fn v else s1

/-- An event message of a pitch, which ignores COUNT and HOLD (R378). -/
def State.eventMsg (s : State) (p : Nat) : State :=
  let fn := s.fnOf p
  let v := s.fld fn offEvent 5 0
  if s.fld fn offEvent 6 6 = 0 || s.vectorsOf p ≤ v || s.shadow then s
  else if s.internalMask fn then s.modMsi fn v (fun m => { m with heldCause := true })
  else
    let m := s.msiOf fn v
    let held := s.msiMasked fn v
    let s1 := s.modMsi fn v (fun m => { m with pend := m.pend || held, sent := m.sent + 1 })
    if held then s1 else s1.emitAfter (.msix fn v m.addr m.data)

/-! ### Rings (R403 to R405, R451) -/

/-- The function and the register offset at which a ring is registered: pitch `k`, or the installer for 24. -/
def State.dbkReg (s : State) (k : Nat) : Nat × Nat := if k = 24 then (0, offGhDbk) else (s.fnOf k, offDbk)
def State.fltReg (s : State) (k : Nat) : Nat × Nat := if k = 24 then (0, offGhFlt) else (s.fnOf k, offFlt)

/-- ACTIVE of a ring: EN is 1 and LOG2 lies in its range (Tables 16-8, 18-5). -/
def State.ringActive (s : State) (fo : Nat × Nat) (lo hi : Nat) : Bool :=
  s.fld fo.1 fo.2 0 0 == 1 && decide (lo ≤ s.fld fo.1 (fo.2 + 8) 4 0) && decide (s.fld fo.1 (fo.2 + 8) 4 0 ≤ hi)

/-- The function whose request a record of a ring is. -/
def State.ringFn (s : State) (k : Nat) : Option Nat := if k = 24 then none else some (s.fnOf k)

/-- The size of a ring in slots. -/
def State.ringSize (s : State) (fo : Nat × Nat) : Nat := 2 ^ s.fld fo.1 (fo.2 + 8) 4 0

/-- The host address of a ring. -/
def State.ringBase (s : State) (fo : Nat × Nat) : Nat := s.fld fo.1 fo.2 63 12 * 4096

/-- Whether a ring is full (R405). -/
def Ring.full (r : Ring) (size : Nat) : Bool := decide (size ≤ (r.written - r.consumed).toNat)

/-- PHASE of record n (R404). -/
def phaseBit (n size : Nat) : Nat := if (n / size) % 2 = 0 then 1 else 0

/-- A record of a Daybook: what Table 16-6 places before FLAGS and after. -/
structure DbkRec where
  time : W64
  src : Nat
  seq : W32
  type : Nat
  flags : Nat
  payload : List Byte

/-- The 32 bytes of a Daybook record (Table 16-6). -/
def DbkRec.bytes (r : DbkRec) (phase : Nat) : List Byte :=
  leBytes 8 r.time.toNat ++ leBytes 2 r.src ++ leBytes 4 r.seq.toNat ++ leBytes 1 r.type
    ++ leBytes 1 (r.flags % 128 + 128 * phase) ++ (r.payload ++ List.replicate 16 0).take 16

/-- The state with a record put into one Daybook ring: written, or dropped where the ring is full or not active. -/
def State.putDbk (s : State) (k : Nat) (r : DbkRec) : State :=
  let fo := s.dbkReg k
  let ring := s.dbk[k]?.getD Ring.zero
  if s.shadow && k != 24 then s
  else if !s.ringActive fo 8 20 then
    { s with dbk := s.dbk.setIfInBounds k { ring with dropped := ring.dropped + 1 } }
  else
    let size := s.ringSize fo
    if ring.full size || ring.gap != 0 then
      let ring' := { ring with dropped := ring.dropped + 1, gap := ring.gap + 1,
                               gapTime := if ring.gap = 0 then r.time else ring.gapTime }
      { s with dbk := s.dbk.setIfInBounds k ring' }
    else
      let n := ring.written.toNat
      let s1 := { s with dbk := s.dbk.setIfInBounds k { ring with written := ring.written + 1 } }
      s1.hostWrite (s.ringFn k) (s.ringBase fo + 32 * (n % size)) (r.bytes (phaseBit n size))

/-- Record classes of MASK (Table 16-9); none is ALWAYS. -/
inductive DbkClass where
  | always | fetch | launch | porter | fence | link | power | mark
  deriving DecidableEq, Repr

/-- The MASK bit of a class. -/
def DbkClass.maskBit : DbkClass → Option Nat
  | .always => none | .fetch => some 8 | .launch => some 9 | .porter => some 10 | .fence => some 11
  | .link => some 12 | .power => some 13 | .mark => some 14

/-- Whether a Daybook takes records of a class (R406). -/
def State.dbkTakes (s : State) (k : Nat) (c : DbkClass) : Bool :=
  match c.maskBit with
  | none => true
  | some b => bit (s.raw (s.dbkReg k).1 ((s.dbkReg k).2 + 8)) b

/-- A Daybook record posted to the rings named, with one timestamp and one sequence number, and flags of its own (R400, R401,
R406). A coarse stamp, which only the Gatehouse takes, sets COARSE (R392). -/
def State.postDbkF (s : State) (fl : Nat) (ks : List Nat) (c : DbkClass) (src type : Nat) (payload : List Byte) : State :=
  let ks := ks.filter (fun k => s.dbkTakes k c)
  if ks.isEmpty then s
  else
    let r : DbkRec := { time := s.stamp src, src := src, seq := s.seqOf src, type := type,
                        flags := fl + (if src = srcGate ∧ s.fine = false then 1 else 0) + (if s.clk.valid then 0 else 4),
                        payload := payload }
    ks.foldl (fun s k => s.putDbk k r) ((s.afterStamp src).afterSeq src)

/-- A Daybook record without flags of its own. -/
def State.postDbk (s : State) (ks : List Nat) (c : DbkClass) (src type : Nat) (payload : List Byte) : State :=
  s.postDbkF 0 ks c src type payload

/-- The event types of Table 16-11 from 0x20 to 0x26 raise an event message of each pitch to whose Daybook the record has been written
(R378, R408). -/
def State.postEvent (s : State) (ks : List Nat) (src type : Nat) (payload : List Byte) : State :=
  let s1 := s.postDbk ks .always src type payload
  ks.foldl (fun t k => if k < 24 ∧ (s1.dbk[k]?.getD Ring.zero).written ≠ (s.dbk[k]?.getD Ring.zero).written then t.eventMsg k else t) s1

/-- An ERROR record (Table 16-12). -/
def State.postError (s : State) (k : Nat) (src : Nat) (st : Status) (what detail : Nat) : State :=
  s.postDbk [k] .always src 0x10 (leBytes 2 st.code ++ leBytes 2 what ++ leBytes 4 0 ++ leBytes 8 detail)

/-! ### Fault records (R444 to R452) -/

/-- What a fault record says beside its time, source and sequence (Table 18-2). -/
structure FaultInfo where
  cls : Nat
  flags : Nat
  status : Status
  pitch : Option Nat
  split : Nat
  queue : Option Nat
  lstall : Option Nat
  hseq : Nat
  ukind : Nat
  uindex : Nat
  syndrome : Nat
  addr : Nat
  /-- corrected events not recorded since the unit's previous record (R452) -/
  count : Nat := 0
  /-- SEQ_ID of the page list of a walk that fails (R217) -/
  seqid : Nat := 0
  deriving DecidableEq, Repr

/-- The physical stall of a logical stall (R13). -/
def State.pstall (s : State) (l : Nat) : Nat := (s.chip.map[l]?).getD 0xFF

/-- Whether a logical stall is in service. -/
def State.inService (s : State) (l : Nat) : Bool :=
  let p := s.pstall l
  decide (p < 52) && !s.health.out.getLsbD p

/-- SPLIT of a fault record: 0xFF where NOCTX is set (R448). -/
def FaultInfo.splitByte (f : FaultInfo) : Nat := if bit f.flags 1 then 0xFF else f.split

/-- The 64 bytes of a fault record (Table 18-2). -/
def State.faultBytes (s : State) (f : FaultInfo) (time : W64) (src : Nat) (seq : W32) (phase count lost : Nat) : List Byte :=
  leBytes 8 time.toNat ++ leBytes 2 src ++ leBytes 4 seq.toNat ++ leBytes 1 f.cls ++ leBytes 1 (f.flags % 128 + 128 * phase)
    ++ leBytes 2 f.status.code ++ leBytes 1 (f.pitch.getD 0xFF)
    ++ leBytes 1 f.splitByte
    ++ leBytes 2 (f.queue.getD 0xFFFF) ++ leBytes 1 (f.lstall.getD 0xFF) ++ leBytes 1 ((f.lstall.map s.pstall).getD 0xFF)
    ++ leBytes 4 f.hseq ++ leBytes 2 f.ukind ++ leBytes 2 f.uindex ++ leBytes 8 f.syndrome ++ leBytes 8 f.addr
    ++ leBytes 4 count ++ leBytes 4 lost ++ List.replicate 8 0

/-- The state with a fault record put into one fault ring; a record that finds no room is lost and counted (R451). -/
def State.putFlt (s : State) (k : Nat) (f : FaultInfo) (time : W64) (src : Nat) (seq : W32) : State :=
  let fo := s.fltReg k
  let ring := s.flt[k]?.getD Ring.zero
  let size := s.ringSize fo
  if s.shadow && k != 24 then s
  else if !s.ringActive fo 6 16 || ring.full size then
    { s with flt := s.flt.setIfInBounds k { ring with dropped := ring.dropped + 1, gap := ring.gap + 1 } }
  else
    let n := ring.written.toNat
    let s1 := { s with flt := s.flt.setIfInBounds k { ring with written := ring.written + 1, gap := 0 } }
    s1.hostWrite (s.ringFn k) (s.ringBase fo + 64 * (n % size)) (s.faultBytes f time src seq (phaseBit n size) f.count ring.gap)

/-- Whether the ring of a pitch takes corrected faults (CORR, Table 18-5). -/
def State.takesCorr (s : State) (p : Nat) : Bool := s.fld (s.fnOf p) (offFlt + 8) 8 8 == 1

/-- The fault rings that a fault goes to (Table 18-1). -/
def State.faultRings (s : State) (f : FaultInfo) : List Nat :=
  match f.cls with
  | 0 => (match f.pitch with
      | some p => if s.takesCorr p then [p, 24] else [24]
      | none => [24])
  | 1 => (match f.pitch with
      | some p => [p, 24]
      | none => [24])
  | 2 => (match f.pitch with
      | some p => [p]
      | none => [24])
  | 3 => (match f.pitch with
      | some p => [p, 24]
      | none => [24])
  | _ => (List.range 24).filter (fun p => (s.pitch p).state != .off) ++ [24]

/-- A fault reported: its fault record, then its FAULT Daybook record with the next number of the same source, then the
event message of each pitch whose own ring names it (R400, R452, R378). DESIGN CHOICE: R217 copies a walk's SEQ_ID into this record and
gives it no place; it stands in payload bytes 12 to 15, behind the fields of Table 16-11 (log 160). -/
def State.postFault (s : State) (src : Nat) (f : FaultInfo) : State :=
  let ks := s.faultRings f
  let time := s.stamp src
  let seq := s.seqOf src
  let s1 := ks.foldl (fun s k => s.putFlt k f time src seq) ((s.afterStamp src).afterSeq src)
  let s2 := s1.postDbk ks .always src 0x11
    (leBytes 2 f.status.code ++ leBytes 1 f.cls ++ leBytes 1 (f.lstall.getD 0xFF) ++ leBytes 2 (f.queue.getD 0xFFFF)
      ++ leBytes 1 f.splitByte ++ leBytes 1 0 ++ leBytes 4 f.hseq
      ++ leBytes 4 f.seqid)
  let written := ks.any (fun k => (s1.flt[k]?.getD Ring.zero).written != (s.flt[k]?.getD Ring.zero).written)
  match f.pitch with
  | some p => if written then s2.eventMsg p else s2
  | none => s2

/-- A corrected fault (R452): one record per unit and syndrome kind in a millisecond; the others add to COUNT of the next.
`key` names the unit and kind. -/
def State.postCorrected (s : State) (key src : Nat) (f : FaultInfo) : State :=
  let now := s.now.toNat
  let due := (match Tab.find s.health.lastRec key with
    | some t => decide (t.toNat + 1000000 ≤ now)
    | none => true)
  if due then
    let s1 := s.postFault src { f with count := Tab.get 0 s.health.unrec key }
    { s1 with health := { s1.health with unrec := Tab.set 0 s1.health.unrec key 0,
                                         lastRec := Tab.put s1.health.lastRec key (BitVec.ofNat 64 now) } }
  else
    { s.afterNow with health := { s.health with unrec := Tab.set 0 s.health.unrec key (Tab.get 0 s.health.unrec key + 1) } }

/-! ### The doorbell array (R317) -/

/-- The bell groups that the installer has given to a function, in ascending order. -/
def State.groupsOf (s : State) (fn : Nat) : List Nat :=
  (List.range 64).filter (fun g => s.fld 0 (offBgrp g) 5 5 == 1 && s.fld 0 (offBgrp g) 4 0 == fn)

/-- The host address of a function's doorbell array. -/
def State.dbaBase (s : State) (fn : Nat) : Nat := s.fld fn offDba 63 12 * 4096

/-- The host address of a queue's doorbell entry: its group's rank among the function's groups, then its place in the group. -/
def State.entryAt (s : State) (fn q : Nat) : Nat := s.dbaBase fn + (128 * (s.groupsOf fn).idxOf (q / 16) + 8 * (q % 16))

/-- A fault with no guilty context (NOCTX). -/
def FaultInfo.noCtx (cls : Nat) (st : Status) (ukind uindex syndrome addr : Nat) (pitch lstall : Option Nat) : FaultInfo :=
  { cls := cls, flags := 2, status := st, pitch := pitch, split := 0, queue := none, lstall := lstall, hseq := 0,
    ukind := ukind, uindex := uindex, syndrome := syndrome, addr := addr }

end Sys2Proof.Machine
end

