-- ==== Sys2Proof/Machine/Flits.lean ====
section
/-! DEFINITION. Messages and flits: headers, and sending over a link with credits and the retry buffer (spec 17 R412 to R415). -/

namespace Sys2Proof.Machine

/-- A field of a descriptor or header: `n` bytes at an offset, little-endian. -/
def fieldAt (bs : List Byte) (off n : Nat) : Nat := leNat ((bs.drop off).take n)

/-- Whether a byte range of a descriptor is all zero (R4). -/
def zeroAt (bs : List Byte) (off n : Nat) : Bool := ((bs.drop off).take n).all (· == 0)

/-- A link by number. -/
def State.link (s : State) (i : Nat) : Link := s.net.links[i]?.getD Link.reset

/-- The state with the net changed. -/
def State.modNet (s : State) (f : Net → Net) : State := { s with net := f s.net }

/-- The state with a link changed. -/
def State.modLink (s : State) (i : Nat) (f : Link → Link) : State :=
  s.modNet (fun n => { n with links := n.links.setIfInBounds i (f (n.links[i]?.getD Link.reset)) })

/-- This chip's id (Table 17-4). -/
def State.chipId (s : State) : Nat := s.fld 0 offLkChip 11 0

/-- The epoch this chip knows of a chip, itself included (R436). -/
def State.epochOf (s : State) (c : Nat) : Nat := if c = s.chipId then s.net.epoch.toNat else (Tab.get 0 s.net.epochs c).toNat

/-! ### Messages (Table 17-7) -/

/-- Message types (Tables 17-8 and R485). -/
def mtData : Nat := 0x01
def mtAck : Nat := 0x02
def mtRefuse : Nat := 0x03
def mtCredit : Nat := 0x04
def mtWreq : Nat := 0x05
def mtWresp : Nat := 0x06
def mtCollEnd : Nat := 0x07
def mtSlow : Nat := 0x08
def mtPairWrite : Nat := 0x09
def mtPairState : Nat := 0x0A
def mtPairDigest : Nat := 0x0B
def mtPairFail : Nat := 0x0C
def mtIdent : Nat := 0x40
def mtPeerEpoch : Nat := 0x41
def mtTsyncReq : Nat := 0x42
def mtTsyncRep : Nat := 0x43

/-- What a sender says of a message beside what the chip adds. -/
structure Head where
  dst : Nat
  dpitch : Nat
  mbox : Nat
  spitch : Nat
  mtype : Nat
  len : Nat
  time : W64
  src : Nat
  seq : W32
  job : Nat
  coll : Nat
  step : Nat
  msgid : Nat
  arg : W64

/-- The 48 bytes of a message header. -/
def State.header (s : State) (h : Head) : List Byte :=
  leBytes 2 h.dst ++ leBytes 1 h.dpitch ++ leBytes 1 h.mbox ++ leBytes 2 s.chipId ++ leBytes 1 h.spitch ++ leBytes 1 h.mtype
    ++ leBytes 4 h.len ++ leBytes 2 s.net.epoch.toNat ++ leBytes 2 (s.epochOf h.dst) ++ leBytes 8 h.time.toNat
    ++ leBytes 2 h.src ++ leBytes 4 h.seq.toNat ++ leBytes 2 h.job ++ leBytes 2 h.coll ++ leBytes 2 h.step
    ++ leBytes 4 h.msgid ++ leBytes 8 h.arg.toNat

/-- Fields of a message that has arrived. -/
def Msg.fld (m : Msg) (off n : Nat) : Nat := fieldAt m.bytes off n
def Msg.dst (m : Msg) : Nat := m.fld 0 2 % 4096
def Msg.dpitch (m : Msg) : Nat := m.fld 2 1
def Msg.mbox (m : Msg) : Nat := m.fld 3 1
def Msg.srcChip (m : Msg) : Nat := m.fld 4 2 % 4096
def Msg.spitch (m : Msg) : Nat := m.fld 6 1
def Msg.mtype (m : Msg) : Nat := m.fld 7 1
def Msg.len (m : Msg) : Nat := m.fld 8 4
def Msg.sepoch (m : Msg) : Nat := m.fld 12 2
def Msg.depoch (m : Msg) : Nat := m.fld 14 2
def Msg.time (m : Msg) : W64 := BitVec.ofNat 64 (m.fld 16 8)
def Msg.source (m : Msg) : Nat := m.fld 24 2
def Msg.seq (m : Msg) : Nat := m.fld 26 4
def Msg.job (m : Msg) : Nat := m.fld 30 2
def Msg.coll (m : Msg) : Nat := m.fld 32 2
def Msg.step (m : Msg) : Nat := m.fld 34 2
def Msg.msgid (m : Msg) : Nat := m.fld 36 4
def Msg.arg (m : Msg) : Nat := m.fld 40 8
def Msg.data (m : Msg) : List Byte := m.bytes.drop 48

/-- A message that has arrived, by number. -/
def State.msg? (s : State) (n : Nat) : Option Msg := s.net.arrived.find? (fun m => m.id == n)

/-- The state after the engine has taken an arrived message: its flit places are free (R414). -/
def State.takeMsg (s : State) (m : Msg) : State :=
  let s1 := s.modNet (fun n => { n with arrived := n.arrived.filter (fun x => x.id != m.id) })
  match m.link with
  | some i => s1.modLink i (fun l => { l with freed := l.freed.setIfInBounds m.vc ((l.freed[m.vc]?.getD 0) + m.flits) })
  | none => s1

/-! ### Flits (Table 17-3, R412 to R414) -/

/-- The bytes of a message as flits: at most 244 bytes each, the last one filled with zeros. -/
def chunks : Nat → List Byte → List (List Byte)
  | 0, _ => []
  | fuel + 1, bs => if bs.length ≤ 244 then [bs ++ List.replicate (244 - bs.length) 0] else bs.take 244 :: chunks fuel (bs.drop 244)

/-- The flits of a message in one VC. -/
def flitsOf (vc msg : Nat) (bs : List Byte) : List TxFlit :=
  let cs := chunks (bs.length / 244 + 1) bs
  let n := cs.length
  cs.zipIdx.map (fun x =>
    { kind := if n = 1 then 4 else if x.2 = 0 then 1 else if x.2 + 1 = n then 3 else 2, vc := vc, data := x.1, msg := msg })

/-- The 256 bytes of a flit. -/
def flitBytes (lseq ack kind vc creditVc credit : Nat) (data : List Byte) : List Byte :=
  let b := leBytes 2 lseq ++ leBytes 2 ack ++ leBytes 1 kind ++ leBytes 1 vc ++ leBytes 2 (creditVc + credit * 4)
    ++ (data ++ List.replicate 244 0).take 244
  b ++ leBytes 4 (crc32 b).toNat

/-- The VC whose freed places the next flit reports (R414). -/
def Link.reportVc (l : Link) : Nat := ((List.range 3).find? (fun v => 0 < (l.freed[v]?.getD 0))).getD 0

/-- A link after it has reported the places of its report VC. -/
def Link.reported (l : Link) : Link := { l with freed := l.freed.setIfInBounds l.reportVc 0 }

/-- The state with one flit sent on a link and, if it is not idle, kept for replay (R413). -/
def State.sendFlit (s : State) (i : Nat) (kind vc : Nat) (data : List Byte) : State :=
  let l := s.link i
  let idle := kind == 0 || kind == 5
  let lseq := if idle then l.txSeq else l.txSeq + 1
  let b := flitBytes lseq.toNat l.rxSeq.toNat kind vc l.reportVc (l.freed[l.reportVc]?.getD 0) data
  let s1 := s.modLink i (fun l =>
    { l.reported with txSeq := lseq, tx := if idle then l.tx else l.tx + 1,
                      kept := if idle then l.kept else l.kept ++ [⟨lseq.toNat, b, 0⟩] })
  s1.emit (.link i kind b)

/-- The state after a link has sent every waiting flit that it may: one whose VC has a place credit, while the retry buffer
has room (R413, R414). -/
def State.pump : Nat → Nat → State → State
  | 0, _, s => s
  | fuel + 1, i, s =>
    let l := s.link i
    match l.waiting.find? (fun f => 0 < (l.credit[f.vc]?.getD 0)) with
    | none => s
    | some f =>
      if 512 ≤ l.kept.length then s
      else
        let rest := l.waiting.erase f
        let s1 := s.modLink i (fun l =>
          { l with waiting := rest, credit := l.credit.setIfInBounds f.vc ((l.credit[f.vc]?.getD 0) - 1) })
        State.pump fuel i (s1.sendFlit i f.kind f.vc f.data)

/-- The state with a message queued on a link and as much of it sent as may be. -/
def State.queueOn (s : State) (i vc msg : Nat) (bs : List Byte) : State :=
  let s1 := s.modLink i (fun l => { l with waiting := l.waiting ++ flitsOf vc msg bs })
  State.pump ((s1.link i).waiting.length) i s1

/-- The links of a port that carry messages. -/
def State.routedLinks (s : State) (port : Nat) : List Nat :=
  (List.range 4).filterMap (fun k => if (s.link (4 * port + k)).state = .routed then some (4 * port + k) else none)

/-- The header that the link engine gives a message of its own: its time, source id and a sequence that the spec does not
give (R415). -/
def State.engineHead (s : State) (dst dpitch mbox spitch mtype : Nat) (arg : Nat) : Head :=
  { dst := dst, dpitch := dpitch, mbox := mbox, spitch := spitch, mtype := mtype, len := 0, time := s.now,
    src := srcEngine, seq := s.anyWord.truncate 32, job := 0, coll := 0, step := 0, msgid := s.net.nextMsg,
    arg := BitVec.ofNat 64 arg }

end Sys2Proof.Machine
end

