-- ==== Sys2Proof/Machine/PairOps.lean ====
section
/-! DEFINITION. Pair messages: the credits of the bridge links, and the records and line copies that a primary sends (spec 19 R481 to
R486). -/

namespace Sys2Proof.Machine

/-- Whether this package is the primary of a pair in MIRROR, or in a pair in COMPARE. -/
def State.mirrors (s : State) : Bool := s.leads && s.pair.mode == 1
def State.compares (s : State) : Bool := s.pair.state == .paired && s.pair.mode == 2

/-- The state with the pair changed. -/
def State.modPair (s : State) (f : Pair → Pair) : State := { s with pair := f s.pair }

/-- PARTNER: the chip id named by the partner's IDENT on port 7 (Table 19-1). -/
def State.partner (s : State) : Nat := (([28, 29, 30, 31].findSome? (fun i => (s.link i).seen)).map (·.1)).getD 0

/-- Credit for pair messages on a bridge link, in bytes (R485). -/
def pairCredit : Nat := 65536

/-- Whether a pair message may go: its link carries messages and its bytes fit the credit that is left. -/
def State.pairRoom (s : State) (m : PairMsg) : Bool :=
  (s.link m.link).state == .routed
    && decide (((s.pair.sent.filter (fun e => e.2.1 == m.link)).map (·.2.2)).foldl (· + ·) 0 + m.data.length ≤ pairCredit)

/-- A pair message sent to the partner on its bridge link; it is outstanding until it is acknowledged. -/
def State.pairGo (s : State) (m : PairMsg) : State :=
  let id := s.net.nextMsg
  let h := { s.engineHead s.partner 0 0 0xFF m.mtype m.arg.toNat with len := m.data.length }
  let s1 := (s.afterNow.afterAny.modNet (fun n => { n with nextMsg := n.nextMsg + 1 })).modPair (fun p =>
    { p with sent := p.sent ++ [(id % 2 ^ 32, m.link, m.data.length)] })
  s1.queueOn m.link 0 id (s.header h ++ m.data)

/-- Every waiting pair message sent that may be; those of one link stay in order (R483). -/
def State.pairPump (s : State) : State :=
  let r := s.pair.waiting.foldl (fun (r : State × List PairMsg) (m : PairMsg) =>
    if r.2.any (fun x => x.link == m.link) || !r.1.pairRoom m then (r.1, r.2 ++ [m]) else (r.1.pairGo m, r.2))
    (s.modPair (fun p => { p with waiting := [] }), [])
  r.1.modPair (fun p => { p with waiting := r.2 })

/-- A pair message sent, or waiting for its link's credit. -/
def State.pairSend (s : State) (m : PairMsg) : State := (s.modPair (fun p => { p with waiting := p.waiting ++ [m] })).pairPump

/-- Records of the primary sent as one PAIR_STATE. -/
def State.pairTell (s : State) (rs : List PairRec) : State :=
  let n := s.pair.sentSeq + 1
  (s.modPair (fun p => { p with sentSeq := n })).pairSend ⟨28, mtPairState, BitVec.ofNat 64 n.toNat, Config.pairBytes rs⟩

/-- A copied write of the primary, if this package is one. -/
def State.pairCopy (s : State) (r : PairRec) : State := if s.leads then s.pairTell [r] else s

/-- In COMPARE the primary tells that a PSEND of a channel has completed, or ended with a status (R489). -/
def State.tellLanded (s : State) (st ch : Nat) (status : Status) : State :=
  if s.leads && s.compares then s.pairTell [.landed st ch status.code] else s

/-- Whether the secondary has acknowledged everything sent to it (R484). -/
def State.pairDrained (s : State) : Bool := !s.leads || (s.pair.waiting.isEmpty && s.pair.sent.isEmpty)

/-- Changes between two tables, in the order of their keys. -/
def tabChanges {α : Type} [DecidableEq α] (old new : Tab α) : List (Nat × Option α) :=
  (old.filter (fun e => (Tab.find new e.1).isNone)).map (fun e => (e.1, none))
    ++ (new.filter (fun e => Tab.find old e.1 != some e.2)).map (fun e => (e.1, some e.2))

/-- The primary's front-end state sent where it has changed (R484). -/
def State.pairSync (s : State) : State :=
  if !s.leads then s
  else
    let rs := (tabChanges s.pair.shownQ s.fe.queues).map (fun e => PairRec.queue e.1 e.2)
      ++ (tabChanges s.pair.shownF s.fe.fences).map (fun e => PairRec.fence e.1 e.2)
      ++ (tabChanges s.pair.shownW s.fe.wins).map (fun e => PairRec.win e.1 e.2)
      ++ ((List.range 64).filter (fun n => s.pair.shownS[n]? != s.fe.slots[n]?)).map (fun n =>
          PairRec.slot n (s.fe.slots[n]?.getD Slot.free))
      ++ (s.pair.heldOut.drop s.pair.heldTold).filterMap (fun o => match o with
          | .hostWrite a b => some (PairRec.host a b)
          | _ => none)
    if rs.isEmpty then s
    else (s.modPair (fun p =>
      { p with shownQ := s.fe.queues, shownF := s.fe.fences, shownW := s.fe.wins, shownS := s.fe.slots,
               heldTold := s.pair.heldOut.length })).pairTell rs

/-- What is held goes out once the secondary has acknowledged everything, or the pair is over (R484). -/
def State.pairFlush (s : State) : State :=
  if s.pairDrained then
    (s.pair.heldOut.foldl (fun (s : State) (o : Out) => s.emit o) s).modPair (fun p => { p with heldOut := [], heldTold := 0 })
  else s

/-- What ends a command of the front end for a primary: its changes are sent, and what may be shown is shown. -/
def State.pairShow (s : State) : State := s.pairSync.pairFlush

/-- An acknowledgement of a pair message: its credit is free. -/
def State.pairAck (s : State) (msgid : Nat) : State :=
  ((s.modPair (fun p => { p with sent := p.sent.filter (fun e => e.1 != msgid) })).pairPump).pairShow

/-- What a pair that is over leaves behind: nothing waits for the partner (Table 19-3, R492). -/
def State.pairForget (s : State) : State :=
  (s.modPair (fun p => { p with waiting := [], sent := [], digests := [], told := [], copying := false, copies := [], landings := [] })).pairFlush

/-! ### Digests (R490) -/

/-- CRC-64 with the ECMA-182 polynomial, without reflection, initial value zero and no final XOR. -/
def crc64Bit (c : BitVec 64) : BitVec 64 := if c.msb then (c <<< 1) ^^^ 0x42F0E1EBA9EA3693#64 else c <<< 1
def crc64Byte (c : BitVec 64) (b : Byte) : BitVec 64 :=
  let x := c ^^^ (b.zeroExtend 64 <<< 56)
  crc64Bit (crc64Bit (crc64Bit (crc64Bit (crc64Bit (crc64Bit (crc64Bit (crc64Bit x)))))))
def crc64 (bs : List Byte) : BitVec 64 := bs.foldl crc64Byte 0

/-- The 80-byte write record of bytes within a line: its address, its byte mask, and the line's data. -/
def writeRecord (addr off : Nat) (bs : List Byte) : List Byte :=
  let m := (2 ^ bs.length - 1) * 2 ^ off
  leBytes 8 addr ++ leBytes 8 m ++ (List.replicate off 0 ++ bs ++ List.replicate 64 0).take 64

/-- The address of device memory in a write record: the line, and the pitch. -/
def devRecord (p a : Nat) : Nat := a / 64 * 64 % 2 ^ 48 + p * 2 ^ 48

/-- The state with a write record in the digest of a launch. -/
def State.digest (s : State) (l : Nat) (rec : List Byte) : State :=
  if s.compares then
    (match Tab.find s.fe.launches l with
     | some x => { s with fe := { s.fe with launches := Tab.put s.fe.launches l { x with digest := x.digest ^^^ crc64 rec } } }
     | none => s)
  else s

/-- The launch of a write that names its descriptor. -/
def State.launchOf (s : State) (who : Option FaultInfo) : Option Nat :=
  match who with
  | some w => (s.fe.launches.find? (fun e => some e.2.sq == w.queue && e.2.hseq.toNat == w.hseq)).map (·.1)
  | none => none

end Sys2Proof.Machine
end

