-- ==== Sys2Proof/Machine/Audit.lean ====
section
/-! DEFINITION. The audit book: its records, its chain, its segments, and the actions that it guards (spec 21 R521 to R523). -/

namespace Sys2Proof.Machine

/-- Segments of the book and slots of a segment (R523). -/
def bookSegs : Nat := 64
def segSlots : Nat := 512

/-- Whether a segment may be erased: every record in it has been acknowledged. -/
def Book.erasable (b : Book) (k : Nat) : Bool := b.slots.all (fun e => e.1 / segSlots != k || decide (e.2.1 < b.acked))

/-- FREE of SEC_STAT: segments that may be erased. -/
def Book.free (b : Book) : Nat := ((List.range bookSegs).filter b.erasable).length

/-- The book with its write point in a segment that has room, if there is one. A fresh segment is erased first; the last one is
the reserve, and using it sets STALLED. -/
def Book.fresh (b : Book) : Option Book :=
  let k := b.point / segSlots
  if b.point % segSlots ≠ 0 then some b
  else if b.stalled || !b.erasable k then none
  else some { b with stalled := decide (b.free ≤ 1), slots := Tab.clearRange b.slots (k * segSlots) ((k + 1) * segSlots) }

/-- One slot written for the record with an ASEQ. -/
def Book.put (b : Book) (aseq : Nat) (bytes : List Byte) : Option Book :=
  b.fresh.map (fun b => { b with slots := Tab.put b.slots b.point (aseq, bytes), point := (b.point + 1) % (bookSegs * segSlots) })

/-- What an audit record says beside its time, source, sequence and chain (Table 21-8). -/
structure AuditRec where
  action : Nat
  role : Nat
  result : Nat
  func : Option Nat
  pitch : Option Nat
  status : Nat
  target : Nat
  old : Nat
  new : Nat
  detail : List Byte

/-- Bytes 0 to 79 of an audit record. -/
def AuditRec.bytes (r : AuditRec) (time : W64) (aseq : Nat) (unset : Bool) (lost : Nat) : List Byte :=
  leBytes 8 time.toNat ++ leBytes 2 srcSec ++ leBytes 4 aseq ++ leBytes 2 r.action ++ leBytes 1 r.role ++ leBytes 1 r.result
    ++ leBytes 2 (r.func.getD 0xFFFF) ++ leBytes 1 (r.pitch.getD 0xFF) ++ leBytes 1 (b2n unset) ++ leBytes 2 r.status
    ++ leBytes 8 r.target ++ leBytes 8 r.old ++ leBytes 8 r.new ++ (r.detail ++ List.replicate 16 0).take 16
    ++ leBytes 4 lost ++ List.replicate 12 0

/-- The state with the book changed. -/
def State.setBook (s : State) (b : Book) : State := { s with sec := { s.sec with book := b } }

/-- The state with an audit record written and chained, or dropped and counted where the reserve is full (R521 to R523). -/
def State.audit (s : State) (r : AuditRec) : State :=
  let b := s.sec.book
  let t := s.stamp srcSec
  let body := r.bytes t b.next (!s.clk.valid) b.lost
  let h := (Config.sha384 (b.chain ++ body) ++ List.replicate 48 0).take 48
  match b.put b.next (body ++ h) with
  | some b' =>
    (s.afterStamp srcSec).setBook
      { b' with next := b.next + 1, chain := h, lost := 0, open' := b.open' + 1, oldest := if b.open' = 0 then t else b.oldest }
  | none => s.afterNow.setBook { b with lost := b.lost + 1 }

/-- Whether a register lies on the compute die: those of functions, and PT_, MC_, FE_ and ST_ registers (R464). -/
def dieReg (off : Nat) : Bool :=
  decide (off < 0x1000000) || (decide (0x1400000 ≤ off) && decide (off < 0x1600000))
    || (decide (0x1800000 ≤ off) && decide (off < 0x1900000))

/-- Whether a register is one of PT_, MC_ and LK_, which a secondary's PF does not write (R481). -/
def pairReg (off : Nat) : Bool :=
  decide (off < 0x1000000) || (decide (0x1400000 ≤ off) && decide (off < 0x1420000)) || (decide (0x1600000 ≤ off) && decide (off < 0x1700000))

/-- Whether a write of a register is ignored whatever it says: the book is stalled, the compute die does not serve its registers, or this
package is a secondary that copies its primary's. -/
def State.writeOff (s : State) (off : Nat) : Bool :=
  s.sec.book.stalled || (dieReg off && s.dieDown) || (s.shadow && !s.pair.copying && pairReg off)

/-- Whether a register says what place the package itself has on the bridge: LK_CHIP, and those of port 7. -/
def ownReg (off : Nat) : Bool := off == offLkChip || (decide (offPort 7 ≤ off) && decide (off < offPort 7 + 16))

/-- The effect of an accepted write of the PF's registers, which a primary sends to its secondary as well (R481). -/
def State.copied (s : State) (off new : Nat) (act : State → State) : State :=
  if ownReg off then act s else act (s.pairCopy (.reg 0 off (BitVec.ofNat 64 new)))

/-- A write of an installer's register that writes no audit record. -/
def State.quietWrite (s : State) (off new : Nat) (ignored : Bool) (act : State → State) : State :=
  if s.writeOff off || ignored then s else s.copied off new act

/-- An installer's write of a register (R521, R523): recorded, then applied or ignored. -/
def State.installerWrite (s : State) (off old new : Nat) (pitch : Option Nat) (ignored : Bool) (act : State → State) : State :=
  let off' := s.writeOff off || ignored
  let s1 := s.audit
    { action := 0x01, role := 2, result := b2n off', func := some 0, pitch := pitch, status := 0, target := off, old := old,
      new := new, detail := [] }
  if off' then s1 else s1.copied off new act

/-- An operator's reset of its pitch (R521). CAUSE and KIND lie in the first two bytes of DETAIL. -/
def State.auditReset (s : State) (fn pitch target cause : Nat) (scrub : Bool) : State :=
  s.audit { action := 0x10, role := 3, result := 0, func := some fn, pitch := some pitch, status := 0, target := target, old := 0,
            new := 0, detail := leBytes 1 cause ++ leBytes 1 (b2n scrub) }

/-- A chip reset (R521). -/
def State.auditChip (s : State) (cause : Nat) : State :=
  s.audit { action := 0x11, role := if cause = 1 then 2 else 4, result := 0, func := none, pitch := none, status := 0, target := 0,
            old := 0, new := 0, detail := leBytes 1 cause }

/-- A device event: trial start, confirmation, fallback, start-up (Table 21-8). -/
def State.auditDevice (s : State) (action target old new : Nat) (detail : List Byte) : State :=
  s.audit { action := action, role := 4, result := 0, func := none, pitch := none, status := 0, target := target, old := old,
            new := new, detail := detail }

/-- JTAG debug closes, with its record if it was open (R521, R524). The consent is gone. -/
def State.relock (s : State) : State :=
  let s1 := if s.sec.unlocked then
      s.audit { action := 0x31, role := 1, result := 0, func := none, pitch := none, status := 0, target := 0, old := 0, new := 0,
                detail := [] }
    else s
  { s1 with sec := { s1.sec with unlocked := false, consent := none } }

end Sys2Proof.Machine
end

