-- ==== Sys2Proof/Machine/DevMem.lean ====
section
/-! DEFINITION. Device memory: interleave, translation, lines and poison, and the areas a program may not write
(spec 11 R265 to R271, R284; 14 R348; 22 R548; 10 R253). -/

namespace Sys2Proof.Machine

/-- The key of a byte of device memory. -/
def memKey (unit off : Nat) : Nat := unit * 2 ^ 35 + off

/-- CSRES in bytes (R286). -/
def State.csresBytes (s : State) : Nat := s.fld 0 offCsres 13 0 * 2 ^ 21

/-- The capacity of a unit in bytes: 1 GiB less for each pseudo-channel that the last chip reset took out (R474). -/
def State.unitC (s : State) (u : Nat) : Nat :=
  s.chip.part.unitBytes - popcount (s.mem.pchCut[u]?.getD 0).toNat * 2 ^ 30

/-- The unit offset at which the common-stock reserve of a unit starts (R286). -/
def State.reserveStart (s : State) (u : Nat) : Nat := s.unitC u - s.csresBytes

/-- C of a pitch: the smallest capacity among its units (R268, R474). -/
def State.pitchC (s : State) (p : Nat) : Nat := ((s.unitsOf p).map s.unitC).foldl min s.chip.part.unitBytes

/-- The size of a pitch's physical space (R268). -/
def State.spaceOf (s : State) (p : Nat) : Nat := (s.unitsOf p).length * (s.pitchC p - s.csresBytes)

/-- Where a pitch-physical address lies (R268). -/
def State.physPlace (s : State) (p x : Nat) : Nat × Nat :=
  let us := s.unitsOf p
  let c := x / 4096
  ((us[c % us.length]?).getD 0, (c / us.length) * 4096 + x % 4096)

/-- The bytes of a place. -/
def State.memBytes (s : State) (unit off n : Nat) : List Byte := Tab.getRange 0 s.mem.bytes (memKey unit off) n

/-- Whether the stack of a unit is powered off (R297). -/
def State.unitOff (s : State) (u : Nat) : Bool := (s.mem.hbms[u / 2]?.getD Stack.reset).off

/-- Whether the line of a place is poisoned; no line of a stack that is off can be read (R297). -/
def State.linePoison (s : State) (unit off : Nat) : Bool :=
  s.mem.poisoned (memKey unit off / 64) || s.unitOff unit

/-- How an access uses a page (R270, R290). -/
inductive Acc where
  | read | write | csWrite
  deriving DecidableEq, Repr

/-- What a translation finds (R270). -/
inductive Xl where
  | ok (pl : Place)
  | denied (malformed : Bool)
  | poisoned
  deriving DecidableEq, Repr

/-- TBASE and TSIZE of a pitch in bytes (Table 11-3). -/
def State.tbase (s : State) (p : Nat) : Nat := s.fld 0 (offXlat p) 47 21 * 2 ^ 21
def State.tsize (s : State) (p : Nat) : Nat := s.fld 0 (offXlat p) 63 48 * 4096

/-- A region's unit list (R288). -/
def State.csUnits (s : State) (n : Nat) (replica : Bool) : List Nat :=
  let m := s.raw 0 (offCsMap n)
  (List.range 24).filter (fun u => bit m (if replica then 24 + u else u))

/-- Where byte `x` of a region's space lies, in the primary or the replica (R288). -/
def State.csPlace (s : State) (n : Nat) (replica : Bool) (x : Nat) : Nat × Nat :=
  let us := s.csUnits n replica
  let c := x / 4096
  let start := if replica then s.fld 0 (offCsCtl n) 61 48 else s.fld 0 (offCsCtl n) 29 16
  let u := (us[c % us.length]?).getD 0
  (u, s.reserveStart u + start * 2 ^ 21 + (c / us.length) * 4096 + x % 4096)

/-- A region's state beside its registers. -/
def State.region (s : State) (n : Nat) : CsRegion := s.mem.regions[n]?.getD CsRegion.reset

/-- The state with a region changed. -/
def State.modRegion (s : State) (n : Nat) (f : CsRegion → CsRegion) : State :=
  { s with mem := { s.mem with regions := s.mem.regions.setIfInBounds n (f (s.region n)) } }

/-- The translation entry of a page as the table holds it now; none where its line is poisoned. -/
def State.tableEntry (s : State) (p page : Nat) : Option Nat :=
  let pl := s.physPlace p (s.tbase p + 8 * page)
  if s.linePoison pl.1 pl.2 then none else some (leNat (s.memBytes pl.1 pl.2 8))

/-- The entry an access uses: the cached one where there is one (R271). -/
def State.xlatEntry (s : State) (p page : Nat) : Option Nat :=
  match Tab.find s.mem.tlb (p * 2 ^ 27 + page) with
  | some e => some e.toNat
  | none => s.tableEntry p page

/-- The translation of a device address (R269, R270). `csr` is the launch's region mask; none for an access that is not a
launch's. -/
def State.translate (s : State) (p : Nat) (csr : Option Nat) (acc : Acc) (addr : Nat) : Xl :=
  let page := addr / 2 ^ 21
  let o := addr % 2 ^ 21
  if s.tsize p / 8 ≤ page then .denied false
  else match s.xlatEntry p page with
    | none => .poisoned
    | some e =>
      let w := bit e 1
      let cs := bit e 2
      let region := bits e 11 8
      let pg := bits e 47 21
      if !bit e 0 then .denied false
      else if bits e 7 3 ≠ 0 || bits e 20 12 ≠ 0 || bits e 63 48 ≠ 0 then .denied true
      else if cs then
        if w then .denied true
        else if (s.region region).state = .off then .denied false
        else if !bit (s.raw 0 (offCsPitch region)) p then .denied true
        else if acc = .write then .denied false
        else if (match csr with
                 | some m => !bit m region
                 | none => false) then .denied false
        else if (s.csUnits region false).length * s.fld 0 (offCsCtl region) 45 32 ≤ pg then .denied false
        else
          let x := pg * 2 ^ 21 + o
          let pr := s.csPlace region false x
          .ok { unit := pr.1, off := pr.2,
                replica := if s.fld 0 (offCsCtl region) 2 2 = 1 then some (s.csPlace region true x) else none,
                region := some region }
      else
        let x := pg * 2 ^ 21
        if s.spaceOf p < x + 2 ^ 21 then .denied true
        else if x < s.tbase p + s.tsize p && s.tbase p < x + 2 ^ 21 then .denied true
        else if acc ≠ .read && !w then .denied false
        else
          let pl := s.physPlace p (x + o)
          .ok { unit := pl.1, off := pl.2, replica := none, region := none }

/-- The state with the translation entry of an address cached (R271). -/
def State.cacheXlat (s : State) (p addr : Nat) : State :=
  let page := addr / 2 ^ 21
  if s.tsize p / 8 ≤ page then s
  else match s.xlatEntry p page with
    | some e => { s with mem := { s.mem with tlb := Tab.put s.mem.tlb (p * 2 ^ 27 + page) (BitVec.ofNat 64 e) } }
    | none => s

/-- The place a read of a replicated region is served from (R289, R291). -/
def State.readPlace (s : State) (pl : Place) : Nat × Nat :=
  match pl.replica with
  | some r => if s.unitOff pl.unit || s.mem.badLines.contains (memKey pl.unit pl.off / 64) then r else (pl.unit, pl.off)
  | none => (pl.unit, pl.off)

/-- The pieces of a byte range, each within one line: address and length. -/
def pieces : Nat → Nat → Nat → List (Nat × Nat)
  | 0, _, _ => []
  | fuel + 1, a, n =>
    if n = 0 then []
    else (a, min n (64 - a % 64)) :: pieces fuel (a + min n (64 - a % 64)) (n - min n (64 - a % 64))

/-- The pieces of `n` bytes at an address. -/
def lineRuns (addr n : Nat) : List (Nat × Nat) := pieces (n / 64 + 2) addr n

/-- What a read or a check of device memory finds. -/
inductive Rd where
  | ok (bs : List Byte)
  | denied (addr : Nat) (malformed : Bool)
  | poison (addr : Nat)
  /-- the translation table itself is poisoned (Table 18-1) -/
  | fatal
  deriving DecidableEq, Repr

/-- The bytes of one piece. -/
def State.readPiece (s : State) (p : Nat) (csr : Option Nat) (pc : Nat × Nat) : Rd :=
  match s.translate p csr .read pc.1 with
  | .ok pl =>
    let at' := s.readPlace pl
    if s.linePoison at'.1 at'.2 then .poison pc.1 else .ok (s.memBytes at'.1 at'.2 pc.2)
  | .denied m => .denied pc.1 m
  | .poisoned => .fatal

/-- A read of device memory: all its bytes, or the first thing that stops it. -/
def State.readDev (s : State) (p : Nat) (csr : Option Nat) (addr n : Nat) : Rd :=
  (lineRuns addr n).foldl (fun r pc =>
    match r with
    | .ok bs => (match s.readPiece p csr pc with
        | .ok more => .ok (bs ++ more)
        | other => other)
    | other => other) (.ok [])

/-- Whether a range may be written, and what stops it first. -/
def State.checkWrite (s : State) (p : Nat) (csr : Option Nat) (acc : Acc) (addr n : Nat) : Rd :=
  (lineRuns addr n).foldl (fun r pc =>
    match r with
    | .ok _ => (match s.translate p csr acc pc.1 with
        | .ok _ => .ok []
        | .denied m => .denied pc.1 m
        | .poisoned => .fatal)
    | other => other) (.ok [])

/-- The state with bytes written at one place within a line; a controller whose stack is off drops the write (R307). A whole line takes the poison given; a part of a poisoned
line is not written (R284). -/
def State.writeLine (s : State) (unit off : Nat) (bs : List Byte) (poison : Bool) : State :=
  let key := memKey unit off
  let whole := bs.length == 64
  if s.unitOff unit then s
  else if poison then
    { s with mem := s.mem.setPoison (key / 64) true }
  else if s.linePoison unit off && !whole then s
  else
    { s with mem := { s.mem.setPoison (key / 64) false with bytes := Tab.setRange 0 s.mem.bytes key bs } }

/-- Pseudo-channel and bank of a unit offset (Table 11-1). -/
def pchOf (o : Nat) : Nat := bits o 12 8 ^^^ bits o 23 19
def bankOf (o : Nat) : Nat := bits o 18 15 ^^^ bits o 27 24

/-- The syndrome of a memory line error (Table 18-4); `sym` is the symbol corrected, or 0xFF. -/
def lineSyn (u o sym : Nat) : Nat :=
  u + pchOf o * 2 ^ 8 + bankOf o * 2 ^ 16 + sym * 2 ^ 24 + bits o 34 19 * 2 ^ 32 + (bits o 7 6 + 4 * bits o 14 13) * 2 ^ 48

/-- A deferred fault of a partial write to a poisoned line (R284): the line and the context of the write. -/
def State.poisonedWrite (s : State) (p unit off : Nat) (who : Option FaultInfo) : State :=
  let base := FaultInfo.noCtx 1 .ok 0x10 unit (lineSyn unit off 0xFF) (off / 64 * 64) (some p) none
  s.postFault (srcMc unit) (match who with
    | some w => { w with cls := 1, status := .ok, ukind := 0x10, uindex := unit, syndrome := base.syndrome, addr := off / 64 * 64 }
    | none => base)

/-- The pitch-physical address of a place in a pitch's own units (R268). -/
def State.physAddr (s : State) (p unit off : Nat) : Nat :=
  let us := s.unitsOf p
  (off / 4096 * us.length + us.idxOf unit) * 4096 + off % 4096

/-- ACTIVE of a mirror range (Table 19-4): bit 1 of its register holds the EN in effect. -/
def State.mirActive (s : State) (p n : Nat) : Bool :=
  s.mirrors && s.pfld p (offMir n) 1 1 == 1 && decide (s.pfld p (offMir n) 47 12 ≤ s.pfld p (offMir n + 8) 47 12)

/-- Whether a device address of a pitch lies in a mirror range (R482). -/
def State.mirrored (s : State) (p a : Nat) : Bool :=
  (List.range 8).any (fun n => s.mirActive p n && decide (s.pfld p (offMir n) 47 12 ≤ a / 4096)
    && decide (a / 4096 ≤ s.pfld p (offMir n + 8) 47 12))

/-- The contents of a line of a pitch's units sent to the secondary (R483, R485). Bit 63 of ARG marks a poisoned line. -/
def State.lineCopy (s : State) (p unit off : Nat) : State :=
  let o := off / 64 * 64
  s.pairSend ⟨28 + unit % 4, mtPairWrite,
    BitVec.ofNat 64 (s.physAddr p unit o % 2 ^ 48 + p * 2 ^ 48 + b2n (s.linePoison unit o) * 2 ^ 63), s.memBytes unit o 64⟩

/-- Whether the copy of a line of a unit has to wait for a credit of its bridge link, or behind one that waits (R486). -/
def State.copyWaits (s : State) (unit : Nat) : Bool :=
  let m : PairMsg := ⟨28 + unit % 4, mtPairWrite, 0, List.replicate 64 0⟩
  s.pair.waiting.any (fun x => x.link == m.link) || !s.pairRoom m

/-- Whether a write of a range is held until the bridge has credits for the copies of its first lines (R486). -/
def State.copyHeld (s : State) (p a n : Nat) : Bool :=
  s.mirrors && (lineRuns a n).any (fun pc => s.mirrored p pc.1 && (match s.translate p none .write pc.1 with
    | .ok pl => pl.region.isNone && s.copyWaits pl.unit
    | _ => false))

/-- The copy of a write that has been performed, where a mirror range covers it. A common-stock line has none. -/
def State.mirrorLine (s : State) (p a : Nat) (pl : Place) : State :=
  if pl.region.isNone && s.mirrored p a then s.lineCopy p pl.unit pl.off else s

/-- The state with what a launch's own write is about to replace of its program image kept for its fetches (R131). -/
def State.keepImage (s : State) (l a n : Nat) (pl : Place) : State :=
  match s.launch? l with
  | none => s
  | some x =>
    let mine := (List.range n).filter (fun i => decide (x.prog + 64 ≤ a + i) && decide (a + i < x.prog + 64 + 8 * x.codeLen)
      && !x.image.any (fun e => e.1 == a + i))
    if mine.isEmpty then s
    else
      let at' := s.readPlace pl
      let old := s.memBytes at'.1 at'.2 n
      s.modLaunch l (fun y => { y with image := y.image ++ mine.map (fun i => (a + i, old[i]?.getD 0)) })

/-- Whether a write of `n` bytes is a partial write to a poisoned line, which is not performed (R284). -/
def State.writeBarred (s : State) (unit off n : Nat) : Bool := !s.unitOff unit && s.linePoison unit off && n != 64

/-- The state with bytes written at one copy of a line: a partial write to a copy that is poisoned is not performed there, and is reported
(R284). -/
def State.writeCopy (s : State) (p unit off : Nat) (who : Option FaultInfo) (bs : List Byte) (poison : Bool) : State :=
  if s.writeBarred unit off bs.length then s.poisonedWrite p unit off who
  else s.writeLine unit off bs poison

/-- The state with bytes written at a place within a line, at each copy where there are two (R284, R290, R307). `a` is the device address, which the digest of the write's launch takes (R490). -/
def State.writePlace (s : State) (p a : Nat) (pl : Place) (who : Option FaultInfo) (bs : List Byte) (poison : Bool) : State :=
  let s := (match s.launchOf who with
    | some l => (s.keepImage l a bs.length pl).digest l (writeRecord (devRecord p a) (a % 64) bs)
    | none => s)
  let s1 := s.writeCopy p pl.unit pl.off who bs poison
  match pl.replica with
  | some r => s1.writeCopy p r.1 r.2 who bs poison
  | none => if s.writeBarred pl.unit pl.off bs.length then s1 else s1.mirrorLine p a pl

/-- A host write in the digest of its launch: bit 63 is set, and bits [45:0] hold the window and offset (R490). -/
def State.digestHost (s : State) (l a : Nat) (bs : List Byte) : State :=
  ((lineRuns a bs.length).foldl (fun (r : State × List Byte) (pc : Nat × Nat) =>
    (r.1.digest l (writeRecord (2 ^ 63 + pc.1 / 64 * 64 % 2 ^ 46) (pc.1 % 64) (r.2.take pc.2)), r.2.drop pc.2)) (s, bs)).1

/-- A message in the digest of its launch: bit 62 is set, bits [7:0] hold the outbound mailbox and [19:8] the destination chip. -/
def State.digestMsg (s : State) (l mbox chip : Nat) (bs : List Byte) : State :=
  ((lineRuns 0 bs.length).foldl (fun (r : State × List Byte) (pc : Nat × Nat) =>
    (r.1.digest l (writeRecord (2 ^ 62 + mbox % 256 + chip * 2 ^ 8) 0 (r.2.take pc.2)), r.2.drop pc.2)) (s, bs)).1

/-- What a primary in COMPARE has read or deposited for a channel, copied into the matching buffer of its secondary (R489). -/
def State.bufferCopy (s : State) (st ch : Nat) (post : Bool) (bs : List Byte) : State :=
  if s.leads && s.compares then s.pairSend ⟨28, mtPairWrite, Config.pairBuf st ch post, bs⟩ else s

/-- The state with one piece written at a device address. -/
def State.writePiece (s : State) (p : Nat) (acc : Acc) (csr : Option Nat) (who : Option FaultInfo) (a : Nat)
    (bs : List Byte) (poison : Bool) : State :=
  match s.translate p csr acc a with
  | .ok pl => s.writePlace p a pl who bs poison
  | _ => s

/-- The state with bytes written to device memory. What does not translate is not written. -/
def State.writeDev (s : State) (p : Nat) (csr : Option Nat) (acc : Acc) (who : Option FaultInfo) (addr : Nat)
    (bs : List Byte) (poison : Bool) : State :=
  ((lineRuns addr bs.length).foldl (fun (r : State × List Byte) pc =>
    (r.1.writePiece p acc csr who pc.1 (r.2.take pc.2) poison, r.2.drop pc.2)) (s, bs)).1

/-! ### Areas (R348, R548, R253, R241) -/

/-- Whether a range of device addresses lies wholly in mapped private pages with W = 1. -/
def State.privWritable (s : State) (p addr n : Nat) : Bool :=
  (List.range ((addr + n - 1) / 2 ^ 21 + 1 - addr / 2 ^ 21)).all (fun i =>
    match s.translate p none .write ((addr / 2 ^ 21 + i) * 2 ^ 21) with
    | .ok pl => pl.region.isNone
    | _ => false)

/-- Whether two ranges meet; an empty one meets none. -/
def meets (a n b m : Nat) : Bool := decide (0 < n) && decide (0 < m) && decide (a < b + m) && decide (b < a + n)

/-- The fence area of a pitch: its address and length (R348). -/
def State.fenceArea (s : State) (p : Nat) : Nat × Nat :=
  (s.pfld p offFnArea 47 12 * 4096, s.fld 0 (offFrange p) 29 16 * 8)

/-- The frame-count table of a pitch (R548). -/
def State.fctArea (s : State) (p : Nat) : Nat × Nat := (s.pfld p offFctBase 47 12 * 4096, 8 * s.pfld p offFctFrames 26 0)

/-- The Packer's table area of a pitch: 64 slots of 1,024 bytes and 65,536 generations (R253). -/
def State.tableArea (s : State) (p : Nat) : Nat × Nat := (s.pfld p offPktbl 47 17 * 2 ^ 17, 0x20000)

/-- ACTIVE of the frame-count table and of the table area, kept in their registers. -/
def State.fctActive (s : State) (p : Nat) : Bool := s.pfld p offFctBase 1 1 == 1
def State.tableActive (s : State) (p : Nat) : Bool := s.pfld p offPktbl 1 1 == 1

/-- Whether a packed region of a pitch is in force, and its place (R241). -/
def State.pkrActive (s : State) (p n : Nat) : Bool := s.pfld p (offPkr n) 5 5 == 1
def State.pkrBase (s : State) (p n : Nat) : Nat := s.pfld p (offPkr n) 47 12 * 4096
def State.pkrLimit (s : State) (p n : Nat) : Nat := (s.pfld p (offPkr n + 8) 47 12 + 1) * 4096
def State.pkrHdr (s : State) (p n : Nat) : Nat := s.pfld p (offPkr n + 16) 47 4 * 16

/-- Whether a range meets a packed region in force (R249). -/
def State.inRegion (s : State) (p addr n : Nat) : Bool :=
  (List.range 16).any (fun k => s.pkrActive p k && meets addr n (s.pkrBase p k) (s.pkrLimit p k - s.pkrBase p k))

/-- The packed region in force that holds an address. -/
def State.pkrOf (s : State) (p addr : Nat) : Option Nat :=
  (List.range 16).find? (fun n => s.pkrActive p n && decide (s.pkrBase p n ≤ addr) && decide (addr < s.pkrLimit p n))

/-- CODEC and SEG of a packed region (Table 10-1). -/
def State.pkrCodec (s : State) (p n : Nat) : Nat := s.pfld p (offPkr n) 2 1
def State.pkrSeg (s : State) (p n : Nat) : Bool := s.pfld p (offPkr n) 3 3 == 1
def State.pkrEnc (s : State) (p n : Nat) : Bool := s.pfld p (offPkr n) 4 4 == 1

/-- Bytes of a unit of a region: 4,096, or a segment of 4,128 (R243). -/
def State.pkrUnit (s : State) (p n : Nat) : Nat := if s.pkrSeg p n then 4128 else 4096

/-- Bytes of a region's header area: 16 for each unit of a ZRUN or ENT region (R242). -/
def State.pkrHdrLen (s : State) (p n : Nat) : Nat :=
  if s.pkrCodec p n = 3 then 0 else (s.pkrLimit p n - s.pkrBase p n) / s.pkrUnit p n * 16

/-- ACTIVE of the fence area (R348). -/
def State.fenceActive (s : State) (p : Nat) : Bool :=
  let a := s.fenceArea p
  s.pfld p offFnArea 0 0 == 1 && decide (0 < a.2) && s.privWritable p a.1 a.2
    && (List.range 16).all (fun n => !s.pkrActive p n
          || (!meets a.1 a.2 (s.pkrBase p n) (s.pkrLimit p n - s.pkrBase p n)
              && !meets a.1 a.2 (s.pkrHdr p n) (s.pkrHdrLen p n)))
    && !(s.tableActive p && meets a.1 a.2 (s.tableArea p).1 (s.tableArea p).2)
    && !(s.fctActive p && meets a.1 a.2 (s.fctArea p).1 (s.fctArea p).2)

/-- Whether a range meets the active fence area (R348). -/
def State.inFences (s : State) (p addr n : Nat) : Bool :=
  s.pfld p offFnArea 0 0 == 1 && meets addr n (s.fenceArea p).1 (s.fenceArea p).2 && s.fenceActive p

/-- Whether a range meets the active frame-count table. -/
def State.inCounts (s : State) (p addr n : Nat) : Bool := s.fctActive p && meets addr n (s.fctArea p).1 (s.fctArea p).2

/-- Whether a range meets the Packer's active table area. -/
def State.inTables (s : State) (p addr n : Nat) : Bool := s.tableActive p && meets addr n (s.tableArea p).1 (s.tableArea p).2

/-- Whether a range meets a packed region in force or a header area of one. -/
def State.inPacked (s : State) (p addr n : Nat) : Bool :=
  (List.range 16).any (fun k => s.pkrActive p k && (meets addr n (s.pkrBase p k) (s.pkrLimit p k - s.pkrBase p k)
    || meets addr n (s.pkrHdr p k) (s.pkrHdrLen p k)))

end Sys2Proof.Machine
end

