-- ==== Sys2Proof/Machine/Launch.lean ====
section
/-! DEFINITION. How descriptors complete and launches end: completions on their way to a CQ, context faults, the retained
copy, the stop of a launch's units and its sweep (spec 13 R337 to R339, 18 R444 to R458, 03 R92, 05 R123, R124). -/

namespace Sys2Proof.Machine

/-! ### Descriptors -/

/-- OP, FLAGS of a descriptor (Table 13-4). -/
def Desc.op (d : Desc) : Nat := fieldAt d.bytes 0 1
def Desc.barrier (d : Desc) : Bool := bit (fieldAt d.bytes 1 1) 0
def Desc.quiet (d : Desc) : Bool := bit (fieldAt d.bytes 1 1) 1

/-- A descriptor of a queue by its HSEQ. -/
def Queue.desc? (q : Queue) (h : W32) : Option Desc := q.descs.find? (fun d => d.hseq == h)

/-- The queue with a descriptor changed. -/
def Queue.modDesc (q : Queue) (h : W32) (f : Desc → Desc) : Queue :=
  { q with descs := q.descs.map (fun d => if d.hseq = h then f d else d) }

/-- The head of an SQ: its oldest fetched descriptor that has not started (R357). -/
def Queue.head? (q : Queue) : Option Desc := q.descs.find? (fun d => !d.started)

/-- DONE_LOW moved up over the completed HSEQs that follow it, and over those that a REBASE has passed over (Table 13-13). -/
def advanceLow (jumps : List (Nat × Nat)) : Nat → W32 → List Nat → W32 × List Nat
  | 0, low, set => (low, set)
  | fuel + 1, low, set =>
    match jumps.find? (fun j => j.1 == low.toNat) with
    | some j => advanceLow jumps fuel (BitVec.ofNat 32 j.2) set
    | none => if set.contains (low + 1).toNat then advanceLow jumps fuel (low + 1) (set.erase (low + 1).toNat) else (low, set)

/-- The queue after a descriptor has completed (R327, Table 13-13). -/
def Queue.complete (q : Queue) (h : W32) : Queue :=
  let r := advanceLow q.jumps (q.doneSet.length + q.jumps.length + 1) q.doneLow (h.toNat :: q.doneSet)
  { q with descs := q.descs.filter (fun d => d.hseq != h), doneLow := r.1, doneSet := r.2, doneCount := q.doneCount + 1 }

/-- The state with the callers told of something to do (Table 13-2). -/
def State.wakeFront (s : State) : State := { s with fe := { s.fe with wake := true } }

/-- The state after a descriptor has completed: counts, its slot's DONE, and the launch no longer in flight. -/
def State.descDone (s : State) (q : Nat) (h : W32) (launch : Option Nat) : State :=
  let slot := ((s.queue? q).bind (fun x => x.desc? h)).bind (fun d => d.slot)
  let s1 := s.modQueue q (fun x => x.complete h)
  let s2 := (match slot with
    | some n => s1.modSlot n (fun x => { x with dones := x.dones + 1 })
    | none => s1)
  let s3 := (match launch with
    | some l => { s2 with fe := { s2.fe with launches := Tab.del s2.fe.launches l } }
    | none => s2)
  let s4 := (match launch, s.pitchOfFn ((s.queue? q).map (fun x => x.fn) |>.getD 0) with
    | some _, some p => s3.modPitch p (fun x => { x with psbDirty := true })
    | _, _ => s3)
  s4.wakeFront

/-- A descriptor whose effects are visible: its record goes to its CQ's waiting list, or none is written, under QUIET with
OK (R339) or at a stopped CQ (R573). -/
def State.finishDesc (s : State) (q : Nat) (h : W32) (st : Status) (cflags : Nat) (info : W64) (launch : Option Nat) : State :=
  if s.shadow then s
  else match s.queue? q with
  | none => s
  | some x =>
    match x.desc? h with
    | none => s
    | some d =>
      if d.finished then s
      else
        let stopped := (match s.queue? x.cq with
          | some c => c.state == .stopped
          | none => true)
        if stopped || (d.quiet && st == .ok) then s.descDone q h launch
        else
          let r : CRec := { sq := q, hseq := h, status := st.code, cflags := cflags, info := info, launch := launch }
          ((s.modQueue q (fun x => x.modDesc h (fun d => { d with started := true, blocked := false, finished := true }))).modQueue
            x.cq (fun c => { c with waiting := c.waiting ++ [r] })).wakeFront

/-- CFLAGS of a launch (Table 13-12). -/
def Launch.cflags (l : Launch) : Nat := b2n l.tillSat + 2 * b2n l.nonfinite + 8 * b2n l.faulted

/-- The state without a launch. -/
def State.dropLaunch (s : State) (l : Nat) : State := { s with fe := { s.fe with launches := Tab.del s.fe.launches l } }

/-- The LAUNCH_END record of a launch that ended with a status (Table 16-11). -/
def State.postLaunchEnd (s : State) (x : Launch) (st : Status) : State :=
  s.postDbk [x.pitch] .launch (srcQueue x.sq) 0x03 (leBytes 4 x.hseq.toNat ++ leBytes 2 st.code ++ leBytes 2 x.cflags)

/-- A launch's LAUNCH_END record and its completion (R338, R453); one whose descriptor its package does not have to complete is gone. -/
def State.endLaunch (s : State) (l : Nat) (x : Launch) : State :=
  let st := x.ended.getD .ok
  if !(((s.queue? x.sq).bind (fun q => q.desc? x.hseq)).any (fun d => !d.finished)) then s.dropLaunch l
  else
  (s.postLaunchEnd x st).finishDesc x.sq x.hseq st x.cflags x.start (some l)

/-- The digest of a secondary's launch sent to the primary (R491). -/
def State.sendDigest (s : State) (x : Launch) : State :=
  s.pairSend ⟨28, mtPairDigest,
    BitVec.ofNat 64 (x.hseq.toNat + x.sq * 2 ^ 32 + (Config.digestTag (x.ended.getD .ok).code % 2 ^ 22) * 2 ^ 42), leBytes 8 x.digest.toNat⟩

/-- A comparison of both digests of a launch: a difference, or one of the statuses, raises SDC_MISMATCH (R491, R492, Table 19-6). -/
def State.compareDigest (s : State) (x : Launch) (d : W64) (st : Nat) : State :=
  let diff := x.digest ^^^ d
  let s1 := s.modPair (fun p =>
    { p with compared := p.compared + 1, mismatch := if diff = 0 then p.mismatch else p.mismatch + 1,
             digests := p.digests.filter (fun e => !(e.1 == x.sq && e.2.1 == x.hseq)) })
  if diff = 0 ∧ st = (x.ended.getD .ok).code then s1
  else s1.postEvent [x.pitch, 24] (srcQueue x.sq) 0x26
    (leBytes 2 x.sq ++ leBytes 1 x.pitch ++ leBytes 1 st ++ leBytes 4 x.hseq.toNat ++ leBytes 8 diff.toNat)

/-- A launch whose sweep is over, or that ended with OK. In COMPARE a secondary sends its digest, and a primary waits for it. -/
def State.finishLaunch (s : State) (l : Nat) : State :=
  match s.launch? l with
  | none => s
  | some x =>
    if s.shadow then (s.sendDigest x).dropLaunch l
    else if s.compares then
      (match s.pair.digests.find? (fun e => e.1 == x.sq && e.2.1 == x.hseq) with
       | some e => (s.compareDigest x e.2.2.1 e.2.2.2).endLaunch l x
       | none => s.modPair (fun p => { p with awaiting := if p.awaiting.contains l then p.awaiting else p.awaiting ++ [l] }))
    else s.endLaunch l x

/-- Launches that wait for digests and have them now, or wait no longer (R491, R492). -/
def State.finishAwaiting (s : State) : State :=
  let ls := s.pair.awaiting
  ls.foldl (fun s l => s.finishLaunch l) (s.modPair (fun p => { p with awaiting := [] }))

/-! ### Where a launch runs -/

/-- The splits a launch holds on a stall: lowest and number. -/
def Launch.splitsOn (l : Launch) (st : Nat) : Option (Nat × Nat) :=
  (l.splits.find? (fun x => x.1 == st)).map (fun x => x.2)

/-- The context in which a launch runs on a stall (R120). -/
def Launch.ctxOn (l : Launch) (st : Nat) : Nat := ((l.splitsOn st).map (fun x => x.1)).getD 0

/-- Whether a launch holds a split of a stall. -/
def Launch.holds (l : Launch) (st sp : Nat) : Bool :=
  match l.splitsOn st with
  | some (lo, n) => decide (lo ≤ sp) && decide (sp < lo + n)
  | none => false

/-- The stalls of a launch's mask, in ascending order. -/
def maskStalls (m : BitVec 48) : List Nat := (List.range 48).filter (fun i => m.getLsbD i)

/-- Whether a launch still occupies what it was given: it has not ended, or its sweep has not finished (R456). -/
def Launch.occupies (l : Launch) : Bool := l.ended.isNone || !l.sweeping.isEmpty

/-- The launch running in a context. -/
def State.launchIn (s : State) (st c : Nat) : Option Launch :=
  if (s.ctxOf st c).live then s.launch? (s.ctxOf st c).launch else none

/-! ### The array's part of a fault (R92) -/

/-- A split after R92: nothing running, the activation scale 1.0. -/
def Split.clear (x : Split) : Split :=
  { x with ascl := 0x3F80#16, waiting := [], flight := [], loads := [], slot := 0 }

/-! ### Retained copies (R457 to R459) -/

/-- A part of a copy padded to 64 bytes. -/
def pad64 (bs : List Byte) : List Byte := bs ++ List.replicate ((64 - bs.length % 64) % 64) 0

/-- One hardware-loop record of a control part (R458). -/
def loopBytes : Option LoopRec → List Byte
  | some l => leBytes 4 l.start.toNat ++ leBytes 2 l.len ++ leBytes 2 0 ++ leBytes 8 l.left.toNat
  | none => List.replicate 16 0

/-- The 17,920 bytes of a context's registers (R458). -/
def Ctx.dump (c : Ctx) : List Byte :=
  (List.range 32).flatMap (fun i => leBytes 8 (c.getG i).toNat)
    ++ (List.range 16).flatMap (fun i => leBytes 8 (c.getA i).toNat)
    ++ (List.range 16).flatMap (fun i => leBytes 64 (c.getT i).toNat)
    ++ (List.range 16).flatMap (fun i => (c.getV i).toList.flatMap (fun w => leBytes 4 w.toNat))
    ++ leBytes 1 ((List.range 8).foldl (fun a i => a + b2n (c.getP i) * 2 ^ i) 0) ++ List.replicate 7 0
    ++ leBytes 8 c.pc.toNat ++ (List.range 4).flatMap (fun i => loopBytes (c.loops.reverse[i]?)) ++ List.replicate 48 0

/-- The tills of a split as WIDE elements and their anchors (R458). -/
def Split.tillDump (x : Split) : List Byte × List Byte :=
  (x.flight.flatMap (fun p => p.parts.flatMap (fun e => leBytes 16 (lowBits 128 e.2.t))),
   x.flight.flatMap (fun p => p.parts.flatMap (fun e =>
     leBytes 2 (lowBits 16 ((p.anchors[e.1 / 2 ^ 24]?).getD 0)))))

/-- The data bits of a range of bay rows, in row order. -/
def State.rowBytes (s : State) (st bay first last : Nat) : List Byte :=
  (List.range ((last + 1 - first) * 256)).flatMap (fun i =>
    leBytes 4 ((Tab.get 0 s.bays (st * 2 ^ 22 + bay * 2 ^ 20 + first * 256 + i)).toNat % 2 ^ 32))

/-- One stall's section of a retained copy (R458). -/
def State.dumpSection (s : State) (st lo n : Nat) (ctxs : List Nat) (rows : List (Option (Nat × Nat))) : List Byte :=
  let tills := (List.range n).map (fun k => (s.splitOf st (lo + k)).tillDump)
  (Config.dumpSection st lo n rows ++ List.replicate 64 0).take 64
    ++ ctxs.flatMap (fun c => (s.ctxOf st c).dump)
    ++ pad64 (tills.flatMap (fun t => t.1)) ++ pad64 (tills.flatMap (fun t => t.2))
    ++ (List.range 4).flatMap (fun b => match (rows[b]?).getD none with
        | some (f, l) => s.rowBytes st b f l
        | none => [])

/-- Whether a pitch retains now (R457). -/
def State.mayRetain (s : State) (p : Nat) : Bool :=
  bit (s.raw 0 offRetain) p && s.pfld p offDumpBase 0 0 == 1 && s.pfld p offDumpBase 2 2 == 0
    && decide (0 < s.pfld p offDumpSize 23 0)
    && s.privWritable p (s.pfld p offDumpBase 47 12 * 4096) (s.pfld p offDumpSize 23 0 * 4096)

/-- The state with a copy written to the pitch's dump buffer, which becomes FULL (R458, Table 18-10). -/
def State.writeDump (s : State) (p : Nat) (time : W64) (src : Nat) (seq : W32) (queue : Nat) (h : W32) (st : Status)
    (sections : List (List Byte)) : State :=
  let size := s.pfld p offDumpSize 23 0 * 4096
  let body := sections.flatten
  let trunc := decide (size < 64 + body.length)
  let n := min size (64 + body.length)
  let head := leBytes 8 time.toNat ++ leBytes 2 src ++ leBytes 4 seq.toNat ++ leBytes 2 queue ++ leBytes 4 h.toNat
    ++ leBytes 2 st.code ++ leBytes 1 sections.length ++ leBytes 1 (b2n trunc) ++ leBytes 8 n ++ List.replicate 32 0
  (s.writeDev p none .write none (s.pfld p offDumpBase 47 12 * 4096) ((head ++ body).take size) false).setFld
    (s.fnOf p) offDumpBase 2 2 1

/-- The retained copy of a launch (R453 step 4). -/
def State.retainLaunch (s : State) (l : Nat) (time : W64) (src : Nat) (seq : W32) (st : Status) : State :=
  match s.launch? l with
  | none => s
  | some x =>
    if s.mayRetain x.pitch then
      (s.writeDump x.pitch time src seq x.sq x.hseq st
        (x.splits.map (fun y => s.dumpSection y.1 y.2.1 y.2.2 [y.2.1] x.rows))).modLaunch l
        (fun x => { x with retained := true })
    else s

/-! ### Ending a launch (R123, R124, R453) -/

/-- Whether a launch holds splits of a stall: a token on its bays is no remote one (R146). -/
def Launch.ownStall (x : Launch) (st : Nat) : Bool := x.splits.any (fun y => y.1 == st)

/-- A context that issues nothing more; its registers stay until the sweep (R454). -/
def Ctx.stop (c : Ctx) : Ctx := { c with live := false, wait := .none, pend := [], vecq := [], loops := c.loops }

/-- The state with a launch's units stopped on one stall: its context, its splits (R92) and its channels (R192). -/
def State.stopOn (s : State) (l : Nat) (y : Nat × Nat × Nat) : State :=
  s.modStall y.1 (fun st =>
    { st with ctx := st.ctx.setIfInBounds y.2.1 ((st.ctx[y.2.1]?.getD Ctx.reset).stop),
              splits := Vector.ofFn (fun (i : Fin 4) =>
                if y.2.1 ≤ i.val ∧ i.val < y.2.1 + y.2.2 then (st.splits[i]).clear else st.splits[i]),
              chans := st.chans.map (fun c => { c with xfers := c.xfers.filter (fun x => x.launch != l) }) })

/-- A launch ended with a status other than OK: issue, channels and buffers stop and its sweep starts (R453 steps 1, 2, 5).
Its remote tokens are freed at once (R146). A launch that has already ended keeps its status. -/
def State.abortLaunch (s : State) (l : Nat) (st : Status) (faulted : Bool) : State :=
  match s.launch? l with
  | none => s
  | some x =>
    if x.ended.isSome then s
    else
      let s1 := x.splits.foldl (fun s y => s.stopOn l y) s
      let s2 := { s1 with tokReqs := s1.tokReqs.filter (fun r => r.launch != l),
                          tokens := s1.tokens.filter (fun t => !(t.launch == l && !x.ownStall t.rows.stall)),
                          mem := { s1.mem with reqs := s1.mem.reqs.filter (fun r =>
                            match r.client, r.kind with
                            | .ctx _ _ l', .load _ => l' != l
                            | .ctx _ _ l', .loadT _ => l' != l
                            | _, _ => true) } }
      s2.modLaunch l (fun x => { x with ended := some st, faulted := faulted, running := [], sweeping := x.splits.map (·.1) })

/-- A launch killed (R453): its copy, and its end on every stall of its mask. DESIGN CHOICE: the copy's header names a fault record, and a
KILL writes none; TIME, SOURCE and SEQ are free there (log 166). -/
def State.killLaunch (s : State) (l : Nat) : State :=
  let s1 := s.afterAny
  let v := s1.anyWord
  (s1.afterAny.retainLaunch l s.anyWord (v.toNat % 2 ^ 16) ((v >>> 16).truncate 32) .killed).abortLaunch l .killed false

/-- What a context fault of a launch reports (R445, R448): the launch's own fields and the unit's. -/
def State.ctxFaultInfo (s : State) (x : Launch) (lstall : Option Nat) (st : Status) (ukind uindex syndrome addr : Nat) : FaultInfo :=
  let _ := s
  { cls := 2, flags := 0, status := st, pitch := some x.pitch, split := ((lstall.bind x.splitsOn).map (·.1)).getD 0,
    queue := some x.sq, lstall := lstall, hseq := x.hseq.toNat, ukind := ukind, uindex := uindex, syndrome := syndrome,
    addr := addr }

/-- A context fault (R124, R445, R453): the record, the retained copy, and the launch's end on every stall of its mask.
A launch that has already ended gets a record with LATE set and nothing else. `more` is MAPOUT where the fault mapped a unit out, and
`seqid` the SEQ_ID of the page list of a walk that fails (R217). -/
def State.contextFaultF (s : State) (l : Nat) (src : Nat) (lstall : Option Nat) (st : Status)
    (ukind uindex syndrome addr more seqid : Nat) : State :=
  match s.launch? l with
  | none => s
  | some x =>
    let f := { s.ctxFaultInfo x lstall st ukind uindex syndrome addr with seqid := seqid }
    if x.ended.isSome then s.postFault src { f with flags := 8 + more }
    else
      let time := s.stamp src
      let seq := s.seqOf src
      let kept := s.mayRetain x.pitch
      let s1 := s.retainLaunch l time src seq st
      (s1.abortLaunch l st true).postFault src { f with flags := (if kept then 4 else 0) + more }

/-- … that maps no unit out and is no page walk's. -/
def State.contextFault (s : State) (l : Nat) (src : Nat) (lstall : Option Nat) (st : Status)
    (ukind uindex syndrome addr : Nat) : State := s.contextFaultF l src lstall st ukind uindex syndrome addr 0 0

/-- A context fault that the sequencer meets at an instruction (Table 18-4): the program counter and the opcode. -/
def State.seqFault (s : State) (st c : Nat) (op : Nat) (status : Status) (addr : Nat) : State :=
  let x := s.ctxOf st c
  s.contextFault x.launch (srcCtx st c) (some st) status 0x02 c (x.pc.toNat % 2 ^ 32 + op * 2 ^ 32) addr

/-- BAD_PROGRAM at an instruction (R150). -/
def State.badProgram (s : State) (st c op : Nat) : State := s.seqFault st c op .badProgram 0

/-- POISON_CONSUMED by a client (Table 18-4): the reading client's code, the ENGINE byte and the address. -/
def State.poisonFault (s : State) (l src : Nat) (lstall : Option Nat) (ukind uindex client engine addr : Nat) : State :=
  s.contextFault l src lstall .poisonConsumed ukind uindex (client + engine * 256) addr

/-! ### Sweeping (R454 to R456) -/

/-- The state with a range of rows of a bay zeroed through the maintenance path: zero words have zero check bits
(R162, R163). -/
def State.zeroRows (s : State) (st bay first last : Nat) : State :=
  let base := st * 2 ^ 22 + bay * 2 ^ 20
  { s with bays := Tab.clearRange s.bays (base + first * 256) (base + (last + 1) * 256),
           rewrites := s.rewrites.filter (fun r => !(decide (base + first * 256 ≤ r.1) && decide (r.1 < base + (last + 1) * 256))) }

/-- The state with a launch's tokens freed: those on a stall's own bays, or the remote ones it holds (R146). -/
def State.freeTokens (s : State) (l : Nat) (st : Nat) : State :=
  { s with tokens := s.tokens.filter (fun t => !(t.launch == l && t.rows.stall == st)) }

/-- A stall whose expander's buffer is cleared where launch `l` was its last user (Table 18-6). -/
def Stall.dropFactors (x : Stall) (l : Nat) : Stall :=
  if x.factorsBy = some l then { x with factors := [], factorsBy := none } else x

/-- What the sweeper of one stall clears for a launch (Table 18-6). -/
def State.sweepStall (s : State) (l : Nat) (x : Launch) (st : Nat) : State :=
  let s1 := (List.range 4).foldl (fun s b => match (x.rows[b]?).getD none with
    | some (f, la) => s.zeroRows st b f la
    | none => s) s
  let s2 := s1.freeTokens l st
  s2.modStall st (fun y => { y.dropFactors l with ctx := y.ctx.setIfInBounds (x.ctxOn st) Ctx.reset })

end Sys2Proof.Machine
end

