-- ==== Sys2Proof/Machine/Ecc.lean ====
section
/-! DEFINITION. Bay words: the extended Hamming code, reads with correction and poison, and writes (spec 06 R163 to R166). -/

namespace Sys2Proof.Machine

/-- The code position of data bit `i` (R163): the positions from 1 to 38 that are no powers of two, in order. -/
def hamPos (i : Nat) : Nat :=
  if i < 1 then 3 else if i < 4 then i + 4 else if i < 11 then i + 5 else if i < 26 then i + 6 else i + 7

/-- The parity of a list of Bools. -/
def xorAll (l : List Bool) : Bool := l.foldl (fun a b => a != b) false

/-- Check bit `k`, 0 to 5, of a data word (R163). -/
def hamBit (w : W32) (k : Nat) : Bool :=
  xorAll ((List.range 32).map (fun i => w.getLsbD i && bit (hamPos i) k))

/-- The check bits c0 to c5 as a number. -/
def hamLow (w : W32) : Nat := (List.range 6).foldl (fun a k => a + b2n (hamBit w k) * 2 ^ k) 0

/-- The parity of the low `n` bits of a number. -/
def parity (n v : Nat) : Bool := xorAll ((List.range n).map (fun i => bit v i))

/-- The stored word of 32 data bits: c0 to c6 in bits 32 to 38 (R163). -/
def bayEncode (w : W32) : BitVec 39 :=
  let low := hamLow w
  let c6 := (parity 32 w.toNat) != (parity 6 low)
  BitVec.ofNat 39 (w.toNat + low * 2 ^ 32 + b2n c6 * 2 ^ 38)

/-- What a read of a stored word delivers (R164). -/
inductive BayRead where
  | good (w : W32)
  | corrected (w : W32)
  | poisoned
  deriving DecidableEq, Repr

/-- The syndrome of c0 to c5 and whether the overall parity is wrong. -/
def baySyndrome (x : BitVec 39) : Nat × Bool :=
  let w : W32 := x.truncate 32
  (hamLow w ^^^ bits x.toNat 37 32, parity 39 x.toNat)

/-- The data bit at a code position, if it is one. -/
def hamData (pos : Nat) : Option Nat := (List.range 32).find? (fun i => hamPos i == pos)

/-- The decoding of a stored word (R164). -/
def bayDecode (x : BitVec 39) : BayRead :=
  let w : W32 := x.truncate 32
  let sy := baySyndrome x
  if sy.2 then
    if 38 < sy.1 then .poisoned
    else match hamData sy.1 with
      | some i => .corrected (w ^^^ BitVec.ofNat 32 (2 ^ i))
      | none => .corrected w
  else if sy.1 = 0 then .good w else .poisoned

/-- The key of a bay word: its stall and its bay address. -/
def bayKey (st addr : Nat) : Nat := st * 2 ^ 22 + addr

/-- The stored word at a key. -/
def State.bayWord (s : State) (key : Nat) : BitVec 39 := Tab.get 0 s.bays key

/-- The state with bits of stored words flipped, as the environment flips them before a read (R164). -/
def State.upset (s : State) (st : Nat) (ups : List (Nat × BitVec 39)) : State :=
  ups.foldl (fun s u =>
    let k := bayKey st (u.1 % 2 ^ 22)
    { s with bays := Tab.set 0 s.bays k (s.bayWord k ^^^ u.2) }) s

/-- The state with a bay word written whole; a pending rewrite of it is dropped (R158, R165). -/
def State.bayWrite (s : State) (st addr : Nat) (w : W32) : State :=
  let k := bayKey st addr
  let bad := s.health.bayBad.contains k
  { s with bays := Tab.set 0 s.bays k (bayEncode w), rewrites := s.rewrites.filter (fun r => r.1 != k),
           health := { s.health with bayBad := s.health.bayBad.filter (· != k),
                                     bayMended := if bad then k :: s.health.bayMended else s.health.bayMended } }

/-- The state with consecutive bay words written. -/
def State.bayWrites (s : State) (st addr : Nat) : List W32 → State
  | [] => s
  | w :: ws => State.bayWrites (s.bayWrite st addr w) st (addr + 1) ws

/-- The syndrome field of a bay word error (Table 18-4). -/
def baySynField (key : Nat) (x : BitVec 39) : Nat :=
  let a := key % 2 ^ 22
  let sy := baySyndrome x
  a / 2 ^ 20 + ((a % 2 ^ 20) / 256) * 2 ^ 16 + (a % 256) * 2 ^ 32 + (sy.1 + b2n sy.2 * 128) * 2 ^ 40

/-- The pitch of the unit a stall belongs to. -/
def State.pitchOfStall (s : State) (st : Nat) : Option Nat := s.ownerOf (st / 2)

end Sys2Proof.Machine
end

