-- ==== Sys2Proof/Machine/Limits.lean ====
section
/-! DEFINITION. Operating points and their ceilings (spec 20 R504, R505, R508, R510). -/

namespace Sys2Proof.Machine

/-- FMAX of GH_PWR_LIMIT in 25 MHz steps: a value out of range acts as the nearer end (Table 20-9). -/
def State.fmax (s : State) : Nat := max 32 (min 74 (s.fld 0 offPwrLimit 30 24))

/-- LIMIT of GH_PWR_LIMIT in watts (Table 20-9). -/
def State.limitW (s : State) : Nat :=
  let v := s.fld 0 offPwrLimit 12 0
  if v = 0 then s.chip.part.maxPower else max 1200 (min s.chip.part.maxPower v)

/-- POWER: the average of the readings of the last millisecond, 20 periods of 50 µs (Tables 20-10, 20-11). -/
def Power.average (p : Power) : Nat := p.readings.foldl (· + ·) 0 / max 1 p.readings.length

/-- A die sensor. -/
def State.sensor (s : State) (n : Nat) : Sensor := s.pw.sensors[n]?.getD ⟨0, false, 0, 74⟩

/-- The step that a sensor acts in: HOT at least, where it did not answer its last read (R510). -/
def Sensor.acts (x : Sensor) : Nat := if x.valid then x.step else max 2 x.step

/-- The sensors that act on a logical stall: its own array's, and every one that is no stall's (R510). -/
def State.sensorsOf (s : State) (st : Nat) : List Sensor :=
  s.sensor (s.pstall st) :: ((List.range 68).drop 52).map s.sensor

/-- A stall's thermal ceiling in 25 MHz steps (R510). -/
def State.thermalCeil (s : State) (st : Nat) : Nat := ((s.sensorsOf st).map (·.ceil)).foldl min 74

/-- Whether a sensor keeps a stall at or below 1.600 GHz, and whether one throttles it to 4 of 8 slots (Table 20-14). -/
def State.warmOn (s : State) (st : Nat) : Bool := (s.sensorsOf st).any (fun x => decide (1 ≤ x.acts))
def State.critOn (s : State) (st : Nat) : Bool := (s.sensorsOf st).any (fun x => x.acts == 3)

/-- Whether BOOST permits points above 1.600 GHz now (Table 20-10). -/
def State.boosted (s : State) : Bool :=
  s.fld 0 offPwrLimit 16 16 == 1 && s.pw.stage == 0 && !s.pw.readings.isEmpty && decide (s.pw.average + 100 ≤ s.limitW)
    && (List.range 68).all (fun n => (s.sensor n).acts == 0)

/-- The operating point of a stall: the lowest of its three ceilings (R504). -/
def State.opPoint (s : State) (st : Nat) : Nat :=
  let c := min (min s.pw.ceil (s.thermalCeil st)) s.fmax
  if s.boosted && !s.warmOn st then c else min c 64

/-- Every stall moved to its point where its clock runs, with TCAP and ITHR as they now stand (Table 20-7). -/
def State.retune (s : State) : State :=
  { s with stalls := Vector.ofFn (fun (i : Fin 48) =>
      let x := s.stalls[i]
      { x with fstep := if x.pwr = .active then s.opPoint i.val else x.fstep, tcap := decide (s.thermalCeil i.val < s.pw.ceil),
               ithr := s.pw.alarm || decide (3 ≤ s.pw.stage) || s.critOn i.val }) }

end Sys2Proof.Machine
end

