-- ==== Sys2Proof/Machine/Arith.lean ====
section
/-! DEFINITION. The arithmetic shared by the vector unit, the drains and the memory-side adders: IEEE operations on codes
(spec 05 R137, 11 R278), activation scales (02 R52, 03 R77) and the till format (04 R96, R115 to R118). -/

namespace Sys2Proof

/-- An exact result written as a code under RNE, overflow to infinity (R137, R278). -/
def Elem.put (el : Elem) (v : FNum) : Nat := (el.encode .rne true 0 v).1

/-- The sum, difference and product of two codes, each rounded once (R137). -/
def Elem.addC (el : Elem) (a b : Nat) : Nat := el.put ((el.decode a).add (el.decode b))
def Elem.subC (el : Elem) (a b : Nat) : Nat := el.put ((el.decode a).add (el.decode b).negate)
def Elem.mulC (el : Elem) (a b : Nat) : Nat := el.put ((el.decode a).mul (el.decode b))
/-- The fused product and sum, rounded once (R137). -/
def Elem.fmaC (el : Elem) (a b c : Nat) : Nat := el.put (((el.decode a).mul (el.decode b)).add (el.decode c))

/-- `a` is below `b` as numbers; signed zeros are equal. NaN is below nothing. -/
def FNum.lt : FNum → FNum → Bool
  | .nan, _ => false
  | _, .nan => false
  | .inf n, .inf k => n && !k
  | .inf n, .fin _ _ _ => n
  | .fin _ _ _, .inf k => !k
  | .fin n m e, .fin k m' e' => Dy.lt (FNum.toDy (.fin n m e)) (FNum.toDy (.fin k m' e'))

/-- IEEE equality: signed zeros are equal, NaN equals nothing. -/
def FNum.eqv (a b : FNum) : Bool := !a.isNaN && !b.isNaN && !a.lt b && !b.lt a

/-- `a` is below `b` with -0 below +0 (R137). -/
def FNum.below (a b : FNum) : Bool := a.lt b || (a.isZero && b.isZero && a.sign && !b.sign)

/-- The maximum of two codes: NaN in either gives NaN, -0 counts below +0 (R137). -/
def Elem.maxC (el : Elem) (a b : Nat) : Nat :=
  let x := el.decode a
  let y := el.decode b
  if x.isNaN || y.isNaN then el.put .nan else if x.below y then b else a

/-- The minimum of two codes. -/
def Elem.minC (el : Elem) (a b : Nat) : Nat :=
  let x := el.decode a
  let y := el.decode b
  if x.isNaN || y.isNaN then el.put .nan else if y.below x then b else a

/-- A number rounded to an integer and held within 32 bits signed, with NONFINITE (R137). -/
def FNum.toI32 (md : RMode) (r : Nat) : FNum → W32 × Bool
  | .nan => (0, true)
  | .inf true => (BitVec.ofInt 32 (-(2 ^ 31)), true)
  | .inf false => (BitVec.ofInt 32 (2 ^ 31 - 1), true)
  | .fin neg m e =>
    let n : Nat := if m = 0 then 0 else roundMag md r m e 0
    let v : Int := if neg then -(n : Int) else n
    (BitVec.ofInt 32 (max (-(2 ^ 31)) (min (2 ^ 31 - 1) v)), false)

/-- An INT32 value as a number. -/
def FNum.ofI32 (w : W32) : FNum := FNum.ofDy false ⟨w.toInt, 0⟩

/-- `⌈x⌉` of a finite number. -/
def FNum.ceilInt (x : FNum) : Int := x.toDy.ceil
/-- `⌊x⌋` of a finite number. -/
def FNum.floorInt (x : FNum) : Int := x.toDy.floor

/-- The quotient of two values, the divisor positive, cut off more than 100 bits below its leading bit with a sticky last bit:
it rounds as the exact quotient does. -/
def Dy.ovr (a c : Dy) : Dy :=
  let n := 160 + Nat.log2 c.m.natAbs
  let num := a.m.natAbs * 2 ^ n
  let q := 2 * (num / c.m.natAbs) + b2n (num % c.m.natAbs != 0)
  ⟨if a.m < 0 then -(q : Int) else (q : Int), a.e - n - 1 - c.e⟩

/-! ### The till format (R96, R115) -/

/-- A value in till format: a pair (T, A), or a special value (Table 4-3). -/
inductive Wide where
  | val (t : Int) (a : Int)
  | special (v : FNum)
  deriving DecidableEq, Repr

/-- A WIDE element by its two arrays' entries (Table 4-3): any T but the three listed reads as NaN under anchor 0x8000. -/
def Wide.decode (t : BitVec 128) (a : Half) : Wide :=
  if a = 0x8000#16 then
    if t = 1 then .special (.inf false) else if t = -1 then .special (.inf true) else .special .nan
  else .val t.toInt a.toInt

/-- The entries that the FK2 writes for an element. -/
def Wide.encode : Wide → BitVec 128 × Half
  | .val t a => (BitVec.ofInt 128 t, BitVec.ofInt 16 a)
  | .special (.inf neg) => (if neg then -1 else 1, 0x8000#16)
  | .special _ => (3, 0x8000#16)

/-- The number a till-format value stands for (R96). -/
def Wide.num : Wide → FNum
  | .val t a => FNum.ofDy false ⟨t, a - 126⟩
  | .special v => v

/-- The wide add of R116 and whether it saturated: `tag` is the output tensor's tag and `e` the destination element's index. -/
def Wide.add (seed : W64) (tag : Half) (e : Nat) : Wide → Wide → Wide × Bool
  | .special v, .special w => (.special (v.add w), false)
  | .special v, .val _ _ => (.special v, false)
  | .val _ _, .special w => (.special w, false)
  | .val t1 a1, .val t2 a2 =>
    if t1 = 0 then (.val t2 a2, false)
    else if t2 = 0 then (.val t1 a1, false)
    else
      let ar := max a1 a2
      let x1 := if a1 = ar then t1 else tillRound seed tag ar e 0x1FFFFF ⟨t1, a1 - 126⟩
      let x2 := if a2 = ar then t2 else tillRound seed tag ar e 0x1FFFFF ⟨t2, a2 - 126⟩
      let r := tillClamp (x1 + x2)
      (.val r.1 ar, r.2)

/-- VWANC on one element: an integer added to its anchor (R141); whether it saturated. -/
def Wide.shiftAnchor (k : Int) : Wide → Wide × Bool
  | .special v => (.special v, false)
  | .val t a =>
    let a' := a + k
    if t = 0 then (.val 0 (max (-32767) (min 32767 a')), false)
    else if 32767 < a' then (.val (if 0 < t then tMax else tMin) 32767, true)
    else if a' < -32767 then (.val 0 (-32767), false)
    else (.val t a', false)

/-- The drain of a value times a power of two and an output scale into an element format (R113, R118): the code and
NONFINITE. The value is exact; a zero value counts as +0. -/
def drainCode (el : Elem) (md : RMode) (nonsat : Bool) (seed : W64) (tag : Half) (e : Nat) (v oscale : FNum) : Nat × Bool :=
  el.encode md nonsat (srBits seed tag e) (v.mul oscale)

end Sys2Proof
end

