-- ==== Sys2Proof/Machine/Blocks.lean ====
section
/-! DEFINITION. Status blocks and the reclaim watermark (spec 13 R342, R343; 09 R238). -/

namespace Sys2Proof.Machine

/-- The launches of a pitch that are in flight (R238). -/
def State.inFlight (s : State) (p : Nat) : List Launch :=
  (s.fe.launches.filter (fun e => e.2.pitch == p)).map (·.2)

/-- The watermark as it is written now: the smallest start time of a launch in flight, else the FK time; it never
decreases (R238). -/
def State.watermarkNow (s : State) (p : Nat) : W64 :=
  let w := (match s.inFlight p with
    | [] => s.now
    | l :: ls => ls.foldl (fun a x => if x.start < a then x.start else a) l.start)
  if w < (s.pitch p).watermark then (s.pitch p).watermark else w

/-- PSB_EN of a pitch's function and the block's host address (Table 22-12). -/
def State.psbOn (s : State) (p : Nat) : Bool := s.pfld p offPsb 0 0 == 1
def State.psbAddr (s : State) (p : Nat) : Nat := s.pfld p offPsb 63 6 * 64

/-- The 64 bytes of a pitch block (Table 13-13). -/
def State.psbBytes (s : State) (p : Nat) (time wm : W64) (sseq : W32) : List Byte :=
  leBytes 8 time.toNat ++ leBytes 2 (srcPitch p) ++ leBytes 4 sseq.toNat ++ leBytes 2 p
    ++ leBytes 1 (if (s.pitch p).state = .resetting then 1 else 0) ++ leBytes 1 2 ++ leBytes 2 0
    ++ leBytes 4 (s.inFlight p).length ++ leBytes 4 (s.pitch p).count.toNat ++ List.replicate 12 0
    ++ leBytes 8 wm.toNat ++ leBytes 8 (s.pitch p).rclCount.toNat ++ List.replicate 8 0

/-- The state after a pitch block has been written, if one is (R342, R547). -/
def State.writePsb (s : State) (p : Nat) : State :=
  if !s.psbOn p then s.modPitch p (fun x => { x with psbDirty := false })
  else
    let time := s.stamp (srcPitch p)
    let wm := s.watermarkNow p
    let sseq := (s.pitch p).sseq + 1
    ((s.afterStamp (srcPitch p)).hostShow (s.fnOf p) (s.psbAddr p) (s.psbBytes p time wm sseq)).modPitch p
      (fun x => { x with sseq := sseq, watermark := wm, psbDirty := false })

/-- The 64 bytes of a queue's status block (Table 13-13). -/
def Queue.blockBytes (x : Queue) (q : Nat) (time : W64) (sseq : W32) : List Byte :=
  leBytes 8 time.toNat ++ leBytes 2 (srcQueue q) ++ leBytes 4 sseq.toNat ++ leBytes 2 q
    ++ leBytes 1 x.state.code ++ leBytes 1 (b2n x.isCq) ++ leBytes 2 (if x.state = .stopped then x.reason else 0)
    ++ leBytes 4 x.newest.toNat
    ++ (if x.isCq then
          leBytes 4 x.consumed.toNat ++ leBytes 4 x.waiting.length ++ leBytes 4 0 ++ leBytes 2 x.nextIdx
        else
          leBytes 4 x.started.toNat ++ leBytes 4 x.doneLow.toNat ++ leBytes 4 x.descs.length ++ leBytes 2 x.nextIdx)
    ++ leBytes 2 0 ++ leBytes 8 x.dbSeen.toNat ++ leBytes 8 (if x.isCq then x.records else x.doneCount).toNat
    ++ List.replicate 8 0

/-- The state after a queue's status block has been written (R342). -/
def State.writeBlock (s : State) (q : Nat) : State :=
  match s.queue? q with
  | none => s
  | some x =>
    let time := s.stamp (srcQueue q)
    let sseq := x.sseq + 1
    let s1 := (s.afterStamp (srcQueue q)).hostShow x.fn x.status.toNat (x.blockBytes q time sseq)
    { s1 with fe := { s1.fe with queues := Tab.put s1.fe.queues q { x with sseq := sseq, dirty := false } } }

/-- The 32 bytes of a completion record (Table 13-12). -/
def CRec.bytes (r : CRec) (time : W64) (src : Nat) (dseq : W32) : List Byte :=
  leBytes 8 time.toNat ++ leBytes 2 src ++ leBytes 4 dseq.toNat ++ leBytes 2 r.sq ++ leBytes 4 r.hseq.toNat ++ leBytes 2 r.status
    ++ leBytes 2 r.cflags ++ leBytes 8 r.info.toNat

/-- The CQ and its oldest waiting record, when its slot is free (R339). -/
def State.recordDue (s : State) (q : Nat) : Option (Queue × CRec) :=
  match s.queue? q with
  | none => none
  | some x =>
    match x.waiting with
    | [] => none
    | r :: _ =>
      if s.dieDown || !x.isCq || x.state == .stopped || decide (2 ^ x.log2 < (x.newest + 1 - x.consumed).toNat) then none
      else some (x, r)

/-- The oldest waiting record of a CQ written if its slot is free; then the status blocks that count it, then the CQ's cause (R338,
R339). -/
def State.writeRecord (s : State) (q : Nat) : State :=
  match s.recordDue q with
  | none => s
  | some (x, r) =>
    let k := x.newest + 1
    let src := srcQueue q
    let t := s.stamp src
    let s1 := (s.afterStamp src).hostShow x.fn (x.base.toNat + 32 * x.nextIdx) (r.bytes t src k)
    let s2 := s1.modQueue q (fun x => { x with newest := k, nextIdx := (x.nextIdx + 1) % 2 ^ x.log2, waiting := x.waiting.drop 1,
                                               records := x.records + 1 })
    let s3 := ((s2.descDone r.sq r.hseq r.launch).writeBlock r.sq).writeBlock q
    if x.vector = 0xFF then s3 else s3.raiseCause x.fn x.vector

/-- Records of a CQ written while their slots are free, at most `n`. -/
def State.drainCq : Nat → Nat → State → State
  | 0, _, s => s
  | n + 1, q, s => State.drainCq n q (s.writeRecord q)

/-- The records that wait in some CQs written as far as there is room. -/
def State.drainCqs (s : State) (qs : List Nat) : State :=
  qs.foldl (fun s q => State.drainCq (((s.queue? q).map (fun x => x.waiting.length)).getD 0) q s) s

end Sys2Proof.Machine
end

