-- ==== Sys2Proof/Machine/MemServe.lean ====
section
/-! DEFINITION. What a memory controller does when it serves a request: writes, the memory-side adders, frame counts and the
reclaim log (spec 11 R266, R278, R284, R285; 05 R147, R148; 04 R117; 09 R234 to R237). -/

namespace Sys2Proof.Machine

/-! ### The memory-side adders (Table 11-6, R147) -/

/-- Bytes that an operation works on. -/
def AtomOp.size : AtomOp → Nat
  | .addF32 => 4 | .addBf16 => 2 | .addI32 => 4 | .addI64 => 8
  | .minF32 => 4 | .minBf16 => 2 | .minI32 => 4 | .minI64 => 8
  | .maxF32 => 4 | .maxBf16 => 2 | .maxI32 => 4 | .maxI64 => 8
  | .cas => 8 | .addTill => 16

/-- The smaller and the larger of two signed codes of `n` bits. -/
def minSigned (n a b : Nat) : Nat := if signed n b < signed n a then b else a
def maxSigned (n a b : Nat) : Nat := if signed n a < signed n b then b else a

/-- What an operation writes over the old value, and the saturation bit. `x` and `y` are its operands: for compare-and-swap
the comparand and the new value, for the till-format add the low and high halves of T. -/
def AtomOp.apply (op : AtomOp) (old : Nat) (x y : W64) : Nat × Bool :=
  let v := x.toNat
  match op with
  | .addF32 => (Elem.fp32.addC old (v % 2 ^ 32), false)
  | .addBf16 => (Elem.bf16.addC old (v % 2 ^ 16), false)
  | .addI32 => ((old + v) % 2 ^ 32, false)
  | .addI64 => ((old + v) % 2 ^ 64, false)
  | .minF32 => (Elem.fp32.minC old (v % 2 ^ 32), false)
  | .minBf16 => (Elem.bf16.minC old (v % 2 ^ 16), false)
  | .minI32 => (minSigned 32 old (v % 2 ^ 32), false)
  | .minI64 => (minSigned 64 old v, false)
  | .maxF32 => (Elem.fp32.maxC old (v % 2 ^ 32), false)
  | .maxBf16 => (Elem.bf16.maxC old (v % 2 ^ 16), false)
  | .maxI32 => (maxSigned 32 old (v % 2 ^ 32), false)
  | .maxI64 => (maxSigned 64 old v, false)
  | .cas => (if old = v then y.toNat else old, false)
  | .addTill =>
    let r := tillClamp (signed 128 old + signed 128 (v + y.toNat * 2 ^ 64))
    (lowBits 128 r.1, r.2)

/-! ### The reclaim log (R236, R237, R549) -/

/-- Whether the reclaim log of a pitch is in force (R549). -/
def State.rclActive (s : State) (p : Nat) : Bool :=
  let n := s.pfld p offRclSize 16 0
  s.pfld p offRclBase 0 0 == 1 && decide (64 ≤ n) && decide (n ≤ 65536) && 2 ^ Nat.log2 n == n
    && s.pfld p offRclHead 63 3 != 0

/-- The 32 bytes of a reclaim record (Table 9-7). -/
def rclBytes (time : W64) (src : Nat) (seq : W32) (kind frame lost : Nat) : List Byte :=
  leBytes 8 time.toNat ++ leBytes 2 src ++ leBytes 4 seq.toNat ++ leBytes 1 kind ++ leBytes 1 0 ++ leBytes 4 frame
    ++ leBytes 4 lost ++ List.replicate 8 0

/-- A count has reached zero: a reclaim record is written, or dropped and counted (R236, R237). -/
def State.reclaim (s : State) (p unit kind frame : Nat) : State :=
  let src := srcMc unit
  let time := s.stamp src
  let seq := s.seqOf src
  let s1 := ((s.afterStamp src).afterSeq src).modPitch p (fun x => { x with rclCount := x.rclCount + 1, psbDirty := true })
  let ring := s1.rcl[p]?.getD Ring.zero
  let n := s1.pfld p offRclSize 16 0
  if s.shadow then s
  else if !s1.rclActive p || ring.full n then
    { s1 with rcl := s1.rcl.setIfInBounds p { ring with dropped := ring.dropped + 1, gap := ring.gap + 1 } }
  else
    let s2 := { s1 with rcl := s1.rcl.setIfInBounds p { ring with written := ring.written + 1, gap := 0 } }
    s2.hostWrite (some (s.fnOf p)) (s1.pfld p offRclBase 63 12 * 4096 + 32 * (ring.written.toNat % n)) (rclBytes time src seq kind frame ring.gap)

/-! ### Frame counts (R233, R234) -/

/-- The counts that a range of device addresses touches, by their index in the table. -/
def State.countsIn (s : State) (p addr n : Nat) : List Nat :=
  if !s.inCounts p addr n then []
  else
    let b := (s.fctArea p).1
    let lo := (max addr b - b) / 4
    let hi := (min (addr + n) (b + (s.fctArea p).2) - 1 - b) / 4
    (List.range (hi + 1 - lo)).map (lo + ·)

/-- A count by its index in the table, as a signed number, and its unit. -/
def State.countAt (s : State) (p i : Nat) : Int × Nat :=
  match s.translate p none .read ((s.fctArea p).1 + 4 * i) with
  | .ok pl => (signed 32 (leNat (s.memBytes pl.unit pl.off 4)), pl.unit)
  | _ => (0, 0)

/-- The frame that a count belongs to, as an ERROR record names it: bit 63 for a scale frame (Table 16-12). -/
def frameName (n i : Nat) : Nat := if i < n then i else (i - n) + 2 ^ 63

/-- FRAMES of a pitch (R233). -/
def State.frames (s : State) (p : Nat) : Nat := s.pfld p offFctFrames 26 0

/-! ### Serving -/

/-- Bytes that a request covers. -/
def MemReq.size (r : MemReq) : Nat :=
  match r.kind with
  | .load _ => 8
  | .loadT _ => 64
  | .store bs => bs.length
  | .atom op _ _ _ => op.size
  | .hostWrite bs _ => bs.length

/-- A request by its number. -/
def State.req? (s : State) (id : Nat) : Option MemReq := s.mem.reqs.find? (fun r => r.id == id)

/-- The state without a request. -/
def State.dropReq (s : State) (id : Nat) : State :=
  { s with mem := { s.mem with reqs := s.mem.reqs.filter (fun r => r.id != id) } }

/-- The state with a request changed. -/
def State.modReq (s : State) (id : Nat) (f : MemReq → MemReq) : State :=
  { s with mem := { s.mem with reqs := s.mem.reqs.map (fun r => if r.id = id then f r else r) } }

/-- Whether one request may not be served before another: their client is one (R135), or they travel in one lane from one station to one
controller (R305, R148). -/
def MemReq.ordered (q r : MemReq) : Bool :=
  q.client == r.client || (q.client.station == r.client.station && q.kind.lane == r.kind.lane && q.place.unit == r.place.unit)

/-- Whether an earlier request to some of the same bytes, which goes first, has still to be served. -/
def State.reqBlocked (s : State) (r : MemReq) : Bool :=
  s.mem.reqs.any (fun q => decide (q.id < r.id) && q.ordered r && q.served.isNone && q.pitch == r.pitch
    && meets q.addr.toNat q.size r.addr.toNat r.size)

/-- The context of a write, as a fault record names it. -/
def State.whoOf (s : State) (c : MemClient) : Option FaultInfo :=
  match c with
  | .ctx st _ l => (s.launch? l).map (fun x => s.ctxFaultInfo x (some st) .ok 0x02 0 0 0)
  | .host _ => none

/-- A store performed (R266): it completes. -/
def State.serveStore (s : State) (r : MemReq) (bs : List Byte) (poison : Bool) : State :=
  (s.writePlace r.pitch r.addr.toNat r.place (s.whoOf r.client) bs poison).dropReq r.id

/-- A host's write through BAR4 performed; a primary's is applied to the secondary as well (R481). -/
def State.serveHost (s : State) (r : MemReq) (bs : List Byte) (poison : Bool) : State :=
  ((s.pairCopy (.bar r.place.unit r.place.off bs poison)).writePlace r.pitch r.addr.toNat r.place none bs poison).dropReq r.id

/-- The writes of a function through BAR4 that have been accepted are performed, in the order of their arrival (R537). -/
def State.settleHost (s : State) (fn : Nat) : State :=
  s.mem.reqs.foldl (fun s r => match r.client, r.kind with
    | .host f, .hostWrite bs po => if f = fn then s.serveHost r bs po else s
    | _, _ => s) s

/-- The line of an atomic enters the atomic buffer of its controller, whose 256 lines give way oldest first (R279). -/
def State.bufferLine (s : State) (unit off : Nat) : State :=
  let k := memKey unit off / 64
  let others := s.mem.atomicBuf.filter (fun x => x != k)
  let mine := others.filter (fun x => x / 2 ^ 29 == unit)
  let kept := if 256 ≤ mine.length then (match mine with
    | x :: _ => others.filter (fun y => y != x)
    | [] => others) else others
  { s with mem := { s.mem with atomicBuf := kept ++ [k] } }

/-- The device addresses from an atomic's address that its counts are judged at, before and after it. -/
def State.countsAround (s s' : State) (p : Nat) (is : List Nat) : List (Nat × Int × Int × Nat) :=
  is.map (fun i => (i, (s.countAt p i).1, (s'.countAt p i).1, (s.countAt p i).2))

/-- The reclaim records of the counts that went to zero (R234, R236). -/
def State.reclaims (s : State) (p : Nat) (cs : List (Nat × Int × Int × Nat)) : State :=
  cs.foldl (fun s c =>
    if c.2.1 ≠ 0 ∧ c.2.2.1 = 0 then
      s.reclaim p c.2.2.2 (if c.1 < s.frames p then 0 else 1) (if c.1 < s.frames p then c.1 else c.1 - s.frames p)
    else s) s

/-- An atomic performed at its controller (R278). A poisoned line or a count that would fall below zero ends its launch and
writes nothing (R234, R285). -/
def State.serveAtomic (s : State) (r : MemReq) (op : AtomOp) (x y : W64) : State :=
  match r.client with
  | .host _ => s.dropReq r.id
  | .ctx st c l =>
    if s.linePoison r.place.unit r.place.off then
      (s.dropReq r.id).poisonFault l (srcCtx st c) (some st) 0x02 c 0 0 r.addr.toNat
    else
      let old := s.memBytes r.place.unit r.place.off op.size
      let res := op.apply (leNat old) x y
      let wr := leBytes 8 (r.addr.toNat + r.pitch * 2 ^ 48) ++ leBytes 2 r.op ++ List.replicate 6 0 ++ leBytes 8 x.toNat ++ leBytes 8 y.toNat
        ++ List.replicate 48 0
      let s1 := (((s.keepImage l r.addr.toNat op.size r.place).digest l wr).writePlace r.pitch r.addr.toNat r.place none (leBytes op.size res.1) false).bufferLine r.place.unit
        r.place.off
      let cs := s.countsAround s1 r.pitch (s.countsIn r.pitch r.addr.toNat op.size)
      let answer := fun (s : State) sat => s.modReq r.id (fun q => { q with served := some ⟨old, false, sat⟩ })
      match cs.find? (fun c => decide (c.2.2.1 < 0)) with
      | some bad =>
        let s2 := (answer s false).postError r.pitch (srcMc bad.2.2.2) .badDescriptor 4 (frameName (s.frames r.pitch) bad.1)
        s2.contextFault l (srcCtx st c) (some st) .badDescriptor 0x02 c (r.pc.toNat % 2 ^ 32 + r.op * 2 ^ 32) r.addr.toNat
      | none => (answer s1 res.2).reclaims r.pitch cs

/-- The stores and atomics that a launch has sent take effect, in order, before it completes (R338, R354). -/
def State.settleLaunch (s : State) (l : Nat) : State :=
  s.mem.reqs.foldl (fun s r =>
    match r.client, r.served, r.kind with
    | .ctx _ _ l', none, .store bs => if l' = l then s.serveStore r bs false else s
    | .ctx _ _ l', none, .atom op _ x y => if l' = l then s.serveAtomic r op x y else s
    | _, _, _ => s) s

/-- Writes and atomics that a controller has accepted for a pitch take effect, in order (R382 steps 4 and 6). -/
def State.settle (s : State) (p : Nat) : State :=
  s.mem.reqs.foldl (fun s r =>
    if r.pitch ≠ p ∨ r.served.isSome then s
    else match r.kind with
      | .store bs => s.serveStore r bs false
      | .atom op _ x y => s.serveAtomic r op x y
      | .hostWrite bs po => s.serveHost r bs po
      | _ => s) s

end Sys2Proof.Machine
end

