-- ==== Sys2Proof/Machine/LinkOps.lean ====
section
/-! DEFINITION. Routing, control messages, refusals, and the ends of collectives (spec 17 R415, R420 to R425, R437, R439, R440). -/

namespace Sys2Proof.Machine

/-! ### Routing (R422 to R425) -/

/-- The dimension of a port. -/
def portDim (p : Nat) : Nat := p / 2

/-- Whether a port's links are the dateline of their ring. -/
def State.dateline (s : State) (port : Nat) : Bool := s.fld 0 (offPort port) 1 1 == 1

/-- The VC of a hop (R423). -/
def State.outVc (s : State) (vcIn : Nat) (inPort : Option Nat) (outPort : Nat) : Nat :=
  let vc := (match inPort with
    | none => 0
    | some p => if portDim p ≠ portDim outPort then 0 else vcIn)
  if s.dateline outPort then 1 else vc

/-- The link a flow takes among the routed links of its port: a fixed hash of SRC, DST and MBOX (R424). -/
def pickLink (links : List Nat) (src dst mbox : Nat) : Option Nat := links[Config.linkHash src dst mbox % links.length]?

/-- Whether a link holds no flit that is waiting or unacknowledged. -/
def Link.empty (l : Link) : Bool := l.waiting.isEmpty && l.kept.isEmpty

/-- Whether a message may be routed, and on which port; none is refused with PEER_UNREACHABLE (R420, R425). A package whose ports are held
sends on port 7 alone (R479); one that has stood down forwards through its I/O dies (R487). -/
def State.routeBy (s : State) (inPort : Option Nat) (e : Nat) : Option Nat :=
  let port := if s.pair.portsHeld then 7 else e % 8
  if !bit e 3 then none
  else if (s.routedLinks port).isEmpty then none
  else if s.dieDown && s.pair.state != .stoodDown && (match inPort with
      | some p => decide (p / 4 ≠ port / 4)
      | none => false) then none
  else some port

/-- The same by the present entry of the routing table. -/
def State.routePort (s : State) (inPort : Option Nat) (dst : Nat) : Option Nat := s.routeBy inPort (s.raw 0 (offRtbl dst))

/-- The state with a message sent on by a routing entry: delivered within the chip, queued on a link, or held while its flow changes links
(R422, R424). The caller has checked that a route exists. -/
def State.forwardBy (s : State) (e : Nat) (inPort : Option Nat) (vcIn : Nat) (bs : List Byte) : State :=
  let dst := fieldAt bs 0 2 % 4096
  if dst = s.chipId then
    s.modNet (fun n => { n with arrived := n.arrived ++ [⟨n.nextMsg, none, vcIn, 0, bs, false, 0⟩], nextMsg := n.nextMsg + 1 })
  else match s.routeBy inPort e with
    | none => s
    | some port =>
      let src := fieldAt bs 4 2 % 4096
      let mbox := fieldAt bs 3 1
      match pickLink (s.routedLinks port) src dst mbox with
      | none => s
      | some i =>
        let key := src * 2 ^ 20 + dst * 2 ^ 8 + mbox
        let vc := s.outVc vcIn inPort port
        match Tab.find s.net.flows key with
        | some old =>
          if old ≠ i ∧ (s.link old).empty = false then
            s.modNet (fun n => { n with held := n.held ++ [(old, i, vc, bs)] })
          else (s.modNet (fun n => { n with flows := Tab.put n.flows key i })).queueOn i vc (fieldAt bs 36 4) bs
        | none => (s.modNet (fun n => { n with flows := Tab.put n.flows key i })).queueOn i vc (fieldAt bs 36 4) bs

/-- The same by the present entry for its destination. -/
def State.forward (s : State) (inPort : Option Nat) (vcIn : Nat) (bs : List Byte) : State :=
  s.forwardBy (s.raw 0 (offRtbl (fieldAt bs 0 2 % 4096))) inPort vcIn bs

/-- The state after the messages that waited for a link to empty have been sent (R424). -/
def State.releaseHeld (s : State) (old : Nat) : State :=
  if (s.link old).empty then
    let ready := s.net.held.filter (fun h => h.1 == old)
    let s1 := s.modNet (fun n => { n with held := n.held.filter (fun h => h.1 != old) })
    ready.foldl (fun s h =>
      let bs := h.2.2.2
      let key := (fieldAt bs 4 2 % 4096) * 2 ^ 20 + (fieldAt bs 0 2 % 4096) * 2 ^ 8 + fieldAt bs 3 1
      (s.modNet (fun n => { n with flows := Tab.put n.flows key h.2.1 })).queueOn h.2.1 h.2.2.1 (fieldAt bs 36 4) bs) s1
  else s

/-! ### Messages of the link engine -/

/-- The state with a message of the engine sent toward its destination; without a route it goes nowhere. -/
def State.engineSend (s : State) (h : Head) (data : List Byte) : State :=
  let s1 := s.afterNow.afterAny.modNet (fun n => { n with nextMsg := n.nextMsg + 1 })
  let bs := s.header { h with len := data.length } ++ data
  if h.dst = s.chipId || (s.routePort none h.dst).isSome then s1.forward none 0 bs else s1

/-- A control message, which travels one link in VC 2 (R415). -/
def State.control (s : State) (i mtype : Nat) (arg : Nat) (data : List Byte) : State :=
  let h := { s.engineHead 0 0 0 0xFF mtype arg with len := data.length }
  let s1 := s.afterNow.afterAny.modNet (fun n => { n with nextMsg := n.nextMsg + 1 })
  s1.queueOn i 2 h.msgid (s.header h ++ data)

/-- A refusal of a message (R420): REFUSE with its MSGID and a status, back to its source. -/
def State.refuseMsg (s : State) (m : Msg) (st : Status) : State :=
  s.engineSend (s.engineHead m.srcChip m.spitch m.mbox m.dpitch mtRefuse (m.msgid + st.code * 2 ^ 32)) []

/-- The links on which a chip-wide notice goes: those in ROUTED or QUARANTINED but one (R437). -/
def State.liveLinks (s : State) (but : Option Nat) : List Nat :=
  (List.range 32).filter (fun i =>
    ((s.link i).state == .routed || (s.link i).state == .quarantined) && some i != but)

/-- PEER_EPOCH on every such link (R437). -/
def State.sendEpoch (s : State) (chip epoch : Nat) (fresh : Bool) (but : Option Nat) : State :=
  (s.liveLinks but).foldl (fun s i => s.control i mtPeerEpoch (chip + epoch * 2 ^ 16 + b2n fresh * 2 ^ 32) []) s

/-! ### Collectives (R430 to R440) -/

/-- Fields of a schedule header (Table 17-14). -/
def Coll.job (c : Coll) : Nat := fieldAt c.header 4 2
def Coll.id (c : Coll) : Nat := fieldAt c.header 6 2
def Coll.kind (c : Coll) : Nat := fieldAt c.header 8 1
def Coll.ndim (c : Coll) : Nat := fieldAt c.header 9 1
def Coll.size (c : Coll) (d : Nat) : Nat := fieldAt c.header (10 + 2 * d) 2
def Coll.rank (c : Coll) : Nat := fieldAt c.header 16 2
def Coll.chunk (c : Coll) : Nat := fieldAt c.header 20 4
def Coll.bytes (c : Coll) : Nat := fieldAt c.header 24 4

/-- The place value of ring d's coordinate in a rank. -/
def Coll.radix (c : Coll) (d : Nat) : Nat := ((List.range d).map c.size).foldl (· * ·) 1
/-- This member's coordinate in ring d. -/
def Coll.coord (c : Coll) (d : Nat) : Nat := (c.rank / c.radix d) % max 1 (c.size d)
/-- The rank of the member whose coordinate in ring d differs by `by`. -/
def Coll.neighbour (c : Coll) (d by' : Nat) : Nat :=
  c.rank - c.coord d * c.radix d + ((c.coord d + by') % max 1 (c.size d)) * c.radix d
/-- Successor and predecessor in ring d. -/
def Coll.succ (c : Coll) (d : Nat) : Nat := c.neighbour d 1
def Coll.pred (c : Coll) (d : Nat) : Nat := c.neighbour d (c.size d - 1)

/-- A member entry: chip, pitch, mailbox. -/
def Coll.member (c : Coll) (r : Nat) : Nat × Nat × Nat :=
  let m := c.members[r]?.getD []
  (fieldAt m 0 2 % 4096, fieldAt m 2 1, fieldAt m 3 1)

/-- The neighbours of a collective in every ring: successor and predecessor, each once a ring. -/
def Coll.neighbours (c : Coll) : List (Nat × Nat) :=
  (List.range (max 1 c.ndim)).flatMap (fun d => [(d, c.succ d), (d, c.pred d)])

/-- A message of the engine to each neighbour of a collective; a secondary sends nothing outside the module (R489). -/
def State.tellNeighbours (s : State) (c : Coll) (mtype arg : Nat) (data : List Byte) : State :=
  if s.shadow then s
  else c.neighbours.foldl (fun s n =>
    let m := c.member n.2
    s.engineSend { s.engineHead m.1 m.2.1 (m.2.2 + n.1) c.pitch mtype arg with job := c.job, coll := c.id } data) s

/-- Every transfer outstanding on the Porter channels: stall, channel and the transfer. -/
def State.allXfers (s : State) : List (Nat × Nat × Xfer) :=
  (List.range 48).flatMap (fun st => (List.range 8).flatMap (fun ch => (s.chanOf st ch).xfers.map (fun x => (st, ch, x))))

/-- The pitch of a launch. -/
def State.pitchOfLaunch (s : State) (l : Nat) : Nat := ((s.launch? l).map (·.pitch)).getD 0

/-- A bit range of a transfer's options (Table 7-2). -/
def Xfer.opt (x : Xfer) (hi lo : Nat) : Nat := bits x.opts.toNat hi lo

/-- The Porter-completion record of a transfer with LOG (R574, Table 16-11); without it the source stamps the time alone. -/
def State.portRec (s : State) (st ch : Nat) (x : Xfer) (status : Status) (bytes : Nat) : State :=
  match s.launch? x.launch with
  | none => s.afterStamp (srcChan st ch)
  | some l =>
    if x.opt 5 5 = 1 ∧ s.dbkTakes l.pitch .porter then
      s.postDbk [l.pitch] .porter (srcChan st ch) 0x04
        (leBytes 1 x.kind.op ++ leBytes 1 x.ctx ++ leBytes 2 status.code ++ leBytes 2 l.sq ++ leBytes 2 0 ++ leBytes 8 bytes)
    else s.afterStamp (srcChan st ch)

/-- The record that a transfer with LOG writes where it fails: the status, and the bytes that it had written (R574). -/
def State.failRec (s : State) (st ch : Nat) (x : Xfer) (status : Status) : State :=
  if x.opt 5 5 = 1 then s.portRec st ch x status x.wrote else s

/-- A transfer that fails: its record with LOG, and a context fault of its launch, found by its channel, with its instruction's syndrome
(R191, R574, Table 18-4). -/
def State.xferFault (s : State) (st ch : Nat) (x : Xfer) (status : Status) (addr : Nat) : State :=
  (s.failRec st ch x status).contextFault x.launch (srcChan st ch) (some st) status 0x05 ch (x.pc.toNat % 2 ^ 32 + x.kind.op * 2 ^ 32) addr

/-- A suspension of hang counting ends with the last open collective of its job at the chip (R442). -/
def State.pruneSlows (s : State) : State :=
  s.modNet (fun n => { n with slows := n.slows.filter (fun w => n.colls.any (fun c => c.job == w.job)) })

/-- Whether a transfer is an outstanding PSEND or PPOST of a collective: one of its steps, or one that waits in its channel and names its
record. -/
def State.ofColl (s : State) (c : Coll) (x : Xfer) : Bool :=
  x.coll == some c.serial
    || (x.opts.getLsbD 15 && !x.begun && s.pitchOfLaunch x.launch == c.pitch && bits x.gval.toNat 47 6 * 64 == c.addr)

/-- A collective ends at this member with a status: its outstanding PSENDs and PPOSTs complete with it, which ends their
launches, and its neighbours get COLL_END (R439). -/
def State.endColl (s : State) (k : Nat) (st : Status) : State :=
  match s.net.colls.find? (fun c => c.serial == k) with
  | none => s
  | some c =>
    let s1 := (s.modNet (fun n => { n with colls := n.colls.filter (fun x => x.serial != k) })).pruneSlows
    let s2 := (s1.allXfers.filter (fun y => s1.ofColl c y.2.2)).foldl (fun s y => s.xferFault y.1 y.2.1 y.2.2 st 0) s1
    s2.tellNeighbours c mtCollEnd st.code []

/-- The state after the collectives that a test names have ended. -/
def State.endColls (s : State) (f : Coll → Bool) (st : Status) : State :=
  (s.net.colls.filter f).foldl (fun s c => s.endColl c.serial st) s

/-- The in-force inbound mailboxes of a pitch. -/
def State.activeInboxes (s : State) (p : Nat) : List Nat :=
  (List.range 256).filter (fun m => s.pfld p (offIbox m) 1 1 == 1)

/-- A CREDIT for an inbound mailbox to its bound sender (R417, R440); a secondary sends none (R489). -/
def State.sendCredit (s : State) (p m size : Nat) (reset : Bool) : State :=
  let chip := s.pfld p (offIbox m) 19 8
  let sp := s.pfld p (offIbox m) 28 24
  if s.shadow then s else s.engineSend (s.engineHead chip sp m p mtCredit (size % 2 ^ 24 + m * 2 ^ 24 + b2n reset * 2 ^ 32)) []

/-- Step 4 of a pitch reset on the links (R382, R440): collectives end with PEER_RESET, posted buffers are withdrawn, and every
bound sender is told to empty its FIFO. -/
def State.dropPitchNet (s : State) (p : Nat) : State :=
  let s1 := s.endColls (fun c => c.pitch == p) .peerReset
  let s2 := s1.modNet (fun n => { n with posted := Tab.clearRange n.posted (p * 256) (p * 256 + 256),
                                         sent := n.sent.filter (fun x => x.pitch != p) })
  (s2.activeInboxes p).foldl (fun s m => s.sendCredit p m 0 true) s2

end Sys2Proof.Machine
end

