-- ==== Sys2Proof/Machine/Stacks.lean ====
section
/-! DEFINITION. Stacks and memory lines as their controllers report them: the pitches a stack concerns, THERMAL_SLOW, and the
region that a line belongs to (spec 11 R282, R288, R295; 17 R441). -/

namespace Sys2Proof.Machine

/-- A stack by number, and the state with it changed. -/
def State.stack (s : State) (k : Nat) : Stack := s.mem.hbms[k]?.getD Stack.reset
def State.modStack (s : State) (k : Nat) (f : Stack → Stack) : State :=
  { s with mem := { s.mem with hbms := s.mem.hbms.setIfInBounds k (f (s.stack k)) } }

/-- Whether an enabled region has a unit, primary or replica, in a stack. -/
def State.regionInStack (s : State) (n k : Nat) : Bool :=
  (s.region n).state != .off
    && ((s.csUnits n false).any (fun u => u / 2 == k)
        || (s.fld 0 (offCsCtl n) 2 2 == 1 && (s.csUnits n true).any (fun u => u / 2 == k)))

/-- A THERMAL record: a stack's step before and after, and its temperature as a signed number (R295, Table 16-11). -/
def thermalPayload (k was now : Nat) (temp : BitVec 12) : List Byte :=
  leBytes 1 k ++ leBytes 1 was ++ leBytes 1 now ++ leBytes 1 0 ++ leBytes 2 (temp.signExtend 16).toNat

/-- The pitches that a stack concerns: those that own a unit of it, or may map a region placed in it (R295). -/
def State.stackPitches (s : State) (k : Nat) : List Nat :=
  (List.range 24).filter (fun p => (s.pitch p).state != .off
    && ((s.unitsOf p).any (fun u => u / 2 == k)
        || (List.range 16).any (fun n => s.regionInStack n k && bit (s.raw 0 (offCsPitch n)) p)))

/-- The THERMAL records of a change of step: the installer's and those of the pitches that the stack concerns (R295). -/
def State.thermalRec (s : State) (k was now : Nat) (temp : BitVec 12) : State :=
  s.postDbk (s.stackPitches k ++ [24]) .always (srcMc (2 * k)) 0x15 (thermalPayload k was now temp)

/-- THERMAL_SLOW on a collective for a stack of this chip (R441, Table 17-16): the first 8 bytes of its payload in ARG and TIME in
its data. -/
def State.slowColl (s : State) (c : Coll) (k factor : Nat) (time : W64) : State :=
  s.tellNeighbours c mtSlow (c.job + s.chipId * 2 ^ 16 + k * 2 ^ 32 + factor * 2 ^ 40 + c.id * 2 ^ 48) (leBytes 8 time.toNat)

/-- THERMAL_SLOW on every open collective of the pitches that a stack concerns (R441). -/
def State.slowAll (s : State) (k factor : Nat) (time : W64) : State :=
  let ps := s.stackPitches k
  (s.net.colls.filter (fun c => ps.contains c.pitch)).foldl (fun s c => s.slowColl c k factor time) s

/-- THERMAL_SLOW with the first message of a collective opened while a stack of its pitch is HOT (R441). -/
def State.slowOpened (s : State) (c : Coll) : State :=
  ((List.range 12).filter (fun k => (s.stack k).step == 2 && (s.stackPitches k).contains c.pitch)).foldl
    (fun s k => s.slowColl c k 128 (s.stack k).since) s

/-- The pitch whose ring takes the faults of a line: the owner of its unit, for a line of private space. -/
def State.linePitch (s : State) (u o : Nat) : Option Nat := if o < s.reserveStart u then s.ownerOf u else none

/-- The enabled region that holds a unit offset: the region, whether the offset lies in its replica, and the offset in the
region's space (R288). -/
def State.regionAt (s : State) (u o : Nat) : Option (Nat × Bool × Nat) :=
  ((List.range 16).flatMap (fun n => [(n, false), (n, true)])).findSome? (fun x =>
    let us := s.csUnits x.1 x.2
    let k := us.idxOf u
    let start := if x.2 then s.fld 0 (offCsCtl x.1) 61 48 else s.fld 0 (offCsCtl x.1) 29 16
    let base := s.reserveStart u + start * 2 ^ 21
    let len := s.fld 0 (offCsCtl x.1) 45 32 * 2 ^ 21
    if (s.region x.1).state = .off || (x.2 && s.fld 0 (offCsCtl x.1) 2 2 != 1) || us.length ≤ k || o < base || base + len ≤ o
    then none
    else some (x.1, x.2, ((o - base) / 4096 * us.length + k) * 4096 + (o - base) % 4096))

/-- The ranges of lines that hold a region and its replica: first line and number of lines (R288). -/
def State.csRanges (s : State) (n : Nat) : List (Nat × Nat) :=
  let len := s.fld 0 (offCsCtl n) 45 32 * 2 ^ 21 / 64
  let part := fun (replica : Bool) =>
    let start := if replica then s.fld 0 (offCsCtl n) 61 48 else s.fld 0 (offCsCtl n) 29 16
    (s.csUnits n replica).map (fun u => (memKey u (s.reserveStart u + start * 2 ^ 21) / 64, len))
  if (s.region n).state = .off then [] else part false ++ (if s.fld 0 (offCsCtl n) 2 2 = 1 then part true else [])

/-- DIRTY of a region: a line of it or its replica is poisoned, or a primary line is served from the replica (R289, R291). -/
def State.csDirty (s : State) (n : Nat) : Bool :=
  let inRegion := fun (key : Nat) => (match s.regionAt (key / 2 ^ 29) (key % 2 ^ 29 * 64) with
    | some (m, _, _) => m == n
    | none => false)
  (s.csRanges n).any (fun r => s.mem.poisonIn r.1 r.2) || s.mem.badLines.any inRegion
    || (List.range 12).any (fun k => (s.stack k).off && s.regionInStack n k)

end Sys2Proof.Machine
end

