-- ==== Sys2Proof/Machine/Faults.lean ====
section
/-! DEFINITION. Power states of stalls, map-outs, pitch resets step by step, chip resets up to their compute-die reset, and
pitch and chip fatal faults (spec 15 R381 to R388; 18 R444 to R476; 20 R497 to R499; 10 R256; 14 R350). -/

namespace Sys2Proof.Machine

/-! ### Stall power (R497 to R499) -/

/-- Whether a launch holds a stall. -/
def State.stallHeld (s : State) (st : Nat) : Bool :=
  s.fe.launches.any (fun e => e.2.occupies && (e.2.splitsOn st).isSome)

/-- The state with a stall's bays zeroed whole (R167). -/
def State.zeroBays (s : State) (st : Nat) : State :=
  { s with bays := Tab.clearRange s.bays (st * 2 ^ 22) ((st + 1) * 2 ^ 22),
           rewrites := s.rewrites.filter (fun r => r.1 / 2 ^ 22 != st) }

/-- A stall's logic in its launch-start state; its tallies and operating point stay. -/
def Stall.logicReset (x : Stall) : Stall :=
  { x with ctx := Vector.replicate 4 Ctx.reset, config := 0, splits := Vector.replicate 4 Split.reset,
           chans := x.chans.map (fun c => { c with xfers := [], info := Vector.replicate 4 ChanInfo.zero, starving := false }),
           icache := [], entHeld := [], factors := [], factorsBy := none }

/-- The state after a stall enters a power state, with its POWER record (R497, R498). DARK loses the bays; NAP and DARK lose
the logic's state. DOZE takes the pitch's sleep policy (R501); a stall that leaves NAP or DARK starts at its present ceiling (R504). -/
def State.setPwr (s : State) (st : Nat) (tgt : PwrState) : State :=
  let x := s.stall st
  let frm := x.pwr
  if frm = tgt then s
  else
    let deep := fun (p : PwrState) => p == .nap || p == .dark
    let now := s.now
    let word := match s.pitchOfStall st with
      | some p => BitVec.ofNat 64 (s.raw (s.fnOf p) offPower)
      | none => x.policy
    let s1 := (if tgt = .doze then s.afterNow else s).modStall st (fun y =>
      let z := { y with pwr := tgt, wakes := if deep frm && tgt == .active then y.wakes + 1 else y.wakes,
                        fstep := if deep frm && tgt == .active then s.opPoint st else y.fstep,
                        idleFrom := if tgt = .doze then now else y.idleFrom, policy := if tgt = .doze then word else y.policy }
      if deep tgt then z.logicReset else z)
    let s2 := if tgt = .dark then s1.zeroBays st else s1
    match s.pitchOfStall st with
    | some p =>
      if deep frm || deep tgt then s2.postDbk [p] .power (srcStall st) 0x08 (leBytes 1 frm.code ++ leBytes 1 tgt.code) else s2
    | none => s2

/-- Work reaches a stall (R498): it is ACTIVE, and its bays have been initialised if it was DARK. -/
def State.wakeStall (s : State) (st : Nat) : State := s.setPwr st .active

/-- A packet reaches a stall's station, which is work for it (R498); a stall out of service stays DARK. -/
def State.rouse (s : State) (st : Nat) : State := if s.inService st then s.wakeStall st else s

/-! ### Map-outs (R472 to R476) -/

/-- Logical stalls in service, and device memory in GiB after the next chip reset (Tables 18-23 and 18-26). -/
def State.liveStalls (s : State) : Nat := ((List.range 48).filter s.inService).length
def State.unitCap (s : State) (u : Nat) : Nat :=
  s.chip.part.unitBytes / 2 ^ 30 - popcount (s.mem.pchOut[u]?.getD 0).toNat
def State.capGiB (s : State) : Nat := ((List.range 24).map s.unitCap).foldl (· + ·) 0

/-- A REPLACE_REQUESTED event (Table 18-23); REPLACE is set, REPLACE_REQ# driven and the amber lamp lit (R476). -/
def State.replaceEvent (s : State) (kind index status : Nat) : State :=
  let s1 := if s.health.replace then s
    else ({ s with health := { s.health with replace := true } }.emit (.pin "REPLACE_REQ#" false)).emit (.pin "AMBER" true)
  s1.postEvent [24] srcClerk 0x23
    (leBytes 1 kind ++ leBytes 1 0 ++ leBytes 2 index ++ leBytes 2 status ++ leBytes 2 0 ++ leBytes 4 s1.liveStalls
      ++ leBytes 4 s1.capGiB)

/-- Whether the FK2 runs degraded (R476), or a failover has not been mended (R493). -/
def State.degraded (s : State) : Bool :=
  !(List.range 48).all s.inService || (List.range 24).any (fun u => (s.mem.pchOut[u]?.getD 0) != 0)
    || (List.range 32).any (fun i => (s.link i).half) || (List.range 24).any s.unitOff || s.crst.held || s.health.failover

/-- The condition evaluated anew at a chip reset or a link training: REPLACE goes once nothing is degraded. -/
def State.reviewDegraded (s : State) : State :=
  if s.health.replace && !s.degraded then
    ({ s with health := { s.health with replace := false } }.emit (.pin "REPLACE_REQ#" true)).emit (.pin "AMBER" false)
  else s

/-- A package that stands down runs no work (R493): its launches stop, and no queue, fence or window is left to report them. -/
def State.standDown (s : State) : State :=
  let s1 := s.fe.launches.foldl (fun (s : State) (e : Nat × Launch) => s.abortLaunch e.1 .hwFault false) s
  { s1 with fe := { s1.fe with queues := [], fences := [], wins := [], slots := Vector.replicate 64 Slot.free } }

/-- The pair ends with the primary running on: what waited for the partner is done without it (Table 19-3, R486, R492), and the lost
package is reported (R493). -/
def State.pairBreak (s : State) : State :=
  if s.pair.state = .paired then
    let lead := s.pair.primary
    let s1 := ((s.modPair (fun p => { p with state := if lead then .single else .stoodDown })).pairForget).finishAwaiting
    if lead then { s1 with health := { s1.health with failover := true } }.replaceEvent 8 (1 - s1.chip.pkg) 0 else s1.standDown
  else s

/-- A stall is mapped out (R472, R473): recorded, reported, and powered off where no launch holds it. -/
def State.mapOutStall (s : State) (st status : Nat) : State :=
  let p := s.pstall st
  if 52 ≤ p || s.health.out.getLsbD p then s
  else
    let s1 := { s with health := { s.health with out := s.health.out ||| BitVec.ofNat 52 (2 ^ p) } }
    let s2 := (s1.replaceEvent 1 st status).pairBreak
    if s2.stallHeld st then s2 else s2.setPwr st .dark

/-- A stall that a launch has left: if it holds none it reloads STALL where that waits (Table 21-15), and goes DARK if it is mapped out
(Table 20-5). -/
def State.leaveStall (s : State) (st : Nat) : State :=
  if s.stallHeld st then s
  else
    let t := s.now
    let s1 := { s.afterNow with fw := { s.fw with stale := s.fw.stale &&& ~~~(BitVec.ofNat 48 (2 ^ st)) } }.modStall st (fun x =>
      { x with freeFrom := t })
    if s1.inService st then s1 else s1.setPwr st .dark

/-- Times of a list that lie within a span before now, with now added. -/
def addTime (l : List W64) (now span : Nat) : List W64 :=
  (l.filter (fun t => decide (now ≤ t.toNat + span))) ++ [BitVec.ofNat 64 now]

/-- One hour in nanoseconds. -/
def hour : Nat := 3600 * 10 ^ 9

/-- A CHECK_MISMATCH on a stall counts towards its map-out: two within an hour (Table 18-22). -/
def State.countMismatch (s : State) (st : Nat) : State :=
  let p := s.pstall st
  let l := addTime (Tab.get [] s.health.mismatch p) s.now.toNat hour
  let s1 := { s.afterNow with health := { s.health with mismatch := Tab.set [] s.health.mismatch p l } }
  if 2 ≤ l.length then s1.mapOutStall st Status.checkMismatch.code else s1

/-- A corrected error of a bay counts towards its stall's map-out: more than 1,000 in a bay within an hour. -/
def State.countBay (s : State) (st bay : Nat) : State :=
  let k := s.pstall st * 4 + bay
  let l := addTime (Tab.get [] s.health.bayErrs k) s.now.toNat hour
  let s1 := { s.afterNow with health := { s.health with bayErrs := Tab.set [] s.health.bayErrs k l } }
  if 1000 < l.length then s1.mapOutStall st 0 else s1

/-- MAPOUT, where a unit was mapped out between two states (Table 18-2). -/
def State.mapFlag (s t : State) : Nat := if s.health.out = t.health.out then 0 else 16

/-- The launches on a stall: those that hold a split of it and have not been swept from it. -/
def State.launchesOn (s : State) (st : Nat) : List Nat :=
  (s.fe.launches.filter (fun e => e.2.splits.any (fun y => y.1 == st) && (e.2.ended.isNone || e.2.sweeping.contains st))).map (·.1)

/-- A fault in logic that every split of a stall depends on (R94, R447): the stall is mapped out, and every launch on it ends with
HW_FAULT, each record with MAPOUT set (bit 4, Table 18-2). -/
def State.stallFault (s : State) (st ukind : Nat) : State :=
  let s1 := s.mapOutStall st Status.hwFault.code
  (s1.launchesOn st).foldl (fun s' l => s'.contextFaultF l (srcStall st) (some st) .hwFault ukind 0 0 0 16 0) s1

/-! ### Pitch resets (R381 to R388) -/

/-- The service SQs of a pitch. -/
def State.serviceSqs (s : State) (p : Nat) : List Nat :=
  (s.fe.queues.filter (fun e => !e.2.isCq && !e.2.admin && e.2.fn == s.fnOf p)).map (·.1)

/-- The queues of a function. -/
def State.fnQueues (s : State) (fn : Nat) : List Nat := (s.fe.queues.filter (fun e => e.2.fn == fn)).map (·.1)

/-- The payload of RESET_START and RESET_END (Table 16-11). -/
def resetPayload (cause : Nat) (scrub : Bool) (count : W32) : List Byte :=
  leBytes 1 cause ++ leBytes 1 (b2n scrub) ++ leBytes 2 0 ++ leBytes 4 count.toNat

/-- Step 3 for one descriptor: a launch ends with PITCH_RESET; a SIGNAL in progress finishes by itself; what has finished
stays (R382, R355). -/
def State.resetDesc (s : State) (p q : Nat) (d : Desc) : State :=
  let writing := s.fe.fences.any (fun e => match e.2.writing with
    | some w => w.1 == q && w.2.1 == d.hseq
    | none => false)
  if d.finished || writing then s
  else
    let report := fun (s : State) => s.modPitch p (fun x => { x with toReport := x.toReport ++ [(q, d.hseq)] })
    match d.launch with
    | some l =>
      (match s.launch? l with
       | some x => if x.ended.isSome then s else report (s.abortLaunch l .pitchReset false)
       | none => report s)
    | none => report s

/-- The state with a pitch's slots released (R382 step 2). -/
def State.freeSlots (s : State) (p : Nat) : State :=
  { s with fe := { s.fe with slots := s.fe.slots.map (fun x =>
      if x.queue.isSome && x.pitch = p then { x with queue := none } else x) } }

/-- Steps 1 to 4 and the start of step 5 of a pitch reset (R382). -/
def State.resetBegin (s : State) (p cause : Nat) (scrub : Bool) : State :=
  let fn := s.fnOf p
  let s1 := s.modPitch p (fun x => { x with state := .resetting, step := 5, scrub := scrub, cause := cause, zeroed := false,
                                            zeroing := false, masked := true, joined := x.joined, toReport := [],
                                            sweeping := s.stallsOf p })
  let s2 := (List.range (s.vectorsOf p)).foldl (fun s v => s.modMsi fn v (fun m => { m with count := 0, heldCause := false })) s1
  let s3 := s2.writePsb p
  let time := s3.stamp (srcPitch p)
  let seq := s3.seqOf (srcPitch p)
  let s4 := s3.postDbk [p, 24] .always (srcPitch p) 0x12 (resetPayload cause (scrub || cause == 7) ((s3.pitch p).count + 1))
  let s5 := (s.stallsOf p).foldl (fun s st => if s.inService st then s.wakeStall st else s) (s4.freeSlots p)
  let s6 := (s5.serviceSqs p).foldl (fun s q => match s.queue? q with
    | some x => x.descs.foldl (fun s d => s.resetDesc p q d) s
    | none => s) s5
  let s7 := { s6 with mem := { s6.mem with reqs := s6.mem.reqs.filter (fun r =>
    !(r.pitch == p && (match r.kind with
      | .load _ => true
      | .loadT _ => true
      | _ => false))) } }
  let s8 := s7.dropPitchNet p
  if s8.mayRetain p then
    s8.writeDump p time (srcPitch p) seq 0xFFFF 0 .pitchReset
      ((s8.stallsOf p).map (fun st => s8.dumpSection st 0 4 [0, 1, 2, 3] (List.replicate 4 (some (0, 3071)))))
  else s8

/-- Step 5 for one stall: every bay row, till, register and buffer is cleared, every token freed, and the stall returns to
split configuration 0 (R382). -/
def State.resetSweep (s : State) (p st : Nat) : State :=
  let s1 := s.zeroBays st
  let s2 := { s1 with tokens := s1.tokens.filter (fun t => !(t.rows.stall == st || t.stall == st)),
                      tokReqs := s1.tokReqs.filter (fun t => !(t.rows.stall == st || t.stall == st)) }
  let s3 := { s2 with mem := { s2.mem with entUse := s2.mem.entUse.filter (fun u => u.stall != st) } }.modStall st Stall.logicReset
  let s4 := { s3 with fe := { s3.fe with launches := s3.fe.launches.map (fun (e : Nat × Launch) =>
    (e.1, { e.2 with sweeping := e.2.sweeping.filter (· != st) })) } }
  s4.modPitch p (fun x => { x with sweeping := x.sweeping.filter (· != st) })

/-- Whether a unit holds an enabled common-stock region, primary or replica (R294). -/
def State.holdsRegion (s : State) (u : Nat) : Bool :=
  (List.range 16).any (fun n => (s.region n).state != .off
    && ((s.csUnits n false).contains u || (s.fld 0 (offCsCtl n) 2 2 == 1 && (s.csUnits n true).contains u)))

/-- The state with a unit in a power state. -/
def State.setUnitPwr (s : State) (u : Nat) (p : UnitPwr) : State :=
  { s with mem := { s.mem with pwr := s.mem.pwr.setIfInBounds u p } }

/-- The ENT slots of a pitch after a reset that keeps its memory (R256): counts are zero, READY slots stay, BUILDING and
RELEASED slots are FREE. -/
def State.resetTables (s : State) (p : Nat) : State :=
  if !s.tableActive p then s
  else (List.range 64).foldl (fun s i =>
    let a := (s.tableArea p).1 + 1024 * i
    match s.readDev p none (a + 3) 1 with
    | .ok [b] =>
      if b = 2 then s.writeDev p none .write none (a + 4) (List.replicate 4 0) false
      else if b = 1 || b = 3 then s.writeDev p none .write none a (List.replicate 1024 0) false
      else s
    | _ => s) s

/-- The device address of a fence word (R348). -/
def State.fenceWord (s : State) (p f : Nat) : Nat := (s.fenceArea p).1 + 8 * (f - s.fld 0 (offFrange p) 12 0)

/-- Whether and why a fence word cannot be written now (R349, R353): its area or page, or its line. -/
def State.fenceWordFails (s : State) (p f : Nat) : Option Status :=
  let a := s.fenceWord p f
  if !s.fenceActive p then some .accessDenied
  else match s.translate p none .write a with
    | .ok pl => if s.linePoison pl.unit pl.off then some .poisonConsumed else none
    | _ => some .accessDenied

/-- A fence word's write refused for a poisoned line is reported as any partial write to one is (R284, R353). -/
def State.fenceRefused (s : State) (p f : Nat) (st : Status) : State :=
  match st, s.translate p none .write (s.fenceWord p f) with
  | .poisonConsumed, .ok pl => s.poisonedWrite p pl.unit pl.off none
  | _, _ => s

/-- A SIGNAL's write to its fence word is visible: the entry takes the value, and the SIGNAL completes; a write that can no longer be made
ends it, and the entry keeps its value (R353). -/
def State.signalDone (s : State) (n : Nat) : State :=
  match Tab.find s.fe.fences n with
  | none => s
  | some f =>
    match f.writing, (s.queue? f.owner).bind (fun x => s.pitchOfFn x.fn) with
    | some (q, h, v), some p =>
      match s.fenceWordFails p n with
      | some st =>
        let s1 := s.fenceRefused p n st
        { s1 with fe := { s1.fe with fences := Tab.put s1.fe.fences n { f with writing := none } } }.finishDesc q h st 0 0 none
      | none =>
      let s1 := s.writeDev p none .write none (s.fenceWord p n) (leBytes 8 v.toNat) false
      let s2 := { s1 with fe := { s1.fe with fences := Tab.put s1.fe.fences n { f with value := v, writing := none } } }
      ((s2.postDbk [p] .fence (srcQueue q) 0x05 (leBytes 2 n ++ leBytes 2 0 ++ leBytes 4 h.toNat ++ leBytes 8 v.toNat)).finishDesc
        q h .ok 0 0 none)
    | _, _ => s

/-- Step 6 (R382), once every stall is swept: the controllers finish what they accepted and their units enter self-refresh,
but for those that hold an enabled region; then the zeroing of a scrub starts, or step 7. -/
def State.resetSettle (s : State) (p : Nat) : State :=
  let us := s.unitsOf p
  let lo := s.fld 0 (offFrange p) 12 0
  let mine := s.fe.fences.filter (fun e => e.2.writing.isSome && decide (lo ≤ e.1) && decide (e.1 < lo + s.fld 0 (offFrange p) 29 16))
  let s1 := mine.foldl (fun s e => s.signalDone e.1) (s.settle p)
  let s2 := { s1 with mem := { s1.mem with atomicBuf := s1.mem.atomicBuf.filter (fun k => !us.contains (k / 2 ^ 29)) } }
  let s3 := us.foldl (fun s u => if s.holdsRegion u then s else s.setUnitPwr u .selfRefresh) s2
  let s4 := s3.resetTables p
  let x := s4.pitch p
  if (x.scrub || x.enabling || x.cause = 7) && !x.zeroed then s4.modPitch p (fun x => { x with step := 6, zeroing := true })
  else s4.modPitch p (fun x => { x with step := 7 })

/-- A reset of a pitch asked for (Table 15-8): it starts, or joins the one that runs. -/
def State.resetRequest (s : State) (p cause : Nat) (scrub teardown : Bool) : State :=
  let s := s.pairCopy (.reset p cause scrub)
  match (s.pitch p).state with
  | .off => s
  | .resetting =>
    let x := s.pitch p
    let s1 := s.modPitch p (fun x => { x with teardown := x.teardown || teardown, scrub := x.scrub || (scrub && !x.zeroing) })
    if cause = 5 && decide (5 ≤ x.step) then
      s1.modPitch p (fun x => { x with step := 5, sweeping := s.stallsOf p, zeroing := false, zeroed := false })
    else s1
  | .failed => if cause = 5 then s else (s.modPitch p (fun x => { x with teardown := teardown })).resetBegin p cause scrub
  | .running => (s.modPitch p (fun x => { x with teardown := teardown })).resetBegin p cause scrub

/-- A pitch fatal fault (R446): its record carries HW_FAULT, and a warm reset with cause FATAL starts or joins. -/
def State.pitchFatal (s : State) (p src ukind uindex syndrome addr : Nat) : State :=
  (s.postFault src (FaultInfo.noCtx 3 .hwFault ukind uindex syndrome addr (some p) none)).resetRequest p 5 false false

/-! ### Chip resets (R463, R464) -/

/-- The pitches that are not OFF. -/
def State.livePitches (s : State) : List Nat := (List.range 24).filter (fun p => (s.pitch p).state != .off)

/-- Whether a stocktake is taken in this reset (R468, R471). -/
def State.stockOk (s : State) : Bool :=
  let size := s.fld 0 offGhDumpCfg 6 0
  s.fld 0 offGhDumpBase 0 0 == 1 && decide (1 ≤ size) && decide (size ≤ 64) && s.fld 0 offGhDumpCfg 8 8 == 0

/-- The front end with nothing: no queue, window, launch, fence or slot; pitches keep their state (R465), and their cycles are counted from 0
again (Table 14-8). -/
def FrontEnd.cleared (f : FrontEnd) : FrontEnd :=
  { FrontEnd.reset with pendMask := f.pendMask, pitches := f.pitches.map (fun (x : Pitch) => { x with cycleNo := 0 }), nextLaunch := f.nextLaunch }

/-- Steps 1 to 3 of a chip reset, and the stocktake's start (Table 18-16). -/
def State.chipBegin (s : State) (cause : Nat) (dump perst : Bool) (src : Nat) (seq : W32) : State :=
  let live := s.livePitches
  let count := s.crst.count + 1
  let crst : Crst :=
    { Crst.reset with step := 5, cause := cause, count := count, perst := perst, dump := dump, t0 := s.now, src := src,
                      seq := seq, epoch := s.net.epoch.toNat, live := live }
  let s1 := { s with crst := crst, net := { s.net with epoch := s.net.epoch + 1 } }
  let s2 := (s1.afterNow.auditChip cause).relock.postDbk (live ++ [24]) .always srcGate 0x12 (resetPayload 8 false count)
  let s3 := live.foldl (fun s p => (s.modPitch p (fun x => { x with state := .resetting, step := 0, masked := true })).writePsb p) s2
  let s4 := s3.sendEpoch s3.chipId s3.net.epoch.toNat s3.net.fresh none
  let s5 := live.foldl (fun s p => s.settle p) s4
  let off := (List.range 24).filter (fun u => s5.unitOff u)
  let held := s4.mem.atomicBuf ++ (s4.mem.reqs.filter (fun r => r.served.isNone && r.kind.lane == .tc1)).map (fun r => memKey r.place.unit r.place.off / 64)
  let s6 := { s5 with stalls := s5.stalls.map Stall.logicReset,
                      mem := { s5.mem with atomicBuf := [], reqs := [], entUse := [], pwr := Vector.replicate 24 .selfRefresh },
                      fe := s5.fe.cleared, tokens := [], tokReqs := [],
                      net := { s5.net with colls := [], posted := [], sent := [], grants := [], credits := [], slows := [] },
                      fw := { s5.fw with port := none, stale := 0 },
                      crst := { s5.crst with unconfirmed := off, touched := held } }
  let wants := dump || (cause = 2 && s6.fld 0 offGhDumpCfg 7 7 == 1)
  if !wants then s6
  else if s6.stockOk then
    { s6 with crst := { s6.crst with step := 4, stock := some ⟨0, Config.shadowUnits, 64, 0, 0, false⟩ } }
  else s6.setFld 0 offGhDumpCfg 47 32 (s6.fld 0 offGhDumpCfg 47 32 + 1)

/-- A cause of a chip reset (R463): it starts, or joins the one that runs. A chip fatal fault in steps 5 to 7 restarts it at
step 5 once; a second one leaves the compute die held (R464). -/
def State.chipReset (s : State) (cause : Nat) (dump perst : Bool) (src : Nat) (seq : W32) : State :=
  if s.crst.held then s
  else if s.crst.step = 0 then s.chipBegin cause dump perst src seq
  else
    let s1 := { s with crst := { s.crst with perst := s.crst.perst || perst, cause := cause } }
    if cause = 2 && decide (5 ≤ s.crst.step) then
      if s.crst.retried then
        { s1 with crst := { s1.crst with held := true } }.replaceEvent 7 0 Status.hwFault.code
      else { s1 with crst := { s1.crst with retried := true, step := 5 } }
    else s1

/-- A chip fatal fault during start-up restarts its steps 1 to 4 once; a second one leaves the compute die held (R571). -/
def State.startFault (s : State) : State :=
  if s.md.faults = 0 then { s with md := { s.md with faults := 1, verified := [], trained := false } }
  else if s.crst.held then s
  else { s with crst := { s.crst with held := true } }.replaceEvent 7 0 Status.hwFault.code

/-- A chip fatal fault (R444, R446): its record goes to every ring with NOCTX, and a chip reset starts. A primary's partner is
told (R487). -/
def State.chipFatal (s : State) (src ukind uindex syndrome : Nat) : State :=
  let seq := s.seqOf src
  let s1 := s.postFault src (FaultInfo.noCtx 4 .hwFault ukind uindex syndrome 0 none none)
  if !s.md.started then s1.startFault
  else
    let s2 := s1.chipReset 2 false false src seq
    if s1.pair.state = .paired then
      if s1.pair.primary then
        (s2.pairGo ⟨28, mtPairFail, BitVec.ofNat 64 (Status.hwFault.code + s2.net.epoch.toNat * 2 ^ 16), []⟩).modPair (fun p =>
          { p with state := .stoodDown, waiting := [], sent := [], heldOut := [], heldTold := 0, told := [], digests := [], awaiting := [] })
      else s2.pairBreak
    else s2

/-! ### What a refused or poisoned device access does -/

/-- ERROR record of a malformed translation entry, naming the page (R270). -/
def State.malformed (s : State) (p addr : Nat) : State :=
  s.postError 24 (srcPitch p) .accessDenied 3 (addr / 2 ^ 21)

/-- A poisoned translation table: a pitch fatal fault found by the front end's translator (Table 18-1). -/
def State.tablePoison (s : State) (p : Nat) : State := s.pitchFatal p srcFront 0x28 4 0 0

/-- An instruction's access to device memory that is refused (R125, R270): ACCESS_DENIED at the instruction. -/
def State.seqDenied (s : State) (st c op p addr : Nat) (malformed : Bool) : State :=
  let s1 := if malformed then s.malformed p addr else s
  s1.seqFault st c op .accessDenied addr

end Sys2Proof.Machine
end

