-- ==== Sys2Proof/Machine/BayOps.lean ====
section
/-! DEFINITION. Reads of bay words: correction, poison, what they report and what they count (spec 06 R164 to R166; 18 R452,
R472). -/

namespace Sys2Proof.Machine

/-- What a bay reports of a word: the fault record's contents (R165, R166). -/
def State.bayInfo (s : State) (key cls : Nat) : FaultInfo :=
  let st := key / 2 ^ 22
  let a := key % 2 ^ 22
  FaultInfo.noCtx cls .ok 0x04 (a / 2 ^ 20) (baySynField key (s.bayWord key)) a (s.pitchOfStall st) (some st)

/-- A corrected word: reported, counted, and put down for its rewrite (R165). -/
def State.bayCorrected (s : State) (key : Nat) (w : W32) : State :=
  let st := key / 2 ^ 22
  let s1 := s.postCorrected (key / 2 ^ 20) (srcStall st) (s.bayInfo key 0)
  let s2 := s1.countBay st ((key % 2 ^ 22) / 2 ^ 20)
  { s2 with rewrites := s2.rewrites ++ [(key, bayEncode w)] }

/-- An uncorrectable word: a deferred fault; a word that fails again after a write maps its stall out (R166, Table 18-22). -/
def State.bayUncorrectable (s : State) (key : Nat) : State :=
  let st := key / 2 ^ 22
  let s1 := s.postFault (srcStall st) (s.bayInfo key 1)
  let again := s1.health.bayMended.contains key
  let s2 := { s1 with health := { s1.health with bayBad := if s1.health.bayBad.contains key then s1.health.bayBad else key :: s1.health.bayBad,
                                                 bayMended := s1.health.bayMended.filter (· != key) } }
  if again then s2.mapOutStall st 0 else s2

/-- What a read of a list of bay words finds: the data in order and the first poisoned address, with the faults reported and
the rewrites asked for. -/
def State.bayReadList (s : State) (st : Nat) (addrs : List Nat) : State × List W32 × Option Nat :=
  addrs.foldl (fun r a =>
    let k := bayKey st a
    match bayDecode (r.1.bayWord k) with
    | .good w => (r.1, r.2.1 ++ [w], r.2.2)
    | .corrected w => (r.1.bayCorrected k w, r.2.1 ++ [w], r.2.2)
    | .poisoned => (r.1.bayUncorrectable k, r.2.1 ++ [0], match r.2.2 with
        | some x => some x
        | none => some a)) (s, [], none)

/-- A read of consecutive bay words. -/
def State.bayReadRange (s : State) (st addr n : Nat) : State × List W32 × Option Nat :=
  s.bayReadList st ((List.range n).map (addr + ·))

end Sys2Proof.Machine
end

