-- ==== Sys2Proof/Machine/Operands.lean ====
section
/-! DEFINITION. What every instruction of a stall program shares: its guard, its encoding checks, its wait for operands, its
retirement with the hardware loops, its address operands, and tensor descriptors (spec 05 R121, R125 to R133, R136). -/

namespace Sys2Proof.Machine

/-! ### Retirement (R136, R460) -/

/-- The loops and the next program counter when an instruction completes and flow runs on sequentially (R136): the innermost
loop counts where this was its last body instruction; a loop that ends gives way to the one around it. -/
def advLoops : List LoopRec → W64 → List LoopRec × W64
  | [], pc => ([], pc + 1)
  | l :: rest, pc =>
    if pc + 1 = l.start + BitVec.ofNat 64 l.len then
      if 1 < l.left.toNat then ({ l with left := l.left - 1 } :: rest, l.start) else advLoops rest pc
    else (l :: rest, pc + 1)

/-- A context past an instruction from which flow runs on sequentially. -/
def Ctx.advance (c : Ctx) : Ctx :=
  let r := advLoops c.loops c.pc
  { c with loops := r.1, pc := r.2, progress := c.progress + 1 }

/-- A context past an instruction that sends flow to a target. -/
def Ctx.jump (c : Ctx) (target : W64) : Ctx := { c with pc := target, progress := c.progress + 1 }

/-- The state with one more instruction counted in a stall's ISSUE tally and its context changed (Table 18-12). -/
def State.tally (s : State) (st c : Nat) (f : Ctx → Ctx) : State :=
  (s.modCtx st c f).modStall st (fun x => { x with issue := x.issue + 1 })

/-- The state after an instruction that changes its context by `f` and runs on sequentially. -/
def State.retire (s : State) (st c : Nat) (f : Ctx → Ctx) : State := s.tally st c (fun x => (f x).advance)

/-! ### Encoding checks (R133) -/

/-- A register field that the opcode does not use must be zero; one that it uses must name a register of its file. -/
def unused (v : Fin 32) : Bool := v == 0
def inFile (v : Fin 32) (n : Nat) : Bool := decide (v.val < n)

/-- Bits of X outside the mask must be zero. -/
def xOnly (x : BitVec 32) (mask : Nat) : Bool := x &&& ~~~(BitVec.ofNat 32 mask) == 0

/-- Whether a context waits for a register's outstanding write (R121). -/
def Ctx.waits (c : Ctx) (rs : List PendReg) : Bool := rs.any (fun r => c.pend.contains r)

/-- Whether a context is at an instruction it can take: an instance runs, nothing stops it, its launch goes on. -/
def State.atIssue (s : State) (st c : Nat) : Bool :=
  (s.ctxOf st c).live && (s.ctxOf st c).wait == .none &&
    (match s.launch? (s.ctxOf st c).launch with
     | some l => l.ended.isNone
     | none => false)

/-- Whether the program counter lies in the image (R131). -/
def State.inImage (s : State) (st c : Nat) : Bool :=
  match s.launch? (s.ctxOf st c).launch with
  | some l => decide ((s.ctxOf st c).pc.toNat < l.codeLen)
  | none => false

/-- The guard of an instruction (R133). -/
def State.guard (s : State) (st c : Nat) (gn : Bool) (gp : Nat) : Bool := ((s.ctxOf st c).getP gp) != gn

/-- The frame of every instruction: a context that cannot take it keeps its state; a program counter outside the image and
an encoding that breaks R133 end the launch with BAD_PROGRAM; a false guard makes it a NOP; an operand with an outstanding
write makes it wait (R121, R131, R133). DESIGN CHOICE: a destination register with an outstanding write makes it wait too, since R121 names
only the registers that it reads and gives no order for two writes (log 153). -/
def State.issue (s : State) (st c op : Nat) (gn : Bool) (gp : Nat) (enc : Bool) (regs : List PendReg) (body : State) : State :=
  if !s.atIssue st c then s
  else if !s.inImage st c then s.badProgram st c op
  else if !s.guard st c gn gp then s.retire st c id
  else if !enc then s.badProgram st c op
  else if (s.ctxOf st c).waits regs then s
  else body

/-- The registers an instruction waits for, as general registers by number; g0 never waits. -/
def gs (rs : List Nat) : List PendReg := (rs.filter (· != 0)).map PendReg.g
/-- … and tensor-descriptor registers. -/
def ts (rs : List Nat) : List PendReg := rs.map PendReg.t

/-! ### Addresses (R125, R126) -/

/-- A 32-bit immediate, sign-extended. -/
def sx (x : BitVec 32) : W64 := x.signExtend 64

/-- A bay address operand: none where the register has a bit beyond a bay address set or the address breaks R126 (Table 5-2). -/
def bayOperand (a : W64) (x : BitVec 32) : Option Nat :=
  let v := (a + sx x).toNat
  if a.toNat / 2 ^ 22 ≠ 0 || v / 2 ^ 22 ≠ 0 || 3071 < bits v 19 8 then none else some v

/-- A device address operand of an alignment: none where it breaks R125 or is misaligned (R150). -/
def devOperand (a : W64) (x : BitVec 32) (align : Nat) : Option Nat :=
  let v := (a + sx x).toNat
  if a.toNat / 2 ^ 48 ≠ 0 || v / 2 ^ 48 ≠ 0 || v % align ≠ 0 then none else some v

/-! ### Tensor descriptors (R127 to R129) -/

/-- A field of a tensor descriptor: `n` bytes at an offset (Table 5-3). -/
def tdf (t : BitVec 512) (off n : Nat) : Nat := (t.toNat / 2 ^ (8 * off)) % 2 ^ (8 * n)

/-- A tensor descriptor as its fields (Table 5-3). -/
structure TDesc where
  base : Nat
  loc : Nat
  stall : Nat
  fmt : Fmt
  ndim : Nat
  raxis : Nat
  tag : Half
  ceil : Int
  originK : Nat
  sbase : Nat
  ext : List Nat
  stride : List Nat
  deriving DecidableEq, Repr

/-- The fields of a descriptor, or none where it breaks R129 (the checks that do not depend on the instruction). `stalls` are
the stalls of the launch's pitch. DESIGN CHOICE: R40 and R115 align the bases of FB and WIDE tensors and name no status for one that
is not, so a base in device memory is taken as it stands (log 146, 151). -/
def TDesc.parse (stalls : List Nat) (t : BitVec 512) : Option TDesc :=
  let loc := tdf t 6 1
  let axes := tdf t 9 1
  let ndim := axes % 4 + 1
  let raxis := (axes / 4) % 4
  match Fmt.ofCode (tdf t 8 1) with
  | none => none
  | some fmt =>
    let ext := (List.range ndim).map (fun i => tdf t (32 + 4 * i) 4)
    let stride := 1 :: (List.range (ndim - 1)).map (fun i => tdf t (48 + 4 * i) 4)
    let d : TDesc := { base := tdf t 0 6, loc := loc, stall := tdf t 7 1, fmt := fmt, ndim := ndim, raxis := raxis,
                       tag := BitVec.ofNat 16 (tdf t 10 2), ceil := signed 16 (tdf t 12 2), originK := tdf t 16 4,
                       sbase := tdf t 24 6, ext := ext, stride := stride }
    let e0 := (ext[0]?).getD 1
    if 3 ≤ loc || (loc ≠ 2 && d.stall ≠ 0) || 16 ≤ axes then none
    else if tdf t 14 2 ≠ 0 || tdf t 20 4 ≠ 0 || tdf t 30 2 ≠ 0 || tdf t 60 4 ≠ 0 then none
    else if fmt.fam ≠ .fb && fmt.fam ≠ .wide && d.sbase ≠ 0 then none
    else if (List.range 4).any (fun i => tdf t (32 + 4 * i) 4 == 0) || ndim ≤ raxis then none
    else if fmt.fam = .fb && raxis ≠ 0 then none
    else if fmt.fam = .plain && 2 ≤ ndim && ((fmt.el.width = 4 && e0 % 2 ≠ 0) || (fmt.el.width = 6 && e0 % 4 ≠ 0)) then none
    else if loc = 2 && !stalls.contains d.stall then none
    else if loc ≠ 0 && (d.base / 2 ^ 22 ≠ 0 || 3071 < bits d.base 19 8) then none
    else if loc ≠ 0 && (fmt.fam = .fb || fmt.fam = .wide) && (d.sbase / 2 ^ 22 ≠ 0 || 3071 < bits d.sbase 19 8) then none
    else if loc ≠ 0 && fmt.fam = .wide && d.base % 4 ≠ 0 then none
    else some d

/-- A descriptor register of a context, parsed for the launch that runs there. -/
def State.tensor (s : State) (st c : Nat) (t : BitVec 512) : Option TDesc :=
  match s.launch? (s.ctxOf st c).launch with
  | some l => TDesc.parse (s.stallsOf l.pitch) t
  | none => none

/-- The number of elements of a tensor. -/
def TDesc.count (d : TDesc) : Nat := d.ext.foldl (· * ·) 1

/-- Extent of a dimension; unused dimensions hold 1. -/
def TDesc.extent (d : TDesc) (i : Nat) : Nat := (d.ext[i]?).getD 1

/-- The reduction length padded to whole blocks (R38). -/
def TDesc.kp (d : TDesc) : Nat := ceilDiv (d.extent d.raxis) 32 * 32

/-- Whether a tensor lies in stream order with its reduction axis padded (R38, R45). -/
def TDesc.padded (d : TDesc) : Bool := d.fmt.fam == .fb || d.fmt.fam == .mx

/-- The rows of the stream: one for each choice of the other dimensions' coordinates (R38). -/
def TDesc.lines (d : TDesc) : Nat := d.count / d.extent d.raxis

/-- The rows of a tensor: the product of the extents of dimensions 1 to 3. -/
def TDesc.rowCount (d : TDesc) : Nat := d.extent 1 * d.extent 2 * d.extent 3

/-- The stream elements of a tensor: FB and MX rows are padded to whole blocks (R38, R45). -/
def TDesc.streamLen (d : TDesc) : Nat := if d.padded then d.kp * d.lines else d.count

/-- The coordinates of the element with a stream index (R38): the reduction index runs fastest, then the other dimensions in
ascending number. -/
def TDesc.coords (d : TDesc) (i : Nat) : List Nat :=
  let order := d.raxis :: (List.range d.ndim).filter (· != d.raxis)
  let step := fun (r : Nat × List (Nat × Nat)) (dim : Nat) => (r.1 / d.extent dim, r.2 ++ [(dim, r.1 % d.extent dim)])
  let cs := (order.foldl step (i, [])).2
  (List.range 4).map (fun dim => ((cs.find? (fun p => p.1 == dim)).map (·.2)).getD 0)

/-- The stream index of an element by its coordinates (R38). -/
def TDesc.indexOf (d : TDesc) (cs : List Nat) : Nat :=
  let order := d.raxis :: (List.range d.ndim).filter (· != d.raxis)
  (order.foldl (fun (r : Nat × Nat) dim => (r.1 + r.2 * ((cs[dim]?).getD 0), r.2 * d.extent dim)) (0, 1)).1

/-- The row number of an element's coordinates over dimensions 1 to 3. -/
def TDesc.rowOf (d : TDesc) (cs : List Nat) : Nat :=
  (cs[1]?).getD 0 + d.extent 1 * ((cs[2]?).getD 0 + d.extent 2 * ((cs[3]?).getD 0))

/-- Where a dimension-0 row of a plain tensor starts, in the units of its strides from BASE (R127, R129). -/
def TDesc.rowStart (d : TDesc) (cs : List Nat) : Nat :=
  (List.range 3).foldl (fun a i => a + ((cs[i + 1]?).getD 0) * ((d.stride[i + 1]?).getD 0)) 0

/-- Bits of the element array of one dimension-0 row. -/
def TDesc.rowBits (d : TDesc) : Nat := d.extent 0 * (if d.fmt.fam = .wide then 128 else d.fmt.el.width)

/-! ### Rows that a bay tensor touches -/

/-- The rows from a bay address through a number of words. -/
def rowSpan (st addr words : Nat) : Rows :=
  { stall := st, bay := addr / 2 ^ 20, first := (addr % 2 ^ 20) / 256, last := ((addr % 2 ^ 20) + (words - 1)) / 256 }

/-- The word ranges (bay address, words) of a bay tensor: element rows of a plain tensor, or whole packed arrays with the
scales or anchors (R128, R115). -/
def TDesc.spans (d : TDesc) : List (Nat × Nat) :=
  match d.fmt.fam with
  | .plain =>
    (List.range d.rowCount).map (fun r =>
      (d.base + d.rowStart [0, r % d.extent 1, (r / d.extent 1) % d.extent 2, r / (d.extent 1 * d.extent 2)],
       ceilDiv d.rowBits 32))
  | .wide => [(d.base, 4 * d.count), (d.sbase, ceilDiv d.count 2)]
  | .fb =>
    let n := d.streamLen
    let bw := ceilDiv (n / 32) 4
    [(d.base, ceilDiv (n * d.fmt.el.width) 32), (d.sbase, bw),
     (((d.sbase + bw + 255) / 256) * 256, ceilDiv (ceilDiv n 512) 2)]
  | .mx =>
    let n := d.streamLen
    let w := ceilDiv (n * d.fmt.el.width) 32
    [(d.base, w), (ceilDiv (d.base + w) 16 * 16, ceilDiv (n / 32) 4)]

/-- The rows that a bay tensor touches. -/
def TDesc.rows (d : TDesc) (st : Nat) : List Rows :=
  d.spans.map (fun x => rowSpan (if d.loc = 2 then d.stall else st) x.1 x.2)

/-- The bay address that a word range of a bay tensor is laid out from: SBASE for the scales and anchors, BASE else. -/
def TDesc.homeOf (d : TDesc) (i : Nat) : Nat :=
  if i = 0 || (d.fmt.fam != .fb && d.fmt.fam != .wide) then d.base else d.sbase

/-- Whether a bay tensor keeps inside its bay: each of its ranges lies in the bay that its base names and passes no row beyond the
last (R126, R154). -/
def TDesc.fits (d : TDesc) : Bool :=
  (d.spans.zipIdx).all (fun x => x.1.1 / 2 ^ 20 == d.homeOf x.2 / 2 ^ 20 && decide (x.1.1 % 2 ^ 20 + x.1.2 ≤ 3072 * 256))

end Sys2Proof.Machine
end

