-- ==== Sys2Proof/Machine/Flags.lean ====
section
/-! DEFINITION. The conditions and flags of stall programs: comparisons, predicates and the sticky flags TILL_SAT and
NONFINITE (spec 00 R6, 02 R51, 04 R108, 05 Tables 5-7, 5-10). -/

namespace Sys2Proof.Machine

/-- `a` precedes `b` as sequence numbers (R6). -/
def precedes (a b : W32) : Bool := let d := (b - a).toNat; decide (1 ≤ d) && decide (d ≤ 2 ^ 31 - 1)

/-- The scalar conditions of CMP and CMPI; 7 is reserved (Table 5-7). -/
def scalarCond (code : Nat) (a b : W64) : Option Bool :=
  match code with
  | 0 => some (a == b)
  | 1 => some (a != b)
  | 2 => some (a.slt b)
  | 3 => some (!a.slt b)
  | 4 => some (a.ult b)
  | 5 => some (!a.ult b)
  | 6 => some (precedes (a.truncate 32) (b.truncate 32))
  | _ => none

/-- The predicate operations of PLOG (Table 5-7). -/
def predOp (code : Nat) (a b : Bool) : Bool :=
  match code with
  | 0 => a && b
  | 1 => a || b
  | 2 => a != b
  | _ => a && !b

/-- The state with the sticky flags of an instance and of its launch raised (R51, R108). -/
def State.raiseFlags (s : State) (st c : Nat) (sat nonfin : Bool) : State :=
  let l := (s.ctxOf st c).launch
  (s.modCtx st c (fun x => { x with tillSat := x.tillSat || sat, nonfinite := x.nonfinite || nonfin })).modLaunch l
    (fun x => { x with tillSat := x.tillSat || sat, nonfinite := x.nonfinite || nonfin })

/-- The word that FLAGS returns (Table 5-7). -/
def Ctx.flagWord (c : Ctx) : W64 := BitVec.ofNat 64 (b2n c.tillSat + 2 * b2n c.nonfinite)

end Sys2Proof.Machine
end

