-- ==== Sys2Proof/Machine/Access.lean ====
section
/-! DEFINITION. How instructions reach memory and bays: requests to the controllers, the areas a program may not touch, and
the cover that bay tokens give (spec 05 R125, R134, R135, R143 to R148; 11 R270; 10 R249, R253; 14 R348; 09 R234). -/

namespace Sys2Proof.Machine

/-! ### Device memory -/

/-- What an access does, for the areas that refuse it. -/
inductive Use where
  | read | write | atomic
  deriving DecidableEq, Repr

/-- Whether an access of a program to a range is refused by the area it lies in: packed regions refuse all three; the fence
area and the table area refuse writes and atomics; the frame counts refuse writes (R249, R348, R253, R234). -/
def State.areaRefuses (s : State) (p : Nat) (use : Use) (addr n : Nat) : Bool :=
  s.inRegion p addr n
    || (use != .read && (s.inFences p addr n || s.inTables p addr n))
    || (use == .write && s.inCounts p addr n)

/-- A request of a context to a controller, or the end of its launch where the address is refused (R270); it waits for a reservation and
for its lane (R303, R306). `fn` is what the
instruction does to its context. -/
def State.memIssue (s : State) (st c op : Nat) (use : Use) (kind : MemKind) (addr n : Nat) (fn : Ctx → Ctx) : State :=
  let l := (s.ctxOf st c).launch
  match s.launch? l with
  | none => s
  | some x =>
    if s.areaRefuses x.pitch use addr n then s.seqDenied st c op x.pitch addr false
    else match s.translate x.pitch (some x.csr.toNat) (if use = .read then .read else .write) addr with
      | .denied m => s.seqDenied st c op x.pitch addr m
      | .poisoned => s.tablePoison x.pitch
      | .ok pl =>
        if !s.mem.room st pl.unit kind then s else
        let r : MemReq := { id := s.serial, client := .ctx st c l, pitch := x.pitch, pc := (s.ctxOf st c).pc, op := op, kind := kind,
                            addr := BitVec.ofNat 64 addr, place := pl, served := none }
        let s1 := (s.cacheXlat x.pitch addr).setUnitPwr pl.unit .active
        ({ s1 with mem := { s1.mem with reqs := s1.mem.reqs ++ [r] } }.tickSerial).retire st c fn

/-- Posted stores and atomics of a context that no controller has performed yet: MEM of Table 5-6. -/
def State.memCount (s : State) (st c : Nat) : Nat :=
  (s.mem.reqs.filter (fun r => r.served.isNone && (match r.client, r.kind with
    | .ctx st' c' l, .store _ => st' == st && c' == c && l == (s.ctxOf st c).launch
    | .ctx st' c' l, .atom _ reg _ _ => st' == st && c' == c && l == (s.ctxOf st c).launch && reg == 0
    | _, _ => false))).length

/-- A context with one more outstanding register. -/
def Ctx.await (c : Ctx) (r : PendReg) : Ctx := { c with pend := c.pend ++ [r] }

/-! ### Bay tokens (R143 to R145) -/

/-- Whether two row ranges share a row. -/
def Rows.overlaps (a b : Rows) : Bool :=
  a.stall == b.stall && a.bay == b.bay && decide (a.first ≤ b.last) && decide (b.first ≤ a.last)

/-- Whether a range holds a row of a bay. -/
def Rows.hasRow (a : Rows) (stall bay row : Nat) : Bool :=
  a.stall == stall && a.bay == bay && decide (a.first ≤ row) && decide (row ≤ a.last)

/-- What the tokens say of rows that an operation of a client touches (R145). -/
inductive Cover where
  | held | pending | missing
  deriving DecidableEq, Repr

/-- Whether a token may serve a context's launch and client. -/
def Token.serves (t : Token) (st c l : Nat) (k : Client) : Bool :=
  t.launch == l && t.stall == st && t.ctx == c && t.client == k

/-- Whether a token has a hand-over to a client pending for a context's launch. -/
def Token.willServe (t : Token) (st c l : Nat) (k : Client) : Bool :=
  t.launch == l && t.stall == st && t.ctx == c && t.deferred.any (fun d => d.tgt == some k)

/-- The cover of one row. -/
def State.coverRow (s : State) (st c l : Nat) (k : Client) (stall bay row : Nat) : Cover :=
  let ts := s.tokens.filter (fun t => t.rows.hasRow stall bay row)
  if ts.any (fun t => t.serves st c l k) then .held
  else if ts.any (fun t => t.willServe st c l k) then .pending
  else .missing

/-- The worse of two covers. -/
def Cover.worse : Cover → Cover → Cover
  | .missing, _ => .missing
  | _, .missing => .missing
  | .pending, _ => .pending
  | _, .pending => .pending
  | .held, .held => .held

/-- The cover of a list of row ranges by a client of a context (R145). -/
def State.cover (s : State) (st c : Nat) (k : Client) (rs : List Rows) : Cover :=
  let l := (s.ctxOf st c).launch
  rs.foldl (fun w r => (List.range (r.last + 1 - r.first)).foldl (fun w i =>
    w.worse (s.coverRow st c l k r.stall r.bay (r.first + i))) w) .held

/-- A bay access of an instruction under its tokens: it waits for a pending hand-over and ends its launch where a row has
no cover (R145). -/
def State.covered (s : State) (st c op : Nat) (k : Client) (rs : List Rows) (body : State) : State :=
  match s.cover st c k rs with
  | .held => body
  | .pending => s
  | .missing => s.badProgram st c op

/-- Bits that the environment flips in words before they are read, kept to the words that an access reads (R164). -/
def State.upsetOnly (s : State) (st : Nat) (ups : List (Nat × BitVec 39)) (addrs : List Nat) : State :=
  s.upset st (ups.filter (fun u => addrs.contains (u.1 % 2 ^ 22)))

/-- A read of bay words by a client of a context: the words go to `k`, or the launch ends with POISON_CONSUMED
(R166, R285). `code` is the client's code, `ukind` and `uindex` the reading unit. -/
def State.bayLoad (s : State) (st c : Nat) (code ukind uindex : Nat) (ups : List (Nat × BitVec 39)) (addrs : List Nat)
    (k : State → List W32 → State) : State :=
  let r := (s.upsetOnly st ups addrs).bayReadList st addrs
  match r.2.2 with
  | none => k r.1 r.2.1
  | some a => r.1.poisonFault (s.ctxOf st c).launch (if ukind = 0x02 then srcCtx st c else srcStall st) (some st) ukind uindex code 0 a

end Sys2Proof.Machine
end

