-- ==== Sys2Proof/Machine/BayTensor.lean ====
section
/-! DEFINITION. Tensors in bays: their words, their elements in coordinate order, and their values (spec 02 R34 to R39; 04 R115;
05 R127, R128; 06 R158). -/

namespace Sys2Proof.Machine

/-! ### Words and bytes -/

/-- The bytes of words. -/
def wordsBytes (ws : List W32) : List Byte := ws.flatMap (fun w => leBytes 4 w.toNat)

/-- Bytes as words, the last filled with zeros (R158). -/
def bytesWords : List Byte → List W32
  | a :: b :: c :: d :: rest => BitVec.ofNat 32 (leNat [a, b, c, d]) :: bytesWords rest
  | [] => []
  | l => [BitVec.ofNat 32 (leNat l)]

/-- A list cut into pieces of `n`; `fuel` bounds their number. -/
def cutInto {α : Type} (n : Nat) : Nat → List α → List (List α)
  | 0, _ => []
  | fuel + 1, l => if l.isEmpty then [] else l.take n :: cutInto n fuel (l.drop n)

/-- `n` things at a time. -/
def chunksOf {α : Type} (n : Nat) (l : List α) : List (List α) := cutInto n (l.length + 1) l

/-! ### Coordinates -/

/-- The coordinates of the element with an index in coordinate order: dimension 0 fastest, dimension 3 slowest. -/
def TDesc.coordsAt (d : TDesc) (i : Nat) : List Nat :=
  let r := i / d.extent 0
  [i % d.extent 0, r % d.extent 1, r / d.extent 1 % d.extent 2, r / (d.extent 1 * d.extent 2)]

/-- The stream index of the element with an index in coordinate order (R38). -/
def TDesc.streamAt (d : TDesc) (i : Nat) : Nat :=
  let e := if d.raxis = 0 then i else d.indexOf (d.coordsAt i)
  if d.padded then (e / d.extent d.raxis) * d.kp + e % d.extent d.raxis else e

/-- The value of an FB or plain element: its code, its block scale and its slab scale (R35, R36, R37). -/
def scaled (el : Elem) (code bscale : Nat) (slab : Half) : FNum :=
  if bscale = 0 then .fin false 0 0
  else match el.decode code, slabScale slab with
    | .fin neg m e, some y => FNum.ofDy false (Dy.mul (FNum.toDy (.fin neg m e)) (Dy.mul (ue5m3 bscale) y))
    | v, some y => v.mul (FNum.ofDy false y)
    | _, none => .nan

/-! ### Reading -/

/-- What a read of words leaves and finds: the state, the words, the first poisoned address. -/
abbrev WordsRead := State × List W32 × Option Nat

/-- A read of the word ranges of a tensor, one list of words for each. -/
def State.readSpans (s : State) (st : Nat) (spans : List (Nat × Nat)) : State × List (List W32) × Option Nat :=
  spans.foldl (fun (r : State × List (List W32) × Option Nat) sp =>
    let x := r.1.bayReadRange st sp.1 sp.2
    (x.1, r.2.1 ++ [x.2.1], r.2.2.orElse (fun _ => x.2.2))) (s, [], none)

/-- The codes of a plain tensor's rows, in coordinate order. -/
def TDesc.plainCodes (d : TDesc) (rows : List (List W32)) : List Nat :=
  rows.flatMap (fun ws => unpackCodes d.fmt.el.width (wordsBytes ws) (d.extent 0))

/-- The elements of a WIDE tensor from its two arrays, in stream order (R115). -/
def TDesc.wides (d : TDesc) (elems anchors : List W32) : List Wide :=
  (((chunksOf 16 (wordsBytes elems)).zip (chunksOf 2 (wordsBytes anchors))).take d.count).map (fun x =>
    Wide.decode (BitVec.ofNat 128 (leNat x.1)) (BitVec.ofNat 16 (leNat x.2)))

/-- An FB tensor's parts in stream order: element codes with padding read as zero (R39), block scales, slab scales. -/
structure FbParts where
  codes : List Nat
  bscales : List Nat
  slabs : List Half
  deriving DecidableEq, Repr

/-- The codes with padding elements zero (R39). -/
def TDesc.unpad (d : TDesc) (codes : List Nat) : List Nat :=
  (codes.zipIdx).map (fun x => if x.2 % d.kp < d.extent d.raxis then x.1 else 0)

/-- The parts of an FB tensor from its three arrays in a bay (R128). -/
def TDesc.fbParts (d : TDesc) (elems bs sl : List W32) : FbParts :=
  let n := d.streamLen
  { codes := d.unpad (unpackCodes d.fmt.el.width (wordsBytes elems) n),
    bscales := ((wordsBytes bs).map (fun b => b.toNat)).take (n / 32),
    slabs := (chunksOf 2 (wordsBytes sl)).map (fun x => BitVec.ofNat 16 (leNat x)) |>.take (ceilDiv n 512) }

/-- Whether every slab scale keeps R37. -/
def FbParts.slabsOk (p : FbParts) : Bool := p.slabs.all (fun s => (slabScale s).isSome)

/-- The value of a stream element. -/
def FbParts.value (p : FbParts) (el : Elem) (i : Nat) : FNum :=
  scaled el (p.codes[i]?.getD 0) (p.bscales[i / 32]?.getD 0) (p.slabs[i / 512]?.getD 0)

/-! ### Writing -/

/-- The words of one plain row (R158). -/
def rowWords (el : Elem) (codes : List Nat) : List W32 := bytesWords (packCodes el.width codes)

/-- The state with a plain bay tensor written from its codes in coordinate order. -/
def State.writePlain (s : State) (st : Nat) (d : TDesc) (codes : List Nat) : State :=
  ((d.spans).zip (chunksOf (d.extent 0) codes)).foldl (fun s x => s.bayWrites st x.1.1 (rowWords d.fmt.el x.2)) s

/-- A list of a tensor's elements in coordinate order put in stream order: entry `streamAt i` is element `i`. -/
def TDesc.inStream {α : Type} (d : TDesc) (z : α) (l : List α) : List α :=
  if d.raxis = 0 then l
  else
    let pairs := (l.zipIdx).map (fun x => (d.streamAt x.2, x.1))
    (List.range l.length).map (fun e => ((pairs.find? (fun p => p.1 == e)).map (·.2)).getD z)

/-- A list of a tensor's elements in stream order put in coordinate order. -/
def TDesc.inCoords {α : Type} (d : TDesc) (z : α) (l : List α) : List α :=
  if d.raxis = 0 then l else (List.range l.length).map (fun i => l[d.streamAt i]?.getD z)

/-- The state with a WIDE bay tensor written from its elements in stream order. -/
def State.writeWide (s : State) (st : Nat) (d : TDesc) (ws : List Wide) : State :=
  let es := ws.map Wide.encode
  let s1 := s.bayWrites st d.base (es.flatMap (fun e => bytesWords (leBytes 16 e.1.toNat)))
  s1.bayWrites st d.sbase (bytesWords (es.flatMap (fun e => leBytes 2 e.2.toNat)))

/-- The state with an FB bay tensor written from its parts (R128). -/
def State.writeFb (s : State) (st : Nat) (d : TDesc) (p : FbParts) : State :=
  let sp := d.spans
  let at' := fun i => ((sp[i]?).getD (0, 0)).1
  let s1 := s.bayWrites st (at' 0) (bytesWords (packCodes d.fmt.el.width p.codes))
  let s2 := s1.bayWrites st (at' 1) (bytesWords (p.bscales.map (BitVec.ofNat 8)))
  s2.bayWrites st (at' 2) (bytesWords (p.slabs.flatMap (fun x => leBytes 2 x.toNat)))

end Sys2Proof.Machine
end

