-- ==== Sys2Proof/Machine/Pairs.lean ====
section
/-! DEFINITION. Reads of device memory by the Porter's units: plain bytes, and FB segments paired with their scale records and
checked (spec 02 R40 to R42, 07 R185 to R188). -/

namespace Sys2Proof.Machine

/-- A unit that reads for a launch: where its faults are reported. -/
structure Reader where
  launch : Nat
  stall : Nat
  ctx : Nat
  pc : W64
  op : Nat
  /-- SOURCE and unit of its fault records (Tables 16-7, 18-3) -/
  src : Nat
  ukind : Nat
  uindex : Nat
  /-- its client code and ENGINE (Tables 5-13, 7-5) -/
  client : Nat
  engine : Nat
  /-- SEQ_ID of the page list that a walk reads (R217) -/
  seqid : Nat := 0
  deriving DecidableEq, Repr

/-- A fault of a reader that a unit reports. -/
def State.unitFault (s : State) (r : Reader) (src : Nat) (st : Status) (ukind uindex syn addr : Nat) : State :=
  s.contextFaultF r.launch src (some r.stall) st ukind uindex syn addr 0 r.seqid

/-- A fault of a reader. -/
def State.rdFault (s : State) (r : Reader) (st : Status) (syn addr : Nat) : State :=
  s.unitFault r r.src st r.ukind r.uindex syn addr

/-- The program counter and opcode of a reader's instruction (Table 18-4). -/
def Reader.at' (r : Reader) : Nat := r.pc.toNat % 2 ^ 32 + r.op * 2 ^ 32

/-- A status that the reader's instruction raises under way: the record names the unit that detects it, or under BAD_PROGRAM the
context that issued it (R150, Table 18-2). -/
def State.rdBad (s : State) (r : Reader) (st : Status) (addr : Nat) : State :=
  if st = .badProgram then s.unitFault r (srcCtx r.stall r.ctx) st 0x02 r.ctx r.at' addr
  else s.rdFault r st r.at' addr

/-- A refused address of a reader. -/
def State.rdDenied (s : State) (r : Reader) (p addr : Nat) (m : Bool) : State :=
  (if m then s.malformed p addr else s).rdBad r .accessDenied addr

/-- A poisoned line or bay word that a reader consumes (R188, Table 18-4). -/
def State.rdPoison (s : State) (r : Reader) (addr : Nat) : State :=
  s.rdFault r .poisonConsumed (r.client + r.engine * 256) addr

/-- What stops a read of device memory, applied to its reader. -/
def State.rdStop (s : State) (r : Reader) (p : Nat) : Rd → State
  | .ok _ => s
  | .denied a m => s.rdDenied r p a m
  | .poison a => s.rdPoison r (a / 64 * 64)
  | .fatal => s.tablePoison p

/-- A segment of 4,128 bytes with its scale record. -/
structure SegPair where
  elems : List Byte
  trailer : List Byte
  record : List Byte
  deriving DecidableEq, Repr

/-- Where segment `n` and record `n` of a tensor lie (R40, R42). -/
def segAddr (base n : Nat) : Nat := base + 4128 * n
def recAddr (el : Elem) (sbase n : Nat) : Nat := sbase + recordSize el * n

/-- A pair as read, or what stops the read. -/
inductive PairRd where
  | got (g : SegPair)
  | stop (r : Rd)
  deriving DecidableEq, Repr

/-- Pair `n` of a tensor in device memory (R185). -/
def State.readPair (s : State) (p : Nat) (csr : Option Nat) (el : Elem) (base sbase n : Nat) : PairRd :=
  match s.readDev p csr (segAddr base n) 4128 with
  | .ok seg =>
    (match s.readDev p csr (recAddr el sbase n) (recordSize el) with
     | .ok r => .got ⟨seg.take 4096, seg.drop 4096, r⟩
     | x => .stop x)
  | x => .stop x

/-- Block scales and slab scales that start in segment `i` (R42): how many entries of the record are in use. -/
def blocksIn (el : Elem) (i : Nat) : Nat := firstBlock el (i + 1) - firstBlock el i
def slabsIn (el : Elem) (i : Nat) : Nat := firstSlab el (i + 1) - firstSlab el i

/-- What a pair is checked against (Table 7-3): the tag and format, the index expected, whether it is the final segment read,
and the number of the tensor's bytes that it holds. -/
structure PairWant where
  tag : Half
  fmt : Nat
  index : Nat
  final : Bool
  need : Nat
  deriving DecidableEq, Repr

/-- Block and slab scales in use in the record of segment `i` when the tensor ends `valid` bytes into it (R41, R42). -/
def blocksUsed (el : Elem) (i valid : Nat) : Nat := ceilDiv (4096 * i + min valid 4096) (blockBytes el) - firstBlock el i
def slabsUsed (el : Elem) (i valid : Nat) : Nat := ceilDiv (4096 * i + min valid 4096) (16 * blockBytes el) - firstSlab el i

/-- The status of the first check of Table 7-3 that a pair fails, and the KIND bits of every check that it fails (R186, Table 7-5; log 20). -/
def SegPair.fails (g : SegPair) (el : Elem) (w : PairWant) : Option (Status × Nat) :=
  let f := fieldAt
  let t := g.trailer
  let r := g.record
  let k1 := b2n (f r 0 2 != f t 0 2) + 2 * b2n (f r 2 1 != f t 2 1) + 4 * b2n (f r 4 4 != f t 4 4)
  let last := bit (f t 3 1) 0
  let valid := f t 8 4
  let good2 := f t 0 2 == w.tag.toNat && f t 2 1 == w.fmt && f t 4 4 == w.index % 2 ^ 32
    && (if w.final then (!last && valid == 4096) || (last && decide (w.need ≤ valid) && decide (valid ≤ 4096))
        else !last && valid == 4096)
  let crcOk := (crc32 (g.elems ++ t.take 28)).toNat == f t 28 4
  let i := f t 4 4
  let nb := blocksUsed el i valid
  let ns := slabsUsed el i valid
  let zero4 := f t 3 1 < 2 && zeroAt t 12 16 && zeroAt r 3 1 && zeroAt r (8 + 2 * ns) (32 - 2 * ns)
    && zeroAt r (40 + nb) (recordSize el - 40 - nb)
  let kind := k1 + 8 * b2n (!crcOk) + 16 * b2n (!good2) + 32 * b2n (!zero4)
  if k1 ≠ 0 then some (.scaleSkew, kind)
  else if !good2 then some (.badDescriptor, kind)
  else if !crcOk then some (.poisonConsumed, kind)
  else if !zero4 then some (.badDescriptor, kind)
  else none

/-- The syndrome of a failed pair (Table 7-5). -/
def SegPair.syndrome (g : SegPair) (kind engine : Nat) : Nat :=
  let d : Int := (fieldAt g.record 4 4 : Int) - fieldAt g.trailer 4 4
  let delta : Nat := if bit kind 2 then lowBits 8 (max (-128) (min 127 d)) else 0
  kind + engine * 2 ^ 8 + fieldAt g.trailer 0 2 * 2 ^ 16 + (fieldAt g.trailer 4 4 % 2 ^ 24) * 2 ^ 32 + delta * 2 ^ 56

/-- The bytes of a tensor's element stream, and its segments (R40). -/
def TDesc.streamBytes (d : TDesc) : Nat := ceilDiv (d.streamLen * d.fmt.el.width) 8
def TDesc.segments (d : TDesc) : Nat := ceilDiv d.streamBytes 4096

/-- What pair `n` of a read of a tensor is checked against; `first` is the SEG_INDEX of the segment at BASE (R186). -/
def TDesc.want (d : TDesc) (first n : Nat) : PairWant :=
  { tag := d.tag, fmt := d.fmt.toCode, index := first + n, final := n + 1 == d.segments,
    need := min 4096 (d.streamBytes - 4096 * n) }

/-- A checked pair as it is kept: its number in the read, element bytes, record. -/
abbrev Kept' := Nat × List Byte × List Byte

/-- The element bytes of a kept pair. -/
def pairBytes (ps : List Kept') (n : Nat) : List Byte := ((ps.find? (fun p => p.1 == n)).map (fun p => p.2.1)).getD []
/-- The record of a kept pair. -/
def pairRecord (ps : List Kept') (n : Nat) : List Byte := ((ps.find? (fun p => p.1 == n)).map (fun p => p.2.2)).getD []

/-- Bytes `lo` to `lo + len` of the stream, taken from kept pairs. -/
def streamSlice (ps : List Kept') (lo len : Nat) : List Byte :=
  (List.range ((lo + len - 1) / 4096 + 1 - lo / 4096)).flatMap (fun i =>
    let n := lo / 4096 + i
    let a := max lo (4096 * n) - 4096 * n
    ((pairBytes ps n).drop a).take (min (4096 * (n + 1)) (lo + len) - max lo (4096 * n)))

/-- The block scale of block `b` and the slab scale of slab `b` of a read, from kept pairs. `off` is the segment index at which the
read's records count (R42). -/
def blockAt (el : Elem) (first : Nat) (ps : List Kept') (b : Nat) : Nat :=
  let n := b * blockBytes el / 4096
  fieldAt (pairRecord ps n) (40 + (b + firstBlock el first - firstBlock el (first + n))) 1
def slabAt (el : Elem) (first : Nat) (ps : List Kept') (j : Nat) : Half :=
  let n := j * (16 * blockBytes el) / 4096
  BitVec.ofNat 16 (fieldAt (pairRecord ps n) (8 + 2 * (j + firstSlab el first - firstSlab el (first + n))) 2)

end Sys2Proof.Machine
end

