-- ==== Sys2Proof/Machine/ArrayOps.lean ====
section
/-! DEFINITION. The matrix array's parts: pass words and sweeps, weight tiles and their loads, entry, block adds, tills, drains
and checks (spec 03 R59 to R90, 04 R96 to R115). -/

namespace Sys2Proof.Machine

/-! ### The pass word (Table 3-2) and the modes (Table 3-1) -/

def PassReq.f (q : PassReq) (hi lo : Nat) : Nat := bits q.word.toNat hi lo
def PassReq.mode (q : PassReq) : Nat := q.f 2 0
def PassReq.entry (q : PassReq) : Bool := q.f 6 6 == 1
def PassReq.preload (q : PassReq) : Bool := q.f 7 7 == 1
def PassReq.ilv (q : PassReq) : Nat := 2 ^ q.f 9 8
def PassReq.tiles (q : PassReq) : Nat := q.f 31 16 + 1
def PassReq.vectors (q : PassReq) : Nat := q.f 47 32 + 1
def PassReq.rounds (q : PassReq) : Nat := q.tiles / q.ilv
/-- The width of the output: w × I columns (R70). -/
def PassReq.cols (q : PassReq) : Nat := q.width * q.ilv

/-- Rows of a tile in a mode, and cycles of a slot (Table 3-1). -/
def modeRows (m : Nat) : Nat := if m = 1 ∨ m = 2 then 512 else 256
def modeCycles (m : Nat) : Nat := if m < 3 then 1 else if m < 5 then 2 else 4

/-- Whether an unconverted activation format is listed for a mode (Table 3-1). -/
def modeAct (m : Nat) (f : Fmt) : Bool :=
  f.fam == .plain &&
    (if m < 2 then f.el == .fp8e4m3 || f.el == .fp8e5m2 || f.el == .int8
     else if m = 2 then f.el == .fp4 || f.el == .int4
     else f.el == .bf16)

/-- Whether a weight format is listed for a mode (Table 3-1). -/
def modeWgt (m : Nat) (f : Fmt) : Bool :=
  (f.fam == .plain || f.fam == .fb) &&
    (if m = 5 then f == ⟨.plain, .bf16⟩
     else if m = 0 ∨ m = 3 then
       f.el == .fp8e4m3 || f.el == .fp8e5m2 || f.el == .int8 || f.el == .fp6e2m3 || f.el == .fp6e3m2
     else f.el == .fp4 || f.el == .int4)

/-- Formats that the array reads as weights in some mode (R64). -/
def weightFmt (f : Fmt) : Bool := (f.fam == .plain || f.fam == .fb) && f.el != .fp32

/-! ### Sweeps (R71, R73) -/

/-- A sweep: its number, its first slot, its vectors, the number of the first, its phase, its round, its tile, and whether it
starts or finishes its partials. -/
structure Sweep where
  idx : Nat
  start : Nat
  n : Nat
  v0 : Nat
  phase : Nat
  round : Nat
  tile : Nat
  first : Bool
  final : Bool
  deriving DecidableEq, Repr

/-- A sweep of a pass by its number. -/
def PassReq.sweep (q : PassReq) (s0 i : Nat) : Sweep :=
  if q.tiles = 1 then
    { idx := i, start := s0 + 256 * i, n := min 256 (q.vectors - 256 * i), v0 := 256 * i, phase := 0, round := i, tile := 0,
      first := true, final := true }
  else
    { idx := i, start := s0 + 260 * (i / q.ilv) + (260 / q.ilv) * (i % q.ilv), n := q.vectors, v0 := 0, phase := i % q.ilv,
      round := i / q.ilv, tile := i, first := i / q.ilv == 0, final := i / q.ilv + 1 == q.rounds }

/-- The number of sweeps of a pass. -/
def PassReq.sweepCount (q : PassReq) : Nat := if q.tiles = 1 then ceilDiv q.vectors 256 else q.tiles

/-- The sweeps of a pass that have something in the array at a slot. -/
def Pass.active (p : Pass) (t : Nat) : List Sweep :=
  ((List.range p.req.sweepCount).map (p.req.sweep p.s0)).filter (fun w =>
    decide (w.start ≤ t) && decide (t ≤ w.start + w.n + 258 + p.req.width))

/-- The slot from which a following pass may enter (R74). -/
def Pass.nextSlot (p : Pass) : Nat :=
  if p.req.tiles = 1 then p.s0 + p.req.vectors else p.s0 + 260 * p.req.rounds

/-- The slot by which every vector has drained and every verdict has been given (R87, R91). -/
def Pass.endSlot (p : Pass) : Nat :=
  let w := p.req.sweep p.s0 (p.req.sweepCount - 1)
  w.start + w.n + 258 + p.req.width

/-- The slot at which the last vector that uses a tile enters. -/
def Pass.lastEntry (p : Pass) (tile : Nat) : Nat :=
  if p.req.tiles = 1 then p.s0 + p.req.vectors - 1
  else let w := p.req.sweep p.s0 tile; w.start + w.n - 1

/-- The slot at which the last vector that meets the preload tensor enters: that of the first round's last phase, or of the last sweep of
a streaming pass (R72). -/
def Pass.lastPreload (p : Pass) : Nat := if p.req.tiles = 1 then p.lastEntry 0 else p.lastEntry (p.req.ilv - 1)

/-! ### Elements by stream index -/

/-- Where an element of a plain tensor lies: the start of its dimension-0 row in the units of BASE, and its bit within the row. -/
def TDesc.elemPos (d : TDesc) (e : Nat) : Nat × Nat :=
  let cs := d.coords e
  (d.rowStart cs, (cs[0]?.getD 0) * d.fmt.el.width)

/-- The bay words that hold elements `i0` to `i0 + n - 1` of a plain tensor. -/
def TDesc.elemWords (d : TDesc) (i0 n : Nat) : List Nat :=
  ((List.range n).flatMap (fun i =>
    let p := d.elemPos (i0 + i)
    let lo := p.2 / 32
    let hi := (p.2 + d.fmt.el.width - 1) / 32
    if lo = hi then [d.base + p.1 + lo] else [d.base + p.1 + lo, d.base + p.1 + hi])).eraseDups

/-- The codes of those elements, from the words read at those addresses. -/
def TDesc.elemCodes (d : TDesc) (i0 n : Nat) (ws : List W32) : List Nat :=
  let addrs := d.elemWords i0 n
  let word := fun a => ((ws[addrs.idxOf a]?).getD 0).toNat
  (List.range n).map (fun i =>
    let p := d.elemPos (i0 + i)
    let a := d.base + p.1 + p.2 / 32
    ((word a + word (a + 1) * 2 ^ 32) / 2 ^ (p.2 % 32)) % 2 ^ d.fmt.el.width)

/-! ### Tiles (R61, R65, R67, R80, R99) -/

/-- The part of a column that a tile holds: reduction indices from `k0`, in the padded row. -/
def TDesc.colLen (d : TDesc) (k0 kt : Nat) : Nat :=
  min kt ((if d.fmt.fam = .fb then d.kp else d.extent d.raxis) - k0)

/-- The stream index of reduction index `k` of column `n`. -/
def TDesc.colAt (d : TDesc) (n k : Nat) : Nat := n * (if d.fmt.fam = .fb then d.kp else d.extent d.raxis) + k

/-- The columns of a weight tensor. -/
def TDesc.colCount (d : TDesc) : Nat := d.count / d.extent d.raxis

/-- A column of a tile: its codes, filled with zeros, and its scales. -/
abbrev TileCol := List Nat × List Nat × List Half

/-- A column with its codes and scales filled up. -/
def fillCol (kt : Nat) (c : TileCol) : TileCol :=
  (c.1 ++ List.replicate (kt - c.1.length) 0, c.2.1 ++ List.replicate (kt / 32 - c.2.1.length) 0,
   c.2.2 ++ List.replicate (kt / 32 - c.2.2.length) 0)

/-- A tile from its columns. -/
def tileOf (el : Elem) (kt : Nat) (cols : List TileCol) : Tile :=
  let cs := cols.map (fillCol kt)
  { el := el, rows := kt, width := cols.length, codes := cs.flatMap (·.1), bscales := cs.flatMap (·.2.1),
    slabs := cs.flatMap (·.2.2), wrong := [] }

/-- The diagonal tile of a vector given as one column of 256 (R80): cell (k, k) holds element k. -/
def diagOf (el : Elem) (c : TileCol) : Tile :=
  tileOf el 256 ((List.range 256).map (fun j =>
    ((List.range 256).map (fun k => if k = j then c.1[k]?.getD 0 else 0), c.2.1, c.2.2)))

/-- Whether a tile carries scales. -/
def Tile.isScaled (t : Tile) : Bool := !t.bscales.isEmpty

/-- The combined scale of block `b` of column `j` (R35, R61); 1 for unscaled weights. -/
def Tile.scale (t : Tile) (fb : Bool) (j b : Nat) : Dy :=
  if fb then
    let i := j * (t.rows / 32) + b
    Dy.mul (ue5m3 (t.bscales[i]?.getD 0)) ((slabScale (t.slabs[i]?.getD 0)).getD Dy.zero)
  else ⟨1, 0⟩

/-- The decoded element of cell (k, j), without scale; zero where its block scale is zero (R36). DESIGN CHOICE: an Inf or NaN activation
that meets such a cell gives the NaN of R110 item 1, though the block adds nothing by its last sentence (log 150). -/
def Tile.cell (t : Tile) (fb : Bool) (j k : Nat) : FNum :=
  if fb && t.bscales[j * (t.rows / 32) + k / 32]?.getD 0 == 0 then .fin false 0 0
  else t.el.decode (t.codes[j * t.rows + k]?.getD 0)

/-- The tile as the loader read it, of which it forms the check column's residues (R67, R86). -/
def Tile.asRead (t : Tile) : Tile := { t with codes := t.wrong.foldl (fun cs w => cs.set w.1 w.2) t.codes, wrong := [] }

/-- The tile with a wrong code in cell (k, j). -/
def Tile.spoil (t : Tile) (k j code : Nat) : Tile :=
  let i := j * t.rows + k
  { t with codes := t.codes.set i (code % 2 ^ t.el.width), wrong := t.wrong ++ [(i, t.codes[i]?.getD 0)] }

/-- The weight of cell (k, j) with its scales (R85). -/
def Tile.weight (t : Tile) (fb : Bool) (j k : Nat) : Dy := Dy.mul (t.cell fb j k).toDy (t.scale fb j (k / 32))

/-- What a loaded tile breaks: a slab scale outside R37, or the ceiling that its descriptor promises (R99). -/
def Tile.bad (t : Tile) (d : TDesc) : Bool :=
  let lim : Dy := Dy.pow2 d.ceil
  match d.fmt.fam with
  | .fb => t.slabs.any (fun s => (slabScale s).isNone)
      || (List.range t.width).any (fun j => (List.range (t.rows / 32)).any (fun b => Dy.lt lim (t.scale true j b)))
  | _ => t.el == .bf16 && t.codes.any (fun c => match t.el.decode c with
      | .fin neg m e => Dy.lt lim (FNum.toDy (.fin neg m e)).abs
      | _ => false)

/-! ### Where tiles come from (R66, R175) -/

/-- The columns of a tile: those of its phase. `diag` tiles read one column of 256. -/
def tileCols (width phase : Nat) (diag : Bool) : List Nat :=
  if diag then [0] else (List.range width).map (fun j => phase * width + j)

/-- The word ranges that one column of a tile takes in a bay. -/
def TDesc.colSpans (d : TDesc) (n k0 len : Nat) : List (Nat × Nat) :=
  let e0 := d.colAt n k0
  let sp := d.spans
  let at' := fun i => ((sp[i]?).getD (0, 0)).1
  let w := d.fmt.el.width
  let span := fun (bit0 bitn : Nat) (base : Nat) => (base + bit0 / 32, (bit0 + bitn - 1) / 32 + 1 - bit0 / 32)
  [span (e0 * w) (len * w) (at' 0), span (e0 / 32 * 8) (ceilDiv len 32 * 8) (at' 1),
   span (e0 / 512 * 16) ((((e0 + len - 1) / 512) + 1 - e0 / 512) * 16) (at' 2)]

/-- Bits of words that start at a word boundary `32 * (bit0 / 32)`. -/
def bitsOf (ws : List W32) (bit0 width n : Nat) : List Nat :=
  let v := leNat (wordsBytes ws) / 2 ^ (bit0 % 32)
  (List.range n).map (fun i => (v / 2 ^ (width * i)) % 2 ^ width)

/-- An FB column from the words of its three ranges. -/
def TDesc.colFromWords (d : TDesc) (n k0 len : Nat) (ws : List (List W32)) : TileCol :=
  let e0 := d.colAt n k0
  let nb := ceilDiv len 32
  let sl := bitsOf (ws[2]?.getD []) (e0 / 512 * 16) 16 (((e0 + len - 1) / 512) + 1 - e0 / 512)
  ((bitsOf (ws[0]?.getD []) (e0 * d.fmt.el.width) d.fmt.el.width len).zipIdx.map
      (fun x => if k0 + x.2 < d.extent 0 then x.1 else 0),
   bitsOf (ws[1]?.getD []) (e0 / 32 * 8) 8 nb,
   (List.range nb).map (fun b => BitVec.ofNat 16 (sl[(e0 / 32 + b) / 16 - e0 / 512]?.getD 0)))

/-- An FB column from kept pairs of a tile stream. -/
def TDesc.colFromPairs (d : TDesc) (first : Nat) (ps : List Kept') (n k0 len : Nat) : TileCol :=
  let e0 := d.colAt n k0
  let el := d.fmt.el
  let nb := ceilDiv len 32
  ((unpackCodes el.width (streamSlice ps (e0 * el.width / 8) (len * el.width / 8)) len).zipIdx.map
      (fun x => if k0 + x.2 < d.extent 0 then x.1 else 0),
   (List.range nb).map (fun b => blockAt el first ps (e0 / 32 + b)),
   (List.range nb).map (fun b => slabAt el first ps ((e0 / 32 + b) / 16)))

/-- The segments that a tile takes its elements and scales from, in order. -/
def TDesc.tileSegs (d : TDesc) (cols : List Nat) (k0 kt : Nat) : List Nat :=
  let w := d.fmt.el.width
  let len := d.colLen k0 kt
  let want := cols.filter (· < d.colCount) |>.flatMap (fun n =>
    let e0 := d.colAt n k0
    let lo := (e0 / 512 * 512 * w / 8) / 4096
    let hi := ((e0 + len) * w / 8 - 1) / 4096
    (List.range (hi + 1 - lo)).map (lo + ·))
  (List.range d.segments).filter want.contains

/-- A plain column of a tensor in device memory, or what stops its read. -/
def State.colFromMem (s : State) (p : Nat) (csr : Option Nat) (d : TDesc) (n k0 len : Nat) : Except Rd TileCol :=
  let w := d.fmt.el.width
  let one := fun (e cnt : Nat) =>
    let q := d.elemPos e
    (s.readDev p csr (d.base + q.1 + q.2 / 8) ((q.2 + cnt * w - 1) / 8 + 1 - q.2 / 8), q.2 % 8)
  let codes := fun (bs : List Byte) (sh cnt : Nat) =>
    (List.range cnt).map (fun i => (leNat bs / 2 ^ (sh + w * i)) % 2 ^ w)
  if d.raxis = 0 then
    (match one (d.colAt n k0) len with
     | (.ok bs, sh) => .ok (codes bs sh len, [], [])
     | (r, _) => .error r)
  else
    (List.range len).foldl (fun (r : Except Rd TileCol) i => match r with
      | .ok c => (match one (d.colAt n (k0 + i)) 1 with
          | (.ok bs, sh) => .ok (c.1 ++ codes bs sh 1, [], [])
          | (x, _) => .error x)
      | x => x) (.ok ([], [], []))

/-! ### Entry (R77, R52, R99) -/

/-- The tensors and latches of a pass, parsed once for a slot. -/
structure PassView where
  act : TDesc
  wgt : TDesc
  out : TDesc
  pre : Option TDesc
  seed : W64
  strict : Bool
  deriving DecidableEq, Repr

/-- Whether the weights of a pass are FB. -/
def PassView.fb (v : PassView) : Bool := v.wgt.fmt.fam == .fb

/-- The reduction length. -/
def PassView.k (v : PassView) : Nat := v.act.extent v.act.raxis

/-- The reduction slice of a sweep: its first index and its length. -/
def Pass.slice (p : Pass) (k : Nat) (w : Sweep) : Nat × Nat :=
  let kt := modeRows p.req.mode
  let r := if p.req.tiles = 1 then 0 else w.round
  (r * kt, min kt (k - r * kt))

/-- Activations as they enter (R52, R77): converted under ENTRY = 1. With NONFINITE and whether one breaks its ceiling. -/
def Pass.enterActs (p : Pass) (v : PassView) (i0 : Nat) (codes : List Nat) : List FNum × Bool × Bool :=
  let q := p.req
  if q.entry then
    let md := (RMode.ofCode (q.f 4 3)).getD .rne
    let rs := (codes.zipIdx).map (fun c =>
      let x := Elem.bf16.decode c.1
      let y := (match x with
        | .fin neg m e => FNum.fin neg m (e - p.saExp)
        | z => z)
      Elem.fp8e4m3.encode md (q.f 5 5 == 1) (srBits v.seed v.act.tag (i0 + c.2)) y)
    (rs.map (fun r => Elem.fp8e4m3.decode r.1), rs.any (·.2), false)
  else
    let xs := codes.map v.act.fmt.el.decode
    (xs, false, v.act.fmt.el == .bf16 && xs.any (fun x => match x with
      | .fin neg m e => Dy.lt (Dy.pow2 v.act.ceil) (FNum.toDy (.fin neg m e)).abs
      | _ => false))

/-! ### Tills (R96, R103, R107, R110, R112) -/

/-- A partial with a contribution added (R103, R107, R110): the value and whether it saturated now. `x` is what the exact
contribution is, before rounding into the window. -/
def Part.add (pt : Part) (seed : W64) (tag : Half) (A : Int) (e b' : Nat) (x : FNum) : Part × Bool :=
  match x with
  | .fin neg m ex =>
    let d := FNum.toDy (.fin neg m ex)
    if pt.special.isSome then (pt, false)
    else
      let n := tillRound seed tag A e b' d
      let off := Dy.sub ⟨n, A - 126⟩ d
      let dres := rhoAdd pt.dres (rho off)
      if pt.sat then ({ pt with dres := dres }, false)
      else let c := tillClamp (pt.t + n); ({ pt with t := c.1, sat := c.2, dres := dres }, c.2)
  | sp =>
    let v := (match pt.special with
      | some y => y.add sp
      | none => sp)
    ({ pt with special := some v }, false)

/-- The exact sum of a block's products, without scale (R61, R110). -/
def blockSum (acts : List FNum) (t : Tile) (fb : Bool) (j b : Nat) : FNum :=
  (((acts.drop (32 * b)).take 32).zipIdx).foldl (fun s x => s.add (x.1.mul (t.cell fb j (32 * b + x.2)))) (.fin false 0 0)

/-- The scaled block sum (R61). DESIGN CHOICE: a special block sum keeps its value under a combined scale of zero, for which R61 and R110 give
no product (log 148). -/
def scaledSum (acts : List FNum) (t : Tile) (fb : Bool) (j b : Nat) : FNum :=
  match blockSum acts t fb j b with
  | .fin neg m e => FNum.ofDy false (Dy.mul (FNum.toDy (.fin neg m e)) (t.scale fb j b))
  | x => x

/-- The start value of a partial from a preload element, in a window (R112). -/
def startPart (seed : W64) (tag : Half) (A : Int) (e : Nat) (saExp : Int) (x : FNum) : Part × Bool :=
  let y := (match x with
    | .fin neg m ex => FNum.fin neg m (ex - saExp)
    | z => z)
  let r := Part.zero.add seed tag A e 0 y
  ({ r.1 with dres := 0 }, r.2)

/-- The value of a partial (R96). -/
def Part.wide (pt : Part) (A : Int) : Wide :=
  match pt.special with
  | some v => .special v
  | none => .val pt.t A

/-- The residue of a partial less that of its rounding offsets (R85, R86). -/
def Part.res (pt : Part) (A : Int) : Nat := rhoSub (rho ⟨pt.t, A - 126⟩) pt.dres

/-- The keys of the pass's tables. -/
def partKey (phase v col : Nat) : Nat := phase * 2 ^ 24 + v * 256 + col
def logKey (sweep v col : Nat) : Nat := sweep * 2 ^ 24 + v * 256 + col

/-- A partial as it stands. -/
def Pass.part (p : Pass) (phase v col : Nat) : Part := Tab.get Part.zero p.parts (partKey phase v col)

/-- The stream index of the output element of a vector and a column (R38, R104). -/
def PassView.outIndex (v : PassView) (q : PassReq) (vec col : Nat) : Nat := v.out.streamAt (vec * q.cols + col)

/-! ### One slot of a pass -/

/-- What a slot of a pass brings about beside its own state. -/
structure SlotOut where
  pass : Pass
  sat : Bool
  nonfin : Bool
  faults : List (Status × Nat)
  /-- rows drained: output vector, phase -/
  rows : List (Nat × Nat)
  deriving DecidableEq, Repr

/-- The syndrome of TILL_OVERFLOW (Table 18-4). -/
def Pass.overflowSyn (p : Pass) (col phase : Nat) : Nat :=
  p.req.pc.toNat % 2 ^ 32 + (phase * p.req.width + col) % 2 ^ 16 * 2 ^ 32 + phase * 2 ^ 48

/-- A saturation of a column's partial at a slot (R89, R107 to R109). -/
def SlotOut.saturate (o : SlotOut) (strict : Bool) (t phase col : Nat) : SlotOut :=
  let c := phase * o.pass.req.width + col
  { o with
    sat := true
    faults := if strict then o.faults ++ [(.tillOverflow, o.pass.overflowSyn col phase)] else o.faults
    pass := { o.pass with satCols := if o.pass.satCols.contains c then o.pass.satCols else o.pass.satCols ++ [c],
                          excluded := o.pass.excluded ++ [(col, t)] } }

/-- A scaled block sum with the error of a faulty cell, product or block scaler (R88). -/
def upsetSum (upset : Option ArrayUpset) (block col : Nat) (x : FNum) : FNum :=
  match upset, x with
  | some (.cell b c m e), .fin neg m' e' =>
    if b = block ∧ c = col then FNum.ofDy false (Dy.add (FNum.toDy (.fin neg m' e')) ⟨m, e⟩) else x
  | _, _ => x

/-- The activations of a vector with the error of a faulty feeder in one row, and what the feeder's sums exceed them by (R88). -/
def upsetActs (upset : Option ArrayUpset) (acts : List FNum) : List FNum × List (Nat × Nat) :=
  match upset with
  | some (.feeder k m e) =>
    (match acts[k]? with
     | some (.fin neg m' e') =>
       let x := FNum.toDy (.fin neg m' e')
       let y := Dy.add x ⟨m, e⟩
       (acts.set k (FNum.ofDy false y), [(k, rhoSub (rho x) (rho y))])
     | _ => (acts, []))
  | _ => (acts, [])

/-- The block adds of one sweep at a slot: block `b` of column `j` meets the vector in cell (32b + 31, j) (R60, R61, R62). -/
def SlotOut.adds (o : SlotOut) (v : PassView) (tile : Tile) (w : Sweep) (t : Nat) (upset : Option ArrayUpset) : SlotOut :=
  let kt := modeRows o.pass.req.mode
  let A := (o.pass.anchors[w.phase]?).getD 0
  (List.range 8).foldl (fun o b => (List.range o.pass.req.width).foldl (fun (o : SlotOut) j =>
    let past := w.start + 32 * b + 32 + j
    if t < past || w.n ≤ t - past then o
    else
      let vl := t - past
      let vec := w.v0 + vl
      match o.pass.ins.find? (fun i => i.sweep == w.idx && i.v == vl) with
      | none => o
      | some i =>
        let key := partKey w.phase vec j
        let e := v.outIndex o.pass.req vec (w.phase * o.pass.req.width + j)
        let k0 := (o.pass.slice v.k w).1
        let one := fun (pt : Part × Bool) (bb : Nat) =>
          if i.acts.length ≤ 32 * bb then pt
          else
            let b' := 1 + ((v.wgt.originK + k0 + 32 * bb) / 32) % 2 ^ 20
            let r := pt.1.add v.seed v.out.tag A e b' (upsetSum upset bb j (scaledSum i.acts tile v.fb j bb))
            (r.1, pt.2 || r.2)
        let r := (if kt = 512 then [b, b + 8] else [b]).foldl one (o.pass.part w.phase vec j, false)
        let o1 := { o with pass := { o.pass with parts := Tab.set Part.zero o.pass.parts key r.1 } }
        if r.2 then o1.saturate v.strict t w.phase j else o1) o) o

/-- Partials that leave the tills of one sweep at a slot (R60): logged for the checks, and in a final sweep drained. -/
def SlotOut.exits (o : SlotOut) (w : Sweep) (t : Nat) (upset : Option ArrayUpset) : SlotOut :=
  let A := (o.pass.anchors[w.phase]?).getD 0
  (List.range o.pass.req.width).foldl (fun (o : SlotOut) j =>
    let past := w.start + 258 + j
    if t < past || w.n ≤ t - past then o
    else
      let vec := w.v0 + (t - past)
      let key := partKey w.phase vec j
      let pt0 := o.pass.part w.phase vec j
      let pt := (match upset with
        | some (.till c x) => if c = j then { pt0 with t := pt0.t + x } else pt0
        | _ => pt0)
      let lk := logKey w.idx (t - past) j
      { o with
        rows := if w.final && j + 1 == o.pass.req.width then o.rows ++ [(vec, w.phase)] else o.rows
        pass := { o.pass with parts := Tab.set Part.zero o.pass.parts key pt,
                              plog := Tab.set 0 o.pass.plog lk (pt.res A),
                              specials := if pt.special.isSome then o.pass.specials ++ [lk] else o.pass.specials } }) o

/-- The residue with which a partial started. -/
def Pass.pre (p : Pass) (phase vec col : Nat) : Nat := Tab.get 0 p.pres (partKey phase vec col)

/-- The sum of residues over a list. -/
def resSum {α : Type} (l : List α) (f : α → Nat) : Nat := l.foldl (fun a x => rhoAdd a (f x)) 0

/-- The error of a faulty check column (R88). -/
def upsetColumn : Option ArrayUpset → Nat
  | some (.checkColumn err) => err
  | _ => 0

/-- The error of a faulty check-row cell (R88). -/
def upsetRow (col : Nat) : Option ArrayUpset → Nat
  | some (.checkRow c err) => if c = col then err else 0
  | _ => 0

/-- The check column's comparison of a vector after a sweep (R86). -/
def Pass.columnOk (p : Pass) (v : PassView) (tiles : List (Nat × Tile)) (w : Sweep) (vl : Nat) (upset : Option ArrayUpset) : Bool :=
  let vec := w.v0 + vl
  let cols := List.range p.req.width
  let upTo := (List.range p.req.sweepCount).filter (fun i =>
    decide (i ≤ w.idx) && (if p.req.tiles = 1 then i == w.idx else i % p.req.ilv == w.phase))
  let start := resSum cols (fun j => p.pre w.phase vec j)
  let e := upTo.foldl (fun a i =>
    let sw := p.req.sweep p.s0 i
    match p.ins.find? (fun x => x.sweep == i && x.v == vl), (tiles.find? (fun x => x.1 == sw.tile)).map (·.2) with
    | some x, some tl => rhoAdd a (resSum x.acts.zipIdx (fun y =>
        rhoMul (rho y.1.toDy) (resSum cols (fun j => rho (tl.asRead.weight v.fb j y.2)))))
    | _, _ => a) start
  rhoAdd e (upsetColumn upset) == resSum cols (fun j => Tab.get 0 p.plog (logKey w.idx vl j))

/-- The check row's comparison of a column after a sweep (R87). -/
def Pass.rowOk (p : Pass) (v : PassView) (tl : Tile) (w : Sweep) (j : Nat) (upset : Option ArrayUpset) : Bool :=
  let vs := List.range w.n
  let sums := (List.range (p.slice v.k w).2).map (fun k =>
    resSum vs (fun vl => match p.ins.find? (fun x => x.sweep == w.idx && x.v == vl) with
      | some i => rhoAdd (rho ((i.acts[k]?.getD (.fin false 0 0)).toDy)) (((i.off.find? (·.1 == k)).map (·.2)).getD 0)
      | none => 0))
  let x := resSum sums.zipIdx (fun y => rhoMul y.1 (rho (tl.weight v.fb j y.2)))
  let now := resSum vs (fun vl => Tab.get 0 p.plog (logKey w.idx vl j))
  let before := if w.first then resSum vs (fun vl => p.pre w.phase (w.v0 + vl) j)
    else resSum vs (fun vl => Tab.get 0 p.plog (logKey (w.idx - p.req.ilv) vl j))
  rhoAdd x (upsetRow j upset) == rhoSub now before

/-- The checks of one sweep that fall at a slot (R86 to R89, R110 step 4), and the syndrome of one that fails (Table 3-6). DESIGN CHOICE:
where checks of two sweeps fail in one slot, R90 does not say which sweep the one syndrome names; each is a fault of its own, and the
earliest sweep's is reported (log 149). -/
def SlotOut.checks (o : SlotOut) (v : PassView) (split : Nat) (tiles : List (Nat × Tile)) (w : Sweep) (t : Nat)
    (upset : Option ArrayUpset) : SlotOut :=
  let p := o.pass
  let n := p.req.width
  let cAt := w.start + 258 + n
  let rAt := w.start + w.n + 258
  let colBad := decide (cAt ≤ t) && decide (t - cAt < w.n) && p.excluded.isEmpty
    && !((List.range n).any (fun j => p.specials.contains (logKey w.idx (t - cAt) j))) && !p.columnOk v tiles w (t - cAt) upset
  let j := t - rAt
  let rowBad := decide (rAt ≤ t) && decide (j < n) && !p.excluded.any (fun x => x.1 == j)
    && !((List.range w.n).any (fun vl => p.specials.contains (logKey w.idx vl j)))
    && (match (tiles.find? (fun x => x.1 == w.tile)).map (·.2) with
        | some tl => !p.rowOk v tl w j upset
        | none => false)
  if colBad || rowBad then
    let syn := b2n colBad + 2 * b2n rowBad + (split + 4 * w.phase) * 2 ^ 8 + (if colBad then t - cAt else 0) * 2 ^ 16
      + (if rowBad then j else 0) * 2 ^ 24 + w.round % 2 ^ 16 * 2 ^ 32 + p.req.num % 2 ^ 16 * 2 ^ 48
    { o with faults := o.faults ++ [(.checkMismatch, syn)] }
  else o

/-- The codes or till values of one drained row of a phase (R113, R114), with NONFINITE. -/
def Pass.drainRow (p : Pass) (v : PassView) (vec phase : Nat) : List Nat × List Wide × Bool :=
  let A := (p.anchors[phase]?).getD 0
  let dc := ((p.dctls[phase]?).getD 0).toNat
  let cols := List.range p.req.width
  if v.out.fmt.fam = .wide then ([], cols.map (fun j => (p.part phase vec j).wide (A + p.saExp)), false)
  else
    let md := (RMode.ofCode (bits dc 17 16)).getD .rne
    let osc := Elem.bf16.decode (dc % 2 ^ 16)
    let rs := cols.map (fun j =>
      drainCode v.out.fmt.el md (bit dc 18) v.seed v.out.tag (v.outIndex p.req vec (phase * p.req.width + j))
        ((p.part phase vec j).wide (A + p.saExp)).num osc)
    (rs.map (·.1), [], rs.any (·.2))

/-- Where the words of one drained row of a plain output go. -/
def PassView.rowAt (v : PassView) (q : PassReq) (vec phase : Nat) : Nat :=
  v.out.base + v.out.rowStart (v.out.coordsAt (vec * q.cols)) + phase * q.width * v.out.fmt.el.width / 32

end Sys2Proof.Machine
end

