-- ==== Sys2Proof/Machine/Scalar.lean ====
section
/-! DEFINITION. The scalar instructions of Table 5-7 that touch registers alone. -/

namespace Sys2Proof.Machine

/-- A three-register instruction: gD from gS1 and gS2. -/
def execBin (op : Nat) (fn : W64 → W64 → W64) (st : StallId) (cx : CtxId) (f : FmtA) (s : State) : Res :=
  let c := s.ctxOf st cx
  .next (s.issue st cx op f.gn f.gp (unused f.s3 && xOnly f.x 0) (gs [f.d, f.s1, f.s2])
    (s.retire st cx (fun x => x.setG f.d (fn (c.getG f.s1) (c.getG f.s2)))))

/-- NOP (R133). -/
def execNop (st : StallId) (cx : CtxId) (f : FmtA) (s : State) : Res :=
  .next (s.issue st cx 0x00 f.gn f.gp (unused f.d && unused f.s1 && unused f.s2 && unused f.s3 && xOnly f.x 0) []
    (s.retire st cx id))

/-- ADD: sum modulo 2^64. -/
def execAdd (st : StallId) (cx : CtxId) (f : FmtA) (s : State) : Res := execBin 0x01 (fun a b => a + b) st cx f s
/-- SUB: difference modulo 2^64. -/
def execSub (st : StallId) (cx : CtxId) (f : FmtA) (s : State) : Res := execBin 0x02 (fun a b => a - b) st cx f s
/-- MUL: low 64 bits of the product. -/
def execMul (st : StallId) (cx : CtxId) (f : FmtA) (s : State) : Res := execBin 0x03 (fun a b => a * b) st cx f s
/-- MULH: high 64 bits of the signed product. -/
def execMulh (st : StallId) (cx : CtxId) (f : FmtA) (s : State) : Res :=
  execBin 0x04 (fun a b => BitVec.ofInt 64 ((a.toInt * b.toInt).fdiv (2 ^ 64))) st cx f s
/-- AND. -/
def execAnd (st : StallId) (cx : CtxId) (f : FmtA) (s : State) : Res := execBin 0x05 (fun a b => a &&& b) st cx f s
/-- OR. -/
def execOr (st : StallId) (cx : CtxId) (f : FmtA) (s : State) : Res := execBin 0x06 (fun a b => a ||| b) st cx f s
/-- XOR. -/
def execXor (st : StallId) (cx : CtxId) (f : FmtA) (s : State) : Res := execBin 0x07 (fun a b => a ^^^ b) st cx f s

/-- The amount of a shift: X[5:0] where X[6] is 1, else gS2[5:0]. -/
def shiftAmount (c : Ctx) (f : FmtA) : Nat := if f.x.getLsbD 6 then f.x.toNat % 64 else (c.getG f.s2).toNat % 64

/-- A shift instruction. -/
def execShift (op : Nat) (fn : W64 → Nat → W64) (st : StallId) (cx : CtxId) (f : FmtA) (s : State) : Res :=
  let c := s.ctxOf st cx
  .next (s.issue st cx op f.gn f.gp (unused f.s3 && xOnly f.x 0x7F) (gs [f.d, f.s1, f.s2])
    (s.retire st cx (fun x => x.setG f.d (fn (c.getG f.s1) (shiftAmount c f)))))

/-- SHL. -/
def execShl (st : StallId) (cx : CtxId) (f : FmtA) (s : State) : Res := execShift 0x08 (fun a n => a <<< n) st cx f s
/-- SHR. -/
def execShr (st : StallId) (cx : CtxId) (f : FmtA) (s : State) : Res := execShift 0x09 (fun a n => a >>> n) st cx f s
/-- SAR. -/
def execSar (st : StallId) (cx : CtxId) (f : FmtA) (s : State) : Res := execShift 0x0A (fun a n => a.sshiftRight n) st cx f s

/-- ADDI: gD = gS1 + sign-extended X. -/
def execAddi (st : StallId) (cx : CtxId) (f : FmtA) (s : State) : Res :=
  let c := s.ctxOf st cx
  .next (s.issue st cx 0x0B f.gn f.gp (unused f.s2 && unused f.s3) (gs [f.d, f.s1])
    (s.retire st cx (fun x => x.setG f.d (c.getG f.s1 + sx f.x))))

/-- MOVI: gD = sign-extended I42; S1 must be 0. -/
def execMovi (st : StallId) (cx : CtxId) (f : FmtB) (s : State) : Res :=
  .next (s.issue st cx 0x0C f.gn f.gp (unused f.s1) (gs [f.d])
    (s.retire st cx (fun x => x.setG f.d (f.i.signExtend 64))))

/-- MOVH: gD = gS1[41:0] with bits [63:42] = I42[21:0]; I42[41:22] must be 0. -/
def execMovh (st : StallId) (cx : CtxId) (f : FmtB) (s : State) : Res :=
  let c := s.ctxOf st cx
  .next (s.issue st cx 0x0D f.gn f.gp (f.i >>> 22 == 0) (gs [f.d, f.s1])
    (s.retire st cx (fun x => x.setG f.d
      (BitVec.ofNat 64 ((c.getG f.s1).toNat % 2 ^ 42 + f.i.toNat % 2 ^ 22 * 2 ^ 42)))))

/-- CMP: pD = the condition X[2:0] of gS1 and gS2. -/
def execCmp (st : StallId) (cx : CtxId) (f : FmtA) (s : State) : Res :=
  let c := s.ctxOf st cx
  .next (s.issue st cx 0x0E f.gn f.gp (inFile f.d 8 && unused f.s3 && xOnly f.x 7) (gs [f.s1, f.s2])
    (match scalarCond (f.x.toNat % 8) (c.getG f.s1) (c.getG f.s2) with
     | some b => s.retire st cx (fun x => x.setP f.d b)
     | none => s.badProgram st cx 0x0E))

/-- CMPI: as CMP against sign-extended X; the S2 field holds the condition. -/
def execCmpi (st : StallId) (cx : CtxId) (f : FmtA) (s : State) : Res :=
  let c := s.ctxOf st cx
  .next (s.issue st cx 0x0F f.gn f.gp (inFile f.d 8 && inFile f.s2 8 && unused f.s3) (gs [f.s1])
    (match scalarCond f.s2 (c.getG f.s1) (sx f.x) with
     | some b => s.retire st cx (fun x => x.setP f.d b)
     | none => s.badProgram st cx 0x0F))

/-- PLOG: pD = pS1 op pS2. -/
def execPlog (st : StallId) (cx : CtxId) (f : FmtA) (s : State) : Res :=
  let c := s.ctxOf st cx
  .next (s.issue st cx 0x10 f.gn f.gp (inFile f.d 8 && inFile f.s1 8 && inFile f.s2 8 && unused f.s3 && xOnly f.x 3) []
    (s.retire st cx (fun x => x.setP f.d (predOp (f.x.toNat % 4) (c.getP f.s1) (c.getP f.s2)))))

/-- MOVA: aD = gS1 + sign-extended X. -/
def execMova (st : StallId) (cx : CtxId) (f : FmtA) (s : State) : Res :=
  let c := s.ctxOf st cx
  .next (s.issue st cx 0x11 f.gn f.gp (inFile f.d 16 && unused f.s2 && unused f.s3) (gs [f.s1])
    (s.retire st cx (fun x => x.setA f.d (c.getG f.s1 + sx f.x))))

/-- MOVG: gD = aS1. -/
def execMovg (st : StallId) (cx : CtxId) (f : FmtA) (s : State) : Res :=
  let c := s.ctxOf st cx
  .next (s.issue st cx 0x12 f.gn f.gp (inFile f.s1 16 && unused f.s2 && unused f.s3 && xOnly f.x 0) (gs [f.d])
    (s.retire st cx (fun x => x.setG f.d (c.getA f.s1))))

/-- FLAGS: gD = TILL_SAT and NONFINITE as raised so far for this instance. -/
def execFlags (st : StallId) (cx : CtxId) (f : FmtA) (s : State) : Res :=
  .next (s.issue st cx 0x17 f.gn f.gp (unused f.s1 && unused f.s2 && unused f.s3 && xOnly f.x 0) (gs [f.d])
    (s.retire st cx (fun x => x.setG f.d x.flagWord)))

/-- TIME: gD = FK time in ns (R391). -/
def execTime (st : StallId) (cx : CtxId) (f : FmtA) (s : State) : Res :=
  .next (s.issue st cx 0xA1 f.gn f.gp (unused f.s1 && unused f.s2 && unused f.s3 && xOnly f.x 0) (gs [f.d])
    (s.afterNow.retire st cx (fun x => x.setG f.d s.now)))

/-- CYC: gD = cycles since the instance started; the count never falls, and by how much it grows is free (R121). -/
def execCyc (st : StallId) (cx : CtxId) (f : FmtA) (s : State) : Res :=
  let n := (s.ctxOf st cx).cyc + BitVec.ofNat 64 (Config.cycles s.free)
  .next (s.issue st cx 0xA2 f.gn f.gp (unused f.s1 && unused f.s2 && unused f.s3 && xOnly f.x 0) (gs [f.d])
    (s.afterAny.retire st cx (fun x => { x with cyc := n }.setG f.d n)))

/-- MARK: a program-marker record with payload gS1 to the pitch's Daybook (R407). -/
def execMark (st : StallId) (cx : CtxId) (f : FmtA) (s : State) : Res :=
  let c := s.ctxOf st cx
  .next (s.issue st cx 0xA0 f.gn f.gp (unused f.d && unused f.s2 && unused f.s3 && xOnly f.x 0) (gs [f.s1])
    (match s.launch? c.launch with
     | some l => (s.postDbk [l.pitch] .mark (srcCtx st cx) 0x09
         (leBytes 8 (c.getG f.s1).toNat ++ leBytes 2 l.sq ++ leBytes 2 0 ++ leBytes 4 l.hseq.toNat)).retire st cx id
     | none => s))

end Sys2Proof.Machine
end

