-- ==== Sys2Proof/Machine/TensorOps.lean ====
section
/-! DEFINITION. The posted tensor operations of the vector unit: VSCA, VSCF, VWADD, VWCVT, VWANC, VCVTT and their completion
(spec 02 R50 to R52, 04 R116, R118, 05 Table 5-10, R134, R141). -/

namespace Sys2Proof.Machine

/-! ### Issue -/

/-- Whether a launch in a context holds a split (Table 5-9). -/
def State.holdsSplit (s : State) (st c sp : Nat) : Bool :=
  match s.launch? (s.ctxOf st c).launch with
  | some l => l.holds st sp
  | none => false

/-- Whether a descriptor names a bay tensor that keeps inside its bay. -/
def TDesc.inBay (d : TDesc) : Bool := d.loc == 1 && d.fits

/-- The operation put into the context's tensor queue of four (R134, R145): it waits where the queue is full, and ends its
launch where its rows have no cover. -/
def State.postVec (s : State) (st c op : Nat) (v : VecOp) (fn : Ctx → Ctx) : State :=
  if 4 ≤ (s.ctxOf st c).vecq.length then s
  else match s.cover st c .vec v.rows with
    | .missing => s.badProgram st c op
    | _ => s.tickSerial.retire st c (fun x => fn { x with vecq := x.vecq ++ [{ v with serial := s.serial }] })

/-- An operation before it is numbered. -/
def Ctx.vecOp (c : Ctx) (kind : VecKind) (d s1 s2 : BitVec 512) (reg : Nat) (rows : List Rows) : VecOp :=
  { serial := 0, pc := c.pc, kind := kind, d := d, s1 := s1, s2 := s2, reg := reg, rows := rows }

/-- VSCA: gD = s_a of tS1; X[2] writes it to the activation-scale register of split X[1:0] too. -/
def execVsca (st : StallId) (cx : CtxId) (f : FmtA) (s : State) : Res :=
  let c := s.ctxOf st cx
  let x := f.x.toNat
  let t := c.getT f.s1
  .next (s.issue st cx 0x68 f.gn f.gp (inFile f.s1 16 && unused f.s2 && unused f.s3 && xOnly f.x 7) (gs [f.d] ++ ts [f.s1])
    (match s.tensor st cx t with
     | some d =>
       if !d.inBay || d.fmt.fam != .plain || (d.fmt.el != .bf16 && d.fmt.el != .fp32) || (bit x 2 && !s.holdsSplit st cx (x % 4))
       then s.badProgram st cx 0x68
       else s.postVec st cx 0x68 (c.vecOp (.vsca (if bit x 2 then some (x % 4) else none)) 0 t 0 f.d (d.rows st))
         (fun c => if f.d = 0 then c else c.await (.g f.d))
     | none => s.badProgram st cx 0x68))

/-- VSCF: the scale finder; the register that the S2 field names receives the ceiling. -/
def execVscf (st : StallId) (cx : CtxId) (f : FmtA) (s : State) : Res :=
  let c := s.ctxOf st cx
  let td := c.getT f.d
  let t := c.getT f.s1
  .next (s.issue st cx 0x69 f.gn f.gp (inFile f.d 16 && inFile f.s1 16 && unused f.s3 && xOnly f.x 3)
    (gs [f.s2] ++ ts [f.d, f.s1])
    (match s.tensor st cx td, s.tensor st cx t, RMode.ofCode (f.x.toNat % 4) with
     | some d, some e, some md =>
       if !d.inBay || !e.inBay || d.fmt.fam != .fb || e.fmt.fam != .plain || (e.fmt.el != .bf16 && e.fmt.el != .fp32)
          || d.count != e.count || d.extent 0 != e.extent e.raxis
       then s.badProgram st cx 0x69
       else s.postVec st cx 0x69 (c.vecOp (.vscf md f.s2) td t 0 f.s2 (d.rows st ++ e.rows st))
         (fun c => if f.s2 = 0 then c else c.await (.g f.s2))
     | _, _, _ => s.badProgram st cx 0x69))

/-- VWADD: the wide add, element by element. -/
def execVwadd (st : StallId) (cx : CtxId) (f : FmtA) (s : State) : Res :=
  let c := s.ctxOf st cx
  .next (s.issue st cx 0x6A f.gn f.gp (inFile f.d 16 && inFile f.s1 16 && inFile f.s2 16 && unused f.s3 && xOnly f.x 0)
    (ts [f.d, f.s1, f.s2])
    (match s.tensor st cx (c.getT f.d), s.tensor st cx (c.getT f.s1), s.tensor st cx (c.getT f.s2) with
     | some d, some a, some b =>
       if !d.inBay || !a.inBay || !b.inBay || d.fmt.fam != .wide || a.fmt.fam != .wide || b.fmt.fam != .wide
          || a.count != d.count || b.count != d.count
       then s.badProgram st cx 0x6A
       else s.postVec st cx 0x6A (c.vecOp .vwadd (c.getT f.d) (c.getT f.s1) (c.getT f.s2) 0 (d.rows st ++ a.rows st ++ b.rows st)) id
     | _, _, _ => s.badProgram st cx 0x6A))

/-- The formats of a drain (R113). -/
def drains (f : Fmt) : Bool := f.fam == .wide || (f.fam == .plain && f.el != .fp32)

/-- VWCVT: wide-convert with OSCALE gS2[15:0], DRND X[1:0], DOVF X[2]; a WIDE destination needs OSCALE 1.0 (R118). -/
def execVwcvt (st : StallId) (cx : CtxId) (f : FmtA) (s : State) : Res :=
  let c := s.ctxOf st cx
  let x := f.x.toNat
  let osc : Half := (c.getG f.s2).truncate 16
  .next (s.issue st cx 0x6B f.gn f.gp (inFile f.d 16 && inFile f.s1 16 && unused f.s3 && xOnly f.x 7)
    (gs [f.s2] ++ ts [f.d, f.s1])
    (match s.tensor st cx (c.getT f.d), s.tensor st cx (c.getT f.s1) with
     | some d, some a =>
       let wide := d.fmt.fam == .wide
       match (if wide then some .rne else RMode.ofCode (x % 4)) with
       | none => s.badProgram st cx 0x6B
       | some md =>
         if !d.inBay || !a.inBay || a.fmt.fam != .wide || !drains d.fmt || a.count != d.count || (wide && osc != 0x3F80#16)
         then s.badProgram st cx 0x6B
         else s.postVec st cx 0x6B (c.vecOp (.vwcvt osc md (bit x 2)) (c.getT f.d) (c.getT f.s1) 0 0 (d.rows st ++ a.rows st)) id
     | _, _ => s.badProgram st cx 0x6B))

/-- VWANC: INT32 lane i of vS1 added to every anchor of row i. -/
def execVwanc (st : StallId) (cx : CtxId) (f : FmtA) (s : State) : Res :=
  let c := s.ctxOf st cx
  .next (s.issue st cx 0x6C f.gn f.gp (inFile f.d 16 && inFile f.s1 16 && unused f.s2 && unused f.s3 && xOnly f.x 0) (ts [f.d])
    (match s.tensor st cx (c.getT f.d) with
     | some d =>
       if !d.inBay || d.fmt.fam != .wide || 256 < d.rowCount then s.badProgram st cx 0x6C
       else s.postVec st cx 0x6C (c.vecOp (.vwanc (c.getV f.s1).toList) (c.getT f.d) 0 0 0 (d.rows st)) id
     | none => s.badProgram st cx 0x6C))

/-- VCVTT: element-wise conversion between unscaled plain formats. -/
def execVcvtt (st : StallId) (cx : CtxId) (f : FmtA) (s : State) : Res :=
  let c := s.ctxOf st cx
  let x := f.x.toNat
  .next (s.issue st cx 0x6D f.gn f.gp (inFile f.d 16 && inFile f.s1 16 && unused f.s2 && unused f.s3 && xOnly f.x 7)
    (ts [f.d, f.s1])
    (match s.tensor st cx (c.getT f.d), s.tensor st cx (c.getT f.s1), RMode.ofCode (x % 4) with
     | some d, some a, some md =>
       if !d.inBay || !a.inBay || a.fmt.fam != .plain || d.fmt.fam != .plain || a.count != d.count
       then s.badProgram st cx 0x6D
       else s.postVec st cx 0x6D (c.vecOp (.vcvtt md (bit x 2)) (c.getT f.d) (c.getT f.s1) 0 0 (d.rows st ++ a.rows st)) id
     | _, _, _ => s.badProgram st cx 0x6D))

/-! ### What the operations compute -/

/-- The largest finite magnitude of a list. -/
def amax (xs : List FNum) : Dy :=
  xs.foldl (fun m x => match x with
    | .fin _ _ _ => if Dy.lt m x.toDy.abs then x.toDy.abs else m
    | _ => m) Dy.zero

/-- `⌈log2(a / b)⌉` of positive values. -/
def clogRatio (a b : Dy) : Int :=
  let k := a.log2 - b.log2
  if Dy.le a (b.scale (k - 1)) then k - 1 else if Dy.le a (b.scale k) then k else k + 1

/-- The activation scale of a tile (R52): its BF16 code. -/
def actScale (xs : List FNum) : Half :=
  let m := amax xs
  if m.m = 0 then 0x3F80#16 else bf16Pow2 (max (-133) (clogRatio m (Elem.fp8e4m3.emax)))

/-- A slab's scale as an exponent, none for +0 (R50 steps 1, 2). -/
def slabExp (el : Elem) (xs : List FNum) : Option Int :=
  let m := amax xs
  if m.m = 0 then none else some (max (-133) (clogRatio m el.emax - 16))

/-- One element under a block scale and a slab exponent (R50 step 4, R51): its code and NONFINITE. DESIGN CHOICE: in a slab whose
amax_s is 0, R50 step 1 makes every element zero while R51 encodes NaN and Inf; R51 is followed for them (log 145). -/
def scaleCode (el : Elem) (md : RMode) (r : Nat) (bscale : Nat) (k : Option Int) (x : FNum) : Nat × Bool :=
  match x with
  | .fin neg m e =>
    match k with
    | some k => if bscale = 0 then (0, false)
        else el.encode md false r (FNum.ofDy false (Dy.ovr (FNum.fin neg m e).toDy ((ue5m3 bscale).scale k)))
    | none => (0, false)
  | _ => match el, x with
    | .fp8e4m3, _ => (0x7F, true)
    | .fp8e5m2, _ => (0x7E, true)
    | _, .nan => (0, true)
    | _, v => ((el.encode md false r v).1, true)

/-- A block's scale code (R50 step 3). -/
def blockScale (el : Elem) (k : Option Int) (xs : List FNum) : Nat :=
  let m := amax xs
  match k with
  | some k => if m.m = 0 then 0 else ue5m3AtLeast m (el.emax.scale k)
  | none => 0

/-- One slab: its slab exponent, block scales, codes, NONFINITE. `base` is the stream index of its first element. -/
def scaleSlab (el : Elem) (md : RMode) (seed : W64) (tag : Half) (base : Nat) (xs : List FNum) :
    Option Int × List Nat × List (Nat × Bool) :=
  let k := slabExp el xs
  let bs := (chunksOf 32 xs).map (blockScale el k)
  (k, bs, (xs.zipIdx).map (fun x => scaleCode el md (srBits seed tag (base + x.2)) (bs[x.2 / 32]?.getD 0) k x.1))

/-- The scale finder (R50): the parts of the FB tensor, the largest slab exponent, NONFINITE. `xs` is in the destination's
stream order, padding as zero. -/
def scaleFind (el : Elem) (md : RMode) (seed : W64) (tag : Half) (xs : List FNum) : FbParts × Option Int × Bool :=
  let slabs := ((chunksOf 512 xs).zipIdx).map (fun x => scaleSlab el md seed tag (512 * x.2) x.1)
  let cs := slabs.flatMap (fun x => x.2.2)
  ({ codes := cs.map (·.1), bscales := slabs.flatMap (fun x => x.2.1),
     slabs := slabs.map (fun x => match x.1 with
       | some k => bf16Pow2 k
       | none => 0) },
   slabs.foldl (fun m x => match m, x.1 with
     | some a, some b => some (max a b)
     | none, b => b
     | a, none => a) none,
   cs.any (·.2))

/-- The elements of a source in the padded stream order of an FB destination (R38, R39). -/
def TDesc.padTo (d : TDesc) (xs : List FNum) : List FNum :=
  (chunksOf (d.extent 0) xs).flatMap (fun row => row ++ List.replicate (d.kp - d.extent 0) (.fin false 0 0))

/-! ### Completion -/

/-- Reads by the vector unit: the words of each span of a descriptor, or the end of the launch on poison. -/
def State.vecLoad (s : State) (st c : Nat) (ups : List (Nat × BitVec 39)) (d : TDesc)
    (k : State → List (List W32) → State) : State :=
  let r := (s.upsetOnly st ups (d.spans.flatMap (fun x => (List.range x.2).map (x.1 + ·)))).readSpans st d.spans
  match r.2.2 with
  | none => k r.1 r.2.1
  | some a => r.1.poisonFault (s.ctxOf st c).launch (srcStall st) (some st) 0x03 0 1 0 a

/-- A saturation in the wide adder or VWANC (R107, R116, R141): TILL_SAT, and under STRICT_OVF the launch ends with nothing
written. -/
def State.vecSat (s : State) (st c : Nat) (op : VecOp) (col : Option Nat) (k : State → State) : State :=
  match col with
  | none => k s
  | some col =>
    let s1 := s.raiseFlags st c true false
    let l := (s.ctxOf st c).launch
    match s.launch? l with
    | some x =>
      if x.strictOvf then
        s1.contextFault l (srcStall st) (some st) .tillOverflow 0x03 0 (op.pc.toNat % 2 ^ 32 + col % 2 ^ 16 * 2 ^ 32) 0
      else k s1
    | none => s1

/-- The values of a plain tensor's elements in stream order. -/
def TDesc.plainVals (d : TDesc) (rows : List (List W32)) : List FNum :=
  d.inStream (.fin false 0 0) ((d.plainCodes rows).map d.fmt.el.decode)

/-- Cycles of an operation over `n` elements (Table 5-10). -/
def VecKind.cycles (k : VecKind) (n : Nat) : Nat :=
  match k with
  | .vsca _ => ceilDiv n 256 + 8
  | .vscf _ _ => 2 * ceilDiv n 256 + 16
  | .vwadd => ceilDiv n 32 + 8
  | .vwcvt _ _ _ => ceilDiv n 32 + 8
  | .vwanc _ => ceilDiv n 512 + 4
  | .vcvtt _ _ => ceilDiv n 256 + 8

/-- The opcode of an operation (Table 5-10). -/
def VecKind.op (k : VecKind) : Nat :=
  match k with
  | .vsca _ => 0x68
  | .vscf _ _ => 0x69
  | .vwadd => 0x6A
  | .vwcvt _ _ _ => 0x6B
  | .vwanc _ => 0x6C
  | .vcvtt _ _ => 0x6D

/-- An operation done: it leaves the queue, its cycles count, its register arrives. -/
def State.vecDone (s : State) (st c n : Nat) (op : VecOp) (reg : Option W64) : State :=
  (s.modCtx st c (fun x =>
    let y := { x with vecq := x.vecq.drop 1, progress := x.progress + 1 }
    match reg with
    | some v => { y.setG op.reg v with pend := y.pend.erase (.g op.reg) }
    | none => y)).modStall st (fun x => { x with vec := x.vec + BitVec.ofNat 64 (op.kind.cycles n) })

/-- A list's first saturated element, as its index. -/
def firstSat (l : List (Wide × Bool)) : Option Nat := l.findIdx? (fun x => x.2)

/-- The state after an operation has written its last element. DESIGN CHOICE: where the reduction axes of its operands and its destination
differ, elements correspond by their stream index, which R116 and Table 5-10 call the element's index (log 152). -/
def State.vecFinish (s : State) (st c : Nat) (op : VecOp) (ups : List (Nat × BitVec 39)) : State :=
  let l := (s.ctxOf st c).launch
  let seed := ((s.launch? l).map (fun x => x.seed)).getD 0
  let part := fun (ls : List (List W32)) i => ls[i]?.getD []
  match op.kind, s.tensor st c op.d, s.tensor st c op.s1, s.tensor st c op.s2 with
  | .vsca sp, _, some a, _ =>
    s.vecLoad st c ups a (fun s ws =>
      let code := actScale (a.plainVals ws)
      let s1 := (match sp with
        | some k => s.modSplit st k (fun x => { x with ascl := code })
        | none => s)
      s1.vecDone st c a.count op (some (code.zeroExtend 64)))
  | .vscf md _, some d, some a, _ =>
    s.vecLoad st c ups a (fun s ws =>
      let r := scaleFind d.fmt.el md seed d.tag (d.padTo (a.plainVals ws))
      let ceil : W64 := (match r.2.1 with
        | some k => BitVec.ofInt 64 (k + 16)
        | none => Config.zeroCeil op.d op.s1)
      ((s.raiseFlags st c false r.2.2).writeFb st d r.1).vecDone st c a.count op (some ceil))
  | .vwadd, some d, some a, some b =>
    s.vecLoad st c ups a (fun s wa => s.vecLoad st c ups b (fun s wb =>
      let xs := a.wides (part wa 0) (part wa 1)
      let ys := b.wides (part wb 0) (part wb 1)
      let rs := ((xs.zip ys).zipIdx).map (fun z => Wide.add seed d.tag z.2 z.1.1 z.1.2)
      s.vecSat st c op ((firstSat rs).map (fun i => (d.coords i)[0]?.getD 0)) (fun s =>
        (s.writeWide st d (rs.map (·.1))).vecDone st c d.count op none)))
  | .vwcvt osc md nonsat, some d, some a, _ =>
    s.vecLoad st c ups a (fun s wa =>
      let xs := a.wides (part wa 0) (part wa 1)
      if d.fmt.fam = .wide then (s.writeWide st d xs).vecDone st c a.count op none
      else
        let rs := (xs.zipIdx).map (fun z => drainCode d.fmt.el md nonsat seed d.tag z.2 z.1.num (Elem.bf16.decode osc.toNat))
        ((s.raiseFlags st c false (rs.any (·.2))).writePlain st d (d.inCoords 0 (rs.map (·.1)))).vecDone st c a.count op none)
  | .vwanc lanes, some d, _, _ =>
    s.vecLoad st c ups d (fun s wd =>
      let xs := d.wides (part wd 0) (part wd 1)
      let rs := (xs.zipIdx).map (fun z => z.1.shiftAnchor ((lanes[d.rowOf (d.coords z.2)]?.getD 0).toInt))
      s.vecSat st c op ((firstSat rs).map (fun i => (d.coords i)[0]?.getD 0)) (fun s =>
        (s.writeWide st d (rs.map (·.1))).vecDone st c d.count op none))
  | .vcvtt md nonsat, some d, some a, _ =>
    s.vecLoad st c ups a (fun s wa =>
      let rs := ((a.plainVals wa).zipIdx).map (fun z => d.fmt.el.encode md nonsat (srBits seed d.tag z.2) z.1)
      ((s.raiseFlags st c false (rs.any (·.2))).writePlain st d (d.inCoords 0 (rs.map (·.1)))).vecDone st c a.count op none)
  | _, _, _, _ => s

/-- TENSOR_OPERATION_COMPLETE: the oldest posted operation of a context, once its tokens cover its rows (R145), writes its last
element (R134). -/
def execTensorOperationComplete (st : StallId) (cx : CtxId) (ups : List (Nat × BitVec 39)) (s : State) : Res :=
  .next (match (s.ctxOf st cx).vecq with
    | op :: _ =>
      (match s.cover st cx .vec op.rows with
       | .held => s.vecFinish st cx op ups
       | .pending => s
       | .missing => s.contextFault (s.ctxOf st cx).launch (srcCtx st cx) (some st) .badProgram 0x02 cx
          (op.pc.toNat % 2 ^ 32 + op.kind.op * 2 ^ 32) 0)
    | [] => s)

end Sys2Proof.Machine
end

