-- ==== Sys2Proof/Machine/Tokens.lean ====
section
/-! DEFINITION. Bay tokens and the waits of a context: TKACQ, TKTRY, TKPASS, TKREL, TKWAIT, WAITU, MFEN (spec 05 R134, R135,
R143 to R146). -/

namespace Sys2Proof.Machine

/-- The client of a code (Table 5-13); the others are reserved. -/
def Client.ofCode (code : Nat) : Option Client :=
  if code = 0 then some .seq
  else if code = 1 then some .vec
  else if 4 ≤ code ∧ code < 8 then some (.feed (code - 4))
  else if 8 ≤ code ∧ code < 12 then some (.drain (code - 8))
  else if 16 ≤ code ∧ code < 24 then some (.port (code - 16))
  else none

/-- The code of a client. -/
def Client.code : Client → Nat
  | .seq => 0 | .vec => 1 | .feed s => 4 + s | .drain s => 8 + s | .port c => 16 + c

/-- Whether a client belongs to a launch on a stall: the splits that it names are held (R143, R144). -/
def Launch.owns (l : Launch) (st : Nat) : Client → Bool
  | .feed s => l.holds st s
  | .drain s => l.holds st s
  | _ => true

/-- Whether a client is a Porter channel. -/
def Client.isPort : Client → Bool
  | .port _ => true
  | _ => false

/-- A token by its handle in a context (R143, R144). -/
def State.tokenOf (s : State) (st c k : Nat) : Option Token :=
  s.tokens.find? (fun t => t.stall == st && t.ctx == c && t.handle == k && t.launch == (s.ctxOf st c).launch)

/-- Whether a launch's allotment on a stall holds rows of a bay (R143, R329). -/
def Launch.allots (l : Launch) (st : Nat) (r : Rows) : Bool :=
  (l.splitsOn st).isSome && (match (l.rows[r.bay]?).getD none with
    | some (f, la) => decide (f ≤ r.first) && decide (r.last ≤ la)
    | none => false)

/-- Whether a token could be granted now: no token of the bay overlaps its rows and its table has a free entry (R143). -/
def State.grantable (s : State) (r : Rows) : Bool :=
  !s.tokens.any (fun t => t.rows.overlaps r)
    && decide ((s.tokens.filter (fun t => t.rows.stall == r.stall && t.rows.bay == r.bay)).length < 16)

/-- The request of a TKACQ or TKTRY, or none where it ends the launch (R143). -/
def State.tokRequest (s : State) (st c : Nat) (f : FmtA) : Option TokReq :=
  let x := s.ctxOf st c
  let v := f.x.toNat
  let first := (x.getG f.s1).toNat
  let last := (x.getG f.s2).toNat
  let remote := bit v 14
  let r : Rows := { stall := if remote then bits v 21 16 else st, bay := v % 4, first := first, last := last }
  match s.launch? x.launch, Client.ofCode (bits v 7 3) with
  | some l, some k =>
    let used := (s.tokenOf st c f.d).isSome
    let rows := if remote then r.stall != st && (s.stallsOf l.pitch).contains r.stall && k.isPort
        && s.fe.launches.any (fun e => e.2.pitch == l.pitch && e.2.allots r.stall r)
      else l.allots st r
    let clash := s.tokens.any (fun t => t.launch == x.launch && t.rows.overlaps r && t.deferred.isEmpty)
    if used || decide (last < first) || decide (3071 < last) || !rows || !l.owns st k || clash then none
    else some { rows := r, client := k, stall := st, ctx := c, handle := f.d, launch := x.launch }
  | _, _ => none

/-- The state with a request granted. -/
def State.grant (s : State) (q : TokReq) : State :=
  { s with tokens := s.tokens ++
      [{ rows := q.rows, client := q.client, stall := q.stall, ctx := q.ctx, handle := q.handle, launch := q.launch, deferred := [] }] }

/-- Whether a request must give way to one that has waited longer and could be granted (R146). -/
def State.outranked (s : State) (older : List TokReq) (q : TokReq) : Bool :=
  older.any (fun o => o.rows.stall == q.rows.stall && o.rows.bay == q.rows.bay && s.grantable o.rows)

/-- Encoding of TKACQ and TKTRY but for S3. -/
def tokEnc (f : FmtA) : Bool := inFile f.d 16 && xOnly f.x 0x3F40FB

/-- TKACQ: granted at once where it can be, else the context waits for TOKEN_GRANT. -/
def execTkacq (st : StallId) (cx : CtxId) (f : FmtA) (s : State) : Res :=
  .next (s.issue st cx 0x90 f.gn f.gp (tokEnc f && unused f.s3) (gs [f.s1, f.s2])
    (match s.tokRequest st cx f with
     | none => s.badProgram st cx 0x90
     | some q =>
       if s.grantable q.rows && !s.outranked s.tokReqs q then (s.grant q).retire st cx id
       else { s with tokReqs := s.tokReqs ++ [q] }.modCtx st cx (fun c => { c with wait := .token })))

/-- TKTRY: as TKACQ without waiting; pS3 tells whether it was granted. -/
def execTktry (st : StallId) (cx : CtxId) (f : FmtA) (s : State) : Res :=
  .next (s.issue st cx 0x91 f.gn f.gp (tokEnc f && inFile f.s3 8) (gs [f.s1, f.s2])
    (match s.tokRequest st cx f with
     | none => s.badProgram st cx 0x91
     | some q =>
       if s.grantable q.rows && !s.outranked s.tokReqs q then (s.grant q).retire st cx (fun c => c.setP f.s3 true)
       else s.retire st cx (fun c => c.setP f.s3 false)))

/-- Whether a token has a release pending. -/
def Token.released (t : Token) : Bool := t.deferred.any (fun d => d.tgt.isNone)

/-- The state with a deferred action issued on a handle (R144). -/
def State.defer (s : State) (st c k : Nat) (tgt : Option Client) : State :=
  { s with tokens := s.tokens.map (fun (t : Token) =>
      if t.stall = st ∧ t.ctx = c ∧ t.handle = k ∧ t.launch = (s.ctxOf st c).launch then
        { t with deferred := t.deferred ++ [Deferred.mk s.serial tgt] } else t) }.tickSerial

/-- TKPASS: a deferred hand-over (R144); the client of a remote token is a Porter channel (R143). -/
def execTkpass (st : StallId) (cx : CtxId) (f : FmtA) (s : State) : Res :=
  .next (s.issue st cx 0x92 f.gn f.gp (inFile f.d 16 && unused f.s1 && unused f.s2 && unused f.s3 && xOnly f.x 0x1F) []
    (match s.tokenOf st cx f.d, Client.ofCode (f.x.toNat % 32), s.launch? (s.ctxOf st cx).launch with
     | some t, some k, some l =>
       if t.released || !l.owns st k || (t.rows.stall != st.val && !k.isPort) then s.badProgram st cx 0x92 else (s.defer st cx f.d (some k)).retire st cx id
     | _, _, _ => s.badProgram st cx 0x92))

/-- TKREL: a deferred release. -/
def execTkrel (st : StallId) (cx : CtxId) (f : FmtA) (s : State) : Res :=
  .next (s.issue st cx 0x93 f.gn f.gp (inFile f.d 16 && unused f.s1 && unused f.s2 && unused f.s3 && xOnly f.x 0) []
    (match s.tokenOf st cx f.d with
     | some t => if t.released then s.badProgram st cx 0x93 else (s.defer st cx f.d none).retire st cx id
     | none => s.badProgram st cx 0x93))

/-- Whether a handle has a deferred action pending. -/
def State.handleBusy (s : State) (st c k : Nat) : Bool :=
  match s.tokenOf st c k with
  | some t => !t.deferred.isEmpty
  | none => false

/-- TKWAIT: waits until every deferred action on a handle has taken effect. -/
def execTkwait (st : StallId) (cx : CtxId) (f : FmtA) (s : State) : Res :=
  .next (s.issue st cx 0x94 f.gn f.gp (inFile f.d 16 && unused f.s1 && unused f.s2 && unused f.s3 && xOnly f.x 0) []
    (if s.handleBusy st cx f.d then s.modCtx st cx (fun c => { c with wait := .handle f.d }) else s.retire st cx id))

/-! ### Counts of outstanding operations (R134) -/

/-- Passes of a context that no release has completed. -/
def State.passCount (s : State) (st c : Nat) : Nat :=
  ((List.range 4).map (fun k =>
    let x := s.splitOf st k
    ((x.waiting.filter (fun p => p.ctx == c)).length) + (x.flight.filter (fun p => p.req.ctx == c)).length)).foldl (· + ·) 0

/-- Transfers of a context on a channel. -/
def State.xferCount (s : State) (st c ch : Nat) : Nat :=
  ((s.chanOf st ch).xfers.filter (fun x => x.ctx == c)).length

/-- The outstanding count of a unit code; none for a reserved code (Table 5-6). -/
def State.unitCount (s : State) (st c code : Nat) : Option Nat :=
  if code = 0 then some (s.passCount st c)
  else if code = 1 then some (s.ctxOf st c).vecq.length
  else if code = 2 then some (s.memCount st c)
  else if 8 ≤ code ∧ code < 16 then some (s.xferCount st c (code - 8))
  else none

/-- WAITU: waits until a unit's count is at most X[15:8]. -/
def execWaitu (st : StallId) (cx : CtxId) (f : FmtA) (s : State) : Res :=
  let code := f.x.toNat % 32
  let limit := bits f.x.toNat 15 8
  .next (s.issue st cx 0x87 f.gn f.gp (unused f.d && unused f.s1 && unused f.s2 && unused f.s3 && xOnly f.x 0xFF1F) []
    (match s.unitCount st cx code with
     | none => s.badProgram st cx 0x87
     | some n =>
       if n ≤ limit then s.retire st cx id
       else s.modCtx st cx (fun c => { c with wait := .unit code limit })))

/-- Whether a context has a write issued before a point that is not yet visible chip-wide: a store or atomic that no
controller has performed, or a Porter transfer into device memory (R135). -/
def State.writesBefore (s : State) (st c serial : Nat) : Bool :=
  let l := (s.ctxOf st c).launch
  s.mem.reqs.any (fun r => decide (r.id < serial) && r.served.isNone && (match r.client, r.kind with
    | .ctx st' c' l', .store _ => st' == st && c' == c && l' == l
    | .ctx st' c' l', .atom _ _ _ _ => st' == st && c' == c && l' == l
    | _, _ => false))
  || (List.range 8).any (fun ch => (s.chanOf st ch).xfers.any (fun x =>
      x.ctx == c && decide (x.serial < serial) && (x.kind == .atens || (x.kind != .send && tdf x.d 6 1 == 0))))

/-- MFEN: waits until every earlier write of the context is visible to every client of the chip. -/
def execMfen (st : StallId) (cx : CtxId) (f : FmtA) (s : State) : Res :=
  .next (s.issue st cx 0x9F f.gn f.gp (unused f.d && unused f.s1 && unused f.s2 && unused f.s3 && xOnly f.x 0) []
    (if s.writesBefore st cx s.serial then s.tickSerial.modCtx st cx (fun c => { c with wait := .fence s.serial })
     else s.retire st cx id))

end Sys2Proof.Machine
end

