-- ==== Sys2Proof/Machine/Sfu.lean ====
section
/-! DEFINITION. The special functions of the vector unit (spec 05 R140, R141, Table 5-12). The block's approximation is a free
value of Config, used where it lies within the accuracy that the table gives; elsewhere the value is one computed here, which
lies within it. -/

namespace Sys2Proof

/-- One in the fixed point of the reference values. -/
def fixOne : Nat := 2 ^ 128

/-- `ln 2` and `log2 e` in fixed point. -/
def fixLn2 : Nat := 235865763225513294137944142764154484399
def fixLog2e : Nat := 490923683258796565746369346286093237521

/-- One step of an integer square root by bits, highest first: the root so far and the bit tried. -/
def sqrtStep (n : Nat) (r : Nat) (b : Nat) : Nat := if (r + 2 ^ b) * (r + 2 ^ b) ≤ n then r + 2 ^ b else r

/-- `⌊√n⌋` of a number below `2^(2k)`. -/
def isqrt (k n : Nat) : Nat := ((List.range k).reverse).foldl (sqrtStep n) 0

/-- The sum of `z^i / i!` from a term on, in fixed point: `n` terms, the last of them the `i`-th and equal to `term`. -/
def fixExpTerms : Nat → Nat → Nat → Nat → Nat
  | 0, _, _, _ => 0
  | n + 1, i, z, term => term + fixExpTerms n (i + 1) z (term * z / fixOne / (i + 1))

/-- `2^f` for a fraction `f` in fixed point, in fixed point: the exponential series of `f ln 2`, of which 40 terms are taken. -/
def fixExp2 (f : Nat) : Nat := fixExpTerms 40 0 (f * fixLn2 / fixOne) fixOne

/-- `log2 m` of a number from 1 to below 2 in fixed point, by repeated squaring. -/
def fixLog2 : Nat → Nat → Nat → Nat
  | 0, _, _ => 0
  | k + 1, w, m =>
    let q := m * m / fixOne
    if 2 * fixOne ≤ q then w + fixLog2 k (w / 2) (q / 2) else fixLog2 k (w / 2) q

/-- A dyadic in fixed point, rounded down; for magnitudes that fit. -/
def Dy.fix (a : Dy) : Int := (a.scale 128).floor

/-- `2^x` as a dyadic within a relative 2^-100, for `|x|` below 2^20. -/
def refExp2 (x : Dy) : Dy :=
  let n := x.floor
  ⟨fixExp2 ((x.sub ⟨n, 0⟩).fix.toNat), n - 128⟩

/-- `log2 x` as a dyadic within 2^-100, for positive `x`. -/
def refLog2 (x : Dy) : Dy :=
  let n := x.log2
  let m := (x.scale (-n)).fix.toNat
  Dy.add ⟨n, 0⟩ ⟨fixLog2 110 (fixOne / 2) m, -128⟩

/-- `1 / (1 + 2^-(x log2 e))` as a dyadic within 2^-100. -/
def refSigm (x : Dy) : Dy :=
  if Dy.lt ⟨128, 0⟩ x then ⟨1, 0⟩
  else if Dy.lt x ⟨-128, 0⟩ then ⟨0, 0⟩
  else
    let e := refExp2 (Dy.mul x.neg ⟨fixLog2e, -128⟩)
    let d := (Dy.add ⟨1, 0⟩ e).scale 128
    ⟨2 ^ 384 / max 1 d.floor, -256⟩

/-- `tanh x = 2 sigm(2x) - 1`. -/
def refTanh (x : Dy) : Dy := Dy.sub ((refSigm (x.scale 1)).scale 1) ⟨1, 0⟩

/-- `1/x` and `1/√x` of a positive dyadic, cut off after more than 100 bits with a sticky last bit. -/
def refRcp (x : Dy) : Dy := ⟨2 * (2 ^ 160 / x.m) + 1, -161 - x.e⟩
def refRsqrt (x : Dy) : Dy :=
  let k := if x.e % 2 = 0 then x else ⟨2 * x.m, x.e - 1⟩
  ⟨2 * (isqrt 130 (2 ^ 260 / k.m.toNat)) + 1, -131 - k.e / 2⟩

/-- Whether the error of `a` against `b` is below `tol`. -/
def Dy.near (a b tol : Dy) : Bool := Dy.lt (a.sub b).abs tol

/-- FP32 of a dyadic under RNE, overflow to infinity. -/
def fp32Of (a : Dy) : W32 := BitVec.ofNat 32 (Elem.fp32.put (FNum.ofDy false a))

/-- The tolerance of a relative error below 2^-14, and of an absolute one. -/
def rel14 (v : Dy) : Dy := v.scale (-14)
def abs14 : Dy := ⟨1, -14⟩

/-- Whether an FP32 number lies within the accuracy of Table 5-12 for a finite operand that is no special input. -/
def sfuOk (code : Nat) (x : Dy) (y : FNum) : Bool :=
  match y with
  | .fin _ _ _ =>
    let v := y.toDy
    match code with
    | 0 =>
      let r := refExp2 x
      v.near r (if Dy.lt r ⟨1, -126⟩ then ⟨1, -140⟩ else rel14 r)
    | 1 => v.near (refLog2 x) abs14
    | 2 => Dy.lt (Dy.sub (Dy.mul v x) ⟨1, 0⟩).abs ⟨1, -22⟩
    | 3 =>
      let q := Dy.mul (Dy.mul v v) x
      Dy.lt ⟨0, 0⟩ v && Dy.lt (Dy.mul (Dy.sub ⟨1, 0⟩ ⟨1, -22⟩) (Dy.sub ⟨1, 0⟩ ⟨1, -22⟩)) q
        && Dy.lt q (Dy.mul (Dy.add ⟨1, 0⟩ ⟨1, -22⟩) (Dy.add ⟨1, 0⟩ ⟨1, -22⟩))
    | 4 => v.near (refTanh x) abs14
    | _ => v.near (refSigm x) abs14
  | _ => false

/-- The computed value of a function for a finite operand that is no special input. -/
def sfuRef (code : Nat) (x : Dy) : W32 :=
  match code with
  | 0 => fp32Of (refExp2 x)
  | 1 => fp32Of (refLog2 x)
  | 2 => if x.m < 0 then fp32Of (refRcp x.neg).neg else fp32Of (refRcp x)
  | 3 => fp32Of (refRsqrt x)
  | 4 => fp32Of (refTanh x)
  | _ => fp32Of (refSigm x)

/-- FP32 infinities, zero and the quiet NaN. -/
def fpInf (neg : Bool) : W32 := if neg then 0xFF800000#32 else 0x7F800000#32
def fpZero (neg : Bool) : W32 := if neg then 0x80000000#32 else 0#32
def fpNaN : W32 := 0x7FC00000#32

/-- The special inputs of Table 5-12. -/
def sfuSpecial (code : Nat) (x : FNum) : Option W32 :=
  match code, x with
  | _, .nan => some fpNaN
  | 0, .inf neg => some (if neg then fpZero false else fpInf false)
  | 0, .fin _ _ _ =>
    if Dy.le ⟨128, 0⟩ x.toDy then some (fpInf false) else if Dy.lt x.toDy ⟨-150, 0⟩ then some (fpZero false) else none
  | 1, .inf neg => some (if neg then fpNaN else fpInf false)
  | 1, .fin neg m _ => if m = 0 then some (fpInf true) else if neg then some fpNaN else none
  | 2, .inf neg => some (fpZero neg)
  | 2, .fin neg m _ => if m = 0 then some (fpInf neg) else none
  | 3, .inf neg => some (if neg then fpNaN else fpZero false)
  | 3, .fin neg m _ => if m = 0 then some (fpInf neg) else if neg then some fpNaN else none
  | 4, .inf neg => some (if neg then 0xBF800000#32 else 0x3F800000#32)
  | 5, .inf neg => some (if neg then fpZero false else 0x3F800000#32)
  | _, _ => none

/-- A special function of one lane (R140). A reciprocal beyond the FP32 range has no stated result: its value is free. -/
def sfuLane (code : Nat) (w : W32) : W32 :=
  let x := Elem.fp32.decode w.toNat
  let y := Config.sfu code w
  match sfuSpecial code x with
  | some r => r
  | none =>
    if code = 2 ∧ Dy.le (x.toDy.abs) ⟨1, -128⟩ = true then y
    else if sfuOk code x.toDy (Elem.fp32.decode y.toNat) then y else sfuRef code x.toDy

/-- VEXPD of one lane: 2^(x - m) and NONFINITE (R141). The block's value of exp2(f) is free within the accuracy of EXP2; the result is it
times 2^n, rounded once, and where x - m is not above zero it is at most 1 (R203). -/
def expdLane (w m : W32) : W32 × Bool :=
  match Elem.fp32.decode w.toNat with
  | .nan => (fpNaN, true)
  | .inf true => (fpZero false, false)
  | .inf false => (fpInf false, true)
  | .fin neg mm e =>
    let x := (FNum.fin neg mm e).toDy
    let n := x.floor - m.toInt
    if 128 ≤ n then (fpInf false, false)
    else if n < -151 then (fpZero false, false)
    else
      let r := (refExp2 (x.sub ⟨x.floor, 0⟩)).scale n
      let top := if Dy.le x ⟨m.toInt, 0⟩ then 0x3F800000 else (fpInf false).toNat
      let lo := (fp32Of (Dy.sub r (rel14 r))).toNat
      let hi := min top (fp32Of (Dy.add r (rel14 r))).toNat
      let y := Config.vexpd w m
      (if lo ≤ y.toNat ∧ y.toNat ≤ hi then y else fp32Of r, false)

end Sys2Proof
end

