-- ==== Sys2Proof/Machine/Vector.lean ====
section
/-! DEFINITION. The register instructions of the vector unit (spec 05 Table 5-10, R137 to R142, R155). -/

namespace Sys2Proof.Machine

/-- A vector of 256 lanes. -/
abbrev Lanes := Vector W32 256

/-- The state after a vector instruction that takes `n` cycles (Table 18-12). -/
def State.retireV (s : State) (st c n : Nat) (f : Ctx → Ctx) : State :=
  (s.retire st c f).modStall st (fun x => { x with vec := x.vec + BitVec.ofNat 64 n })

/-- A lane operation on two lanes. -/
def lanes2 (f : W32 → W32 → W32) (a b : Lanes) : Lanes := Vector.zipWith f a b
/-- A lane operation on three lanes. -/
def lanes3 (f : W32 → W32 → W32 → W32) (a b d : Lanes) : Lanes := Vector.ofFn (fun i => f a[i] b[i] d[i])

/-- The two halves of a lane, and a lane from its halves: low in bits [15:0] (R137). -/
def loHalf (w : W32) : Nat := w.toNat % 2 ^ 16
def hiHalf (w : W32) : Nat := w.toNat / 2 ^ 16
def halves (lo hi : Nat) : W32 := BitVec.ofNat 32 (lo % 2 ^ 16 + hi % 2 ^ 16 * 2 ^ 16)

/-- A lane operation by type: FP32, packed BF16, INT32 (Table 5-10). -/
def typed (ty : Nat) (fp : Elem → Nat → Nat → Nat) (int : W32 → W32 → W32) (a b : W32) : W32 :=
  match ty with
  | 0 => BitVec.ofNat 32 (fp .fp32 a.toNat b.toNat)
  | 1 => halves (fp .bf16 (loHalf a) (loHalf b)) (fp .bf16 (hiHalf a) (hiHalf b))
  | _ => int a b

/-- VLD: a bay row under a VEC token. -/
def execVld (st : StallId) (cx : CtxId) (f : FmtA) (ups : List (Nat × BitVec 39)) (s : State) : Res :=
  .next (s.issue st cx 0x50 f.gn f.gp (inFile f.d 16 && inFile f.s1 16 && unused f.s2 && unused f.s3) []
    (match bayOperand ((s.ctxOf st cx).getA f.s1) f.x with
     | none => s.badProgram st cx 0x50
     | some a =>
       if a % 256 ≠ 0 then s.badProgram st cx 0x50
       else s.covered st cx 0x50 .vec [rowSpan st a 256]
         (s.bayLoad st cx 1 0x03 0 ups ((List.range 256).map (a + ·)) (fun s ws =>
           s.retireV st cx 1 (fun c => c.setV f.d (Vector.ofFn (fun i => ws[i.val]?.getD 0)))))))

/-- VST: a bay row under a VEC token. -/
def execVst (st : StallId) (cx : CtxId) (f : FmtA) (s : State) : Res :=
  let c := s.ctxOf st cx
  .next (s.issue st cx 0x51 f.gn f.gp (unused f.d && inFile f.s1 16 && inFile f.s2 16 && unused f.s3) []
    (match bayOperand (c.getA f.s1) f.x with
     | none => s.badProgram st cx 0x51
     | some a =>
       if a % 256 ≠ 0 then s.badProgram st cx 0x51
       else s.covered st cx 0x51 .vec [rowSpan st a 256]
         ((s.bayWrites st a (c.getV f.s2).toList).retireV st cx 1 id)))

/-- The addresses of a bay column: word c of 256 rows. -/
def columnAddrs (a : Nat) : List Nat := (List.range 256).map (fun i => a + 256 * i)

/-- Whether a bay column keeps inside its bay. -/
def columnFits (a : Nat) : Bool := decide (bits a 19 8 + 255 ≤ 3071)

/-- The rows of a bay column. -/
def columnRows (st a : Nat) : Rows := { stall := st, bay := a / 2 ^ 20, first := bits a 19 8, last := bits a 19 8 + 255 }

/-- VLDC: a bay column under a VEC token. -/
def execVldc (st : StallId) (cx : CtxId) (f : FmtA) (ups : List (Nat × BitVec 39)) (s : State) : Res :=
  .next (s.issue st cx 0x52 f.gn f.gp (inFile f.d 16 && inFile f.s1 16 && unused f.s2 && unused f.s3) []
    (match bayOperand ((s.ctxOf st cx).getA f.s1) f.x with
     | none => s.badProgram st cx 0x52
     | some a =>
       if !columnFits a then s.badProgram st cx 0x52
       else s.covered st cx 0x52 .vec [columnRows st a]
         (s.bayLoad st cx 1 0x03 0 ups (columnAddrs a) (fun s ws =>
           s.retireV st cx 1 (fun c => c.setV f.d (Vector.ofFn (fun i => ws[i.val]?.getD 0)))))))

/-- VSTC: a bay column under a VEC token. -/
def execVstc (st : StallId) (cx : CtxId) (f : FmtA) (s : State) : Res :=
  let c := s.ctxOf st cx
  .next (s.issue st cx 0x53 f.gn f.gp (unused f.d && inFile f.s1 16 && inFile f.s2 16 && unused f.s3) []
    (match bayOperand (c.getA f.s1) f.x with
     | none => s.badProgram st cx 0x53
     | some a =>
       if !columnFits a then s.badProgram st cx 0x53
       else s.covered st cx 0x53 .vec [columnRows st a]
         (((columnAddrs a).zip (c.getV f.s2).toList).foldl (fun s x => s.bayWrite st x.1 x.2) s |>.retireV st cx 1 id)))

/-- VBC: every lane = gS1[31:0]. -/
def execVbc (st : StallId) (cx : CtxId) (f : FmtA) (s : State) : Res :=
  let c := s.ctxOf st cx
  .next (s.issue st cx 0x54 f.gn f.gp (inFile f.d 16 && unused f.s2 && unused f.s3 && xOnly f.x 0) (gs [f.s1])
    (s.retireV st cx 1 (fun x => x.setV f.d (Vector.replicate 256 ((c.getG f.s1).truncate 32)))))

/-- VLANE: gD = zero-extended lane X[7:0]. -/
def execVlane (st : StallId) (cx : CtxId) (f : FmtA) (s : State) : Res :=
  let c := s.ctxOf st cx
  .next (s.issue st cx 0x55 f.gn f.gp (inFile f.s1 16 && unused f.s2 && unused f.s3 && xOnly f.x 0xFF) (gs [f.d])
    (s.retireV st cx 1 (fun x => x.setG f.d (((c.getV f.s1)[f.x.toNat % 256]?.getD 0).zeroExtend 64))))

/-- A two-operand lane instruction with a type in X[1:0]; type 3 is reserved (R150). -/
def execLane2 (op : Nat) (fp : Elem → Nat → Nat → Nat) (int : W32 → W32 → W32) (st : StallId) (cx : CtxId) (f : FmtA)
    (s : State) : Res :=
  let c := s.ctxOf st cx
  let ty := f.x.toNat % 4
  .next (s.issue st cx op f.gn f.gp (inFile f.d 16 && inFile f.s1 16 && inFile f.s2 16 && unused f.s3 && xOnly f.x 3) []
    (if ty = 3 then s.badProgram st cx op
     else s.retireV st cx 1 (fun x => x.setV f.d (lanes2 (typed ty fp int) (c.getV f.s1) (c.getV f.s2)))))

/-- VADD. -/
def execVadd (st : StallId) (cx : CtxId) (f : FmtA) (s : State) : Res := execLane2 0x56 Elem.addC (fun a b => a + b) st cx f s
/-- VSUB. -/
def execVsub (st : StallId) (cx : CtxId) (f : FmtA) (s : State) : Res := execLane2 0x57 Elem.subC (fun a b => a - b) st cx f s
/-- VMUL. -/
def execVmul (st : StallId) (cx : CtxId) (f : FmtA) (s : State) : Res := execLane2 0x58 Elem.mulC (fun a b => a * b) st cx f s
/-- VMAX. -/
def execVmax (st : StallId) (cx : CtxId) (f : FmtA) (s : State) : Res :=
  execLane2 0x5A Elem.maxC (fun a b => if a.slt b then b else a) st cx f s
/-- VMIN. -/
def execVmin (st : StallId) (cx : CtxId) (f : FmtA) (s : State) : Res :=
  execLane2 0x5B Elem.minC (fun a b => if b.slt a then b else a) st cx f s

/-- One lane of VFMA. -/
def fmaLane (ty : Nat) (a b c : W32) : W32 :=
  if ty = 0 then BitVec.ofNat 32 (Elem.fp32.fmaC a.toNat b.toNat c.toNat)
  else halves (Elem.bf16.fmaC (loHalf a) (loHalf b) (loHalf c)) (Elem.bf16.fmaC (hiHalf a) (hiHalf b) (hiHalf c))

/-- VFMA: vS1 × vS2 + vS3, one rounding. -/
def execVfma (st : StallId) (cx : CtxId) (f : FmtA) (s : State) : Res :=
  let c := s.ctxOf st cx
  let ty := f.x.toNat % 4
  .next (s.issue st cx 0x59 f.gn f.gp (inFile f.d 16 && inFile f.s1 16 && inFile f.s2 16 && inFile f.s3 16 && xOnly f.x 3) []
    (if 2 ≤ ty then s.badProgram st cx 0x59
     else s.retireV st cx 1 (fun x => x.setV f.d (lanes3 (fmaLane ty) (c.getV f.s1) (c.getV f.s2) (c.getV f.s3)))))

/-- VLOG: AND, OR, XOR, AND NOT. -/
def logLane (code : Nat) (a b : W32) : W32 :=
  match code with
  | 0 => a &&& b
  | 1 => a ||| b
  | 2 => a ^^^ b
  | _ => a &&& ~~~b

/-- VLOG. -/
def execVlog (st : StallId) (cx : CtxId) (f : FmtA) (s : State) : Res :=
  let c := s.ctxOf st cx
  .next (s.issue st cx 0x5C f.gn f.gp (inFile f.d 16 && inFile f.s1 16 && inFile f.s2 16 && unused f.s3 && xOnly f.x 3) []
    (s.retireV st cx 1 (fun x => x.setV f.d (lanes2 (logLane (f.x.toNat % 4)) (c.getV f.s1) (c.getV f.s2)))))

/-- A lane shifted by lane [4:0] of the other operand. -/
def shiftLane (code : Nat) (a b : W32) : W32 :=
  let n := b.toNat % 32
  match code with
  | 0 => a <<< n
  | 1 => a >>> n
  | _ => a.sshiftRight n

/-- VSH: left, logical right, arithmetic right; code 3 is reserved. -/
def execVsh (st : StallId) (cx : CtxId) (f : FmtA) (s : State) : Res :=
  let c := s.ctxOf st cx
  let code := f.x.toNat % 4
  .next (s.issue st cx 0x5D f.gn f.gp (inFile f.d 16 && inFile f.s1 16 && inFile f.s2 16 && unused f.s3 && xOnly f.x 3) []
    (if code = 3 then s.badProgram st cx 0x5D
     else s.retireV st cx 1 (fun x => x.setV f.d (lanes2 (shiftLane code) (c.getV f.s1) (c.getV f.s2)))))

/-- A floating comparison under IEEE 754: EQ, NE, LT, LE (R137). -/
def fpCond (code : Nat) (x y : FNum) : Bool :=
  match code with
  | 0 => x.eqv y
  | 1 => !x.eqv y
  | 2 => x.lt y
  | _ => x.lt y || x.eqv y

/-- A signed comparison of two lanes. -/
def intCond (code : Nat) (a b : W32) : Bool :=
  match code with
  | 0 => a == b
  | 1 => a != b
  | 2 => a.slt b
  | _ => !b.slt a

/-- One lane of VCMP. -/
def cmpLane (code ty : Nat) (a b : W32) : W32 :=
  match ty with
  | 0 => if fpCond code (Elem.fp32.decode a.toNat) (Elem.fp32.decode b.toNat) then 0xFFFFFFFF#32 else 0
  | 1 =>
    let h := fun x y => if fpCond code (Elem.bf16.decode x) (Elem.bf16.decode y) then 0xFFFF else 0
    halves (h (loHalf a) (loHalf b)) (h (hiHalf a) (hiHalf b))
  | _ => if intCond code a b then 0xFFFFFFFF#32 else 0

/-- VCMP: masks; conditions 4 to 7 and type 3 are reserved. -/
def execVcmp (st : StallId) (cx : CtxId) (f : FmtA) (s : State) : Res :=
  let c := s.ctxOf st cx
  let code := f.x.toNat % 8
  let ty := bits f.x.toNat 4 3
  .next (s.issue st cx 0x5E f.gn f.gp (inFile f.d 16 && inFile f.s1 16 && inFile f.s2 16 && unused f.s3 && xOnly f.x 0x1F) []
    (if 4 ≤ code || ty = 3 then s.badProgram st cx 0x5E
     else s.retireV st cx 1 (fun x => x.setV f.d (lanes2 (cmpLane code ty) (c.getV f.s1) (c.getV f.s2)))))

/-- VSEL: vS3 bit set ? vS1 : vS2. -/
def execVsel (st : StallId) (cx : CtxId) (f : FmtA) (s : State) : Res :=
  let c := s.ctxOf st cx
  .next (s.issue st cx 0x5F f.gn f.gp (inFile f.d 16 && inFile f.s1 16 && inFile f.s2 16 && inFile f.s3 16 && xOnly f.x 0) []
    (s.retireV st cx 1 (fun x => x.setV f.d
      (lanes3 (fun a b m => (a &&& m) ||| (b &&& ~~~m)) (c.getV f.s1) (c.getV f.s2) (c.getV f.s3)))))

/-- One lane of VCVT and NONFINITE: from type and to type 0 FP32, 1 packed BF16, 2 INT32 (R137, R55, R57). -/
def cvtLane (frm tgt : Nat) (md : RMode) (nonsat : Bool) (seed : W64) (i : Nat) (w : W32) : W32 × Bool :=
  let v := (match frm with
    | 0 => Elem.fp32.decode w.toNat
    | 1 => Elem.bf16.decode (loHalf w)
    | _ => FNum.ofI32 w)
  let r := srBits seed 0 i
  match tgt with
  | 0 => let e := Elem.fp32.encode md nonsat r v; (BitVec.ofNat 32 e.1, e.2)
  | 1 => let e := Elem.bf16.encode md nonsat r v; (BitVec.ofNat 32 e.1, e.2)
  | _ => v.toI32 md r

/-- VCVT: type X[1:0] to type X[3:2]; RND X[5:4], OVF X[6]. -/
def execVcvt (st : StallId) (cx : CtxId) (f : FmtA) (s : State) : Res :=
  let c := s.ctxOf st cx
  let v := f.x.toNat
  let frm := v % 4
  let tgt := bits v 3 2
  let seed := ((s.launch? c.launch).map (fun l => l.seed)).getD 0
  .next (s.issue st cx 0x60 f.gn f.gp (inFile f.d 16 && inFile f.s1 16 && unused f.s2 && unused f.s3 && xOnly f.x 0x7F) []
    (match RMode.ofCode (bits v 5 4) with
     | some md =>
       if frm = 3 || tgt = 3 then s.badProgram st cx 0x60
       else
         let rs : Vector (W32 × Bool) 256 := Vector.ofFn (fun i => cvtLane frm tgt md (bit v 6) seed i.val (c.getV f.s1)[i])
         (s.raiseFlags st cx false (rs.toList.any (fun r => r.2))).retireV st cx 1 (fun x => x.setV f.d (rs.map (fun r => r.1)))
     | none => s.badProgram st cx 0x60))

/-- VSFU: special function X[2:0] on FP32 lanes; 6 and 7 are reserved. -/
def execVsfu (st : StallId) (cx : CtxId) (f : FmtA) (s : State) : Res :=
  let c := s.ctxOf st cx
  let code := f.x.toNat % 8
  .next (s.issue st cx 0x61 f.gn f.gp (inFile f.d 16 && inFile f.s1 16 && unused f.s2 && unused f.s3 && xOnly f.x 7) []
    (if 6 ≤ code then s.badProgram st cx 0x61
     else s.retireV st cx 4 (fun x => x.setV f.d ((c.getV f.s1).map (sfuLane code)))))

/-- The fixed binary tree of R138: neighbours are paired until one value remains. -/
def pairUp {α : Type} (f : α → α → α) : List α → List α
  | a :: b :: rest => f a b :: pairUp f rest
  | l => l

/-- `n` rounds of pairing. -/
def treeFold {α : Type} (f : α → α → α) : Nat → List α → List α
  | 0, l => l
  | n + 1, l => treeFold f n (pairUp f l)

/-- VRED of 256 lanes: FP32 sum or maximum in bits [31:0], INT32 sum or maximum sign-extended (R138). -/
def reduceLanes (code : Nat) (v : Lanes) : W64 :=
  let ns := v.toList.map (fun w => w.toNat)
  let is := v.toList.map (fun w => w.toInt)
  match code with
  | 0 => BitVec.ofNat 64 (((treeFold Elem.fp32.addC 8 ns)[0]?).getD 0)
  | 1 => BitVec.ofNat 64 (((treeFold Elem.fp32.maxC 8 ns)[0]?).getD 0)
  | 2 => BitVec.ofInt 64 (((treeFold (fun a b => a + b) 8 is)[0]?).getD 0)
  | _ => BitVec.ofInt 64 (((treeFold max 8 is)[0]?).getD 0)

/-- VRED. -/
def execVred (st : StallId) (cx : CtxId) (f : FmtA) (s : State) : Res :=
  let c := s.ctxOf st cx
  .next (s.issue st cx 0x62 f.gn f.gp (inFile f.s1 16 && unused f.s2 && unused f.s3 && xOnly f.x 3) (gs [f.d])
    (s.retireV st cx 1 (fun x => x.setG f.d (reduceLanes (f.x.toNat % 4) (c.getV f.s1)))))

/-- One lane of VRMAX and NONFINITE (R141). -/
def rmaxLane (m w : W32) : W32 × Bool :=
  match Elem.fp32.decode w.toNat with
  | .inf true => (m, false)
  | .fin neg k e =>
    let n := (FNum.fin neg k e).ceilInt
    if 2 ^ 31 - 1 < n then (0x7FFFFFFF#32, true)
    else (BitVec.ofInt 32 (max m.toInt n), false)
  | _ => (0x7FFFFFFF#32, true)

/-- A lane instruction of two operands that may set NONFINITE. -/
def execFlagLane (op n : Nat) (g : W32 → W32 → W32 × Bool) (st : StallId) (cx : CtxId) (f : FmtA) (s : State) : Res :=
  let c := s.ctxOf st cx
  .next (s.issue st cx op f.gn f.gp (inFile f.d 16 && inFile f.s1 16 && inFile f.s2 16 && unused f.s3 && xOnly f.x 0) []
    (let rs : Vector (W32 × Bool) 256 := Vector.zipWith g (c.getV f.s1) (c.getV f.s2)
     (s.raiseFlags st cx false (rs.toList.any (fun r => r.2))).retireV st cx n (fun x => x.setV f.d (rs.map (fun r => r.1)))))

/-- VRMAX: lane = max(vS1 as INT32, ⌈vS2 as FP32⌉). -/
def execVrmax (st : StallId) (cx : CtxId) (f : FmtA) (s : State) : Res := execFlagLane 0x63 1 rmaxLane st cx f s
/-- VEXPD: lane = 2^(vS1 - vS2), vS1 FP32, vS2 INT32. -/
def execVexpd (st : StallId) (cx : CtxId) (f : FmtA) (s : State) : Res := execFlagLane 0x64 4 expdLane st cx f s

end Sys2Proof.Machine
end

