-- ==== Sys2Proof/Machine/XferData.lean ====
section
/-! DEFINITION. The data of Porter transfers: bytes with the poison they carry, the arrays of a tensor on each side, and FB segments
built and taken apart (spec 02 R40 to R48; 06 R166; 07 R176 to R188). -/

namespace Sys2Proof.Machine

/-! ### What stops a transfer -/

/-- What ends a transfer's launch. -/
inductive XErr where
  /-- a status of the instruction, and the refused address -/
  | bad (st : Status) (addr : Nat)
  | denied (addr : Nat) (malformed : Bool)
  | poison (addr : Nat)
  | fatal
  /-- a status with a syndrome of its own, found by a unit -/
  | own (st : Status) (syn addr ukind uindex : Nat)
  deriving DecidableEq, Repr

/-- The status of an error. -/
def XErr.status : XErr → Status
  | .bad st _ => st
  | .denied _ _ => .accessDenied
  | .poison _ => .poisonConsumed
  | .fatal => .hwFault
  | .own st _ _ _ _ => st

/-- The end of a reader's launch by an error. -/
def State.rdErr (s : State) (r : Reader) (p : Nat) : XErr → State
  | .bad st addr => s.rdBad r st addr
  | .denied addr m => s.rdDenied r p addr m
  | .poison addr => s.rdPoison r addr
  | .fatal => s.tablePoison p
  | .own st syn addr uk ui => s.unitFault r r.src st uk ui syn addr

/-- What stops a read of device memory, as an error. -/
def Rd.err : Rd → Option XErr
  | .ok _ => none
  | .denied a m => some (.denied a m)
  | .poison a => some (.poison (a / 64 * 64))
  | .fatal => some .fatal

/-! ### Flagged bytes -/

/-- Bytes that carry no poison. -/
def clean (bs : List Byte) : List FByte := bs.map (fun b => (b, none))

/-- The bytes without their flags. -/
def bare (fs : List FByte) : List Byte := fs.map (·.1)

/-- The first poisoned address among flagged things. -/
def firstFlag {α : Type} (l : List (α × Option Nat)) : Option Nat := l.findSome? (fun x => x.2)

/-- A read of device memory that carries poison along. -/
def State.devFlags (s : State) (p : Nat) (csr : Option Nat) (addr n : Nat) : Except XErr (List FByte) :=
  (lineRuns addr n).foldl (fun (r : Except XErr (List FByte)) pc => match r with
    | .error e => .error e
    | .ok l =>
      match s.translate p csr .read pc.1 with
      | .denied m => .error (.denied pc.1 m)
      | .poisoned => .error .fatal
      | .ok pl =>
        let at' := s.readPlace pl
        let flag := if s.linePoison at'.1 at'.2 then some (pc.1 / 64 * 64) else none
        .ok (l ++ (s.memBytes at'.1 at'.2 pc.2).map (fun b => (b, flag)))) (.ok [])

/-- A write of device memory that carries poison along: a line that takes a poisoned byte is written poisoned (R188). -/
def State.devStore (s : State) (p : Nat) (csr : Option Nat) (who : Option FaultInfo) (addr : Nat) (fs : List FByte) : State :=
  ((lineRuns addr fs.length).foldl (fun (r : State × List FByte) pc =>
    let mine := r.2.take pc.2
    (r.1.writePiece p .write csr who pc.1 (bare mine) (firstFlag mine).isSome, r.2.drop pc.2)) (s, fs)).1

/-- A read of bay words that carries poison along, with what the reads report (R165, R166). -/
def State.bayFlags (s : State) (st addr n : Nat) : State × List FByte :=
  (List.range n).foldl (fun (r : State × List FByte) i =>
    let x := r.1.bayReadRange st (addr + i) 1
    (x.1, r.2 ++ (leBytes 4 ((x.2.1[0]?).getD 0).toNat).map (fun b => (b, x.2.2)))) (s, [])

/-! ### The arrays of a tensor -/

/-- Bytes of each array or row that holds a tensor's data. -/
def TDesc.runBytes (d : TDesc) : List Nat :=
  let n := d.streamLen
  match d.fmt.fam with
  | .plain => List.replicate d.rowCount (ceilDiv d.rowBits 8)
  | .wide => [16 * d.count, 2 * d.count]
  | .fb => [ceilDiv (n * d.fmt.el.width) 8, n / 32, 2 * ceilDiv n 512]
  | .mx => [ceilDiv (n * d.fmt.el.width) 8, n / 32]

/-- Where a dimension-0 row number lies, in the units of BASE. -/
def TDesc.rowAt (d : TDesc) (r : Nat) : Nat :=
  d.base + d.rowStart [0, r % d.extent 1, (r / d.extent 1) % d.extent 2, r / (d.extent 1 * d.extent 2)]

/-- Where the arrays or rows of a tensor lie in device memory or in host memory (R43, R45, R115, R183); an FB tensor lies there in
segments. -/
def TDesc.byteRuns (d : TDesc) : List (Nat × Nat) :=
  let at' := (match d.fmt.fam with
    | .plain => (List.range d.rowCount).map d.rowAt
    | .wide => [d.base, d.sbase]
    | .mx => [d.base, ceilDiv (d.base + ceilDiv (d.streamLen * d.fmt.el.width) 8) 64 * 64]
    | .fb => [])
  at'.zip d.runBytes

/-- The ranges that an FB tensor takes in device memory: its segments and its records (R40, R42). -/
def TDesc.fbRanges (d : TDesc) : List (Nat × Nat) :=
  [(d.base, 4128 * d.segments), (d.sbase, recordSize d.fmt.el * d.segments)]

/-- Every byte range of a tensor in device memory. -/
def TDesc.devRanges (d : TDesc) : List (Nat × Nat) := if d.fmt.fam = .fb then d.fbRanges else d.byteRuns

/-- Whether a tensor's writes into device memory are held for the bridge (R486). -/
def State.writeHeld (s : State) (p : Nat) (d : Option TDesc) : Bool :=
  match d with
  | some d => d.loc == 0 && d.devRanges.any (fun r => s.copyHeld p r.1 r.2)
  | none => false

/-- Bytes of a tensor's data in one place. -/
def TDesc.dataBytes (d : TDesc) (dev : Bool) : Nat :=
  if dev && d.fmt.fam = .fb then d.fbRanges.foldl (fun a x => a + x.2) 0 else d.runBytes.foldl (· + ·) 0

/-- The element codes that flagged bytes hold, each with the poison of a byte that it touches. -/
def flagCodes (w n : Nat) (fs : List FByte) : List (Nat × Option Nat) :=
  ((unpackCodes w (bare fs) n).zipIdx).map (fun x =>
    let lo := x.2 * w / 8
    (x.1, firstFlag ((fs.drop lo).take ((x.2 * w + w - 1) / 8 + 1 - lo))))

/-- Element codes packed into bytes, each byte with the poison of an element that it holds part of. -/
def codeFlags (w : Nat) (cs : List (Nat × Option Nat)) : List FByte :=
  let bs := packCodes w (cs.map (·.1))
  if (firstFlag cs).isNone then clean bs
  else (bs.zipIdx).map (fun x =>
    let lo := x.2 * 8 / w
    (x.1, firstFlag ((cs.drop lo).take ((x.2 * 8 + 7) / w + 1 - lo))))

/-- The arrays of an FB or MX tensor with its padding elements zero (R39). -/
def TDesc.zeroPad (d : TDesc) (runs : List (List FByte)) : List (List FByte) :=
  match runs with
  | es :: rest =>
    if d.kp = d.extent d.raxis then es :: rest
    else codeFlags d.fmt.el.width (((flagCodes d.fmt.el.width d.streamLen es).zipIdx).map (fun x =>
      if x.2 % d.kp < d.extent d.raxis then x.1 else (0, x.1.2))) :: rest
  | [] => []

/-- The data of a tensor from its arrays: element codes in coordinate order, but for FB and MX tensors, whose padding is read as
zero (R39). A WIDE element is T with its anchor above it. -/
def TDesc.dataOf (d : TDesc) (runs : List (List FByte)) : XData :=
  match d.fmt.fam with
  | .plain => .codes (runs.flatMap (fun r => flagCodes d.fmt.el.width (d.extent 0) r))
  | .wide =>
    let ts := chunksOf 16 (runs[0]?.getD [])
    let as' := chunksOf 2 (runs[1]?.getD [])
    .codes (d.inCoords (0, none) ((ts.zip as').map (fun x =>
      (leNat (bare x.1) + leNat (bare x.2) * 2 ^ 128, (firstFlag x.1).orElse (fun _ => firstFlag x.2)))))
  | _ => .runs (d.zeroPad runs)

/-- The arrays of a tensor from its data, and what marks whole segments behind the arrays of an FB tensor. -/
def TDesc.runsOf (d : TDesc) : XData → List (List FByte)
  | .runs l => (l.zip d.runBytes).map (fun x => (x.1 ++ clean (List.replicate (x.2 - x.1.length) 0)).take x.2)
      ++ l.drop d.runBytes.length
  | .codes cs =>
    match d.fmt.fam with
    | .wide =>
      let es := d.inStream (0, none) cs
      [es.flatMap (fun e => (leBytes 16 (e.1 % 2 ^ 128)).map (fun b => (b, e.2))),
       es.flatMap (fun e => (leBytes 2 (e.1 / 2 ^ 128)).map (fun b => (b, e.2)))]
    | _ => (chunksOf (d.extent 0) cs).map (codeFlags d.fmt.el.width)

/-- The first poisoned address of some data. -/
def XData.flag : XData → Option Nat
  | .codes l => firstFlag l
  | .runs l => l.findSome? firstFlag

/-- A read of the first `n` arrays of a tensor in a bay of a stall. -/
def State.bayArrays (s : State) (st : Nat) (d : TDesc) (n : Nat) : State × List (List FByte) :=
  ((d.spans.zip d.runBytes).take n).foldl (fun (r : State × List (List FByte)) x =>
    let y := r.1.bayFlags st x.1.1 x.1.2
    (y.1, r.2 ++ [y.2.take x.2])) (s, [])

/-- A read of a tensor's arrays in a bay of a stall. -/
def State.bayRuns (s : State) (st : Nat) (d : TDesc) : State × List (List FByte) := s.bayArrays st d d.spans.length

/-- A write of a tensor's arrays into a bay of a stall (R158). -/
def State.bayStoreRuns (s : State) (st : Nat) (d : TDesc) (runs : List (List FByte)) : State :=
  (d.spans.zip runs).foldl (fun s x => s.bayWrites st x.1.1 (bytesWords (bare x.2))) s

/-- A read of a tensor's arrays in device memory. -/
def State.devRuns (s : State) (p : Nat) (csr : Option Nat) (d : TDesc) : Except XErr (List (List FByte)) :=
  d.byteRuns.foldl (fun (r : Except XErr (List (List FByte))) x => match r with
    | .error e => .error e
    | .ok l => (match s.devFlags p csr x.1 x.2 with
      | .ok fs => .ok (l ++ [fs])
      | .error e => .error e)) (.ok [])

/-! ### FB segments (R40 to R42, R181, R182) -/

/-- The 32 bytes of a trailer: TAG, FMT, FLAGS, SEG_INDEX, VALID, zeros, CRC over the element bytes given. -/
def trailerBytes (tag fmt index valid : Nat) (last : Bool) (stored : List Byte) : List Byte :=
  let head := leBytes 2 tag ++ leBytes 1 fmt ++ leBytes 1 (b2n last) ++ leBytes 4 index ++ leBytes 4 valid ++ List.replicate 16 0
  head ++ leBytes 4 (crc32 (stored ++ head)).toNat

/-- A trailer with its CRC formed again over the element bytes given. -/
def retrail (trailer stored : List Byte) : List Byte :=
  trailer.take 28 ++ leBytes 4 (crc32 (stored ++ trailer.take 28)).toNat

/-- The record of segment `i` of an FB tensor from its scale arrays. -/
def recordFlags (el : Elem) (tag fmt i : Nat) (bs sl : List FByte) : List FByte :=
  let slabs := (sl.drop (2 * firstSlab el i)).take (2 * slabsIn el i)
  let blocks := (bs.drop (firstBlock el i)).take (blocksIn el i)
  clean (leBytes 2 tag ++ leBytes 1 fmt ++ [0] ++ leBytes 4 i) ++ slabs ++ clean (List.replicate (32 - slabs.length) 0)
    ++ blocks ++ clean (List.replicate (recordSize el - 40 - blocks.length) 0)

/-- Marks of the segments that are to be poisoned whole: one byte for each segment, with the poison of an element byte of it that
`which` takes. They stand behind the arrays of an FB tensor. -/
def TDesc.segMarks (d : TDesc) (which : Nat → Bool) (es : List FByte) : List FByte :=
  (List.range d.segments).map (fun i => (0, if which i then firstFlag ((es.drop (4096 * i)).take 4096) else none))

/-- The data of an FB tensor with every segment that holds a poisoned byte marked (R166). -/
def TDesc.markAll (d : TDesc) : XData → XData
  | .runs (es :: bs :: sl :: rest) =>
    if d.fmt.fam = .fb then .runs [es, bs, sl, d.segMarks (fun _ => true) es] else .runs (es :: bs :: sl :: rest)
  | y => y

/-- The segments that a tensor's arrays make, numbered from 0: element bytes filled with zeros, VALID, LAST, the record (R182), and the
poison that takes the whole segment. -/
def TDesc.segsOf (d : TDesc) (runs0 : List (List FByte)) :
    List (List FByte × Nat × Bool × List FByte × Option Nat) :=
  let runs := d.zeroPad runs0
  let es := runs[0]?.getD []
  (List.range d.segments).map (fun i =>
    let mine := (es.drop (4096 * i)).take (min 4096 (d.streamBytes - 4096 * i))
    let fl := (((runs[3]?).getD [])[i]?).bind (·.2)
    let full := mine ++ clean (List.replicate (4096 - mine.length) 0)
    (if fl.isSome then full.map (fun b => (b.1, fl)) else full, mine.length, i + 1 == d.segments,
     recordFlags d.fmt.el d.tag.toNat d.fmt.toCode i (runs[1]?.getD []) (runs[2]?.getD []), fl))

/-- A segment and its record written to device memory, each line with the poison of its bytes. -/
def State.putSeg (s : State) (p : Nat) (csr : Option Nat) (who : Option FaultInfo) (d : TDesc) (i : Nat)
    (elems trailer record : List FByte) : State :=
  (s.devStore p csr who (segAddr d.base i) (elems ++ trailer)).devStore p csr who (recAddr d.fmt.el d.sbase i) record

/-- An FB tensor written to device memory from its arrays. A segment that is marked is written poisoned whole, trailer and all, and no
CRC is formed for it (R47, R166); other poisoned bytes poison their lines alone (R188). -/
def State.devStoreFb (s : State) (p : Nat) (csr : Option Nat) (who : Option FaultInfo) (d : TDesc)
    (runs : List (List FByte)) : State :=
  ((d.segsOf runs).zipIdx).foldl (fun s x =>
    let g := x.1
    let fl := g.2.2.2.2
    let t := trailerBytes d.tag.toNat d.fmt.toCode x.2 g.2.1 g.2.2.1 (bare g.1)
    s.putSeg p csr who d x.2 g.1
      (if fl.isSome then (t.take 28 ++ List.replicate 4 0).map (fun b => (b, fl)) else clean t) g.2.2.2.1) s

/-- The segments of a read in order. -/
def segAt (ps : List (Nat × Option Seg)) (n : Nat) : Option Seg := ((ps.find? (fun q => q.1 == n)).map (·.2)).getD none

/-- Kept pairs without those that were poisoned. -/
def keptOf (ps : List (Nat × Option Seg)) : List Kept' := ps.filterMap (fun q => q.2.map (fun g => (q.1, g.elems, g.record)))

/-- SEG_INDEX of the first segment of a read. -/
def firstIndex (ps : List (Nat × Option Seg)) : Nat := ((segAt ps 0).map (fun g => fieldAt g.trailer 4 4)).getD 0

/-- The arrays of an FB tensor from the segments of a read of it (R181); what a poisoned pair would have given is flagged. -/
def TDesc.runsOfSegs (d : TDesc) (ps : List (Nat × Option Seg)) : List (List FByte) :=
  let el := d.fmt.el
  let ks := keptOf ps
  let first := firstIndex ps
  let n := d.streamLen
  let bad := fun (i : Nat) => if (segAt ps i).isSome then none else some (segAddr d.base i)
  d.zeroPad [((List.range d.segments).flatMap (fun i => match segAt ps i with
      | some g => clean g.elems
      | none => List.replicate 4096 (0, bad i))).take d.streamBytes,
   (List.range (n / 32)).map (fun b => (BitVec.ofNat 8 (blockAt el first ks b), bad (b * blockBytes el / 4096))),
   (List.range (ceilDiv n 512)).flatMap (fun j =>
     (leBytes 2 (slabAt el first ks j).toNat).map (fun b => (b, bad (j * (16 * blockBytes el) / 4096))))]

/-- The part of the arrays of an FB or MX tensor that its first `k` segments' worth of elements fill. -/
def firstSegs (el : Elem) (k : Nat) : List (List FByte) → List (List FByte)
  | es :: bs :: rest => es.take (4096 * k) :: bs.take (firstBlock el k) :: rest.map (fun sl => sl.take (2 * firstSlab el k))
  | l => l

/-! ### MX and FB (R46 to R48) -/

/-- The E8M0 codes and element codes of an MX tensor's arrays. -/
def TDesc.mxParts (d : TDesc) (runs : List (List FByte)) : List (Nat × Option Nat) × List FByte :=
  (flagCodes d.fmt.el.width d.streamLen (runs[0]?.getD []), runs[1]?.getD [])

/-- log2 of the slab scale of 16 blocks' codes (R46 step 1). -/
def mxSlabExp (ks : List Nat) : Int := max ((ks.foldl max 0 : Nat) - 143 : Int) (-126)

/-- The block scale of a code under a slab scale, and whether the block converts to zero (R46 steps 2 to 5). -/
def mxBlock (el : Elem) (slab : Int) (k : Nat) : Nat × Bool :=
  let d : Int := (k : Int) - 127 - slab - (if el = .int8 then 6 else 0)
  if -14 ≤ d then ((d + 15).toNat * 8, false)
  else if -17 ≤ d then (2 ^ (d + 17).toNat, false)
  else (0, true)

/-- The arrays of the FB tensor that an MX tensor's arrays convert to, the blocks that converted to zero, and the stream indices of
the blocks with code 0xFF (R46, R47). -/
def mxToFb (el : Elem) (scales : List FByte) (elems : List FByte) : List (List FByte) × Nat × List Nat :=
  let groups := chunksOf 16 scales
  let slabs := groups.map (fun g => mxSlabExp (g.map (fun b => b.1.toNat)))
  let blocks := (groups.zip slabs).flatMap (fun x => x.1.map (fun b => (mxBlock el x.2 b.1.toNat, b)))
  ([elems, blocks.map (fun x => (BitVec.ofNat 8 x.1.1, x.2.2)),
    (groups.zip slabs).flatMap (fun x => (leBytes 2 (bf16Pow2 x.2).toNat).map (fun b => (b, firstFlag x.1)))],
   (blocks.filter (fun x => x.1.2)).length,
   (blocks.zipIdx).filterMap (fun x => if x.1.2.1 = 255#8 then some x.2 else none))

/-- The E8M0 code and the element codes of one block of decoded values (R48); `emax` is that of the MX element format.
DESIGN CHOICE: R48 does not say how an Inf or NaN element counts towards `a`; it is left out (log 147). -/
def mxQuant (el : Elem) (md : RMode) (seed : W64) (tag : Half) (base : Nat) (xs : List FNum) : Nat × List (Nat × Bool) :=
  let a := (xs.filter FNum.isFin).foldl (fun (m : Dy) x => if Dy.lt m x.toDy.abs then x.toDy.abs else m) Dy.zero
  let emax : Int := (match el with
    | .fp4 => 2 | .fp6e2m3 => 2 | .fp6e3m2 => 4 | .fp8e4m3 => 8 | .fp8e5m2 => 15 | _ => 0)
  let k : Int := if a.m = 0 then 0 else max 0 (min 254 (a.log2 - emax + 127))
  let sh : Int := 127 - k + (if el = .int8 then 6 else 0)
  (k.toNat, (xs.zipIdx).map (fun x =>
    if a.m = 0 ∧ x.1.isFin then (0, false)
    else
      let v := (match x.1 with
        | .fin neg m e => FNum.fin neg m (e + sh)
        | y => y)
      el.encode md false (srBits seed tag (base + x.2)) v))

/-- Whether a slab scale that arrived without poison breaks R37. -/
def slabsBad (sl : List FByte) : Bool :=
  (chunksOf 2 sl).any (fun x => (firstFlag x).isNone && (slabScale (BitVec.ofNat 16 (leNat (bare x)))).isNone)

/-- The arrays of the MX tensor that an FB tensor's arrays convert to, and whether NONFINITE is raised (R48, R55). `d` is the FB
tensor, `tag` that of the MX tensor. -/
def fbToMx (d : TDesc) (md : RMode) (seed : W64) (tag : Half) (runs : List (List FByte)) : List (List FByte) × Bool :=
  let es := runs[0]?.getD []
  let bs := runs[1]?.getD []
  let sl := runs[2]?.getD []
  let p : FbParts := { codes := d.unpad (unpackCodes d.fmt.el.width (bare es) d.streamLen), bscales := (bare bs).map (·.toNat),
                       slabs := (chunksOf 2 (bare sl)).map (fun x => BitVec.ofNat 16 (leNat x)) }
  let n := blockBytes d.fmt.el
  let qs := (List.range (d.streamLen / 32)).map (fun b =>
    let flag := (firstFlag ((es.drop (n * b)).take n)).orElse (fun _ =>
      (firstFlag ((bs.drop b).take 1)).orElse (fun _ => firstFlag ((sl.drop (2 * (b / 16))).take 2)))
    (mxQuant d.fmt.el md seed tag (32 * b) ((List.range 32).map (fun i => p.value d.fmt.el (32 * b + i))), flag))
  ([codeFlags d.fmt.el.width (qs.flatMap (fun x => x.1.2.map (fun y => (y.1, x.2)))),
    qs.map (fun x => (BitVec.ofNat 8 x.1.1, x.2))],
   qs.any (fun x => x.2.isNone && x.1.2.any (·.2)))

end Sys2Proof.Machine
end

