-- ==== Sys2Proof/Machine/Array.lean ====
section
/-! DEFINITION. The array's instructions and events: PASS, WLD, ASCL, DCTW, SATM, SPLT, PASS_ENTRY, ARRAY_SLOT,
OUTPUT_ROWS_RELEASE (spec 03, 04). -/

namespace Sys2Proof.Machine

/-! ### Loads (R66, R175) -/

/-- The launch that holds a split and has not ended. -/
def State.splitLaunch (s : State) (st sp : Nat) : Option (Nat × Launch) :=
  s.fe.launches.find? (fun e => e.2.ended.isNone && e.2.holds st sp)

/-- The width of the splits of a stall (Table 3-5). -/
def State.splitWidth (s : State) (st : Nat) : Nat := 256 / 2 ^ (s.stall st).config

/-- The passes of a split that have not completed, oldest first. -/
def Split.passes (x : Split) : List PassReq := x.flight.map (·.req) ++ x.waiting

/-- A pass of a split by its number. -/
def Split.pass? (x : Split) (num : Nat) : Option PassReq := x.passes.find? (fun q => q.num == num)

/-- The split with one more tile's load set up, where a pass has a tile left and fewer than four tiles are being issued. -/
def Split.planOne (x : Split) : Split :=
  if 4 ≤ (x.loads.filter (fun l => l.issued < 256)).length then x
  else match x.passes.find? (fun q => q.planned < q.tiles) with
    | none => x
    | some q =>
      let l : TileLoad := { num := q.tile0 + q.planned, serial := q.serial, ctx := q.ctx, pc := q.pc, op := 0x40, pass := some q.num,
                            index := q.planned, desc := q.wgt, diag := false, pairs := [], data := none, issued := 0 }
      let up := fun (r : PassReq) => if r.num = q.num then { r with planned := r.planned + 1 } else r
      { x with loads := x.loads ++ [l], waiting := x.waiting.map up,
               flight := x.flight.map (fun p => { p with req := up p.req }) }

/-- … and as many as the loader's limit allows. -/
def Split.plan (x : Split) : Split := x.planOne.planOne.planOne.planOne

/-- The reader that a tile's load is, as the array's loader or as a tile stream (Table 18-3). -/
def TileLoad.reader (l : TileLoad) (launch st sp : Nat) (stream : Bool) : Reader :=
  { launch := launch, stall := st, ctx := l.ctx, pc := l.pc, op := l.op, src := srcStall st,
    ukind := if stream then 0x06 else 0x01, uindex := sp, client := 4 + sp, engine := if stream then 8 + sp else 0 }

/-- What a load's tile covers: its columns, its first reduction index, its rows. -/
def TileLoad.extent (l : TileLoad) (x : Split) (width : Nat) (d : TDesc) : List Nat × Nat × Nat :=
  match l.pass.bind x.pass? with
  | some q =>
    let kt := modeRows q.mode
    (tileCols q.width (l.index % q.ilv) l.diag, l.index / q.ilv * kt, kt)
  | none => (tileCols width 0 l.diag, 0, if l.diag then 256 else if d.fmt.el.width = 4 then 512 else 256)

/-- The state with a load changed. -/
def State.modLoad (s : State) (st sp num : Nat) (f : TileLoad → TileLoad) : State :=
  s.modSplit st sp (fun x => { x with loads := x.loads.map (fun l => if l.num = num then f l else l) })

/-- What a step of the loader leaves, and what ends the launch in it. -/
abbrev Loaded := State × List (Reader × XErr)

/-- The tile that arrived columns make. -/
def TileLoad.tile (l : TileLoad) (d : TDesc) (kt : Nat) (cols : List TileCol) : Tile :=
  if l.diag then diagOf d.fmt.el ((cols[0]?).getD ([], [], []) |> fillCol 256) else tileOf d.fmt.el kt cols

/-- A tile whose columns have all arrived: checked (R37, R99) and given to the loader. -/
def State.tileIn (s : State) (st sp launch : Nat) (l : TileLoad) (d : TDesc) (kt : Nat) (cols : List TileCol) : Loaded :=
  let r := l.reader launch st sp false
  if (l.tile d kt cols).bad d then (s, [(r, .own .badDescriptor r.at' 0 r.ukind r.uindex)])
  else (s.modLoad st sp l.num (fun l => { l with data := some (l.tile d kt cols) }), [])

/-- … by an event of its own: a tile that fails its checks ends its launch. -/
def State.tileArrives (s : State) (st sp launch : Nat) (l : TileLoad) (d : TDesc) (kt : Nat) (cols : List TileCol) : State :=
  let r := s.tileIn st sp launch l d kt cols
  r.2.foldl (fun s e => s.rdErr e.1 0 e.2) r.1

/-- Whether a load's tile comes from a packed region of its pitch, or has a range that meets one (R247, R249). -/
def State.packedTile (s : State) (p : Nat) (d : TDesc) : Bool :=
  d.loc == 0 && ((s.pkrOf p d.base).isSome || d.devRanges.any (fun r => s.inRegion p r.1 r.2))

/-- A load without its data takes it from a bay or, unpacked and unsegmented, from device memory; a tile stream's pairs and units
arrive by their own events (R66, R175). -/
def State.fetchTile (s : State) (st sp launch : Nat) (x : Launch) (l : TileLoad) : Loaded :=
  match s.tensor st l.ctx l.desc with
  | none => (s, [])
  | some d =>
    let e := l.extent (s.splitOf st sp) (s.splitWidth st) d
    let len := d.colLen e.2.1 e.2.2
    if d.loc = 1 then
      (match s.cover st l.ctx (.feed sp) (d.rows st) with
       | .held =>
         let r := e.1.foldl (fun (a : State × List TileCol × Option Nat) n =>
           if d.colCount ≤ n then (a.1, a.2.1 ++ [([], [], [])], a.2.2)
           else if d.fmt.fam = .fb then
             let y := a.1.readSpans st (d.colSpans n e.2.1 len)
             (y.1, a.2.1 ++ [d.colFromWords n e.2.1 len y.2.1], a.2.2.orElse (fun _ => y.2.2))
           else
             let y := a.1.bayReadList st (d.elemWords (d.colAt n e.2.1) len)
             (y.1, a.2.1 ++ [(d.elemCodes (d.colAt n e.2.1) len y.2.1, [], [])], a.2.2.orElse (fun _ => y.2.2))) (s, [], none)
         (match r.2.2 with
          | some a => (r.1, [(l.reader launch st sp false, .poison a)])
          | none => r.1.tileIn st sp launch l d e.2.2 r.2.1)
       | .pending => (s, [])
       | .missing => (s, [(l.reader launch st sp false, .bad .badProgram 0)]))
    else if s.packedTile x.pitch d || d.fmt.fam = .fb then (s, [])
    else
      let r := e.1.foldl (fun (a : Except Rd (List TileCol)) n => match a with
        | .ok cs =>
          if d.colCount ≤ n then .ok (cs ++ [([], [], [])])
          else (match s.colFromMem x.pitch (some x.csr.toNat) d n e.2.1 len with
            | .ok c => .ok (cs ++ [c])
            | .error z => .error z)
        | z => z) (.ok [])
      (match r with
       | .ok cols => s.tileIn st sp launch l d e.2.2 cols
       | .error z => (s, (z.err.map (fun e => (l.reader launch st sp true, e))).toList))

/-- Whether a tile of the split is one of a pass. -/
def PassReq.hasTile (q : PassReq) (num : Nat) : Bool := decide (q.tile0 ≤ num) && decide (num < q.tile0 + q.tiles)

/-- How far a load may issue at a slot: behind the last vector of the earlier tile of its bank (R66), and whether that tile is
still in use. Tiles are numbered in the order of the sweeps that use them. -/
def Split.loadLimit (x : Split) (l : TileLoad) : Nat × Bool :=
  if l.num < 2 then (256, false)
  else match x.flight.find? (fun p => p.req.hasTile (l.num - 2)) with
    | some p =>
      let e := p.lastEntry (l.num - 2 - p.req.tile0)
      if e + 256 < x.slot then (256, false) else (x.slot - e, true)
    | none => if x.waiting.any (fun q => q.hasTile (l.num - 2)) then (0, true) else (256, false)

/-- Rows that a loader may issue in a slot of a number of cycles, by the bytes of a row (R66). -/
def loadBudget (el : Elem) (kt width cycles : Nat) : Nat :=
  cycles * min 4 (max 1 (1024 / max 1 (width * el.width * (kt / 256) / 8)))

/-- The data of a load as a row of it issues: a faulty loader gives a wrong code to a cell of a row (R88). -/
def TileLoad.issueRows (l : TileLoad) (n : Nat) (upset : Option ArrayUpset) : TileLoad :=
  { l with issued := l.issued + n,
           data := (match upset with
             | some (.loader k j code) =>
               if l.issued ≤ k % 256 ∧ k % 256 < l.issued + n then l.data.map (fun t => t.spoil k j code) else l.data
             | _ => l.data) }

/-- One slot of the loader: data asked for, rows issued; and what ends the launch. -/
def State.loaderStep (s : State) (st sp launch : Nat) (x : Launch) (cycles : Nat) (upset : Option ArrayUpset) : Loaded :=
  let r1 := ((s.splitOf st sp).loads.filter (fun l => l.data.isNone)).foldl (fun (r : Loaded) l =>
    let y := r.1.fetchTile st sp launch x l
    (y.1, r.2 ++ y.2)) (s, [])
  let s1 := r1.1
  let sp1 := s1.splitOf st sp
  let step := fun (r : List TileLoad × Nat) (l : TileLoad) =>
    match l.data with
    | none => (r.1 ++ [l], r.2)
    | some _ =>
      let lim := sp1.loadLimit l
      let room := min r.2 (min (if lim.2 then 1 else 256) ((min 256 lim.1) - l.issued))
      (r.1 ++ [l.issueRows room upset], r.2 - room)
  let budget := (match (sp1.loads.find? (fun l => l.issued < 256 && l.data.isSome)).bind (·.data) with
    | some t => loadBudget t.el t.rows t.width cycles
    | none => 0)
  (s1.modSplit st sp (fun y => { y with loads := (sp1.loads.foldl step ([], budget)).1 }), r1.2)

/-! ### Instructions -/

/-- Whether a split's loads hold one that a WLD started and no PASS has named. -/
def Split.dropWld (x : Split) : Split :=
  let keep := x.loads.filter (fun l => l.pass.isSome)
  { x with loads := keep, tileCount := x.tileCount - (x.loads.length - keep.length) }

/-- WLD: the first tile of tS2 into split X[1:0]'s shadow bank; X[2] makes a diagonal load. -/
def execWld (st : StallId) (cx : CtxId) (f : FmtA) (s : State) : Res :=
  let c := s.ctxOf st cx
  let v := f.x.toNat
  let sp := v % 4
  .next (s.issue st cx 0x41 f.gn f.gp (unused f.d && unused f.s1 && inFile f.s2 16 && unused f.s3 && xOnly f.x 7) (ts [f.s2])
    (match s.tensor st cx (c.getT f.s2) with
     | none => s.badProgram st cx 0x41
     | some d =>
       if !s.holdsSplit st cx sp || d.loc == 2 || (d.loc == 1 && !d.fits) || !weightFmt d.fmt || d.originK % 32 != 0
       then s.badProgram st cx 0x41
       else
         (s.modSplit st sp (fun x =>
           let y := x.dropWld
           { y with tileCount := y.tileCount + 1,
                    loads := y.loads ++ [{ num := y.tileCount, serial := s.serial, ctx := cx, pc := c.pc, op := 0x41, pass := none,
                                           index := 0, desc := c.getT f.s2, diag := bit v 2, pairs := [], data := none,
                                           issued := 0 }] })).tickSerial.retire st cx id))

/-- ASCL: the activation-scale register of split X[1:0]. -/
def execAscl (st : StallId) (cx : CtxId) (f : FmtA) (s : State) : Res :=
  let c := s.ctxOf st cx
  let sp := f.x.toNat % 4
  .next (s.issue st cx 0x42 f.gn f.gp (unused f.d && unused f.s2 && unused f.s3 && xOnly f.x 3) (gs [f.s1])
    (if !s.holdsSplit st cx sp then s.badProgram st cx 0x42
     else (s.modSplit st sp (fun x => { x with ascl := (c.getG f.s1).truncate 16 })).retire st cx id))

/-- DCTW: DCTLc of split X[1:0], phase X[3:2]. -/
def execDctw (st : StallId) (cx : CtxId) (f : FmtA) (s : State) : Res :=
  let c := s.ctxOf st cx
  let sp := f.x.toNat % 4
  .next (s.issue st cx 0x43 f.gn f.gp (unused f.d && unused f.s2 && unused f.s3 && xOnly f.x 0xF) (gs [f.s1])
    (if !s.holdsSplit st cx sp then s.badProgram st cx 0x43
     else (s.modSplit st sp (fun x => { x with dctl := x.dctl.setIfInBounds (bits f.x.toNat 3 2) (c.getG f.s1) })).retire st cx id))

/-- SATM: a word of the saturation mask of the latest ended pass of split X[5:4]. -/
def execSatm (st : StallId) (cx : CtxId) (f : FmtA) (s : State) : Res :=
  let sp := bits f.x.toNat 5 4
  let x := s.splitOf st sp
  .next (s.issue st cx 0x44 f.gn f.gp (unused f.s1 && unused f.s2 && unused f.s3 && xOnly f.x 0x3F) (gs [f.d])
    (if !s.holdsSplit st cx sp then s.badProgram st cx 0x44
     else if x.passes.any (fun q => q.ctx == cx.val) then s
     else s.retire st cx (fun c => c.setG f.d (BitVec.ofNat 64 (x.satMask / 2 ^ (64 * (f.x.toNat % 16)))))))

/-- SPLT: split configuration X[1:0] (R84). It waits for the context's own passes (Table 5-9: ARR = 0); a pass of another context of the
launch that runs or waits ends the launch. -/
def execSplt (st : StallId) (cx : CtxId) (f : FmtA) (s : State) : Res :=
  let code := f.x.toNat % 4
  let l := (s.ctxOf st cx).launch
  .next (s.issue st cx 0x45 f.gn f.gp (unused f.d && unused f.s1 && unused f.s2 && unused f.s3 && xOnly f.x 3) []
    (match (s.launch? l).bind (fun x => x.splitsOn st) with
     | none => s.badProgram st cx 0x45
     | some h =>
       if code = 3 || h.2 != 2 ^ (s.stall st).config then s.badProgram st cx 0x45
       else if s.passCount st cx ≠ 0 then s
       else if (s.stall st).splits.toList.any (fun y => !y.passes.isEmpty) then s.badProgram st cx 0x45
       else
         ((s.modStall st (fun x => { x with config := code, splits := Vector.replicate 4 Split.reset })).modLaunch l (fun x =>
           { x with splits := x.splits.map (fun y => if y.1 = st.val then (st.val, 0, 2 ^ code) else y) })).retire st cx id))

/-- Whether tensors fit a pass (R70, R80, R111). -/
def PassReq.shapeOk (q : PassReq) (diag : Bool) (a w o : TDesc) (p : Option TDesc) : Bool :=
  let k := a.extent a.raxis
  let kt := modeRows q.mode
  (if q.entry then decide (q.mode < 2) && a.fmt == ⟨.plain, .bf16⟩ else modeAct q.mode a.fmt)
    && modeWgt q.mode w.fmt && drains o.fmt && a.loc == 1 && o.loc == 1 && w.loc != 2 && a.fits && o.fits
    && (w.loc == 0 || w.fits) && a.count == q.vectors * k && o.extent 0 == q.cols && o.count == q.vectors * q.cols
    && (if diag then (q.mode == 0 || q.mode == 3 || q.mode == 5) && q.width == 256 && q.tiles == 1 && k == 256 && w.ndim == 1
          && w.count == 256
        else decide ((q.rounds - 1) * kt < k) && decide (k ≤ q.rounds * kt) && w.extent w.raxis == k && w.colCount == q.cols
          && w.originK % 32 == 0)
    && (!q.preload || (match p with
        | some p => (p.fmt == ⟨.plain, .bf16⟩ || p.fmt.fam == .wide) && p.loc == 1 && p.fits && p.extent 0 == q.cols
            && (p.count == q.cols || p.count == q.vectors * q.cols)
        | none => false))

/-- Whether a pass word keeps R70. -/
def PassReq.wordOk (q : PassReq) : Bool :=
  decide (q.mode < 6) && q.f 4 3 != 3 && q.f 9 8 != 3 && q.f 15 10 == 0 && q.f 63 50 == 0
    && (if q.tiles = 1 then q.ilv == 1 else decide (q.vectors ≤ 256 / q.ilv) && q.tiles % q.ilv == 0)

/-- PASS: queues a pass (R69 to R75); it waits where both places of its split are taken. DESIGN CHOICE: without PRELOAD, Table 5-9
ignores S3, and an S3 beyond the descriptor file still breaks R133 (log 154). -/
def execPass (st : StallId) (cx : CtxId) (f : FmtA) (s : State) : Res :=
  let c := s.ctxOf st cx
  let word := c.getG (f.x.toNat % 32)
  let sp := bits word.toNat 49 48
  let x := s.splitOf st sp
  let pre := bit word.toNat 7
  .next (s.issue st cx 0x40 f.gn f.gp (inFile f.d 16 && inFile f.s1 16 && inFile f.s2 16 && inFile f.s3 16 && xOnly f.x 0x1F)
    (gs [f.x.toNat % 32] ++ ts ([f.d.val, f.s1.val, f.s2.val] ++ (if pre then [f.s3.val] else [])))
    (if !s.holdsSplit st cx sp then s.badProgram st cx 0x40
     else if 2 ≤ x.passes.length then s
     else match s.tensor st cx (c.getT f.s1), s.tensor st cx (c.getT f.s2), s.tensor st cx (c.getT f.d) with
       | some a, some w, some o =>
         let p := if pre then s.tensor st cx (c.getT f.s3) else none
         let mine := x.loads.find? (fun l => l.pass.isNone && l.desc == c.getT f.s2)
         let diag := (mine.map (·.diag)).getD false
         let q : PassReq := { num := x.passCount, serial := s.serial, ctx := cx, pc := c.pc, act := c.getT f.s1, wgt := c.getT f.s2,
                              pre := if pre then c.getT f.s3 else 0, out := c.getT f.d, word := word, width := s.splitWidth st,
                              tile0 := ((mine.map (·.num)).getD x.dropWld.tileCount), planned := b2n mine.isSome,
                              feedRows := a.rows st, preRows := (p.map (fun d => d.rows st)).getD [], drainRows := o.rows st }
         if !q.wordOk || !q.shapeOk diag a w o p then s.badProgram st cx 0x40
         else
           (s.modSplit st sp (fun x =>
             let y := if mine.isSome then
                 { x with loads := x.loads.map (fun l => if l.pass.isNone then { l with pass := some q.num } else l) }
               else x.dropWld
             ({ y with passCount := y.passCount + 1, tileCount := q.tile0 + q.tiles, waiting := y.waiting ++ [q] } : Split).plan)).tickSerial.retire st cx id
       | _, _, _ => s.badProgram st cx 0x40))

/-! ### Entry of a pass (R74, R77, R102, R114) -/

/-- What a pass latches, or none where it ends its launch with BAD_PROGRAM. -/
def Split.latch (x : Split) (q : PassReq) (a w o : TDesc) : Option Pass :=
  let esc : Int := if w.fmt.fam = .fb then w.ceil else 0
  let ea : Int := if q.entry then 9 else a.fmt.el.ex a.ceil
  let auto := esc + ea + w.fmt.el.ex w.ceil + 24
  match bf16Log2 x.ascl with
  | none => none
  | some k =>
    let dcs := (List.range q.ilv).map (fun c => x.dctl[c]?.getD 0)
    let anchor := fun (d : W64) => if bit d.toNat 19 then signed 16 (bits d.toNat 39 24) else auto
    let ok := dcs.all (fun d =>
      let v := d.toNat
      bits v 23 20 == 0 && bits v 63 40 == 0 && bits v 17 16 != 3 && (Elem.bf16.decode (v % 2 ^ 16)).isFin
        && decide (-32767 ≤ anchor d) && decide (anchor d ≤ 32767)
        && (o.fmt.fam != .wide || (v % 2 ^ 16 == 0x3F80 && decide (-32767 ≤ anchor d + k) && decide (anchor d + k ≤ 32767))))
    if ok then
      some { req := q, s0 := x.slot, saExp := k, anchors := dcs.map anchor, dctls := dcs, ins := [], parts := [], pres := [],
             plog := [], specials := [], excluded := [], satCols := [] }
    else none

/-- PASS_ENTRY: the waiting pass of a split enters where R74 lets it and its feed tokens cover its rows. -/
def execPassEntry (st : StallId) (sp : SplitId) (s : State) : Res :=
  let x := s.splitOf st sp
  .next (match x.waiting, s.splitLaunch st sp with
    | q :: rest, some (l, _) =>
      let ready := x.loads.any (fun t => t.pass == some q.num && t.index == 0 && t.data.isSome && t.issued == 256)
      let slotOk := (match x.flight.getLast? with
        | some p => decide (p.nextSlot ≤ x.slot)
        | none => true)
      if !ready || !slotOk || 2 ≤ x.flight.length then s
      else
        let bad := s.contextFault l (srcCtx st q.ctx) (some st) .badProgram 0x02 q.ctx (q.pc.toNat % 2 ^ 32 + 0x40 * 2 ^ 32) 0
        (match s.cover st q.ctx (.feed sp) (q.feedRows ++ q.preRows) with
         | .pending => s
         | .missing => bad
         | .held =>
           (match s.tensor st q.ctx q.act, s.tensor st q.ctx q.wgt, s.tensor st q.ctx q.out with
            | some a, some w, some o =>
              (match x.latch q a w o with
               | some p => s.modSplit st sp (fun x => { x with waiting := rest, flight := x.flight ++ [p] })
               | none => bad)
            | _, _, _ => bad))
    | _, _ => s)

/-! ### Slots (R60, R76) -/

/-- The tensors of a pass in flight. -/
def State.passView (s : State) (st : Nat) (x : Launch) (q : PassReq) : Option PassView :=
  match s.tensor st q.ctx q.act, s.tensor st q.ctx q.wgt, s.tensor st q.ctx q.out with
  | some a, some w, some o =>
    some { act := a, wgt := w, out := o, pre := if q.preload then s.tensor st q.ctx q.pre else none, seed := x.seed,
           strict := x.strictOvf }
  | _, _, _ => none

/-- The tiles of a pass that have arrived. -/
def Split.tilesOf (x : Split) (num : Nat) : List (Nat × Tile) :=
  x.loads.filterMap (fun l => if l.pass = some num then l.data.map (fun t => (l.index, t)) else none)

/-- Whether a split holds because a row that the first vector of a sweep reaches has not been issued (R66, R76). -/
def Split.tileHold (x : Split) : Bool :=
  x.flight.any (fun p => (p.active x.slot).any (fun w =>
    let k := x.slot - w.start
    decide (1 ≤ k) && decide (k ≤ 256)
      && !(x.loads.any (fun l => l.pass == some p.req.num && l.index == w.tile && decide (k ≤ l.issued)))))

/-- Whether a row of a pass drains at a slot. -/
def Pass.drains (p : Pass) (t : Nat) : Bool :=
  (p.active t).any (fun w => w.final && decide (w.start + 257 + p.req.width ≤ t)
    && decide (t - (w.start + 257 + p.req.width) < w.n))

/-- The vector of a pass that enters at a slot: its sweep and its number in it. -/
def Pass.entering (p : Pass) (t : Nat) : Option (Sweep × Nat) :=
  ((p.active t).find? (fun w => decide (t - w.start < w.n))).map (fun w => (w, t - w.start))

/-- The preload elements of one row of a phase, as a read of bay words (R111, R112). -/
def State.preloadRow (s : State) (st : Nat) (q : PassReq) (d : TDesc) (vec phase : Nat) : State × List FNum × Option Nat :=
  let row := if d.count = q.cols then 0 else vec
  let idx := (List.range q.width).map (fun j => d.streamAt (row * q.cols + phase * q.width + j))
  if d.fmt.fam = .wide then
    let r := s.bayReadList st (idx.flatMap (fun e => (List.range 4).map (d.base + 4 * e + ·)))
    let a := r.1.bayReadList st (idx.map (fun e => d.sbase + e / 2))
    (a.1, (idx.zipIdx).map (fun e =>
      let t := leNat (wordsBytes ((r.2.1.drop (4 * e.2)).take 4))
      let an := ((a.2.1[e.2]?.getD 0).toNat / 2 ^ (16 * (e.1 % 2))) % 2 ^ 16
      (Wide.decode (BitVec.ofNat 128 t) (BitVec.ofNat 16 an)).num), r.2.2.orElse (fun _ => a.2.2))
  else
    let r := s.bayReadList st (idx.map (fun e => let p := d.elemPos e; d.base + p.1 + p.2 / 32))
    (r.1, (idx.zipIdx).map (fun e =>
      Elem.bf16.decode (((r.2.1[e.2]?.getD 0).toNat / 2 ^ ((d.elemPos e.1).2 % 32)) % 2 ^ 16)), r.2.2)

/-- A vector that enters at a slot, and in a first round its start values (R72, R77, R112). -/
def State.enterVector (s : State) (st : Nat) (v : PassView) (p : Pass) (t : Nat) (upset : Option ArrayUpset) :
    State × SlotOut × Option Nat :=
  let none' : SlotOut := { pass := p, sat := false, nonfin := false, faults := [], rows := [] }
  match p.entering t with
  | none => (s, none', none)
  | some (w, vl) =>
    let q := p.req
    let sl := p.slice v.k w
    let vec := w.v0 + vl
    let i0 := vec * v.k + sl.1
    let r := s.bayReadList st (v.act.elemWords i0 sl.2)
    let e := p.enterActs v i0 (v.act.elemCodes i0 sl.2 r.2.1)
    let u := upsetActs upset e.1
    let faults := if e.2.2 then [(Status.badDescriptor, q.pc.toNat % 2 ^ 32 + 0x40 * 2 ^ 32)] else []
    let p1 : Pass := { p with ins := p.ins ++ [⟨w.idx, vl, u.1, u.2⟩] }
    let o : SlotOut := { none' with pass := p1, nonfin := e.2.1, faults := faults }
    match v.pre, w.first with
    | some d, true =>
      let A := (p.anchors[w.phase]?).getD 0
      let b := r.1.preloadRow st q d vec w.phase
      let o1 := (b.2.1.zipIdx).foldl (fun (o : SlotOut) x =>
        let z := startPart v.seed v.out.tag A (v.outIndex q vec (w.phase * q.width + x.2)) p.saExp x.1
        let key := partKey w.phase vec x.2
        let o2 := { o with pass := { o.pass with parts := Tab.set Part.zero o.pass.parts key z.1,
                                                 pres := Tab.set 0 o.pass.pres key (z.1.res A) } }
        if z.2 then o2.saturate v.strict t w.phase x.2 else o2) o
      (b.1, o1, r.2.2.orElse (fun _ => b.2.2))
    | _, _ => (r.1, o, r.2.2)

/-- Half of a bay word written, the other half kept (R115). -/
def State.bayHalf (s : State) (st addr : Nat) (hi : Bool) (v : Nat) : State :=
  let w := (s.bayWord (bayKey st addr)).toNat % 2 ^ 32
  s.bayWrite st addr (if hi then halves (w % 2 ^ 16) v else halves v (w / 2 ^ 16))

/-- The drained rows of a slot written; with the last row of a phase its anchors (R113, R115). NONFINITE is raised. -/
def State.writeRows (s : State) (st : Nat) (v : PassView) (p : Pass) (rows : List (Nat × Nat)) : State :=
  rows.foldl (fun s r =>
    let d := p.drainRow v r.1 r.2
    let s1 := s.raiseFlags st p.req.ctx false d.2.2
    let idx := (List.range p.req.width).map (fun j => v.outIndex p.req r.1 (r.2 * p.req.width + j))
    if v.out.fmt.fam = .wide then
      let s2 := (idx.zip d.2.1).foldl (fun s x =>
        s.bayWrites st (v.out.base + 4 * x.1) (bytesWords (leBytes 16 x.2.encode.1.toNat))) s1
      if r.1 + 1 = p.req.vectors then
        (List.range p.req.vectors).foldl (fun s vec =>
          let dr := (p.drainRow v vec r.2).2.1
          (dr.zipIdx).foldl (fun s x =>
            let e := v.outIndex p.req vec (r.2 * p.req.width + x.2)
            s.bayHalf st (v.out.sbase + e / 2) (e % 2 == 1) x.1.encode.2.toNat) s) s2
      else s2
    else s1.bayWrites st (v.rowAt p.req r.1 r.2) (rowWords v.out.fmt.el d.1)) s

/-- A fault that the array finds in a slot: status, syndrome, address. -/
abbrev SlotFault := Status × Nat × Nat

/-- One pass of a split through one slot. -/
def State.slotPass (s : State) (st sp : Nat) (x : Launch) (t : Nat) (upset : Option ArrayUpset) (mayDrain : Bool) (num : Nat) :
    State × List SlotFault :=
  match (s.splitOf st sp).flight.find? (fun p => p.req.num == num) with
  | none => (s, [])
  | some p =>
    match s.passView st x p.req with
    | none => (s, [])
    | some v =>
      let tiles := (s.splitOf st sp).tilesOf num
      let e := s.enterVector st v p t upset
      let tile := fun (w : Sweep) => (tiles.find? (fun z => z.1 == w.tile)).map (·.2)
      let ws := p.active t
      let o1 := ws.foldl (fun (o : SlotOut) w => match tile w with
        | some tl => o.adds v tl w t upset
        | none => o) e.2.1
      let o2 := ws.foldl (fun (o : SlotOut) w => o.exits w t upset) o1
      let o3 := ws.foldl (fun (o : SlotOut) w => o.checks v sp tiles w t upset) o2
      let s1 := e.1.modSplit st sp (fun y =>
        { y with flight := y.flight.map (fun z => if z.req.num = num then o3.pass else z) })
      let s2 := s1.raiseFlags st p.req.ctx o3.sat o3.nonfin
      let fs := (o3.faults.map (fun f => (f.1, f.2, 0))) ++ (match e.2.2 with
        | some a => [(Status.poisonConsumed, 4 + sp, a)]
        | none => [])
      (if fs.isEmpty && mayDrain then s2.writeRows st v o3.pass o3.rows else s2, fs)

/-- A context fault that a slot of a split brings about: of its cells, tills and checks; of its loader; of a drain without its token. -/
inductive ArrFault where
  | slot (f : SlotFault)
  | load (r : Reader) (e : XErr)
  | drain (ctx : Nat) (pc : W64)
  deriving DecidableEq, Repr

/-- The status of such a fault. -/
def ArrFault.status : ArrFault → Status
  | .slot f => f.1
  | .load _ e => e.status
  | .drain _ _ => .badProgram

/-- The fault with the lowest status code (R95). -/
def lowestFault (fs : List ArrFault) : Option ArrFault :=
  fs.foldl (fun b f => match b with
    | none => some f
    | some g => if f.status.code < g.status.code then some f else some g) none

/-- The end of a launch by a fault of the array (R88, R92, R99, R109, R145). -/
def State.slotFault (s : State) (st sp l p : Nat) : ArrFault → State
  | .slot f =>
    let s1 := if f.1 = .checkMismatch then s.countMismatch st else s
    s1.contextFaultF l (srcStall st) (some st) f.1 0x01 sp f.2.1 f.2.2 (s.mapFlag s1) 0
  | .load r e => s.rdErr r p e
  | .drain ctx pc => s.contextFault l (srcCtx st ctx) (some st) .badProgram 0x02 ctx (pc.toNat % 2 ^ 32 + 0x40 * 2 ^ 32) 0

/-- A fault that is no context fault: a poisoned translation table (R269). -/
def ArrFault.isFatal : ArrFault → Bool
  | .load _ .fatal => true
  | _ => false

/-- What a slot of a split leaves: the launch goes on, or ends by the fault with the lowest status code (R95). -/
def State.slotEnd (s : State) (st sp l p : Nat) (fs : List ArrFault) : State :=
  match (fs.find? ArrFault.isFatal).orElse (fun _ => lowestFault fs) with
  | some f => s.slotFault st sp l p f
  | none => s

/-- Cycles of a slot of a split: those of the pass whose vectors enter (R60). -/
def Split.cycles (x : Split) : Nat :=
  match x.flight.getLast? with
  | some p => modeCycles p.req.mode
  | none => 1

/-- ARRAY_SLOT: one slot of a split. `hold` says that a port or the Packer could not move what the slot needs (R76, R161);
`upset` is an error that a fault of the hardware brings about in it; `ups` flips bits of stored words before they are read. Every fault
that the slot finds is ranked by R95: a drain without its token, the loader's, and those of the cells, tills and checks. -/
def execArraySlot (st : StallId) (sp : SplitId) (hold : Bool) (upset : Option ArrayUpset) (ups : List (Nat × BitVec 39))
    (s : State) : Res :=
  .next (match s.splitLaunch st sp with
    | none => s
    | some (l, x) =>
      let s0 := (s.upset st ups).modSplit st sp (fun y => y.plan)
      let y := s0.splitOf st sp
      let t := y.slot
      let drain := y.flight.filter (fun p => p.drains t)
      let cov := drain.map (fun p => (p.req, s0.cover st p.req.ctx (.drain sp) p.req.drainRows))
      let bad := (cov.filter (fun c => c.2 == .missing)).map (fun c => ArrFault.drain c.1.ctx c.1.pc)
      if hold || y.tileHold || cov.any (fun c => c.2 == .pending) then
        let r := s0.loaderStep st sp l x 1 upset
        r.1.slotEnd st sp l x.pitch (bad ++ r.2.map (fun e => .load e.1 e.2))
      else
        let r := (y.flight.map (fun p => p.req.num)).foldl (fun (r : State × List SlotFault) n =>
          let z := r.1.slotPass st sp x t upset bad.isEmpty n
          (z.1, r.2 ++ z.2)) (s0, [])
        let s1 := (r.1.modSplit st sp (fun z => { z with slot := z.slot + 1 })).modStall st (fun z => { z with slots := z.slots + 1 })
        let r2 := (s1.modLaunch l (fun z => { z with progress := z.progress + 1 })).loaderStep st sp l x y.cycles upset
        r2.1.slotEnd st sp l x.pitch (bad ++ r.2.map .slot ++ r2.2.map (fun e => .load e.1 e.2)))

/-- OUTPUT_ROWS_RELEASE: the oldest pass of a split, its rows drained and every verdict clean, completes (R91, R108). -/
def execOutputRowsRelease (st : StallId) (sp : SplitId) (s : State) : Res :=
  let x := s.splitOf st sp
  .next (match x.flight, s.splitLaunch st sp with
    | p :: rest, some (l, _) =>
      if x.slot < p.endSlot then s
      else
        (s.modSplit st sp (fun x =>
          { x with flight := rest, satMask := p.satCols.foldl (fun m c => m ||| 2 ^ c) 0,
                   loads := x.loads.filter (fun t => t.pass != some p.req.num) })).modLaunch l
          (fun z => { z with progress := z.progress + 1 })
    | _, _ => s)

end Sys2Proof.Machine
end

