-- ==== Sys2Proof/Machine/Atomics.lean ====
section
/-! DEFINITION. The memory-side atomics that programs issue (spec 05 R147, R148; 04 R117). -/

namespace Sys2Proof.Machine

/-- An atomic issued at the address in aS1: with D = 0 it is posted, else gD waits for ATOMIC_RESPONSE. -/
def State.atomIssue (s : State) (st c opc : Nat) (f : FmtA) (op : AtomOp) (x y : W64) : State :=
  match devOperand ((s.ctxOf st c).getA f.s1) 0 op.size with
  | none => s.badProgram st c opc
  | some a => s.memIssue st c opc .atomic (.atom op f.d x y) a op.size (fun k => if f.d = 0 then k else k.await (.g f.d))

/-- AADD, AMIN and AMAX: the type is X[1:0]. -/
def execAtom (opc : Nat) (ops : Fin 4 → AtomOp) (st : StallId) (cx : CtxId) (f : FmtA) (s : State) : Res :=
  .next (s.issue st cx opc f.gn f.gp (inFile f.s1 16 && unused f.s3 && xOnly f.x 3) (gs [f.d, f.s2])
    (s.atomIssue st cx opc f (ops (Fin.ofNat 4 f.x.toNat)) ((s.ctxOf st cx).getG f.s2) 0))

/-- AADD. -/
def execAadd (st : StallId) (cx : CtxId) (f : FmtA) (s : State) : Res :=
  execAtom 0x98 (fun | 0 => .addF32 | 1 => .addBf16 | 2 => .addI32 | 3 => .addI64) st cx f s
/-- AMIN. -/
def execAmin (st : StallId) (cx : CtxId) (f : FmtA) (s : State) : Res :=
  execAtom 0x99 (fun | 0 => .minF32 | 1 => .minBf16 | 2 => .minI32 | 3 => .minI64) st cx f s
/-- AMAX. -/
def execAmax (st : StallId) (cx : CtxId) (f : FmtA) (s : State) : Res :=
  execAtom 0x9A (fun | 0 => .maxF32 | 1 => .maxBf16 | 2 => .maxI32 | 3 => .maxI64) st cx f s

/-- ACAS: gD = old; writes gS3 if old = gS2. -/
def execAcas (st : StallId) (cx : CtxId) (f : FmtA) (s : State) : Res :=
  let c := s.ctxOf st cx
  .next (s.issue st cx 0x9B f.gn f.gp (inFile f.s1 16 && xOnly f.x 0) (gs [f.d, f.s2, f.s3])
    (s.atomIssue st cx 0x9B f .cas (c.getG f.s2) (c.getG f.s3)))

/-- AWADD: the till-format add of gS3:gS2; gD = the saturation bit. -/
def execAwadd (st : StallId) (cx : CtxId) (f : FmtA) (s : State) : Res :=
  let c := s.ctxOf st cx
  .next (s.issue st cx 0x9C f.gn f.gp (inFile f.s1 16 && xOnly f.x 0) (gs [f.d, f.s2, f.s3])
    (s.atomIssue st cx 0x9C f .addTill (c.getG f.s2) (c.getG f.s3)))

end Sys2Proof.Machine
end

