-- ==== Sys2Proof/Machine/LineCode.lean ====
section
/-! DEFINITION. The code of a memory line: 36 symbols of 16 bits over GF(2^16), three of them check symbols; what it corrects and what it
detects (spec 11 R281, R282). -/

namespace Sys2Proof.Machine

/-! ### The field -/

/-- The field polynomial x^16 + x^12 + x^3 + x + 1, without its leading term. -/
def gfPoly : BitVec 16 := 0x100B#16

/-- A symbol times x, which is α. -/
def gfTimesX (a : BitVec 16) : BitVec 16 := if a.getLsbD 15 then (a <<< 1) ^^^ gfPoly else a <<< 1

/-- A product, over the low `n` bits of the second factor, from its lowest. -/
def gfMulBits : Nat → BitVec 16 → BitVec 16 → BitVec 16
  | 0, _, _ => 0
  | n + 1, a, b => (if b.getLsbD 0 then a else 0) ^^^ gfMulBits n (gfTimesX a) (b >>> 1)

/-- A product in GF(2^16). -/
def gfMul (a b : BitVec 16) : BitVec 16 := gfMulBits 16 a b

/-- A power of α. -/
def gfAlpha : Nat → BitVec 16
  | 0 => 1
  | n + 1 => gfTimesX (gfAlpha n)

/-! ### The code -/

/-- The value of a word of symbols as a polynomial at a point: symbol `i` is the coefficient of x^i. -/
def gfEval : List (BitVec 16) → BitVec 16 → BitVec 16
  | [], _ => 0
  | c :: cs, x => c ^^^ gfMul x (gfEval cs x)

/-- The three syndromes of a word, at the roots of the generator. -/
def gfSyndromes (w : List (BitVec 16)) : BitVec 16 × BitVec 16 × BitVec 16 :=
  (gfEval w (gfAlpha 0), gfEval w (gfAlpha 1), gfEval w (gfAlpha 2))

/-- The generator: the product of (x - α^0), (x - α^1) and (x - α^2), from its lowest coefficient. -/
def gfGenerator : List (BitVec 16) :=
  let a := gfAlpha 0
  let b := gfAlpha 1
  let c := gfAlpha 2
  [gfMul a (gfMul b c), gfMul a b ^^^ gfMul a c ^^^ gfMul b c, a ^^^ b ^^^ c, 1]

/-- One step of the division of a message by the generator: the remainder so far and the next symbol from the highest. -/
def gfStep (r : BitVec 16 × BitVec 16 × BitVec 16) (m : BitVec 16) : BitVec 16 × BitVec 16 × BitVec 16 :=
  let q := m ^^^ r.2.2
  let g := fun (i : Nat) => gfMul q (gfGenerator[i]?.getD 0)
  (g 0, r.1 ^^^ g 1, r.2.1 ^^^ g 2)

/-- The data symbols of a line: symbol `i` is bytes 2i and 2i + 1, little-endian. -/
def lineSymbols : List Byte → List (BitVec 16)
  | a :: b :: rest => (b ++ a : BitVec 16) :: lineSymbols rest
  | _ => []

/-- A line's word: three check symbols, then the 32 data symbols and the metadata symbol, whose bit 0 is POISON. DESIGN CHOICE: R281 does
not order the symbols within the word; symbol 0 to 31 of a syndrome are data, 32 the metadata and 33 to 35 the checks (log 162). -/
def lineEncode (bs : List Byte) (poison : Bool) : List (BitVec 16) :=
  let m := lineSymbols bs ++ [if poison then 1 else 0]
  let r := (m.reverse).foldl gfStep (0, 0, 0)
  [r.1, r.2.1, r.2.2] ++ m

/-- The number of a word's place as a syndrome counts it: data 0 to 31, metadata 32, checks 33 to 35. -/
def symbolOf (i : Nat) : Nat := if i < 3 then 33 + i else i - 3

/-- What a controller finds in a word as it is delivered: no error; one symbol in error, which is corrected; or an error that it can only
detect (R282). A single error of value e at place i has the syndromes e, e·α^i and e·α^2i. -/
def lineDecode (w : List (BitVec 16)) : LineOutcome :=
  let s := gfSyndromes w
  if s = (0, 0, 0) then .good
  else match (List.range 36).find? (fun i => s.1 != 0 && s.2.1 == gfMul s.1 (gfAlpha i) && s.2.2 == gfMul s.1 (gfAlpha (2 * i))) with
    | some i => .corrected (symbolOf i)
    | none => .bad

/-- A word with the symbol at a place changed by a value. -/
def symbolError (w : List (BitVec 16)) (i : Nat) (e : BitVec 16) : List (BitVec 16) := w.set i ((w[i]?.getD 0) ^^^ e)

end Sys2Proof.Machine
end

