-- ==== Sys2Proof/Machine/Memory.lean ====
section
/-! DEFINITION. The commands of the memory controllers and stacks: MEMORY_READ, MEMORY_WRITE, MEMORY_ATOMIC, ATOMIC_BUFFER_EVICT,
PATROL_READ, STACK_TEMP_REPORT, MEMORY_UNIT_POWER_DOWN (spec 11 R266, R278 to R297; 18 R452, R472, R474; 20 R503). -/

namespace Sys2Proof.Machine

/-! ### What counts against a pseudo-channel (Table 18-22) -/

/-- A pseudo-channel is mapped out (R472, R474): it keeps serving until the next chip reset. -/
def State.mapOutPch (s : State) (u k : Nat) : State :=
  let m := s.mem.pchOut[u]?.getD 0
  if m.getLsbD k then s
  else
    let s1 := { s with mem := { s.mem with pchOut := s.mem.pchOut.setIfInBounds u (m ||| BitVec.ofNat 32 (2 ^ k)) } }
    s1.replaceEvent 4 (u * 32 + k) 0

/-- One more uncorrectable line: 64 within 24 hours map the pseudo-channel out. -/
def State.countLine (s : State) (u o : Nat) : State :=
  let key := u * 32 + pchOf o
  let l := addTime (Tab.get [] s.health.lineBad key) s.now.toNat (24 * hour)
  let s1 := { s.afterNow with health := { s.health with lineBad := Tab.set [] s.health.lineBad key l } }
  if 64 ≤ l.length then s1.mapOutPch u (pchOf o) else s1

/-- One more corrected symbol: more than 10,000 within an hour map the pseudo-channel out. -/
def State.countSymbol (s : State) (u o : Nat) : State :=
  let key := u * 32 + pchOf o
  let l := addTime (Tab.get [] s.health.symbols key) s.now.toNat hour
  let s1 := { s.afterNow with health := { s.health with symbols := Tab.set [] s.health.symbols key l } }
  if 10000 < l.length then s1.mapOutPch u (pchOf o) else s1

/-! ### Payload words on their way (R280) -/

/-- The bit of a stored word that the code corrects, by its place in the word (R163). -/
def correctedBit (x : BitVec 39) : Nat :=
  let sy := (baySyndrome x).1
  (hamData sy).getD (if sy = 0 then 38 else 32 + Nat.log2 sy)

/-- The unit kind, index and syndrome of a payload word error (Table 18-4). `b` is its byte 3. -/
def upsetInfo (e : WordUpset) (cls u : Nat) (l : Lane) (b : Nat) : FaultInfo :=
  let syn := l.code + e.input.val * 2 ^ 8 + e.word.val * 2 ^ 16 + b * 2 ^ 24
  match e.place with
  | .router x y => FaultInfo.noCtx cls .ok 0x18 (x.val * 8 + y.val) syn 0 none none
  | .dieToDie iod => FaultInfo.noCtx cls .ok 0x19 iod syn 0 none none
  | .controller => FaultInfo.noCtx cls .ok 0x10 u 0 0 none none

/-- The unit that counts corrected words apart from others (R454). -/
def upsetKey (e : WordUpset) (u : Nat) : Nat :=
  match e.place with
  | .router x y => 2000 + x.val * 8 + y.val
  | .dieToDie iod => 2200 + iod.val
  | .controller => 2300 + u

/-- The clerk reports for routers and interfaces, a controller for itself (log 161). -/
def upsetSrc (e : WordUpset) (u : Nat) : Nat :=
  match e.place with
  | .controller => srcMc u
  | _ => srcClerk

/-- Bytes with their word `i` replaced, where they reach so far. -/
def setWord (bs : List Byte) (i : Nat) (w : W32) : List Byte :=
  bs.take (4 * i) ++ (leBytes 4 w.toNat).take ((bs.drop (4 * i)).length) ++ bs.drop (4 * i + 4)

/-- A payload word met in error, `z` what its decoding gives: corrected as it travels on, or the payload poisoned (R280). -/
def State.wordMet (s : State) (e : WordUpset) (u : Nat) (l : Lane) (bs : List Byte) (x : BitVec 39) (z : BayRead) :
    State × List Byte × Bool :=
  match z with
  | .good w => (s, setWord bs e.word w, false)
  | .corrected w => (s.postCorrected (upsetKey e u) (upsetSrc e u) (upsetInfo e 0 u l (correctedBit x)), setWord bs e.word w, false)
  | .poisoned => (s.postFault (upsetSrc e u) (upsetInfo e 1 u l 0xFF), bs, true)

/-- Payload that travels in a lane to or from a controller: the state, the payload as it arrives, and whether it travels on as poisoned
(R280). -/
def State.carried (s : State) (e : Option WordUpset) (u : Nat) (l : Lane) (bs : List Byte) : State × List Byte × Bool :=
  match e with
  | none => (s, bs, false)
  | some e =>
    let x := bayEncode (BitVec.ofNat 32 (leNat ((bs.drop (4 * e.word)).take 4))) ^^^ e.flips
    s.wordMet e u l bs x (bayDecode x)

/-! ### Outcomes of a line read (R282) -/

/-- A memory line error as its controller reports it (Table 18-4). -/
def State.lineInfo (s : State) (cls u o sym : Nat) : FaultInfo :=
  FaultInfo.noCtx cls .ok 0x10 u (lineSyn u o sym) (o / 64 * 64) (s.linePitch u o) none

/-- One symbol in error: reported and counted; the line is rewritten as it is delivered. -/
def State.lineCorrected (s : State) (u o sym : Nat) : State :=
  (s.postCorrected (1000 + u) (srcMc u) (s.lineInfo 0 u o sym)).countSymbol u o

/-- A line written back with POISON set and its data zero. -/
def State.poisonLine (s : State) (u o : Nat) : State :=
  let k := memKey u o / 64
  { s with mem := { s.mem.setPoison k true with bytes := Tab.clearRange s.mem.bytes (64 * k) (64 * k + 64) } }

/-- An uncorrectable line: poisoned, reported as a deferred fault, and counted. -/
def State.lineLost (s : State) (u o : Nat) : State :=
  ((s.poisonLine u o).postFault (srcMc u) (s.lineInfo 1 u o 0xFF)).countLine u o

/-! ### Regions (R289 to R292) -/

/-- A region enters QUARANTINED for a line with no good copy (R292): both copies are poisoned, and a record goes to the installer
and to every pitch that may map it. -/
def State.quarantine (s : State) (n x u : Nat) : State :=
  let pr := s.csPlace n false x
  let rp := s.csPlace n true x
  let s1 := s.poisonLine pr.1 pr.2
  let s2 := if s.fld 0 (offCsCtl n) 2 2 = 1 then s1.poisonLine rp.1 rp.2 else s1
  let s3 := s2.modRegion n (fun r => { r with state := .quarantined })
  let ks := (List.range 24).filter (fun p => bit (s.raw 0 (offCsPitch n)) p)
  s3.postDbk (ks ++ [24]) .always (srcMc u) 0x27 (leBytes 1 n ++ List.replicate 7 0 ++ leBytes 8 (x / 64 * 64))

/-- A line rewritten from its other copy, with a repair record (R291). -/
def State.repairLine (s : State) (n : Nat) (bad good : Nat × Nat) : State :=
  let bs := s.memBytes good.1 (good.2 / 64 * 64) 64
  (s.writeLine bad.1 (bad.2 / 64 * 64) bs false).postDbk [24] .always (srcMc bad.1) 0x14
    (leBytes 1 n ++ leBytes 1 bad.1 ++ List.replicate 6 0 ++ leBytes 8 (bad.2 / 64 * 64))

/-- Whether the other copy of a line is good: its stack serves, it is not poisoned, and its read does not fail. -/
def State.copyGood (s : State) (pl : Nat × Nat) (alt : LineOutcome) : Bool := !s.linePoison pl.1 pl.2 && alt != .bad

/-- An uncorrectable line of a SEALED region (R291, R292). `again` is how the line reads once it has been rewritten. -/
def State.sealedLost (s : State) (n : Nat) (rep : Bool) (x u o : Nat) (alt again : LineOutcome) : State :=
  let other := s.csPlace n (!rep) x
  let s0 := s.countLine u o
  if s0.fld 0 (offCsCtl n) 2 2 = 1 && s0.copyGood other alt then
    let s1 := (match alt with
      | .corrected sym => s0.lineCorrected other.1 other.2 sym
      | _ => s0)
    let s2 := s1.repairLine n (u, o) other
    (match again with
     | .bad =>
       if rep then s2.poisonLine u o
       else { s2 with mem := { s2.mem with badLines := memKey u o / 64 :: s2.mem.badLines } }
     | .corrected sym => s2.lineCorrected u o sym
     | .good => s2)
  else (s0.postFault (srcMc u) (s0.lineInfo 1 u o 0xFF)).quarantine n x u

/-- A read of a line of a SEALED region whose stack is off: with no good copy of the line the region is quarantined (R289, R292). -/
def State.offLine (s : State) (u o : Nat) : State :=
  match s.regionAt u o with
  | some (n, rep, x) =>
    let other := s.csPlace n (!rep) x
    if (s.region n).state = .sealed && !(s.fld 0 (offCsCtl n) 2 2 = 1 && !s.linePoison other.1 other.2) then s.quarantine n x u else s
  | none => s

/-- What a line read does to the line, whichever unit takes its data (R282, R291, R292). `out` is what
`lineDecode` finds in the line's word as the stack delivers it (R281). A stack that is off is not read. -/
def State.lineRead (s : State) (u o : Nat) (out alt again : LineOutcome) : State :=
  if s.unitOff u then s.offLine u o
  else match out with
    | .good => s
    | .corrected sym => s.lineCorrected u o sym
    | .bad =>
      match s.regionAt u o with
      | some (n, rep, x) => if (s.region n).state = .sealed then s.sealedLost n rep x u o alt again else s.lineLost u o
      | none => s.lineLost u o

/-- A request takes its unit out of POWER_DOWN (R503). -/
def State.wakeUnit (s : State) (u : Nat) : State :=
  if s.mem.pwr[u]?.getD .active = .powerDown then s.setUnitPwr u .active else s

/-- A read of a region with no good copy while a stack of it is off quarantines it (R289). -/
def State.offRead (s : State) (pl : Place) : State :=
  match pl.region, pl.replica with
  | some n, some _ =>
    if (s.region n).state = .sealed && s.linePoison (s.readPlace pl).1 (s.readPlace pl).2 then
      (match s.regionAt pl.unit pl.off with
       | some (_, _, x) => s.quarantine n x pl.unit
       | none => s)
    else s
  | _, _ => s

/-! ### The commands -/

/-- MEMORY_READ: a load is served, its line read with the outcome the stack gives; or, without a request, a line of a unit is read
for a unit that takes its data as its own commands say. -/
def execMemoryRead (job : Option Served) (u : UnitId) (off : Nat) (o alt again : LineOutcome) (s : State) : Res :=
  .next (match job with
    | none =>
      if s.unitC u ≤ off then s
      else ((s.wakeUnit u).lineRead u off o alt again)
    | some j =>
      match s.req? j.id with
      | none => s
      | some r =>
        if r.served.isSome || s.reqBlocked r then s
        else
          let serve := fun (n : Nat) =>
            let at0 := s.readPlace r.place
            let s1 := ((s.wakeUnit at0.1).lineRead at0.1 at0.2 o alt again).offRead r.place
            let at1 := s1.readPlace r.place
            let c := s1.carried j.err at1.1 .tc0 (s1.memBytes at1.1 at1.2 n)
            let a : MemAns := ⟨c.2.1, s1.linePoison at1.1 at1.2 || c.2.2, false⟩
            c.1.modReq j.id (fun q => { q with served := some a })
          match r.kind with
          | .load _ => serve 8
          | .loadT _ => serve 64
          | _ => s)

/-- Whether a write into a mirror range is held until the bridge has a credit for its copy (R486). -/
def State.mirrorHolds (s : State) (r : MemReq) : Bool := s.mirrored r.pitch r.addr.toNat && s.copyWaits r.place.unit

/-- MEMORY_WRITE: a store or a host's write is performed (R266, R284). A word that cannot be corrected poisons its line (R280). -/
def execMemoryWrite (job : Served) (s : State) : Res :=
  .next (match s.req? job.id with
    | none => s
    | some r =>
      if s.reqBlocked r || s.mirrorHolds r then s
      else match r.kind with
        | .store bs =>
          let c := (s.wakeUnit r.place.unit).carried job.err r.place.unit .tc1 bs
          c.1.serveStore r c.2.1 c.2.2
        | .hostWrite bs po =>
          let c := (s.wakeUnit r.place.unit).carried job.err r.place.unit .tc1 bs
          c.1.serveHost r c.2.1 (po || c.2.2)
        | _ => s)

/-- MEMORY_ATOMIC: an atomic is performed on its line, which is read first (R278). -/
def execMemoryAtomic (id : Nat) (o : LineOutcome) (s : State) : Res :=
  .next (match s.req? id with
    | none => s
    | some r =>
      if r.served.isSome || s.reqBlocked r || s.mirrorHolds r then s
      else match r.kind with
        | .atom op _ x y =>
          ((s.wakeUnit r.place.unit).lineRead r.place.unit r.place.off o .good .good).serveAtomic r op x y
        | _ => s)

/-- ATOMIC_BUFFER_EVICT: the oldest line of a controller's atomic buffer is written back; nothing else shows it (R279). -/
def execAtomicBufferEvict (u : UnitId) (s : State) : Res :=
  .next (match s.mem.atomicBuf.find? (fun k => k / 2 ^ 29 == u.val) with
    | some k => { s with mem := { s.mem with atomicBuf := s.mem.atomicBuf.erase k } }
    | none => s)

/-- PATROL_READ: the patrol reads the next line of its unit, unless the unit sleeps (R283). -/
def execPatrolRead (u : UnitId) (o alt again : LineOutcome) (s : State) : Res :=
  .next (if s.mem.pwr[u.val]?.getD .active ≠ .active || s.unitOff u then s
    else
      let a := s.mem.patrol[u.val]?.getD 0
      let s1 := { s with mem := { s.mem with patrol := s.mem.patrol.setIfInBounds u ((a + 64) % s.unitC u) } }
      s1.lineRead u a o alt again)

/-- MEMORY_UNIT_POWER_DOWN: a unit that has had no request for 2 µs (R503). -/
def execMemoryUnitPowerDown (u : UnitId) (s : State) : Res :=
  .next (if s.mem.pwr[u.val]?.getD .active = .active
      && s.mem.reqs.all (fun r => r.place.unit != u.val || r.served.isSome) then s.setUnitPwr u .powerDown else s)

/-! ### Stack temperature (R295 to R297) -/

/-- The step of a stack after a report (Table 11-13): SHUTDOWN is left at a chip reset alone. -/
def Stack.nextStep (x : Stack) (t : Int) : Nat :=
  if x.step = 3 || 105 * 8 ≤ t then 3
  else if 95 * 8 ≤ t || (x.step = 2 && 92 * 8 ≤ t) then 2
  else if 85 * 8 ≤ t || (1 ≤ x.step && 82 * 8 ≤ t) then 1
  else 0

/-- A stack that shuts down (R297): it is off, its regions follow R289, and each pitch that owns a unit of it takes a pitch fatal
fault, after which it stays FAILED. What it held is lost: its bytes read as memory does that nothing has written (log 3), and every line
of it that a region or a replica held stays poisoned until it is written whole (R292). -/
def State.stackShutdown (s : State) (k : Nat) : State :=
  let owners := (List.range 24).filter (fun p => (s.pitch p).state != .off && (s.unitsOf p).any (fun u => u / 2 == k))
  let s1 := s.modStack k (fun x => { x with off := true })
  let gone := { s1.mem with bytes := Tab.clearRange s1.mem.bytes (memKey (2 * k) 0) (memKey (2 * k + 2) 0),
                            poison := s1.mem.poison.filter (fun e => (e.1 / 2 ^ 29 / 2 != k) || s1.mem.isLost e.1) }
  let kept := ((List.range 16).flatMap s1.csRanges).filter (fun (r : Nat × Nat) => r.1 / 2 ^ 29 / 2 == k)
  let s2 := { s1 with mem := kept.foldl (fun (m : Mem) (r : Nat × Nat) => m.setLost r.1 r.2 true) gone }
  let s3 := s2.replaceEvent 6 k Status.hwFault.code
  let s4 := (List.range 16).foldl (fun s n =>
    match (s.csUnits n false).find? (fun u => u / 2 == k) with
    | some u =>
      if (s.region n).state = .sealed && s.fld 0 (offCsCtl n) 2 2 = 0 then
        s.quarantine n ((s.csUnits n false).idxOf u * 4096) u
      else s
    | none => s) s3
  owners.foldl (fun s p => (s.pitchFatal p (srcMc (2 * k)) 0x11 k 0 0).modPitch p (fun x => { x with lost := true })) s4

/-- STACK_TEMP_REPORT: a report steps the stack; every change of step writes a THERMAL record, and HOT is told to the members of
open collectives (R295, R296, R441). -/
def execStackTempReport (k : StackId) (temp : BitVec 12) (s : State) : Res :=
  let x := s.stack k
  let st := x.nextStep temp.toInt
  .next (if x.off then s
    else if st = x.step then s.modStack k (fun x => { x with temp := temp })
    else
      let t := s.stamp (srcMc (2 * k.val))
      let s1 := s.modStack k (fun x => { x with temp := temp, step := st, since := t })
      let s2 := s1.thermalRec k x.step st temp
      let s3 := if st = 2 then s2.slowAll k 128 t else if x.step = 2 then s2.slowAll k 0 t else s2
      if st = 3 then s3.stackShutdown k else s3)

end Sys2Proof.Machine
end

