-- ==== Sys2Proof/Machine/Pitches.lean ====
section
/-! DEFINITION. The commands of pitches and their interrupts: PITCH_ENABLE, PITCH_DISABLE, PRST_WARM_CMD, PRST_SCRUB_CMD,
FUNCTION_LEVEL_RESET, VF_DISABLE, SCRUB_ZEROING_DONE, PITCH_RESTORE_DONE, MSIX_HOLD_EXPIRY, MSIX_UNMASK (spec 15). -/

namespace Sys2Proof.Machine

/-! ### Functions (R373, R534) -/

/-- Whether the endpoint has a function: the PF, or a virtual function that is enabled. -/
def State.fnThere (s : State) (fn : Nat) : Bool := fn == 0 || decide (fn ≤ s.md.numVfs)

/-- Whether a function serves a pitch now. -/
def State.fnServes (s : State) (fn : Nat) : Bool := s.fnThere fn && (s.servedPitch fn).isSome

/-! ### Deleting what a pitch or a function holds -/

/-- FIRST and COUNT of a pitch's fence range (Table 14-1). -/
def State.fenceRange (s : State) (p : Nat) : Nat × Nat := (s.fld 0 (offFrange p) 12 0, s.fld 0 (offFrange p) 29 16)

/-- The state with a queue deleted without a record: its descriptors go, its slots are free. -/
def State.dropQueue (s : State) (q : Nat) : State :=
  { s with fe := { s.fe with
      queues := Tab.del s.fe.queues q,
      slots := s.fe.slots.map (fun x =>
        if x.queue = some q then { x with queue := none } else x) } }

/-- The state with a function's admin pair's registers saying that there is none. -/
def State.aqOff (s : State) (fn : Nat) : State := s.setFld fn offAqCfg 1 0 0

/-- Every queue of a function deleted (R370, R387), with its pitch's launches, host windows and fence definitions. -/
def State.dropFn (s : State) (fn p : Nat) : State :=
  let s1 := (s.fnQueues fn).foldl (fun s q => s.dropQueue q) s
  let r := s1.fenceRange p
  { s1 with fe := { s1.fe with
      launches := s1.fe.launches.filter (fun e => e.2.pitch != p),
      wins := Tab.clearRange s1.fe.wins (p * 64) (p * 64 + 64),
      fences := Tab.clearRange s1.fe.fences r.1 (r.1 + r.2) } }.aqOff fn

/-- The queues of a pitch: those of its function, but for the PF admin pair, which belongs to no pitch (R374). -/
def State.pitchQueues (s : State) (p : Nat) : List Nat :=
  let fn := s.fnOf p
  let pair := (s.fe.queues.filter (fun e => fn == 0 && e.2.admin)).flatMap (fun e => [e.1, e.2.cq])
  (s.fnQueues fn).filter (fun q => !pair.contains q)

/-- What a DISABLE adds to its reset (R370, Table 15-6): the queues of the pitch are deleted without a record, and its fences undefined. Its
host windows stay (R385). -/
def State.dropPitch (s : State) (p : Nat) : State :=
  let fn := s.fnOf p
  let s1 := (s.pitchQueues p).foldl (fun s q => s.dropQueue q) s
  let r := s1.fenceRange p
  let s2 := { s1 with fe := { s1.fe with
      launches := s1.fe.launches.filter (fun e => e.2.pitch != p),
      fences := Tab.clearRange s1.fe.fences r.1 (r.1 + r.2) } }
  if fn = 0 then s2 else s2.aqOff fn

/-- Every register of a function's BAR0 and its vectors return to their reset state (R387). -/
def State.resetFn (s : State) (fn : Nat) : State :=
  { s with regs := Tab.clearRange s.regs (regKey fn 0) (regKey fn 0x10000),
           msi := Tab.clearRange s.msi (fn * 64) (fn * 64 + 64) }

/-- Function teardown (R387): queues, windows, fences, registers and vectors, and the rings that the function registered. -/
def State.teardown (s : State) (p : Nat) : State :=
  let fn := s.fnOf p
  let s1 := (s.dropFn fn p).resetFn fn
  { s1 with dbk := s1.dbk.setIfInBounds p Ring.zero, flt := s1.flt.setIfInBounds p Ring.zero,
            rcl := s1.rcl.setIfInBounds p Ring.zero }

/-! ### Zeroing (R383) -/

/-- Whether a unit offset of a pitch lies in its private space and is to be zeroed: all of it, or all but the pages of the
translation table. -/
def State.zeroable (s : State) (p : Nat) (whole : Bool) (u off : Nat) : Bool :=
  let us := s.unitsOf p
  let x := (off / 4096 * us.length + us.idxOf u) * 4096 + off % 4096
  us.contains u && decide (off < s.pitchC p - s.csresBytes)
    && (whole || decide (x / 2 ^ 21 < s.tbase p / 2 ^ 21)
        || decide ((s.tbase p + s.tsize p + 2 ^ 21 - 1) / 2 ^ 21 ≤ x / 2 ^ 21))

/-- The private space of a pitch zeroed, with POISON clear, and its fence values with it (R350, R383). -/
def State.zeroSpace (s : State) (p : Nat) (whole : Bool) : State :=
  let r := s.fenceRange p
  -- where the whole space is zeroed no range of it stays poisoned
  let m := if whole && s.mem.lost.any (·.2.2) then (s.unitsOf p).foldl (fun (m : Mem) u => m.setLost (memKey u 0 / 64) (s.reserveStart u / 64) false) s.mem else s.mem
  { s with
    mem := { m with bytes := m.bytes.filter (fun e => !s.zeroable p whole (e.1 / 2 ^ 35) (e.1 % 2 ^ 35)),
                        poison := m.poison.filter (fun e => !s.zeroable p whole (e.1 / 2 ^ 29) (e.1 % 2 ^ 29 * 64)),
                        tlb := if whole then Tab.clearRange s.mem.tlb (p * 2 ^ 27) ((p + 1) * 2 ^ 27) else s.mem.tlb }
    fe := { s.fe with fences := s.fe.fences.map (fun (e : Nat × Fence) =>
              if r.1 ≤ e.1 ∧ e.1 < r.1 + r.2 then (e.1, { e.2 with value := 0 }) else e) } }

/-- Whether a reset's scrub zeroes the translation table too. -/
def Pitch.whole (x : Pitch) : Bool := x.enabling || x.cause == 7

/-- SCRUB_ZEROING_DONE: the zeroing of a scrub finishes (R383). -/
def execScrubZeroingDone (p : PitchId) (s : State) : Res :=
  let x := s.pitch p
  .next (if x.state = .resetting ∧ x.step = 6 ∧ x.zeroing = true then
      (s.zeroSpace p x.whole).modPitch p (fun x => { x with step := 7, zeroing := false, zeroed := true })
    else s)

/-! ### The end of a reset (R382 steps 7 to 9) -/

/-- The pending bit of every group of a function set, so that each is scanned. -/
def State.rescanLater (s : State) (fn : Nat) : State :=
  { s with fe := { s.fe with pendMask := (s.groupsOf fn).foldl (fun m g => m ||| BitVec.ofNat 64 (2 ^ g)) s.fe.pendMask } }

/-- Step 8 for one descriptor that step 3 ended. -/
def State.reportReset (s : State) (q : Nat) (h : W32) : State :=
  match ((s.queue? q).bind (fun x => x.desc? h)).bind (fun d => d.launch) with
  | some l => (match s.launch? l with
    | some _ => s.finishLaunch l
    | none => s.finishDesc q h .pitchReset 0 0 none)
  | none => s.finishDesc q h .pitchReset 0 0 none

/-- The end of a launch that its reset ended and whose queue is deleted without a record (R387): its LAUNCH_END alone. -/
def State.noteReset (s : State) (q : Nat) (h : W32) : State :=
  match ((((s.queue? q).bind (fun x => x.desc? h)).bind (fun d => d.launch)).bind (fun l => s.launch? l)) with
  | some x => s.postLaunchEnd x .pitchReset
  | none => s

/-- The service SQs of a pitch that go HELD, or stay STOPPED, with their status blocks written. -/
def State.holdSqs (s : State) (p : Nat) : State :=
  (s.serviceSqs p).foldl (fun s q =>
    (s.modQueue q (fun x => { x with state := if x.state = .stopped then .stopped else .held, toFetch := 0 })).writeBlock q) s

/-- The pitch's units belong to no pitch: its stalls go DARK without a record, its units sleep (R370, R498, R503). -/
def State.releaseUnits (s : State) (p : Nat) : State :=
  let s1 := (s.modPitch p (fun x => { x with state := .off, lost := false })).setFld 0 (offPcfg p) 24 24 0
  let s2 := (s.stallsOf p).foldl (fun s st => s.setPwr st .dark) s1
  (s.unitsOf p).foldl (fun s u => if s.holdsRegion u then s else s.setUnitPwr u .selfRefresh) s2

/-- Step 7: units leave self-refresh but for those of a stack that is off; stalls enter NAP. -/
def State.restoreUnits (s : State) (p : Nat) : State :=
  let s1 := (s.unitsOf p).foldl (fun s u => if s.unitOff u then s else s.setUnitPwr u .active) s
  (s.stallsOf p).foldl (fun s st => s.setPwr st (if s.inService st then .nap else .dark)) s1

/-- Steps 8 and 9, with the teardown or the disabling that the reset adds. -/
def State.resetEnd (s : State) (p : Nat) : State :=
  let x := s.pitch p
  let silent := x.teardown || x.disabling
  let s1 := if silent then x.toReport.foldl (fun s r => s.noteReset r.1 r.2) s
    else ((x.toReport.foldl (fun s r => s.reportReset r.1 r.2) s).drainCqs (s.fnQueues (s.fnOf p))).holdSqs p
  let failed := x.lost || (s1.unitsOf p).any (fun u => s1.unitOff u)
  let s2 := s1.modPitch p (fun x => { x with state := if failed then .failed else .running, step := 0, count := x.count + 1,
                                             scrubbed := x.scrub || x.whole, toReport := [] })
  let s3 := s2.writePsb p
  let s4 := s3.postDbk [p, 24] .always (srcPitch p) 0x13 (resetPayload x.cause (x.scrub || x.whole) (s3.pitch p).count)
  let fn := s4.fnOf p
  -- a bell to a group of the PF during the reset is scanned again for the service SQs (R382 step 2)
  let s4 := if fn = 0 then s4.rescanLater 0 else s4
  let s5 := if x.teardown then s4.teardown p else if x.disabling then s4.dropPitch p else s4
  let s6 := x.joined.foldl (fun s r =>
    let cq := (s.queue? r.1).map (fun y => y.cq)
    (s.finishDesc r.1 r.2 .ok 0 0 none).drainCqs cq.toList) s5
  let s7 := s6.modPitch p (fun x => { x with masked := false, joined := [], teardown := false, enabling := false, zeroed := false,
                                             scrub := false, disabling := false })
  let s8 := if x.teardown then s7 else s7.eventMsg p
  let s9 := (List.range (s8.vectorsOf p)).foldl (fun s v =>
    if (s.msiOf fn v).heldCause then (s.modMsi fn v (fun m => { m with heldCause := false })).sendMsi fn v else s) s8
  (if x.disabling then s9.releaseUnits p else s9).wakeFront

/-- PITCH_RESTORE_DONE: step 7 of a pitch's reset finishes; steps 8 and 9 follow. A reset that has become a scrub or a DISABLE and
has not zeroed goes back to the zeroing first. -/
def execPitchRestoreDone (p : PitchId) (s : State) : Res :=
  let x := s.pitch p
  .next (if x.state = .resetting ∧ x.step = 7 then
      if x.disabling && x.cause != 7 then
        s.modPitch p (fun x => { x with step := 6, zeroing := true, zeroed := false, cause := 7 })
      else if x.scrub && !x.zeroed then s.modPitch p (fun x => { x with step := 6, zeroing := true })
      else (s.restoreUnits p).resetEnd p
    else s)

/-! ### PT_PCFG and PT_PRST (R368 to R370, R381) -/

/-- PT_PCFGp as it reads. -/
def State.pcfgView (s : State) (p : Nat) : Nat := setBits (s.raw 0 (offPcfg p)) 27 26 (s.pitch p).state.code

/-- What a pitch's EN written 1 needs (R369, R524). -/
def State.mayEnable (s : State) (p units : Nat) : Bool :=
  units != 0 && !s.sec.unlocked
    && (List.range 24).all (fun u => !bit units u || (!s.unitOff u && (match s.ownerOf u with
        | some q => q == p
        | none => true)))

/-- UNITS, PF0 and VECTORS of a value written to PT_PCFGp, in place. -/
def State.pcfgFields (s : State) (p v : Nat) : Nat :=
  setBits (setBits (setBits (s.raw 0 (offPcfg p)) 23 0 (bits v 23 0)) 25 25 (if p = 0 then bits v 25 25 else 0)) 38 32 (bits v 38 32)

/-- Whether a write of PT_PCFGp changes a field that is fixed now: while EN is 1, all three. -/
def State.pcfgFixed (s : State) (p v : Nat) : Bool :=
  s.fld 0 (offPcfg p) 24 24 == 1 && s.pcfgFields p v != s.raw 0 (offPcfg p)

/-- EN written 0 (R370, Table 15-8). -/
def State.pitchOff (s : State) (p : Nat) : State :=
  match (s.pitch p).state with
  | .off => s
  | .resetting => s.modPitch p (fun x => { x with disabling := true })
  | _ => ((s.setFld 0 (offPcfg p) 24 24 0).modPitch p (fun x => { x with disabling := true, teardown := false })).resetBegin p 7 false

/-- EN written 1 to a pitch in OFF (R369). -/
def State.pitchOn (s : State) (p : Nat) : State :=
  if s.mayEnable p (s.fld 0 (offPcfg p) 23 0) then
    -- a load of FK time that waits is dropped: none is possible once a pitch exists (R394)
    (({ s with clk := { s.clk with loadPending := none } }.setFld 0 (offPcfg p) 24 24 1).modPitch p (fun x => { x with enabling := true, disabling := false, teardown := false })).resetBegin
      p 6 true
  else s.postError 24 srcClerk .badDescriptor 6 p

/-- A write of PT_PCFGp. -/
def State.pcfgWrite (s : State) (p v : Nat) : State :=
  s.installerWrite (offPcfg p) (s.pcfgView p) v (some p) (s.pcfgFixed p v) (fun s =>
    let s1 := s.setRaw 0 (offPcfg p) (s.pcfgFields p v)
    if (s.pitch p).state = .off then (if bit v 24 then s1.pitchOn p else s1)
    else if bit v 24 then s1 else s1.pitchOff p)

/-- PITCH_ENABLE: a value with EN set is written to PT_PCFGp. -/
def execPitchEnable (p : PitchId) (v : W64) (s : State) : Res :=
  let s := s.settleHost 0
  .next (s.pcfgWrite p (setBits v.toNat 24 24 1))

/-- PITCH_DISABLE: EN is written 0, the other fields as they read. -/
def execPitchDisable (p : PitchId) (s : State) : Res :=
  let s := s.settleHost 0
  .next (s.pcfgWrite p (setBits (s.raw 0 (offPcfg p)) 24 24 0))

/-- CMD written to PT_PRSTp: 1 warm, 2 scrub; ignored in OFF and FAILED. -/
def State.prstWrite (s : State) (p cmd : Nat) : State :=
  let off := (s.pitch p).state == .off || (s.pitch p).state == .failed || cmd == 0 || cmd == 3
  s.installerWrite (offPrst p) 0 cmd (some p) off (fun s => s.resetRequest p 2 (cmd == 2) false)

/-- PRST_WARM_CMD and PRST_SCRUB_CMD (R381). -/
def execPrstWarmCmd (p : PitchId) (s : State) : Res :=
  let s := s.settleHost 0
  .next (s.prstWrite p 1)
def execPrstScrubCmd (p : PitchId) (s : State) : Res :=
  let s := s.settleHost 0
  .next (s.prstWrite p 2)

/-! ### Function-level resets (R381, R387) -/

/-- A reset of the pitch of a virtual function, with teardown; a function that is idle has only its registers reset. -/
def State.fnReset (s : State) (fn cause : Nat) : State :=
  match s.servedPitch fn with
  | some p => s.resetRequest p cause false true
  | none => s.resetFn fn

/-- VF_DISABLE: the enabled count falls to `n`. -/
def State.vfCut (s : State) (n : Nat) : State :=
  let cut := (List.range 25).filter (fun v => decide (n < v) && decide (v ≤ s.md.numVfs))
  let s1 := cut.foldl (fun s v => s.fnReset v 4) s
  { s1 with md := { s1.md with numVfs := min n s1.md.numVfs } }

/-- FUNCTION_LEVEL_RESET: of a VF, an operator's reset; of the PF, VF Enable is cleared, pitch 0 is reset if the PF owns it, and the
PF's admin pair is torn down. -/
def execFunctionLevelReset (fn : FnId) (s : State) : Res :=
  .next (if fn.val = 0 then
      let s1 := s.vfCut 0
      if s1.pf0 && (s1.pitch 0).state != .off then s1.resetRequest 0 3 false true
      else ((s1.fnQueues 0).foldl (fun s q => s.dropQueue q) s1).resetFn 0
    else if s.fnThere fn then
      let s1 := (match s.servedPitch fn with
        | some p => s.auditReset fn p 0 3 false
        | none => s)
      s1.fnReset fn 3
    else s)

/-- VF_DISABLE. -/
def execVfDisable (n : Nat) (s : State) : Res := .next (s.vfCut n)

/-! ### MSI-X (R377) -/

/-- MSIX_HOLD_EXPIRY: HOLD has passed since the oldest cause that is not signalled. -/
def execMsixHoldExpiry (fn : FnId) (v : VectorId) (s : State) : Res :=
  let m := s.msiOf fn v
  .next (if 0 < m.count ∧ m.t0.toNat + m.hold * 1000 ≤ s.now.toNat then s.afterNow.sendMsi fn v else s)

/-- The host clears a vector's mask bit; a pending message goes out. -/
def State.unmask (s : State) (fn v : Nat) : State :=
  let m := s.msiOf fn v
  let s1 := s.modMsi fn v (fun m => { m with mask := false })
  if m.pend && !s1.msiMasked fn v && !s1.fnIdle fn then (s1.modMsi fn v (fun m => { m with pend := false })).emit (.msix fn v m.addr m.data) else s1

/-- MSIX_UNMASK. -/
def execMsixUnmask (fn : FnId) (v : VectorId) (s : State) : Res :=
  let s := s.settleHost fn
  .next (if s.fnThere fn && decide (v.val < s.tableSize fn) then s.unmask fn v else s)

end Sys2Proof.Machine
end

