-- ==== Sys2Proof/Machine/SetUp.lean ====
section
/-! DEFINITION. Set-up commands of device memory and bays: XLAT_INVAL, CSRES_WRITE, CS_ENABLE, CS_SEAL, LIFT, CS_STATE_DEFERRED,
BAYWIN_OPEN, BAYWIN_CLOSE, WINDOW_FORCE, BAY_CORRECTED_REWRITE (spec 11 R271, R286 to R293; 06 R165, R172, R173). -/

namespace Sys2Proof.Machine

/-! ### Translation (Table 11-3) -/

/-- A write of PT_XLATp: TBASE and TSIZE are stored; INVAL drops every cached entry of the pitch (R271). -/
def State.xlatWrite (s : State) (p v : Nat) : State :=
  s.installerWrite (offXlat p) (s.raw 0 (offXlat p)) v (some p) false (fun s =>
    let s1 := s.setRaw 0 (offXlat p) (bits v 63 21 * 2 ^ 21)
    if bit v 0 then
      { s1 with mem := { s1.mem with tlb := Tab.clearRange s1.mem.tlb (p * 2 ^ 27) ((p + 1) * 2 ^ 27) } }
    else s1)

/-- XLAT_INVAL: a value with INVAL set is written. -/
def execXlatInval (p : PitchId) (v : W64) (s : State) : Res :=
  let s := s.settleHost 0
  .next (s.xlatWrite p (setBits v.toNat 0 0 1))

/-! ### Common stock (R286 to R293) -/

/-- A write of MC_CSRES: accepted while no unit belongs to a pitch and the reserve is smaller than a unit. -/
def State.csresWrite (s : State) (v : Nat) : State :=
  let used := (List.range 24).any (fun p => (s.pitch p).state != .off)
  let big := decide (s.chip.part.unitBytes / 2 ^ 21 ≤ bits v 13 0)
  s.quietWrite offCsres v (used || big) (fun s => s.setRaw 0 offCsres (bits v 13 0))

/-- CSRES_WRITE. -/
def execCsresWrite (v : W64) (s : State) : Res :=
  let s := s.settleHost 0
  .next (s.csresWrite v.toNat)

/-- The copies of a region: whether it is the replica, its units, its first and its number of reserve pages. -/
def State.csCopies (s : State) (n : Nat) : List (List Nat × Nat × Nat) :=
  let len := s.fld 0 (offCsCtl n) 45 32
  (s.csUnits n false, s.fld 0 (offCsCtl n) 29 16, len)
    :: (if s.fld 0 (offCsCtl n) 2 2 = 1 then [(s.csUnits n true, s.fld 0 (offCsCtl n) 61 48, len)] else [])

/-- Whether two copies share reserve pages of a unit. -/
def copiesMeet (a b : List Nat × Nat × Nat) : Bool := a.1.any b.1.contains && meets a.2.1 a.2.2 b.2.1 b.2.2

/-- Whether a region may leave OFF (R288). -/
def State.csReady (s : State) (n : Nat) : Bool :=
  let pages := s.fld 0 offCsres 13 0
  let mine := s.csCopies n
  let us := s.csUnits n false
  let rs := s.csUnits n true
  !us.isEmpty && mine.all (fun c => decide (1 ≤ c.2.2) && decide (c.2.1 + c.2.2 ≤ pages))
    && (List.range 16).all (fun m => m == n || (s.region m).state == .off
          || (s.csCopies m).all (fun c => mine.all (fun d => !copiesMeet c d)))
    && (s.fld 0 (offCsCtl n) 2 2 == 0
        || (rs.length == us.length && us.all (fun u => rs.all (fun r => u / 2 != r / 2))))

/-- Whether a launch that names a region is in flight. -/
def State.csBusy (s : State) (n : Nat) : Bool := s.fe.launches.any (fun e => e.2.csr.getLsbD n)

/-- A change of SEAL and EN taken now (Table 11-12). -/
def State.csMove (s : State) (n : Nat) (seal' en : Bool) : State :=
  let tgt := fun (s : State) (c : CsState) => s.modRegion n (fun _ => ⟨c, none⟩)
  match (s.region n).state, en with
  | .off, true => if s.csReady n then tgt s (if seal' then .sealed else .load) else s
  | .off, false => s
  | _, false => tgt s .off
  | .load, true => if seal' then tgt s .sealed else tgt s .load
  | .sealed, true => if seal' then tgt s .sealed else tgt s .load
  | .quarantined, true => tgt s .quarantined

/-- A change of SEAL and EN asked for: taken now, or held until no launch that names the region is in flight (R289). -/
def State.csAsk (s : State) (n : Nat) (seal' en : Bool) : State :=
  if s.csBusy n then s.modRegion n (fun r => { r with held := some (seal', en) }) else s.csMove n seal' en

/-- LIFT written 1 (R293). -/
def State.csLift (s : State) (n : Nat) : State :=
  if (s.region n).state = .quarantined then
    if s.csDirty n then s.postError 24 srcClerk .quarantinedRegion 7 n else s.modRegion n (fun r => { r with state := .sealed })
  else s

/-- MC_CSn_CTL as it reads. -/
def State.csView (s : State) (n : Nat) : Nat :=
  setBits (setBits (s.raw 0 (offCsCtl n)) 3 3 (b2n (s.csDirty n))) 5 4 (s.region n).state.code

/-- The fields of MC_CSn_CTL that are fixed while EN is 1. -/
def csFixedMask (v : Nat) : Nat :=
  bits v 2 2 * 4 + bits v 12 8 * 2 ^ 8 + bits v 29 16 * 2 ^ 16 + bits v 45 32 * 2 ^ 32 + bits v 61 48 * 2 ^ 48

/-- A write of MC_CSn_CTL (R287). -/
def State.csWrite (s : State) (n v : Nat) : State :=
  let old := s.raw 0 (offCsCtl n)
  let fixed := bit old 0 && csFixedMask v != csFixedMask old
  s.installerWrite (offCsCtl n) (s.csView n) v none fixed (fun s =>
    let s1 := (s.setRaw 0 (offCsCtl n) (csFixedMask v + bits v 1 0)).csAsk n (bit v 1) (bit v 0)
    if bit v 6 then s1.csLift n else s1)

/-- CS_ENABLE: a value is written with EN as it says. -/
def execCsEnable (n : RegionId) (v : W64) (s : State) : Res :=
  let s := s.settleHost 0
  .next (s.csWrite n v.toNat)

/-- CS_SEAL: SEAL is written, the other fields as they read. -/
def execCsSeal (n : RegionId) (on : Bool) (s : State) : Res :=
  let s := s.settleHost 0
  .next (s.csWrite n (setBits (s.raw 0 (offCsCtl n)) 1 1 (b2n on)))

/-- LIFT: LIFT is written 1, the other fields as they read. -/
def execLift (n : RegionId) (s : State) : Res :=
  let s := s.settleHost 0
  .next (s.csWrite n (setBits (s.raw 0 (offCsCtl n)) 6 6 1))

/-- CS_STATE_DEFERRED: a held change takes effect once no launch that names the region is in flight. -/
def execCsStateDeferred (n : RegionId) (s : State) : Res :=
  .next (match (s.region n).held with
    | some h => if s.csBusy n then s else s.csMove n h.1 h.2
    | none => s)

/-! ### Windows into bays (R172, R173) -/

/-- Fields of ST_BAYWINn (Table 6-4). -/
def State.winStall (s : State) (n : Nat) : Nat := s.fld 0 (offBayWin n) 13 8
def State.winBay (s : State) (n : Nat) : Nat := s.fld 0 (offBayWin n) 15 14
def State.winFirst (s : State) (n : Nat) : Nat := s.fld 0 (offBayWin n) 27 16
def State.winLast (s : State) (n : Nat) : Nat := s.fld 0 (offBayWin n) 39 28
def State.winOpen (s : State) (n : Nat) : Bool := s.fld 0 (offBayWin n) 3 3 == 1

/-- Whether a window in force names a stall, or one that closes with accesses to it granted (R173). -/
def State.windowOn (s : State) (st : Nat) : Bool :=
  (List.range 8).any (fun n => s.winOpen n && s.winStall n == st) || s.net.grants.any (fun g => g.stall == st)

/-- Whether a window may come into force now. -/
def State.winReady (s : State) (n : Nat) : Bool :=
  s.fld 0 (offBayWin n) 0 0 == 1 && decide (s.winStall n < 48) && decide (s.winFirst n ≤ s.winLast n)
    && decide (s.winLast n ≤ 3071) && !s.stallHeld (s.winStall n)
    && (List.range 8).all (fun m => m == n || !s.winOpen m || s.winStall m != s.winStall n || s.winBay m != s.winBay n
          || !meets (s.winFirst m) (s.winLast m + 1 - s.winFirst m) (s.winFirst n) (s.winLast n + 1 - s.winFirst n))

/-- A window comes into force where it may; that is work for its stall (R498). -/
def State.winForce (s : State) (n : Nat) : State :=
  if !s.winOpen n && s.winReady n then (s.wakeStall (s.winStall n)).setFld 0 (offBayWin n) 3 3 1 else s

/-- A write of ST_BAYWINn. -/
def State.winWrite (s : State) (n v : Nat) : State :=
  let old := s.raw 0 (offBayWin n)
  let keep := fun (v : Nat) => bits v 2 1 * 2 + bits v 52 8 * 2 ^ 8
  let fixed := bit old 0 && keep v != keep old
  s.installerWrite (offBayWin n) old v none fixed (fun s =>
    if bit v 0 then (s.setRaw 0 (offBayWin n) (keep v + 1 + bits old 3 3 * 8)).winForce n
    else s.setRaw 0 (offBayWin n) (keep v))

/-- BAYWIN_OPEN: a value with EN set is written. -/
def execBaywinOpen (n : WinId) (v : W64) (s : State) : Res :=
  let s := s.settleHost 0
  .next (s.winWrite n (setBits v.toNat 0 0 1))

/-- BAYWIN_CLOSE: EN is written 0; the window closes at once. -/
def execBaywinClose (n : WinId) (s : State) : Res :=
  let s := s.settleHost 0
  .next (s.winWrite n (setBits (s.raw 0 (offBayWin n)) 0 0 0))

/-- WINDOW_FORCE: an enabled window comes into force once its stall runs no launch. -/
def execWindowForce (n : WinId) (s : State) : Res := .next (s.winForce n)

/-! ### Bay maintenance (R165) -/

/-- BAY_CORRECTED_REWRITE: the `n`-th corrected word that waits is rewritten; a write since has taken it off the list. -/
def execBayCorrectedRewrite (n : Nat) (s : State) : Res :=
  .next (match s.rewrites[n]? with
    | some r => { s with bays := Tab.set 0 s.bays r.1 r.2, rewrites := s.rewrites.eraseIdx n }
    | none => s)

end Sys2Proof.Machine
end

