-- ==== Sys2Proof/Machine/FrontEnd.lean ====
section
/-! DEFINITION. The callers: bells, doorbell scans, fetching, completions, status blocks and hardware slots (spec 13 R312 to R343,
R573; 14 R356 to R362). -/

namespace Sys2Proof.Machine

/-! ### Groups and functions (R312, R544) -/

/-- The function that a bell group belongs to. -/
def State.groupFn (s : State) (g : Nat) : Option Nat :=
  let f := s.fld 0 (offBgrp g) 4 0
  if s.fld 0 (offBgrp g) 5 5 = 1 && s.fnThere f && decide (f ≤ 24) then some f else none

/-- Whether a queue number lies in a function's groups. -/
def State.queueOf (s : State) (fn q : Nat) : Bool := decide (q < 1024) && s.groupFn (q / 16) == some fn

/-- The Daybook that records of a function go to: its pitch's, or the installer's. -/
def State.fnDbk (s : State) (fn : Nat) : Nat := (s.pitchOfFn fn).getD 24

/-- Whether a queue is scanned, fetched from and started from: not a service SQ of a pitch that is resetting (R382). -/
def State.queueOpen (s : State) (x : Queue) : Bool :=
  x.admin || (match s.pitchOfFn x.fn with
    | some p => (s.pitch p).state == .running || (s.pitch p).state == .failed
    | none => true)

/-- Whether the callers run (Table 13-2). -/
def State.awake (s : State) : Bool := s.fe.st != .asleep && !s.dieDown && !s.pairIdle

/-- The state with the front end changed. -/
def State.modFe (s : State) (f : FrontEnd → FrontEnd) : State := { s with fe := f s.fe }

/-! ### Where a launch may go (R329, Table 3-5) -/

/-- The split that a launch of a shape would take on a stall: the configuration, the lowest split and the number of splits. -/
def State.freeSplit (s : State) (st shape : Nat) : Option (Nat × Nat × Nat) :=
  let held := s.fe.launches.filter (fun e => e.2.occupies && (e.2.splitsOn st).isSome)
  if held.isEmpty then some (shape, 0, 1)
  else if shape = 0 || (s.stall st).config ≠ shape then none
  else ((List.range (2 ^ shape)).find? (fun k => held.all (fun e => !e.2.holds st k))).map (fun k => (shape, k, 1))

/-- Whether two allotments of rows share a row of a bay. -/
def allotMeet (a b : List (Option (Nat × Nat))) : Bool :=
  (List.range 4).any (fun i => match a[i]?.getD none, b[i]?.getD none with
    | some x, some y => decide (x.1 ≤ y.2) && decide (y.1 ≤ x.2)
    | _, _ => false)

/-- Whether a stall that has not reloaded STALL takes no launch: from 10 ms after its activation (Table 21-15). -/
def State.fwHolds (s : State) (st : Nat) : Bool :=
  s.fw.stale.getLsbD st && decide (s.fw.staleFrom.toNat + 10000000 ≤ s.now.toNat)

/-- Whether a launch with a shape and an allotment has room on every stall of its mask. A stall that a window in force names takes
no launch (R173). -/
def State.placeable (s : State) (mask : BitVec 48) (shape : Nat) (rows : List (Option (Nat × Nat))) : Bool :=
  (maskStalls mask).all (fun st => (s.freeSplit st shape).isSome && !s.windowOn st && !s.fwHolds st
    && s.fe.launches.all (fun e => !(e.2.occupies && (e.2.splitsOn st).isSome && allotMeet rows e.2.rows)))

/-- Fields of a LAUNCH descriptor (Table 13-6). -/
def Desc.mask (d : Desc) : BitVec 48 := (d.ovr.map (·.1)).getD (BitVec.ofNat 48 (fieldAt d.bytes 26 6))
def Desc.opts (d : Desc) : Nat := fieldAt d.bytes 54 1
def Desc.shape (d : Desc) : Nat := bits d.opts 2 1
def Desc.allot (d : Desc) : List (Option (Nat × Nat)) :=
  (List.range 4).map (fun b =>
    let w := fieldAt d.bytes (40 + 3 * b) 3
    if bits w 11 0 = 4095 then none else some (bits w 11 0, bits w 23 12))

/-! ### What a head waits for (R357) -/

/-- The condition of an SQ: idle, ready, or blocked for a reason of Table 14-10 on a fence. -/
inductive Cond where
  | idle
  | ready
  | blocked (reason fence : Nat)
  deriving DecidableEq, Repr

/-- FENCE and VALUE of a WAIT or SIGNAL (Table 13-8). -/
def Desc.fence (d : Desc) : Nat := fieldAt d.bytes 8 2
def Desc.value (d : Desc) : W64 := BitVec.ofNat 64 (fieldAt d.bytes 16 8)

/-- A fence entry, if it is defined. -/
def State.fence? (s : State) (f : Nat) : Option Fence := Tab.find s.fe.fences f

/-- The fence that a descriptor of a queue names, if it lies in the pitch's range and is defined (R351). -/
def State.ownFence (s : State) (x : Queue) (d : Desc) : Option Fence :=
  match s.pitchOfFn x.fn with
  | some p =>
    let r := s.fenceRange p
    if r.1 ≤ d.fence ∧ d.fence < r.1 + r.2 then s.fence? d.fence else none
  | none => none

/-- Whether a descriptor waits for every earlier one of its queue to complete (R327, R353). -/
def Desc.barred (d : Desc) (x : Queue) : Bool :=
  (d.barrier || d.op == 3) && (match x.descs with
    | e :: _ => e.hseq != d.hseq
    | [] => false)

/-- Records waiting in the CQ of a queue. -/
def State.cqWaiting (s : State) (x : Queue) : Nat := ((s.queue? x.cq).map (fun c => c.waiting.length)).getD 0

/-- The edge of an SQ: the owner of the fence that its blocked WAIT names. -/
def State.waitEdge (s : State) (q : Nat) : Option Nat :=
  match (s.queue? q).bind (fun x => x.head?) with
  | some d => if d.op = 2 && d.blocked then (s.fence? d.fence).map (fun f => f.owner) else none
  | none => none

/-- The SQs met by following edges from an SQ. -/
def State.waitChain (s : State) : Nat → Nat → List Nat
  | 0, _ => []
  | fuel + 1, q => match s.waitEdge q with
    | some o => o :: State.waitChain s fuel o
    | none => []

/-- The effective priority of an SQ: the largest PRIO among it and those that wait for it (R358). -/
def State.eff (s : State) (q : Nat) : Nat :=
  let own := ((s.queue? q).map (fun x => x.prio)).getD 0
  s.fe.queues.foldl (fun a e =>
    if !e.2.isCq && (s.waitChain s.fe.queues.length e.1).contains q then max a e.2.prio else a) own

/-- The slot in which an SQ is resident. -/
def State.slotIn (s : State) (q : Nat) : Option Nat := (List.range 64).find? (fun n => (s.slotOf n).queue == some q)

/-- Slots that a pitch holds, and how many it may hold (Table 14-5). -/
def State.slotsHeld (s : State) (p : Nat) : List Nat :=
  (List.range 64).filter (fun n => (s.slotOf n).queue.isSome && (s.slotOf n).pitch == p)
def State.slotsGiven (s : State) (p : Nat) : Nat := min 64 (s.fld 0 (offSlots p) 6 0)

/-- What is wrong with a mask for a pitch (R21, R329, R473). -/
def State.maskFails (s : State) (p : Nat) (mask : BitVec 48) : Option Status :=
  if mask = 0 then some .badDescriptor
  else if !(maskStalls mask).all (fun st => (s.stallsOf p).contains st) then some .accessDenied
  else if !(maskStalls mask).all s.inService then some .hwFault
  else none

/-- Launches in PLACE of the resident SQs of a pitch: queue and descriptor. -/
def State.placing (s : State) (p : Nat) : List (Nat × Desc) :=
  (s.slotsHeld p).filterMap (fun n => match (s.slotOf n).queue with
    | some q => ((s.queue? q).bind (fun x => x.head?)).bind (fun d =>
        if d.op = 1 && d.blocked then some (q, d) else none)
    | none => none)

/-- Whether a launch may be placed before every launch in PLACE whose mask meets its own (R362). A launch that has not entered PLACE
ranks after those of its eff that have. -/
def State.firstToPlace (s : State) (p q : Nat) (d : Desc) : Bool :=
  (s.placing p).all (fun e => e.1 == q || e.2.mask &&& d.mask == 0
    || decide (s.eff e.1 < s.eff q) || (s.eff e.1 == s.eff q && d.blocked && decide (d.placeTime ≤ e.2.placeTime)))

/-- Whether the launch at a head cannot be placed now: its mask is sound, and its stalls are not free or are another launch's to take
(R329, R362). -/
def State.mustPlace (s : State) (q : Nat) (x : Queue) (d : Desc) : Bool :=
  match s.pitchOfFn x.fn with
  | some p => (s.maskFails p d.mask).isNone && (!s.placeable d.mask d.shape d.allot || !s.firstToPlace p q d)
  | none => false

/-- The condition of an SQ. -/
def State.cond (s : State) (q : Nat) : Cond :=
  match s.queue? q with
  | none => .idle
  | some x =>
    match x.head? with
    | none => .idle
    | some d =>
      if x.isCq || x.state = .stopped || x.state = .deleted then .idle
      else if x.state = .held then .blocked 5 0
      else if d.barred x then .blocked 2 0
      else if 64 ≤ s.cqWaiting x then .blocked 4 0
      else if d.op = 2 then
        (match s.ownFence x d with
         | some f => if f.value < d.value then .blocked 1 d.fence else .ready
         | none => .ready)
      else if d.op = 1 && s.mustPlace q x d then .blocked 3 0
      else .ready

/-! ### Slots (R356 to R362) -/

/-- The state with a slot free. -/
def State.freeSlot (s : State) (n : Nat) : State := s.modSlot n (fun x => { x with queue := none })

/-- Whether a service SQ is ready and not resident. -/
def State.waitsSlot (s : State) (q : Nat) (x : Queue) : Bool :=
  !x.isCq && !x.admin && s.queueOpen x && s.cond q == .ready && (s.slotIn q).isNone

/-- Slots of SQs that have become idle are free, and the SQs that wait for a slot are put in order (R357, R361). -/
def State.tidy (s : State) : State :=
  let s1 := (List.range 64).foldl (fun s n => match (s.slotOf n).queue with
    | some q => if s.cond q = .idle then s.freeSlot n else s
    | none => s) s
  let ready := (s1.fe.queues.filter (fun e => s1.waitsSlot e.1 e.2)).map (·.1)
  let old := s1.fe.readyQ.filter ready.contains
  s1.modFe (fun f => { f with readyQ := old ++ ready.filter (fun q => !old.contains q) })

/-- The ready SQs of a pitch in the order of ROTATE: those raised above their PRIO first, by eff (R361). -/
def State.rotateQ (s : State) (p : Nat) : List Nat :=
  let mine := s.fe.readyQ.filter (fun q => ((s.queue? q).bind (fun x => s.pitchOfFn x.fn)) == some p)
  let raised := mine.filter (fun q => decide (((s.queue? q).map (fun x => x.prio)).getD 0 < s.eff q))
  (List.range 8).reverse.flatMap (fun e => raised.filter (fun q => s.eff q == e)) ++ mine.filter (fun q => !raised.contains q)

/-- The ready SQ of a pitch that MAP gives a free slot to: the highest eff, ready longest (R360). -/
def State.mapNext (s : State) (p : Nat) : Option Nat :=
  let mine := s.fe.readyQ.filter (fun q => ((s.queue? q).bind (fun x => s.pitchOfFn x.fn)) == some p)
  mine.foldl (fun b q => match b with
    | none => some q
    | some c => if s.eff c < s.eff q then some q else some c) none

/-- MODE of a pitch: true is ROTATE; SLICE in µs (Table 14-7). -/
def State.rotates (s : State) (p : Nat) : Bool := s.pfld p offSched 0 0 == 1
def State.slice (s : State) (p : Nat) : Nat := min 10000 (max 50 (s.pfld p offSched 29 16))

/-- The SQ whose turn it is to become resident. -/
def State.nextResident (s : State) (p : Nat) : Option Nat := if s.rotates p then (s.rotateQ p).head? else s.mapNext p

/-- An SQ made resident in a slot (Table 14-6). -/
def State.reside (s : State) (n q p : Nat) : State :=
  let t := s.now
  (s.afterNow.modSlot n (fun x => { x with queue := some q, pitch := p, res := x.res + 1, since := t })).tidy

/-- The slot of a pitch with the lowest eff among those whose SQ meets a test. -/
def State.lowestSlot (s : State) (p : Nat) (f : Cond → Bool) : Option (Nat × Nat) :=
  (s.slotsHeld p).foldl (fun b n => match (s.slotOf n).queue with
    | some q =>
      if f (s.cond q) then
        (match b with
         | none => some (n, s.eff q)
         | some c => if s.eff q < c.2 then some (n, s.eff q) else some c)
      else b
    | none => b) none

/-- Whether a condition is blocked. -/
def Cond.isBlocked (c : Cond) : Bool :=
  match c with
  | .blocked _ _ => true
  | _ => false

/-- SLOT_ASSIGN: a ready SQ whose turn it is takes a free slot, or under MAP the slot of the resident SQ with the lowest eff when that
is lower than its own and no resident SQ is blocked (R360, R361). -/
def execSlotAssign (n : SlotId) (q : QueueId) (s : State) : Res :=
  let s0 := s.tidy
  .next (match (s0.queue? q).bind (fun x => s0.pitchOfFn x.fn) with
    | none => s
    | some p =>
      if !s.awake || s0.nextResident p ≠ some q.val then s
      else if (s0.slotOf n).queue.isNone then
        (if (s0.slotsHeld p).length < s0.slotsGiven p then s0.reside n q p else s)
      else if (s0.slotOf n).pitch ≠ p || s0.rotates p || (s0.slotsHeld p).length < s0.slotsGiven p
          || (s0.lowestSlot p Cond.isBlocked).isSome then s
      else match s0.lowestSlot p (fun _ => true) with
        | some low =>
          if low.1 = n.val ∧ low.2 < s0.eff q then
            -- a slot that a lower count has taken from the pitch gets no SQ (R356)
            (let s1 := (s0.freeSlot n).tidy
             if (s1.slotsHeld p).length < s1.slotsGiven p then s1.reside n q p else s1)
          else s
        | none => s)

/-- What a timer of the scheduler does: its effect, or the wake of callers that sleep (Table 13-2). -/
def State.onTimer (s : State) (due : Bool) (act : State) : State :=
  if !due || s.dieDown || s.pairIdle then s else if s.awake then act else s.wakeFront

/-- BLOCKED_SLOT_RELEASE: the blocked resident SQ with the lowest eff gives its slot up when a ready SQ of its pitch waits and no slot
is free (R359). -/
def execBlockedSlotRelease (n : SlotId) (s : State) : Res :=
  let s0 := s.tidy
  let p := (s0.slotOf n).pitch
  .next (s.onTimer ((s0.slotOf n).queue.isSome && decide (s0.slotsGiven p ≤ (s0.slotsHeld p).length) && (s0.nextResident p).isSome
      && (s0.lowestSlot p Cond.isBlocked).map (·.1) == some n.val) (s0.freeSlot n).tidy)

/-- SLICE_EXPIRY: under ROTATE, a slot's time has run out: the SQ gives it up if another waits, else its time starts again (R361). -/
def execSliceExpiry (n : SlotId) (s : State) : Res :=
  let s0 := s.tidy
  let x := s0.slotOf n
  .next (match x.queue with
    | none => s
    | some q =>
      let span := max 50000 (ceilDiv (s0.slice x.pitch * (s0.eff q + 1) * 1000) 8)
      s.onTimer (s0.rotates x.pitch && decide (x.since.toNat + span ≤ s0.now.toNat))
        (if (s0.nextResident x.pitch).isSome then (s0.afterNow.freeSlot n).tidy
         else
           let t := s0.now
           s0.afterNow.modSlot n (fun x => { x with since := t })))

/-! ### Bells and scans (R319 to R324, R573) -/

/-- Whether a group is scanned now: not while the pitch of its function resets, where its bit stays for later (R382 step 2); the PF's groups
are, for its admin pair. -/
def State.groupOpen (s : State) (g : Nat) : Bool :=
  match s.groupFn g with
  | some fn => fn == 0 || (match s.pitchOfFn fn with
      | some p => (s.pitch p).state != .resetting
      | none => true)
  | none => true

/-- The groups among some that are scanned now. -/
def State.openOf (s : State) (m : BitVec 64) : BitVec 64 :=
  (List.range 64).foldl (fun a g => if m.getLsbD g && !s.groupOpen g then a &&& ~~~BitVec.ofNat 64 (2 ^ g) else a) m

/-- Reads of pending groups issued by callers that are BUSY: each bit is cleared as its read leaves (R320). -/
def State.issueReads (s : State) : State :=
  if s.fe.st = .busy && !s.dieDown then
    let new := s.openOf (s.fe.pendMask &&& ~~~s.fe.reading)
    s.modFe (fun f => { f with reading := f.reading ||| new, pendMask := f.pendMask &&& ~~~new })
  else s

/-- A queue whose QUEUE_DELETE waits and whose descriptors have all completed: its block says DELETED, the queue is gone, and the
QUEUE_DELETE completes (R336). An admin pair that was taken out of force goes in the same way, without a record (R545); bit 63 of
PT_AQ_CFG marks it. -/
def State.closeQueue (s : State) (q : Nat) : State :=
  match s.queue? q with
  | none => s
  | some x =>
    match x.closing with
    | none =>
      if x.admin && x.descs.isEmpty && s.fld x.fn offAqCfg 63 63 == 1 then
        (((s.dropQueue q).dropQueue x.cq).aqOff x.fn).setFld x.fn offAqCfg 63 63 0
      else s
    | some w =>
      if !x.descs.isEmpty then s
      else (((s.modQueue q (fun x => { x with state := .deleted })).writeBlock q).dropQueue q).finishDesc w.1 w.2 .ok 0 0 none

/-- Changes of EN of mirror ranges take effect once their pitch has no launch in flight (R482). Bit 63 of PT_MIRn marks a change
that waits, and bit 1 holds the EN in effect. -/
def State.mirTidy (s : State) : State :=
  s.regs.foldl (fun s e =>
    let off := e.1 % 2 ^ 32
    let fn := e.1 / 2 ^ 32
    if 0x1900 ≤ off ∧ off < 0x1980 ∧ off % 16 = 0 ∧ e.2.getLsbD 63 = true then
      (match s.pitchOfFn fn with
       | some p => if (s.inFlight p).isEmpty then (s.setFld fn off 1 1 (s.fld fn off 0 0)).setFld fn off 63 63 0 else s
       | none => s)
    else s) s

/-- What ends a front-end command: queues that were to go are gone, and slots and reads follow the new state. -/
def State.feDone (s : State) : State := ((s.fe.queues.map (·.1)).foldl (fun s q => s.closeQueue q) s).mirTidy.tidy.issueReads.pairShow

/-- BELL_WRITE: a write to a function's bell page, which takes effect once the function's earlier BAR4 writes have (R319, R537). -/
def execBellWrite (fn : FnId) (off size : Nat) (data : BitVec 32) (s : State) : Res :=
  .next (if !s.fnThere fn || (fn.val != 0 && !s.fnServes fn) then s
    else if off = 0 ∧ size = 4 ∧ data.toNat < 64 ∧ s.groupFn data.toNat = some fn.val then
      ((s.settleHost fn).modFe (fun f => { f with pendMask := f.pendMask ||| BitVec.ofNat 64 (2 ^ data.toNat) })).issueReads
    else if s.dieDown then s
    else s.setFld fn offAccErr 15 0 (s.fld fn offAccErr 15 0 + 1))

/-- CALLER_START: the callers start after a bell or an internal wake (R324, R502). -/
def execCallerStart (s : State) : Res :=
  .next (if s.fe.st = .asleep && !s.dieDown && (s.fe.pendMask != 0 || s.fe.wake) then
      (s.modFe (fun f => { f with st := .busy, wake := false, foundNew := false, passed := 0 })).feDone
    else s)

/-- A scan or a fetch of a group found something new. -/
def State.noteNew (s : State) (g : Nat) : State :=
  let t := s.now
  s.afterNow.modFe (fun f => { f with foundNew := true, lastNew := Tab.put f.lastNew g t })

/-- An SQ stopped by its doorbell entry (R321). -/
def State.stopSq (s : State) (q : Nat) : State :=
  s.modQueue q (fun x => { x with state := .stopped, reason := Status.badDescriptor.code, toFetch := 0 })

/-- The ERROR record of a doorbell entry refused (Table 16-12). -/
def State.doorbellError (s : State) (q fn : Nat) : State := s.postError (s.fnDbk fn) (srcQueue q) .badDescriptor 1 q

/-- An SQ stopped with its CQ (R573); where a QUEUE_DELETE of it waits, what has not started ends with KILLED (R336). -/
def State.stopBound (s : State) (q : Nat) (x : Queue) : State :=
  let s1 := s.stopSq q
  if x.closing.isNone then s1
  else x.descs.foldl (fun s d => if d.started then s else s.finishDesc q d.hseq .killed 0 0 none) s1

/-- A CQ stopped (R573): records that wait are discarded and their descriptors complete; every SQ bound to it stops. -/
def State.stopCq (s : State) (q : Nat) : State :=
  match s.queue? q with
  | none => s
  | some x =>
    let s1 := s.modQueue q (fun x => { x with state := .stopped, reason := Status.badDescriptor.code, waiting := [] })
    let s2 := x.waiting.foldl (fun s r => s.descDone r.sq r.hseq r.launch) (s1.doorbellError q x.fn)
    s2.fe.queues.foldl (fun s e => if !e.2.isCq && e.2.cq == q then s.stopBound e.1 e.2 else s) s2

/-- The doorbell entry of one queue, as read (R321, Table 13-1); one with a reserved bit set fails the check (R4). -/
def State.scanEntry (s : State) (q : Nat) (e : W64) : State :=
  match s.queue? q with
  | none => s
  | some x =>
    let seq := e.toNat % 2 ^ 32
    let idx := bits e.toNat 47 32
    let spare := bits e.toNat 63 48
    let size := 2 ^ x.log2
    let s1 := if x.dbSeen = e || !s.queueOpen x then s else s.modQueue q (fun x => { x with dbSeen := e })
    if x.isCq then
      let n := (BitVec.ofNat 32 seq - x.consumed).toNat
      if x.state = .stopped then s1
      else if spare ≠ 0 then s1.stopCq q
      else if n = 0 then s1
      else if n ≤ (x.newest - x.consumed).toNat ∧ (idx + size - x.headIdx % size) % size = n % size then
        (s1.modQueue q (fun x => { x with consumed := BitVec.ofNat 32 seq, headIdx := idx % size })).noteNew (q / 16)
      else s1.stopCq q
    else if x.state ≠ .active || !s.queueOpen x || x.closing.isSome then s1
    else
      let n := (BitVec.ofNat 32 seq - x.newest).toNat
      if spare ≠ 0 then (s1.stopSq q).doorbellError q x.fn
      else if n = 0 then (if x.toFetch = 0 then s1 else s1.modQueue q (fun x => { x with toFetch := 0 }))
      else if n ≤ size ∧ (idx + size - x.nextIdx % size) % size = n % size then
        { s1.modQueue q (fun x => { x with toFetch := n }) with fe := { (s1.modQueue q (fun x => { x with toFetch := n })).fe with foundNew := true } }
      else (s1.stopSq q).doorbellError q x.fn

/-- A group's entries, as read; no entries is a read that failed, which finds nothing (Table 22-2). -/
def State.scanGroup (s : State) (g : Nat) (es : List W64) : State :=
  ((es.take 16).zipIdx).foldl (fun s e => s.scanEntry (16 * g + e.2) e.1) s

/-- A group's read returns with entries, or without them. The last of the final scans leads to CHECK. -/
def State.scanReturn (s : State) (g : GroupId) (entries : List W64) : State :=
  let b : BitVec 64 := BitVec.ofNat 64 (2 ^ g.val)
  if s.awake && s.fe.reading.getLsbD g then
    let s1 := ((s.hostAsk (s.groupFn g)).modFe (fun f =>
      { f with reading := f.reading &&& ~~~b, passed := f.passed ||| b })).scanGroup g entries
    (if s1.fe.st = .final && s1.fe.reading = 0 then s1.modFe (fun f => { f with st := .check }) else s1).feDone
  else s

/-- DOORBELL_SCAN: the entries of a group whose read was issued return. -/
def execDoorbellScan (g : GroupId) (entries : List W64) (s : State) : Res := .next (s.scanReturn g entries)

/-- Whether a group is active: something new within the last 50 µs (R323). -/
def State.groupActive (s : State) (g : Nat) : Bool :=
  match Tab.find s.fe.lastNew g with
  | some t => decide (s.now.toNat ≤ t.toNat + 50000)
  | none => false

/-- GROUP_RESCAN: an active group is scanned again without a bell. -/
def execGroupRescan (g : GroupId) (entries : List W64) (s : State) : Res :=
  let b : BitVec 64 := BitVec.ofNat 64 (2 ^ g.val)
  .next (if s.fe.st = .busy && !s.dieDown && s.groupActive g && s.groupOpen g then
      (((s.hostAsk (s.groupFn g)).modFe (fun f => { f with passed := f.passed ||| b })).scanGroup g entries).feDone
    else s)

/-- The groups of every function. -/
def State.allGroups (s : State) : BitVec 64 :=
  (List.range 64).foldl (fun m g => if (s.groupFn g).isSome then m ||| BitVec.ofNat 64 (2 ^ g) else m) 0

/-- Whether the callers have work: a launch in PLACE, a record that waits, a descriptor to fetch, or a head they may start. -/
def State.feBusy (s : State) : Bool :=
  s.fe.queues.any (fun e => !e.2.waiting.isEmpty || 0 < e.2.toFetch
    || e.2.descs.any (fun d => !d.started && d.blocked && d.op == 1)
    || (!e.2.isCq && s.queueOpen e.2 && s.cond e.1 == .ready && (e.2.admin || (s.slotIn e.1).isSome)))

/-- FRONT_END_IDLE_CHECK (Table 13-2): from BUSY, a full pass that found nothing leads to the final scans; from CHECK, back to BUSY or
to sleep. -/
def execFrontEndIdleCheck (s : State) : Res :=
  .next (if s.dieDown then s
    else match s.fe.st with
      | .busy =>
        if s.fe.pendMask != 0 || s.fe.reading != 0 || s.feBusy
            || (List.range 64).any (fun g => s.groupActive g && !s.fe.passed.getLsbD g) then s
        else if s.fe.foundNew then s.modFe (fun f => { f with foundNew := false, passed := 0 })
        else
          let all := s.openOf s.allGroups
          s.modFe (fun f => { f with idlePending := true, wake := false, reading := all, pendMask := f.pendMask &&& ~~~all,
                                     st := if all = 0 then .check else .final })
      | .check =>
        if s.fe.foundNew || s.fe.pendMask != 0 || s.fe.wake then
          (s.modFe (fun f => { f with st := .busy, idlePending := false, foundNew := false, wake := false, passed := 0 })).feDone
        else s.modFe (fun f => { f with st := .asleep, idlePending := false })
      | _ => s)

/-! ### Fetching (R322) -/

/-- Fetched slots accepted in order while their HSEQ is the expected one. -/
def State.accept (s : State) (q : Nat) : List (List Byte) → State
  | [] => s
  | b :: bs =>
    match s.queue? q with
    | none => s
    | some x =>
      let h := x.newest + 1
      if x.toFetch = 0 || 64 ≤ (x.descs.filter (fun d => !d.started)).length then s
      else if fieldAt b 4 4 ≠ h.toNat then s.modQueue q (fun x => { x with toFetch := 0 })
      else
        let d : Desc := { hseq := h, bytes := (b ++ List.replicate 64 0).take 64, started := false, finished := false, slot := none,
                          blocked := false, ovr := none, launch := none, placeTime := 0 }
        let s1 := s.modQueue q (fun x => { x with newest := h, nextIdx := (x.nextIdx + 1) % 2 ^ x.log2, toFetch := x.toFetch - 1,
                                                  descs := x.descs ++ [d] })
        State.accept (s1.postDbk [s1.fnDbk x.fn] .fetch (srcQueue q) 0x01 (leBytes 4 h.toNat ++ leBytes 1 d.op)) q bs

/-- Slots of an SQ arrive; none is a read that failed. -/
def State.fetchReturn (s : State) (q : QueueId) (slots : List (List Byte)) : State :=
  match s.queue? q with
  | some x =>
    if s.awake && !x.isCq && x.state == .active && s.queueOpen x && decide (0 < x.toFetch) then
      if slots.isEmpty then (s.hostAsk (some x.fn)).modQueue q (fun x => { x with toFetch := 0 })
      else (((s.hostAsk (some x.fn)).accept q (slots.take 16)).noteNew (q.val / 16)).feDone
    else s
  | none => s

/-- DESCRIPTOR_FETCH: up to 1 KiB of slots of an SQ arrive. -/
def execDescriptorFetch (q : QueueId) (slots : List (List Byte)) (s : State) : Res := .next (s.fetchReturn q slots)

/-! ### Completions (R337 to R341) -/

/-- CQ_DOORBELL_POLL: a CQ in which a record waits has its doorbell entry read again. -/
def execCqDoorbellPoll (q : QueueId) (entry : W64) (s : State) : Res :=
  .next (match s.queue? q with
    | some x => if s.awake && x.isCq && !x.waiting.isEmpty then ((s.hostAsk (some x.fn)).scanEntry q entry).feDone else s
    | none => s)

/-- COMPLETION_RECORD_WRITE: the oldest record that waits in a CQ is written when the host has consumed its slot's last one; then the
status blocks that count it, then the CQ's cause (R338, R339). -/
def execCompletionRecordWrite (q : QueueId) (s : State) : Res :=
  .next (if (s.recordDue q).isSome then (s.writeRecord q).feDone else s)

/-- STATUS_BLOCK_WRITE: a block whose fields have changed is written (R343). -/
def execStatusBlockWrite (k : BlockId) (s : State) : Res :=
  let s1 : State := (match k with
    | .queue q => (match s.queue? q with
      | some x => if x.dirty then s.writeBlock q else s
      | none => s)
    | .pitch p => if (s.pitch p).psbDirty && (s.pitch p).state != .off then s.writePsb p else s)
  .next (if s.dieDown || s.pairIdle then s else s1.pairShow)

/-- WATERMARK_REFRESH: the pitch block is written again while no launch is in flight (R238). -/
def execWatermarkRefresh (p : PitchId) (s : State) : Res :=
  .next (if (s.pitch p).state != .off && !s.dieDown && !s.pairIdle && (s.inFlight p).isEmpty then (s.writePsb p).pairShow else s)

end Sys2Proof.Machine
end

