-- ==== Sys2Proof/Machine/Bar4.lean ====
section
/-! DEFINITION. The set-up window: BAR4_WRITE and BAR4_READ (spec 22 R537, R538, R550, R551; 11 R284, R290). -/

namespace Sys2Proof.Machine

/-- What an offset of a function's BAR4 reaches (R550, R551): a pitch, an address in it, and whether the address is pitch-physical. None for
a function that reaches nothing. -/
def State.hostView (s : State) (fn off : Nat) : Option (Nat × Nat × Bool) :=
  if !s.fnThere fn then none
  else if fn = 0 ∧ s.fld 0 offGhWin 0 0 = 1 then
    (let p := s.fld 0 offGhWin 12 8
     if p < 24 ∧ (s.pitch p).state ≠ .off then some (p, s.fld 0 offGhWin 47 36 * 2 ^ 36 + off % 2 ^ 36, true) else none)
  else (s.servedPitch fn).map (fun p => (p, s.fld fn offWin 47 36 * 2 ^ 36 + off % 2 ^ 36, false))

/-- Whether a pitch's host may write a region: it is in LOAD or QUARANTINED and the pitch is its LOADER (R290). -/
def State.hostLoads (s : State) (p n : Nat) : Bool :=
  ((s.region n).state == .load || (s.region n).state == .quarantined) && s.fld 0 (offCsCtl n) 12 8 == p

/-- Where one line access of the host lands, if it is not refused. -/
def State.hostPlace (s : State) (p : Nat) (phys : Bool) (acc : Acc) (a n : Nat) : Xl :=
  if phys then
    (if s.spaceOf p < a + n then .denied false
     else .ok { unit := (s.physPlace p a).1, off := (s.physPlace p a).2, replica := none, region := none })
  else if s.inFences p a n || s.inCounts p a n || s.inTables p a n then .denied false
  else match s.translate p none acc a with
    | .ok pl =>
      if acc = .csWrite ∧ pl.region.any (fun r => !s.hostLoads p r) then .denied false else .ok pl
    | x => x

/-- A BAR4 access refused, counted in WIN of the function's PT_ACCERR (R550). -/
def State.countWin (s : State) (fn : Nat) : State := s.setFld fn offAccErr 47 32 (s.fld fn offAccErr 47 32 + 1)

/-- A line access that the host's access cannot make: refused, or met by a poisoned translation table (Table 18-1). -/
def State.hostDenied (s : State) (fn p : Nat) (x : Xl) : State :=
  match x with
  | .poisoned => s.tablePoison p
  | _ => s.countWin fn

/-- One line access of a host write: it waits for its controller. Bit 48 of its address marks a pitch-physical one, which no range of device
addresses holds. -/
def State.hostPut (s : State) (fn p : Nat) (phys : Bool) (a : Nat) (bs : List Byte) (poison : Bool) : State :=
  match s.hostPlace p phys .csWrite a bs.length with
  | .ok pl =>
    let r : MemReq := { id := s.serial, client := .host fn, pitch := p, pc := 0, op := 0, kind := .hostWrite bs poison,
                        addr := BitVec.ofNat 64 (a + b2n phys * 2 ^ 48), place := pl, served := none }
    { s with mem := { s.mem with reqs := s.mem.reqs ++ [r] } }.tickSerial
  | x => s.hostDenied fn p x

/-- One line access of a host read: its bytes, and whether they are poisoned (R550). -/
def State.hostGet (s : State) (fn p : Nat) (phys : Bool) (a n : Nat) : State × List Byte × Bool :=
  match s.hostPlace p phys .read a n with
  | .ok pl =>
    let x := s.readPlace pl
    if s.linePoison x.1 x.2 then (s, List.replicate n 0, true) else (s, s.memBytes x.1 x.2 n, false)
  | x => (s.hostDenied fn p x, List.replicate n 0, false)

/-- BAR4_WRITE: the line accesses of one write TLP wait for their controllers, or are refused. A package whose host port is down or whose
compute die does not serve drops it. -/
def execBar4Write (fn : FnId) (off : Nat) (bytes : List Byte) (poison : Bool) (s : State) : Res :=
  .next (if !s.md.hostUp || s.dieDown || !s.fnThere fn then s
    else match s.hostView fn off with
      | none => s.countWin fn
      | some (p, a, phys) =>
        ((lineRuns a bytes.length).foldl (fun (r : State × List Byte) (pc : Nat × Nat) =>
          (r.1.hostPut fn p phys pc.1 (r.2.take pc.2) poison, r.2.drop pc.2)) (s, bytes)).1)

/-- BAR4_READ: every earlier write of the function has been performed; the bytes are returned, zeros for what is refused, and the completion
carries EP where a line is poisoned. -/
def execBar4Read (fn : FnId) (off n : Nat) (s : State) : Res :=
  .next (if !s.md.hostUp || !s.fnThere fn then s
    else if s.dieDown then s.emit (.readData fn (List.replicate n 0) false)
    else match s.hostView fn off with
      | none => (s.countWin fn).emit (.readData fn (List.replicate n 0) false)
      | some (p, a, phys) =>
        let r := (lineRuns a n).foldl (fun (r : State × List Byte × Bool) (pc : Nat × Nat) =>
          let x := r.1.hostGet fn p phys pc.1 pc.2
          (x.1, r.2.1 ++ x.2.1, r.2.2 || x.2.2)) (s.settleHost fn, [], false)
        r.1.emit (.readData fn r.2.1 r.2.2))

end Sys2Proof.Machine
end

