-- ==== Sys2Proof/Machine/Codecs.lean ====
section
/-! DEFINITION. The Packer's codecs: block headers, ZRUN, ENT and its code tables, and what a block decodes to (spec 10 R243 to R252,
R261, R262). -/

namespace Sys2Proof.Machine

/-! ### ZRUN (R250) -/

/-- Bits packed eight to a byte, bit 0 first. -/
def bitBytes (n : Nat) (l : List Bool) : List Byte :=
  (List.range n).map (fun i => BitVec.ofNat 8 ((List.range 8).foldl (fun a k => a + b2n (l[8 * i + k]?.getD false) * 2 ^ k) 0))

/-- A block encoded in groups of 64 elements of `w` bytes: a bitmap, then the elements with any bit set. -/
def zrunEncode (w : Nat) (bs : List Byte) : List Byte :=
  (chunksOf (64 * w) bs).flatMap (fun g =>
    let es := chunksOf w g
    let live := es.map (fun e => e.any (· != 0))
    bitBytes 8 live ++ ((es.zip live).filter (·.2)).flatMap (·.1))

/-- How a decode ends: its output, whether the payload ran out (SHORT), and whether it was too long (LONG). -/
structure Decoded where
  bytes : List Byte
  short : Bool
  long : Bool
  deriving DecidableEq, Repr

/-- The elements of one group from its bitmap; missing payload bytes are zeros. -/
def zrunGroup (w : Nat) (bitmap : List Byte) : Nat → Nat → List Byte → List Byte × List Byte × Bool
  | 0, _, rest => ([], rest, false)
  | n + 1, i, rest =>
    if bit (leNat bitmap) i then
      let e := rest.take w
      let r := zrunGroup w bitmap n (i + 1) (rest.drop w)
      (e ++ List.replicate (w - e.length) 0 ++ r.1, r.2.1, r.2.2 || decide (e.length < w))
    else
      let r := zrunGroup w bitmap n (i + 1) rest
      (List.replicate w 0 ++ r.1, r.2.1, r.2.2)

/-- The groups of a ZRUN payload, for `elems` elements. -/
def zrunDecode (w : Nat) : Nat → Nat → List Byte → Decoded
  | 0, _, _ => ⟨[], false, false⟩
  | fuel + 1, elems, payload =>
    if elems = 0 then ⟨[], false, !payload.isEmpty⟩
    else
      let n := min 64 elems
      let bitmap := payload.take 8
      let g := zrunGroup w bitmap n 0 (payload.drop 8)
      let extra := decide (leNat bitmap / 2 ^ n ≠ 0)
      let rest := zrunDecode w fuel (elems - n) g.2.1
      ⟨g.1 ++ rest.bytes, decide (bitmap.length < 8) || g.2.2 || rest.short, extra || rest.long⟩

/-! ### ENT (R251, R252) -/

/-- Canonical codes of a list of code lengths (R251): the code of every symbol, 0 for an absent one. -/
def canonical (lens : List Nat) : List Nat :=
  let r := (List.range 15).foldl (fun (r : List (Nat × Nat) × Nat) l0 =>
    let y := (lens.zipIdx).foldl (fun (r : List (Nat × Nat) × Nat) x =>
      if x.1 = l0 + 1 then (r.1 ++ [(x.2, r.2)], r.2 + 1) else r) r
    (y.1, y.2 * 2)) ([], 0)
  (List.range 256).map (fun s => ((r.1.find? (fun x => x.1 == s)).map (·.2)).getD 0)

/-- A node of the code tree: weight, lowest symbol, members. -/
abbrev EntNode := Nat × Nat × List Nat

/-- Whether a node comes before another: by weight, then by lowest symbol. -/
def EntNode.before (a b : EntNode) : Bool := decide (a.1 < b.1) || (a.1 == b.1 && decide (a.2.1 ≤ b.2.1))

/-- A node put into its place among sorted nodes. -/
def entInsert (x : EntNode) : List EntNode → List EntNode
  | [] => [x]
  | y :: t => if EntNode.before x y then x :: y :: t else y :: entInsert x t

/-- Two lightest nodes merged again and again; every member of a merge gets one bit more. -/
def entMerge : Nat → List EntNode → List Nat → List Nat
  | 0, _, lens => lens
  | fuel + 1, nodes, lens =>
    match nodes with
    | a :: b :: t =>
      let members := a.2.2 ++ b.2.2
      let lens' := (lens.zipIdx).map (fun x => if members.contains x.2 then x.1 + 1 else x.1)
      entMerge fuel (entInsert (a.1 + b.1, min a.2.1 b.2.1, members) t) lens'
    | _ => lens

/-- The Kraft sum of code lengths, in units of 2^-15. -/
def kraft (lens : List Nat) : Nat := lens.foldl (fun a l => if l = 0 then a else a + 2 ^ (15 - l)) 0

/-- Longest codes below 15 lengthened, ties to the highest symbol, until the Kraft sum fits. -/
def entTrim : Nat → List Nat → List Nat
  | 0, lens => lens
  | fuel + 1, lens =>
    if kraft lens ≤ 2 ^ 15 then lens
    else
      let best := (lens.zipIdx).foldl (fun (b : Option (Nat × Nat)) x =>
        if x.1 = 0 ∨ 15 ≤ x.1 then b
        else match b with
          | none => some x
          | some y => if y.1 ≤ x.1 then some x else some y) none
      match best with
      | none => lens
      | some y => entTrim fuel (lens.set y.2 (y.1 + 1))

/-- The code lengths of a byte histogram (R252). -/
def entLengths (count : List Nat) : List Nat :=
  let live := (count.zipIdx).filter (fun x => 0 < x.1)
  let zero := List.replicate 256 0
  match live with
  | [x] => zero.set x.2 1
  | _ =>
    let nodes := live.foldl (fun l x => entInsert (x.1, x.2, [x.2]) l) []
    entTrim 4096 ((entMerge 256 nodes zero).map (fun l => min l 15))

/-- The histogram of bytes. -/
def histogram (bs : List Byte) : List Nat :=
  (bs.foldl (fun (v : Vector Nat 256) b => v.setIfInBounds b.toNat ((v[b.toNat]?.getD 0) + 1)) (Vector.replicate 256 0)).toList

/-- Bytes encoded: each code most significant bit first, filling bytes from bit 0. -/
def entEncode (lens : List Nat) (bs : List Byte) : List Byte :=
  let codes := canonical lens
  let bits' := bs.flatMap (fun b =>
    let l := lens[b.toNat]?.getD 0
    let c := codes[b.toNat]?.getD 0
    (List.range l).map (fun i => bit c (l - 1 - i)))
  bitBytes (ceilDiv bits'.length 8) bits'

/-- One symbol read from a bit stream: the symbol, or none where the bits end or match no code. -/
def entSymbol (table : List (Nat × Nat × Nat)) : Nat → Nat → Nat → List Bool → Option Nat × List Bool
  | 0, _, _, bits' => (none, bits')
  | fuel + 1, len, code, bits' =>
    match bits' with
    | [] => (none, [])
    | b :: rest =>
      let c := 2 * code + b2n b
      match table.find? (fun e => e.1 == len + 1 && e.2.1 == c) with
      | some e => (some e.2.2, rest)
      | none => entSymbol table fuel (len + 1) c rest

/-- `n` symbols of a bit stream; what is missing is zeros. -/
def entSymbols (table : List (Nat × Nat × Nat)) : Nat → List Bool → List Byte × List Bool × Bool
  | 0, bits' => ([], bits', false)
  | n + 1, bits' =>
    match entSymbol table 15 0 0 bits' with
    | (some s, rest) =>
      let r := entSymbols table n rest
      (BitVec.ofNat 8 s :: r.1, r.2.1, r.2.2)
    | (none, rest) => (List.replicate (n + 1) 0, rest, true)

/-- The decode of an ENT payload into `n` bytes (R262). -/
def entDecode (lens : List Nat) (n : Nat) (payload : List Byte) : Decoded :=
  let codes := canonical lens
  let table := ((lens.zip codes).zipIdx).filterMap (fun x => if x.1.1 = 0 then none else some (x.1.1, x.1.2, x.2))
  let bits' := payload.flatMap (fun b => (List.range 8).map (fun i => b.getLsbD i))
  let r := entSymbols table n bits'
  ⟨r.1, r.2.2, !r.2.2 && (decide (8 ≤ r.2.1.length) || r.2.1.any id)⟩

/-! ### Blocks (R243, R244) -/

/-- The 16 bytes of a block header (Table 10-4). -/
def blockHeader (clen rlen codec attr id gen unit : Nat) : List Byte :=
  leBytes 2 clen ++ leBytes 2 rlen ++ leBytes 1 codec ++ leBytes 1 attr ++ leBytes 2 id ++ leBytes 1 gen ++ List.replicate 3 0
    ++ leBytes 4 unit

/-- What a header is checked against (Table 10-9 check 1): the region's codec, the bytes the block must decode to, the tensor's
element width for ZRUN (none for a format that ZRUN does not take), and the unit's index. -/
structure BlockWant where
  codec : Nat
  rlen : Nat
  width : Option Nat
  unit : Nat
  deriving DecidableEq, Repr

/-- Check 1 of a block: the KIND of Table 10-10 that fails. -/
def headerFails (h : List Byte) (w : BlockWant) : Option Nat :=
  let clen := fieldAt h 0 2
  let rlen := fieldAt h 2 2
  let codec := fieldAt h 4 1
  let attr := fieldAt h 5 1
  let ok := decide (clen ≤ 4096) && decide (1 ≤ rlen) && decide (rlen ≤ 4096) && (codec == 0 || codec == w.codec)
    && (if codec = 1 then (match w.width with
          | some n => attr == (if n = 2 then 1 else 2) && rlen % n == 0
          | none => false) else attr == 0)
    && (codec == 2 || (zeroAt h 6 3)) && zeroAt h 9 3 && (codec != 0 || clen == rlen) && rlen == w.rlen
  if !ok then some 0
  else if fieldAt h 12 4 ≠ w.unit then some 1
  else none

/-- The syndrome of a packed block's fault (Table 10-10). -/
def packSyndrome (kind engine id unit code : Nat) : Nat :=
  kind + engine * 2 ^ 8 + id * 2 ^ 16 + (unit % 2 ^ 24) * 2 ^ 32 + code * 2 ^ 56

/-- The raw bytes of a block, decoded with the code lengths given for ENT. -/
def blockDecode (h payload : List Byte) (lens : List Nat) : Decoded :=
  let rlen := fieldAt h 2 2
  match fieldAt h 4 1 with
  | 0 => ⟨payload, false, false⟩
  | 1 =>
    let w := if fieldAt h 5 1 % 4 = 1 then 2 else 4
    zrunDecode w (rlen / w + 1) (rlen / w) payload
  | _ => entDecode lens rlen payload

/-- A unit's stored payload and codec: encoded, or RAW where that would reach the raw length (R244). -/
def unitEncode (codec width : Nat) (lens : Option (List Nat)) (raw : List Byte) : List Byte × Nat :=
  let enc := (match codec, lens with
    | 1, _ => some (zrunEncode width raw)
    | 2, some ls => some (entEncode ls raw)
    | _, _ => none)
  match enc with
  | some e => if e.length < raw.length then (e, codec) else (raw, 0)
  | none => (raw, 0)

end Sys2Proof.Machine
end

