-- ==== Sys2Proof/Machine/Tables.lean ====
section
/-! DEFINITION. The Packer's table slots in device memory: lookups, counts in flight, builds and releases (spec 10 R253 to R256). -/

namespace Sys2Proof.Machine

/-- The address of a table slot of a pitch and of the generation of an id (R253). -/
def State.slotAddr (s : State) (p i : Nat) : Nat := (s.tableArea p).1 + 1024 * i
def State.genAddr (s : State) (p id : Nat) : Nat := (s.tableArea p).1 + 65536 + id % 65536

/-- A field of a table slot; a line that cannot be read gives zero. -/
def State.slotFld (s : State) (p i off n : Nat) : Nat :=
  match s.readDev p none (s.slotAddr p i + off) n with
  | .ok bs => leNat bs
  | _ => 0

/-- ID, GEN, STATE and COUNT of a slot (Table 10-6). -/
def State.slotId (s : State) (p i : Nat) : Nat := s.slotFld p i 0 2
def State.slotGen (s : State) (p i : Nat) : Nat := s.slotFld p i 2 1
def State.slotState (s : State) (p i : Nat) : Nat := s.slotFld p i 3 1
def State.slotCount (s : State) (p i : Nat) : Nat := s.slotFld p i 4 4

/-- The code lengths of a slot. -/
def State.slotLens (s : State) (p i : Nat) : List Nat :=
  match s.readDev p none (s.slotAddr p i + 16) 128 with
  | .ok bs => bs.flatMap (fun b => [b.toNat % 16, b.toNat / 16])
  | _ => []

/-- Bytes of a slot written by the Packer. -/
def State.slotPut (s : State) (p i off : Nat) (bs : List Byte) : State :=
  s.writeDev p none .write none (s.slotAddr p i + off) bs false

/-- A slot zeroed, which makes it FREE. -/
def State.slotFree (s : State) (p i : Nat) : State := s.slotPut p i 0 (List.replicate 1024 0)

/-- The READY slot of an id and a generation (R254). -/
def State.slotReady (s : State) (p id gen : Nat) : Option Nat :=
  if !s.tableActive p then none
  else (List.range 64).find? (fun i => s.slotState p i == 2 && s.slotId p i == id && s.slotGen p i == gen)

/-- The lowest FREE slot. -/
def State.slotFirstFree (s : State) (p : Nat) : Option Nat :=
  (List.range 64).find? (fun i => s.slotState p i == 0)

/-- COUNT up by one for a block looked up. -/
def State.slotTake (s : State) (p i : Nat) : State := s.slotPut p i 4 (leBytes 4 (s.slotCount p i + 1))

/-- COUNT down by one when a block ends; a RELEASED slot that reaches zero is FREE (Table 10-7). -/
def State.slotDrop (s : State) (p i : Nat) : State :=
  let n := s.slotCount p i - 1
  if s.slotState p i = 3 ∧ n = 0 then s.slotFree p i else s.slotPut p i 4 (leBytes 4 n)

/-- The use that a unit of a stall has of a slot for a launch. -/
def State.useOf (s : State) (st unit : Nat) : Option EntUse := s.mem.entUse.find? (fun u => u.stall == st && u.unit == unit)

/-- The state with a use put down. -/
def State.addUse (s : State) (u : EntUse) : State := { s with mem := { s.mem with entUse := s.mem.entUse ++ [u] } }

/-- A use that ends: the block's count is given back, or a build that did not finish leaves its slot FREE (R255, R256). -/
def State.endUse (s : State) (u : EntUse) : State :=
  let s1 := { s with mem := { s.mem with entUse := s.mem.entUse.filter (· != u) } }
  if u.building then s1.slotFree u.pitch u.slot else s1.slotDrop u.pitch u.slot

/-- Every use of a launch on a stall ends with its sweep (R256). -/
def State.endUses (s : State) (l st : Nat) : State :=
  (s.mem.entUse.filter (fun u => u.launch == l && u.stall == st)).foldl (fun s u => s.endUse u) s

/-- The next generation of an id: one more than the last, past those that other slots hold (R254). -/
def State.nextGen (s : State) (p id : Nat) : Nat :=
  let last := (match s.readDev p none (s.genAddr p id) 1 with
    | .ok bs => leNat bs
    | _ => 0)
  let used := ((List.range 64).filter (fun i => s.slotState p i != 0 && s.slotId p i == id)).map (s.slotGen p)
  ((List.range 256).map (fun k => (last + 1 + k) % 256)).find? (fun g => !used.contains g) |>.getD 0

/-- A slot taken for a build (R254 steps 1, 2): ID, GEN, BUILDING, and the generation array. -/
def State.slotBuild (s : State) (p i id gen : Nat) : State :=
  (s.slotPut p i 0 (leBytes 2 id ++ leBytes 1 gen ++ leBytes 1 1)).writeDev p none .write none (s.genAddr p id) (leBytes 1 gen) false

/-- A built table written: its lengths, its decode structures, which the spec does not lay out, TIME, and READY. -/
def State.slotFinish (s : State) (p i : Nat) (lens : List Nat) : State :=
  let t := s.now
  let len := (List.range 128).map (fun k => BitVec.ofNat 8 ((lens[2 * k]?.getD 0) + 16 * (lens[2 * k + 1]?.getD 0)))
  let dec := (List.range 880).map (fun k => Config.anyByte (s.free * 1024 + k))
  (s.afterNow.slotPut p i 8 (leBytes 8 t.toNat ++ len ++ dec)).slotPut p i 3 (leBytes 1 2)

/-- TABLE_RELEASE of (id, gen): whether a READY slot was found (R255). -/
def State.slotRelease (s : State) (p id gen : Nat) : State × Bool :=
  match s.slotReady p id gen with
  | none => (s, false)
  | some i => if s.slotCount p i = 0 then (s.slotFree p i, true) else (s.slotPut p i 3 (leBytes 1 3), true)

end Sys2Proof.Machine
end

