-- ==== Sys2Proof/Machine/Xfers.lean ====
section
/-! DEFINITION. What every Porter transfer shares: its sides, its place in a channel, packed regions it meets, fetching from its
source, storing to its destination, its failure and its completion (spec 07 R174 to R193, R574; 10 R247 to R249; 05 R149). -/

namespace Sys2Proof.Machine

/-! ### Channels -/

/-- The reader that a transfer is (Tables 7-5, 18-3). -/
def Xfer.reader (x : Xfer) (st ch : Nat) : Reader :=
  { launch := x.launch, stall := st, ctx := x.ctx, pc := x.pc, op := x.kind.op, src := srcChan st ch, ukind := 0x05, uindex := ch,
    client := 16 + ch, engine := ch, seqid := (x.walk.map (fun w => fieldAt w.header 0 4)).getD 0 }

/-- The oldest copying transfer of a channel, which completes next: every kind but PPOST (R189). -/
def Chan.front? (c : Chan) : Option Xfer := c.xfers.find? (fun x => x.kind != .post)

/-- Whether a transfer has made its last access: a message is sent, a buffer registered, any other transfer has been written. -/
def Xfer.moved (x : Xfer) : Bool := x.written || (x.begun && (x.kind == .send || x.kind == .post))

/-- The transfer of a channel whose turn it is to make accesses: the oldest that has not made its last one, though an earlier one may
still have to complete (R189). -/
def Chan.actor? (c : Chan) : Option Xfer := c.xfers.find? (fun x => !x.moved)

/-- The state with a transfer changed. -/
def State.modXfer (s : State) (st ch serial : Nat) (f : Xfer → Xfer) : State :=
  s.modChan st ch (fun c => { c with xfers := c.xfers.map (fun x => if x.serial = serial then f x else x) })

/-- A transfer that fails: its record with LOG, and the end of its launch (R187, R574). -/
def State.xferErr (s : State) (st ch : Nat) (x : Xfer) (e : XErr) : State :=
  (s.failRec st ch x e.status).rdErr (x.reader st ch) (s.pitchOfLaunch x.launch) e

/-- A transfer that completes (R190, R193): its timestamp, its context's quantities, the tallies, its launch's progress, and its
place in the channel. -/
def State.xferDone (s : State) (st ch : Nat) (x : Xfer) (bytes : Nat) : State :=
  let t := s.stamp (srcChan st ch)
  let s1 := s.portRec st ch x .ok bytes
  let s2 := s1.modChan st ch (fun c =>
    { c with xfers := c.xfers.filter (fun y => y.serial != x.serial), nXfers := c.nXfers + 1,
             nBytes := c.nBytes + BitVec.ofNat 64 bytes,
             info := c.info.setIfInBounds x.ctx
               (let i := c.info[x.ctx]?.getD ChanInfo.zero
                { time := t, bytes := BitVec.ofNat 64 bytes,
                  zeros := if x.kind = .conv then BitVec.ofNat 64 x.zeros else i.zeros, count := i.count + 1 }) })
  s2.modLaunch x.launch (fun l => { l with progress := l.progress + 1 })

/-- A transfer that has made its last access: it completes where no earlier copying transfer of its channel is outstanding, and else
waits for its turn (R189, R190). -/
def State.xferMoved (s : State) (st ch : Nat) (x : Xfer) (bytes : Nat) : State :=
  if x.kind = .post ∨ (s.chanOf st ch).front?.map (·.serial) = some x.serial then s.xferDone st ch x bytes
  else s.modXfer st ch x.serial (fun y => { y with written := true, wrote := bytes, zeros := x.zeros })

/-! ### Sides (R176, R178) -/

/-- The sides of a transfer. -/
inductive Side where
  | dev | bay | remote | host
  deriving DecidableEq, Repr

/-- The side that a descriptor names. -/
def sideOf (d : TDesc) (host : Option W64) : Side :=
  if host.isSome then .host else if d.loc = 0 then .dev else if d.loc = 1 then .bay else .remote

/-- The stall whose bays a bay descriptor names. -/
def TDesc.bayStall (d : TDesc) (st : Nat) : Nat := if d.loc = 2 then d.stall else st

/-- A transfer's accesses start only under tokens of its channel that cover every row they touch: they wait for a hand-over that is
pending, and a row without cover ends the launch (R145). -/
def State.onRows (s : State) (st ch : Nat) (x : Xfer) (go : State) : State :=
  match s.cover st x.ctx (.port ch) x.rows with
  | .held => go
  | .pending => s
  | .missing => s.xferErr st ch x (.bad .badProgram 0)

/-! ### Packed regions (R247 to R249) -/

/-- A descriptor that names stored bytes (R247). -/
def TDesc.storedBytes (d : TDesc) : Bool := d.fmt == ⟨.plain, .int8⟩ && d.ndim == 1

/-- Bytes of the raw image of a plain tensor, from BASE. -/
def TDesc.imageBytes (d : TDesc) : Nat := d.byteRuns.foldl (fun a x => max a (x.1 + x.2 - d.base)) 0

/-- Units of a tensor in a packed region: segments, or 4,096 raw bytes each (R243). -/
def TDesc.units (d : TDesc) (seg : Bool) : Nat := if seg then d.segments else ceilDiv d.imageBytes 4096

/-- What a packed region makes of one side of a PCOPY. -/
inductive Pk where
  | none | stored
  | unit (n : Nat)
  | lowr (n : Nat)
  | refused | badProgram
  deriving DecidableEq, Repr

/-- Whether a range lies within a packed region. -/
def State.withinPkr (s : State) (p n addr len : Nat) : Bool :=
  decide (s.pkrBase p n ≤ addr) && decide (addr + len ≤ s.pkrLimit p n)

/-- Whether a descriptor names whole units of a region from a unit boundary, in a format that the region holds (R243, R248). -/
def State.unitFit (s : State) (p n : Nat) (d : TDesc) : Bool :=
  let seg := s.pkrSeg p n
  (d.base - s.pkrBase p n) % s.pkrUnit p n == 0
    && s.withinPkr p n d.base (d.units seg * s.pkrUnit p n)
    && (if seg then d.fmt.fam == .fb && !s.inRegion p d.sbase (recordSize d.fmt.el * d.segments) else d.fmt.fam == .plain)

/-- The source side of a PCOPY. -/
def State.pkSrc (s : State) (p : Nat) (d : TDesc) : Pk :=
  match s.pkrOf p d.base with
  | some n =>
    if d.storedBytes then (if s.withinPkr p n d.base d.imageBytes then .stored else .refused)
    else if s.pkrCodec p n = 3 then .lowr n
    else if s.unitFit p n d then .unit n
    else .refused
  | none => if d.devRanges.any (fun r => s.inRegion p r.1 r.2) then .refused else .none

/-- The destination side of a PCOPY (R248). -/
def State.pkDst (s : State) (p : Nat) (d : TDesc) : Pk :=
  match s.pkrOf p d.base with
  | some n =>
    if d.storedBytes then (if s.withinPkr p n d.base d.imageBytes then .stored else .refused)
    else if s.pkrCodec p n = 3 || !s.pkrEnc p n then .refused
    else
      let fmtOk := if s.pkrCodec p n = 1 then d.fmt == ⟨.plain, .bf16⟩ || d.fmt == ⟨.plain, .fp32⟩
        else if s.pkrSeg p n then d.fmt.fam == .fb else d.fmt.fam == .plain && d.fmt.el != .int8
      if !fmtOk || (d.base - s.pkrBase p n) % s.pkrUnit p n ≠ 0 then .badProgram
      else if s.unitFit p n d then .unit n
      else .refused
  | none => if d.devRanges.any (fun r => s.inRegion p r.1 r.2) then .refused else .none

/-! ### Fetching -/

/-- A list cut into pieces of the lengths given. -/
def cutBy {α : Type} : List Nat → List α → List (List α)
  | [], _ => []
  | n :: ns, l => l.take n :: cutBy ns (l.drop n)

/-- The raw image that decoded units give, with the poison of units that were not delivered. -/
def imageOf (ps : List (Nat × Option Seg)) (units base : Nat) : List FByte :=
  (List.range units).flatMap (fun u => match segAt ps u with
    | some g => clean (g.elems ++ List.replicate (4096 - g.elems.length) 0)
    | none => List.replicate 4096 (0, some (base + 4096 * u)))

/-- The rows of a plain tensor from its raw image. -/
def TDesc.rowsOfImage (d : TDesc) (image : List FByte) : List (List FByte) :=
  d.byteRuns.map (fun x => (image.drop (x.1 - d.base)).take x.2)

/-- What fetching a transfer's source gives. -/
inductive Fetch where
  | wait
  | err (s : State) (e : XErr)
  | got (s : State) (data : XData)

/-- A transfer's data from its source `d`: read at once from a bay, plain device memory or the host's bytes; from the pairs and
units staged before; a remote source waits for its request (R181 to R185, R169). -/
def State.xferFetch (s : State) (st : Nat) (x : Xfer) (d : TDesc) (host : List Byte) (ups : List (Nat × BitVec 39)) : Fetch :=
  match s.launch? x.launch with
  | none => .wait
  | some l =>
    match x.data with
    | some y => .got s y
    | none =>
      match sideOf d x.srcHost with
      | .host => .got s (d.dataOf ((cutBy d.runBytes host).map clean))
      | .bay =>
        let r := (s.upset st ups).bayRuns st d
        .got r.1 (d.dataOf r.2)
      | .remote => .wait
      | .dev =>
        match s.pkSrc l.pitch d with
        | .unit n =>
          let u := d.units (s.pkrSeg l.pitch n)
          if x.pairs.length < u then .wait
          else if s.pkrSeg l.pitch n then .got s (.runs (d.runsOfSegs x.pairs))
          else .got s (d.dataOf (d.rowsOfImage (imageOf x.pairs u d.base)))
        | .lowr _ => .wait
        | _ =>
          if d.fmt.fam = .fb then
            (if x.pairs.length < d.segments then .wait else .got s (.runs (d.runsOfSegs x.pairs)))
          else match s.devRuns l.pitch (some l.csr.toNat) d with
            | .ok runs => .got s (d.dataOf runs)
            | .error e => .err s e

/-! ### Storing -/

/-- Whether a range of device memory may be written by a transfer, and what refuses it (R149, R249, R270). -/
def State.devRefuses (s : State) (p : Nat) (csr : Option Nat) (stored : Bool) (ranges : List (Nat × Nat)) : Option XErr :=
  ranges.findSome? (fun r =>
    if r.2 = 0 then none
    else if (!stored && s.inRegion p r.1 r.2) || s.inFences p r.1 r.2 || s.inTables p r.1 r.2 || s.inCounts p r.1 r.2
    then some (.denied r.1 false)
    else (s.checkWrite p csr .write r.1 r.2).err)

/-- What a store leaves: the state, or what ends the transfer. -/
abbrev Stored := Except XErr State

/-- A transfer's data stored at its destination `d` (R181, R182, R188): a poisoned byte reaches device memory alone. -/
def State.xferStore (s : State) (st : Nat) (x : Xfer) (d : TDesc) (data : XData) : Stored :=
  match s.launch? x.launch with
  | none => .ok s
  | some l =>
    let runs := d.runsOf data
    let csr := some l.csr.toNat
    let who := some (s.ctxFaultInfo l (some st) .ok 0x02 x.ctx 0 0)
    match sideOf d x.dstHost with
    | .dev =>
      (match s.devRefuses l.pitch csr d.storedBytes d.devRanges with
       | some e => .error e
       | none =>
         if d.fmt.fam = .fb then .ok (s.devStoreFb l.pitch csr who d runs)
         else .ok ((d.byteRuns.zip runs).foldl (fun s y => s.devStore l.pitch csr who y.1.1 y.2) s))
    | .host =>
      (match data.flag with
       | some a => .error (.poison a)
       | none =>
         let base := (x.dstHost.getD 0).toNat
         .ok ((d.byteRuns.zip runs).foldl (fun (s : State) y =>
           (s.digestHost x.launch y.1.1 (bare y.2)).hostWrite (some (s.fnOf l.pitch)) (base + y.1.1 % 2 ^ 40) (bare y.2)) s))
    | _ =>
      (match data.flag with
       | some a => .error (.poison a)
       | none => .ok (s.bayStoreRuns (d.bayStall st) d runs))

/-- FB segments of a read written on unchanged (R182): each with its poison, at the same place in order. -/
def State.segsStore (s : State) (st : Nat) (x : Xfer) (d : TDesc) : Stored :=
  match s.launch? x.launch with
  | none => .ok s
  | some l =>
    let csr := some l.csr.toNat
    let who := some (s.ctxFaultInfo l (some st) .ok 0x02 x.ctx 0 0)
    match s.devRefuses l.pitch csr false d.devRanges with
    | some e => .error e
    | none =>
      .ok (x.pairs.foldl (fun s q => match q.2 with
        | some g => s.putSeg l.pitch csr who d q.1 (clean g.elems) (clean g.trailer) (clean g.record)
        | none =>
          let bad := fun (n : Nat) => List.replicate n ((0 : Byte), some (segAddr d.base q.1))
          s.putSeg l.pitch csr who d q.1 (bad 4096) (bad 32) (bad (recordSize d.fmt.el))) s)

/-! ### Pairs that fail (R187) -/

/-- The arrays that a copy or a conversion of an FB tensor has written when its first `k` pairs have been. -/
def State.partRuns (s : State) (x : Xfer) (l : Launch) (a d : TDesc) (k : Nat) : List (List FByte) :=
  let _ := s
  let runs := a.runsOfSegs x.pairs
  firstSegs a.fmt.el k (if x.kind = .conv then (fbToMx a ((RMode.ofCode (x.opt 10 9)).getD .rne) l.seed d.tag runs).1 else runs)

/-- The first `k` pairs of an FB read written, with the bytes that they took (R187). -/
def State.partStore (s : State) (st : Nat) (x : Xfer) (l : Launch) (a d : TDesc) (k : Nat) : Except XErr (State × Nat) :=
  let runs := s.partRuns x l a d k
  if k = 0 then .ok (s, 0)
  else match sideOf d x.dstHost with
    | .dev =>
      if s.pkDst l.pitch d != .none then .ok (s, 0)
      else if d.fmt.fam = .fb then
        (s.segsStore st { x with pairs := x.pairs.filter (fun q => decide (q.1 < k)) } d).map
          (fun s' => (s', k * (4128 + recordSize d.fmt.el)))
      else (match s.devRefuses l.pitch (some l.csr.toNat) false d.devRanges with
        | some e => .error e
        | none =>
          let who := some (s.ctxFaultInfo l (some st) .ok 0x02 x.ctx 0 0)
          .ok ((d.byteRuns.zip runs).foldl (fun s y => s.devStore l.pitch (some l.csr.toNat) who y.1.1 y.2) s,
            runs.foldl (fun n r => n + r.length) 0))
    | _ => .ok (s.bayStoreRuns (d.bayStall st) d runs, runs.foldl (fun n r => n + r.length) 0)

/-- A transfer whose next pair fails: what it wrote before stays written, and its launch ends (R187). Up to four pairs before it may
still be staged, and the spec does not say how many. DESIGN CHOICE: that number is free (log 159). -/
def State.pairFail (s : State) (st ch : Nat) (x : Xfer) (l : Launch) (a d : TDesc) (e : XErr) : State :=
  let n := x.pairs.length
  match s.afterAny.partStore st x l a d (n - s.anyWord.toNat % 5) with
  | .ok (s', wrote) => s'.xferErr st ch { x with wrote := wrote } e
  | .error e' => s.xferErr st ch x e'

/-! ### Host windows (R149, R178, R335) -/

/-- Host ranges that no transfer may touch: rings, the reclaim log's and the Daybook's and fault rings among them, doorbell arrays and
status blocks, a firmware session's among them (R149). -/
def State.hostForbidden (s : State) : List (Nat × Nat) :=
  s.fe.queues.flatMap (fun e => [(e.2.base.toNat, (if e.2.isCq then 32 else 64) * 2 ^ e.2.log2), (e.2.status.toNat, 64)])
    ++ (List.range 25).flatMap (fun f =>
      let groups := (s.groupsOf f).length
      (if groups = 0 then [] else [(s.dbaBase f, 128 * groups)])
        ++ (if s.fld f offPsb 0 0 = 1 then [(s.fld f offPsb 63 6 * 64, 64)] else []))
    ++ (List.range 25).flatMap (fun k =>
      (if s.ringActive (s.dbkReg k) 8 20 then [(s.ringBase (s.dbkReg k), 32 * s.ringSize (s.dbkReg k))] else [])
        ++ (if s.ringActive (s.fltReg k) 6 16 then [(s.ringBase (s.fltReg k), 64 * s.ringSize (s.fltReg k))] else []))
    ++ ((List.range 24).filter s.rclActive).map (fun p => (s.pfld p offRclBase 63 12 * 4096, 32 * s.pfld p offRclSize 16 0))
    ++ (s.fw.sess.map (fun x => (x.status.toNat, 64))).toList

/-- The host address of a window that a descriptor names, or the status that refuses it. `perm` is the permission bit of the
direction. -/
def State.hostSide (s : State) (p : Nat) (d : TDesc) (perm : Nat) : Except Status W64 :=
  if d.loc ≠ 0 || d.fmt.fam ≠ .plain || d.base / 2 ^ 46 ≠ 0 then .error .badProgram
  else
    let off := d.base % 2 ^ 40
    match Tab.find s.fe.wins (p * 64 + d.base / 2 ^ 40) with
    | none => .error .accessDenied
    | some w =>
      let stop := off + d.imageBytes
      let ranges := d.byteRuns.map (fun r => (w.1.toNat + r.1 % 2 ^ 40, r.2))
      if !bit w.2.2 perm || decide (w.2.1.toNat < stop) then .error .accessDenied
      else if s.hostForbidden.any (fun f => ranges.any (fun r => meets f.1 f.2 r.1 r.2)) then .error .accessDenied
      else .ok w.1

end Sys2Proof.Machine
end

