-- ==== Sys2Proof/Machine/Walk.lean ====
section
/-! DEFINITION. Page walks: the list header, scale frames, page regions, the closing epoch read, and the tile that a walk writes
(spec 09 R213 to R226). -/

namespace Sys2Proof.Machine

/-! ### The list header (R213 to R219) -/

/-- Fields of a page-list header (Table 9-2). -/
def plF (h : List Byte) (off n : Nat) : Nat := fieldAt h off n
def plEpoch (h : List Byte) : Nat := plF h 4 4
def plValid (h : List Byte) : Nat := plF h 8 4
def plCap (h : List Byte) : Nat := plF h 12 4
def plP (h : List Byte) : Nat := 16 * 2 ^ plF h 16 1
def plTag (h : List Byte) : Nat := plF h 18 2
def plLayers (h : List Byte) : Nat := plF h 20 2
def plHeads (h : List Byte) : Nat := plF h 22 1
def plDim (h : List Byte) : Nat := 32 * plF h 23 1

/-- The cache format of a list: an FB format or FP8 (R213). -/
def plFmt (h : List Byte) : Option Fmt :=
  match Fmt.ofCode (plF h 17 1) with
  | some f => if f.fam = .fb ∨ f = ⟨.plain, .fp8e4m3⟩ ∨ f = ⟨.plain, .fp8e5m2⟩ then some f else none
  | none => none

/-- Elements of one region, bytes of a page's stream, and its segments (R214, R215). -/
def plRegion (h : List Byte) : Nat := plP h * plDim h
def plStream (h : List Byte) (f : Fmt) : Nat := 2 * plRegion h * plLayers h * plHeads h * f.el.width / 8
def plSegs (h : List Byte) (f : Fmt) : Nat := if f.fam = .fb then ceilDiv (plStream h f) 4096 else 0

/-- Whether a walk accepts a header (R219). -/
def plOk (h : List Byte) : Bool :=
  match plFmt h with
  | none => false
  | some f =>
    let segs := plSegs h f
    decide (plValid h ≤ 2 ^ 24) && decide (1 ≤ plCap h) && decide (plCap h ≤ 2 ^ 20)
      && decide (plF h 16 1 ≤ 4) && (f.fam != .fb || decide (1 ≤ plF h 16 1))
      && decide (1 ≤ plLayers h) && decide (plLayers h ≤ 4096) && decide (1 ≤ plHeads h) && decide (plHeads h ≤ 64)
      && decide (1 ≤ plF h 23 1) && decide (plF h 23 1 ≤ 7)
      && plF h 24 8 % 4096 == 0 && plF h 30 2 == 0 && plF h 32 8 % 4096 == 0 && plF h 38 2 == 0
      && decide (1 ≤ plF h 40 4) && decide (plF h 40 4 ≤ 16384) && decide (1 ≤ plF h 44 4) && decide (plF h 44 4 ≤ 16384)
      && zeroAt h 48 16 && decide (ceilDiv (plValid h) (plP h) ≤ plCap h)
      && decide ((if f.fam = .fb then 4128 * segs else plStream h f) ≤ plF h 40 4 * 4096)
      && decide (64 + (if f.fam = .fb then segs * recordSize f.el else 0) ≤ plF h 44 4 * 4096)

/-- Where the frames of an entry lie (R218). -/
def plData (h : List Byte) (e : Nat) : Nat := plF h 24 8 + (e % 2 ^ 32) * plF h 40 4 * 4096
def plScale (h : List Byte) (e : Nat) : Nat := plF h 32 8 + bits e 55 32 * plF h 44 4 * 4096

/-! ### Operands (R220) -/

/-- LAYER, HEAD, BLOCK and KIND of a walk; KIND 1 is a value tile. -/
def Xfer.layer (x : Xfer) : Nat := bits x.gval.toNat 15 0
def Xfer.head (x : Xfer) : Nat := bits x.gval.toNat 21 16
def Xfer.block (x : Xfer) : Nat := bits x.gval.toNat 47 32
def Xfer.valueTile (x : Xfer) : Bool := x.opt 16 15 == 1

/-- The first stream element of a walk's region in a page (R214). -/
def Xfer.regionStart (x : Xfer) (h : List Byte) : Nat :=
  2 * plRegion h * (x.layer * plHeads h + x.head) + (if x.valueTile then plRegion h else 0)

/-- The walk that a channel performs now. -/
def State.frontWalk (s : State) (st ch : Nat) : Option (Xfer × Walk × Launch) :=
  match (s.chanOf st ch).actor? with
  | none => none
  | some x =>
    match x.walk, s.launch? x.launch with
    | some w, some l => if x.kind = .walk then some (x, w, l) else none
    | _, _ => none

/-- A walk's fault with the syndrome of Table 9-4. -/
def Walk.err (w : Walk) (st : Status) (kind ch page : Nat) : XErr :=
  .own st (kind + ch * 2 ^ 8 + (plEpoch w.header % 2 ^ 16) * 2 ^ 16 + page * 2 ^ 32) w.list.toNat 0x05 ch

/-! ### Events -/

/-- A read of a page walk, which no packed region may meet (R249). -/
def State.walkRead (s : State) (l : Launch) (addr n : Nat) : Rd :=
  if s.inRegion l.pitch addr n then .denied addr false else s.readDev l.pitch (some l.csr.toNat) addr n

/-- PAGE_WALK_HEADER_READ: the list header returns and is checked, then the entries of the pages to be read (R219 to R221). -/
def execPageWalkHeaderRead (st : StallId) (ch : ChanId) (s : State) : Res :=
  .next (match s.frontWalk st ch with
    | none => s
    | some (x, w, l) =>
      if !w.header.isEmpty then s
      else match s.cover st x.ctx (.port ch) x.rows with
        | .pending => s
        | .missing => s.xferErr st ch x (.bad .badProgram 0)
        | .held =>
          let lst := w.list.toNat
          match s.walkRead l lst 64, TDesc.parse (s.stallsOf l.pitch) x.d with
          | .ok h, some d =>
            if !plOk h then s.xferErr st ch x (.bad .badDescriptor lst)
            else
              let rows := if x.valueTile then 256 else plDim h + 32
              if plLayers h ≤ x.layer ∨ plHeads h ≤ x.head ∨ some d.fmt ≠ plFmt h ∨ d.extent 0 ≠ rows ∨ d.extent 1 ≠ 256 then
                s.xferErr st ch x (.bad .badProgram 0)
              else
                let first := x.block * 256
                let pages := ((List.range (256 / plP h)).map (first / plP h + ·)).filter (fun i => decide (i * plP h < plValid h))
                let lo := lst + 64 + 8 * (pages.headD 0)
                (match s.walkRead l lo (8 * pages.length) with
                 | .ok es =>
                   let w' := { w with header := h, pages := pages, entries := (chunksOf 8 es).map leNat, closed := pages.isEmpty }
                   s.modXfer st ch x.serial (fun y => { y with walk := some w' })
                 | r => (match r.err with
                   | some e => s.xferErr st ch x e
                   | none => s))
          | r, _ => (match r.err with
            | some e => s.xferErr st ch x e
            | none => s))

/-- The FP8 region of a page: a plain array (R215). -/
def State.plainRegion (s : State) (l : Launch) (x : Xfer) (h : List Byte) (e : Nat) : Rd :=
  s.walkRead l (plData h e + x.regionStart h) (plRegion h)

/-- SCALE_FRAME_CHECK: the scale frame of the next page returns and is checked against its entry (R222). -/
def execScaleFrameCheck (st : StallId) (ch : ChanId) (s : State) : Res :=
  .next (match s.frontWalk st ch with
    | none => s
    | some (x, w, l) =>
      match w.pages[w.checked]?, w.entries[w.checked]?, plFmt w.header with
      | some i, some e, some f =>
        if w.got.length ≠ w.checked then s
        else
          let a := plScale w.header e
          (match s.walkRead l a 64 with
           | .ok sf =>
             let g := fieldAt sf
             let kind := if g 3 1 ≠ bits e 63 56 then 1 else if g 4 4 ≠ i then 2
               else if g 0 2 ≠ plTag w.header ∨ g 2 1 ≠ f.toCode ∨ g 12 1 ≠ plF w.header 16 1 ∨ g 8 4 ≠ plSegs w.header f then 3
               else 0
             if kind ≠ 0 then s.xferErr st ch x (w.err .pageTagMismatch kind ch i)
             else if !zeroAt sf 13 51 then s.xferErr st ch x (.bad .badDescriptor a)
             else if f.fam = .fb then
               s.modXfer st ch x.serial (fun y => { y with pairs := [], walk := some { w with checked := w.checked + 1 } })
             else (match s.plainRegion l x w.header e with
               | .ok bs =>
                 let w' := { w with checked := w.checked + 1, got := w.got ++ [⟨i, bs.map (·.toNat), []⟩] }
                 s.modXfer st ch x.serial (fun y => { y with walk := some w' })
               | r => (match r.err with
                 | some z => s.xferErr st ch x z
                 | none => s))
           | r => (match r.err with
             | some z => s.xferErr st ch x z
             | none => s))
      | _, _, _ => s)

/-- The segments of a walk's region in a frame: the first and the last (R226). -/
def Xfer.regionSegs (x : Xfer) (h : List Byte) (f : Fmt) : Nat × Nat :=
  let b0 := x.regionStart h * f.el.width / 8
  (b0 / 4096, ((x.regionStart h + plRegion h) * f.el.width / 8 - 1) / 4096)

/-- UE5M3 as a rounding target (R36). -/
def ue5m3Fmt : FpFmt := ⟨5, 3, 15, false, false⟩

/-- The combined scale of a frame block as a block scale of its own (R225); none above the largest UE5M3 value or for a slab scale
outside R37. -/
def foldScale (bscale : Nat) (slab : Half) : Option Nat :=
  match slabScale slab with
  | none => none
  | some y =>
    let c := Dy.mul (ue5m3 bscale) y
    if Dy.lt ⟨122880, 0⟩ c then none
    else if c.m = 0 then some 0
    else ue5m3Fmt.roundCode .rne 0 c.m.natAbs c.e

/-- Blocks of a region that a walk copies: those with a position below VALID (R219, R225). A value region lies by columns. -/
def Xfer.copied (x : Xfer) (h : List Byte) (i b : Nat) : Bool :=
  let p := plP h
  if x.valueTile then decide (i * p + 32 * b % p < plValid h) else decide (i * p + 32 * b / plDim h < plValid h)

/-- The page that a walk has read once its region's pairs are in: its codes and scales, or none where a scale of a block that it copies
breaks R225. -/
def Xfer.foldPage (x : Xfer) (h : List Byte) (f : Fmt) (i : Nat) (ps : List (Nat × Option Seg)) : Option WalkPage :=
  let ks := keptOf ps
  let start := x.regionStart h
  let n := plRegion h
  let bs := (List.range (n / 32)).map (fun b =>
    if x.copied h i b then foldScale (blockAt f.el 0 ks (start / 32 + b)) (slabAt f.el 0 ks ((start / 32 + b) / 16)) else some 0)
  if bs.any Option.isNone then none
  else some ⟨i, unpackCodes f.el.width (streamSlice ks (start * f.el.width / 8) (n * f.el.width / 8)) n, bs.map (·.getD 0)⟩

/-- The next pair of a walk's page, read and checked (R185, R186, R222). -/
def State.walkPair (s : State) (st ch : Nat) : State :=
  match s.frontWalk st ch with
  | none => s
  | some (x, w, l) =>
    match plFmt w.header, w.pages[w.got.length]?, w.entries[w.got.length]? with
    | some f, some i, some e =>
      if f.fam ≠ .fb ∨ w.checked ≠ w.got.length + 1 then s
      else
        let sg := x.regionSegs w.header f
        let n := sg.1 + x.pairs.length
        let base := plData w.header e
        let r : Reader := { (x.reader st ch) with engine := 12 }
        (match (if s.inRegion l.pitch (segAddr base n) 4128 then PairRd.stop (.denied (segAddr base n) false)
                else if s.inRegion l.pitch (recAddr f.el (plScale w.header e + 64) n) (recordSize f.el) then
                  .stop (.denied (recAddr f.el (plScale w.header e + 64) n) false)
                else s.readPair l.pitch (some l.csr.toNat) f.el base (plScale w.header e + 64) n) with
         | .stop z => (match z.err with
           | some (.poison a) => (if x.opt 5 5 = 1 then s.portRec st ch x .poisonConsumed 0 else s).rdPoison r a
           | some y => s.xferErr st ch x y
           | none => s)
         | .got g =>
           let need := min 4096 ((x.regionStart w.header + plRegion w.header) * f.el.width / 8 - 4096 * n)
           (match g.fails f.el { tag := BitVec.ofNat 16 (plTag w.header), fmt := f.toCode, index := n, final := n == sg.2, need := need } with
            | some bad => s.xferErr st ch x (.own bad.1 (g.syndrome bad.2 12) (segAddr base n) 0x05 ch)
            | none =>
              let ps := x.pairs ++ [(n, some ⟨g.elems, g.trailer, g.record⟩)]
              if n < sg.2 then s.modXfer st ch x.serial (fun y => { y with pairs := ps })
              else match x.foldPage w.header f i ps with
                | none => s.xferErr st ch x (.bad .badDescriptor base)
                | some pg => s.modXfer st ch x.serial (fun y => { y with pairs := [], walk := some { w with got := w.got ++ [pg] } })))
    | _, _, _ => s

/-- PAGE_WALK_EPOCH_READ: the epoch that closes a group returns and must equal the first (R221). -/
def execPageWalkEpochRead (st : StallId) (ch : ChanId) (s : State) : Res :=
  .next (match s.frontWalk st ch with
    | none => s
    | some (x, w, l) =>
      if w.closed || w.header.isEmpty || w.got.length != w.pages.length then s
      else match s.walkRead l (w.list.toNat + 4) 4 with
        | .ok bs =>
          if leNat bs = plEpoch w.header then s.modXfer st ch x.serial (fun y => { y with walk := some { w with closed := true } })
          else s.xferErr st ch x (w.err .stalePagelist 0 ch (w.pages.headD 0))
        | r => (match r.err with
          | some z => s.xferErr st ch x z
          | none => s))

/-! ### The tile (R223 to R225) -/

/-- The code of 1.0 in a cache format (Table 9-5). -/
def unitCode : Elem → Nat
  | .fp8e4m3 => 0x38 | .fp8e5m2 => 0x3C | .int8 => 0x01 | .fp6e2m3 => 0x08 | .fp6e3m2 => 0x0C | .fp4 => 0x2 | _ => 0x1

/-- The page of a walk that holds a position, and the position within it. -/
def Walk.pageAt (w : Walk) (pos : Nat) : Option (WalkPage × Nat) :=
  (w.got.find? (fun g => g.index == pos / plP w.header)).map (fun g => (g, pos % plP w.header))

/-- One column of a key tile: its codes and block scales (R223). -/
def Walk.keyColumn (w : Walk) (el : Elem) (pos : Nat) : List Nat × List Nat :=
  let d := plDim w.header
  let none' := (List.replicate (d + 32) 0, List.replicate (d / 32 + 1) 0)
  if plValid w.header ≤ pos then none'
  else match w.pageAt pos with
    | none => none'
    | some (g, p) =>
      ((g.codes.drop (p * d)).take d ++ [unitCode el] ++ List.replicate 31 0, (g.scales.drop (p * d / 32)).take (d / 32) ++ [0x78])

/-- One column of a value tile (R224). -/
def Walk.valueColumn (w : Walk) (el : Elem) (first j : Nat) : List Nat × List Nat :=
  let d := plDim w.header
  let at' := fun (t : Nat) => if plValid w.header ≤ first + t then none else w.pageAt (first + t)
  ((List.range 256).map (fun t => match at' t with
     | none => 0
     | some (g, p) => if j < d then g.codes[j * plP w.header + p]?.getD 0 else if j = d then unitCode el else 0),
   (List.range 8).map (fun b => match at' (32 * b) with
     | none => 0
     | some (g, p) => if j < d then g.scales[(j * plP w.header + p) / 32]?.getD 0 else if j = d then 0x78 else 0))

/-- The arrays of a walk's tile (R225): for FP8 the codes alone. -/
def Walk.tile (w : Walk) (x : Xfer) (f : Fmt) : XData :=
  let cols := (List.range 256).map (fun i =>
    if x.valueTile then w.valueColumn f.el (x.block * 256) i else w.keyColumn f.el (x.block * 256 + i))
  let codes := cols.flatMap (·.1)
  if f.fam = .fb then
    let bs := cols.flatMap (·.2)
    .runs [clean (packCodes f.el.width codes), clean (bs.map (BitVec.ofNat 8)),
           clean ((List.range (ceilDiv bs.length 16)).flatMap (fun _ => leBytes 2 0x3F80))]
  else .codes (codes.map (fun c => (c, none)))

end Sys2Proof.Machine
end

