-- ==== Sys2Proof/Machine/Descriptors.lean ====
section
/-! DEFINITION. Descriptors: their checks, DESC_NOP, LAUNCH, LAUNCH_PLACE, WAIT, SIGNAL, SIGNAL_WRITE_VISIBLE, PAGE_EDIT, TABLE_RELEASE,
QUEUE_CREATE, QUEUE_DELETE, RESYNC, RESUME, HOSTWIN, KILL, PITCH_RESET (spec 13 R325 to R336, R344; 14 R351 to R355, R362 to R365;
09 R230; 05 R122, R130). -/

namespace Sys2Proof.Machine

/-! ### Starting (R326, R327, R356, R357) -/

/-- The head of an SQ that may be examined now: nothing holds it but, it may be, that its SQ is not resident. -/
def State.headAt (s : State) (q : Nat) : Option (Queue × Desc) :=
  match s.queue? q with
  | none => none
  | some x =>
    match x.head? with
    | none => none
    | some d =>
      if s.awake && !x.isCq && x.state == .active && !d.barred x && decide (s.cqWaiting x < 64)
          && (match s.pitchOfFn x.fn with
              | some p => (s.pitch p).state != .resetting
              | none => true) then some (x, d)
      else none

/-- Whether a head may start now: its SQ is an admin SQ or resident (R356). -/
def State.mayStart (s : State) (q : Nat) (x : Queue) : Bool := x.admin || (s.slotIn q).isSome

/-- A descriptor starts: it counts in the slot that it starts from (R367). -/
def State.startDesc (s : State) (q : Nat) (h : W32) : State :=
  let slot := s.slotIn q
  let s1 := s.modQueue q (fun x =>
    { x.modDesc h (fun d => { d with started := true, blocked := false, slot := slot }) with started := h })
  match slot with
  | some n => s1.modSlot n (fun x => { x with starts := x.starts + 1 })
  | none => s1

/-- A head that starts and completes at once. -/
def State.endHead (s : State) (q : Nat) (h : W32) (st : Status) (info : W64) : State :=
  (s.startDesc q h).finishDesc q h st 0 info none

/-! ### The checks of R326 -/

/-- Whether an opcode is listed and accepted on the kind of queue (R314). -/
def opAccepted (admin : Bool) (op : Nat) : Bool :=
  op == 0 || (if admin then (decide (0x40 ≤ op) && decide (op ≤ 0x46)) || (decide (0x60 ≤ op) && decide (op ≤ 0x63))
    else decide (op ≤ 5))

/-- Whether a 12-bit pair of ROWS is in range (Table 13-6). -/
def rowsOk (w : Nat) : Bool := bits w 11 0 == 4095 || (decide (bits w 11 0 ≤ bits w 23 12) && decide (bits w 23 12 ≤ 3071))

/-- A PITCH field: a pitch, or 0xFF. -/
def pitchField (v : Nat) : Bool := decide (v < 24) || v == 0xFF

/-- Whether the reserved fields of a descriptor's body are zero and its fields in range (Tables 13-6 to 13-11, 21-14). -/
def Desc.bodyOk (d : Desc) : Bool :=
  let f := fieldAt d.bytes
  let z := zeroAt d.bytes
  match d.op with
  | 0x00 => z 8 56
  | 0x01 => f 8 6 % 64 == 0 && f 20 6 % 64 == 0 && (List.range 4).all (fun b => rowsOk (f (40 + 3 * b) 3))
      && bits (f 54 1) 7 3 == 0 && bits (f 54 1) 2 1 != 3 && z 55 9
  | 0x02 => decide (f 8 2 < 8192) && z 10 6 && z 24 40
  | 0x03 => decide (f 8 2 < 8192) && z 10 6 && z 24 40
  | 0x04 => f 8 6 % 64 == 0 && f 14 6 % 16 == 0 && decide (1 ≤ f 20 2) && decide (f 20 2 ≤ 4096) && decide (f 22 1 ≤ 1)
      && z 23 1 && z 28 36
  | 0x05 => z 11 53
  | 0x40 => decide (f 8 2 < 1024) && decide (f 10 1 ≤ 1) && decide (4 ≤ f 11 1) && decide (f 11 1 ≤ 16) && f 16 8 % 4096 == 0
      && f 24 8 % 64 == 0 && z 36 28
      && (if f 10 1 = 0 then decide (f 12 2 < 1024) && f 14 1 == 0 && decide (f 15 1 ≤ 7) else f 12 2 == 0 && f 15 1 == 0)
  | 0x41 => decide (f 8 2 < 1024) && decide (f 10 1 ≤ 1) && z 11 53
  | 0x42 => pitchField (f 8 1) && decide (f 9 1 ≤ 1) && z 10 54
  | 0x43 => decide (1 ≤ f 10 2) && decide (f 10 2 ≤ 1024) && decide (f 8 2 + f 10 2 ≤ 1024) && decide (f 12 1 ≤ 1)
      && (f 12 1 == 0 || f 10 2 == 1) && z 13 1 && z 20 44
  | 0x44 => decide (f 8 1 < 64) && decide (f 9 1 ≤ 3) && z 10 6 && f 16 8 % 4096 == 0 && f 24 8 % 4096 == 0
      && decide (4096 ≤ f 24 8) && decide (f 24 8 ≤ 2 ^ 40) && z 32 32
  | 0x45 => decide (f 8 2 < 1024) && z 10 2 && z 16 48
  | 0x46 => pitchField (f 8 1) && decide (f 9 1 ≤ 1) && z 10 54
  | 0x60 => f 8 8 % 4096 == 0 && decide (f 20 1 ≤ 1) && z 21 3 && f 24 8 % 64 == 0 && z 32 32
  | 0x61 => z 9 3 && f 12 4 % 4096 == 0 && decide (1 ≤ f 16 4) && decide (f 16 4 ≤ 65536) && z 20 4 && z 32 32
  | _ => z 9 55

/-- Whether step 1 of R326 passes. -/
def Desc.listed (d : Desc) (x : Queue) : Bool :=
  opAccepted x.admin d.op && bits (fieldAt d.bytes 1 1) 7 2 == 0 && zeroAt d.bytes 2 2 && d.bodyOk

/-- The pitch that a PITCH field names for a function (R336). -/
def State.namedPitch (s : State) (fn v : Nat) : Option Nat := if v = 0xFF then s.servedPitch fn else some v

/-- Whether a descriptor names another pitch than its function's own. -/
def State.namesOther (s : State) (x : Queue) (d : Desc) : Bool :=
  match d.op with
  | 0x42 => s.namedPitch x.fn (fieldAt d.bytes 8 1) != s.servedPitch x.fn
  | 0x46 => s.namedPitch x.fn (fieldAt d.bytes 8 1) != s.servedPitch x.fn
  | 0x45 => !s.queueOf x.fn (fieldAt d.bytes 8 2)
  | _ => false

/-- Whether a descriptor is an installer's: on the PF admin SQ, and not one that acts on pitch 0's own queues (R513). -/
def State.installerDesc (s : State) (x : Queue) (d : Desc) : Bool :=
  x.admin && x.fn == 0 && d.op != 0 && (decide (0x60 ≤ d.op) || s.namesOther x d || (s.servedPitch 0).isNone)

/-- Step 2 of R326: the issuer's rights. While the audit book is stalled, an installer's descriptor has none (R523). -/
def State.lacksRight (s : State) (x : Queue) (d : Desc) : Bool :=
  let f := fieldAt d.bytes
  let served := (s.servedPitch x.fn).isSome
  (s.sec.book.stalled && s.installerDesc x d)
  || (match d.op with
      | 0x00 => false
      | 0x40 => !s.queueOf x.fn (f 8 2)
      | 0x41 => !s.queueOf x.fn (f 8 2)
      | 0x42 => (s.namedPitch x.fn (f 8 1)).isNone || (x.fn != 0 && s.namesOther x d)
      | 0x43 => !(List.range (f 10 2)).all (fun i => s.queueOf x.fn (f 8 2 + i))
      | 0x44 => !served
      | 0x45 => x.fn != 0 && s.namesOther x d
      | 0x46 => (s.namedPitch x.fn (f 8 1)).isNone || (x.fn != 0 && s.namesOther x d)
      | 0x01 => (match s.servedPitch x.fn with
          | some p => !(List.range 16).all (fun n => !bit (f 52 2) n || bit (s.raw 0 (offCsPitch n)) p)
          | none => true)
      | op => if 0x60 ≤ op then x.fn != 0 else !served)

/-- Whether a queue belongs to a pitch that has failed; the PF's admin SQ serves the installer (Table 15-8). -/
def State.onFailed (s : State) (x : Queue) : Bool :=
  !(x.fn == 0 && x.admin) && (match s.servedPitch x.fn with
    | some p => (s.pitch p).state == .failed
    | none => false)

/-- The first failure of a head under R326, or HW_FAULT on a queue of a FAILED pitch. -/
def State.headFails (s : State) (x : Queue) (d : Desc) : Option Status :=
  if s.onFailed x then some .hwFault
  else if !d.listed x then some .badDescriptor
  else if s.lacksRight x d then some .accessDenied
  else none

/-- The audit record of an installer's descriptor (R521). -/
def State.auditDesc (s : State) (q : Nat) (d : Desc) (pitch : Option Nat) (st : Status) : State :=
  s.audit { action := 0x02, role := 2, result := if st = .ok then 0 else 2, func := some 0, pitch := pitch, status := st.code,
            target := q * 2 ^ 32 + d.hseq.toNat, old := 0, new := 0, detail := [] }

/-- A head is examined: the first failure completes it; else, if it has the opcode of the row, the row acts. -/
def State.headRow (s : State) (q op : Nat) (act : State → Queue → Desc → State) : State :=
  match s.headAt q with
  | none => s
  | some (x, d) =>
    match s.headFails x d with
    | some st => ((if s.installerDesc x d then s.auditDesc q d none st else s).endHead q d.hseq st 0).feDone
    | none => if d.op = op then (act s x d).feDone else s

/-- The same for a row that needs its head to start. -/
def State.startRow (s : State) (q op : Nat) (act : State → Queue → Desc → State) : State :=
  s.headRow q op (fun s x d => if s.mayStart q x then act s x d else s)

/-- What a descriptor's read of device memory that fails does (R270, Table 11-7). -/
def State.descRd (s : State) (q : Nat) (h : W32) (p : Nat) (r : Rd) : State :=
  match r with
  | .ok _ => s
  | .denied a m => (if m then s.malformed p a else s).endHead q h .accessDenied 0
  | .poison _ => s.endHead q h .poisonConsumed 0
  | .fatal => s.tablePoison p

/-- DESC_NOP (R325). -/
def execDescNop (q : QueueId) (s : State) : Res := .next (s.startRow q 0x00 (fun s _ d => s.endHead q d.hseq .ok 0))

/-! ### LAUNCH and its placement (R328 to R331) -/

/-- Fields of a LAUNCH descriptor. -/
def Desc.prog (d : Desc) : Nat := fieldAt d.bytes 8 6
def Desc.phdr (d : Desc) : Nat := fieldAt d.bytes 20 6
def Desc.csr (d : Desc) : Nat := fieldAt d.bytes 52 2
def Desc.param (d : Desc) : W64 := (d.ovr.map (·.2.1)).getD (BitVec.ofNat 64 (fieldAt d.bytes 14 6))
def Desc.seed (d : Desc) : W64 := (d.ovr.map (·.2.2)).getD (BitVec.ofNat 64 (fieldAt d.bytes 32 8))

/-- LAUNCH: the launch at the head comes to start and waits for its place (PLACE). A mask that no header may replace is judged at
once. -/
def execLaunch (q : QueueId) (s : State) : Res :=
  .next (s.startRow q 0x01 (fun s x d =>
    match s.pitchOfFn x.fn with
    | none => s
    | some p =>
      if d.blocked then s
      else match (if d.phdr = 0 then s.maskFails p d.mask else none) with
        | some st => s.endHead q d.hseq st 0
        | none =>
          let t := s.now
          s.afterNow.modQueue q (fun x => x.modDesc d.hseq (fun d => { d with blocked := true, placeTime := t }))))

/-- The program header at an image's address (Table 5-4): its ENTRY and CODE_LEN, or what is wrong. -/
def State.progHeader (s : State) (p csr prog : Nat) : Except Rd (Option (Nat × Nat)) :=
  match s.readDev p (some csr) prog 64 with
  | .ok h =>
    let n := fieldAt h 8 4
    let e := fieldAt h 12 4
    if fieldAt h 0 4 = 0x4D4C4849 ∧ fieldAt h 4 2 = 1 ∧ zeroAt h 6 2 = true ∧ 1 ≤ n ∧ n ≤ 1048576 ∧ e < n ∧ zeroAt h 16 48 = true then
      .ok (some (e, n))
    else .ok none
  | r => .error r

/-- Whether a region refuses a launch of a pitch (R290). -/
def State.regionFails (s : State) (p csr : Nat) : Option Status :=
  let named := (List.range 16).filter (fun n => bit csr n)
  if !named.all (fun n => bit (s.raw 0 (offCsPitch n)) p) then some .accessDenied
  else if named.any (fun n => match (s.region n).state with
      | .off => true
      | .sealed => false
      | _ => s.fld 0 (offCsCtl n) 12 8 != p) then some .quarantinedRegion
  else none

/-- The context in which a launch starts on a stall (Table 5-1). -/
def startCtx (l : Nat) (mask : BitVec 48) (param seed : W64) (entry st lo n : Nat) : Ctx :=
  let g : List (Nat × Nat) := [(1, param.toNat), (2, seed.toNat), (3, (maskStalls mask).idxOf st), (4, lo), (5, (maskStalls mask).length), (6, n)]
  { g.foldl (fun c x => c.setG x.1 (BitVec.ofNat 64 x.2)) Ctx.reset with live := true, launch := l, pc := BitVec.ofNat 64 entry }

/-- A launch starts on one stall: the stall is configured if it held none, and its context, splits and channel records start anew
(R77, R84, R101, R122, R193). -/
def State.launchOn (s : State) (l : Nat) (mask : BitVec 48) (param seed : W64) (entry shape st lo n : Nat) : State :=
  let free := s.fe.launches.all (fun e => !(e.2.occupies && (e.2.splitsOn st).isSome))
  s.modStall st (fun x =>
    { x with config := if free then shape else x.config,
             ctx := x.ctx.setIfInBounds lo (startCtx l mask param seed entry st lo n),
             splits := Vector.ofFn (fun (i : Fin 4) =>
               if free then Split.reset
               else if lo ≤ i.val ∧ i.val < lo + n then { Split.reset with slot := x.splits[i].slot } else x.splits[i]),
             chans := x.chans.map (fun c => { c with info := c.info.setIfInBounds lo ChanInfo.zero }) })

/-- A launch placed: it holds its splits, its start is recorded, and its instances start (R329, R238, R406). -/
def State.placeLaunch (s : State) (p q : Nat) (d : Desc) (entry len : Nat) : State :=
  let l := s.fe.nextLaunch
  let src := srcQueue q
  let mask := d.mask
  let stalls := maskStalls mask
  let splits := stalls.map (fun st => (st, ((s.freeSplit st d.shape).map (·.2)).getD (0, 1)))
  let s1 := (stalls.foldl (fun s st => s.wakeStall st) s).startDesc q d.hseq
  let t := s1.stamp src
  let s2 := if s1.dbkTakes p .launch then
      s1.postDbk [p] .launch src 0x02 (leBytes 4 d.hseq.toNat ++ leBytes 6 mask.toNat)
    else s1.afterNow
  let s3 := splits.foldl (fun s y => s.launchOn l mask d.param d.seed entry d.shape y.1 y.2.1 y.2.2) s2
  let x : Launch :=
    { pitch := p, sq := q, hseq := d.hseq, mask := mask, prog := d.prog, codeLen := len, image := [], param := d.param, seed := d.seed,
      rows := d.allot, csr := BitVec.ofNat 16 d.csr, strictOvf := bit d.opts 0, shape := d.shape, splits := splits, running := stalls,
      sweeping := [], start := t, ended := none, tillSat := false, nonfinite := false, faulted := false, retained := false,
      progress := 0, digest := 0 }
  let s4 := { s3 with fe := { s3.fe with launches := Tab.put s3.fe.launches l x, nextLaunch := l + 1 } }
  let s5 := if s4.compares then s4.pairCopy (.launch entry x) else s4
  (s5.modQueue q (fun x => x.modDesc d.hseq (fun d => { d with launch := some l }))).modPitch p (fun x => { x with psbDirty := true })

/-- A launch whose mask has room, once its parameter header is read: the last checks, then its place (R329). -/
def State.tryPlace (s : State) (p q : Nat) (d : Desc) : State :=
  match s.maskFails p d.mask with
  | some st => s.endHead q d.hseq st 0
  | none =>
    if !s.placeable d.mask d.shape d.allot || !s.firstToPlace p q d then s
    else match s.progHeader p d.csr d.prog with
      | .error r => s.descRd q d.hseq p r
      | .ok none => s.endHead q d.hseq .badProgram 0
      | .ok (some (entry, len)) =>
        match s.regionFails p d.csr with
        | some st => s.endHead q d.hseq st 0
        | none => s.placeLaunch p q d entry len

/-- The parameter header of a launch, read once immediately before it is placed (R330, R331). -/
def State.readPhdr (s : State) (p q : Nat) (d : Desc) : State :=
  match s.readDev p (some d.csr) d.phdr 64 with
  | .ok h =>
    let fl := fieldAt h 0 1
    if bits fl 7 4 ≠ 0 || !zeroAt h 1 7 || !zeroAt h 14 2 || !zeroAt h 30 34 then s.endHead q d.hseq .badDescriptor 0
    else if bit fl 0 then (s.startDesc q d.hseq).finishDesc q d.hseq .ok 4 0 none
    else
      let o := (if bit fl 3 then BitVec.ofNat 48 (fieldAt h 24 6) else d.mask,
                if bit fl 1 then BitVec.ofNat 64 (fieldAt h 8 6) else d.param,
                if bit fl 2 then BitVec.ofNat 64 (fieldAt h 16 8) else d.seed)
      (s.modQueue q (fun x => x.modDesc d.hseq (fun d => { d with ovr := some o }))).tryPlace p q { d with ovr := some o }
  | r => s.descRd q d.hseq p r

/-- LAUNCH_PLACE: the launch in PLACE at the head of an SQ is placed when its stalls, splits and rows are free and no launch ranked
above it waits for one of its stalls. -/
def execLaunchPlace (q : QueueId) (s : State) : Res :=
  .next (s.startRow q 0x01 (fun s x d =>
    match s.pitchOfFn x.fn with
    | none => s
    | some p =>
      if !d.blocked then s
      else if d.phdr = 0 || d.ovr.isSome then s.tryPlace p q d
      else if (s.maskFails p d.mask).isSome || (s.placeable d.mask d.shape d.allot && s.firstToPlace p q d) then s.readPhdr p q d
      else s))

/-! ### Fences (R351 to R355, R363 to R365) -/

/-- What is wrong with the fence of a WAIT or a SIGNAL of an SQ (R351). -/
def State.fenceFails (s : State) (p q : Nat) (d : Desc) (sig : Bool) : Option Status :=
  let r := s.fenceRange p
  if d.fence < r.1 ∨ r.1 + r.2 ≤ d.fence then some .accessDenied
  else match s.fence? d.fence with
    | none => some .badDescriptor
    | some f => if sig && f.owner != q then some .accessDenied else none

/-- FENCE_CYCLE records for the members of a cycle, in order (R365). -/
def State.postCycle (s : State) (p : Nat) (members : List Nat) : State :=
  let c := (s.pitch p).cycleNo
  let s1 := members.zipIdx.foldl (fun (s : State) (m : Nat × Nat) =>
    let d := (s.queue? m.1).bind (fun x => x.head?)
    s.postEvent [p] (srcPitch p) 0x20
      (leBytes 4 c.toNat ++ leBytes 2 members.length ++ leBytes 2 m.2 ++ leBytes 2 m.1 ++ leBytes 2 ((d.map Desc.fence).getD 0)
        ++ leBytes 4 ((d.map (fun d => d.value.toNat)).getD 0))) s
  s1.modPitch p (fun x => { x with cycleNo := c + 1 })

/-- A WAIT becomes a blocked head: the edge from its SQ is added, and a cycle that it closes is posted (R363, R364). -/
def State.blockWait (s : State) (p q : Nat) (d : Desc) : State :=
  let s1 := s.modQueue q (fun x => x.modDesc d.hseq (fun d => { d with blocked := true }))
  let chain := s1.waitChain s1.fe.queues.length q
  if chain.contains q then s1.postCycle p (q :: chain.takeWhile (· != q)) else s1

/-- WAIT: the head starts and completes when its fence has reached VALUE; until then it is blocked (R352). -/
def execWait (q : QueueId) (s : State) : Res :=
  .next (s.headRow q 0x02 (fun s x d =>
    match s.pitchOfFn x.fn with
    | none => s
    | some p =>
      match s.fenceFails p q d false, s.fence? d.fence with
      | some st, _ => s.endHead q d.hseq st 0
      | none, some f =>
        if d.value ≤ f.value then (if s.mayStart q x then s.endHead q d.hseq .ok 0 else s)
        else if d.blocked then s
        else s.blockWait p q d
      | none, none => s))

/-- SIGNAL: once every earlier descriptor has completed, the value is compared; a higher one is written to the fence word (R353). -/
def execSignal (q : QueueId) (s : State) : Res :=
  .next (s.headRow q 0x03 (fun s x d =>
    match s.pitchOfFn x.fn with
    | none => s
    | some p =>
      match s.fenceFails p q d true, s.fence? d.fence with
      | some st, _ => s.endHead q d.hseq st 0
      | none, some f =>
        if !s.mayStart q x then s
        else if d.value < f.value then s.endHead q d.hseq .badDescriptor 0
        else if d.value = f.value then s.endHead q d.hseq .ok 0
        else (match s.fenceWordFails p d.fence with
          | some st => (s.fenceRefused p d.fence st).endHead q d.hseq st 0
          | none =>
            let s1 := s.startDesc q d.hseq
            { s1 with fe := { s1.fe with fences := Tab.put s1.fe.fences d.fence { f with writing := some (q.val, d.hseq, d.value) } } })
      | none, none => s))

/-- SIGNAL_WRITE_VISIBLE: the write of the SIGNAL in progress on a fence is visible. -/
def execSignalWriteVisible (n : FenceId) (s : State) : Res :=
  .next (match s.fence? n with
    | some f =>
      (match f.writing with
       | none => s
       | some w =>
         if !s.leads then (s.signalDone n).feDone
         else if !s.pair.told.contains n.val then
           (s.modPair (fun p => { p with told := n :: p.told })).pairTell [.fence n (some { f with value := w.2.2, writing := none })]
         else if s.pairDrained then ((s.modPair (fun p => { p with told := p.told.filter (· != n.val) })).signalDone n).feDone
         else s)
    | none => s)

/-! ### PAGE_EDIT and TABLE_RELEASE (R230, R234, R255) -/

/-- One edit record (Table 9-6). -/
structure EditRec where
  index : Nat
  inc : Bool
  dec : Bool
  keep : Bool
  new : Nat

/-- The edit record in 16 bytes. -/
def EditRec.parse (b : List Byte) : EditRec :=
  { index := fieldAt b 0 4, inc := bit (fieldAt b 4 1) 0, dec := bit (fieldAt b 4 1) 1, keep := bit (fieldAt b 4 1) 2,
    new := fieldAt b 8 8 }

/-- Whether an edit record passes step 1 of R230. -/
def editOk (cap : Nat) (b : List Byte) : Bool :=
  let r := EditRec.parse b
  decide (r.index < cap) && bits (fieldAt b 4 1) 7 3 == 0 && zeroAt b 5 3 && (!r.keep || (r.new == 0 && !r.inc))

/-- The progress of a PAGE_EDIT: the state, how many count changes were skipped, and what has stopped it. -/
structure Edit where
  s : State
  skipped : Nat
  stop : Option Rd

/-- A step of a PAGE_EDIT, unless something has stopped it. -/
def Edit.run (e : Edit) (f : Edit → Edit) : Edit := if e.stop.isSome then e else f e

/-- A write of a PAGE_EDIT to the list, which stops at a page that may not be written or a poisoned line. -/
def Edit.put (e : Edit) (p a : Nat) (bs : List Byte) : Edit :=
  match e.s.checkWrite p none .write a bs.length, e.s.readDev p none a bs.length with
  | .ok _, .ok _ => { e with s := e.s.writeDev p none .write none a bs false }
  | .ok _, r => { e with stop := some r }
  | r, _ => { e with stop := some r }

/-- A change of the count of one frame by a memory-side add: skipped where the frame is out of range or the count would fall below
zero, and recorded (R234). A count that falls to zero writes a reclaim record (R236). -/
def Edit.count (p : Nat) (scale : Bool) (frame : Nat) (delta : Int) (e : Edit) : Edit :=
  let s := e.s
  let n := s.frames p
  let name := if scale then frame + 2 ^ 63 else frame
  let skip := fun (unit : Nat) => { e with s := s.postError p (srcMc unit) .badDescriptor 4 name, skipped := e.skipped + 1 }
  if !s.fctActive p || decide (n ≤ frame) then skip ((s.unitsOf p).headD 0)
  else
    let i := if scale then n + frame else frame
    let a := (s.fctArea p).1 + 4 * i
    match s.readDev p none a 4 with
    | .ok bs =>
      let old := signed 32 (leNat bs)
      let new := signed 32 (lowBits 32 (old + delta))
      let unit := (s.countAt p i).2
      if new < 0 then skip unit
      else
        let s1 := s.writeDev p none .write none a (leBytes 4 (lowBits 32 new)) false
        let s2 := (match s.translate p none .read a with
          | .ok pl => s1.bufferLine pl.unit pl.off
          | _ => s1)
        { e with s := if old ≠ 0 ∧ new = 0 then s2.reclaim p unit (b2n scale) frame else s2 }
    | r => { e with stop := some r }

/-- Both counts of an entry's frames changed. -/
def Edit.counts (p entry : Nat) (delta : Int) (e : Edit) : Edit :=
  (e.run (Edit.count p false (bits entry 31 0) delta)).run (Edit.count p true (bits entry 55 32) delta)

/-- Steps 2 to 6 of R230. -/
def State.pageEdit (s : State) (p lst : Nat) (h : List Byte) (rs : List EditRec) (valid : Option Nat) : Edit :=
  let at' := fun (i : Nat) => lst + 64 + 8 * i
  let e2 := (rs.filter (·.inc)).foldl (fun (e : Edit) r => e.counts p r.new 1) ⟨s, 0, none⟩
  let e3 : Edit × List Nat := rs.foldl (fun (a : Edit × List Nat) r =>
    if a.1.stop.isSome then a
    else match a.1.s.readDev p none (at' r.index) 8 with
      | .ok bs => ((if r.keep then a.1 else a.1.put p (at' r.index) (leBytes 8 r.new)), a.2 ++ [leNat bs])
      | x => ({ a.1 with stop := some x }, a.2)) (e2, [])
  let e4 := (match valid with
    | some v => e3.1.run (fun e => e.put p (lst + 8) (leBytes 4 v))
    | none => e3.1)
  let change := rs.any (fun r => !r.keep && decide (r.index < ceilDiv (plValid h) (plP h))) || decide (valid.getD (plValid h) < plValid h)
  let e5 := if change then e4.run (fun e => match e.s.readDev p none (lst + 4) 4 with
      | .ok bs => e.put p (lst + 4) (leBytes 4 ((leNat bs + 1) % 2 ^ 32))
      | x => { e with stop := some x }) else e4
  (rs.zip e3.2).foldl (fun (e : Edit) y => if y.1.dec then e.counts p y.2 (-1) else e) e5

/-- PAGE_EDIT: the list header and every record are checked, then the edit is carried out in order. -/
def execPageEdit (q : QueueId) (s : State) : Res :=
  .next (s.startRow q 0x04 (fun s x d =>
    match s.pitchOfFn x.fn with
    | none => s
    | some p =>
      let lst := fieldAt d.bytes 8 6
      let n := fieldAt d.bytes 20 2
      let setValid := bit (fieldAt d.bytes 22 1) 0
      let v := fieldAt d.bytes 24 4
      match s.readDev p none lst 64 with
      | .ok h =>
        if !plOk h then s.endHead q d.hseq .badDescriptor 0
        else (match s.readDev p none (fieldAt d.bytes 14 6) (16 * n) with
          | .ok bs =>
            let raw := (List.range n).map (fun i => (bs.drop (16 * i)).take 16)
            if !raw.all (editOk (plCap h)) || (setValid && (decide (2 ^ 24 < v) || decide (plCap h < ceilDiv v (plP h)))) then
              s.endHead q d.hseq .badDescriptor 0
            else
              let e := s.pageEdit p lst h (raw.map EditRec.parse) (if setValid then some v else none)
              let info := BitVec.ofNat 64 e.skipped
              (match e.stop with
               | some (.denied a m) => (if m then e.s.malformed p a else e.s).endHead q d.hseq .accessDenied info
               | some .fatal => e.s.tablePoison p
               | some (.poison _) => e.s.endHead q d.hseq .poisonConsumed info
               | _ => e.s.endHead q d.hseq (if e.skipped = 0 then .ok else .badDescriptor) info)
          | r => s.descRd q d.hseq p r)
      | r => s.descRd q d.hseq p r))

/-- TABLE_RELEASE: OK where a READY slot holds (ID, GEN), else TABLE_MISSING. -/
def execTableRelease (q : QueueId) (s : State) : Res :=
  .next (s.startRow q 0x05 (fun s x d =>
    match s.pitchOfFn x.fn with
    | none => s
    | some p =>
      let r := s.slotRelease p (fieldAt d.bytes 8 2) (fieldAt d.bytes 10 1)
      r.1.endHead q d.hseq (if r.2 then .ok else .tableMissing) 0))

/-! ### Queues (R334, R336, R344, R546) -/

/-- A queue created, with its first status block (R546). -/
def State.makeQueue (s : State) (q : Nat) (x : Queue) (first : W32) : State :=
  let y := { x with newest := first - 1, started := first - 1, doneLow := first - 1, consumed := first - 1 }
  ({ s with fe := { s.fe with queues := Tab.put s.fe.queues q y } }).writeBlock q

/-- QUEUE_CREATE. -/
def execQueueCreate (q : QueueId) (s : State) : Res :=
  .next (s.startRow q 0x40 (fun s x d =>
    let f := fieldAt d.bytes
    let n := f 8 2
    let isCq := f 10 1 == 1
    let ok := (s.queue? n).isNone
      && (if isCq then f 14 1 == 0xFF || decide (f 14 1 < s.tableSize x.fn)
          else match s.queue? (f 12 2) with
            | some c => c.isCq && c.fn == x.fn
            | none => false)
    if !ok then s.endHead q d.hseq .badDescriptor 0
    else
      let y := { Queue.blank with isCq := isCq, fn := x.fn, log2 := f 11 1, base := BitVec.ofNat 64 (f 16 8),
                                  status := BitVec.ofNat 64 (f 24 8), cq := f 12 2, vector := if isCq then f 14 1 else 0xFF,
                                  prio := f 15 1 }
      (s.makeQueue n y (BitVec.ofNat 32 (f 32 4))).endHead q d.hseq .ok 0))

/-- A fetched descriptor ended with KILLED, and the INFO of the KILL: 0 where it was ended, 1 where it had completed or will by itself
(R336, R355). -/
def State.killDesc (s : State) (q : Nat) (h : W32) : State × Nat :=
  match (s.queue? q).bind (fun x => x.desc? h) with
  | none => (s, 1)
  | some d =>
    let writing := s.fe.fences.any (fun e => match e.2.writing with
      | some w => w.1 == q && w.2.1 == h
      | none => false)
    if d.finished || writing then (s, 1)
    else match d.launch with
      | some l => (match s.launch? l with
        | some x =>
          -- until its record is generated, a launch that has ended otherwise ends with KILLED all the same (R453)
          if x.ended.isSome then ((s.pairCopy (.kill q h)).modLaunch l (fun x => { x with ended := some .killed }), 0)
          else ((s.pairCopy (.kill q h)).killLaunch l, 0)
        | none => (s, 1))
      | none =>
        let s1 := { s with fe := { s.fe with queues := s.fe.queues.map (fun (e : Nat × Queue) =>
          if e.2.closing = some (q, h) then (e.1, { e.2 with closing := none }) else e) } }
        (s1.finishDesc q h .killed 0 0 none, 0)

/-- Whether a queue is one of its function's admin pair. -/
def State.adminPair (s : State) (q : Nat) (x : Queue) : Bool :=
  x.admin || s.fe.queues.any (fun e => e.2.admin && e.2.fn == x.fn && e.2.cq == q)

/-- QUEUE_DELETE: the queue stops fetching; the descriptor completes when every fetched one has (R336, R350). -/
def execQueueDelete (q : QueueId) (s : State) : Res :=
  .next (s.startRow q 0x41 (fun s _ d =>
    let n := fieldAt d.bytes 8 2
    let kill := bit (fieldAt d.bytes 10 1) 0
    match s.queue? n with
    | none => s.endHead q d.hseq .badDescriptor 0
    | some y =>
      let bound := y.isCq && s.fe.queues.any (fun e => !e.2.isCq && e.2.cq == n)
      if s.adminPair n y || bound || s.fe.fences.any (fun e => e.2.owner == n) || y.closing.isSome then
        s.endHead q d.hseq .badDescriptor 0
      else
        let s1 := (s.startDesc q d.hseq).modQueue n (fun y => { y with toFetch := 0, closing := some (q.val, d.hseq) })
        y.descs.foldl (fun s e => if kill || (y.state == .stopped && !e.started) then (s.killDesc n e.hseq).1 else s) s1))

/-- RESUME: HELD SQs return to ACTIVE, and numbers that name no SQ are passed over (log 21); REBASE sets the next slot and the expected
HSEQ (R344). -/
def execResume (q : QueueId) (s : State) : Res :=
  .next (s.startRow q 0x43 (fun s _ d =>
    let f := fieldAt d.bytes
    let qs := (List.range (f 10 2)).map (f 8 2 + ·)
    let rebase := bit (f 12 1) 0
    let seq : W32 := BitVec.ofNat 32 (f 16 4)
    let good := fun (n : Nat) => match s.queue? n with
      | some y => !y.isCq && decide (f 14 2 < 2 ^ y.log2) && decide (1 ≤ (seq - y.newest).toNat)
          && decide ((seq - y.newest).toNat < 2 ^ 31)
      | none => false
    let isSq := fun (n : Nat) => ((s.queue? n).map (fun y => !y.isCq)).getD false
    if rebase && !qs.all good then s.endHead q d.hseq .badDescriptor 0
    else
      ((qs.filter isSq).foldl (fun s n => s.modQueue n (fun y =>
        let y1 := { y with state := if y.state = .held then .active else y.state }
        if !rebase then y1
        else
          let z := { y1 with newest := seq - 1, nextIdx := f 14 2, toFetch := 0,
                             jumps := if y.newest = seq - 1 then y.jumps else y.jumps ++ [(y.newest.toNat, (seq - 1).toNat)] }
          let r := advanceLow z.jumps (z.doneSet.length + z.jumps.length + 1) z.doneLow z.doneSet
          { z with doneLow := r.1, doneSet := r.2 })) s).endHead q d.hseq .ok 0))

/-- RESYNC: with HOLD, every ACTIVE SQ of the pitch is HELD, but for the one that runs the RESYNC, whose driver goes on to RESUME the
others (R344's example; log 95); the doorbell entries are read again, and every status block is written (R344). -/
def execResync (q : QueueId) (entries : List (Nat × W64)) (s : State) : Res :=
  .next (s.startRow q 0x42 (fun s x d =>
    match s.namedPitch x.fn (fieldAt d.bytes 8 1) with
    | none => s
    | some p =>
      let st : Status := if (s.pitch p).state = .off then .badDescriptor else .ok
      if (s.pitch p).state = .resetting then s
      else
        let s0 := if s.namesOther x d then s.auditDesc q d (some p) st else s
        if st ≠ .ok then s0.endHead q d.hseq st 0
        else
          let qs := s0.pitchQueues p
          let s1 := if bit (fieldAt d.bytes 9 1) 0 then
              qs.foldl (fun s n => match s.queue? n with
                | some y => if !y.isCq && n != q.val && y.state == .active then s.modQueue n (fun y => { y with state := .held, toFetch := 0 }) else s
                | none => s) (s0.startDesc q d.hseq)
            else s0.startDesc q d.hseq
          let s2 := (entries.filter (fun e => qs.contains e.1)).foldl (fun s e => s.scanEntry e.1 e.2) s1
          let s3 := (qs.foldl (fun s n => s.writeBlock n) s2).writePsb p
          s3.finishDesc q d.hseq .ok 0 (BitVec.ofNat 64 (qs.length + b2n (s2.psbOn p))) none))

/-! ### Windows, KILL and PITCH_RESET (R335, R336, R381) -/

/-- HOSTWIN: a host window of the function's pitch is set, or removed where PERM is 0. -/
def execHostwin (q : QueueId) (s : State) : Res :=
  .next (s.startRow q 0x44 (fun s x d =>
    match s.pitchOfFn x.fn with
    | none => s
    | some p =>
      let f := fieldAt d.bytes
      let k := p * 64 + f 8 1
      let wins := if f 9 1 = 0 then Tab.del s.fe.wins k
        else Tab.put s.fe.wins k (BitVec.ofNat 64 (f 16 8), BitVec.ofNat 64 (f 24 8), f 9 1)
      (s.modFe (fun e => { e with wins := wins })).endHead q d.hseq .ok 0))

/-- KILL: the descriptor (SQ, HSEQ) ends; INFO says whether it had completed, or had not been fetched. -/
def execKill (q : QueueId) (s : State) : Res :=
  .next (s.startRow q 0x45 (fun s x d =>
    let n := fieldAt d.bytes 8 2
    let h : W32 := BitVec.ofNat 32 (fieldAt d.bytes 12 4)
    match s.queue? n with
    | none => s.endHead q d.hseq .badDescriptor 0
    | some y =>
      let p := s.pitchOfFn y.fn
      let other := s.namesOther x d
      if other && (match p with
          | some p => (s.pitch p).state == .resetting
          | none => false) then s
      else
        let st : Status := if y.isCq then .badDescriptor else .ok
        let s0 := (if other then s.auditDesc q d p st else s).startDesc q d.hseq
        if y.isCq then s0.finishDesc q d.hseq st 0 0 none
        else if (y.newest - h).toNat < 2 ^ 31 then
          let r := s0.killDesc n h
          r.1.finishDesc q d.hseq .ok 0 (BitVec.ofNat 64 r.2) none
        else s0.finishDesc q d.hseq .ok 0 2 none))

/-- PITCH_RESET: the reset is recorded and starts, or the descriptor joins one that runs; it completes at step 9 (R381, R382). -/
def execPitchReset (q : QueueId) (s : State) : Res :=
  .next (s.startRow q 0x46 (fun s x d =>
    match s.namedPitch x.fn (fieldAt d.bytes 8 1) with
    | none => s
    | some p =>
      let scrub := fieldAt d.bytes 9 1 == 1
      let other := s.namesOther x d
      let st : Status := (match (s.pitch p).state with
        | .off => .badDescriptor
        | .failed => .hwFault
        | _ => .ok)
      let s0 := if other then s.auditDesc q d (some p) st
        else s.auditReset x.fn p (q.val * 2 ^ 32 + d.hseq.toNat) 1 scrub
      if st ≠ .ok then s0.endHead q d.hseq st 0
      else ((s0.startDesc q d.hseq).modPitch p (fun y => { y with joined := y.joined ++ [(q.val, d.hseq)] })).resetRequest p
        (if other then 2 else 1) scrub false))

end Sys2Proof.Machine
end

