-- ==== Sys2Proof/Machine/Send.lean ====
section
/-! DEFINITION. Messages that Porter channels send and buffers that they post: mailboxes, credits, window requests, and the steps of
collectives (spec 17 R416 to R421, R430 to R435; 16 R402). -/

namespace Sys2Proof.Machine

/-! ### Mailboxes and credits (R416, R417) -/

/-- ACTIVE of an outbound and an inbound mailbox of a pitch. -/
def State.outboxActive (s : State) (p n : Nat) : Bool := s.pfld p (offObox n) 1 1 == 1
def State.inboxActive (s : State) (p m : Nat) : Bool := s.pfld p (offIbox m) 1 1 == 1

/-- Destination of an outbound mailbox: chip, pitch, mailbox. -/
def State.outboxDest (s : State) (p n : Nat) : Nat × Nat × Nat :=
  (s.pfld p (offObox n) 19 8, s.pfld p (offObox n) 28 24, s.pfld p (offObox n) 39 32)

/-- The active outbound mailbox of a pitch for a destination. -/
def State.outboxFor (s : State) (p : Nat) (dest : Nat × Nat × Nat) : Option Nat :=
  (List.range 256).find? (fun n => s.outboxActive p n && s.outboxDest p n == dest)

/-- The credits held at an outbound mailbox, oldest first. -/
def State.creditsOf (s : State) (p n : Nat) : List Nat := Tab.get [] s.net.credits (p * 256 + n)

/-- The state with a mailbox's credits changed. -/
def State.setCredits (s : State) (p n : Nat) (l : List Nat) : State :=
  s.modNet (fun x => { x with credits := Tab.set [] x.credits (p * 256 + n) l })

/-- The buffers posted at an inbound mailbox, in posting order. -/
def State.postedAt (s : State) (p m : Nat) : List Posted := Tab.get [] s.net.posted (p * 256 + m)

/-- The state with a mailbox's posted buffers changed. -/
def State.setPosted (s : State) (p m : Nat) (l : List Posted) : State :=
  s.modNet (fun x => { x with posted := Tab.set [] x.posted (p * 256 + m) l })

/-- A transfer of a channel by its serial. -/
def State.xferAt (s : State) (st ch serial : Nat) : Option Xfer := (s.chanOf st ch).xfers.find? (fun x => x.serial == serial)

/-- Whether a posted buffer is still there to be filled: its launch's end withdraws it (R453). -/
def State.livePost (s : State) (b : Posted) : Bool :=
  match s.xferAt b.stall b.chan b.xfer with
  | some x => !x.written
  | none => false

/-! ### The plan of a collective (R430, R432) -/

/-- The product of a list. -/
def prodOf (l : List Nat) : Nat := l.foldl (· * ·) 1

/-- The ring sizes in use. -/
def Coll.rings (c : Coll) : List Nat := (List.range c.ndim).map c.size

/-- The members of a collective. -/
def Coll.count (c : Coll) : Nat := prodOf c.rings

/-- The steps in order: ring, whether it reduces, and its place among the ring's steps of that sort. -/
def Coll.plan (c : Coll) : List (Nat × Bool × Nat) :=
  let red := fun (d : Nat) => (List.range (c.size d - 1)).map (fun i => (d, true, i))
  let gat := fun (d : Nat) => (List.range (c.size d - 1)).map (fun i => (d, false, i))
  match c.kind with
  | 0 => red 0 ++ gat 0
  | 1 => (List.range c.ndim).flatMap red ++ (List.range c.ndim).reverse.flatMap gat
  | 2 => gat 0
  | _ => red 0

/-- Steps that the program sends: every reduce step, and the first gather step of a ring (R432, R434). -/
def Coll.sends (c : Coll) : List Nat :=
  ((c.plan.zipIdx).filter (fun x => x.1.2.1 || x.1.2.2 == 0)).map (·.2)

/-- Bytes of chunk `k` of ring `d`: the last chunk of a tensor may be shorter (R433). -/
def Coll.chunkBytes (c : Coll) (d k : Nat) : Nat :=
  if c.kind = 1 then c.chunk * prodOf ((List.range c.ndim).filter (fun j => d < j) |>.map c.size)
  else min c.chunk (c.bytes - k * c.chunk)

/-- The chunk that a member sends and the one that it receives at a step (R432). -/
def Coll.chunkOf (c : Coll) (step : Nat) (recv : Bool) : Nat × Nat :=
  match c.plan[step]? with
  | none => (0, 0)
  | some (d, reduce, i) =>
    let n := max 1 (c.size d)
    let r := c.coord d
    (d, if reduce then (if recv then (r + 2 * n - i - 1) % n else (r + n - i) % n)
        else if recv then (r + n - i) % n else (r + n + 1 - i) % n)

/-- Bytes of a step's message at this member. -/
def Coll.stepBytes (c : Coll) (step : Nat) (recv : Bool) : Nat :=
  let k := c.chunkOf step recv
  c.chunkBytes k.1 k.2

/-- The ring of a step. -/
def Coll.ringOf (c : Coll) (step : Nat) : Nat := ((c.plan[step]?).map (·.1)).getD 0

/-- Where a step's message goes: the successor's entry, on its mailbox for the ring. -/
def Coll.destOf (c : Coll) (step : Nat) : Nat × Nat × Nat :=
  let d := c.ringOf step
  let m := c.member (c.succ d)
  (m.1, m.2.1, (m.2.2 + d) % 256)

/-- The mailbox on which a member receives in a ring. -/
def Coll.inboxOf (c : Coll) (step : Nat) : Nat := ((c.member c.rank).2.2 + c.ringOf step) % 256

/-- Whether a schedule header keeps Table 17-14. -/
def collHeaderOk (h : List Byte) : Bool :=
  let f := fieldAt h
  let kind := f 8 1
  let nd := f 9 1
  let sizes := (List.range 3).map (fun i => f (10 + 2 * i) 2)
  let used := sizes.take nd
  let n := prodOf used
  f 0 4 == 0x4C4C4F43 && f 4 2 != 0 && f 6 2 != 0 && decide (kind ≤ 3) && decide (1 ≤ nd) && decide (nd ≤ 3)
    && (kind == 1 || nd == 1) && used.all (fun z => decide (2 ≤ z) && decide (z ≤ 1024)) && (sizes.drop nd).all (· == 0)
    && decide (f 16 2 < n) && zeroAt h 18 2 && f 20 4 % 64 == 0 && f 20 4 != 0
    && decide (f 24 4 ≤ n * f 20 4) && decide ((n - 1) * f 20 4 < f 24 4) && zeroAt h 28 36

/-- An open collective of a pitch by its record. -/
def State.collAt (s : State) (p addr : Nat) : Option Coll := s.net.colls.find? (fun c => c.pitch == p && c.addr == addr)

/-- The state with an open collective changed. -/
def State.modColl (s : State) (k : Nat) (f : Coll → Coll) : State :=
  s.modNet (fun n => { n with colls := n.colls.map (fun c => if c.serial = k then f c else c) })

/-- What opening a collective gives. -/
inductive Opened where
  | wait
  | err (e : XErr)
  | got (s : State) (c : Coll)

/-- The collective of a record: open already, or opened now (R431). -/
def State.openColl (s : State) (p : Nat) (csr : Option Nat) (addr : Nat) : Opened :=
  match s.collAt p addr with
  | some c => .got s c
  | none =>
    if 16 ≤ (s.net.colls.filter (fun c => c.pitch == p)).length then .wait
    else match s.readDev p csr addr 64 with
      | .ok h =>
        if !collHeaderOk h then .err (.bad .badDescriptor addr)
        else
          let n := prodOf ((List.range (fieldAt h 9 1)).map (fun i => fieldAt h (10 + 2 * i) 2))
          (match s.readDev p csr (addr + 64) (4 * n) with
           | .ok ms =>
             let c : Coll := { serial := s.serial, pitch := p, addr := addr, header := h, members := chunksOf 4 ms, nextSend := 0,
                               nextRecv := 0, done := 0, launches := [], slowed := false }
             .got ((s.tickSerial.modNet (fun x => { x with colls := x.colls ++ [c] })).slowOpened c) c
           | r => match r.err with
             | some e => .err e
             | none => .wait)
      | r => match r.err with
        | some e => .err e
        | none => .wait

/-! ### Sending (R402, R418) -/

/-- The SENT record of a message, or of its refusal (Table 16-11). -/
def State.sentRec (s : State) (p st ch : Nat) (dest : Nat × Nat × Nat) (status : Status) (bytes : Nat) : State :=
  if s.dbkTakes p .link then
    s.postDbk [p] .link (srcChan st ch) 0x06
      (leBytes 2 dest.1 ++ leBytes 1 dest.2.1 ++ leBytes 1 0 ++ leBytes 2 dest.2.2 ++ leBytes 2 status.code ++ leBytes 4 bytes)
  else s.afterStamp (srcChan st ch)

/-- A message of a channel sent on its way: its header carries the time, source and sequence of its SENT record. Answers the
message's id. -/
def State.sendMsg (s : State) (p st ch : Nat) (dest : Nat × Nat × Nat) (mtype job coll step : Nat) (arg : W64)
    (data : List Byte) : State × Nat :=
  let src := srcChan st ch
  let id := s.net.nextMsg
  let h : Head := { dst := dest.1, dpitch := dest.2.1, mbox := dest.2.2, spitch := p, mtype := mtype, len := data.length,
                    time := s.stamp src, src := src, seq := s.seqOf src, job := job, coll := coll, step := step, msgid := id,
                    arg := arg }
  let bs := s.header h ++ data
  let s1 := (s.sentRec p st ch dest .ok data.length).modNet (fun n => { n with nextMsg := n.nextMsg + 1 })
  (s1.forward none 0 bs, id % 2 ^ 32)

/-- Whether a destination can be reached from this chip. -/
def State.reachable (s : State) (dst : Nat) : Bool := dst == s.chipId || (s.routePort none dst).isSome

/-! ### Beginning a transfer (R417, R418, R421, R431, R433) -/

/-- COLL and WIN of a transfer. -/
def Xfer.isColl (x : Xfer) : Bool := x.opts.getLsbD 15
def Xfer.isWin (x : Xfer) : Bool := x.opts.getLsbD 16

/-- The tensor that a send reads or a post writes. -/
def Xfer.tensorOf (x : Xfer) : BitVec 512 := if x.kind = .send then x.s1 else x.d

/-- A transfer that begins under tokens that cover its rows: it waits for a hand-over that is pending (R145). -/
def State.begins (s : State) (st ch : Nat) (x : Xfer) (go : Option State) : Option State :=
  match s.cover st x.ctx (.port ch) x.rows with
  | .held => go
  | .pending => none
  | .missing => some (s.xferErr st ch x (.bad .badProgram 0))

/-- A PSEND of a secondary has begun: it completes when the primary's does, or now where that has completed (R489). -/
def State.sendsBeside (s : State) (st ch : Nat) (x : Xfer) (len : Nat) : State :=
  let s1 := s.modXfer st ch x.serial (fun y => { y with begun := true, wrote := len })
  match s1.pair.landings.find? (fun e => e.1 == st && e.2.1 == ch) with
  | none => s1
  | some e =>
    let s2 := s1.modPair (fun p => { p with landings := p.landings.erase e })
    if e.2.2 = Status.ok.code then s2.modXfer st ch x.serial (fun y => { y with written := true })
    else s2.xferErr st ch x (.bad ((Status.ofCode e.2.2).getD .hwFault) 0)

/-- Whether a stall has a reservation left for the answers to one more window request (R306, R421). -/
def State.winRoom (s : State) (st : Nat) : Bool :=
  decide ((s.net.sent.filter (fun e => e.win && e.stall == st)).length ≤ Config.replyPlaces st)

/-- A window request sent: a WREQ head without data (R421). -/
def State.beginWin (s : State) (p st ch : Nat) (x : Xfer) (d : TDesc) : State :=
  let g := x.gval.toNat
  let chip := bits g 11 0
  let arg := Config.wreqArg (bits g 14 12) (bits g 27 16) (d.dataBytes true) (x.kind == .send)
  if s.shadow then
    if x.kind = .send then s.sendsBeside st ch x (d.dataBytes true) else s.modXfer st ch x.serial (fun y => { y with begun := true })
  else if !s.reachable chip then (s.sentRec p st ch (chip, 0, 0) .peerUnreachable (d.dataBytes true)).xferErr st ch x (.bad .peerUnreachable 0)
  else
    let r := s.sendMsg p st ch (chip, 0, 0) mtWreq 0 0 0 arg []
    (r.1.modNet (fun n => { n with sent := n.sent ++
        [{ msgid := r.2, stall := st, chan := ch, xfer := x.serial, pitch := p, credit := none, dst := chip, win := true, granted := false, coll := none,
           time := s.stamp (srcChan st ch), seq := s.seqOf (srcChan st ch) }] })).modXfer
      st ch x.serial (fun y => { y with begun := true, msg := r.2 })

/-- A message sent from a source through an outbound mailbox, which holds a credit for it; none while it waits for one. A secondary sends
nothing: the message enters its digest, and the PSEND completes (R489). -/
def State.beginSend (s : State) (p st ch n : Nat) (x : Xfer) (d : TDesc) (job coll step : Nat) : Option State :=
  let dest := s.outboxDest p n
  let len := d.dataBytes true
  match (if s.shadow then [len] else s.creditsOf p n) with
  | [] => none
  | c :: rest =>
    if c < len then some ((s.sentRec p st ch dest .badDescriptor len).xferErr st ch x (.bad .badDescriptor 0))
    else if !s.shadow && !s.reachable dest.1 then
      some ((s.sentRec p st ch dest .peerUnreachable len).xferErr st ch x (.bad .peerUnreachable 0))
    else s.begins st ch x (match s.xferFetch st x d [] [] with
      | .wait => none
      | .err s' e => some (s'.xferErr st ch x e)
      | .got s' data =>
        match data.flag with
        | some a => some (s'.xferErr st ch x (.poison a))
        | none =>
          let bs := (d.runsOf data).flatMap bare
          let s2 := s'.digestMsg x.launch n dest.1 bs
          let s3 := s2.setCredits p n rest
          let r := s3.sendMsg p st ch dest mtData job coll step 0 bs
          if s.shadow then some (s2.sendsBeside st ch x len)
          else some ((r.1.modNet (fun m => { m with sent := m.sent ++
              [{ msgid := r.2, stall := st, chan := ch, xfer := x.serial, pitch := p, credit := some (n, c), dst := dest.1,
                 win := false, granted := false, coll := none, time := s3.stamp (srcChan st ch), seq := s3.seqOf (srcChan st ch) }] })).modXfer st ch x.serial (fun y => { y with begun := true, msg := r.2 })))

/-- A buffer posted at an inbound mailbox, with its credit sent; none while the mailbox holds 16. -/
def State.beginPost (s : State) (p st ch m : Nat) (x : Xfer) (d : TDesc) (coll : Option (Nat × Nat)) : Option State :=
  if !s.inboxActive p m then some (s.xferErr st ch x (.bad .accessDenied 0))
  else if 16 ≤ (s.postedAt p m).length then none
  else s.begins st ch x (
    let size := d.dataBytes true
    let s1 := s.setPosted p m (s.postedAt p m ++ [{ stall := st, chan := ch, xfer := x.serial, size := size, coll := coll }])
    some ((s1.sendCredit p m size false).modXfer st ch x.serial (fun y => { y with begun := true })))

/-- A collective step begun: checked against the schedule, and sent or posted (R431, R433). -/
def State.beginColl (s : State) (p st ch : Nat) (csr : Option Nat) (x : Xfer) (d : TDesc) : Option State :=
  let g := x.gval.toNat
  let step := bits g 63 48
  match s.openColl p csr (bits g 47 6 * 64) with
  | .wait => none
  | .err e => some (s.xferErr st ch x e)
  | .got s1 c =>
    let recv := x.kind == .post
    let next := if recv then (if c.nextRecv < c.plan.length then some c.nextRecv else none) else c.sends[c.nextSend]?
    if next ≠ some step ∨ d.dataBytes true ≠ c.stepBytes step recv then some (s1.xferErr st ch x (.bad .badProgram 0))
    else
      let mark := fun (s : State) =>
        (s.modColl c.serial (fun c => { c with launches := if c.launches.contains x.launch then c.launches else x.launch :: c.launches,
                                               nextSend := if recv then c.nextSend else c.nextSend + 1,
                                               nextRecv := if recv then c.nextRecv + 1 else c.nextRecv })).modXfer st ch x.serial
          (fun y => { y with coll := some c.serial, step := step })
      if recv then (s1.beginPost p st ch (c.inboxOf step) x d (some (c.serial, step))).map mark
      else match s1.outboxFor p (c.destOf step) with
        | none => some ((s1.sentRec p st ch (c.destOf step) .accessDenied (d.dataBytes true)).xferErr st ch x (.bad .accessDenied 0))
        | some n => (s1.beginSend p st ch n x d c.job c.id step).map mark

/-- A PSEND or PPOST whose turn has come begins; none while it waits. -/
def State.beginXfer (s : State) (st ch : Nat) (x : Xfer) : Option State :=
  match s.launch? x.launch with
  | none => none
  | some l =>
    match TDesc.parse (s.stallsOf l.pitch) x.tensorOf with
    | none => none
    | some d =>
      if x.isColl then s.beginColl l.pitch st ch (some l.csr.toNat) x d
      else if x.isWin then s.begins st ch x (if s.winRoom st || s.shadow then some (s.beginWin l.pitch st ch x d) else none)
      else if x.kind = .send then s.beginSend l.pitch st ch (x.gval.toNat % 256) x d 0 0 0
      else s.beginPost l.pitch st ch (x.gval.toNat % 256) x d none

/-- A channel moved on: every PSEND and PPOST begins whose turn has come, behind transfers that have made their last access (R189). -/
def State.pumpChan : Nat → Nat → Nat → State → State
  | 0, _, _, s => s
  | fuel + 1, st, ch, s =>
    match (s.chanOf st ch).actor? with
    | none => s
    | some x =>
      if x.kind = .send ∨ x.kind = .post then
        (match s.beginXfer st ch x with
         | some s' => State.pumpChan fuel st ch s'
         | none => s)
      else s

/-- Every channel of every stall moved on, as when a credit, a place or a mailbox comes free. -/
def State.pumpAll (s : State) : State :=
  (List.range 48).foldl (fun s st => (List.range 8).foldl (fun s ch =>
    if (s.chanOf st ch).xfers.any (fun x => !x.begun) then State.pumpChan 4 st ch s else s) s) s

end Sys2Proof.Machine
end

