-- ==== Sys2Proof/Machine/FnRegs.lean ====
section
/-! DEFINITION. The set-up registers of a function's block and the commands that they carry: fence operations, packed regions, the
table area, frame counts, the admin pair, the pitch block, mailboxes, retained copies, and the polls of full rings (spec 22 R541 to
R549; 14 R347 to R349; 10 R241, R242, R253; 17 R416; 16 R403 to R405; 18 R451, R457, R459, R471). Bit 63 of PT_PKRn_CTL, PT_PKTBL,
PT_FCT_BASE, PT_IBOXm and PT_OBOXn, which the spec reserves, marks a change of EN that has not taken effect. -/

namespace Sys2Proof.Machine

/-! ### Stored fields -/

/-- The bits of a function register that a write stores, none for a register without such bits or that is no register
(Table 22-5). -/
def fnRw (off : Nat) : Nat :=
  if off % 8 ≠ 0 then 0
  else if off = offAqCfg then mask 0 0 + mask 25 16 + mask 41 32 + mask 55 48
  else if off = offAqSqb || off = offAqCqb then mask 4 0 + mask 63 12
  else if off = offAqSqsb || off = offAqCqsb then mask 63 6
  else if off = offDba then mask 63 12
  else if off = offPsb then mask 0 0 + mask 63 6
  else if off = offFctBase then mask 0 0 + mask 47 12
  else if off = offFctFrames then mask 26 0
  else if off = offRclBase then mask 0 0 + mask 63 12
  else if off = offRclSize then mask 16 0
  else if off = offRclHead then mask 63 3
  else if off = offWin then mask 47 36
  else if 0x1000 ≤ off && off < 0x1200 then
    (if off % 32 = 0 then mask 4 0 + mask 47 12 else if off % 32 = 8 then mask 47 12 else if off % 32 = 16 then mask 47 4 else 0)
  else if off = offPktbl then mask 0 0 + mask 47 17
  else if off = offFnArea then mask 0 0 + mask 47 12
  else if off = offSched then mask 0 0 + mask 29 16
  else if 0x1400 ≤ off && off < 0x1600 then mask 11 0 + mask 23 16
  else if off = offEvent then mask 6 0
  else if off = offDbk || off = offFlt then mask 0 0 + mask 63 12
  else if off = offDbk + 8 then mask 4 0 + mask 14 8
  else if off = offFlt + 8 then mask 4 0 + mask 8 8
  else if off = offDbk + 16 || off = offFlt + 16 then mask 63 3
  else if off = offDumpBase then mask 0 0 + mask 47 12
  else if off = offDumpSize then mask 23 0
  else if 0x1900 ≤ off && off < 0x1980 then (if off % 16 = 0 then mask 0 0 + mask 47 12 else mask 47 12)
  else if off = offPower then mask 11 0 + mask 16 16 + mask 47 32
  else if 0x2000 ≤ off && off < 0x2800 then mask 0 0 + mask 19 8 + mask 28 24
  else if 0x2800 ≤ off && off < 0x3000 then mask 0 0 + mask 19 8 + mask 28 24 + mask 39 32
  else 0

/-- Whether an offset of a function block is a register of Table 22-5. -/
def fnNamed (off : Nat) : Bool :=
  off % 8 == 0 && (fnRw off != 0 || decide (off ≤ 0x18) || off == offAccErr || off == offFnDef || off == offDbk + 24
    || off == offDbk + 32 || off == offTime || off == offFlt + 24 || off == offFlt + 32
    || (decide (0x3000 ≤ off) && decide (off < 0x3400)) || off == offPba)

/-- The register whose EN fixes the other fields of a register, if one does. -/
def fnGuard (off : Nat) : Option Nat :=
  if 0x20 ≤ off && off ≤ 0x40 then some offAqCfg
  else if off = offPsb then some offPsb
  else if off = offFctBase || off = offFctFrames then some offFctBase
  else if off = offRclBase || off = offRclSize || off = offRclHead then some offRclBase
  else if 0x1000 ≤ off && off < 0x1200 then some (off / 32 * 32)
  else if off = offPktbl then some offPktbl
  else if off = offFnArea then some offFnArea
  else if 0x1700 ≤ off && off ≤ 0x1710 then some offDbk
  else if 0x1740 ≤ off && off ≤ 0x1750 then some offFlt
  else if off = offDumpBase || off = offDumpSize then some offDumpBase
  else if 0x1900 ≤ off && off < 0x1980 then some (off / 16 * 16)
  else if 0x2000 ≤ off && off < 0x3000 then some off
  else none

/-- The bits of a function register that may not change now: those that its guard's EN fixes, but for EN itself and the MASK of a
Daybook; EN of the fence area while a fence is defined; the doorbell array while the function has a queue. -/
def State.fnFixed (s : State) (fn off : Nat) : Nat :=
  let guarded := (match fnGuard off with
    | some g => if s.fld fn g 0 0 = 1 then
        fnRw off - (if off = g then 1 else 0) - (if off = offDbk + 8 then mask 14 8 else 0) - (if off = offFlt + 8 then mask 8 8 else 0)
      else 0
    | none => 0)
  if off = offFnArea then
    (match s.pitchOfFn fn with
     | some p =>
       let r := s.fenceRange p
       guarded + (if s.fe.fences.any (fun e => decide (r.1 ≤ e.1) && decide (e.1 < r.1 + r.2)) then 1 else 0)
     | none => guarded)
  else if off = offDba then (if (s.fnQueues fn).isEmpty then 0 else mask 63 12)
  else if off = offAqCfg then guarded + (if s.fld fn offAqCfg 63 63 = 1 then 1 else 0)
  else guarded

/-! ### What a change of EN does -/

/-- Whether every page of a range is mapped by the pitch's table. -/
def State.mapped (s : State) (p addr n : Nat) : Bool :=
  (List.range ((addr + n - 1) / 2 ^ 21 + 1 - addr / 2 ^ 21)).all (fun i =>
    match s.translate p none .read ((addr / 2 ^ 21 + i) * 2 ^ 21) with
    | .ok _ => true
    | _ => false)

/-- Whether a range meets a packed region in force other than `n`, or the header area of one. -/
def State.meetsOther (s : State) (p n a len : Nat) : Bool :=
  (List.range 16).any (fun k => k != n && s.pkrActive p k
    && (meets a len (s.pkrBase p k) (s.pkrLimit p k - s.pkrBase p k) || meets a len (s.pkrHdr p k) (s.pkrHdrLen p k)))

/-- Whether packed region `n` may come into force (R242). -/
def State.pkrReady (s : State) (p n : Nat) : Bool :=
  let a := s.pkrBase p n
  let len := s.pkrLimit p n - a
  let h := s.pkrHdr p n
  let hl := s.pkrHdrLen p n
  s.pkrCodec p n != 0 && (!s.pkrSeg p n || s.pkrCodec p n == 2) && decide (a < s.pkrLimit p n) && s.mapped p a len
    && !s.meetsOther p n a len
    && !(s.fctActive p && meets a len (s.fctArea p).1 (s.fctArea p).2)
    && !(s.tableActive p && meets a len (s.tableArea p).1 (s.tableArea p).2)
    && (s.pkrCodec p n == 3
        || (s.mapped p h hl && !meets h hl a len
            && (List.range 16).all (fun k => k == n || !s.pkrActive p k || !meets h hl (s.pkrBase p k) (s.pkrLimit p k - s.pkrBase p k))))

/-- A change of EN of packed region `n` takes effect. -/
def State.pkrEffect (s : State) (p n : Nat) : State :=
  let fn := s.fnOf p
  let s1 := s.setFld fn (offPkr n) 63 63 0
  s1.setFld fn (offPkr n) 5 5 (if s1.fld fn (offPkr n) 0 0 = 1 then b2n (s1.pkrReady p n) else 0)

/-- A change of EN of the table area takes effect: in force, every slot is written as FREE (R253). -/
def State.tableEffect (s : State) (p : Nat) : State :=
  let fn := s.fnOf p
  let s1 := s.setFld fn offPktbl 63 63 0
  let a := s1.tableArea p
  if s1.fld fn offPktbl 0 0 = 0 then s1.setFld fn offPktbl 1 1 0
  else if s1.mapped p a.1 a.2 && !s1.inRegion p a.1 a.2 && !(s1.fctActive p && meets a.1 a.2 (s1.fctArea p).1 (s1.fctArea p).2) then
    (s1.setFld fn offPktbl 1 1 1).writeDev p none .write none a.1 (List.replicate 65536 0) false
  else s1.setFld fn offPktbl 1 1 0

/-- A change of EN of the frame-count table takes effect (R548). -/
def State.fctEffect (s : State) (p : Nat) : State :=
  let fn := s.fnOf p
  let s1 := s.setFld fn offFctBase 63 63 0
  let a := s1.fctArea p
  let n := s1.frames p
  let ok := s1.fld fn offFctBase 0 0 == 1 && decide (1 ≤ n) && decide (n ≤ 2 ^ 26) && s1.privWritable p a.1 a.2
    && !s1.inPacked p a.1 a.2 && !(s1.tableActive p && meets a.1 a.2 (s1.tableArea p).1 (s1.tableArea p).2)
    && !s1.inFences p a.1 a.2
  s1.setFld fn offFctBase 1 1 (b2n ok)

/-- The outbound mailbox that a PSEND uses: the one it names; a collective step's leads to the next member of its ring (R418, R434); a
window request uses none. -/
def State.boxOf (s : State) (p : Nat) (x : Xfer) : Option Nat :=
  if x.kind ≠ .send ∨ x.isWin = true then none
  else if x.isColl then
    (s.collAt p (bits x.gval.toNat 47 6 * 64)).bind (fun c => s.outboxFor p (c.destOf (bits x.gval.toNat 63 48)))
  else some (x.gval.toNat % 256)

/-- Whether an inbound mailbox holds a posted buffer, or a PSEND that uses an outbound one is outstanding (R416). -/
def State.inboxBusy (s : State) (p m : Nat) : Bool := (s.postedAt p m).any s.livePost
def State.outboxBusy (s : State) (p n : Nat) : Bool :=
  s.net.sent.any (fun x => x.pitch == p && x.credit.map (·.1) == some n)
    || s.allXfers.any (fun y => s.boxOf p y.2.2 == some n && (s.launch? y.2.2.launch).map (·.pitch) == some p)

/-- An outbound mailbox comes into force unless another in force has its destination. -/
def State.outboxOn (s : State) (p n : Nat) : State :=
  if s.pfld p (offObox n) 0 0 = 1 && s.pfld p (offObox n) 63 63 = 0 && (s.outboxFor p (s.outboxDest p n)).isNone then
    s.setFld (s.fnOf p) (offObox n) 1 1 1
  else s

/-- A change of EN of a mailbox takes effect, when it may. -/
def State.boxEffect (s : State) (p : Nat) (inbox : Bool) (m : Nat) : State :=
  let fn := s.fnOf p
  let off := if inbox then offIbox m else offObox m
  let done := fun (s : State) => s.setFld fn off 63 63 0
  if s.fld fn off 0 0 = 1 then (if inbox then (done s).setFld fn off 1 1 1 else (done s).outboxOn p m)
  else if (if inbox then s.inboxBusy p m else s.outboxBusy p m) then s
  else
    let dest := s.outboxDest p m
    let s1 := (done s).setFld fn off 1 1 0
    if inbox then s1.setPosted p m []
    else (List.range 256).foldl (fun s n => if s.outboxDest p n = dest then s.outboxOn p n else s) (s1.setCredits p m [])

/-- Whether an admin pair may come into force (R545). -/
def State.aqReady (s : State) (fn : Nat) : Bool :=
  let q := s.fld fn offAqCfg 25 16
  let c := s.fld fn offAqCfg 41 32
  let v := s.fld fn offAqCfg 55 48
  let log := fun (off : Nat) => decide (4 ≤ s.fld fn off 4 0) && decide (s.fld fn off 4 0 ≤ 16) && s.fld fn off 63 12 != 0
  q != c && s.queueOf fn q && s.queueOf fn c && (s.queue? q).isNone && (s.queue? c).isNone && log offAqSqb && log offAqCqb
    && s.fld fn offAqSqsb 63 6 != 0 && s.fld fn offAqCqsb 63 6 != 0 && s.fld fn offDba 63 12 != 0
    && (v == 0xFF || decide (v < s.tableSize fn))

/-- The admin pair of a function created (R545). -/
def State.aqCreate (s : State) (fn : Nat) : State :=
  let q := s.fld fn offAqCfg 25 16
  let c := s.fld fn offAqCfg 41 32
  let at' := fun (off : Nat) => BitVec.ofNat 64 (s.fld fn off 63 12 * 4096)
  let blk := fun (off : Nat) => BitVec.ofNat 64 (s.fld fn off 63 6 * 64)
  let cq := { Queue.blank with isCq := true, admin := true, fn := fn, log2 := s.fld fn offAqCqb 4 0, base := at' offAqCqb,
                               status := blk offAqCqsb, vector := s.fld fn offAqCfg 55 48 }
  let sq := { Queue.blank with admin := true, fn := fn, log2 := s.fld fn offAqSqb 4 0, base := at' offAqSqb,
                               status := blk offAqSqsb, cq := c }
  ((s.makeQueue c cq 0).makeQueue q sq 0).setFld fn offAqCfg 1 1 1

/-- EN of an admin pair in force written 0: what has not started ends with KILLED, and the pair goes once the rest has completed. -/
def State.aqClose (s : State) (fn : Nat) : State :=
  let q := s.fld fn offAqCfg 25 16
  let s1 := s.setFld fn offAqCfg 63 63 1
  (match s.queue? q with
   | some x => x.descs.foldl (fun (s : State) (d : Desc) => if d.started then s else (s.killDesc q d.hseq).1) (s1.modQueue q (fun x => { x with toFetch := 0 }))
   | none => s1).feDone

/-- A ring comes into force: its count of records starts anew (R403, R549). -/
def Ring.fresh (r : Ring) : Ring := { r with written := 0, consumed := 0, gap := 0 }

/-- What follows the change of EN of a function register from `was` to what it holds now. -/
def State.fnEnable (s : State) (fn off : Nat) (was : Bool) : State :=
  let now := s.fld fn off 0 0 == 1
  if now == was then s
  else match s.pitchOfFn fn with
    | none => if off = offAqCfg then (if now then (if s.aqReady fn then s.aqCreate fn else s)
        else if s.fld fn offAqCfg 1 1 = 1 then s.aqClose fn else s) else s
    | some p =>
      let idle := (s.inFlight p).isEmpty
      let later := fun (f : State → State) => if idle then f s else s.setFld fn off 63 63 1
      if off = offAqCfg then (if now then (if s.aqReady fn then s.aqCreate fn else s)
        else if s.fld fn offAqCfg 1 1 = 1 then s.aqClose fn else s)
      else if off = offPsb then (if now then s.writePsb p else s)
      else if off = offFctBase then later (fun s => s.fctEffect p)
      else if off = offRclBase then
        -- records dropped before stay to be told by the next record's LOST (R237)
        (if now then { s with rcl := s.rcl.setIfInBounds p { s.rcl[p]?.getD Ring.zero with written := 0, consumed := 0 } } else s)
      else if 0x1000 ≤ off ∧ off < 0x1200 then later (fun s => s.pkrEffect p ((off - 0x1000) / 32))
      else if off = offPktbl then later (fun s => s.tableEffect p)
      else if off = offDbk then
        (if now then { s with dbk := s.dbk.setIfInBounds p ((s.dbk[p]?.getD Ring.zero).fresh) } else s)
      else if off = offFlt then
        (if now then { s with flt := s.flt.setIfInBounds p ((s.flt[p]?.getD Ring.zero).fresh) } else s)
      else if 0x1900 ≤ off ∧ off < 0x1980 then later (fun s => s.setFld fn off 1 1 (b2n now))
      else if 0x2000 ≤ off ∧ off < 0x2800 then (s.setFld fn off 63 63 1).boxEffect p true ((off - 0x2000) / 8)
      else if 0x2800 ≤ off ∧ off < 0x3000 then (s.setFld fn off 63 63 1).boxEffect p false ((off - 0x2800) / 8)
      else s

/-! ### The fence table (R349) -/

/-- The state with PT_FNDEF showing an operation's outcome. -/
def State.fnShow (s : State) (fn i op : Nat) (owner : Option Nat) (done : Bool) : State :=
  s.setRaw fn offFnDef (i + op * 2 ^ 13 + owner.getD 0 * 2 ^ 16 + b2n owner.isSome * 2 ^ 26 + (if done then 1 else 2) * 2 ^ 28)

/-- A fence operation (Table 14-4). -/
def State.fenceOp (s : State) (fn i op owner : Nat) : State :=
  match s.servedPitch fn with
  | none => s
  | some p =>
    let r := s.fenceRange p
    let refused := s.fnShow fn i op none false
    if i < r.1 ∨ r.1 + r.2 ≤ i then refused
    else match op, s.fence? i with
      | 0, f => s.fnShow fn i op (f.map (·.owner)) true
      | 1, none =>
        let isSq := (match s.queue? owner with
          | some x => !x.isCq && x.fn == fn
          | none => false)
        if !isSq || (s.fenceWordFails p i).isSome then refused
        else
          let s1 := s.writeDev p none .write none ((s.fenceArea p).1 + 8 * (i - r.1)) (List.replicate 8 0) false
          { s1 with fe := { s1.fe with fences := Tab.put s1.fe.fences i ⟨owner, 0, none⟩ } }.fnShow fn i op (some owner) true
      | 2, some f =>
        let waited := s.fe.queues.any (fun e => match e.2.head? with
          | some d => !e.2.isCq && d.op == 2 && d.blocked && d.fence == i
          | none => false)
        if waited || f.writing.isSome then refused
        else { s with fe := { s.fe with fences := Tab.del s.fe.fences i } }.fnShow fn i op none true
      | _, _ => refused

/-! ### Writes of function registers (R541, R542) -/

/-- Whether a function's registers serve: those of an idle function, and of the PF while it owns no pitch, ignore writes but for the
few of R542. -/
def State.fnTakes (s : State) (fn off : Nat) : Bool :=
  (s.servedPitch fn).isSome
    || (fn == 0 && ((decide (offAqCfg ≤ off) && decide (off ≤ offDba)) || (decide (0x1400 ≤ off) && decide (off < 0x1420))
        || (decide (0x3000 ≤ off) && decide (off < 0x3040))))

/-- A write of an MSI-X table entry's half: address, or data and vector control. -/
def State.msixWrite (s : State) (fn off v : Nat) : State :=
  let k := (off - offMsix) / 16
  if off % 16 = 0 then s.modMsi fn k (fun m => { m with addr := BitVec.ofNat 64 (v - v % 4) })
  else
    let s1 := s.modMsi fn k (fun m => { m with data := BitVec.ofNat 32 v })
    if bit v 32 then s1.modMsi fn k (fun m => { m with mask := true }) else s1.unmask fn k

/-- A write of a function register that takes effect or is ignored as a whole. -/
def State.fnStore (s : State) (fn off v : Nat) : State :=
  let old := s.raw fn off
  if differs v old (s.fnFixed fn off) then s
  else
    let s1 := s.setRaw fn off (blend old v (fnRw off))
    let s2 := if off = offDumpBase && bit v 3 then s1.setFld fn off 2 2 0 else s1
    if (fnGuard off = some off) then s2.fnEnable fn off (bit old 0) else s2

/-- A write of a register of a function's block that serves. -/
def State.fnApply (s : State) (fn off v : Nat) : State :=
  if offMsix ≤ off ∧ off < offPba then (if (off - offMsix) / 16 < s.tableSize fn then s.msixWrite fn off v else s)
  else if 0x1400 ≤ off ∧ off < 0x1600 ∧ s.tableSize fn ≤ (off - 0x1400) / 8 then s
  else if off = offFnDef then s.fenceOp fn (bits v 12 0) (bits v 14 13) (bits v 25 16)
  else s.fnStore fn off v

/-- A write of a register of a function's block; a primary sends it to its secondary as well (R481). The PF's admin registers and doorbell
array are the installer's while it owns no pitch (R542). -/
def State.fnWrite (s : State) (fn off v : Nat) : State :=
  if !s.fnTakes fn off || s.dieDown then s
  else if fn = 0 && (s.servedPitch 0).isNone && decide (offAqCfg ≤ off) && decide (off ≤ offDba) then
    s.installerWrite off (s.raw 0 off) v none (differs v (s.raw 0 off) (s.fnFixed 0 off)) (fun s => s.fnStore 0 off v)
  else (s.pairCopy (.reg fn off (BitVec.ofNat 64 v))).fnApply fn off v

/-- A fence operation as a write of PT_FNDEF. -/
def State.fnDefine (s : State) (fn i op owner : Nat) : State := s.fnWrite fn offFnDef (i + op * 2 ^ 13 + owner * 2 ^ 16)

/-- FENCE_QUERY. -/
def execFenceQuery (fn : FnId) (i : FenceId) (s : State) : Res :=
  let s := s.settleHost fn
  .next (s.fnDefine fn i 0 0)

/-- FENCE_DEFINE. -/
def execFenceDefine (fn : FnId) (i : FenceId) (owner : QueueId) (s : State) : Res :=
  let s := s.settleHost fn
  .next (s.fnDefine fn i 1 owner)

/-- FENCE_UNDEFINE. -/
def execFenceUndefine (fn : FnId) (i : FenceId) (s : State) : Res :=
  let s := s.settleHost fn
  .next (s.fnDefine fn i 2 0)

/-- AQ_ENABLE: a value with EN set is written to PT_AQ_CFG. -/
def execAqEnable (fn : FnId) (v : W64) (s : State) : Res :=
  let s := s.settleHost fn
  .next (if s.fnThere fn then s.fnWrite fn offAqCfg (setBits v.toNat 0 0 1) else s)

/-- AQ_DISABLE: EN of PT_AQ_CFG is written 0, the other fields as they read. -/
def execAqDisable (fn : FnId) (s : State) : Res :=
  let s := s.settleHost fn
  .next (if s.fnThere fn then s.fnWrite fn offAqCfg (setBits (s.raw fn offAqCfg) 0 0 0) else s)

/-- PSB_ENABLE: a value with EN set is written to PT_PSB_BASE. -/
def execPsbEnable (fn : FnId) (v : W64) (s : State) : Res :=
  let s := s.settleHost fn
  .next (if s.fnThere fn then s.fnWrite fn offPsb (setBits v.toNat 0 0 1) else s)

/-- DUMP_RELEASE: RELEASE of PT_DUMP_BASE is written 1, the other fields as they read. -/
def execDumpRelease (fn : FnId) (s : State) : Res :=
  let s := s.settleHost fn
  .next (if s.fnThere fn then s.fnWrite fn offDumpBase (setBits (s.raw fn offDumpBase) 3 3 1) else s)

/-- Whether a change of EN of a pitch's register waits and may take effect: the pitch has no launch in flight. -/
def State.enDue (s : State) (p off : Nat) : Bool := s.pfld p off 63 63 == 1 && (s.inFlight p).isEmpty

/-- PKR_EN_EFFECT. -/
def execPkrEnEffect (p : PitchId) (n : RegionId) (s : State) : Res := .next (if s.enDue p (offPkr n) then s.pkrEffect p n else s)

/-- TABLE_AREA_ENABLE. -/
def execTableAreaEnable (p : PitchId) (s : State) : Res := .next (if s.enDue p offPktbl then s.tableEffect p else s)

/-- FCT_EN_EFFECT. -/
def execFctEnEffect (p : PitchId) (s : State) : Res := .next (if s.enDue p offFctBase then s.fctEffect p else s)

/-- MAILBOX_DISABLE_EFFECT: an EN of 0 takes effect once nothing uses the mailbox. -/
def execMailboxDisableEffect (p : PitchId) (inbox : Bool) (m : Fin 256) (s : State) : Res :=
  .next (if s.pfld p (if inbox then offIbox m else offObox m) 63 63 = 1 then s.boxEffect p inbox m else s)

/-- A write of GH_DUMP_CFG (Table 18-21). -/
def State.dumpCfgWrite (s : State) (v : Nat) : State :=
  let old := s.raw 0 offGhDumpCfg
  let fixed := s.fld 0 offGhDumpBase 0 0 == 1 && differs v old (mask 6 0)
  s.installerWrite offGhDumpCfg old v none fixed (fun s =>
    let s1 := s.setRaw 0 offGhDumpCfg (blend old v (mask 7 0))
    if bit v 9 then s1.setFld 0 offGhDumpCfg 8 8 0 else s1)

/-- STOCKTAKE_RELEASE: RELEASE of GH_DUMP_CFG is written 1, the other fields as they read. -/
def execStocktakeRelease (s : State) : Res :=
  let s := s.settleHost 0
  .next (s.dumpCfgWrite (setBits (s.raw 0 offGhDumpCfg) 9 9 1))

/-! ### Full rings (R405, R451, R549) -/

/-- The consumed count of a ring as read: none where it is impossible. -/
def Ring.take (r : Ring) (size : Nat) (count : W64) : Option Ring :=
  if count ≤ r.written ∧ (r.written - count).toNat ≤ size then some { r with consumed := count } else none

/-- An impossible consumed count: an ERROR record in the installer's Daybook, naming the word. -/
def State.badCount (s : State) (src word : Nat) : State := s.postError 24 src .badDescriptor 8 word

/-- DAYBOOK_HEAD_POLL: the consumed-count word of a full Daybook or fault ring is read again. A Daybook that has dropped records and has
room again gets a GAP record. -/
def execDaybookHeadPoll (k : RingId) (count : W64) (s : State) : Res :=
  .next (match k with
    | .daybook k =>
      let fo := s.dbkReg k
      let r := s.dbk[k.val]?.getD Ring.zero
      let size := s.ringSize fo
      let src := if k.val = 24 then srcInstaller else srcPitch k
      if !s.ringActive fo 8 20 || !(r.full size || r.gap != 0) then s
      else (let s := s.hostAsk (some fo.1)
        match r.take size count with
        | none => if k.val = 24 then s else s.badCount src (s.fld fo.1 (fo.2 + 16) 63 3 * 8)
        | some r' =>
          if r'.full size || r'.gap = 0 then { s with dbk := s.dbk.setIfInBounds k.val r' }
          else { s with dbk := s.dbk.setIfInBounds k.val { r' with gap := 0 } }.postDbk [k.val] .always src 0x30
            (leBytes 4 r'.gap ++ leBytes 4 0 ++ leBytes 8 r'.gapTime.toNat))
    | .fault k =>
      let fo := s.fltReg k
      let r := s.flt[k.val]?.getD Ring.zero
      let size := s.ringSize fo
      if !s.ringActive fo 6 16 || !r.full size then s
      else (let s := s.hostAsk (some fo.1)
        match r.take size count with
        | none => s.badCount (if k.val = 24 then srcInstaller else srcPitch k) (s.fld fo.1 (fo.2 + 16) 63 3 * 8)
        | some r' => { s with flt := s.flt.setIfInBounds k.val r' }))

/-- RECLAIM_HEAD_POLL: the consumed-count word of a full reclaim log is read again. -/
def execReclaimHeadPoll (p : PitchId) (count : W64) (s : State) : Res :=
  let r := s.rcl[p.val]?.getD Ring.zero
  let size := s.pfld p offRclSize 16 0
  .next (if !s.rclActive p || !r.full size then s
    else
      let s := s.hostAsk (some (s.fnOf p))
      match r.take size count with
      | none => s.badCount (srcPitch p) (s.pfld p offRclHead 63 3 * 8)
      | some r' => { s with rcl := s.rcl.setIfInBounds p.val r' })

end Sys2Proof.Machine
end

