-- ==== Sys2Proof/Machine/Time.lean ====
section
/-! DEFINITION. FK time: TIME_LOAD, TSYNC_WRITE, SLOW_CLOCK_TICK, PPS_EDGE, TSYNC_EXCHANGE, TSYNC_REQUEST, TSYNC_REPLY (spec 16
R391 to R398). -/

namespace Sys2Proof.Machine

/-- The states of alignment (Table 16-4). -/
def tsFree : Nat := 0
def tsAcquiring : Nat := 1
def tsLocked : Nat := 2
def tsHoldover : Nat := 3

/-- The state with the clock changed. -/
def State.modClk (s : State) (f : Clock → Clock) : State := { s with clk := f s.clk }

/-- ROLE of GH_TSYNC; 3 acts as 0. -/
def State.tsRole (s : State) : Nat := if s.fld 0 offTsync 1 0 = 3 then 0 else s.fld 0 offTsync 1 0

/-- Whether every pitch is OFF. -/
def State.noPitch (s : State) : Bool := s.livePitches.isEmpty

/-- A TIME record (Table 16-11): 0 a load, 1 LOCKED entered, 2 HOLDOVER entered, 3 a step. -/
def State.timeRecord (s : State) (kind : Nat) : State :=
  s.postDbk [24] .always srcGate 0x31
    (leBytes 1 kind ++ leBytes 3 0 ++ leBytes 4 s.clk.hops ++ leBytes 8 (lowBits 64 s.clk.theta))

/-- The state with FK time set: no floor of the old time binds the new one. -/
def State.setTime (s : State) (v : W64) : State :=
  s.modClk (fun c => { c with time := v, floor := v, frac := 0, valid := true, ppsLast := none })

/-- An accepted load takes effect (R394); none does once a pitch exists (R391). -/
def State.applyLoad (s : State) : State :=
  match s.clk.loadPending with
  | some v =>
    if s.noPitch then ((s.setTime v).modClk (fun c => { c with loadPending := none })).timeRecord 0
    else s.modClk (fun c => { c with loadPending := none })
  | none => s

/-- A write of GH_TIME_LOAD (R394). -/
def State.timeLoad (s : State) (v : W64) : State :=
  let off := !s.noPitch
  let s1 := s.installerWrite offTimeLoad 0 v.toNat none off (fun s => s.modClk (fun c => { c with loadPending := some v }))
  if off then s1.postError 24 srcGate .accessDenied 9 v.toNat else s1

/-- TIME_LOAD. -/
def execTimeLoad (v : W64) (s : State) : Res :=
  let s := s.settleHost 0
  .next (s.timeLoad v)

/-- Alignment starts anew from FREE by the role that GH_TSYNC gives (Tables 16-3, 16-5). -/
def State.alignStart (s : State) : State :=
  let role := s.tsRole
  s.modClk (fun c =>
    { c with tstate := if role = 1 then (if s.fld 0 offTsync 2 2 = 1 then tsAcquiring else tsLocked) else if role = 2 then tsAcquiring
                       else tsFree,
             hops := if role = 1 then 0 else 255, ppsOk := false, ppsRun := 0, ppsLast := none, exch := none, exchOk := 0,
             exchFail := 0 })

/-- A write of GH_TSYNC. -/
def State.tsyncWrite (s : State) (v : Nat) : State :=
  s.installerWrite offTsync (s.raw 0 offTsync) v none false (fun s =>
    (s.setRaw 0 offTsync (Nat.land v (mask 3 0 + mask 10 8 + mask 23 16))).alignStart)

/-- TSYNC_WRITE. -/
def execTsyncWrite (v : W64) (s : State) : Res :=
  let s := s.settleHost 0
  .next (s.tsyncWrite v.toNat)

/-- The master count after a tick: 40 ns and the steering of it, whose fraction is carried (R392, R395). -/
def Clock.tick (c : Clock) : Clock :=
  let x := c.frac + c.rate
  { c with time := c.time + 40 + BitVec.ofInt 64 (x / 2 ^ 32), frac := x % 2 ^ 32 }

/-- SLOW_CLOCK_TICK. -/
def execSlowClockTick (s : State) : Res :=
  let s1 := s.modClk Clock.tick
  .next (if s.fld 0 offTsync 3 3 = 0 then s1.applyLoad else s1)

/-- The largest steering, 500 ppm of a tick, in 2^-32 ns. -/
def maxSlew : Int := 85899345

/-- A slew toward the offset last measured: the count runs faster where θ is positive and slower where it is negative; how much is free
within the bound of R395. -/
def State.slewToward (s : State) : State :=
  let r := s.clk.theta.sign * min maxSlew ((Config.slew s.free).natAbs + 1)
  { s with free := s.free + 1, clk := { s.clk with rate := r } }

/-- The distance from a time to the nearest multiple of 10^9 ns. -/
def ppsTheta (t : Nat) : Int :=
  let r : Nat := t % 1000000000
  if 2 * r < 1000000000 then -(r : Int) else (1000000000 : Int) - (r : Int)

/-- HOLDOVER is entered: the last steering rate is kept (Table 16-5). -/
def State.enterHoldover (s : State) : State := (s.modClk (fun c => { c with tstate := tsHoldover })).timeRecord 2

/-- LOCKED is entered. -/
def State.enterLocked (s : State) : State := (s.modClk (fun c => { c with tstate := tsLocked })).timeRecord 1

/-- An edge of PPS_IN measured at a time (R396). -/
def State.ppsMeasure (s : State) (t : W64) : State :=
  let th := ppsTheta t.toNat
  let soon := (match s.clk.ppsLast with
    | some l => decide ((t - l).toNat < 900000000)
    | none => false)
  if soon || decide (100000 < th.natAbs) then
    let s1 := s.modClk (fun c => { c with theta := th, ppsBad := (c.ppsBad + 1) % 2 ^ 16, ppsRun := 0, ppsOk := false })
    if s.clk.tstate = tsLocked then s1.enterHoldover else s1
  else
    let run := s.clk.ppsRun + 1
    let ok := decide (3 ≤ run)
    let s1 := (s.modClk (fun c => { c with theta := th, ppsRun := run, ppsOk := ok, ppsLast := some t })).slewToward
    if ok && s.clk.tstate == tsAcquiring then s1.enterLocked
    else if ok && !s.clk.ppsOk && s.clk.tstate == tsHoldover then s1.modClk (fun c => { c with tstate := tsAcquiring })
    else s1

/-- PPS_EDGE: a chip that is no master ignores it. -/
def execPpsEdge (s : State) : Res :=
  .next (if s.tsRole ≠ 1 then s
    else
      let s1 := if s.fld 0 offTsync 3 3 = 1 then s.applyLoad else s
      if s.fld 0 offTsync 2 2 = 1 then s1.afterNow.ppsMeasure s1.now else s1)

/-- The trained links of a port. -/
def State.trainedLinks (s : State) (port : Nat) : List Nat :=
  ((List.range 4).map (fun k => 4 * port + k)).filter (fun i =>
    (s.link i).state == .ident || (s.link i).state == .routed || (s.link i).state == .quarantined)

/-- An exchange failed: the third in a row of a LOCKED follower ends in HOLDOVER. -/
def State.exchFailed (s : State) : State :=
  let s1 := s.modClk (fun c => { c with exch := none, exchOk := 0, exchFail := c.exchFail + 1 })
  if s1.clk.tstate = tsLocked ∧ 3 ≤ s1.clk.exchFail then s1.enterHoldover else s1

/-- TSYNC_EXCHANGE: a follower's period ends. An exchange without its reply has failed; the next request leaves. -/
def execTsyncExchange (s : State) : Res :=
  .next (if s.tsRole ≠ 2 then s
    else
      let s1 := if s.clk.exch.isSome then s.exchFailed else s
      match s1.trainedLinks (s1.fld 0 offTsync 10 8) with
      | i :: _ => (s1.modClk (fun c => { c with exch := some s1.now })).afterNow.control i mtTsyncReq 0 []
      | [] => s1.exchFailed)

/-- TSYNC_REQUEST: a request is answered with its stamps, whatever the chip's role (R397). -/
def execTsyncRequest (n : Nat) (s : State) : Res :=
  .next (match s.msg? n with
    | some m => if m.mtype ≠ mtTsyncReq then s
      else (match m.link with
        | some i =>
          let s1 := (s.takeMsg m).afterNow
          s1.afterNow.control i mtTsyncRep 0 (Config.tsyncReply s.now.toNat s1.now.toNat s.clk.tstate s.clk.hops)
        | none => s.takeMsg m)
    | none => s)

/-- θ of an exchange by its four stamps (R397). -/
def exchTheta (t1 t2 t3 t4 : W64) : Int := ((t2 - t1).toInt - (t4 - t3).toInt) / 2

/-- δ of an exchange, the one-way link delay (R397). -/
def exchDelay (t1 t2 t3 t4 : W64) : Int := ((t2 - t1).toInt + (t4 - t3).toInt) / 2

/-- A reply has come: θ, δ, HOPS, and the transitions of Table 16-5. -/
def State.exchDone (s : State) (th delay : Int) (locked : Bool) (hops : Nat) : State :=
  let near := locked && decide (th.natAbs ≤ 8)
  let s1 := s.modClk (fun c =>
    { c with theta := th, delay := delay, hops := if 255 ≤ hops then 255 else min 255 (hops + 1), exch := none, exchFail := 0,
             exchOk := if near then c.exchOk + 1 else 0 })
  if s.clk.tstate = tsAcquiring then
    let s2 := if s.noPitch then (s1.setTime (s1.clk.time + BitVec.ofInt 64 th)).timeRecord 3 else s1.slewToward
    if 3 ≤ s2.clk.exchOk then s2.enterLocked else s2
  else if s.clk.tstate = tsLocked then (if locked then s1.slewToward else s1.enterHoldover)
  else if s.clk.tstate = tsHoldover then
    (if locked then s1.slewToward.modClk (fun c => { c with tstate := tsAcquiring, exchOk := 0 }) else s1)
  else s1

/-- TSYNC_REPLY: a follower's parent answers; a reply that answers no exchange in progress is dropped. -/
def execTsyncReply (n : Nat) (s : State) : Res :=
  .next (match s.msg? n with
    | some m => if m.mtype ≠ mtTsyncRep then s
      else
        let s1 := s.takeMsg m
        (match s.clk.exch, m.link with
         | some t1, some i =>
           if s.tsRole ≠ 2 ∨ i / 4 ≠ s.fld 0 offTsync 10 8 then s1
           else
             let f := Config.tsyncFields m.data
             let t2 : W64 := BitVec.ofNat 64 f.1
             let t3 : W64 := BitVec.ofNat 64 f.2.1
             s1.afterNow.exchDone (exchTheta t1 t2 t3 s1.now) (exchDelay t1 t2 t3 s1.now) (f.2.2.1 == tsLocked) f.2.2.2
         | _, _ => s1)
    | none => s)

end Sys2Proof.Machine
end

