-- ==== Sys2Proof/Machine/Links.lean ====
section
/-! DEFINITION. Ports and links: PORT_ENABLE, PORT_DISABLE, ACCEPT, LINK_TRAINED, LINK_TRAIN_TIMEOUT, IDENT, IDENT_TIMEOUT,
WIRING_WAIT_EXPIRY, LOSS_OF_SIGNAL, FLIT_RECEIVE, RETRY_REQUEST, LINK_ACK_TIMEOUT, PEER_EPOCH, LANE_ERROR_RATIO_CHECK (spec 17 R409 to
R415, R420, R427 to R429, R436 to R438; 18 R472, R475). -/

namespace Sys2Proof.Machine

/-! ### Messages that a link loses (R420) -/

/-- A refusal of a message that could not be delivered. A message that is no PSEND's, and no window's, is dropped. -/
def State.refuse (s : State) (m : Msg) (st : Status) : State :=
  if m.mtype = mtData ∨ m.mtype = mtWreq ∨ m.mtype = mtWresp then s.refuseMsg m st else s

/-- The message whose head a flit's data holds. -/
def headMsg (data : List Byte) : Msg := ⟨0, none, 0, 0, data, false, 0⟩

/-- The heads of the messages that a link holds: those waiting, those unacknowledged, and those arriving. -/
def Link.heads (l : Link) : List Msg :=
  let w := (l.waiting.filter (fun f => (f.kind == 1 || f.kind == 4) && decide (f.vc < 2))).map (fun f => headMsg f.data)
  let k := (l.kept.filter (fun f => (fieldAt f.bytes 4 1 == 1 || fieldAt f.bytes 4 1 == 4) && decide (fieldAt f.bytes 5 1 < 2))).map
    (fun f => headMsg ((f.bytes.drop 8).take 244))
  let a := ([0, 1].map (fun v => (l.arriving[v]?.getD ([], 0)).1)).filter (fun b => decide (48 ≤ b.length))
  k ++ w ++ a.map headMsg

/-- A link that starts anew in a state: nothing waits, every place of the peer is free; its counters and its lanes stay. -/
def Link.fresh (l : Link) (tgt : LState) : Link :=
  { Link.reset with state := tgt, half := l.half, tx := l.tx, rx := l.rx, retries := l.retries, down := l.down, pairOut := l.pairOut,
                    departures := l.departures, txSeen := l.txSeen }

/-- Ten minutes in nanoseconds. -/
def tenMinutes : Nat := 600 * 10 ^ 9

/-- Port 7 has left ROUTED while the sideband heartbeat continues: the pair is over (Table 19-3). -/
def State.bridgeLeft (s : State) (i : Nat) : State :=
  if i / 4 = 7 ∧ s.pair.state = .paired ∧ (s.routedLinks 7).isEmpty = true ∧ s.now.toNat < s.pair.beatSide.toNat + 1000000 then
    s.afterNow.pairBreak
  else s

/-- A link leaves its state for TRAIN or OFF: its messages are refused, and so are those that waited to change to it; three departures
from ROUTED within ten minutes map its lane pair out (R411, R420, R424, Table 18-22). -/
def State.linkLeave (s : State) (i : Nat) (tgt : LState) (count : Bool) : State :=
  let l := s.link i
  let lost := l.heads
  let deps := if l.state = .routed then addTime l.departures s.now.toNat tenMinutes else l.departures
  let s1 := s.afterNow.modLink i (fun l =>
    { l.fresh tgt with down := if count then l.down + 1 else l.down, departures := deps, pairOut := l.pairOut || decide (3 ≤ deps.length) })
  let stuck := s1.net.held.filter (fun h => h.2.1 == i)
  let s2 := s1.modNet (fun n => { n with held := n.held.filter (fun h => h.2.1 != i) })
  ((lost ++ stuck.map (fun h => headMsg h.2.2.2)).foldl (fun s m => s.refuse m .peerUnreachable) (s2.releaseHeld i)).bridgeLeft i

/-- Whether a link is past TRAIN. -/
def Link.trained (l : Link) : Bool := l.state == .ident || l.state == .routed || l.state == .quarantined

/-! ### What a link reports (R444, R450, R452) -/

/-- A fault of a link, which ends nothing: a flit replayed, or the link lost (0 replay limit, 1 acknowledgement timeout, 2 loss of signal,
3 training). DESIGN CHOICE: the spec gives a lost link a syndrome and no class, and a replay no reason; both are corrected faults, and a
replay has reason 0 (log 165). -/
def State.linkFault (s : State) (i lseq reason : Nat) : State :=
  let lanes := if (s.link i).half then 2 else 4
  s.postCorrected (3000 + 4 * i + reason) (srcLink i)
    (FaultInfo.noCtx 0 .ok 0x20 i (lseq % 2 ^ 16 + lanes * 2 ^ 16 + reason * 2 ^ 24) 0 none none)

/-- LSEQ of the oldest flit that a link keeps, or else of the last one sent. -/
def Link.oldest (l : Link) : Nat := ((l.kept.head?).map (·.lseq)).getD l.txSeq.toNat

/-! ### Ports (Table 17-5) -/

/-- The links of a port. -/
def portLinks (n : Nat) : List Nat := (List.range 4).map (fun k => 4 * n + k)

/-- EN of a port written 1: its links train, unless a pair holds the port OFF (R479). -/
def State.portEnable (s : State) (n : Nat) : State :=
  if s.pair.portsHeld && n != 7 then s
  else (portLinks n).foldl (fun s i => if (s.link i).state = .off then s.modLink i (fun l => l.fresh .train) else s) s

/-- EN of a port written 0: its links drop their messages and are OFF. -/
def State.portDisable (s : State) (n : Nat) : State :=
  (portLinks n).foldl (fun s i => if (s.link i).state = .off then s else s.linkLeave i .off false) s

/-- ACCEPT: every QUARANTINED link of the port is ROUTED as wired (R429). -/
def State.portAccept (s : State) (n : Nat) : State :=
  ((portLinks n).foldl (fun s i =>
    if (s.link i).state = .quarantined then s.modLink i (fun l => { l with state := .routed, unreported := false }) else s) s).pumpAll

/-- The fields of LK_PORTn_CTL that are fixed while EN is 1. -/
def portFixed : Nat := mask 1 1 + mask 3 3 + mask 19 8 + mask 22 20

/-- A write of LK_PORTn_CTL. -/
def State.portWrite (s : State) (n v : Nat) : State :=
  let old := s.raw 0 (offPort n)
  let fixed := bit old 0 && differs v old portFixed
  s.installerWrite (offPort n) old v none fixed (fun s =>
    let s1 := s.setRaw 0 (offPort n) (Nat.land v (1 + portFixed))
    let s2 := if bit v 0 && !bit old 0 then s1.portEnable n else if bit old 0 && !bit v 0 then s1.portDisable n else s1
    if bit v 2 then s2.portAccept n else s2)

/-- PORT_ENABLE: a value with EN set is written. -/
def execPortEnable (n : PortId) (v : W64) (s : State) : Res :=
  let s := s.settleHost 0
  .next (s.portWrite n (setBits v.toNat 0 0 1))

/-- PORT_DISABLE: EN is written 0, the other fields as they read. -/
def execPortDisable (n : PortId) (s : State) : Res :=
  let s := s.settleHost 0
  .next (s.portWrite n (setBits (s.raw 0 (offPort n)) 0 0 0))

/-- ACCEPT: ACCEPT is written 1, the other fields as they read. -/
def execAccept (n : PortId) (s : State) : Res :=
  let s := s.settleHost 0
  .next (s.portWrite n (setBits (s.raw 0 (offPort n)) 2 2 1))

/-! ### Training and IDENT (R411, R427, R475) -/

/-- IDENT: the chip id, the port, the link index and the chip epoch. -/
def State.sendIdent (s : State) (i : Nat) : State :=
  s.control i mtIdent (s.chipId + (i / 4) * 2 ^ 12 + (i % 4) * 2 ^ 16 + s.net.epoch.toNat * 2 ^ 32) []

/-- LINK_TRAINED: on four lanes, or on two where four fail or a lane pair is mapped out; a failed training on four lanes maps the pair
out. A port whose cable has lost its supply does not train (R565). -/
def execLinkTrained (i : LinkId) (full : Bool) (s : State) : Res :=
  let l := s.link i
  .next (if l.state = .train ∧ s.md.cableOff.getLsbD (i.val / 4) = false then
      let half := l.pairOut || !full
      let s1 := s.modLink i (fun l => { l with state := .ident, half := half, pairOut := half })
      let s2 := if half && !l.half then s1.replaceEvent 5 i 0 else s1
      s2.reviewDegraded.sendIdent i
    else s)

/-- LINK_TRAIN_TIMEOUT: counted; the link trains again. -/
def execLinkTrainTimeout (i : LinkId) (s : State) : Res :=
  .next (if (s.link i).state = .train then
      (s.linkFault i (s.link i).txSeq.toNat 3).modLink i (fun l => { l with down := l.down + 1 })
    else s)

/-- IDENT_TIMEOUT: IDENT is sent again. -/
def execIdentTimeout (i : LinkId) (s : State) : Res := .next (if (s.link i).state = .ident then s.sendIdent i else s)

/-- LOSS_OF_SIGNAL. -/
def execLossOfSignal (i : LinkId) (s : State) : Res :=
  .next (if (s.link i).state = .routed ∨ (s.link i).state = .quarantined then
      (s.linkFault i (s.link i).txSeq.toNat 2).linkLeave i .train true
    else s)

/-- A retry failure: the link goes back to TRAIN (R413). -/
def State.linkFail (s : State) (i reason : Nat) : State :=
  let l := s.link i
  if l.trained then (s.linkFault i l.oldest reason).linkLeave i .train (l.state != .ident) else s

/-- LANE_ERROR_RATIO_CHECK: the lane pair is mapped out, and the link retrains on its other pair (Table 18-22, R475). -/
def execLaneErrorRatioCheck (i : LinkId) (s : State) : Res :=
  let s1 := s.modLink i (fun l => { l with pairOut := true })
  .next (if (s.link i).trained ∧ (s.link i).half = false then s1.linkLeave i .train ((s.link i).state != .ident) else s1)

/-! ### The wiring plan (R428) -/

/-- PLAN, PEER and PPORT of a port. -/
def State.planOf (s : State) (n : Nat) : Option (Nat × Nat) :=
  if s.fld 0 (offPort n) 3 3 = 1 then some (s.fld 0 (offPort n) 19 8, s.fld 0 (offPort n) 22 20) else none

/-- What a port observes: chip, port and link index named by the IDENT of its lowest link past TRAIN (Table 17-6). -/
def State.portSeen (s : State) (n : Nat) : Option (Nat × Nat × Nat) :=
  ((portLinks n).find? (fun i => (s.link i).trained && (s.link i).seen.isSome)).bind (fun i => (s.link i).seen)

/-- Whether a port trains and no link of it has left TRAIN. -/
def State.portTraining (s : State) (n : Nat) : Bool :=
  (portLinks n).any (fun i => (s.link i).state == .train) && (portLinks n).all (fun i => !(s.link i).trained)

/-- The state with a port's mismatches taken as reported. -/
def State.reported (s : State) (n : Nat) : State :=
  (portLinks n).foldl (fun s i => s.modLink i (fun l => { l with unreported := false })) s

/-- A WIRING_MISMATCH of a port (Table 17-13). -/
def State.wiringMismatch (s : State) (n : Nat) : State :=
  let bad := (List.range 4).filter (fun k => (s.link (4 * n + k)).unreported)
  let seen := ((bad.head?).bind (fun k => (s.link (4 * n + k)).seen)).getD (0, 0, 0)
  let plan := (s.planOf n).getD (0, 0)
  (s.reported n).postEvent [24] srcEngine 0x24
    (leBytes 1 n ++ leBytes 1 ((bad.map (fun k => 2 ^ k)).foldl (· + ·) 0) ++ leBytes 2 plan.1 ++ leBytes 1 plan.2 ++ leBytes 1 0
      ++ leBytes 2 seen.1 ++ leBytes 1 seen.2.1 ++ leBytes 1 seen.2.2)

/-- A WIRING_SWAP of two ports (Table 17-13). -/
def State.wiringSwap (s : State) (a b : Nat) (sa sb : Nat × Nat × Nat) : State :=
  ((s.reported a).reported b).postEvent [24] srcEngine 0x25
    (leBytes 1 a ++ leBytes 1 b ++ leBytes 2 sa.1 ++ leBytes 1 sa.2.1 ++ leBytes 1 0 ++ leBytes 2 sb.1 ++ leBytes 1 sb.2.1)

/-- A port with unreported mismatches decides: a swap where another port expects what it sees and sees what it expects; it waits while
such a port has not left TRAIN, unless the wait is over; else a mismatch. -/
def State.decideWiring (s : State) (n : Nat) (ovr : Bool) : State :=
  if (portLinks n).all (fun i => !(s.link i).unreported) then s
  else match s.portSeen n with
    | none => s
    | some a =>
      match (List.range 8).find? (fun b => b != n && s.planOf b == some (a.1, a.2.1)) with
      | none => s.wiringMismatch n
      | some b =>
        match s.portSeen b with
        | some x => if s.planOf n = some (x.1, x.2.1) then s.wiringSwap n b a x else s.wiringMismatch n
        | none => if s.portTraining b && !ovr then s else s.wiringMismatch n

/-- WIRING_WAIT_EXPIRY: 100 ms have passed. -/
def execWiringWaitExpiry (n : PortId) (s : State) : Res := .next (s.decideWiring n true)

/-! ### Epochs (R436 to R438) -/

/-- Whether a 16-bit epoch precedes another (R6, R436). -/
def epochBefore (a b : Nat) : Bool := (b + 2 ^ 16 - a) % 2 ^ 16 != 0 && decide ((b + 2 ^ 16 - a) % 2 ^ 16 < 2 ^ 15)

/-- The bytes of a transfer's tensor. -/
def State.xferLen (s : State) (x : Xfer) : Nat :=
  match s.launch? x.launch with
  | some l => ((TDesc.parse (s.stallsOf l.pitch) x.tensorOf).map (fun d => d.dataBytes true)).getD 0
  | none => 0

/-- The end of what sent a message, with a status: its collective, or its launch (R420, R439). -/
def State.sendEnds (s : State) (e : Sent) (st : Status) : State :=
  let s1 := (s.tellLanded e.stall e.chan st).modNet (fun n => { n with sent := n.sent.filter (fun x => !(x.msgid == e.msgid && x.xfer == e.xfer)) })
  match e.coll, s1.xferAt e.stall e.chan e.xfer with
  | some k, _ => s1.endColl k st
  | none, some x =>
    (match x.coll with
     | some k => s1.endColl k st
     | none => s1.xferErr e.stall e.chan x (.bad st 0))
  | none, none => s1

/-- Whether a type is a pair message's (R485). What a secondary has received whole is applied whatever its epoch (Table 19-5). -/
def pairType (t : Nat) : Bool := t == mtPairWrite || t == mtPairState || t == mtPairDigest || t == mtPairFail

/-- The chip to which a PSEND, or a window request, that waits in its channel is to go. -/
def State.waitsFor (s : State) (x : Xfer) : Option Nat :=
  let p := s.pitchOfLaunch x.launch
  if x.begun then none
  else if x.isWin then some (bits x.gval.toNat 11 0)
  else (s.boxOf p x).map (fun n => (s.outboxDest p n).1)

/-- A chip learns a new epoch of another (R438): old messages are dropped, sends end, credits and collectives go. -/
def State.newEpoch (s : State) (c e : Nat) : State :=
  let s1 := s.modNet (fun n => { n with epochs := Tab.set 0 n.epochs c (BitVec.ofNat 16 e) })
  let old := s1.net.arrived.filter (fun m => m.srcChip == c && epochBefore m.sepoch e && decide (m.mtype < 0x40) && !pairType m.mtype)
  let s2 := old.foldl (fun s m => s.takeMsg m) s1
  let s3 := (s2.net.sent.filter (fun x => x.dst == c)).foldl (fun s x => s.sendEnds x .peerReset) s2
  let s3 := (s3.allXfers.filter (fun y => s3.waitsFor y.2.2 == some c)).foldl (fun s y => s.xferErr y.1 y.2.1 y.2.2 (.bad .peerReset 0)) s3
  let s4 := (List.range 24).foldl (fun s p => (List.range 256).foldl (fun s n =>
    if !(s.creditsOf p n).isEmpty && s.pfld p (offObox n) 19 8 == c then s.setCredits p n [] else s) s) s3
  s4.endColls (fun k => k.members.any (fun m => fieldAt m 0 2 % 4096 == c)) .peerReset

/-- An epoch heard of a chip: taken if the present entry precedes it, or under FRESH if it differs (R436). -/
def State.learns (s : State) (c e : Nat) (fresh : Bool) : Bool :=
  epochBefore (s.epochOf c) e || (fresh && s.epochOf c != e)
def State.learnEpoch (s : State) (c e : Nat) (fresh : Bool) : State := if s.learns c e fresh then s.newEpoch c e else s

/-- PEER_EPOCH: a message that changes the table is forwarded once on every other live link (R437). -/
def execPeerEpoch (n : Nat) (s : State) : Res :=
  .next (match s.msg? n with
    | some m => if m.mtype ≠ mtPeerEpoch then s
      else
        let s1 := s.takeMsg m
        let c := bits m.arg 11 0
        let e := bits m.arg 31 16
        if s1.learns c e (bit m.arg 32) then (s1.newEpoch c e).sendEpoch c e (bit m.arg 32) m.link else s1
    | none => s)

/-- IDENT: the peer's epoch is learnt, and the link is checked against its plan. -/
def execIdent (n : Nat) (s : State) : Res :=
  .next (match s.msg? n with
    | some m => if m.mtype ≠ mtIdent then s
      else (match m.link with
        | none => s.takeMsg m
        | some i =>
          let a := m.arg
          let c := bits a 11 0
          let port := bits a 14 12
          let idx := bits a 17 16
          let s1 := ((s.takeMsg m).learnEpoch c (bits a 47 32) false).modLink i (fun l => { l with seen := some (c, port, idx) })
          if (s1.link i).state ≠ .ident then s1
          else if s1.planOf (i / 4) = some (c, port) ∧ idx = i % 4 then
            let s2 := (s1.modLink i (fun l => { l with state := .routed })).pumpAll
            (List.range 8).foldl (fun s n => s.decideWiring n false) s2
          else
            let s2 := s1.modLink i (fun l => { l with state := .quarantined, unreported := true })
            (List.range 8).foldl (fun s n => s.decideWiring n false) s2)
    | none => s)

/-! ### Flits (R412 to R415) -/

/-- The flits kept after those up to an ACK are dropped. -/
def keptAfter (l : List Kept) (ack : Nat) : List Kept := l.filter (fun f => epochBefore ack f.lseq)

/-- ACK and CREDIT of a flit are taken: the retry buffer and the places at the peer come free, and what waited is sent. -/
def Link.heard (l : Link) (b : List Byte) : Link :=
  let cr := fieldAt b 6 2
  let v := cr % 4
  { l with kept := keptAfter l.kept (fieldAt b 2 2),
           credit := if v < 3 then l.credit.setIfInBounds v (min 64 ((l.credit[v]?.getD 0) + cr / 4)) else l.credit }

/-- What waited at a link is sent, as far as places are free. -/
def State.flitPump (s : State) (i : Nat) : State := (State.pump ((s.link i).waiting.length) i s).releaseHeld i

/-- What every good flit says is taken. -/
def State.flitInfo (s : State) (i : Nat) (b : List Byte) : State := (s.modLink i (fun l => l.heard b)).flitPump i

/-- A place of a virtual channel comes free at this end; the next flit reports it (R414). -/
def Link.free (l : Link) (vc : Nat) : Link := { l with freed := l.freed.setIfInBounds vc ((l.freed[vc]?.getD 0) + 1) }

/-- A message that has arrived whole: it waits for the engine; its last flit still holds a place. A message other than a control message
is carried only on a ROUTED link (R411): on one in IDENT it waits for that link, on one QUARANTINED it is refused (DEDUCED, log entry
163). A window request that finds its queue full is refused: PEER_RESET while the chip is in reset (R438), ACCESS_DENIED otherwise (R421). -/
def State.arrive (s : State) (i vc route : Nat) (bs : List Byte) : State :=
  let off := decide (vc < 2) && (s.link i).state != .routed
  let m : Msg := ⟨s.net.nextMsg, some i, vc, 1, bs.take (48 + fieldAt bs 8 4), off, route⟩
  let s1 := s.modNet (fun n => { n with arrived := n.arrived ++ [m], nextMsg := n.nextMsg + 1 })
  if off && (s.link i).state != .ident then (s1.takeMsg m).refuse m .peerUnreachable
  else if m.mtype = mtWreq ∧ m.dst = s.chipId ∧ 64 ≤ (s.net.arrived.filter (fun x => x.mtype == mtWreq && x.dst == s.chipId)).length then
    (s1.takeMsg m).refuse m (if s.dieDown then .peerReset else .accessDenied)
  else s1

/-- Whether two messages have the same type and passed through the same mailbox from the same sender. -/
def Msg.sameFlow (m x : Msg) : Bool :=
  x.srcChip == m.srcChip && x.spitch == m.spitch && x.dst == m.dst && x.dpitch == m.dpitch && x.mbox == m.mbox && x.mtype == m.mtype

/-- Whether a message stands behind an earlier one of its flow, which the engine takes first (R419). -/
def State.behind (s : State) (m : Msg) : Bool := (s.net.arrived.takeWhile (fun x => x.id != m.id)).any m.sameFlow

/-- What a message meets before the engine takes it: it waits behind an earlier one of its flow (R419). One that came on a link not yet
ROUTED waits while that link is in IDENT, goes on once it is ROUTED, and is refused otherwise (R411, DEDUCED, log entry 163). -/
def State.onRoute (s : State) (m : Msg) (go : State) : State :=
  if s.behind m then s
  else match m.early, m.link with
  | true, some i =>
    if (s.link i).state = .routed then go
    else if (s.link i).state = .ident then s
    else (s.takeMsg m).refuse m .peerUnreachable
  | _, _ => go

/-- The state with an accepted flit's data joined to its message. A head or body flit gives its place back as its bytes leave it (DESIGN
CHOICE, log entry 164: a message may have more flits than a link has places); the last flit's place comes free with the message. -/
def State.assemble (s : State) (i kind vc : Nat) (data : List Byte) : State :=
  let a := (s.link i).arriving[vc]?.getD ([], 0)
  let e := s.raw 0 (offRtbl (fieldAt data 0 2 % 4096))
  let put := fun (x : List Byte × Nat) => s.modLink i (fun l => { l with arriving := l.arriving.setIfInBounds vc x })
  let free := fun (s : State) => s.modLink i (fun l => l.free vc)
  match kind with
  | 1 => free (put (data, e))
  | 2 => free (put (a.1 ++ data, a.2))
  | 3 => (put ([], 0)).arrive i vc a.2 (a.1 ++ data)
  | 4 => s.arrive i vc e data
  | _ => free s

/-- The replay after a retry request: the flits after the one named go again; a flit replayed 8 times fails the link (R413). -/
def State.replay (s : State) (i ack : Nat) : State :=
  let ks := (keptAfter (s.link i).kept ack).map (fun f => { f with replays := f.replays + 1 })
  let s1 := s.modLink i (fun l => { l with kept := ks, tx := l.tx + BitVec.ofNat 64 ks.length })
  let s2 := ks.foldl (fun (s : State) (f : Kept) => s.emit (.link i (fieldAt f.bytes 4 1) f.bytes)) s1
  if ks.any (fun f => decide (8 ≤ f.replays)) then s2.linkFail i 0
  else match ks with
    | [] => s2
    | f :: _ => s2.linkFault i f.lseq 0

/-- Whether a flit came whole: its CRC is right and its codeword was decodable. -/
def flitGood (b : List Byte) (fec : Bool) : Bool :=
  fec && b.length == 256 && fieldAt b 252 4 == (crc32 (b.take 252)).toNat

/-- A flit that arrives on a trained link. -/
def State.flitIn (s : State) (i : Nat) (b : List Byte) (fec : Bool) : State :=
  let l := s.link i
  let kind := fieldAt b 4 1
  let drop := (s.modLink i (fun l => { l with retries := l.retries + 1 })).sendFlit i 5 0 []
  if !flitGood b fec then (if kind = 0 then s else drop)
  else if kind = 0 then s.flitInfo i b
  else if kind = 5 then ((s.modLink i (fun l => l.heard b)).replay i (fieldAt b 2 2)).flitPump i
  else if fieldAt b 0 2 ≠ (l.rxSeq + 1).toNat then drop
  else
    let vc := fieldAt b 5 1 % 4
    ((s.modLink i (fun l => { l with rxSeq := l.rxSeq + 1, rx := l.rx + 1 })).flitInfo i b).assemble i kind vc ((b.drop 8).take 244)

/-- FLIT_RECEIVE. A link that has sent nothing since answers with an idle flit, which carries its ACK and CREDIT. -/
def execFlitReceive (i : LinkId) (flit : List Byte) (fec : Bool) (s : State) : Res :=
  .next (if !(s.link i).trained then s
    else
      let s1 := s.flitIn i flit fec
      if (s1.link i).trained && s1.out.length == s.out.length then s1.sendFlit i 0 0 [] else s1)

/-- RETRY_REQUEST. -/
def execRetryRequest (i : LinkId) (ack : BitVec 16) (s : State) : Res :=
  .next (if (s.link i).trained then s.replay i ack.toNat else s)

/-- LINK_ACK_TIMEOUT: a flit has gone unacknowledged for 10 µs. -/
def execLinkAckTimeout (i : LinkId) (s : State) : Res := .next (if (s.link i).kept.isEmpty then s else s.linkFail i 1)

end Sys2Proof.Machine
end

