-- ==== Sys2Proof/Machine/Security.lean ====
section
/-! DEFINITION. The security block: ID, ENROLL, REVOKE, POLICY, AUDIT_READ, AUDIT_ACK, AUDIT_SEAL, DEBUG_NONCE, CONSENT, RELOCK,
AUDIT_CHECKPOINT, DEBUG_UNLOCK, DEBUG_EXPIRY (spec 21 R516 to R524). The operands of a security command are the fields of its request;
`bad` says that the request's form is malformed. -/

namespace Sys2Proof.Machine

/-! ### Policy and signatures (R516 to R518) -/

/-- Fields of the policy word, in the bit positions of SEC_STAT [6:1] (Table 21-6). -/
def State.cosign (s : State) : Bool := s.sec.policy.getLsbD 0
def State.ialg (s : State) : Nat := bits s.sec.policy.toNat 2 1
def State.calg (s : State) : Nat := bits s.sec.policy.toNat 4 3
def State.debugAllowed (s : State) : Bool := s.sec.policy.getLsbD 5

/-- Bytes of a public key and of a signature of a scheme (R517). -/
def keyLen (scheme : Nat) : Nat := if scheme = 1 then 97 else 1952
def sigLen (scheme : Nat) : Nat := if scheme = 1 then 96 else 3312

/-- Whether a signature has its scheme's length and padding and verifies. -/
def sigOk (scheme : Nat) (key msg sig : List Byte) : Bool :=
  sig.length == sigLen scheme && (sig.drop 3309).all (· == 0) && Config.verify scheme key msg sig

/-- Whether bytes are signed by the present installer key. -/
def State.installerSigned (s : State) (msg sig : List Byte) : Bool :=
  match s.sec.installer with
  | some k => sigOk k.scheme k.bytes msg sig
  | none => false

/-- What a signed command signs: OP, the chip UID and COUNT, then the payload (R518). -/
def State.signedBytes (s : State) (op : Nat) (payload : List Byte) : List Byte :=
  leBytes 1 op ++ leBytes 16 s.chip.uid.toNat ++ leBytes 4 s.sec.count.toNat ++ payload

/-! ### Commands (Table 21-5) -/

/-- What a command comes to: its status, its response, and its effect. -/
structure SecDone where
  status : Status
  reply : List Byte
  act : State → State

/-- A refusal of a command. -/
def SecDone.refuse (st : Status) : SecDone := ⟨st, [], id⟩

/-- A command accepted. -/
def SecDone.accept (reply : List Byte) (act : State → State) : SecDone := ⟨.ok, reply, act⟩

/-- Commands that work while the audit book is stalled (R523). -/
def secWhileStalled (op : Nat) : Bool := op == 1 || op == 5 || op == 6 || op == 7

/-- A security command: its audit record is written before it takes effect, its response before RESULT (R521, R523, Table 21-4). -/
def State.secCmd (s : State) (op : Nat) (bad : Bool) (d : SecDone) : State :=
  let d := if bad then SecDone.refuse .badDescriptor
    else if s.sec.book.stalled && !secWhileStalled op then SecDone.refuse .accessDenied else d
  let s1 := d.act (s.audit
    { action := 0x03, role := 2, result := if d.status = .ok then 0 else 2, func := some 0, pitch := none, status := d.status.code,
      target := op, old := 0, new := 0, detail := [] })
  let s2 := s1.hostWrite none (s1.fld 0 offSecAddr 63 14 * 2 ^ 14 + 8192)
    (leBytes 2 d.status.code ++ leBytes 2 0 ++ leBytes 4 d.reply.length ++ d.reply)
  ({ s2 with sec := { s2.sec with result := d.status.code } }).setRaw 0 offSecCmd op

/-- The state with the security block changed. -/
def State.modSec (s : State) (f : Security → Security) : State := { s with sec := f s.sec }

/-- COUNT rises with a signed command that is accepted. -/
def State.countSigned (s : State) : State := s.modSec (fun x => { x with count := x.count + 1 })

/-- Which slots hold a key: bit 0 INSTALLER, bit 1 + p OPERATOR p. -/
def State.slotMask (s : State) : Nat :=
  b2n s.sec.installer.isSome + ((List.range 24).map (fun p => b2n (s.sec.operators[p]?.getD none).isSome * 2 ^ (p + 1))).foldl (· + ·) 0

/-- ID: UID, part, stepping B0, slot occupancy, policy and COUNT. -/
def execId (bad : Bool) (s : State) : Res :=
  let s := s.settleHost 0
  .next (s.secCmd 0x01 bad (.accept
    (leBytes 16 s.chip.uid.toNat
      ++ Config.secReply 0x01 [s.chip.part.code, 0xB0, s.slotMask, s.sec.policy.toNat, s.sec.count.toNat]) id))

/-- Whether an OPERATOR slot of a pitch may change: the pitch is OFF. -/
def State.slotMayChange (s : State) (p : Nat) : Bool := (s.pitch p).state == .off

/-- The state with an OPERATOR slot set. -/
def State.setOperator (s : State) (p : Nat) (k : Option Key) : State :=
  s.modSec (fun x => { x with operators := x.operators.setIfInBounds p k })

/-- What ENROLL comes to (R518). -/
def State.enroll (s : State) (slot scheme : Nat) (key sig : List Byte) : SecDone :=
  let k : Key := ⟨scheme, key⟩
  let signed := s.installerSigned (s.signedBytes 0x02 (Config.secPayload 0x02 [slot, scheme] key)) sig
  if !(slot == 2 || (decide (16 ≤ slot) && decide (slot < 40))) || !(scheme == 1 || scheme == 2) || key.length != keyLen scheme then
    .refuse .badDescriptor
  else if slot = 2 then
    if !bit s.ialg (scheme - 1) then .refuse .accessDenied
    else if s.sec.installer.isNone then
      (if s.livePitches.isEmpty then .accept [] (fun s => s.modSec (fun x => { x with installer := some k })) else .refuse .accessDenied)
    else if signed then .accept [] (fun s => (s.modSec (fun x => { x with installer := some k })).countSigned)
    else .refuse .accessDenied
  else if signed && s.slotMayChange (slot - 16) then .accept [] (fun s => (s.setOperator (slot - 16) (some k)).countSigned)
  else .refuse .accessDenied

/-- ENROLL. -/
def execEnroll (slot scheme : Nat) (key sig : List Byte) (bad : Bool) (s : State) : Res :=
  let s := s.settleHost 0
  .next (s.secCmd 0x02 bad (s.enroll slot scheme key sig))

/-- What REVOKE comes to (R518). -/
def State.revoke (s : State) (slot : Nat) (sig : List Byte) : SecDone :=
  let signed := s.installerSigned (s.signedBytes 0x03 (Config.secPayload 0x03 [slot] [])) sig
  if slot = 2 then
    if signed && s.livePitches.isEmpty then
      .accept [] (fun s => (s.modSec (fun x =>
        { x with installer := none, operators := Vector.replicate 24 none, policy := Security.reset.policy })).countSigned)
    else .refuse .accessDenied
  else if 16 ≤ slot ∧ slot < 40 then
    if signed && s.slotMayChange (slot - 16) then .accept [] (fun s => (s.setOperator (slot - 16) none).countSigned)
    else .refuse .accessDenied
  else .refuse .badDescriptor

/-- REVOKE. -/
def execRevoke (slot : Nat) (sig : List Byte) (bad : Bool) (s : State) : Res :=
  let s := s.settleHost 0
  .next (s.secCmd 0x03 bad (s.revoke slot sig))

/-- What POLICY comes to. A checkpoint scheme of 0 is none that Table 21-6 names. -/
def State.setPolicy (s : State) (w : BitVec 6) (sig : List Byte) : SecDone :=
  if bits w.toNat 4 3 = 0 then .refuse .badDescriptor
  else if s.installerSigned (s.signedBytes 0x04 (Config.secPayload 0x04 [w.toNat] [])) sig then
    .accept [] (fun s => (s.modSec (fun x => { x with policy := w })).countSigned)
  else .refuse .accessDenied

/-- POLICY. -/
def execPolicy (w : BitVec 6) (sig : List Byte) (bad : Bool) (s : State) : Res :=
  let s := s.settleHost 0
  .next (s.secCmd 0x04 bad (s.setPolicy w sig))

/-! ### The audit book (R522, R523) -/

/-- The slots of the book, oldest first. -/
def Book.inOrder (b : Book) : List (Nat × List Byte) :=
  ((b.slots.filter (fun e => decide (b.point ≤ e.1))) ++ (b.slots.filter (fun e => decide (e.1 < b.point)))).map (·.2)

/-- AUDIT_READ: slots from a record on are copied to host memory. -/
def execAuditRead (first count : Nat) (addr : W64) (bad : Bool) (s : State) : Res :=
  let s := s.settleHost 0
  let found := ((s.sec.book.inOrder.filter (fun e => decide (first ≤ e.1))).take count).map (·.2)
  .next (s.secCmd 0x05 bad (.accept (Config.secReply 0x05 [found.length]) (fun s =>
    if found.isEmpty then s else s.hostWrite none addr.toNat found.flatten)))

/-- The segment that the write point needs next. -/
def Book.nextSeg (b : Book) : Nat := if b.point % segSlots = 0 then b.point / segSlots else (b.point / segSlots + 1) % bookSegs

/-- The book with the records up to an ASEQ acknowledged; an older one is ignored. STALLED clears once the next segment is free. -/
def Book.ack (b : Book) (aseq : Nat) : Book :=
  let b1 := { b with acked := max b.acked (aseq + 1) }
  { b1 with stalled := b1.stalled && !b1.erasable b1.nextSeg }

/-- AUDIT_ACK. -/
def execAuditAck (aseq : Nat) (bad : Bool) (s : State) : Res :=
  let s := s.settleHost 0
  .next (s.secCmd 0x06 bad (.accept (Config.secReply 0x06 [(s.sec.book.ack aseq).free]) (fun s => s.setBook (s.sec.book.ack aseq))))

/-- Bytes cut into slots of 128, the last one filled with zeros. -/
def slotsOf : Nat → List Byte → List (List Byte)
  | 0, _ => []
  | n + 1, bs => (bs.take 128 ++ List.replicate (128 - min 128 bs.length) 0) :: slotsOf n (bs.drop 128)

/-- The continuation slots of a checkpoint: DEVICE_ID signatures over its 128 bytes under the schemes of CALG. -/
def sealSlots (calg : Nat) (body : List Byte) : List (List Byte) :=
  (if bit calg 0 then slotsOf 1 ((Config.sign 1 body).take 96) else [])
    ++ (if bit calg 1 then slotsOf 26 ((Config.sign 2 body).take 3309) else [])

/-- A checkpoint (R522): its record, then its continuation slots; every record is covered. -/
def State.checkpoint (s : State) : State :=
  let n := s.sec.book.next
  let s1 := s.audit { action := 0x40, role := 4, result := 0, func := none, pitch := none, status := 0, target := 0, old := 0, new := 0,
                      detail := leBytes 1 s.calg }
  let b := s1.sec.book
  if b.next = n then s1
  else
    let body := (Tab.get (0, []) b.slots ((b.point + bookSegs * segSlots - 1) % (bookSegs * segSlots))).2
    let b1 := (sealSlots s.calg body).foldl (fun (b : Book) (x : List Byte) => (b.put n x).getD b) b
    s1.setBook { b1 with open' := 0, sealedAt := n }

/-- AUDIT_SEAL: the record of the command itself does not count as one that is uncovered. -/
def execAuditSeal (bad : Bool) (s : State) : Res :=
  let s := s.settleHost 0
  let b := s.sec.book
  let none' := b.open' == 0 || ((b.put 0 []).bind (fun b => b.put 0 [])).isNone
  let n := if none' then s.sec.book.sealedAt else s.sec.book.next + 1
  .next (s.secCmd 0x07 bad (.accept (Config.secReply 0x07 [n]) (fun s => if none' then s else s.checkpoint)))

/-- AUDIT_CHECKPOINT: due after 256 records, or 60 s after the oldest that is not covered. -/
def execAuditCheckpoint (s : State) : Res :=
  let b := s.sec.book
  .next (if 256 ≤ b.open' ∨ (0 < b.open' ∧ b.oldest.toNat + 60 * 10 ^ 9 ≤ s.now.toNat) then s.afterNow.checkpoint else s)

/-! ### Maker debug (R524) -/

/-- The next nonce, 32 bytes. -/
def State.nextNonce (s : State) : List Byte := (Config.nonce s.sec.nonces ++ List.replicate 32 0).take 32

/-- DEBUG_NONCE: a fresh nonce; the old one, and a token that names it, are void. -/
def execDebugNonce (bad : Bool) (s : State) : Res :=
  let s := s.settleHost 0
  .next (s.secCmd 0x08 bad (.accept s.nextNonce (fun s => s.modSec (fun x =>
    { x with nonces := x.nonces + 1, nonce := some s.nextNonce, consent := if x.unlocked then x.consent else none }))))

/-- What CONSENT comes to (Table 21-9). -/
def State.consentDone (s : State) (t : List Byte) : SecDone :=
  let scheme := fieldAt t 4 1
  let body := t.take 64
  if t.length != 64 + sigLen scheme || fieldAt t 0 4 != 0x43534E54 || !(scheme == 1 || scheme == 2) || bits (fieldAt t 5 1) 7 4 != 0
      || !zeroAt t 6 2 then .refuse .badDescriptor
  else if s.debugAllowed && s.livePitches.isEmpty && s.sec.installer.map (·.scheme) == some scheme
      && fieldAt t 8 16 == s.chip.uid.toNat && s.sec.nonce == some ((t.drop 24).take 32) && s.installerSigned body (t.drop 64) then
    .accept [] (fun s => s.modSec (fun x => { x with consent := some body, nonce := none }))
  else .refuse .accessDenied

/-- CONSENT. -/
def execConsent (token : List Byte) (bad : Bool) (s : State) : Res :=
  let s := s.settleHost 0
  .next (s.secCmd 0x09 bad (s.consentDone token))

/-- RELOCK. -/
def execRelock (bad : Bool) (s : State) : Res :=
  let s := s.settleHost 0
  .next (s.secCmd 0x0A bad (.accept [] State.relock))

/-- NOT_AFTER and SCOPE of the consent loaded. -/
def State.notAfter (s : State) : Nat := fieldAt (s.sec.consent.getD []) 56 8
def State.debugScope (s : State) : Nat := fieldAt (s.sec.consent.getD []) 5 1

/-- DEBUG_UNLOCK: the maker's signature over the consent token's bytes 0 to 63 opens JTAG within SCOPE. -/
def execDebugUnlock (scheme : Nat) (sig : List Byte) (s : State) : Res :=
  let ok := (match s.sec.consent with
    | some c => s.debugAllowed && s.livePitches.isEmpty && !s.sec.unlocked && decide (s.now.toNat ≤ s.notAfter)
        && (scheme == 1 || scheme == 2) && sigOk scheme (Config.makerKey scheme) c sig
    | none => false)
  let s1 := s.afterNow.audit
    { action := 0x30, role := 1, result := if ok then 0 else 2, func := none, pitch := none,
      status := if ok then 0 else Status.accessDenied.code, target := 0, old := 0, new := 0, detail := leBytes 1 s.debugScope }
  .next (if ok then s1.modSec (fun x => { x with unlocked := true }) else s1)

/-- DEBUG_EXPIRY: FK time has passed NOT_AFTER. -/
def execDebugExpiry (s : State) : Res :=
  .next (if s.sec.unlocked ∧ s.notAfter < s.now.toNat then s.afterNow.relock else s)

end Sys2Proof.Machine
end

