-- ==== Sys2Proof/Machine/Firmware.lean ====
section
/-! DEFINITION. Firmware update: FW_OPEN, FW_BLOCK, FW_COMMIT, FW_ACTIVATE, FW_CONFIRM, FW_TRIAL_FAILURE (spec 21 R525 to R533). A
component is named by its code, 1 to 5. -/

namespace Sys2Proof.Machine

/-! ### Components and slots (Tables 21-10, 21-11) -/

/-- A component by its code; a code with no component reads as one as shipped. -/
def State.comp (s : State) (c : Nat) : FwComp := s.fw.comps[c - 1]?.getD FwComp.reset

/-- The state with the firmware changed. -/
def State.modFw (s : State) (f : Firmware → Firmware) : State := { s with fw := f s.fw }

/-- The state with a component changed. -/
def State.modComp (s : State) (c : Nat) (f : FwComp → FwComp) : State :=
  s.modFw (fun x => { x with comps := x.comps.setIfInBounds (c - 1) (f (x.comps[c - 1]?.getD FwComp.reset)) })

/-- The slot whose image runs when no trial does, and the other one. -/
def FwComp.active (c : FwComp) : FwSlot := if c.b.st = .active then c.b else c.a
def FwComp.spare (c : FwComp) : FwSlot := if c.b.st = .active then c.a else c.b

/-- The component with its active slot, or its other slot, changed. -/
def FwComp.setActive (c : FwComp) (x : FwSlot) : FwComp := if c.b.st = .active then { c with b := x } else { c with a := x }
def FwComp.setSpare (c : FwComp) (x : FwSlot) : FwComp := if c.b.st = .active then { c with a := x } else { c with b := x }

/-- Fields of a component entry (Table 21-13). -/
def entSvn (e : List Byte) : Nat := fieldAt e 2 2
def entVersion (e : List Byte) : Nat := fieldAt e 4 4
def entLength (e : List Byte) : Nat := fieldAt e 8 4
def entRaise (e : List Byte) : Bool := bit (fieldAt e 1 1) 0

/-- Bytes of an image that a slot of a component holds at most: its size less 16 KiB (R525). -/
def slotBytes (c : Nat) : Nat := (if c = 5 ∨ c = 3 then 8 else 4) * 2 ^ 20 - 2 ^ 14

/-- Components in activation order (Table 21-10). -/
def actOrder : List Nat := [5, 4, 3, 2, 1]

/-! ### Consistency (R528) -/

/-- Whether the COMPAT range of one entry accepts the version of another component. -/
def compatTakes (e : List Byte) (c v : Nat) : Bool :=
  decide (fieldAt e (64 + 8 * (c - 1)) 4 ≤ v) && decide (v ≤ fieldAt e (68 + 8 * (c - 1)) 4)

/-- Whether a set of images, one entry for each component, is consistent. -/
def setOk (f : Nat → List Byte) : Bool :=
  actOrder.all (fun c => actOrder.all (fun d => c == d || compatTakes (f c) d (entVersion (f d))))

/-- The sets of a bundle's sequence, from the one given: its components replaced one at a time in activation order. -/
def setSeq (f : Nat → List Byte) : List (Nat × List Byte) → List (Nat → List Byte)
  | [] => []
  | (c, e) :: rest =>
    let g := fun x => if x = c then e else f x
    g :: setSeq g rest

/-- The present active set. -/
def State.activeSet (s : State) : Nat → List Byte := fun c => (s.comp c).active.entry

/-! ### The session and its status block (R532, R533) -/

/-- The code of a component's new slot in the status block: 7 for one that is not in the bundle. -/
def State.newCode (s : State) (x : FwSess) (c : Nat) : Nat :=
  if !x.comps.contains c then 7
  else match (s.comp c).spare.st with
    | .previous => 5
    | st => st.code

/-- Trial starts used by a component's new slot. -/
def State.newTrials (s : State) (x : FwSess) (c : Nat) : Nat :=
  if !x.comps.contains c then 0
  else if (s.comp c).spare.st = .previous then (s.comp c).active.trials else (s.comp c).spare.trials

/-- The session status block written (Table 21-16). -/
def State.fwStatus (s : State) (x : FwSess) (openNow : Bool) : State :=
  let n := x.sseq + 1
  let t := s.stamp srcClerk
  let cs := [1, 2, 3, 4, 5]
  let b := leBytes 8 t.toNat ++ leBytes 2 srcClerk ++ leBytes 4 n.toNat ++ leBytes 4 x.bundle
    ++ cs.flatMap (fun c => leBytes 1 (s.newCode x c)) ++ cs.flatMap (fun c => leBytes 1 (s.newTrials x c))
    ++ leBytes 2 x.reason ++ leBytes 1 x.rcomp ++ leBytes 1 (b2n openNow) ++ leBytes 4 x.blocks ++ List.replicate 28 0
  ((s.afterStamp srcClerk).hostWrite none x.status.toNat b).modFw (fun f => { f with sess := f.sess.map (fun y => { y with sseq := n }) })

/-- A change of the session, with its status block. -/
def State.fwNote (s : State) : State :=
  match s.fw.sess with
  | some x => s.fwStatus x true
  | none => s

/-- The end of a session: every slot still LOADING or COMMITTED is erased (R532). -/
def State.fwEnd (s : State) : State :=
  match s.fw.sess with
  | none => s
  | some x =>
    let s1 := actOrder.foldl (fun s c =>
      if (s.comp c).spare.st = .loading ∨ (s.comp c).spare.st = .committed then s.modComp c (fun y => y.setSpare FwSlot.blank) else s) s
    (s1.fwStatus x false).modFw (fun f => { f with sess := none })

/-- Whether a component of the bundle has come to ACTIVE or FAILED. -/
def State.fwDone (s : State) (c : Nat) : Bool := (s.comp c).spare.st == .previous || (s.comp c).spare.st == .failed

/-- After a change of a slot: the status block, and the end of a session whose components are all ACTIVE or FAILED. -/
def State.fwChanged (s : State) : State :=
  match s.fw.sess with
  | none => s
  | some x => if x.comps.all s.fwDone then s.fwNote.fwEnd else s.fwNote

/-! ### FW_OPEN (R527, R529) -/

/-- NCOMP of a header, its entries, and the bytes that the maker signs. -/
def hdrCount (h : List Byte) : Nat := fieldAt h 6 1
def hdrEntries (h : List Byte) : List (List Byte) := (List.range (hdrCount h)).map (fun i => (h.drop (64 + 128 * i)).take 128)
def hdrSigned (h : List Byte) : List Byte := h.take (64 + 128 * hdrCount h)
def hdrCosigned (h : List Byte) : Bool := bit (fieldAt h 10 1) 0

/-- The component that an entry names. -/
def entComp (e : List Byte) : Nat := fieldAt e 0 1

/-- Whether an entry's fields are in range and its reserved ones zero. -/
def entryOk (e : List Byte) : Bool :=
  decide (1 ≤ entComp e) && decide (entComp e ≤ 5) && bits (fieldAt e 1 1) 7 1 == 0 && zeroAt e 12 4
    && zeroAt e (64 + 8 * (entComp e - 1)) 8 && zeroAt e 104 24

/-- The two signatures of a header. -/
def hdrMsig (h : List Byte) : List Byte := (h.drop (64 + 128 * hdrCount h)).take (sigLen (fieldAt h 7 1))
def hdrCsig (h : List Byte) : List Byte := h.drop (64 + 128 * hdrCount h + sigLen (fieldAt h 7 1))

/-- Check 1 of FW_OPEN. -/
def State.hdrForm (s : State) (h : List Byte) (hlen : Nat) : Bool :=
  let cos := (match s.sec.installer with
    | some k => (hdrCsig h).length == sigLen k.scheme
    | none => (hdrCsig h).length == sigLen 1 || (hdrCsig h).length == sigLen 2)
  h.length == hlen && decide (hlen ≤ 2 ^ 14) && fieldAt h 0 4 == 0x46424E44 && fieldAt h 4 2 == 1 && decide (1 ≤ hdrCount h)
    && decide (hdrCount h ≤ 5) && (fieldAt h 7 1 == 1 || fieldAt h 7 1 == 2) && bits (fieldAt h 8 1) 7 3 == 0
    && bits (fieldAt h 10 1) 7 1 == 0 && zeroAt h 11 1 && zeroAt h 16 48 && (hdrEntries h).all entryOk
    && ((hdrEntries h).map entComp).eraseDups.length == hdrCount h && (hdrMsig h).length == sigLen (fieldAt h 7 1)
    && (if hdrCosigned h then cos else (hdrCsig h).isEmpty)

/-- A bundle's components with their entries, in activation order. -/
def hdrOrder (h : List Byte) : List (Nat × List Byte) :=
  actOrder.filterMap (fun c => ((hdrEntries h).find? (fun e => entComp e == c)).map (fun e => (c, e)))

/-- Whether any slot is ARMED or in TRIAL. -/
def State.inTrial (s : State) : Bool := actOrder.any (fun c => (s.comp c).spare.st == .armed || (s.comp c).spare.st == .trial)

/-- The first failing check of FW_OPEN (R529). -/
def State.openFails (s : State) (h : List Byte) (hlen : Nat) (abort : Bool) : Option Status :=
  let alg := fieldAt h 7 1
  if !s.hdrForm h hlen then some .badDescriptor
  else if !bit (fieldAt h 8 1) s.chip.part.code || fieldAt h 9 1 != 0xB0 then some .badDescriptor
  else if !sigOk alg (Config.makerKey alg) (hdrSigned h) (hdrMsig h) then some .accessDenied
  else if s.cosign && !(hdrCosigned h && s.installerSigned (hdrSigned h ++ hdrMsig h) (hdrCsig h)) then some .accessDenied
  else if (hdrEntries h).any (fun e => decide (entSvn e < (s.comp (entComp e)).floor)) then some .accessDenied
  else if (hdrEntries h).any (fun e => decide (slotBytes (entComp e) < entLength e)) then some .badDescriptor
  else if !(setSeq s.activeSet (hdrOrder h)).all setOk then some .badDescriptor
  else if (s.fw.sess.isSome && !abort) || s.inTrial then some .badDescriptor
  else none

/-- A firmware descriptor that starts and completes, with its audit record (R521, R529). -/
def State.fwEndHead (s : State) (q : Nat) (d : Desc) (st : Status) (act : State → State) : State :=
  let s1 := s.auditDesc q d none st
  (if st = .ok then act s1 else s1).endHead q d.hseq st 0

/-- A session opened: the named components' inactive slots are erased and LOADING. -/
def State.fwOpen (s : State) (h : List Byte) (status : W64) : State :=
  let s1 := (hdrOrder h).foldl (fun (s : State) (x : Nat × List Byte) =>
    s.modComp x.1 (fun y => y.setSpare ⟨.loading, x.2, [], 0⟩)) s.fwEnd
  (s1.modFw (fun f => { f with sess := some ⟨fieldAt h 12 4, (hdrOrder h).map (·.1), status, 0, 0, 0, 0⟩ })).fwNote

/-- FW_OPEN: `hdr` is what the read of the bundle header returned. -/
def execFwOpen (q : QueueId) (hdr : List Byte) (s : State) : Res :=
  .next (s.startRow q 0x60 (fun s _ d =>
    let hlen := fieldAt d.bytes 16 4
    let h := hdr.take hlen
    let abort := bit (fieldAt d.bytes 20 1) 0
    match s.openFails h hlen abort with
    | some st => s.fwEndHead q d st id
    | none => s.fwEndHead q d .ok (fun s => s.fwOpen h (BitVec.ofNat 64 (fieldAt d.bytes 24 8)))))

/-! ### FW_BLOCK and FW_COMMIT -/

/-- FW_BLOCK: `data` is what the read of the block returned. -/
def execFwBlock (q : QueueId) (data : List Byte) (s : State) : Res :=
  .next (s.startRow q 0x61 (fun s _ d =>
    let c := fieldAt d.bytes 8 1
    let off := fieldAt d.bytes 12 4
    let len := fieldAt d.bytes 16 4
    let x := (s.comp c).spare
    let size := entLength x.entry
    if c = 0 || decide (5 < c) || x.st != .loading || decide (size < off + len) || (len % 4096 != 0 && off + len != size) then
      s.fwEndHead q d .badDescriptor id
    else s.fwEndHead q d .ok (fun s =>
      let bs := (data ++ List.replicate len 0).take len
      let s1 := s.modComp c (fun y => y.setSpare { x with image := bs.zipIdx.foldl (fun t b => Tab.put t (off + b.2) b.1) x.image })
      (s1.modFw (fun f => { f with sess := f.sess.map (fun y => { y with blocks := y.blocks + 1 }) })).fwNote)))

/-- The first `n` bytes of a slot's image; a byte that no block has written is what the erased flash holds. -/
def FwSlot.bytes (x : FwSlot) (n : Nat) : List Byte := (List.range n).map (fun i => (Tab.find x.image i).getD (Config.erasedByte i))

/-- FW_COMMIT. -/
def execFwCommit (q : QueueId) (s : State) : Res :=
  .next (s.startRow q 0x62 (fun s _ d =>
    let c := fieldAt d.bytes 8 1
    let x := (s.comp c).spare
    if c = 0 || decide (5 < c) || x.st != .loading || Config.sha384 (x.bytes (entLength x.entry)) != (x.entry.drop 16).take 48 then
      s.fwEndHead q d .badDescriptor id
    else s.fwEndHead q d .ok (fun s => (s.modComp c (fun y => y.setSpare { x with st := .committed })).fwChanged)))

/-! ### FW_ACTIVATE (R529, R530) -/

/-- What refuses FW_ACTIVATE. -/
def State.activateFails (s : State) (c : Nat) : Bool :=
  let earlier := (actOrder.takeWhile (· != c)).filter (fun e => match s.fw.sess with
    | some x => x.comps.contains e
    | none => false)
  c == 0 || decide (5 < c) || (s.comp c).spare.st != .committed || !earlier.all s.fwDone || s.inTrial
    || !setOk (fun x => if x = c then (s.comp c).spare.entry else s.activeSet x)

/-- An audit record of a firmware event: the component, the two versions, and the bundle (Table 21-8). -/
def State.fwAudit (s : State) (action c old new : Nat) : State :=
  s.auditDevice action c old new (leBytes 4 ((s.fw.sess.map (·.bundle)).getD 0))

/-- A trial start of a component's new image. -/
def State.trialStart (s : State) (c : Nat) : State :=
  let y := s.comp c
  (s.fwAudit 0x20 c (entVersion y.active.entry) (entVersion y.spare.entry)).modComp c (fun y =>
    y.setSpare { y.spare with st := .trial, trials := y.spare.trials + 1 })

/-- The stalls that hold a launch. -/
def State.heldStalls (s : State) : BitVec 48 :=
  BitVec.ofNat 48 (((List.range 48).map (fun st => b2n (s.stallHeld st) * 2 ^ st)).foldl (· + ·) 0)

/-- An activation of a component other than LINK. MEMC waits for the next chip reset; STALL is taken by each stall when it holds no
launch. -/
def State.activate (s : State) (c : Nat) : State :=
  if c = 4 then (s.modComp c (fun y => y.setSpare { y.spare with st := .armed })).fwChanged
  else if c = 3 then
    ((s.afterNow.modFw (fun f => { f with stale := s.heldStalls, staleFrom := s.now })).trialStart c).fwChanged
  else (s.trialStart c).fwChanged

/-- A port takes the LINK image: its links leave their states and retrain. -/
def State.portTakes (s : State) (q : Nat) (h : W32) (n : Nat) : State :=
  let before := (portLinks n).map (fun i => (s.link i).state)
  let s1 := (portLinks n).foldl (fun s i => if (s.link i).state = .off then s else s.linkLeave i .train true) s
  s1.modFw (fun f => { f with port := some (q, h, n, before) })

/-- Whether the links of a port are back in the states that they held. -/
def State.portBack (s : State) (n : Nat) (before : List LState) : Bool := (portLinks n).map (fun i => (s.link i).state) == before

/-- FW_ACTIVATE. LINK is taken port by port: each time the command runs while the last port is back, the next one takes the image, and
after port 7 the trial starts and the descriptor completes. -/
def execFwActivate (q : QueueId) (s : State) : Res :=
  .next (s.startRow q 0x63 (fun s _ d =>
    let c := fieldAt d.bytes 8 1
    if s.activateFails c then s.fwEndHead q d .badDescriptor id
    else if c ≠ 5 then s.fwEndHead q d .ok (fun s => s.activate c)
    else match s.fw.port with
      | some (q', h, n, before) =>
        if q' ≠ q.val ∨ h ≠ d.hseq then s.portTakes q d.hseq 0
        else if !s.portBack n before then s
        else if n < 7 then s.portTakes q d.hseq (n + 1)
        else (s.modFw (fun f => { f with port := none })).fwEndHead q d .ok (fun s => s.activate c)
      | none => s.portTakes q d.hseq 0))

/-! ### Trials (R526, Table 21-11) -/

/-- FW_CONFIRM: the image in trial becomes ACTIVE and the other slot PREVIOUS; the floor rises with RAISE. -/
def execFwConfirm (c : FwId) (s : State) : Res :=
  let k := c.val + 1
  let y := s.comp k
  .next (if y.spare.st = .trial then
      let e := y.spare.entry
      let now : FwSlot := { y.spare with st := .active }
      let old : FwSlot := { y.active with st := .previous }
      let y' : FwComp := if y.b.st = .active then { y with a := now, b := old } else { y with a := old, b := now }
      let s1 := s.fwAudit 0x21 k (entVersion y.active.entry) (entVersion e)
      (s1.modComp k (fun _ => { y' with floor := if entRaise e then max y.floor (entSvn e) else y.floor })).fwChanged
    else s)

/-- FW_TRIAL_FAILURE: the window has passed or the component has stopped. The first trial start is followed by a second on the same image;
the second by the other slot's image. -/
def execFwTrialFailure (c : FwId) (s : State) : Res :=
  let k := c.val + 1
  let y := s.comp k
  .next (if y.spare.st = .trial then
      (if y.spare.trials < 2 then (s.trialStart k).fwChanged
       else
         let s1 := s.fwAudit 0x22 k (entVersion y.spare.entry) (entVersion y.active.entry)
         let s2 := s1.modComp k (fun y => y.setSpare { y.spare with st := .failed })
         (s2.modFw (fun f => { f with sess := f.sess.map (fun x => { x with reason := Status.hwFault.code, rcomp := k }) })).fwChanged)
    else s)

end Sys2Proof.Machine
end

