-- ==== Sys2Proof/Machine/Messages.lean ====
section
/-! DEFINITION. Messages that arrive: DATA, ACK, REFUSE, CREDIT, WREQ, WRESP, COLL_END, THERMAL_SLOW, SLOW_LIMIT_EXPIRY (spec 17 R417 to
R425, R430 to R442; 06 R166, R172, R173; 16 R402). -/

namespace Sys2Proof.Machine

/-! ### What every message meets (R420, R422, R425, R436, R438) -/

/-- A message for another chip goes on its way, or is refused where it has none. -/
def State.passOn (s : State) (m : Msg) : State :=
  let inPort := m.link.map (· / 4)
  if (s.routeBy inPort m.route).isSome then s.forwardBy m.route inPort m.vc m.bytes else s.refuse m .peerUnreachable

/-- A message for the chip id of a package that has stood down, forwarded over port 7 (R487). -/
def State.overBridge (s : State) (m : Msg) : State :=
  match pickLink (s.routedLinks 7) m.srcChip m.dst m.mbox with
  | some i => s.queueOn i 0 m.msgid m.bytes
  | none => s.refuse m .peerUnreachable

/-- A message of a type taken by the engine: passed on; refused during a chip reset; its epochs taken and checked; then its effect. -/
def State.msgRow (s : State) (n mt : Nat) (act : State → Msg → State) : State :=
  match s.msg? n with
  | none => s
  | some m =>
    if m.mtype ≠ mt then s
    else s.onRoute m
      (if m.dst ≠ s.chipId then (s.takeMsg m).passOn m
       else if s.pair.state = .stoodDown ∧ (m.link.map (· / 4)) ≠ some 7 then (s.takeMsg m).overBridge m
       else if s.dieDown then (s.takeMsg m).refuse m .peerReset
       else
         let s1 := s.learnEpoch m.srcChip m.sepoch false
         if epochBefore m.sepoch (s1.epochOf m.srcChip) then s1.takeMsg m
         else if m.depoch ≠ s1.net.epoch.toNat then (s1.takeMsg m).refuse m .peerReset
         else act s1 m)

/-! ### Acknowledgements, refusals, credits -/

/-- The entry of an outstanding message. -/
def State.sent? (s : State) (msgid : Nat) (win : Bool) : Option Sent := s.net.sent.find? (fun e => e.msgid == msgid && e.win == win)

/-- The state with an outstanding message answered. -/
def State.dropSent (s : State) (e : Sent) : State :=
  s.modNet (fun n => { n with sent := n.sent.filter (fun x => !(x.msgid == e.msgid && x.xfer == e.xfer)) })

/-- The transfer of an outstanding message has landed; a primary's partner is told. -/
def State.landed (s : State) (e : Sent) : State :=
  (s.modXfer e.stall e.chan e.xfer (fun x => { x with written := true, wrote := s.xferLen x })).tellLanded e.stall e.chan .ok

/-- ACK: the PSEND that sent the message may complete; one that answers nothing outstanding is discarded. -/
def execAck (n : Nat) (s : State) : Res :=
  .next (s.msgRow n mtAck (fun s m =>
    let s1 := s.takeMsg m
    let id := bits m.arg 31 0
    if s1.pair.sent.any (fun e => e.1 == id && (m.link.map (· / 4)) == some 7) then s1.pairAck id
    else match s1.sent? id false with
    | some e => if e.coll.isSome then s1.dropSent e else (s1.dropSent e).landed e
    | none => s1))

/-- An outstanding message is refused (Table 17-11): its credit goes back for PEER_UNREACHABLE alone, the SENT record carries the
status, and what sent it ends. -/
def State.refused (s : State) (e : Sent) (st : Status) : State :=
  let s1 := (match e.credit with
    | some (n, c) => if st = Status.peerUnreachable then s.setCredits e.pitch n (c :: s.creditsOf e.pitch n) else s
    | none => s)
  let dest := (match e.credit with
    | some (n, _) => s.outboxDest e.pitch n
    | none => (e.dst, 0, 0))
  ((s1.sentRec e.pitch e.stall e.chan dest st (((s.xferAt e.stall e.chan e.xfer).map s.xferLen).getD 0)).sendEnds e st).pumpAll

/-- REFUSE: the PSEND or window request ends with the status. -/
def execRefuse (n : Nat) (s : State) : Res :=
  .next (s.msgRow n mtRefuse (fun s m =>
    let s1 := s.takeMsg m
    match s1.net.sent.find? (fun e => e.msgid == bits m.arg 31 0), Status.ofCode (bits m.arg 47 32) with
    | some e, some st => s1.refused e st
    | _, _ => s1))

/-- CREDIT: a buffer is added to the FIFO of the outbound mailbox for its sender, or RESET empties it; one that matches no active
mailbox is discarded. -/
def execCredit (n : Nat) (s : State) : Res :=
  .next (s.msgRow n mtCredit (fun s m =>
    let s1 := s.takeMsg m
    let p := m.dpitch
    match s1.outboxFor p (m.srcChip, m.spitch, bits m.arg 31 24) with
    | none => s1
    | some o =>
      if bit m.arg 32 then s1.setCredits p o []
      else if 16 ≤ (s1.creditsOf p o).length then s1
      else (s1.setCredits p o (s1.creditsOf p o ++ [bits m.arg 23 0])).pumpAll))

/-! ### Gather steps that the engine forwards (R434) -/

/-- The bytes that a buffer holds. -/
def State.bufferBytes (s : State) (st : Nat) (x : Xfer) (d : TDesc) (p csr : Nat) : State × Except XErr (List FByte) :=
  match sideOf d x.dstHost with
  | .dev => (match s.devRuns p (some csr) d with
    | .ok rs => (s, .ok rs.flatten)
    | .error e => (s, .error e))
  | _ => let r := s.bayRuns (d.bayStall st) d
    (r.1, .ok r.2.flatten)

/-- One deposited chunk forwarded as the next step's message, once a credit is held. -/
def State.forwardChunk (s : State) (st ch : Nat) (x : Xfer) (k : Nat) : State :=
  match x.coll.bind (fun c => s.net.colls.find? (fun y => y.serial == c)), s.launch? x.launch with
  | some c, some l =>
    let dest := c.destOf k
    match s.outboxFor c.pitch dest with
    | none => s.endColl c.serial .accessDenied
    | some o =>
      if s.shadow then s.modXfer st ch x.serial (fun y => { y with fwd := none }) else
      match s.creditsOf c.pitch o, TDesc.parse (s.stallsOf l.pitch) x.d with
      | cr :: rest, some d =>
        if cr < x.wrote then s.endColl c.serial .badDescriptor
        else if !s.reachable dest.1 then (s.sentRec c.pitch st ch dest .peerUnreachable x.wrote).endColl c.serial .peerUnreachable
        else
          let r := s.bufferBytes st x d c.pitch l.csr.toNat
          match r.2 with
          | .error e => r.1.xferErr st ch x e
          | .ok fs =>
            (match firstFlag (fs.take x.wrote) with
             | some a => r.1.xferErr st ch x (.poison a)
             | none =>
               let s2 := r.1.setCredits c.pitch o rest
               let t := s2.sendMsg c.pitch st ch dest mtData c.job c.id k 0 (bare (fs.take x.wrote))
               (t.1.modNet (fun n => { n with sent := n.sent ++
                 [{ msgid := t.2, stall := st, chan := ch, xfer := x.serial, pitch := c.pitch, credit := some (o, cr), dst := dest.1,
                    win := false, granted := false, coll := some c.serial, time := s2.stamp (srcChan st ch), seq := s2.seqOf (srcChan st ch) }] })).modXfer st ch x.serial (fun y => { y with fwd := none }))
      | _, _ => s
  | _, _ => s.modXfer st ch x.serial (fun y => { y with fwd := none })

/-- Every chunk that may be forwarded now. -/
def State.pumpFwd (s : State) : State :=
  (s.allXfers.filter (fun y => y.2.2.fwd.isSome)).foldl (fun (s : State) (y : Nat × Nat × Xfer) =>
    match s.xferAt y.1 y.2.1 y.2.2.serial with
    | some x => (match x.fwd with
      | some k => s.forwardChunk y.1 y.2.1 x k
      | none => s)
    | none => s) s

/-! ### DATA (R418 to R420) -/

/-- The RECV record of a message: stamped later than its sending, with CLAMPED where that raises it (R402, Table 16-11). The record of a
deposit that was refused carries the status (R420), in the byte that Table 16-11 leaves (log entry 109). -/
def State.recvRec (s : State) (p st ch : Nat) (m : Msg) (status : Status) : State :=
  let src := srcChan st ch
  let clamped := decide (s.stamp src ≤ m.time)
  let s1 := if clamped then { s with srcLast := Tab.put s.srcLast src m.time } else s
  if s1.dbkTakes p .link then
    s1.postDbkF (if clamped then 2 else 0) [p] .link src 0x07
      (leBytes 2 m.srcChip ++ leBytes 1 m.spitch ++ leBytes 1 status.code ++ leBytes 2 m.mbox ++ leBytes 2 m.source ++ leBytes 4 m.len
        ++ leBytes 4 m.seq)
  else s1.afterStamp src

/-- ACK of a message deposited. -/
def State.sendAck (s : State) (m : Msg) : State :=
  s.engineSend (s.engineHead m.srcChip m.spitch m.mbox m.dpitch mtAck m.msgid) []

/-- The step as which a deposited chunk is to be forwarded: in a gather step other than its ring's last, the next (R434). -/
def Coll.nextHop (c : Coll) (step : Nat) : Option Nat :=
  match c.plan[step]? with
  | some (d, false, i) => if i + 2 < c.size d then some (step + 1) else none
  | _ => none

/-- The refusal of a message whose buffer has been withdrawn (R453); the spec gives no status for it. -/
def State.withdrawnStatus (s : State) : Status := if s.anyWord.getLsbD 0 then .peerReset else .accessDenied

/-- Message bytes stored from the start of a buffer, in its byte order; what lies beyond them keeps its contents. -/
def State.fill (s : State) (st : Nat) (x : Xfer) (d : TDesc) (data : List Byte) : Stored :=
  let runs := (cutBy d.runBytes data).map clean
  match sideOf d x.dstHost, s.launch? x.launch with
  | .dev, some l =>
    (match s.devRefuses l.pitch (some l.csr.toNat) d.storedBytes d.devRanges with
     | some e => .error e
     | none =>
       let who := some (s.ctxFaultInfo l (some st) .ok 0x02 x.ctx 0 0)
       .ok ((d.byteRuns.zip runs).foldl (fun s y => s.devStore l.pitch (some l.csr.toNat) who y.1.1 y.2) s))
  | _, _ => .ok (s.bayStoreRuns (d.bayStall st) d runs)

/-- A message deposited into a buffer: the data from its start, the record, the ACK, and the forwarding of a chunk. -/
def State.deposit (s : State) (p : Nat) (b : Posted) (m : Msg) : State :=
  match s.xferAt b.stall b.chan b.xfer with
  | none => s
  | some x =>
    match TDesc.parse (s.stallsOf p) x.d with
    | none => s
    | some d =>
      match s.fill b.stall x d m.data with
      | .error e => ((s.recvRec p b.stall b.chan m e.status).refuse m e.status).xferErr b.stall b.chan x e
      | .ok s1 =>
        let next := (match b.coll with
          | some (k, step) => (s1.net.colls.find? (fun c => c.serial == k)).bind (fun c => c.nextHop step)
          | none => none)
        (((s1.bufferCopy b.stall b.chan true m.data).recvRec p b.stall b.chan m .ok).modXfer b.stall b.chan b.xfer (fun x =>
          { x with written := true, wrote := m.len, fwd := next })).sendAck m

/-- DATA: deposited into the oldest buffer of its mailbox, or refused. -/
def execData (n : Nat) (s : State) : Res :=
  .next (s.msgRow n mtData (fun s m =>
    let p := m.dpitch
    let no := fun (st : Status) => (s.takeMsg m).refuse m st
    if 24 ≤ p || (s.pitch p).state != .running then no .peerReset
    else if !s.inboxActive p m.mbox || s.pfld p (offIbox m.mbox) 19 8 != m.srcChip || s.pfld p (offIbox m.mbox) 28 24 != m.spitch then
      no .accessDenied
    else if m.job != 0 && !s.net.colls.any (fun c => c.pitch == p && c.job == m.job && c.id == m.coll) then no .peerReset
    else match s.postedAt p m.mbox with
      | [] => s
      | b :: rest =>
        let s1 := (s.takeMsg m).setPosted p m.mbox rest
        if s.livePost b then (s1.deposit p b m).pumpAll.pumpFwd
        else (s1.refuse m s.withdrawnStatus).afterAny.pumpAll))

/-! ### Windows (R173, R421) -/

/-- Whether a window admits a request: from a chip, for bytes from a row on, in a direction. -/
def State.winAdmits (s : State) (w chip row bytes : Nat) (write : Bool) : Bool :=
  s.winOpen w && (s.fld 0 (offBayWin w) 52 52 == 1 || s.fld 0 (offBayWin w) 51 40 == chip)
    && s.fld 0 (offBayWin w) (if write then 2 else 1) (if write then 2 else 1) == 1
    && decide (s.winFirst w + row + ceilDiv bytes 1024 ≤ s.winLast w + 1)

/-- The bay address of a window's row. -/
def State.winAddr (s : State) (w row : Nat) : Nat := s.winBay w * 2 ^ 20 + (s.winFirst w + row) * 256

/-- WRESP to the chip that asked: read data, a grant of staging, or an acknowledgement. -/
def State.sendWresp (s : State) (m : Msg) (msgid : Nat) (data : List Byte) : State :=
  s.engineSend (s.engineHead m.srcChip m.spitch 0 m.dpitch mtWresp msgid) data

/-- WREQ: served against a window, or refused with an ERROR record. -/
def execWreq (n : Nat) (ups : List (Nat × BitVec 39)) (s : State) : Res :=
  .next (s.msgRow n mtWreq (fun s m =>
    let f := Config.wreqFields (BitVec.ofNat 64 m.arg)
    let w := f.1 % 8
    let bytes := f.2.2.1
    let write := f.2.2.2
    let s1 := s.takeMsg m
    if !s.winAdmits w m.srcChip f.2.1 bytes write then
      (s1.postError 24 (srcStall (s.winStall w)) .accessDenied 2 (w + m.srcChip * 2 ^ 16)).refuse m .accessDenied
    else
      let st := s.winStall w
      let addr := s.winAddr w f.2.1
      if write then
        (s1.modNet (fun x => { x with grants := x.grants ++ [⟨m.srcChip, m.msgid, st, addr, bytes, w⟩] })).sendWresp m m.msgid []
      else
        let r := (s1.upset st ups).bayFlags st addr (ceilDiv bytes 4)
        (match firstFlag r.2 with
         | some _ => r.1.refuse m .poisonConsumed
         | none => r.1.sendWresp m m.msgid ((bare r.2).take bytes))))

/-- A WRESP that answers a request of this chip: a grant brings the data, an acknowledgement or the data end the transfer. -/
def State.winAnswer (s : State) (e : Sent) (m : Msg) (ups : List (Nat × BitVec 39)) : State :=
  match s.xferAt e.stall e.chan e.xfer with
  | none => s.dropSent e
  | some x =>
    match TDesc.parse (s.stallsOf e.pitch) x.tensorOf with
    | none => s.dropSent e
    | some d =>
      if x.kind = .send then
        (if e.granted then (s.dropSent e).landed e
         else match s.xferFetch e.stall x d [] ups with
          | .wait => s
          | .err s' er => (s'.dropSent e).xferErr e.stall e.chan x er
          | .got s' data =>
            (match data.flag with
             | some a => (s'.dropSent e).xferErr e.stall e.chan x (.poison a)
             | none =>
               (s'.modNet (fun n => { n with sent := n.sent.map (fun y =>
                 if y.msgid = e.msgid ∧ y.xfer = e.xfer then { y with granted := true } else y) })).engineSend
                 { s'.engineHead m.srcChip m.spitch 0 m.dpitch mtWresp e.msgid with
                     time := e.time, src := srcChan e.stall e.chan, seq := e.seq } ((d.runsOf data).flatMap bare)))
      else match s.fill e.stall x d m.data with
        | .error er => (s.dropSent e).xferErr e.stall e.chan x er
        | .ok s1 => ((s1.bufferCopy e.stall e.chan true m.data).dropSent e).landed e

/-- WRESP: data of a window write that was granted is written and acknowledged; else it answers this chip's own request. -/
def execWresp (n : Nat) (ups : List (Nat × BitVec 39)) (s : State) : Res :=
  .next (s.msgRow n mtWresp (fun s m =>
    let id := bits m.arg 31 0
    let s1 := s.takeMsg m
    match s1.net.grants.find? (fun g => g.chip == m.srcChip && g.msgid == id) with
    | some g =>
      let bs := m.data.take g.bytes
      (((s1.bayWrites g.stall g.addr (bytesWords bs)).bufferCopy g.stall (8 + g.addr) true bs).modNet (fun x =>
        { x with grants := x.grants.filter (fun y => !(y.chip == m.srcChip && y.msgid == id)) })).sendWresp m id []
    | none =>
      match s1.sent? id true with
      | some e => (s1.winAnswer e m ups).pumpAll
      | none => s1))

/-! ### Collectives that end or slow (R439, R442) -/

/-- COLL_END: the member's own copy ends in the same way; one that is closed ignores it. -/
def execCollEnd (n : Nat) (s : State) : Res :=
  .next (s.msgRow n mtCollEnd (fun s m =>
    let s1 := s.takeMsg m
    match s1.net.colls.find? (fun c => c.pitch == m.dpitch && c.job == m.job && c.id == m.coll), Status.ofCode (bits m.arg 15 0) with
    | some c, some st => s1.endColl c.serial st
    | _, _ => s1))

/-- A THERMAL_SLOW with FACTOR above 0: forwarded once for each (ORIGIN, TIME) on every open collective of its job, with an event for
each pitch that holds one; hang counting of the job is suspended. -/
def State.slowOn (s : State) (arg : Nat) (time : W64) : State :=
  let job := bits arg 15 0
  let origin := bits arg 31 16
  let stack := bits arg 39 32
  let mine := s.net.colls.filter (fun c => c.job == job)
  let known := (match s.net.slows.find? (fun w => w.job == job) with
    | some w => w.origins.any (fun o => o.1 == origin && o.2.2 == time)
    | none => false)
  if known || mine.isEmpty then s
  else
    let now := s.now
    let w : Slow := (s.net.slows.find? (fun w => w.job == job)).getD ⟨job, now, [], []⟩
    let w' := { w with first := if w.holding.isEmpty then now else w.first, origins := w.origins ++ [(origin, stack, time)],
                       holding := (origin, stack) :: w.holding.filter (·.1 != origin) }
    let s1 := s.afterNow.modNet (fun n => { n with slows := n.slows.filter (fun x => x.job != job) ++ [w'] })
    let s2 := mine.foldl (fun (s : State) (c : Coll) => s.tellNeighbours c mtSlow (setBits arg 63 48 c.id) (leBytes 8 time.toNat)) s1
    ((List.range 24).filter (fun p => mine.any (fun c => c.pitch == p))).foldl (fun s p =>
      s.postEvent [p] srcEngine 0x22 (leBytes 8 arg ++ leBytes 8 time.toNat)) s2

/-- A THERMAL_SLOW with FACTOR 0: the suspension ends once every origin that started one has sent it. -/
def State.slowOff (s : State) (arg : Nat) : State :=
  s.modNet (fun n => { n with slows := n.slows.map (fun w =>
    if w.job = bits arg 15 0 then { w with holding := w.holding.filter (fun h => h.1 != bits arg 31 16) } else w) })

/-- THERMAL_SLOW. -/
def execThermalSlow (n : Nat) (s : State) : Res :=
  .next (s.msgRow n mtSlow (fun s m =>
    let s1 := s.takeMsg m
    if bits m.arg 47 40 = 0 then s1.slowOff m.arg else s1.slowOn m.arg (BitVec.ofNat 64 (leNat (m.data.take 8)))))

/-- LIMIT of LK_SLOWLIM in nanoseconds; 0 acts as 1. -/
def State.slowLimit (s : State) : Nat := max 1 (s.fld 0 offSlowLim 15 0) * 10 ^ 9

/-- SLOW_LIMIT_EXPIRY: LIMIT seconds have passed since the first THERMAL_SLOW of a job's series, and the suspension ends. -/
def execSlowLimitExpiry (job : Nat) (s : State) : Res :=
  .next (match s.net.slows.find? (fun w => w.job == job) with
    | some w => if w.first.toNat + s.slowLimit ≤ s.now.toNat then
        s.afterNow.modNet (fun n => { n with slows := n.slows.map (fun x => if x.job = job then { x with holding := [] } else x) }) else s
    | none => s)

end Sys2Proof.Machine
end

