-- ==== Sys2Proof/Machine/ChipReset.lean ====
section
/-! DEFINITION. Chip resets, stocktakes, hangs and chip fatal faults: CRST_GO, CRST_DUMP, COMPUTE_DIE_RESET_DONE,
STOCKTAKE_READ_TIMEOUT, STOCKTAKE_LIMIT, HANG_WINDOW, DIE_TO_DIE_LANE_FAILURE, CALLER_SILENCE, UNCORRECTABLE_STATE_ERROR,
CLOCK_OR_POWER_FAULT (spec 18 R444, R460 to R474; 01 R14). -/

namespace Sys2Proof.Machine

/-- The state with the chip reset's fields changed. -/
def State.modCrst (s : State) (f : Crst → Crst) : State := { s with crst := f s.crst }

/-! ### GH_CRST (Table 18-15) -/

/-- A write of GH_CRST: GO starts a chip reset, with a stocktake first under DUMP. -/
def State.crstWrite (s : State) (v : Nat) : State :=
  s.installerWrite offCrst 0 v none (!bit v 0) (fun s => s.chipReset 1 (bit v 1) false srcClerk (s.seqOf srcClerk))

/-- CRST_GO and CRST_DUMP. -/
def execCrstGo (s : State) : Res :=
  let s := s.settleHost 0
  .next (s.crstWrite 1)
def execCrstDump (s : State) : Res :=
  let s := s.settleHost 0
  .next (s.crstWrite 3)

/-! ### Stocktake (R468 to R470) -/

/-- The host address and the size in bytes of the stocktake's buffer. -/
def State.stockBase (s : State) : Nat := s.fld 0 offGhDumpBase 63 12 * 4096
def State.stockRoom (s : State) : Nat := s.fld 0 offGhDumpCfg 6 0 * 2 ^ 20

/-- The section of one unit written: its header, with UNIT_SILENT and the words read before the timeout for a silent one. A section that
does not fit ends the stocktake with TRUNC. -/
def State.stockSection (s : State) (silent : Option Nat) : State :=
  match s.crst.stock with
  | none => s
  | some k =>
    let h := (Config.shadowHead k.next ++ List.replicate 8 0).take 8
    let all := Config.shadowWords k.next
    let ws := (match silent with
      | some n => all.take n
      | none => all)
    let head := if silent.isSome then h.take 6 ++ leBytes 1 1 ++ h.drop 7 else h
    let bs := head ++ leBytes 4 ws.length ++ leBytes 4 0 ++ ws.flatMap (fun w => leBytes 8 w.toNat)
    if s.stockRoom < k.bytes + bs.length then s.modCrst (fun c => { c with stock := some { k with next := k.total, trunc := true } })
    else
      let k' := { k with next := k.next + 1, bytes := k.bytes + bs.length, sections := k.sections + 1,
                         silent := k.silent + b2n silent.isSome }
      (s.hostWrite none (s.stockBase + k.bytes) bs).modCrst (fun c => { c with stock := some k' })

/-- Every unit that is left is read. -/
def State.stockRest : Nat → State → State
  | 0, s => s
  | n + 1, s => match s.crst.stock with
    | some k => if k.next < k.total then State.stockRest n (s.stockSection none) else s
    | none => s

/-- The header written last (Table 18-19); the buffer is FULL. -/
def State.stockHeader (s : State) : State :=
  match s.crst.stock with
  | none => s
  | some k =>
    let c := s.crst
    let b := leBytes 4 0x53544B54 ++ leBytes 2 1 ++ leBytes 2 s.chipId ++ leBytes 8 c.t0.toNat ++ leBytes 2 c.src ++ leBytes 4 c.seq.toNat
      ++ leBytes 2 c.epoch ++ leBytes 4 k.sections ++ leBytes 4 k.silent ++ leBytes 8 k.bytes ++ leBytes 8 s.now.toNat
      ++ leBytes 1 (b2n k.trunc) ++ List.replicate 15 0
    let s1 := (s.afterNow.hostWrite none s.stockBase b).modCrst (fun c => { c with stock := none, step := 5 })
    (s1.setFld 0 offGhDumpCfg 8 8 1).setFld 0 offGhDumpCfg 31 16 (s1.fld 0 offGhDumpCfg 31 16 + 1)

/-- The stocktake finishes. -/
def State.stockEnd (s : State) : State :=
  match s.crst.stock with
  | some k => (State.stockRest (k.total - k.next) s).stockHeader
  | none => s

/-- STOCKTAKE_READ_TIMEOUT: the unit that is being read answers no more after some words; the clerk goes on to the next. -/
def execStocktakeReadTimeout (words : Nat) (s : State) : Res :=
  .next (match s.crst.stock with
    | some k => if k.next < k.total then s.stockSection (some words) else s
    | none => s)

/-- STOCKTAKE_LIMIT: 60 ms have passed; units not reached are left out. -/
def execStocktakeLimit (s : State) : Res :=
  .next (match s.crst.stock with
    | some k => (s.modCrst (fun c => { c with stock := some { k with trunc := k.trunc || decide (k.next < k.total) } })).stockHeader
    | none => s)

/-! ### Step 5 (R14, R473, Table 18-17) -/

/-- The spares that have not been used and work. -/
def State.spares (s : State) : List Nat := (List.range 52).filter (fun p => !s.chip.map.contains p && !s.health.out.getLsbD p)

/-- A spare given to a logical stall that is out of service, or none left. -/
def State.applySpare (s : State) (l : Nat) : State :=
  let was := s.pstall l
  if s.inService l || was = 0xFF then s
  else match nearest s.spares (l / 2) with
    | some p =>
      let s1 := { s with chip := { s.chip with map := s.chip.map.set l p } }
      let f := FaultInfo.noCtx 0 .ok 0x02 was 0 0 none (some l)
      (s1.postFault (srcStall l) { f with flags := 18 }).replaceEvent 2 l 0
    | none => { s with chip := { s.chip with map := s.chip.map.set l 0xFF } }.replaceEvent 3 l 0

/-- Whether a chip reset keeps a register of a function's block: Daybook, fault ring, pitch block, event, moderation and dump registers. -/
def chipKeeps (off : Nat) : Bool :=
  (decide (offDbk ≤ off) && decide (off ≤ offDbk + 32)) || (decide (offFlt ≤ off) && decide (off ≤ offFlt + 32)) || off == offPsb
    || off == offEvent || (decide (0x1400 ≤ off) && decide (off < 0x1600)) || off == offDumpBase || off == offDumpSize

/-- Whether PERST# keeps a register: those of the Gatehouse, the I/O dies and the module. -/
def perstKeeps (off : Nat) : Bool := !dieReg off

/-- The registers that a chip reset leaves: PT_FRANGEp and PT_SLOTSp return to zero (R350, R465); the host port's tally restarts at PERST#
alone (R544). -/
def State.resetRegs (s : State) : State :=
  let keep := fun (e : Nat × W64) =>
    let off := e.1 % 2 ^ 32
    if s.crst.perst then perstKeeps off
    else if off < 0x10000 then chipKeeps off
    else !(decide (0x1400000 ≤ off) && decide (off < 0x1400600) && (off % 0x40 == 0x10 || off % 0x40 == 0x18))
  { s with regs := s.regs.filter keep, hostAcc := if s.crst.perst then [] else s.hostAcc }

/-- A PERST# that joined a chip reset after its step 5 has its registers returned when the reset ends (R467). -/
def State.perstRegs (s : State) : State := if s.crst.perst then s.resetRegs else s

/-- Whether a source keeps its sequence through a chip reset (R400). -/
def keepsSeq (src : Nat) : Bool := decide (src ≤ 2) || (decide (0x100 ≤ src) && decide (src ≤ 0x120)) || src == srcInstaller

/-- A stall after the compute die's reset. -/
def Stall.dieReset (x : Stall) : Stall :=
  { Stall.reset with fstep := x.fstep, tcap := x.tcap, ithr := x.ithr, policy := x.policy, freeFrom := x.freeFrom }

/-- The compute die reset: fuses reloaded, spares applied, every unit of the die at its reset state; memory keeps its contents. -/
def State.dieReset (s : State) : State :=
  let s0 := (List.range 48).foldl (fun s l => s.applySpare l) s
  -- the ENT slots of every pitch, while its registers still place them (R256)
  let s1 := (List.range 24).foldl (fun s p => s.resetTables p) s0
  let s2 := s1.resetRegs
  { s2 with
    stalls := s2.stalls.map Stall.dieReset, bays := [], rewrites := [], tokens := [], tokReqs := [],
    mem := { s2.mem with tlb := [], reqs := [], atomicBuf := [], badLines := [], entUse := [], pchCut := s2.mem.pchOut },
    fe := s2.fe.cleared,
    rcl := Vector.replicate 24 Ring.zero,
    dbk := s2.dbk.map (fun r => { r with dropped := 0 }), flt := s2.flt.map (fun r => { r with dropped := 0 }),
    msi := s2.msi.map (fun (e : Nat × MsiVec) => (e.1, { e.2 with count := 0, heldCause := false, sent := 0 })),
    srcSeq := s2.srcSeq.filter (fun e => keepsSeq e.1),
    watch := [],
    health := { s2.health with bayBad := [], bayMended := [] } }

/-- Lines whose contents are undefined: each byte takes a free value. -/
def State.undefine (s : State) (lines : List Nat) : State :=
  let r := lines.foldl (fun (r : Tab Byte × Nat) k =>
    (Tab.setRange 0 r.1 (64 * k) ((List.range 64).map (fun i => Config.anyByte (s.free * 2 ^ 32 + 64 * r.2 + i))), r.2 + 1)) (s.mem.bytes, 0)
  { s with mem := { s.mem with bytes := r.1 } }.afterAny

/-- Controllers that did not confirm step 3, each with the lines of accepted writes that it had not written back: those lines, and the ones
its atomic buffer and queues held, have undefined contents (R466). -/
def State.silence (s : State) (silent : List (UnitId × List Nat)) : State :=
  silent.foldl (fun (s : State) (e : UnitId × List Nat) =>
    (s.undefine (s.crst.touched.filter (fun k => k / 2 ^ 29 == e.1.val) ++ e.2.map (fun k => e.1.val * 2 ^ 29 + k % 2 ^ 29))).modCrst
      (fun c => { c with unconfirmed := e.1.val :: c.unconfirmed })) s

/-- COMPUTE_DIE_RESET_DONE: a stocktake that runs is finished, and step 5 with it. -/
def execComputeDieResetDone (s : State) : Res :=
  .next (if s.crst.held then s
    else
      let s1 := s.stockEnd
      if s1.crst.step = 5 then s1.dieReset.modCrst (fun c => { c with step := 6 }) else s1)

/-! ### Steps 6 to 8 (R464 to R466, R294, R297) -/

/-- The stacks after training: one found at or above 85 °C is off, any other serves again. -/
def State.stacksUp (s : State) (hot : List StackId) : State :=
  (List.range 12).foldl (fun s k =>
    let off := hot.any (fun h => h.val == k)
    let x := s.stack k
    let step := if off then 3 else if x.step = 3 then 0 else x.step
    let s1 := s.modStack k (fun x => { x with off := off, step := step })
    -- every change of step is recorded (R295)
    let s2 := if step = x.step then s1 else s1.thermalRec k x.step step x.temp
    if off && !x.off then s2.replaceEvent 6 k 0 else s2) s

/-- A pseudo-channel mapped out by a failed training (Table 18-22). -/
def State.pchFails (s : State) (u k : Nat) : State :=
  let m := BitVec.ofNat 32 (2 ^ k)
  if ((s.mem.pchOut[u]?.getD 0) &&& m) != 0 then s
  else
    let f := fun (v : Vector (BitVec 32) 24) => v.setIfInBounds u ((v[u]?.getD 0) ||| m)
    { s with mem := { s.mem with pchOut := f s.mem.pchOut, pchCut := f s.mem.pchCut } }.replaceEvent 4 (u * 32 + k) 0

/-- Whether a unit keeps its pitch from running: its stack is off, its controller did not confirm step 3, or its capacity has just been
reduced (R465). `cut` is what the capacity was reduced by before. -/
def State.unitFails (s : State) (cut : Vector (BitVec 32) 24) (u : Nat) : Bool :=
  s.unitOff u || s.crst.unconfirmed.contains u || (s.mem.pchCut[u]?.getD 0) != (cut[u]?.getD 0)

/-- The regions after a chip reset: SEALED returns as LOAD; a region in a unit that fails, and every region after PERST#, is OFF. -/
def State.regionsBack (s : State) (cut : Vector (BitVec 32) 24) : State :=
  (List.range 16).foldl (fun s n =>
    let bad := (s.csUnits n false ++ (if s.fld 0 (offCsCtl n) 2 2 = 1 then s.csUnits n true else [])).any (s.unitFails cut)
    s.modRegion n (fun r =>
      let st : CsState := if s.crst.perst || bad then .off else if r.state = .sealed then .load else r.state
      { r with state := st, held := none })) s

/-- A pitch after a chip reset: RUNNING with its memory kept, or FAILED; its units and stalls as after a pitch reset. -/
def State.pitchBack (s : State) (cut : Vector (BitVec 32) 24) (p : Nat) : State :=
  let x := s.pitch p
  let failed := x.lost || (s.unitsOf p).any (s.unitFails cut)
  let s1 := s.modPitch p (fun x =>
    { Pitch.reset with state := if failed then .failed else .running, sseq := x.sseq, cause := x.cause, scrubbed := x.scrubbed,
                       psbActive := x.psbActive, lost := x.lost })
  let s2 := (s1.setFld 0 (offPcfg p) 24 24 1).restoreUnits p
  let s3 := s2.writePsb p
  if x.teardown then s3.teardown p else s3

/-- Steps 6 to 8: training, checks, pitches restored, RESET_END, reset-done messages; the front end starts. `cut` is the capacity that
the units lacked before this reset. -/
def State.chipBack (s : State) (cut : Vector (BitVec 32) 24) : State :=
  let s1 := s.perstRegs.regionsBack cut
  let gone := s.crst.perst || s.pair.state == .stoodDown
  let live := if gone then [] else s.crst.live
  let s2 := { s1 with mem := { s1.mem with pwr := Vector.ofFn (fun (u : Fin 24) =>
    if s1.holdsRegion u && !s1.unitOff u then .active else .selfRefresh) } }
  let s3 := if gone then (List.range 24).foldl (fun s p => s.modPitch p (fun _ => Pitch.reset)) s2
    else live.foldl (fun s p => s.pitchBack cut p) s2
  let s4 := (s3.modCrst (fun c => { c with step := 0, live := [], unconfirmed := [], touched := [], perst := false })).postDbk (live ++ [24]) .always
    srcGate 0x13 (resetPayload 8 false s.crst.count)
  (live.foldl (fun s p => s.eventMsg p) s4).reviewDegraded.wakeFront

/-- The pseudo-channels among what was found that failed training, and the controllers that did not confirm step 3. -/
def UnitFinding.pch? : UnitFinding → Option (UnitId × Fin 32)
  | .pch u k => some (u, k)
  | .silent .. => none
def UnitFinding.silent? : UnitFinding → Option (UnitId × List Nat)
  | .pch .. => none
  | .silent u ls => some (u, ls)

/-- Pseudo-channels that failed training are out of the capacity (R465). -/
def State.pchsFail (s : State) (units : List UnitFinding) : State :=
  (units.filterMap UnitFinding.pch?).foldl (fun (s : State) (x : UnitId × Fin 32) => s.pchFails x.1 x.2) s

/-- Steps 6 to 8 with what training and the built-in checks found: stacks too hot, units and stalls that failed. An armed image of MEMC has
its first trial start (R530). -/
def State.hbmUp (s : State) (hot : List StackId) (units : List UnitFinding) (sts : List StallId) : State :=
  let before := s.mem.pchCut
  let s0 := s.silence (units.filterMap UnitFinding.silent?)
  let s1 := if (s0.comp 4).spare.st = .armed then (s0.trialStart 4).fwChanged else s0
  let s2 := (s1.stacksUp hot).pchsFail units
  (sts.foldl (fun (s : State) (st : StallId) => s.mapOutStall st Status.hwFault.code) s2).chipBack before

/-! ### Hangs (R460 to R462) -/

/-- WINDOW of the present window in nanoseconds; 0 acts as 1. -/
def State.hangWindow (s : State) : Nat := max 1 (bits s.health.hangWin.toNat 15 0) * 1000000

/-- EN of the present window. -/
def State.hangOn (s : State) : Bool := bit s.health.hangWin.toNat 16

/-- What has advanced of a launch: what it has counted, and what its contexts have executed. -/
def State.launchMoves (s : State) (l : Nat) (x : Launch) : Nat :=
  x.progress + ((x.splits.flatMap (fun y => ((List.range 4).filter (fun c => y.2.1 ≤ c && decide (c < y.2.1 + y.2.2))).map (fun c =>
    let t := s.ctxOf y.1 c
    (if t.launch = l then t.progress else 0) + (s.splitOf y.1 c).slot))).foldl (· + ·) 0)

/-- Whether hang counting of a launch is suspended (R442). -/
def State.slowed (s : State) (l : Nat) : Bool :=
  s.net.colls.any (fun c => c.launches.contains l && s.net.slows.any (fun w => w.job == c.job && !w.holding.isEmpty))

/-- Why a launch may stand still: a token, the Porter, memory, the array, the vector unit (Table 18-13). -/
def State.launchReason (s : State) (l : Nat) (x : Launch) : Nat :=
  if s.tokReqs.any (fun t => t.launch == l) then 1
  else if s.allXfers.any (fun y => y.2.2.launch == l) then 2
  else if s.mem.reqs.any (fun r => match r.client with
      | .ctx _ _ l' => l' == l
      | _ => false) then 3
  else if x.splits.any (fun y => !(s.splitOf y.1 y.2.1).flight.isEmpty || !(s.splitOf y.1 y.2.1).waiting.isEmpty) then 4
  else if x.splits.any (fun y => !(s.ctxOf y.1 y.2.1).vecq.isEmpty) then 5 else 0

/-- Why the head of an SQ has not started (Tables 14-10, 18-13). -/
def State.queueReason (s : State) (q : Nat) : Nat :=
  match s.cond q with
  | .blocked r _ => r
  | .ready => if (s.slotIn q).isNone then 6 else 0
  | .idle => 0

/-- A subject of hang detection: its key, what has advanced, the Daybook and source of its record, and its payload but LAST. -/
structure Subject where
  key : Nat
  moves : Nat
  dbk : Nat
  src : Nat
  head : List Byte

/-- The payload of a HANG before LAST. -/
def hangHead (kind reason which hseq : Nat) : List Byte := leBytes 1 kind ++ leBytes 1 reason ++ leBytes 2 which ++ leBytes 4 hseq

/-- The subjects that are watched now. Requests to the host port do not wait in this model, so there is none of kind HOST. -/
def State.subjects (s : State) : List Subject :=
  (s.fe.launches.filterMap (fun e =>
    if e.2.ended.isSome || s.slowed e.1 then none
    else some ⟨e.1, s.launchMoves e.1 e.2, e.2.pitch, srcQueue e.2.sq, hangHead 0 (s.launchReason e.1 e.2) e.2.sq e.2.hseq.toNat⟩))
  ++ (s.fe.queues.filterMap (fun e =>
    match e.2.head? with
    | some d => if e.2.isCq || e.2.state == .held then none
        else some ⟨2 ^ 48 + e.1, d.hseq.toNat, s.fnDbk e.2.fn, srcQueue e.1, hangHead 1 (s.queueReason e.1) e.1 d.hseq.toNat⟩
    | none => none))
  ++ ((List.range 32).filterMap (fun i =>
    let l := s.link i
    if l.state == .routed && !l.waiting.isEmpty then some ⟨2 * 2 ^ 48 + i, l.tx.toNat, 24, srcLink i, hangHead 2 0 i 0⟩ else none))

/-- A time between two instants: FK time of a subject's last progress, which falls within the window that showed it. -/
def State.within (s : State) (a b : W64) : W64 := a + BitVec.ofNat 64 (s.anyWord.toNat % ((b - a).toNat + 1))

/-- One subject at the end of a window; `on` where events are raised. -/
def State.watchOne (s : State) (prev now : W64) (on : Bool) (x : Subject) : State :=
  let put := fun (s : State) (w : Watch) => { s with watch := Tab.put s.watch x.key w }
  match Tab.find s.watch x.key with
  | some w =>
    if w.seen ≠ x.moves then put s.afterAny ⟨x.moves, s.within prev now, false⟩
    else if w.raised || !on then s
    else (put s { w with raised := true }).postEvent [x.dbk] x.src 0x21 (x.head ++ leBytes 8 w.last.toNat)
  | none => put s.afterAny ⟨x.moves, s.within prev now, false⟩

/-- HANG_WINDOW: a subject without progress for the window raises one HANG event until it has moved again. A write of GH_HANGWIN takes
effect with the window that begins now. -/
def execHangWindow (s : State) : Res :=
  let now := s.now
  .next (if now.toNat < s.health.hangAt.toNat + s.hangWindow ∨ s.dieDown = true then s
    else
      let xs := s.subjects
      let s1 := { s.afterNow with watch := s.watch.filter (fun e => xs.any (fun x => x.key == e.1)),
                                  health := { s.health with hangAt := now, hangWin := BitVec.ofNat 64 (s.raw 0 offHangWin) } }
      xs.foldl (fun (s' : State) (x : Subject) => s'.watchOne s.health.hangAt now s.hangOn x) s1)

/-! ### Chip fatal and pitch fatal faults (Table 18-1) -/

/-- DIE_TO_DIE_LANE_FAILURE. -/
def execDieToDieLaneFailure (iod : Fin 2) (syn : W64) (s : State) : Res := .next (s.chipFatal srcClerk 0x19 iod syn.toNat)

/-- CALLER_SILENCE. -/
def execCallerSilence (c : Fin 4) (s : State) : Res := .next (s.chipFatal srcClerk 0x28 c 0)

/-- UNCORRECTABLE_STATE_ERROR: the front end's state of a pitch is a pitch fatal fault; logic that a stall's splits share is a context
fault of every launch on the stall (R447); the rest is chip fatal. DESIGN CHOICE: of a stall's logic the record names the sequencer for the
fetch path and the array else (log 157). -/
def execUncorrectableStateError (loc : StateLoc) (syn : W64) (s : State) : Res :=
  .next (match loc with
    | .pitchState p => if (s.pitch p).state = .off then s else s.pitchFatal p srcFront 0x28 4 syn.toNat 0
    | .stall st fetch => if s.dieDown then s else s.stallFault st (if fetch then 0x02 else 0x01)
    | .caller c => s.chipFatal srcFront 0x28 c syn.toNat
    | .shared => s.chipFatal srcFront 0x28 4 syn.toNat
    | .router x y => s.chipFatal srcClerk 0x18 (x.val * 8 + y.val) syn.toNat
    | .tc6 => s.chipFatal srcGate 0x30 0 syn.toNat)

/-- CLOCK_OR_POWER_FAULT. -/
def execClockOrPowerFault (domain : Fin 8) (s : State) : Res := .next (s.chipFatal srcClerk 0x31 domain 0)

end Sys2Proof.Machine
end

