-- ==== Sys2Proof/Machine/Flow.lean ====
section
/-! DEFINITION. The flow instructions of Table 5-8 (R136). -/

namespace Sys2Proof.Machine

/-- Whether an index lies in a loop's body. -/
def LoopRec.has (l : LoopRec) (pc : W64) : Bool :=
  decide (l.start.toNat ≤ pc.toNat) && decide (pc.toNat < l.start.toNat + l.len)

/-- Whether a taken branch from `pc` to `target` leaves the innermost active body that holds it (R136). -/
def Ctx.leavesBody (c : Ctx) (target : W64) : Bool :=
  match c.loops with
  | l :: _ => l.has c.pc && !l.has target
  | [] => false

/-- BR: a relative branch, checked against the innermost loop body. -/
def execBr (st : StallId) (cx : CtxId) (f : FmtC) (s : State) : Res :=
  let c := s.ctxOf st cx
  let target := c.pc + sx f.off
  .next (s.issue st cx 0x20 f.gn f.gp (unused f.s1 && f.x == 0) []
    (if c.leavesBody target then s.badProgram st cx 0x20 else s.tally st cx (fun x => x.jump target)))

/-- JR: a jump to the index in gS1; a JR through g31 may leave a body. -/
def execJr (st : StallId) (cx : CtxId) (f : FmtC) (s : State) : Res :=
  let c := s.ctxOf st cx
  let target := c.getG f.s1
  .next (s.issue st cx 0x21 f.gn f.gp (f.x == 0 && f.off == 0) (gs [f.s1])
    (if f.s1 ≠ 31 ∧ c.leavesBody target then s.badProgram st cx 0x21 else s.tally st cx (fun x => x.jump target)))

/-- CALL: g31 = the return index, and a relative branch that may leave a body. -/
def execCall (st : StallId) (cx : CtxId) (f : FmtC) (s : State) : Res :=
  let c := s.ctxOf st cx
  .next (s.issue st cx 0x22 f.gn f.gp (unused f.s1 && f.x == 0) (gs [31])
    (s.tally st cx (fun x => (x.setG 31 (c.pc + 1)).jump (c.pc + sx f.off))))

/-- Whether a loop may start at an instruction (R136): at most four active, a body of at least one instruction, within the body
of every active loop that holds the instruction. -/
def Ctx.mayLoop (c : Ctx) (len : Nat) : Bool :=
  decide (c.loops.length < 4) && decide (1 ≤ len)
    && c.loops.all (fun l => !l.has c.pc || decide (c.pc.toNat + 1 + len ≤ l.start.toNat + l.len))

/-- A loop of `count` runs over the `len` instructions that follow, or a skip of them. -/
def State.startLoop (s : State) (st cx op len : Nat) (count : W64) : State :=
  let c := s.ctxOf st cx
  if !c.mayLoop len then s.badProgram st cx op
  else if count = 0 then s.tally st cx (fun x => x.jump (c.pc + 1 + BitVec.ofNat 64 len))
  else s.tally st cx (fun x => { x with loops := { start := c.pc + 1, len := len, left := count } :: x.loops }.jump (c.pc + 1))

/-- LOOP: the count is gS1. -/
def execLoop (st : StallId) (cx : CtxId) (f : FmtC) (s : State) : Res :=
  .next (s.issue st cx 0x24 f.gn f.gp (f.off == 0) (gs [f.s1])
    (s.startLoop st cx 0x24 f.x.toNat ((s.ctxOf st cx).getG f.s1)))

/-- LOOPI: the count is OFF, unsigned. -/
def execLoopi (st : StallId) (cx : CtxId) (f : FmtC) (s : State) : Res :=
  .next (s.issue st cx 0x25 f.gn f.gp (unused f.s1) []
    (s.startLoop st cx 0x25 f.x.toNat (f.off.zeroExtend 64)))

/-- LBRK: leaves the innermost active loop and continues after its body. -/
def execLbrk (st : StallId) (cx : CtxId) (f : FmtC) (s : State) : Res :=
  .next (s.issue st cx 0x26 f.gn f.gp (unused f.s1 && f.x == 0 && f.off == 0) []
    (match (s.ctxOf st cx).loops with
     | l :: rest => s.tally st cx (fun x => { x with loops := rest }.jump (l.start + BitVec.ofNat 64 l.len))
     | [] => s.badProgram st cx 0x26))

/-- END: the context waits until its outstanding work completes (R123); INSTANCE_END then ends the instance. -/
def execEndInst (st : StallId) (cx : CtxId) (f : FmtC) (s : State) : Res :=
  .next (s.issue st cx 0x27 f.gn f.gp (unused f.s1 && f.x == 0 && f.off == 0) []
    (s.modCtx st cx (fun x => { x with wait := .ended })))

end Sys2Proof.Machine
end

