-- ==== Sys2Proof/Machine/Module.lean ====
section
/-! DEFINITION. The module: supply, rails and start-up: SUPPLY_GOOD, UNDERVOLTAGE, LOSS_OF_SUPPLY, PWR_EN_ASSERT, PWR_EN_DEASSERT,
RAIL_IN_LIMITS, RAIL_ORDER_TIMEOUT, RAIL_DISCHARGED, REGULATOR_FAULT, CABLE_OVERCURRENT, PERST_ASSERT, PERST_DEASSERT, COMPONENT_VERIFIED,
HBM_TRAINING_DONE, and the module's signals and lamps (spec 23 R559 to R572; 20 R511; 21 R531, R532; 18 R463, R467). -/

namespace Sys2Proof.Machine

/-- The state with the module changed. -/
def State.modMd (s : State) (f : Module → Module) : State := { s with md := f s.md }

/-! ### What falls with the rails (R494, R511, R560, R562) -/

/-- Whether a register is held in the Gatehouse, which stays powered with the supply: the GH_ registers and those of the pair. -/
def gateReg (off : Nat) : Bool := (decide (0x1000000 ≤ off) && decide (off < 0x1400000)) || decide (0x1900000 ≤ off)

/-- The links and the link engine as their domain is powered: lane pairs that are mapped out stay so. -/
def Net.repowered (n : Net) : Net := { Net.reset with links := n.links.map (fun l => { Link.reset with pairOut := l.pairOut }) }

/-- Device memory as its rails come up: nothing listed; pseudo-channels that are mapped out are out of the capacity. -/
def Mem.repowered (m : Mem) : Mem := { Mem.reset with pwr := Vector.replicate 24 .selfRefresh, pchOut := m.pchOut, pchCut := m.pchOut }

/-- The security block as its domain is powered: keys, policy, COUNT and the book are kept. -/
def Security.repowered (x : Security) : Security :=
  { x with result := 0, nonce := none, consent := none, unlocked := false, eidVdm := 0, spdmStep := 0, sessions := [] }

/-- Every rail but VDD_GH has fallen: the work of the package ends without records, its registers outside the Gatehouse and its memory
are lost. -/
def State.railsFall (s : State) : State :=
  let s := s.relock
  { s with
    stalls := Vector.replicate 48 Stall.reset, tokens := [], tokReqs := [], bays := [], rewrites := [], mem := s.mem.repowered,
    regs := s.regs.filter (fun e => decide (e.1 < 2 ^ 32) && gateReg (e.1 % 2 ^ 32)), fe := FrontEnd.reset,
    dbk := Vector.ofFn (fun (i : Fin 25) => if i.val = 24 then s.dbk[i] else Ring.zero),
    flt := Vector.ofFn (fun (i : Fin 25) => if i.val = 24 then s.flt[i] else Ring.zero),
    rcl := Vector.replicate 24 Ring.zero, msi := [], net := s.net.repowered, hostAcc := [],
    health := { s.health with bayBad := [], bayMended := [] },
    crst := { Crst.reset with cause := s.crst.cause, count := s.crst.count }, watch := [],
    sec := s.sec.repowered, fw := { s.fw with port := none, stale := 0 },
    pw := { Power.reset with ovr := s.pw.ovr, sensors := s.pw.sensors },
    md := { s.md with rails := 0, applying := false, removing := false, verified := [], trained := false, started := false, faults := 0,
                      hostUp := false, numVfs := 0, fnMask := 0 },
    srcSeq := s.srcSeq.filter (fun e => decide (e.1 ≤ 1) || e.1 == srcInstaller) }

/-- The notice of a lost package to its partner on the sideband; the pair is over for this package (R487, R511). -/
def sbBeat : Nat := 0
def sbLoss : Nat := 1
def State.lossNotice (s : State) (cause : Nat) : State :=
  if s.pair.state = .paired then
    { s with pair := { s.pair with state := .stoodDown } }.emit (.sideband sbLoss (leBytes 1 cause))
  else s

/-- PWRGD driven. -/
def State.pwrgd (s : State) (on : Bool) : State := s.emit (.pin "PWRGD" on)

/-- The rails removed at once for a cause that the health area records: 1 thermal trip, 2 undervoltage, 4 regulator fault. They stay down
until PWR_EN has been deasserted. -/
def State.railsCut (s : State) (n : HealthNote) : State :=
  ((s.railsFall.modMd (fun m => { m with latched := true, notes := m.notes ++ [n] })).pwrgd false).lossNotice n.kind

/-- A thermal trip found by a die sensor (R511). -/
def State.trip (s : State) (n : Nat) (temp : BitVec 12) : State :=
  if s.md.rails = 0 then s
  else
    let t := s.now
    ((s.afterNow.emit (.pin "THERMTRIP#" false)).railsCut ⟨1, n, temp.toNat⟩).modMd (fun m =>
      { m with tripped := true, tripTime := some t, tripNote := some (n, temp.toNat) })

/-! ### The rail order (R561, R562, R572) -/

/-- Whether a thermal trip still holds the rails down: 5 s have not passed, or a sensor of an I/O die does not read below 85 °C. -/
def State.tripHolds (s : State) : Bool :=
  match s.md.tripTime with
  | none => false
  | some t => decide (s.now.toNat < t.toNat + 5 * 10 ^ 9)
      || ((List.range 68).drop 60).any (fun n => !(s.sensor n).valid || decide (85 * 8 ≤ (s.sensor n).temp.toInt))

/-- The clerk acts on PWR_EN: the rail order starts. -/
def State.railsStart (s : State) : State :=
  let m := s.md
  if m.clerk && m.pwrEn && m.rails == 0 && !m.applying && !m.removing && !m.latched && !s.tripHolds then
    s.modMd (fun m => { m with applying := true })
  else s

/-- PWR_EN_ASSERT: PWR_EN is high. -/
def execPwrEnAssert (s : State) : Res := .next ((s.modMd (fun m => { m with pwrEn := true })).railsStart)

/-- The rails removed in reverse order: work ends, then each falls in turn. -/
def State.railsRemove (s : State) : State :=
  let n := s.md.rails
  ((s.railsFall.modMd (fun m => { m with rails := n, removing := decide (0 < n) })).pwrgd false)

/-- PWR_EN_DEASSERT: PWR_EN is low. A trip's signal is released, and supplies of cables that were cut return with the next cycle. -/
def execPwrEnDeassert (s : State) : Res :=
  let m := s.md
  let s1 := s.modMd (fun m => { m with pwrEn := false, latched := false, tripped := false, cableOff := 0 })
  let s2 := if m.tripped then s1.emit (.pin "THERMTRIP#" true) else s1
  .next (if (m.applying || decide (0 < m.rails)) && !m.removing then s2.railsRemove else s2)

/-- A logical stall with no spare yet takes one, as at a compute-die reset (R569 step 1). -/
def State.fusesLoad (s : State) : State := (List.range 48).foldl (fun s l => s.applySpare l) s

/-- RAIL_IN_LIMITS: the rail that is being applied is within its limits: 0 VDD_IO, 1 VDD_SER, 2 the stacks', 3 VDD_PHY, 4 VDD_BAY,
5 VDD_CORE. After the last, PWRGD is asserted and start-up goes on. The host port leaves reset with VDD_SER. -/
def execRailInLimits (r : Fin 6) (s : State) : Res :=
  .next (if s.md.applying && s.md.rails == r.val then
      let s1 := s.modMd (fun m => { m with rails := r.val + 1, hostUp := decide (1 ≤ r.val) && !m.perst })
      if r.val = 5 then ((s1.modMd (fun m => { m with applying := false })).pwrgd true).fusesLoad else s1
    else s)

/-- RAIL_ORDER_TIMEOUT: 20 ms have passed without PWRGD: the failing rail is recorded and the rails are removed. -/
def execRailOrderTimeout (s : State) : Res :=
  .next (if s.md.applying then
      let r := s.md.rails
      s.railsRemove.modMd (fun m => { m with latched := true, notes := m.notes ++ [⟨3, r + 1, 0⟩] })
    else s)

/-- RAIL_DISCHARGED: the rail that falls has reached 10 % of its level; after the last, a PWR_EN that is high takes effect. -/
def execRailDischarged (r : Fin 6) (s : State) : Res :=
  .next (if s.md.removing && s.md.rails == r.val + 1 then
      (if r.val = 0 then (s.modMd (fun m => { m with rails := 0, removing := false })).railsStart
       else s.modMd (fun m => { m with rails := r.val }))
    else s)

/-- UNDERVOLTAGE: below 44 V for 1 ms while rails are up. -/
def execUndervoltage (s : State) : Res :=
  .next (if s.md.applying || decide (0 < s.md.rails) then s.railsCut ⟨2, 0, 0⟩ else s)

/-- REGULATOR_FAULT: a regulator of the package leaves regulation; 6 is VDD_GH's, which this block does not drop. -/
def execRegulatorFault (r : Fin 7) (s : State) : Res :=
  .next (if s.md.applying || decide (0 < s.md.rails) then s.railsCut ⟨4, r, 0⟩ else s)

/-- LOSS_OF_SUPPLY: every rail falls, and all that is not in module flash is lost. PWR_EN and PERST# are the platform's and stay. -/
def execLossOfSupply (s : State) : Res :=
  .next (if s.md.supply then
      let s1 := s.railsFall
      { s1 with
        regs := [], dbk := Vector.replicate 25 Ring.zero, flt := Vector.replicate 25 Ring.zero, clk := Clock.reset,
        health := { Health.reset with out := s1.health.out, failover := s1.health.failover },
        crst := Crst.reset, pair := { Pair.reset with failovers := s1.pair.failovers }, pw := Power.reset,
        sec := { s1.sec with eidI3c := 0 },
        fw := { s1.fw with sess := none },
        md := { s1.md with supply := false, clerk := false, gateFailed := false, latched := false, tripped := false, tripTime := none },
        srcLast := [], srcSeq := [] }
    else s)

/-! ### Firmware at start-up (R531) -/

/-- An image loaded at start-up, by what the verification of the ACTIVE slot and of the other one finds: a slot in TRIAL starts again on
its second trial start, or falls back; else the ACTIVE slot, or a PREVIOUS one that passes. Answers whether the component runs. -/
def State.fwLoad (s : State) (c : Nat) (active other : Bool) : State × Bool :=
  let y := s.comp c
  if y.spare.st = .trial ∧ y.spare.trials < 2 ∧ other = true then ((s.trialStart c).fwChanged, true)
  else
    let s1 := if y.spare.st = .trial then
        let s1 := s.fwAudit 0x22 c (entVersion y.spare.entry) (entVersion y.active.entry)
        ((s1.modComp c (fun y => y.setSpare { y.spare with st := .failed })).modFw (fun f =>
          { f with sess := f.sess.map (fun x => { x with reason := Status.hwFault.code, rcomp := c }) })).fwChanged
      else s
    if active then (s1, true)
    else if y.spare.st = .previous ∧ other = true then
      let bad : FwSlot := { y.active with st := .failed }
      let good : FwSlot := { y.spare with st := .active }
      let y' : FwComp := if y.b.st = .active then { y with a := good, b := bad } else { y with a := bad, b := good }
      ((s1.fwAudit 0x22 c (entVersion y.active.entry) (entVersion y.spare.entry)).modComp c (fun _ => y'), true)
    else (s1, false)

/-- Slots that a session ended by loss of supply left LOADING or COMMITTED are erased (R532). -/
def State.fwSweep (s : State) : State :=
  if s.fw.sess.isSome then s
  else actOrder.foldl (fun s c =>
    if (s.comp c).spare.st = .loading ∨ (s.comp c).spare.st = .committed then s.modComp c (fun y => y.setSpare FwSlot.blank) else s) s

/-- SUPPLY_GOOD: VDD_GH is up, FK time counts from zero, and the security ROM verifies GATE. The clerk starts; if neither slot passes, the
compute die stays unpowered and REPLACE_REQ# is driven. -/
def execSupplyGood (active other : Bool) (s : State) : Res :=
  .next (if s.md.supply then s
    else
      let r := (s.modMd (fun m => { m with supply := true })).fwLoad 1 active other
      if r.2 then
        ((r.1.modMd (fun m => { m with clerk := true })).fwSweep.auditDevice 0x23 0 0 0 []).railsStart
      else ((r.1.modMd (fun m => { m with gateFailed := true })).emit (.pin "REPLACE_REQ#" false)).emit (.pin "AMBER" true))

/-! ### Start-up (R569 to R571) -/

/-- Step 5 of start-up: the front end starts. Every pitch is OFF, every port's EN is 0, no region is enabled and VALID is clear. A thermal
trip before it is reported now, by its sensor (R511). -/
def State.startDone (s : State) : State :=
  let s1 := ({ s with clk := { s.clk with valid := false } }.modMd (fun m => { m with started := true, faults := 0 })).reviewDegraded
  let s2 := if s1.degraded && !s1.health.replace then
      ({ s1 with health := { s1.health with replace := true } }.emit (.pin "REPLACE_REQ#" false)).emit (.pin "AMBER" true)
    else s1
  match s2.md.tripNote with
  | some (n, temp) =>
    (s2.postFault srcClerk (FaultInfo.noCtx 4 .hwFault 0x31 n temp 0 none none)).modMd (fun m => { m with tripNote := none })
  | none => s2

/-- Step 5 runs once training is done and FRONT has passed. -/
def State.startTry (s : State) : State := if s.md.trained && s.md.verified.contains 2 && !s.md.started then s.startDone else s

/-- Whether start-up is in its steps 1 to 5. -/
def State.starting (s : State) : Bool := s.md.rails == 6 && !s.md.removing && !s.md.started && !s.crst.held

/-- COMPONENT_VERIFIED: LINK, MEMC, STALL and FRONT in activation order. -/
def execComponentVerified (c : FwId) (active other : Bool) (s : State) : Res :=
  let k := c.val + 1
  .next (if s.starting && actOrder[s.md.verified.length]? == some k && k != 1 then
      let r := s.fwLoad k active other
      if r.2 then (r.1.modMd (fun m => { m with verified := m.verified ++ [k] })).startTry else r.1
    else s)

/-- HBM_TRAINING_DONE: in a chip reset, its steps 6 to 8; in start-up, steps 3 and 4: `hot` are the stacks at or above 85 °C, `units` and
`sts` what training and the built-in checks find of units and the stalls that they fail. -/
def execHbmTrainingDone (hot : List StackId) (units : List UnitFinding) (sts : List StallId) (s : State) : Res :=
  .next (if s.crst.held then s
    else if s.crst.step = 6 then s.hbmUp hot units sts
    else if s.starting && s.md.verified.contains 4 && !s.md.trained then
      let s1 := (s.stacksUp hot).pchsFail units
      ((sts.foldl (fun (s : State) (st : StallId) => s.mapOutStall st Status.hwFault.code) s1).modMd (fun m => { m with trained := true })).startTry
    else s)

/-! ### PERST# (R463, R467, R570, R571) -/

/-- The host port in reset: its virtual functions and MSI-X state are gone. -/
def State.hostReset (s : State) : State :=
  { s with msi := [] }.modMd (fun m => { m with hostUp := false, numVfs := 0, fnMask := 0 })

/-- PERST_ASSERT: the host port is reset; after start-up, with a chip reset. -/
def execPerstAssert (s : State) : Res :=
  let s1 := s.hostReset.modMd (fun m => { m with perst := true })
  .next (if s.md.started then s1.chipReset 3 false true srcGate (s1.seqOf srcGate) else s1)

/-- PERST_DEASSERT: the host port trains, if its domain is powered. -/
def execPerstDeassert (s : State) : Res :=
  .next (s.modMd (fun m => { m with perst := false, hostUp := decide (2 ≤ m.rails) && !m.removing }))

/-! ### Cables (R565) -/

/-- CABLE_OVERCURRENT: the end of a port's cable loses its supply, and the port's links stay in TRAIN. The bridge has no connector. -/
def execCableOvercurrent (n : PortId) (s : State) : Res :=
  .next (if s.md.rails < 2 ∨ (s.chip.part = .d1536 ∧ n.val = 7) then s
    else
      let s1 := s.modMd (fun m => { m with cableOff := m.cableOff ||| BitVec.ofNat 8 (2 ^ n.val) })
      (portLinks n).foldl (fun s i => if (s.link i).trained then s.linkLeave i .train true else s) s1)

/-! ### Signals and lamps (Tables 23-7, 23-8) -/

/-- ALERT# is low: a die sensor or a stack is HOT or above, or the limiting stage is 2 or above. That the input lies below 46 V is the
platform's to see. -/
def State.alertLow (s : State) : Bool :=
  (List.range 68).any (fun n => decide (2 ≤ (s.sensor n).acts)) || (List.range 12).any (fun k => decide (2 ≤ (s.stack k).step))
    || decide (2 ≤ s.pw.stage)

/-- REPLACE_REQ# is low, and THERMTRIP#. -/
def State.replaceLow (s : State) : Bool := s.health.replace || s.md.gateFailed
def State.tripLow (s : State) : Bool := s.md.tripped

/-- What a lamp shows: off, blinking at 1 Hz or at 4 Hz, or steady. -/
inductive Lamp where
  | off | slow | fast | steady
  deriving DecidableEq, Repr

/-- The green lamp; the lowest row of Table 23-8 that applies wins. -/
def State.green (s : State) : Lamp :=
  if !s.md.supply then .off
  else if s.md.rails != 6 || s.md.removing then .slow
  else if s.md.started && s.md.hostUp then .steady
  else .fast

/-- The amber lamp. -/
def State.amber (s : State) : Lamp := if s.tripLow then .slow else if s.replaceLow then .steady else .off

end Sys2Proof.Machine
end

