-- ==== Sys2Proof/Machine/Packer.lean ====
section
/-! DEFINITION. The Packer at work: BLOCK_DECODE, FACTOR_EXPAND_TILE, ENCODED_WRITE_PASS, ENT_TABLE_BUILD_DONE,
ENT_DECODER_TABLE_LOAD (spec 10 R244 to R264). -/

namespace Sys2Proof.Machine

/-! ### One unit decoded (R246, R261 to R263) -/

/-- What the decode of a unit comes to. -/
inductive UnitOut where
  /-- the decoder must first load the block's table -/
  | wait (s : State)
  | err (s : State) (e : XErr)
  /-- a failure of check 3 or 4, which poisons a destination in device memory -/
  | bad (s : State) (e : XErr)
  | poisoned (s : State) (addr : Nat)
  | got (s : State) (g : Seg)

/-- The address of the block header of a tensor's unit, and of the unit (R243). -/
def State.unitAddrs (s : State) (p n : Nat) (d : TDesc) (u : Nat) : Nat × Nat :=
  let sz := s.pkrUnit p n
  (s.pkrHdr p n + 16 * ((d.base - s.pkrBase p n) / sz + u), d.base + sz * u)

/-- What block `u` of a tensor is checked against. -/
def State.unitWant (s : State) (p n : Nat) (d : TDesc) (u : Nat) : BlockWant :=
  let total := if s.pkrSeg p n then d.streamBytes else d.imageBytes
  { codec := s.pkrCodec p n, rlen := min 4096 (total - 4096 * u),
    width := if d.fmt.el.width = 16 then some 2 else if d.fmt.el.width = 32 then some 4 else none, unit := u }

/-- The end of a decode: exactly CLEN bytes in and RLEN out, or DECODE_SHORT or DECODE_LONG (R261 check 4). -/
def unitResult (s : State) (r : Reader) (d : TDesc) (u ha : Nat) (h payload : List Byte) (lens : List Nat) (g : Seg) (seg : Bool) :
    UnitOut :=
  let y := blockDecode h payload lens
  let codec := fieldAt h 4 1
  let fail := fun (st : Status) kind =>
    UnitOut.bad s (.own st (packSyndrome kind r.engine d.tag.toNat u codec) ha 0x07 (codec - 1))
  if y.short then fail .decodeShort 3
  else if y.long then fail .decodeLong 4
  else
    let raw := if seg then y.bytes ++ List.replicate (4096 - y.bytes.length) 0 else y.bytes
    .got s { g with elems := raw, trailer := if seg then retrail g.trailer raw else [] }

/-- Unit `u` of a tensor in packed region `n`, read, checked and decoded in the order of Table 10-9. `first` is the SEG_INDEX of the
read's first segment where one has been read. -/
def State.decodeUnit (s : State) (r : Reader) (p n : Nat) (csr : Option Nat) (d : TDesc) (u : Nat) (first : Option Nat) : UnitOut :=
  let ad := s.unitAddrs p n d u
  let seg := s.pkrSeg p n
  let stop := fun (x : Rd) => match x with
    | .poison a => UnitOut.poisoned s (a / 64 * 64)
    | x => (match x.err with
      | some e => .err s e
      | none => .wait s)
  match s.readDev p csr ad.1 16 with
  | .ok h =>
    let codec := fieldAt h 4 1
    (match headerFails h (s.unitWant p n d u) with
     | some kind => .err s (.own .badDescriptor (packSyndrome kind r.engine d.tag.toNat u codec) ad.1 0x07 (s.pkrCodec p n - 1))
     | none =>
       let clen := fieldAt h 0 2
       match s.readDev p csr ad.2 (min 4096 (ceilDiv clen 64 * 64)) with
       | .ok stored =>
         let payload := stored.take clen
         let pair : PairRd := (if seg then
             match s.readDev p csr (ad.2 + 4096) 32, s.readDev p csr (recAddr d.fmt.el d.sbase u) (recordSize d.fmt.el) with
             | .ok t, .ok rc => .got ⟨stored ++ List.replicate (4096 - stored.length) 0, t, rc⟩
             | .ok _, x => .stop x
             | x, _ => .stop x
           else .got ⟨stored, [], []⟩)
         (match pair with
          | .stop x => stop x
          | .got g =>
            let want := d.want (first.getD (fieldAt g.trailer 4 4 - u)) u
            match (if seg then g.fails d.fmt.el want else none) with
            | some bad => .err s (.own bad.1 (g.syndrome bad.2 r.engine) ad.2 r.ukind r.uindex)
            | none =>
              let g' : Seg := ⟨[], g.trailer, g.record⟩
              if codec ≠ 2 then unitResult s r d u ad.1 h payload [] g' seg
              else
                let id := fieldAt h 6 2
                let gen := fieldAt h 8 1
                let held := (s.stall r.stall).entHeld.contains (id, gen)
                (match s.useOf r.stall r.engine with
                 | some w =>
                   if held then unitResult (s.endUse w) r d u ad.1 h payload (s.slotLens p w.slot) g' seg else .wait s
                 | none =>
                   match s.slotReady p id gen with
                   | none => .bad s (.own .tableMissing (packSyndrome 2 r.engine id u gen) ad.1 0x07 1)
                   | some i =>
                     if held then unitResult s r d u ad.1 h payload (s.slotLens p i) g' seg
                     else .wait ((s.slotTake p i).addUse
                       { launch := r.launch, stall := r.stall, unit := r.engine, pitch := p, slot := i, building := false })))
       | x => stop x)
  | x => stop x

/-- The lines of a device-memory destination that a block of a tensor would fill, written poisoned (R263). A destination in a packed region
has them in the unit of the same number. -/
def State.poisonBlock (s : State) (st : Nat) (x : Xfer) (l : Launch) (src d : TDesc) (seg : Bool) (u : Nat) : State :=
  let csr := some l.csr.toNat
  let who := some (s.ctxFaultInfo l (some st) .ok 0x02 x.ctx 0 0)
  let bad := fun (n : Nat) => List.replicate n ((0 : Byte), some 0)
  let packed := (match s.pkDst l.pitch d with
    | .unit n => some n
    | _ => none)
  if (s.devRefuses l.pitch csr packed.isSome d.devRanges).isSome then s
  else if let some n := packed then s.devStore l.pitch csr who (s.unitAddrs l.pitch n d u).2 (bad (s.pkrUnit l.pitch n))
  else if seg then s.devStore l.pitch csr who (segAddr d.base u) (bad 4128)
  else
    let w := d.fmt.el.width
    let lines := ((List.range d.count).filterMap (fun i =>
      let off := src.rowAt (i / src.extent 0) - src.base + (i % src.extent 0) * w / 8
      if off / 4096 = u then some ((d.rowAt (i / d.extent 0) + (i % d.extent 0) * w / 8) / 64 * 64) else none)).eraseDups
    lines.foldl (fun s a => s.devStore l.pitch csr who a (bad 1)) s

/-- The next unit of a channel's decoded read. -/
def State.chanUnit (s : State) (st ch : Nat) : State :=
  match (s.chanOf st ch).actor? with
  | none => s
  | some x =>
    match s.launch? x.launch with
    | none => s
    | some l =>
      match TDesc.parse (s.stallsOf l.pitch) x.s1, TDesc.parse (s.stallsOf l.pitch) x.d with
      | some src, some dst =>
        (match x.kind, sideOf src x.srcHost, s.pkSrc l.pitch src with
         | .copy, .dev, .unit n =>
           let seg := s.pkrSeg l.pitch n
           let u := x.pairs.length
           if src.units seg ≤ u then s
           else
             let dev := sideOf dst x.dstHost == .dev
             let push := fun (s : State) (g : Option Seg) => s.modXfer st ch x.serial (fun y => { y with pairs := y.pairs ++ [(u, g)] })
             s.onRows st ch x (match s.decodeUnit (x.reader st ch) l.pitch n (some l.csr.toNat) src u
                 (if u = 0 then none else some (firstIndex x.pairs)) with
              | .wait s' => s'
              | .err s' e => if seg then s'.pairFail st ch x l src dst e else s'.xferErr st ch x e
              | .bad s' e => (if dev then s'.poisonBlock st x l src dst seg u else s').xferErr st ch x e
              | .poisoned s' a => if dev then push s' none else s'.xferErr st ch x (.poison a)
              | .got s' g => push s' (some g))
         | _, _, _ => s)
      | _, _ => s

/-! ### Tiles from packed regions -/

/-- The load of a split that takes its tile through the Packer or as pairs next: the oldest without its data. -/
def State.nextLoad (s : State) (st sp : Nat) : Option (Nat × Launch × TileLoad × TDesc) :=
  match s.splitLaunch st sp with
  | none => none
  | some (l, x) =>
    match (s.splitOf st sp).loads.find? (fun t => t.data.isNone) with
    | none => none
    | some t =>
      match s.tensor st t.ctx t.desc with
      | some d => if d.loc = 0 then some (l, x, t, d) else none
      | none => none

/-- Bytes of a plain tensor's image that hold element `e`: first byte, number of bytes, bit shift. -/
def TDesc.imageAt (d : TDesc) (e : Nat) : Nat × Nat × Nat :=
  let p := d.elemPos e
  (p.1 + p.2 / 8, (p.2 % 8 + d.fmt.el.width + 7) / 8, p.2 % 8)

/-- The units of 4,096 raw bytes that a tile of a plain tensor needs. -/
def TDesc.tileUnits (d : TDesc) (cols : List Nat) (k0 kt : Nat) : List Nat :=
  let want := ((cols.filter (· < d.colCount)).flatMap (fun n =>
    (List.range (d.colLen k0 kt)).flatMap (fun i =>
      let a := d.imageAt (d.colAt n (k0 + i))
      [a.1 / 4096, (a.1 + a.2.1 - 1) / 4096]))).eraseDups
  (List.range (d.units false)).filter want.contains

/-- A plain column from decoded units. -/
def TDesc.colFromUnits (d : TDesc) (ps : List Kept') (n k0 len : Nat) : TileCol :=
  ((List.range len).map (fun i =>
    let a := d.imageAt (d.colAt n (k0 + i))
    let v := leNat ((List.range a.2.1).map (fun b => ((pairBytes ps ((a.1 + b) / 4096))[(a.1 + b) % 4096]?).getD 0))
    (v / 2 ^ a.2.2) % 2 ^ d.fmt.el.width), [], [])

/-- A load with all its segments or units in: its tile arrives. -/
def State.loadDone (s : State) (st sp l : Nat) (t : TileLoad) (d : TDesc) (plain : Bool) : State :=
  let e := t.extent (s.splitOf st sp) (s.splitWidth st) d
  let len := d.colLen e.2.1 e.2.2
  let first := ((t.pairs[0]?).map (fun q => fieldAt q.2.2 4 4 - q.1)).getD 0
  s.tileArrives st sp l t d e.2.2 (e.1.map (fun n =>
    if d.colCount ≤ n then ([], [], [])
    else if plain then d.colFromUnits t.pairs n e.2.1 len
    else d.colFromPairs first t.pairs n e.2.1 len))

/-- A segment or unit given to a load; with the last one its tile arrives. -/
def State.loadGot (s : State) (st sp l : Nat) (t : TileLoad) (d : TDesc) (need : List Nat) (plain : Bool) (k : Kept') : State :=
  let t' := { t with pairs := t.pairs ++ [k] }
  let s1 := s.modLoad st sp t.num (fun _ => t')
  if need.all (fun n => t'.pairs.any (fun q => q.1 == n)) then s1.loadDone st sp l t' d plain else s1

/-- The next unit of a tile stream's decoded read. -/
def State.tileUnit (s : State) (st sp : Nat) : State :=
  match s.nextLoad st sp with
  | none => s
  | some (l, x, t, d) =>
    match s.pkSrc x.pitch d with
    | .unit n =>
      let seg := s.pkrSeg x.pitch n
      let e := t.extent (s.splitOf st sp) (s.splitWidth st) d
      let need := if seg then d.tileSegs e.1 e.2.1 e.2.2 else d.tileUnits e.1 e.2.1 e.2.2
      (match need.find? (fun u => !t.pairs.any (fun q => q.1 == u)) with
       | none => s
       | some u =>
         let r := t.reader l st sp true
         let first := (t.pairs[0]?).map (fun q => fieldAt q.2.2 4 4 - q.1)
         (match s.decodeUnit r x.pitch n (some x.csr.toNat) d u first with
          | .wait s' => s'
          | .err s' z => s'.rdErr r x.pitch z
          | .bad s' z => s'.rdErr r x.pitch z
          | .poisoned s' a => s'.rdPoison r a
          | .got s' g => s'.loadGot st sp l t d need (!seg) (u, g.elems, g.record)))
    | .refused | .stored => s.rdErr (t.reader l st sp true) x.pitch (.denied d.base false)
    | _ => s

/-- BLOCK_DECODE: a packed block of a channel (0 to 7) or of a split's tile stream (8 to 11) is checked and decoded. -/
def execBlockDecode (st : StallId) (eng : Fin 12) (s : State) : Res :=
  .next (if eng.val < 8 then s.chanUnit st eng else s.tileUnit st (eng - 8))

/-- ENT_DECODER_TABLE_LOAD: the decoder of a stall has loaded the table that its oldest waiting block names; it holds four. -/
def execEntDecoderTableLoad (st : StallId) (s : State) : Res :=
  let key := fun (u : EntUse) => (s.slotId u.pitch u.slot, s.slotGen u.pitch u.slot)
  .next (match s.mem.entUse.find? (fun u => u.stall == st.val && !u.building && !(s.stall st).entHeld.contains (key u)) with
    | none => s
    | some u => s.modStall st (fun x => { x with entHeld := (key u :: x.entHeld).take 4 }))

/-! ### The factor expander (R257 to R260) -/

/-- Fields of a factor-set header (Table 10-8). -/
structure LowrHead where
  rank : Nat
  base : Bool
  rnd : RMode
  ubase : Nat
  vbase : Nat
  /-- the base tensor as a descriptor -/
  b : TDesc

/-- A factor-set header checked against a descriptor (R258). -/
def lowrHead (h : List Byte) (d : TDesc) : Option LowrHead :=
  let f := fieldAt h
  let rank := f 9 1
  let flags := f 10 1
  let base := bit flags 0
  let k := f 16 4
  let n := f 20 4
  let ok := f 8 1 == 3 && decide (1 ≤ rank) && decide (rank ≤ 64) && decide (flags < 8) && zeroAt h 14 2 && zeroAt h 56 8
    && f 24 8 % 64 == 0 && f 32 8 % 64 == 0 && zeroAt h 30 2 && zeroAt h 38 2 && zeroAt h 46 2 && zeroAt h 54 2
    && f 0 4 == (k + n) * rank * 2 && f 4 4 == d.streamBytes
    && d.ndim == 2 && d.raxis == 0 && d.extent 0 == k && d.extent 1 == n
    && (if base then d.fmt.fam == .fb && f 11 1 == d.fmt.toCode && f 40 8 % 32 == 0
        else d.fmt == ⟨.plain, .bf16⟩ && zeroAt h 11 3 && zeroAt h 40 16)
  match ok, RMode.ofCode (bits flags 2 1) with
  | true, some rnd =>
    some { rank := rank, base := base, rnd := rnd, ubase := f 24 8, vbase := f 32 8,
           b := { d with base := f 40 8, sbase := f 48 8, tag := BitVec.ofNat 16 (f 12 2) } }
  | _, _ => none

/-- The piece of 64 rows, the last one shorter, that row `i` of a factor array of `n` rows lies in: its address and its bytes (R260). -/
def factorPiece (base rank n i : Nat) : Nat × Nat := (base + 2 * rank * 64 * (i / 64), 2 * rank * min 64 (n - 64 * (i / 64)))

/-- The bytes of row `i` of a factor array of `n` rows: out of a piece of 64 rows that the expander of a stall holds, else out of device
memory (R260). -/
def State.factorBytes (s : State) (st p : Nat) (csr : Option Nat) (base rank n i : Nat) : Except XErr (List FByte) :=
  let pc := factorPiece base rank n i
  match (s.stall st).factors.find? (fun e => e.1 == pc.1 && e.2.length == pc.2) with
  | some e => .ok (clean ((e.2.drop (2 * rank * (i % 64))).take (2 * rank)))
  | none => s.devFlags p csr (base + 2 * rank * i) (2 * rank)

/-- A row of factors: its values and its poison. -/
def State.factorRow (s : State) (st p : Nat) (csr : Option Nat) (base rank n i : Nat) : Except XErr (List FNum × Option Nat) :=
  match s.factorBytes st p csr base rank n i with
  | .error e => .error e
  | .ok fs => .ok ((chunksOf 2 (bare fs)).map (fun b => Elem.bf16.decode (leNat b)), firstFlag fs)

/-- Rows of a factor array of `n` rows, in order. -/
def State.factorRows (s : State) (st p : Nat) (csr : Option Nat) (base rank n : Nat) (rows : List Nat) :
    Except XErr (List (List FNum × Option Nat)) :=
  rows.foldl (fun (r : Except XErr (List (List FNum × Option Nat))) i => match r with
    | .error e => .error e
    | .ok l => (match s.factorRow st p csr base rank n i with
      | .ok x => .ok (l ++ [x])
      | .error e => .error e)) (.ok [])

/-- The base's pairs that a part of W needs, read and checked (R258, R185 to R187). A poisoned pair is kept as none. -/
def State.basePairs (s : State) (r : Reader) (p : Nat) (csr : Option Nat) (b : TDesc) (need : List Nat) :
    Except XErr (List (Nat × Option Seg)) :=
  need.foldl (fun (a : Except XErr (List (Nat × Option Seg))) n => match a with
    | .error e => .error e
    | .ok l =>
      match s.readPair p csr b.fmt.el b.base b.sbase n with
      | .stop (.poison _) => .ok (l ++ [(n, none)])
      | .stop x => (match x.err with
        | some e => .error e
        | none => .ok l)
      | .got g =>
        let first := ((l.findSome? (fun q => q.2.map (fun z => fieldAt z.trailer 4 4 - q.1)))).getD (fieldAt g.trailer 4 4 - n)
        (match g.fails b.fmt.el (b.want first n) with
         | some bad => .error (.own bad.1 (g.syndrome bad.2 r.engine) (segAddr b.base n) r.ukind r.uindex)
         | none => .ok (l ++ [(n, some ⟨g.elems, g.trailer, g.record⟩)]))) (.ok [])

/-- One element of W: its code, and whether NONFINITE is raised (R259). -/
def lowrElem (h : LowrHead) (d : TDesc) (seed : W64) (e : Nat) (u v : List FNum) (b : FNum) (c : Option Dy) : Nat × Bool :=
  let sum := (u.zip v).foldl (fun (a : FNum) x => a.add (x.1.mul x.2)) (.fin false 0 0)
  let x := sum.add b
  let odd := !b.isFin || u.any (fun y => !y.isFin) || v.any (fun y => !y.isFin)
  let put := fun (y : FNum) => d.fmt.el.encode h.rnd false (srBits seed d.tag e) y
  match c with
  | none => let r := put x; (r.1, r.2 || odd)
  | some c =>
    if c.m = 0 then (0, odd)
    else match x with
      | .fin neg m ex => let r := put (FNum.ofDy neg (Dy.ovr (FNum.toDy (.fin neg m ex)) c)); (r.1, r.2 || odd)
      | y => let r := put y; (r.1, r.2 || odd)

/-- A part of W expanded. -/
structure Expanded where
  /-- columns: codes with their poison, block scales, slab scales -/
  cols : List (List (Nat × Option Nat) × List Nat × List Half)
  pairs : List (Nat × Option Seg)
  nonfin : Bool

/-- Columns `ns` of W from reduction index `k0`, `len` of them, with every factor and base value that they need (R259). -/
def State.expand (s : State) (r : Reader) (p : Nat) (csr : Option Nat) (seed : W64) (h : LowrHead) (d : TDesc) (ns : List Nat)
    (k0 len : Nat) (need : List Nat) : Except XErr Expanded :=
  let el := d.fmt.el
  match s.factorRows r.stall p csr h.ubase h.rank (d.extent 0) ((List.range len).map (k0 + ·)),
      s.factorRows r.stall p csr h.vbase h.rank (d.extent 1) ns,
      (if h.base then s.basePairs r p csr h.b need else .ok []) with
  | .ok us, .ok vs, .ok ps =>
    let ks := keptOf ps
    let first := ((ps.findSome? (fun q => q.2.map (fun z => fieldAt z.trailer 4 4 - q.1)))).getD 0
    let cols := (ns.zip vs).map (fun nv =>
      let bcol : TileCol := if h.base then h.b.colFromPairs first ks nv.1 k0 len else ([], [], [])
      let segFlag := fun (i : Nat) =>
        if h.base then
          let n := (d.colAt nv.1 (k0 + i)) * el.width / 8 / 4096
          if (segAt ps n).isSome then none else some (segAddr h.b.base n)
        else none
      let es := (us.zipIdx).map (fun ui =>
        let i := ui.2
        let slab := (bcol.2.2[i / 32]?).getD 0
        let bs := (bcol.2.1[i / 32]?).getD 0
        let bv := if h.base then scaled el ((bcol.1[i]?).getD 0) bs slab else .fin false 0 0
        let c := if h.base then some (Dy.mul (ue5m3 bs) ((slabScale slab).getD Dy.zero)) else none
        let y := lowrElem h d seed (d.colAt nv.1 (k0 + i)) ui.1.1 nv.2.1 bv c
        ((y.1, (ui.1.2.orElse (fun _ => nv.2.2)).orElse (fun _ => segFlag i)), y.2))
      ((es.map (·.1), bcol.2.1, bcol.2.2), es.any (·.2)))
    if h.base && cols.any (fun c => c.1.2.2.any (fun z => (slabScale z).isNone)) then
      .error (.bad .badDescriptor d.base)
    else .ok { cols := cols.map (·.1), pairs := ps, nonfin := cols.any (·.2) }
  | .error e, _, _ => .error e
  | _, .error e, _ => .error e
  | _, _, .error e => .error e

/-- The expander's buffer after it has used pieces, least recently used last, 256 KiB in all (R260). -/
def usePieces (held used : List (Nat × List Byte)) : List (Nat × List Byte) :=
  let same := fun (x y : Nat × List Byte) => x.1 == y.1 && x.2.length == y.2.length
  ((used ++ held.filter (fun x => !used.any (same x))).foldl (fun (a : List (Nat × List Byte) × Nat) x =>
    if a.2 + x.2.length ≤ 262144 then (a.1 ++ [x], a.2 + x.2.length) else a) ([], 0)).1

/-- The pieces of U and V that rows lie in. -/
def LowrHead.pieces (h : LowrHead) (d : TDesc) (us vs : List Nat) : List (Nat × Nat) :=
  (us.map (factorPiece h.ubase h.rank (d.extent 0)) ++ vs.map (factorPiece h.vbase h.rank (d.extent 1))).eraseDups

/-- The state in which the expander of a stall holds the pieces that a launch `l` has used, its last user: those that it held as they
were, the others as they were read (R260). A piece that is poisoned is not kept. -/
def State.keepPieces (s : State) (st l p : Nat) (csr : Option Nat) (pcs : List (Nat × Nat)) : State :=
  let held := (s.stall st).factors
  let used := pcs.filterMap (fun pc => match held.find? (fun e => e.1 == pc.1 && e.2.length == pc.2) with
    | some e => some e
    | none => (match s.readDev p csr pc.1 pc.2 with
      | .ok bs => some (pc.1, bs)
      | _ => none))
  s.modStall st (fun y => { y with factors := usePieces y.factors used, factorsBy := some l })

/-- Whether the factors and the base lie outside every active region (R257). -/
def State.lowrOutside (s : State) (p : Nat) (h : LowrHead) (d : TDesc) : Bool :=
  !s.inRegion p h.ubase (2 * h.rank * d.extent 0) && !s.inRegion p h.vbase (2 * h.rank * d.extent 1)
    && !(h.base && h.b.fbRanges.any (fun x => s.inRegion p x.1 x.2))

/-- The factor-set header of a descriptor, read and checked. -/
def State.lowrRead (s : State) (r : Reader) (p : Nat) (csr : Option Nat) (d : TDesc) : Except XErr LowrHead :=
  match s.readDev p csr d.base 64 with
  | .ok h =>
    (match lowrHead h d with
     | some x =>
       if d.base % 64 ≠ 0 then .error (.own .badDescriptor (packSyndrome 5 r.engine d.tag.toNat 0 3) d.base 0x07 2)
       else if s.lowrOutside p x d then .ok x else .error (.denied x.ubase false)
     | none => .error (.own .badDescriptor (packSyndrome 5 r.engine d.tag.toNat 0 (fieldAt h 8 1)) d.base 0x07 2))
  | x => (match x.err with
    | some e => .error e
    | none => .error .fatal)

/-- A tile of a LOWR tensor expanded for a split. -/
def State.tileExpand (s : State) (st sp : Nat) : State :=
  match s.nextLoad st sp with
  | none => s
  | some (l, x, t, d) =>
    match s.pkSrc x.pitch d with
    | .lowr _ =>
      let r := t.reader l st sp true
      let csr := some x.csr.toNat
      (match s.lowrRead r x.pitch csr d with
       | .error e => s.rdErr r x.pitch e
       | .ok h =>
         let e := t.extent (s.splitOf st sp) (s.splitWidth st) d
         let len := d.colLen e.2.1 e.2.2
         let ns := e.1.filter (· < d.colCount)
         (match s.expand r x.pitch csr x.seed h d ns e.2.1 len (h.b.tileSegs ns e.2.1 e.2.2) with
          | .error z => s.rdErr r x.pitch z
          | .ok w =>
            match w.cols.findSome? (fun c => firstFlag c.1) with
            | some a => s.rdPoison r a
            | none =>
              let s1 := (s.raiseFlags st t.ctx false w.nonfin).keepPieces st l x.pitch csr (h.pieces d ((List.range len).map (e.2.1 + ·)) ns)
              s1.tileArrives st sp l t d e.2.2
                ((w.cols.map (fun c => (c.1.map (·.1), c.2.1, c.2.2))) ++ List.replicate (e.1.length - ns.length) ([], [], []))))
    | _ => s

/-- A whole LOWR tensor expanded for a channel's copy (R260). -/
def State.chanExpand (s : State) (st ch : Nat) : State :=
  match (s.chanOf st ch).actor? with
  | none => s
  | some x =>
    match s.launch? x.launch with
    | none => s
    | some l =>
      match TDesc.parse (s.stallsOf l.pitch) x.s1 with
      | none => s
      | some d =>
        (match x.kind, sideOf d x.srcHost, s.pkSrc l.pitch d, x.data with
         | .copy, .dev, .lowr _, none =>
           let r := x.reader st ch
           let csr := some l.csr.toNat
           s.onRows st ch x (match s.lowrRead r l.pitch csr d with
            | .error e => s.xferErr st ch x e
            | .ok h =>
              let ns := List.range (d.extent 1)
              (match s.expand r l.pitch csr l.seed h d ns 0 (d.extent 0) (List.range h.b.segments) with
               | .error e => s.xferErr st ch x e
               | .ok w =>
                 let codes := w.cols.flatMap (·.1)
                 let data : XData := if h.base then
                     let b := h.b.runsOfSegs w.pairs
                     .runs [codeFlags d.fmt.el.width codes, b[1]?.getD [], b[2]?.getD []]
                   else .codes codes
                 let s1 := (s.raiseFlags st x.ctx false w.nonfin).keepPieces st x.launch l.pitch csr (h.pieces d (List.range (d.extent 0)) ns)
                 s1.modXfer st ch x.serial (fun y => { y with data := some data })))
         | _, _, _, _ => s)

/-- FACTOR_EXPAND_TILE: the expander has expanded a tile for a split (8 to 11) or a tensor for a channel's copy (0 to 7). -/
def execFactorExpandTile (st : StallId) (eng : Fin 12) (s : State) : Res :=
  .next (if eng.val < 8 then s.chanExpand st eng else s.tileExpand st (eng - 8))

/-! ### Encoded writes (R244, R245, R252, R254) -/

/-- The raw bytes of an encoding write's units, with the poison they carry: segments' element bytes, or the raw image. -/
def TDesc.rawUnits (d : TDesc) (seg : Bool) (runs : List (List FByte)) : List (List FByte) :=
  if seg then
    (List.range d.segments).map (fun i => ((runs[0]?.getD []).drop (4096 * i)).take (min 4096 (d.streamBytes - 4096 * i)))
  else
    let img := (d.byteRuns.zip runs).foldl (fun (a : Vector FByte (d.imageBytes)) x =>
      (x.2.zipIdx).foldl (fun a b => a.setIfInBounds (x.1.1 - d.base + b.2) b.1) a) (Vector.replicate d.imageBytes (0, none))
    (List.range (d.units false)).map (fun u => (img.toList.drop (4096 * u)).take 4096)

/-- One unit written: payload, trailer and record for a segment, then its header (R243, R245). A poisoned unit is written
poisoned. -/
def State.unitStore (s : State) (l : Launch) (who : Option FaultInfo) (d : TDesc) (n u : Nat) (t : Option EncTable)
    (raw : List FByte) (record : List FByte) : State :=
  let csr := some l.csr.toNat
  let ad := s.unitAddrs l.pitch n d u
  let seg := s.pkrSeg l.pitch n
  let codec := s.pkrCodec l.pitch n
  let w := if d.fmt.el.width = 32 then 4 else 2
  let lens := t.bind (fun z => if z.slot.isSome then some z.lens else none)
  -- a segment is padded to 4,096 raw bytes only where it is stored RAW
  let e := unitEncode codec w lens (bare raw)
  let fl := firstFlag raw
  let mark := fun (bs : List Byte) => bs.map (fun b => (b, fl))
  let body := if seg then e.1 ++ List.replicate (4096 - e.1.length) 0 else e.1
  let s1 := s.devStore l.pitch csr who ad.2 (mark body)
  let s2 := if seg then
      (s1.devStore l.pitch csr who (ad.2 + 4096)
        (mark (trailerBytes d.tag.toNat d.fmt.toCode u raw.length (u + 1 == d.segments) body))).devStore l.pitch csr who
          (recAddr d.fmt.el d.sbase u) record
    else s1
  s2.devStore l.pitch csr who ad.1 (clean (blockHeader e.1.length raw.length e.2 (if e.2 = 1 then (if w = 2 then 1 else 2) else 0)
    (if e.2 = 2 then d.tag.toNat else 0) (if e.2 = 2 then (t.map (·.gen)).getD 0 else 0) u))

/-- The encoding pass over a source. -/
def State.encodeAll (s : State) (st ch : Nat) (x : Xfer) (l : Launch) (d : TDesc) (n : Nat) (t : Option EncTable) (data : XData) :
    State :=
  let csr := some l.csr.toNat
  let seg := s.pkrSeg l.pitch n
  let runs := if seg then d.zeroPad (d.runsOf data) else d.runsOf data
  let hdrs := (s.unitAddrs l.pitch n d 0).1
  let ranges := (if seg then d.fbRanges else [(d.base, d.imageBytes)]) ++ [(hdrs, 16 * d.units seg)]
  match s.devRefuses l.pitch csr true ranges with
  | some e => s.xferErr st ch x e
  | none =>
    let who := some (s.ctxFaultInfo l (some st) .ok 0x02 x.ctx 0 0)
    let s1 := ((d.rawUnits seg runs).zipIdx).foldl (fun s y =>
      s.unitStore l who d n y.2 t y.1
        (if seg then recordFlags d.fmt.el d.tag.toNat d.fmt.toCode y.2 (runs[1]?.getD []) (runs[2]?.getD []) else [])) s
    State.pumpChan 4 st ch (s1.modXfer st ch x.serial (fun y => { y with written := true, wrote := d.dataBytes true }))

/-- The histogram pass of an ENT write: a slot taken and its lengths built, or an error record and RAW units where no slot is free
(R254). -/
def State.encodeCount (s : State) (st ch : Nat) (x : Xfer) (l : Launch) (d : TDesc) (n : Nat) (data : XData) : State :=
  if !s.tableActive l.pitch then s.xferErr st ch x (.bad .tableMissing d.base)
  else
    let runs := if s.pkrSeg l.pitch n then d.zeroPad (d.runsOf data) else d.runsOf data
    let raw := ((d.rawUnits (s.pkrSeg l.pitch n) runs).flatMap bare)
    let id := d.tag.toNat
    match s.slotFirstFree l.pitch with
    | none =>
      (s.postError l.pitch (srcChan st ch) .ok 5 id).modXfer st ch x.serial (fun y => { y with enc := some ⟨none, 0, [], true⟩ })
    | some i =>
      let gen := s.nextGen l.pitch id
      let u : EntUse := { launch := x.launch, stall := st, unit := ch, pitch := l.pitch, slot := i, building := true }
      let t : EncTable := ⟨some i, gen, entLengths (histogram raw), false⟩
      ((s.slotBuild l.pitch i id gen).addUse u).modXfer st ch x.serial (fun y => { y with enc := some t })

/-- ENCODED_WRITE_PASS: a pass of a channel's encoding write runs over its source (R254): the histogram of an ENT write, then the
encoding. What a host window gives has come before (PORTER_TRANSFER_COMPLETE). -/
def execEncodedWritePass (st : StallId) (ch : ChanId) (ups : List (Nat × BitVec 39)) (s : State) : Res :=
  .next (match (s.chanOf st ch).actor? with
    | none => s
    | some x =>
      match s.launch? x.launch with
      | none => s
      | some l =>
        match TDesc.parse (s.stallsOf l.pitch) x.s1, TDesc.parse (s.stallsOf l.pitch) x.d with
        | some src, some d =>
          (match x.kind, sideOf d x.dstHost, s.pkDst l.pitch d with
           | .copy, .dev, .unit n =>
             if (sideOf src x.srcHost = .host ∧ x.data.isNone) ∨ s.writeHeld l.pitch (some d) then s
             else s.onRows st ch x (match s.xferFetch st x src [] ups with
               | .wait => s
               | .err s' e => s'.xferErr st ch x e
               | .got s' data =>
                 if s'.pkrCodec l.pitch n = 1 then s'.encodeAll st ch x l d n none data
                 else match x.enc with
                   | none => s'.encodeCount st ch x l d n data
                   | some t => if t.ready then s'.encodeAll st ch x l d n (some t) data else s')
           | _, _, _ => s)
        | _, _ => s)

/-- ENT_TABLE_BUILD_DONE: the table of a channel's encoding write is written, and its slot is READY (R255). -/
def execEntTableBuildDone (st : StallId) (ch : ChanId) (s : State) : Res :=
  .next (match (s.chanOf st ch).actor?, s.useOf st ch with
    | some x, some u =>
      (match x.enc with
       | some t =>
         if u.building then
           let s1 := { s with mem := { s.mem with entUse := s.mem.entUse.filter (· != u) } }
           (s1.slotFinish u.pitch u.slot t.lens).modXfer st ch x.serial (fun y => { y with enc := some { t with ready := true } })
         else s
       | none => s)
    | _, _ => s)

end Sys2Proof.Machine
end

