-- ==== Sys2Proof/Machine/Power.lean ====
section
/-! DEFINITION. Sleep states of stalls, limiting and die temperature: STALL_DOZE, STALL_NAP, STALL_DARK, STALL_WAKE, POWER_LIMIT_PERIOD,
CURRENT_ALARM, CURRENT_ALARM_CLEAR, DIE_SENSOR_READ, THERMAL_CEILING_STEP (spec 20 R497 to R511). -/

namespace Sys2Proof.Machine

/-! ### Sleep states (Table 20-5) -/

/-- Whether a context has an instruction that may issue. -/
def Ctx.ready (c : Ctx) : Bool := c.live && c.wait == .none

/-- Work that a stall shows (R498): an instruction ready to issue; an operation in flight in its array, vector unit or Porter; a deferred
token action; a sweep. -/
def State.stallWork (s : State) (st : Nat) : Bool :=
  let x := s.stall st
  (List.range 4).any (fun c => (s.ctxOf st c).ready || !(s.ctxOf st c).vecq.isEmpty)
    || (List.range 4).any (fun k => let y := s.splitOf st k
        !y.waiting.isEmpty || !y.flight.isEmpty || !y.loads.isEmpty)
    || x.chans.any (fun c => !c.xfers.isEmpty)
    || s.tokens.any (fun t => t.stall == st && !t.deferred.isEmpty)
    || s.fe.launches.any (fun e => e.2.sweeping.contains st)
    || (List.range 24).any (fun p => (s.pitch p).sweeping.contains st)

/-- Whether the pitch of a stall is resetting. -/
def State.stallResets (s : State) (st : Nat) : Bool :=
  match s.pitchOfStall st with
  | some p => (s.pitch p).state == .resetting
  | none => false

/-- STALL_DOZE: 64 cycles without work. -/
def execStallDoze (st : StallId) (s : State) : Res :=
  .next (if (s.stall st).pwr = .active ∧ s.stallWork st = false ∧ s.dieDown = false then s.setPwr st .doze else s)

/-- NAP_IDLE in ns and DARK_IDLE in ns of the policy that a stall took; 0 acts as 1 (Table 20-6). -/
def Stall.napIdle (x : Stall) : Nat := max 1 (bits x.policy.toNat 11 0) * 1000
def Stall.darkIdle (x : Stall) : Nat := max 1 (bits x.policy.toNat 47 32) * 1000000

/-- STALL_NAP: a stall in DOZE has held no launch and had no work for NAP_IDLE, and no window in force names it (R173). The 64 cycles before DOZE, at most 80 ns, count. -/
def execStallNap (st : StallId) (s : State) : Res :=
  let x := s.stall st
  .next (if x.pwr = .doze ∧ s.stallHeld st = false ∧ s.stallWork st = false ∧ s.windowOn st = false ∧ s.stallResets st = false
      ∧ s.dieDown = false
      ∧ x.idleFrom.toNat + x.napIdle ≤ s.now.toNat + 80 then s.setPwr st .nap
    else s)

/-- STALL_DARK: a stall in NAP has held no launch for DARK_IDLE, its pitch permits DARK, and no window names it. -/
def execStallDark (st : StallId) (s : State) : Res :=
  let x := s.stall st
  .next (if x.pwr = .nap ∧ s.stallHeld st = false ∧ bit x.policy.toNat 16 = true ∧ s.windowOn st = false ∧ s.stallResets st = false
      ∧ s.dieDown = false ∧ x.freeFrom.toNat + x.darkIdle ≤ s.now.toNat then s.setPwr st .dark
    else s)

/-- STALL_WAKE: work reaches a stall that sleeps. One that is out of service, or whose unit belongs to no pitch, stays DARK. -/
def execStallWake (st : StallId) (s : State) : Res :=
  .next (if s.inService st && (s.pitchOfStall st).isSome && !s.dieDown then s.wakeStall st else s)

/-! ### Limiting (R506, Table 20-10) -/

/-- The state with limiting changed, and every stall retuned. -/
def State.modPw (s : State) (f : Power → Power) : State := { s with pw := f s.pw }.retune

/-- Over the limit: the next stage, or a move within the present one: at most 200 MHz or one throttle step. A ceiling that no stall runs
above is passed. `d` is the move in 25 MHz steps, which R506 bounds and does not fix. -/
def Power.tighten (p : Power) (fmax d : Nat) (above : Bool) : Power :=
  match p.stage with
  | 0 => if above then { p with stage := 1, ceil := min fmax 64 } else { p with stage := 2, ceil := max 32 (min fmax 64 - d) }
  | 1 => { p with stage := 2, ceil := max 32 (min fmax 64 - d) }
  | 2 => if p.ceil ≤ 32 then { p with stage := 3, k := 7 } else { p with ceil := max 32 (p.ceil - d) }
  | 3 => if p.k ≤ 2 then { p with stage := 4 } else { p with k := p.k - 1 }
  | _ => p

/-- At least 2 % below the limit over the last millisecond: one step back, in reverse order of the stages. -/
def Power.relax (p : Power) (fmax : Nat) : Power :=
  match p.stage with
  | 4 => { p with stage := 3 }
  | 3 => if 7 ≤ p.k then { p with stage := 2, k := 0 } else { p with k := p.k + 1 }
  | 2 => if min fmax 64 ≤ p.ceil + 1 then { p with stage := 1, ceil := min fmax 64 } else { p with ceil := p.ceil + 1 }
  | 1 => { p with stage := 0, ceil := fmax }
  | _ => { p with ceil := fmax }

/-- POWER_LIMIT_PERIOD: the clerk reads the input power in watts. How far it moves within its bound is free, and so is whether it moves up. -/
def execPowerLimitPeriod (watts : Nat) (s : State) : Res :=
  let p := { s.pw with readings := (watts :: s.pw.readings).take 20, ovr := s.pw.ovr + (if 2 ≤ s.pw.stage then 1 else 0) }
  let any := s.anyWord.toNat
  let above := (List.range 48).any (fun i => decide (64 < (s.stall i).fstep))
  .next (if s.limitW < watts then s.afterAny.modPw (fun _ => p.tighten s.fmax (1 + any % 8) above)
    else if p.readings.length = 20 ∧ p.average * 100 ≤ s.limitW * 98 ∧ (0 < p.stage ∨ p.ceil ≠ s.fmax) ∧ any % 2 = 0 then
      s.afterAny.modPw (fun _ => p.relax s.fmax)
    else s.afterAny.modPw (fun _ => p))

/-- A write of GH_PWR_LIMIT (R505). -/
def State.pwrLimitWrite (s : State) (v : Nat) : State :=
  s.installerWrite offPwrLimit (s.raw 0 offPwrLimit) v none false (fun s =>
    let s1 := s.setRaw 0 offPwrLimit (Nat.land v (mask 12 0 + mask 16 16 + mask 30 24))
    s1.modPw (fun p => { p with ceil := if p.stage = 0 then s1.fmax else min p.ceil s1.fmax }))

/-- CURRENT_ALARM: every split runs at most 4 of each 8 slots (R508). -/
def execCurrentAlarm (s : State) : Res := .next (s.modPw (fun p => { p with alarm := true }))

/-- CURRENT_ALARM_CLEAR. -/
def execCurrentAlarmClear (s : State) : Res := .next (s.modPw (fun p => { p with alarm := false }))

/-! ### Die temperature (R509 to R511) -/

/-- The step after a reading in 1/8 °C (Table 20-14). -/
def dieStep (was : Nat) (temp : Int) : Nat :=
  if 108 * 8 ≤ temp ∨ (was = 3 ∧ 103 * 8 ≤ temp) then 3
  else if 100 * 8 ≤ temp ∨ (2 ≤ was ∧ 97 * 8 ≤ temp) then 2
  else if 95 * 8 ≤ temp ∨ (1 ≤ was ∧ 92 * 8 ≤ temp) then 1
  else 0

/-- The state with a sensor changed, and every stall retuned. -/
def State.modSensor (s : State) (n : Nat) (f : Sensor → Sensor) : State :=
  s.modPw (fun p => { p with sensors := p.sensors.setIfInBounds n (f (s.sensor n)) })

/-- DIE_SENSOR_READ: the reading of a sensor, or none where it does not answer. At 115 °C the package trips. -/
def execDieSensorRead (n : SensorId) (temp : Option (BitVec 12)) (s : State) : Res :=
  .next (match temp with
    | none => s.modSensor n (fun x => { x with valid := false })
    | some t =>
      let s1 := s.modSensor n (fun x => { x with temp := t, valid := true, step := dieStep x.step t.toInt })
      if 115 * 8 ≤ t.toInt then s1.trip n t else s1)

/-- THERMAL_CEILING_STEP: 100 µs have passed. A sensor's ceiling falls while it reads 100 °C or above, or does not answer; it rises once HOT
is left. -/
def execThermalCeilingStep (n : SensorId) (s : State) : Res :=
  .next (s.modSensor n (fun x =>
    if !x.valid || (decide (2 ≤ x.step) && decide (100 * 8 ≤ x.temp.toInt)) then { x with ceil := max 32 (x.ceil - 1) }
    else if x.step < 2 then { x with ceil := min 74 (x.ceil + 1) }
    else x))

end Sys2Proof.Machine
end

