-- ==== Sys2Proof/Machine/Registers.lean ====
section
/-! DEFINITION. The set-up registers as the host reaches them: the installer block's writes, every register as it reads, REGISTER_WRITE and
MODE_WRITE (spec 22 R541 to R551; 19 R477 to R480, R493; and each register's home chapter). -/

namespace Sys2Proof.Machine

/-! ### The pair's mode (R480, Table 19-3) -/

/-- Whether the module carries two packages (R477). -/
def State.d1536 (s : State) : Bool := s.chip.part == .d1536

/-- The package leaves the pair: its ports follow their EN bits, and a failover counts no longer (Table 19-3, R493). -/
def State.unpair (s : State) : State :=
  let s1 := (s.modPair (fun p => { p with mode := 0, primary := false, state := .independent, portsHeld := false })).pairForget.finishAwaiting
  let s2 := (List.range 8).foldl (fun s n => if s.fld 0 (offPort n) 0 0 = 1 then s.portEnable n else s) s1
  { s2 with health := { s2.health with failover := false } }.reviewDegraded

/-- A MODE accepted: 3 acts as 0. -/
def State.setMode (s : State) (m : Nat) : State :=
  let m := if m % 4 = 3 then 0 else m % 4
  match s.pair.state, m with
  | .independent, 0 => s
  | .independent, m => s.modPair (fun p => { p with mode := m, state := .joining })
  | .joining, 0 => s.modPair (fun p => { p with mode := 0, state := .independent })
  | .joining, m => s.modPair (fun p => { p with mode := m })
  | _, 0 => s.unpair
  | _, _ => s

/-- MOD_PAIR and MOD_PAIR_SDC as they read (Tables 19-1, 19-2). -/
def State.pairView (s : State) : Nat :=
  if s.d1536 then s.pair.mode + s.chip.pkg * 4 + b2n s.pair.primary * 8 + s.pair.state.code * 16 + s.partner * 2 ^ 8
    + s.pair.failovers.toNat * 2 ^ 32 else 0
def State.sdcView (s : State) : Nat := if s.d1536 then s.pair.compared.toNat + s.pair.mismatch.toNat * 2 ^ 32 else 0

/-- A write of MOD_PAIR: accepted while every pitch of the package is OFF. -/
def State.modeWrite (s : State) (v : Nat) : State :=
  s.installerWrite offModPair s.pairView v none (!s.d1536 || !s.livePitches.isEmpty) (fun s => s.setMode v)

/-- MODE_WRITE. -/
def execModeWrite (m : Fin 4) (s : State) : Res :=
  let s := s.settleHost 0
  .next (s.modeWrite m)

/-! ### Writes of the installer block (Table 22-6) -/

/-- A write that stores the bits of a mask. -/
def State.maskWrite (s : State) (off v m : Nat) (pitch : Option Nat) (ignored : Bool) : State :=
  s.installerWrite off (s.raw 0 off) v pitch ignored (fun s => s.setRaw 0 off (blend (s.raw 0 off) v m))

/-- A write of a register of the installer's Daybook or fault ring at `base`: BASE, LOG2 and ADDR are fixed while EN is 1. `free` is the bits
of its second register that are not; `k` takes the ring that comes into force. -/
def State.ringWrite (s : State) (base off v free : Nat) (k : State → State) : State :=
  let old := s.raw 0 off
  let rw := if off = base then mask 0 0 + mask 63 12 else if off = base + 8 then mask 4 0 + free else if off = base + 16 then mask 63 3 else 0
  let fixed := if s.fld 0 base 0 0 = 1 then rw - (if off = base then 1 else 0) - (if off = base + 8 then free else 0) else 0
  if rw = 0 then s
  else s.installerWrite off old v none (differs v old fixed) (fun s =>
    let s1 := s.setRaw 0 off (blend old v rw)
    if off = base && bit v 0 && !bit old 0 then k s1 else s1)

/-- Whether a write of PT_FRANGEp is ignored (R347). -/
def State.frangeOff (s : State) (p v : Nat) : Bool :=
  let a := bits v 12 0
  let n := bits v 29 16
  decide (8192 < a + n)
    || (List.range 24).any (fun q => q != p && meets a n (s.fld 0 (offFrange q) 12 0) (s.fld 0 (offFrange q) 29 16))
    || !(s.fnQueues (s.fnOf p)).isEmpty

/-- Whether a write of PT_SLOTSp is ignored: the slots of all pitches would exceed 64 (R356). -/
def State.slotsOff (s : State) (p v : Nat) : Bool :=
  decide (64 < ((List.range 24).map (fun q => if q = p then bits v 6 0 else s.fld 0 (offSlots q) 6 0)).foldl (· + ·) 0)

/-- A write of a register of PT_XLATp to PT_PRSTp. -/
def State.pitchWrite (s : State) (p k v : Nat) : State :=
  match k with
  | 0x00 => s.xlatWrite p v
  | 0x08 => s.maskWrite (offMreg p) v (mask 8 0 + mask 24 16 + mask 55 32) (some p) false
  | 0x10 => s.maskWrite (offFrange p) v (mask 12 0 + mask 29 16) (some p) (s.frangeOff p v)
  | 0x18 => (s.quietWrite (offSlots p) v (s.slotsOff p v) (fun s => s.setRaw 0 (offSlots p) (bits v 6 0))).wakeFront
  | 0x20 => s.pcfgWrite p v
  | 0x28 => s.prstWrite p (bits v 1 0)
  | _ => s

/-- A write of MC_CSn_CTL, MC_CSn_MAP or MC_CSn_PITCH: the last two are fixed while EN is 1 (R287). -/
def State.regionWrite (s : State) (n k v : Nat) : State :=
  let fixed := fun (off m : Nat) => s.fld 0 (offCsCtl n) 0 0 == 1 && differs v (s.raw 0 off) m
  match k with
  | 0x00 => s.csWrite n v
  | 0x08 => s.maskWrite (offCsMap n) v (mask 47 0) none (fixed (offCsMap n) (mask 47 0))
  | 0x10 => s.maskWrite (offCsPitch n) v (mask 23 0) none (fixed (offCsPitch n) (mask 23 0))
  | _ => s

/-- Whether a group has a queue (R544). -/
def State.groupUsed (s : State) (g : Nat) : Bool := s.fe.queues.any (fun e => e.1 / 16 == g)

/-- A write of a register of the installer block; a register that only reads ignores it. -/
def State.pfWrite (s : State) (off v : Nat) : State :=
  if off = offTimeLoad then s.timeLoad (BitVec.ofNat 64 v)
  else if off = offTsync then s.tsyncWrite v
  else if offGhDbk ≤ off ∧ off < offGhDbk + 24 then
    s.ringWrite offGhDbk off v (mask 14 8) (fun s => { s with dbk := s.dbk.setIfInBounds 24 ((s.dbk[24]?.getD Ring.zero).fresh) })
  else if offGhFlt ≤ off ∧ off < offGhFlt + 24 then
    s.ringWrite offGhFlt off v (mask 8 8) (fun s => { s with flt := s.flt.setIfInBounds 24 ((s.flt[24]?.getD Ring.zero).fresh) })
  else if off = offGhDumpBase then
    s.maskWrite off v (mask 0 0 + mask 63 12) none (s.fld 0 off 0 0 == 1 && differs v (s.raw 0 off) (mask 63 12))
  else if off = offGhDumpCfg then s.dumpCfgWrite v
  else if off = offRetain then s.maskWrite off v (mask 23 0) none false
  else if off = offHangWin then s.maskWrite off v (mask 16 0) none false
  else if off = offCrst then s.crstWrite v
  else if off = offPwrLimit then s.pwrLimitWrite v
  else if off = offGhWin then s.maskWrite off v (mask 0 0 + mask 12 8 + mask 47 36) none false
  else if 0x1400000 ≤ off ∧ off < 0x1400600 then s.pitchWrite ((off - 0x1400000) / 0x40) (off % 0x40) v
  else if 0x1410000 ≤ off ∧ off < 0x1410200 then s.regionWrite ((off - 0x1410000) / 0x20) (off % 0x20) v
  else if off = offCsres then s.csresWrite v
  else if off = offTherm then s.quietWrite off v false (fun s => s.setRaw 0 off (bits v 7 0))
  else if 0x1501000 ≤ off ∧ off < 0x1501200 then s.maskWrite off v (mask 5 0) none (s.groupUsed ((off - 0x1501000) / 8))
  else if off = offLkChip then
    s.maskWrite off v (mask 11 0) none ((List.range 8).any (fun n => s.fld 0 (offPort n) 0 0 == 1))
  else if off = offSlowLim then s.maskWrite off v (mask 15 0) none false
  else if 0x1600100 ≤ off ∧ off < 0x1600180 ∧ off % 16 = 0 then s.portWrite ((off - 0x1600100) / 16) v
  else if 0x1608000 ≤ off ∧ off < 0x1610000 then s.maskWrite off v (mask 3 0) none false
  else if off = offSecAddr then s.quietWrite off v false (fun s => s.setRaw 0 off (blend 0 v (mask 63 14)))
  else if off = offSecCmd then s.quietWrite off v false (fun s => s.setRaw 0 off (bits v 7 0))
  else if 0x1800000 ≤ off ∧ off < 0x1800040 then s.winWrite ((off - 0x1800000) / 8) v
  else if off = offModPair then s.modeWrite v
  else s

/-! ### The registers of the installer block as they read -/

/-- A 64-bit value built of fields. -/
def fields (l : List (Nat × Nat)) : Nat := (l.map (fun e => e.1 * 2 ^ e.2)).foldl (· + ·) 0

/-- PART, PKG and STEP of an identification (Table 22-7). -/
def State.identBits (s : State) : Nat := 0xB0 + s.chip.part.code * 2 ^ 8 + s.chip.pkg * 2 ^ 10

/-- GH_TSTAT (Table 16-4). -/
def State.tstatView (s : State) : Nat :=
  fields [(s.clk.tstate, 0), (b2n s.clk.valid, 2), (b2n s.clk.ppsOk, 3), (s.clk.hops, 8), (lowBits 32 (max (-2 ^ 31) (min (2 ^ 31 - 1) s.clk.theta)), 16), (s.clk.ppsBad, 48)]

/-- A register of a Daybook or fault ring at `base`: BASE, CFG, HEAD, WRITTEN, DROPPED (Tables 16-8, 18-5). -/
def State.ringView (s : State) (fn base off : Nat) (r : Ring) (lo hi : Nat) : Nat :=
  if off = base then setBits (s.raw fn base) 1 1 (b2n (s.ringActive (fn, base) lo hi))
  else if off = base + 24 then r.written.toNat
  else if off = base + 32 then r.dropped.toNat
  else s.raw fn off

/-- Whether a spare or a change of capacity waits for the next chip reset (Table 18-24). -/
def State.mapPending (s : State) : Bool :=
  ((List.range 48).any (fun l => !s.inService l && s.pstall l != 0xFF) && !s.spares.isEmpty)
    || (List.range 24).any (fun u => s.mem.pchOut[u]?.getD 0 != s.mem.pchCut[u]?.getD 0)

/-- GH_HEALTH (Table 18-24). -/
def State.healthView (s : State) : Nat :=
  fields [(s.liveStalls, 0), (s.spares.length, 6),
    (((List.range 24).map (fun u => popcount (s.mem.pchOut[u]?.getD 0).toNat)).foldl (· + ·) 0 % 256, 16),
    (((List.range 32).filter (fun i => (s.link i).half)).length, 24), (b2n s.health.replace, 32), (b2n s.mapPending, 33)]

/-- GH_PWR_STAT and GH_TSENSn (Tables 20-11, 20-13). -/
def State.pwrStatView (s : State) : Nat :=
  fields [(s.pw.average % 8192, 0), (s.pw.stage, 13), (s.pw.ceil, 16), (b2n s.pw.alarm, 23), (s.pw.k, 24), (s.pw.ovr / 20 % 2 ^ 32, 32)]
def State.sensorView (s : State) (n : Nat) : Nat :=
  fields [((s.sensor n).temp.toNat, 0), (b2n (s.sensor n).valid, 12), ((s.sensor n).step, 13)]

/-- FE_SLOTn_STATE (Table 14-10). -/
def State.slotView (s : State) (n : Nat) : Nat :=
  let x := s.slotOf n
  match x.queue with
  | none => x.pitch * 2 ^ 16
  | some q =>
    match s.cond q with
    | .blocked r f => fields [(q, 0), (x.pitch, 16), (2, 21), (r, 23), (f, 32)]
    | _ => fields [(q, 0), (x.pitch, 16), (1, 21)]

/-- LK_PORTn_STAT (Table 17-6). -/
def State.portView (s : State) (n : Nat) : Nat :=
  let seen := (s.portSeen n).getD (0, 0, 0)
  fields ([(seen.1, 0), (seen.2.1, 12)]
    ++ (List.range 4).flatMap (fun k => [((s.link (4 * n + k)).state.code, 16 + 3 * k), (b2n (s.link (4 * n + k)).half, 28 + k)]))

/-- LK_LINKi_TX, RX, RETRY, DOWN. -/
def State.linkView (s : State) (i k : Nat) : Nat :=
  let l := s.link i
  match k with
  | 0x00 => l.tx.toNat
  | 0x08 => l.rx.toNat
  | 0x10 => l.retries.toNat
  | _ => l.down.toNat

/-- SEC_CMD and SEC_STAT (Tables 21-4, 21-6). -/
def State.secCmdView (s : State) : Nat := fields [(s.raw 0 offSecCmd % 256, 0), (s.sec.result, 16), (s.sec.count.toNat, 32)]
def State.secStatView (s : State) : Nat :=
  fields [(b2n s.sec.installer.isSome, 0), (s.sec.policy.toNat, 1), (b2n s.sec.unlocked, 7), (b2n s.sec.book.stalled, 8), (s.sec.book.free, 16)]

/-- ST_PWRs and ST_LMAPs (Tables 20-5, 22-9). -/
def State.stPwrView (s : State) (i : Nat) : Nat :=
  let x := s.stall i
  fields [(x.pwr.code, 0), (x.fstep, 8), (b2n x.tcap, 16), (b2n x.ithr, 17), (x.wakes.toNat, 32)]
def State.lmapView (s : State) (l : Nat) : Nat :=
  let p := s.pstall l
  if p < 52 then fields [(p, 0), (b2n (s.inService l), 6), (p % 13, 8), (p / 13, 12)] else fields [(p % 64, 0)]

/-- MC_PCHm and MC_STKs_STAT (Tables 18-26, 11-15). -/
def State.pchView (s : State) (u : Nat) : Nat := fields [((s.mem.pchOut[u]?.getD 0).toNat, 0), (s.unitCap u, 32)]
def State.stackView (s : State) (k : Nat) : Nat := fields [((s.stack k).temp.toNat, 0), ((s.stack k).step, 12)]

/-- PT_PRSTp (Table 15-8). -/
def State.prstView (s : State) (p : Nat) : Nat :=
  let x := s.pitch p
  fields [(b2n (x.state == .resetting), 2), (x.cause, 8), (b2n x.scrubbed, 11), (x.count.toNat, 32)]

/-- A register of the installer block as it reads; one on the compute die reads zero while the die does not serve (R464, R541). -/
def State.pfRead (s : State) (off : Nat) : Nat :=
  let k := off % 0x40
  let p := (off - 0x1400000) / 0x40
  if dieReg off && s.dieDown then 0
  else if off = 0x1000000 then s.now.toNat
  else if off = offTimeLoad then 0
  else if off = offTstat then s.tstatView
  else if offGhDbk ≤ off ∧ off ≤ offGhDbk + 32 then s.ringView 0 offGhDbk off (s.dbk[24]?.getD Ring.zero) 8 20
  else if offGhFlt ≤ off ∧ off ≤ offGhFlt + 32 then s.ringView 0 offGhFlt off (s.flt[24]?.getD Ring.zero) 6 16
  else if off = offGhDumpBase then
    setBits (s.raw 0 off) 1 1 (b2n (s.fld 0 off 0 0 == 1 && decide (1 ≤ s.fld 0 offGhDumpCfg 6 0) && decide (s.fld 0 offGhDumpCfg 6 0 ≤ 64)))
  else if off = offHealth then s.healthView
  else if off = offMapOut then s.health.out.toNat
  else if off = offCrst then
    fields [(b2n (s.crst.step != 0 || s.crst.held), 2), (s.crst.cause, 8), (s.crst.count.toNat, 32)]
  else if off = offPwrStat then s.pwrStatView
  else if 0x1003100 ≤ off ∧ off < 0x1003320 then s.sensorView ((off - 0x1003100) / 8)
  else if off = 0x1004000 then s.identBits + s.md.numVfs * 2 ^ 16
  else if off = 0x1004008 then s.chip.uid.toNat % 2 ^ 64
  else if off = 0x1004010 then s.chip.uid.toNat / 2 ^ 64
  else if 0x1400000 ≤ off ∧ off < 0x1400600 then
    (if k = 0x20 then s.pcfgView p else if k = 0x28 then s.prstView p else if k < 0x20 then s.raw 0 off else 0)
  else if 0x1410000 ≤ off ∧ off < 0x1410200 then
    (if off % 0x20 = 0 then s.csView ((off - 0x1410000) / 0x20) else if off % 0x20 < 0x18 then s.raw 0 off else 0)
  else if 0x1410300 ≤ off ∧ off < 0x1410360 then s.stackView ((off - 0x1410300) / 8)
  else if 0x1410400 ≤ off ∧ off < 0x14104C0 then s.pchView ((off - 0x1410400) / 8)
  else if 0x1500000 ≤ off ∧ off < 0x1500800 then
    (let n := (off - 0x1500000) / 0x20
     if off % 0x20 = 0 then s.slotView n else if off % 0x20 = 8 then (s.slotOf n).starts.toNat
     else if off % 0x20 = 16 then (s.slotOf n).dones.toNat else (s.slotOf n).res.toNat)
  else if 0x1502000 ≤ off ∧ off < 0x1502190 then (if off % 16 = 0 then (Tab.get 0 s.hostAcc ((off - 0x1502000) / 16)).toNat else 0)
  else if off = offLkChip then s.chipId + s.net.epoch.toNat * 2 ^ 16
  else if 0x1600100 ≤ off ∧ off < 0x1600180 ∧ off % 16 = 8 then s.portView ((off - 0x1600100) / 16)
  else if 0x1600200 ≤ off ∧ off < 0x1600600 then s.linkView ((off - 0x1600200) / 0x20) (off % 0x20)
  else if off = offSecCmd then s.secCmdView
  else if off = 0x1700010 then s.secStatView
  else if 0x1801000 ≤ off ∧ off < 0x1801600 then
    (let x := s.stall ((off - 0x1801000) / 0x20)
     if off % 0x20 = 0 then x.issue.toNat else if off % 0x20 = 8 then x.slots.toNat else if off % 0x20 = 16 then x.vec.toNat else 0)
  else if 0x1802000 ≤ off ∧ off < 0x1803800 then
    (let c := s.chanOf ((off - 0x1802000) / 0x80) ((off - 0x1802000) % 0x80 / 0x10)
     if off % 16 = 0 then c.nXfers.toNat else c.nBytes.toNat)
  else if 0x1804000 ≤ off ∧ off < 0x1804180 then s.stPwrView ((off - 0x1804000) / 8)
  else if 0x1805000 ≤ off ∧ off < 0x1805180 then s.lmapView ((off - 0x1805000) / 8)
  else if 0x1800000 ≤ off ∧ off < 0x1800040 then
    -- ACTIVE reads 1 until every granted access has taken effect (R173)
    setBits (s.raw 0 off) 3 3 (b2n (bit (s.raw 0 off) 3 || s.net.grants.any (fun g => decide (g.win = (off - 0x1800000) / 8))))
  else if off = offModPair then s.pairView
  else if off = offModSdc then s.sdcView
  else s.raw 0 off

/-- Whether an offset of the PF's BAR0 is a register of Table 22-6. -/
def pfNamed (off : Nat) : Bool :=
  let has := fun (a n : Nat) => decide (a ≤ off) && decide (off < a + 8 * n)
  off % 8 == 0 &&
    (has 0x1000000 4 || has offGhDbk 5 || has offGhFlt 5 || has offGhDumpBase 7 || has offPwrLimit 2 || has 0x1003100 68
      || has 0x1004000 4 || (has 0x1400000 192 && decide (off % 0x40 < 0x30)) || (has 0x1410000 64 && decide (off % 0x20 < 0x18))
      || has offCsres 2 || has 0x1410300 12 || has 0x1410400 24 || has 0x1500000 256 || has 0x1501000 64 || has 0x1502000 50
      || has offLkChip 2 || has 0x1600100 16 || has 0x1600200 128 || has 0x1608000 4096 || has 0x1700000 3 || has 0x1800000 8
      || (has 0x1801000 192 && decide (off % 0x20 < 0x18)) || has 0x1802000 768 || has 0x1804000 48 || has 0x1805000 48
      || has offModPair 2)

/-! ### The registers of a function's block as they read -/

/-- PT_RES and PT_STALLS (Table 22-7). -/
def State.resView (s : State) (p : Nat) : Nat :=
  fields [(s.fld 0 (offPcfg p) 23 0, 0), (s.vectorsOf p, 24), (s.slotsGiven p, 32), (s.spaceOf p / 2 ^ 21, 40)]
def State.stallsView (s : State) (p : Nat) : Nat := fields (((s.stallsOf p).filter s.inService).map (fun l => (1, l)))

/-- PT_IDENT and PT_BGRP. -/
def State.fnIdent (s : State) (fn : Nat) : Nat :=
  s.identBits + (if s.fnServes fn then (s.servedPitch fn).getD 0x1F else 0x1F) * 2 ^ 16 + fn * 2 ^ 24
def State.bgrpView (s : State) (fn : Nat) : Nat :=
  fields (((List.range 64).filter (fun g => s.groupFn g == some fn)).map (fun g => (1, g)))

/-- A register of a serving function's block as it reads: RO fields of its home chapter beside what is stored. -/
def State.fnRead (s : State) (fn off : Nat) : Nat :=
  let stored := Nat.land (s.raw fn off) (fnRw off)
  let active := fun (b : Bool) => stored + b2n b * 2
  let two := Nat.land (s.raw fn off) 2
  let p := (s.servedPitch fn).getD 24
  if off = 0x00 then s.fnIdent fn
  else if off = 0x08 then (if p < 24 then s.resView p else 0)
  else if off = 0x10 then s.bgrpView fn
  else if off = 0x18 then (if p < 24 then s.stallsView p else 0)
  else if off = offAccErr || off = offFnDef then s.raw fn off
  else if off = offAqCfg || off = offFctBase || off = offPktbl || (0x2000 ≤ off && off < 0x3000) then stored + two
  else if 0x1000 ≤ off ∧ off < 0x1200 ∧ off % 32 = 0 then stored + Nat.land (s.raw fn off) 32
  else if off = offRclBase then active (s.rclActive p)
  else if off = offFnArea then active (s.fenceActive p)
  else if 0x1400 ≤ off ∧ off < 0x1600 then (if s.tableSize fn ≤ (off - 0x1400) / 8 then 0
    else stored + (s.msiOf fn ((off - 0x1400) / 8)).sent.toNat * 2 ^ 32)
  else if offDbk ≤ off ∧ off ≤ offDbk + 32 then s.ringView fn offDbk off (s.dbk[p]?.getD Ring.zero) 8 20
  else if offFlt ≤ off ∧ off ≤ offFlt + 32 then s.ringView fn offFlt off (s.flt[p]?.getD Ring.zero) 6 16
  else if off = offTime then s.now.toNat
  else if off = offDumpBase then
    stored + b2n (s.fld fn off 0 0 == 1 && decide (0 < s.fld fn offDumpSize 23 0)
      && s.privWritable p (s.fld fn off 47 12 * 4096) (s.fld fn offDumpSize 23 0 * 4096)) * 2 + Nat.land (s.raw fn off) 4
  else if 0x1900 ≤ off ∧ off < 0x1980 ∧ off % 16 = 0 then active (s.mirActive p ((off - 0x1900) / 16))
  else if offMsix ≤ off ∧ off < offMsix + 16 * s.tableSize fn then
    (let m := s.msiOf fn ((off - offMsix) / 16)
     if off % 16 = 0 then m.addr.toNat else m.data.toNat + b2n m.mask * 2 ^ 32)
  else if off = offPba then fields (((List.range (s.tableSize fn)).filter (fun v => (s.msiOf fn v).pend)).map (fun v => (1, v)))
  else stored

/-- What a 64-bit read of a function's BAR0 returns (R541, R542, R373): a register that does not serve reads its reset value on an idle VF,
and zero on the PF. -/
def State.readReg (s : State) (fn off : Nat) : W64 :=
  BitVec.ofNat 64
    (if !s.fnThere fn || off % 8 != 0 then 0
     else if 0x10000 ≤ off then (if fn = 0 && pfNamed off then s.pfRead off else 0)
     else if !fnNamed off || s.dieDown then 0
     else if fn = 0 && (s.servedPitch 0).isNone && (decide (off = 0) || decide (off = 0x10) || decide (off = offAccErr) || decide (off = offPba)) then
       s.fnRead fn off
     else if off = 0 then s.fnIdent fn
     else if s.fnTakes fn off then s.fnRead fn off
     else if fn = 0 then 0
     else Nat.land (resetWord s.chip.part off) (fnRw off))

/-- What a read of a function's BAR0 returns: an aligned half or whole register, else zeros (R541). -/
def State.readBar0 (s : State) (fn off size : Nat) : Nat :=
  if size = 8 ∧ off % 8 = 0 then (s.readReg fn off).toNat
  else if size = 4 ∧ off % 4 = 0 then (s.readReg fn (off / 8 * 8)).toNat / 2 ^ (off % 8 * 8) % 2 ^ 32
  else 0

/-! ### REGISTER_WRITE -/

/-- A BAR0 write that is ignored under R541, or poisoned: counted in REG, which lies on the compute die. -/
def State.countReg (s : State) (fn : Nat) : State :=
  if s.dieDown then s else s.setFld fn offAccErr 31 16 (s.fld fn offAccErr 31 16 + 1)

/-- A 64-bit write of a register by its function and offset. -/
def State.regWrite (s : State) (fn off v : Nat) : State :=
  if off < 0x10000 then (if fnNamed off then s.fnWrite fn off v else s.countReg fn)
  else if fn = 0 && pfNamed off then s.pfWrite off v
  else s.countReg fn

/-- REGISTER_WRITE: an aligned 64-bit write of a register of the tables takes effect as the register says; any other write is counted
(R541, R538). -/
def execRegisterWrite (fn : FnId) (off size : Nat) (v : W64) (poison : Bool) (s : State) : Res :=
  let s := s.settleHost fn
  .next (if !s.fnThere fn then s
    else if poison || size != 8 || off % 8 != 0 then s.countReg fn
    else s.regWrite fn off v.toNat)

end Sys2Proof.Machine
end

