-- ==== Sys2Proof/Machine/Pair.lean ====
section
/-! DEFINITION. The redundant pair: PAIR_WRITE, PAIR_STATE, PAIR_DIGEST, PAIR_FAIL, PAIR_JOIN, HEARTBEAT, HEARTBEAT_RECEIVE,
HEARTBEAT_SILENCE, POWER_LOSS, BRIDGE_CREDIT_TIMEOUT (spec 19 R477 to R493). -/

namespace Sys2Proof.Machine

/-! ### Line copies and buffers (R483, R489) -/

/-- A mirrored line copy written into the same pitch-physical address. -/
def State.copyLines (s : State) (arg : W64) (data : List Byte) : State :=
  let p := bits arg.toNat 52 48
  let x := bits arg.toNat 47 0
  ((List.range (data.length / 64)).foldl (fun (s : State) i =>
    if p < 24 ∧ x + 64 * i + 64 ≤ s.spaceOf p then
      (let pl := s.physPlace p (x + 64 * i)
       s.writeLine pl.1 pl.2 ((data.drop (64 * i)).take 64) (bit arg.toNat 63))
    else s) s)

/-- A copied deposit in a channel's oldest receive buffer that has begun and is not filled. -/
def State.copyDeposit (s : State) (st ch : Nat) (data : List Byte) : State :=
  match (s.chanOf st ch).xfers.find? (fun x => x.kind == .post && x.begun && !x.written) with
  | none => s
  | some x =>
    let s1 := s.modNet (fun n => { n with posted := n.posted.map (fun e =>
      (e.1, e.2.filter (fun b => !(b.stall == st && b.chan == ch && b.xfer == x.serial)))) })
    match TDesc.parse (s1.stallsOf (s1.pitchOfLaunch x.launch)) x.d with
    | none => s1
    | some d =>
      match s1.fill st x d data with
      | .error e => s1.xferErr st ch x e
      | .ok s2 => s2.modXfer st ch x.serial (fun y => { y with written := true, wrote := data.length })

/-- What a PAIR_WRITE brings: in MIRROR lines of memory; in COMPARE a deposit in a channel's buffer or in a window's rows, or the bytes of a
host read. -/
def State.takePairWrite (s : State) (arg : W64) (data : List Byte) : State :=
  if s.pair.mode = 1 then s.copyLines arg data
  else match Config.pairBufAt arg with
    | none => s
    | some (st, ch, true) => if 8 ≤ ch then s.bayWrites st (ch - 8) (bytesWords data) else s.copyDeposit st ch data
    | some (st, ch, false) => s.modPair (fun p => { p with copies := p.copies ++ [(st, ch, data)] })

/-! ### Front-end state (R481, R484, R489) -/

/-- The launch of this package that a descriptor is. -/
def State.ownLaunch (s : State) (q : Nat) (h : W32) : Option Nat :=
  (s.fe.launches.find? (fun e => e.2.sq == q && e.2.hseq == h)).map (·.1)

/-- A queue of the primary as its secondary holds it: launches are this package's own. -/
def State.adoptQueue (s : State) (n : Nat) (q : Queue) : State :=
  let q' := { q with descs := q.descs.map (fun d => { d with launch := s.ownLaunch n d.hseq }),
                     waiting := q.waiting.map (fun r => { r with launch := none }) }
  { s with fe := { s.fe with queues := Tab.put s.fe.queues n q' } }

/-- A launch that the primary has placed, on the same stalls and splits. -/
def State.copyLaunch (s : State) (entry : Nat) (x : Launch) : State :=
  let l := s.fe.nextLaunch
  let s1 := x.splits.foldl (fun (s : State) (y : Nat × Nat × Nat) =>
    (s.wakeStall y.1).launchOn l x.mask x.param x.seed entry x.shape y.1 y.2.1 y.2.2) s
  { s1 with fe := { s1.fe with launches := Tab.put s1.fe.launches l { x with digest := 0 }, nextLaunch := l + 1 } }

/-- A PSEND of the primary has completed: the channel's own that has begun does too; one that has not begun finds it so (R489). -/
def State.copyLanded (s : State) (st ch c : Nat) : State :=
  match (s.chanOf st ch).xfers.find? (fun x => x.kind == .send && x.begun && !x.written) with
  | none => s.modPair (fun p => { p with landings := p.landings ++ [(st, ch, c)] })
  | some x =>
    if c = Status.ok.code then s.modXfer st ch x.serial (fun y => { y with written := true })
    else s.xferErr st ch x (.bad ((Status.ofCode c).getD .hwFault) 0)

/-- One record of a PAIR_STATE applied by the secondary. -/
def State.takeRec (s : State) (r : PairRec) : State :=
  match r with
  | .queue n none => { s with fe := { s.fe with queues := Tab.del s.fe.queues n } }
  | .queue n (some q) => s.adoptQueue n q
  | .fence n none => { s with fe := { s.fe with fences := Tab.del s.fe.fences n } }
  | .fence n (some f) => { s with fe := { s.fe with fences := Tab.put s.fe.fences n f } }
  | .win n none => { s with fe := { s.fe with wins := Tab.del s.fe.wins n } }
  | .win n (some w) => { s with fe := { s.fe with wins := Tab.put s.fe.wins n w } }
  | .slot n x => { s with fe := { s.fe with slots := s.fe.slots.setIfInBounds n x } }
  | .host a bs => s.modPair (fun p => { p with records := Tab.put p.records a.toNat bs })
  | .reg fn off v =>
    ((s.modPair (fun p => { p with copying := true })).regWrite fn off v.toNat).modPair (fun p => { p with copying := false })
  | .bar u off bs po => s.writeLine u off bs po
  | .reset p cause scrub => s.resetRequest p cause scrub false
  | .kill q h => (match s.ownLaunch q h with
    | some l => s.abortLaunch l .killed false
    | none => s)
  | .launch entry x => s.copyLaunch entry x
  | .landed st ch c => s.copyLanded st ch c

/-- A PAIR_STATE applied: its records in order, and its sequence noted. -/
def State.takePairState (s : State) (seq : Nat) (data : List Byte) : State :=
  ((Config.pairRecs data).foldl (fun s r => s.takeRec r) s).modPair (fun p => { p with seenSeq := BitVec.ofNat 32 seq })

/-! ### Pair messages (R485) -/

/-- A pair message: passed on to another chip, refused anywhere but on port 7 of a D1536, dropped in a chip reset or where it was meant
for an epoch that is over; then its effect. -/
def State.pairRow (s : State) (n mt : Nat) (act : State → Msg → State) : State :=
  match s.msg? n with
  | none => s
  | some m =>
    if m.mtype ≠ mt then s
    else s.onRoute m
      (if m.dst ≠ s.chipId then (s.takeMsg m).passOn m
       else if !s.d1536 || m.link.map (· / 4) ≠ some 7 then (s.takeMsg m).refuseMsg m .accessDenied
       else if s.dieDown || m.depoch ≠ s.net.epoch.toNat then s.takeMsg m
       else act (s.takeMsg m) m)

/-- PAIR_WRITE: the secondary writes a copy and acknowledges it. -/
def execPairWrite (n : Nat) (s : State) : Res :=
  .next (s.pairRow n mtPairWrite (fun s m =>
    if s.shadow then (s.takePairWrite (BitVec.ofNat 64 m.arg) m.data).sendAck m else s))

/-- PAIR_STATE: the secondary applies the records and acknowledges them. -/
def execPairState (n : Nat) (s : State) : Res :=
  .next (s.pairRow n mtPairState (fun s m => if s.shadow then (s.takePairState (bits m.arg 31 0) m.data).sendAck m else s))

/-- A launch that waits for its digests and whose pitch does not report it from a reset. -/
def State.awaits (s : State) (q : Nat) (h : W32) : Option Nat :=
  s.pair.awaiting.find? (fun l => match s.launch? l with
    | some x => x.sq == q && x.hseq == h && !(s.pitch x.pitch).toReport.contains (q, h)
    | none => false)

/-- PAIR_DIGEST: the primary holds the secondary's digest; a launch that waited for it is compared and completes (R491). -/
def execPairDigest (n : Nat) (s : State) : Res :=
  .next (s.pairRow n mtPairDigest (fun s m =>
    if s.leads && s.compares then
      let q := bits m.arg 41 32
      let h : W32 := BitVec.ofNat 32 m.arg
      let s1 := (s.modPair (fun p => { p with digests := p.digests ++
        [(q, h, BitVec.ofNat 64 (leNat (m.data.take 8)), Config.digestStatus (bits m.arg 63 42))] })).sendAck m
      (match s1.awaits q h with
       | some l => ((s1.modPair (fun p => { p with awaiting := p.awaiting.filter (· != l) })).finishLaunch l).feDone
       | none => s1)
    else s))

/-! ### Takeover (R487, R488, Table 19-5) -/

/-- Step 3: every copy and state message received whole is applied; one received in part is dropped. -/
def State.takeWhole (s : State) : State :=
  let ms := s.net.arrived.filter (fun m => m.link.map (· / 4) == some 7 && (m.mtype == mtPairWrite || m.mtype == mtPairState))
  let s1 := ms.foldl (fun (s : State) (m : Msg) =>
    if m.mtype = mtPairWrite then (s.takeMsg m).takePairWrite (BitVec.ofNat 64 m.arg) m.data
    else (s.takeMsg m).takePairState (bits m.arg 31 0) m.data) s
  (portLinks 7).foldl (fun s i => s.modLink i (fun l => { l with arriving := l.arriving.setIfInBounds 0 ([], 0) })) s1

/-- Step 5 for one descriptor that has started and not completed: HW_FAULT. -/
def State.failDesc (s : State) (q : Nat) (d : Desc) : State :=
  if !d.started || d.finished then s
  else match d.launch.bind s.launch? with
    | some _ => s
    | none => s.finishDesc q d.hseq .hwFault 0 0 none

/-- Step 5 for the queues: what was in flight completes with HW_FAULT, and every service SQ is HELD. -/
def State.failQueues (s : State) : State :=
  s.fe.queues.foldl (fun (s : State) (e : Nat × Queue) =>
    if e.2.isCq then s
    else
      let s1 := e.2.descs.foldl (fun s d => s.failDesc e.1 d) s
      s1.modQueue e.1 (fun x => { x with state := if !x.admin && x.state == .active then .held else x.state,
                                         toFetch := if !x.admin && x.state == .active then 0 else x.toFetch, dirty := true })) s

/-- The fence words of a value that the secondary holds, in its own memory. -/
def State.fenceWords (s : State) : State :=
  s.fe.fences.foldl (fun (s : State) (e : Nat × Fence) =>
    match (s.queue? e.2.owner).bind (fun x => s.pitchOfFn x.fn) with
    | some p => s.writeDev p none .write none ((s.fenceArea p).1 + 8 * (e.1 - s.fld 0 (offFrange p) 12 0)) (leBytes 8 e.2.value.toNat) false
    | none => s) { s with fe := { s.fe with fences := s.fe.fences.map (fun e => (e.1, { e.2 with writing := none })) } }

/-- The takeover by the secondary, which adopts the primary's chip id and the epoch given. -/
def State.takeover (s : State) (epoch : Nat) : State :=
  let s1 := s.takeWhole
  let s2 := { s1.setFld 0 offLkChip 11 0 s1.partner with net := { s1.net with epoch := BitVec.ofNat 16 epoch } }
  let s3 := (s2.modPair (fun p => { p with state := .single, primary := true, failovers := p.failovers + 1 })).pairForget
  let s4 := (s3.fe.launches.foldl (fun (s : State) (e : Nat × Launch) => s.abortLaunch e.1 .hwFault false) s3).failQueues.fenceWords
  let s5 := (s4.pair.records.foldl (fun (s : State) (e : Nat × List Byte) => s.emit (.hostWrite (BitVec.ofNat 64 e.1) e.2)) s4).modPair
    (fun p => { p with records := [] })
  let live := s5.livePitches
  let s6 := live.foldl (fun s p => s.writePsb p) s5
  let s7 := { s6 with health := { s6.health with failover := true } }.replaceEvent 8 (1 - s6.chip.pkg) 0
  (live.foldl (fun s p => s.eventMsg p) s7).wakeFront

/-- The epoch that follows the partner's as this package knows it. -/
def State.partnerNext (s : State) : Nat := (s.epochOf s.partner + 1) % 2 ^ 16

/-- PAIR_FAIL: the secondary takes over with the primary's new epoch. -/
def execPairFail (n : Nat) (s : State) : Res :=
  .next (s.pairRow n mtPairFail (fun s m => if s.shadow then s.takeover (bits m.arg 31 16) else s))

/-- What a package that is lost to its partner leaves: the secondary takes over, the primary runs on. -/
def State.partnerLost (s : State) : State :=
  if s.shadow then s.takeover s.partnerNext else s.pairBreak

/-! ### Joining and the heartbeat (Table 19-3, R487) -/

/-- PAIR_JOIN: the partner is JOINING with a mode, `live` stalls in service and its pitches OFF or not. Package 0 becomes the primary and
sends its installer state; package 1 holds its ports 0 to 6 OFF. -/
def execPairJoin (mode : Fin 4) (live : Nat) (off : Bool) (s : State) : Res :=
  .next (if !s.d1536 || s.pair.state != .joining || decide (s.pair.mode ≠ mode.val) || (s.routedLinks 7).isEmpty || decide (live ≠ 48)
      || decide (s.liveStalls ≠ 48) || !off || !s.livePitches.isEmpty || s.dieDown
      || s.planOf 7 != some (s.partner, 7) || (s.portSeen 7).map (fun x => (x.1, x.2.1)) != s.planOf 7 then s
    else
      let t := s.now
      let lead := s.chip.pkg == 0
      let s1 := s.afterNow.modPair (fun p =>
        { p with state := .paired, primary := lead, portsHeld := !lead, copying := false, sentSeq := 0, seenSeq := 0, waiting := [], sent := [],
                 shownQ := [], shownF := [], shownW := [], shownS := Vector.replicate 64 Slot.free, heldOut := [], heldTold := 0, told := [],
                 records := [], digests := [], awaiting := [], beatBridge := t, beatSide := t, copies := [], landings := [] })
      if lead then
        (s1.pairTell ((s1.regs.filter (fun e => decide (e.1 < 2 ^ 32) && decide (0x1000000 ≤ e.1) && pairReg e.1 && !ownReg e.1)).map
          (fun e => PairRec.reg 0 e.1 e.2))).pairShow
      else (List.range 7).foldl (fun s n => s.portDisable n) s1)

/-- HEARTBEAT: the clerk of a package whose rails are up sends its heartbeat on both paths, with its STATE. -/
def execHeartbeat (s : State) : Res :=
  .next (if s.d1536 && s.md.clerk && s.md.rails == 6 then
      (s.emit (.bridge sbBeat (leBytes 1 s.pair.state.code))).emit (.sideband sbBeat (leBytes 1 s.pair.state.code))
    else s)

/-- HEARTBEAT_RECEIVE: a heartbeat arrives on a path with the partner's STATE. A partner that has left the pair, or that runs single, ends
the pair here too (Table 19-3). -/
def execHeartbeatReceive (bridge : Bool) (partner : Fin 5) (s : State) : Res :=
  .next (if !s.d1536 then s
    else
      let t := s.now
      let s1 := s.afterNow.modPair (fun p => if bridge then { p with beatBridge := t } else { p with beatSide := t })
      if s1.pair.state ≠ .paired then s1
      else if partner.val = 0 then s1.unpair
      else if partner.val = 3 then ((s1.modPair (fun p => { p with state := .stoodDown })).pairForget).finishAwaiting.standDown
      else if partner.val = 4 ∧ s1.pair.primary = true then s1.pairBreak
      else s1)

/-- HEARTBEAT_SILENCE: 1 ms without a heartbeat on both paths loses the partner; on the bridge alone it ends the pair. -/
def execHeartbeatSilence (s : State) : Res :=
  let quiet := fun (t : W64) => decide (t.toNat + 1000000 ≤ s.now.toNat)
  .next (if s.pair.state ≠ .paired || !quiet s.pair.beatBridge then s
    else if quiet s.pair.beatSide then s.afterNow.partnerLost
    else s.afterNow.pairBreak)

/-- POWER_LOSS: the partner's notice that it has lost its rails. -/
def execPowerLoss (_cause : Nat) (s : State) : Res := .next (if s.pair.state = .paired then s.partnerLost else s)

/-- BRIDGE_CREDIT_TIMEOUT: mirror traffic has had no credit for 1 ms: the primary ends the pair, and what it held is performed unmirrored. -/
def execBridgeCreditTimeout (s : State) : Res :=
  .next (if s.leads && (!s.pair.waiting.isEmpty || !s.pair.sent.isEmpty) then s.pairBreak else s)

end Sys2Proof.Machine
end

