-- ==== Sys2Proof/Machine/Pcie.lean ====
section
/-! DEFINITION. The PCIe endpoint: PCIE_CONFIG_REQUEST and PCIE_COMPLETION_ERROR (spec 22 R534, R535, R538; 23 R570; 14 R377). -/

namespace Sys2Proof.Machine

/-! ### Configuration (R534, R570, Table 22-3) -/

/-- Subsystem ID of a part. -/
def PartKind.subsystem : PartKind → Nat
  | .s768 => 1 | .s384 => 2 | .d1536 => 3

/-- The identification of a function: Vendor and Subsystem Vendor ID, Device ID, Revision ID, Class Code, Subsystem ID, and for the PF
TotalVFs, InitialVFs and NumVFs. -/
def State.cfgIdent (s : State) (fn : Nat) : List Nat :=
  [Config.vendorId, Config.vendorId, if fn = 0 then 0x0F20 else 0x0F21, 0xB0, 0x120000, s.chip.part.subsystem]
    ++ (if fn = 0 then [24, 24, s.md.numVfs] else [])

/-- A vector's message goes out when the function mask no longer holds it. -/
def State.releaseVec (s : State) (fn v : Nat) : State :=
  let m := s.msiOf fn v
  if m.pend && !s.msiMasked fn v && !s.fnIdle fn then (s.modMsi fn v (fun m => { m with pend := false })).emit (.msix fn v m.addr m.data) else s

/-- The function mask of a function written (R377). -/
def State.setFnMask (s : State) (fn : Nat) (on : Bool) : State :=
  let b := BitVec.ofNat 25 (2 ^ fn)
  let s1 := { s with md := { s.md with fnMask := if on then s.md.fnMask ||| b else s.md.fnMask &&& ~~~b } }
  (List.range (s1.tableSize fn)).foldl (fun s v => s.releaseVec fn v) s1

/-- A configuration request that is performed, and the data of its completion. -/
def State.cfgDo (s : State) (fn : Nat) (r : CfgReq) : State × List Nat :=
  match r with
  | .ident => (s, s.cfgIdent fn)
  | .msixSize => (s, [s.tableSize fn])
  | .read reg => ({ s with free := s.free + 1 }, [Config.cfgRead s.free fn reg])
  | .numVfs n =>
    (if fn ≠ 0 then s else if n < s.md.numVfs then s.vfCut n else { s with md := { s.md with numVfs := min n 24 } }, [])
  | .fnMask on => (s.setFnMask fn on, [])
  | .write _ => (s, [])

/-- PCIE_CONFIG_REQUEST: until start-up has finished every request completes with Request Retry Status. -/
def execPcieConfigRequest (fn : FnId) (r : CfgReq) (s : State) : Res :=
  .next (if !s.md.hostUp || !s.fnThere fn then s
    else if !s.md.started then s.emit (.config fn none)
    else (s.cfgDo fn r).1.emit (.config fn (some (s.cfgDo fn r).2)))

/-! ### Errors of the FK2's own reads (R538, Table 22-2) -/

/-- An event logged through AER of a function. -/
def State.logAer (s : State) (fn : Option Nat) : State :=
  { s with md := { s.md with aer := s.md.aer ||| BitVec.ofNat 25 (2 ^ fn.getD 0) } }

/-- PCIE_COMPLETION_ERROR: a timeout or an error completion of a read that is outstanding. A scan finds nothing new, a slot is read again, a
count is unchanged, and the launch of a Porter read ends with POISON_CONSUMED. -/
def execPcieCompletionError (r : HostRead) (s : State) : Res :=
  .next (match r with
    | .scan g => if s.awake && s.fe.reading.getLsbD g then (s.logAer (s.groupFn g)).scanReturn g [] else s
    | .fetch q => (match s.queue? q with
      | some x => if s.awake && !x.isCq && decide (0 < x.toFetch) then (s.logAer (some x.fn)).fetchReturn q [] else s
      | none => s)
    | .cqCount q => (match s.queue? q with
      | some x => if s.awake && x.isCq && !x.waiting.isEmpty then (s.logAer (some x.fn)).hostAsk (some x.fn) else s
      | none => s)
    | .ringCount k =>
      let fo := (match k with
        | .daybook k => s.dbkReg k
        | .fault k => s.fltReg k)
      (s.logAer (some fo.1)).hostAsk (some fo.1)
    | .rclCount p => (s.logAer (some (s.fnOf p))).hostAsk (some (s.fnOf p))
    | .porter st ch => (match (s.chanOf st ch).actor? with
      | some x => (match x.srcHost with
        | some a => ((s.logAer (some (s.fnOf (s.pitchOfLaunch x.launch)))).xferErr st ch x (.poison a.toNat))
        | none => s)
      | none => s))

end Sys2Proof.Machine
end

