-- ==== Sys2Proof/Machine/Porter.lean ====
section
/-! DEFINITION. The Porter's instructions and events: PCOPY, PGATH, PWALK, PCONV, PSEND, PPOST, PTIME, ATENS, PORTER_PAIR_CHECK,
PORTER_TRANSFER_COMPLETE, REMOTE_BAY_REQUEST, PORTER_STARVATION (spec 07; 05 Table 5-11; 06 R169 to R171). -/

namespace Sys2Proof.Machine

/-! ### Issue (R174, R177, R178) -/

/-- Options that every transfer may set: CH, PRIO, LOG; PRIO 3 is reserved. -/
def portOpts (x : BitVec 32) (more : Nat) : Bool := xOnly x (0x3F ||| more) && bits x.toNat 4 3 != 3

/-- A transfer as it is issued. -/
def State.newXfer (s : State) (st c : Nat) (kind : XKind) (d s1 s2 : BitVec 512) (g : W64) (f : FmtA) (rows : List Rows) : Xfer :=
  let _ := st
  { serial := s.serial, ctx := c, launch := (s.ctxOf st c).launch, pc := (s.ctxOf st c).pc, kind := kind, d := d, s1 := s1, s2 := s2,
    gval := g, opts := f.x, rows := rows, srcHost := none, dstHost := none, walk := none, pairs := [], data := none, begun := false,
    written := false, wrote := 0, zeros := 0, enc := none, msg := 0, coll := none, step := 0, fwd := none }

/-- A Porter instruction at its channel: one that finds it full waits, before anything of it is checked (R174, R121). -/
def State.atChan (s : State) (st : Nat) (f : FmtA) (go : State) : State :=
  if 4 ≤ (s.chanOf st (f.x.toNat % 8)).xfers.length then s else go

/-- A transfer posted to its channel (R174). A channel that it reaches first begins it. -/
def State.portIssue (s : State) (st c : Nat) (f : FmtA) (x : Xfer) : State :=
  let ch := f.x.toNat % 8
  State.pumpChan 4 st ch
    (((s.modChan st ch (fun y => { y with xfers := y.xfers ++ [x] })).tickSerial).retire st c id)

/-- Bounding byte ranges of a tensor, each with the space it lies in: a bay of a stall, or device memory (R178). Bay words count as
four bytes. -/
def TDesc.bounds (d : TDesc) (st : Nat) (host : Bool) : List ((Nat × Nat) × Nat × Nat) :=
  if host then []
  else
    let rs := if d.loc = 0 then d.devRanges else d.spans.map (fun x => (4 * x.1, 4 * x.2))
    let key := fun (a : Nat) => if d.loc = 0 then (0, 0) else (1 + d.bayStall st, a / 2 ^ 22)
    let live := rs.filter (fun r => 0 < r.2)
    ((live.map (fun r => key r.1)).eraseDups).map (fun k =>
      let mine := live.filter (fun r => key r.1 == k)
      let lo := mine.foldl (fun a r => min a r.1) (2 ^ 64)
      let hi := mine.foldl (fun a r => max a (r.1 + r.2)) 0
      (k, lo, hi))

/-- Whether two tensors' bounding ranges meet in one space. -/
def boundsMeet (a b : List ((Nat × Nat) × Nat × Nat)) : Bool :=
  a.any (fun x => b.any (fun y => x.1 == y.1 && decide (x.2.1 < y.2.2) && decide (y.2.1 < x.2.2)))

/-- The rows of the bays that a tensor touches. -/
def TDesc.bayRows (d : TDesc) (st : Nat) (host : Bool) : List Rows := if host || d.loc = 0 then [] else d.rows st

/-- What R178 asks of any two sides. -/
def sidesOk (a d : TDesc) (st : Nat) (ha hd : Bool) : Bool :=
  a.count == d.count && decide (a.dataBytes true ≤ 2 ^ 32) && decide (d.dataBytes true ≤ 2 ^ 32)
    && (ha || a.loc == 0 || a.fits) && (hd || d.loc == 0 || d.fits)
    && !boundsMeet (a.bounds st ha) (d.bounds st hd)

/-- Whether a decoded read of a region goes into that same region, which R247 leaves no way to do (R249). -/
def State.intoOwn (s : State) (p : Nat) (src : Pk) (d : TDesc) : Bool :=
  match src with
  | .unit n | .lowr n => d.devRanges.any (fun r => meets r.1 r.2 (s.pkrBase p n) (s.pkrLimit p n - s.pkrBase p n))
  | _ => false

/-- What R179 asks of a transpose. -/
def transposeOk (a d : TDesc) (ha hd : Bool) : Bool :=
  a.fmt.fam == .plain && (a.fmt.el.width == 8 || a.fmt.el.width == 16 || a.fmt.el.width == 32)
    && ((!ha && a.loc == 1) || (!hd && d.loc == 1))
    && d.extent 0 == a.extent 1 && d.extent 1 == a.extent 0 && d.extent 2 == a.extent 2 && d.extent 3 == a.extent 3

/-- PCOPY: checked, and posted with the host windows as they stand (R178, R335). -/
def execPcopy (st : StallId) (cx : CtxId) (f : FmtA) (s : State) : Res :=
  let c := s.ctxOf st cx
  let v := f.x.toNat
  let trn := bit v 6
  let hs := bit v 7
  let hd := bit v 8
  .next (s.issue st cx 0x80 f.gn f.gp (inFile f.d 16 && inFile f.s1 16 && unused f.s2 && unused f.s3 && portOpts f.x 0x1C0)
    (ts [f.d, f.s1])
    (s.atChan st f (match s.launch? c.launch, s.tensor st cx (c.getT f.s1), s.tensor st cx (c.getT f.d) with
     | some l, some a, some d =>
       if a.fmt != d.fmt || !sidesOk a d st hs hd || (trn && !transposeOk a d hs hd) then s.badProgram st cx 0x80
       else
         let ra : Except Status (Option W64) := if hs then (s.hostSide l.pitch a 0).map some else .ok none
         let rd : Except Status (Option W64) := if hd then (s.hostSide l.pitch d 1).map some else .ok none
         let pa := if hs || a.loc != 0 then Pk.none else s.pkSrc l.pitch a
         let pd := if hd || d.loc != 0 then Pk.none else s.pkDst l.pitch d
         (match ra, rd with
          | .error .badProgram, _ => s.badProgram st cx 0x80
          | .error e, _ => s.seqFault st cx 0x80 e a.base
          | _, .error .badProgram => s.badProgram st cx 0x80
          | _, .error e => s.seqFault st cx 0x80 e d.base
          | .ok wa, .ok wd =>
            if pd = .badProgram then s.badProgram st cx 0x80
            else if pa = .refused || (trn && pa != .none) then s.seqDenied st cx 0x80 l.pitch a.base false
            else if pd = .refused || (trn && pd != .none) || (!hd && d.loc == 0 && s.intoOwn l.pitch pa d) then
              s.seqDenied st cx 0x80 l.pitch d.base false
            else
              let x := s.newXfer st cx .copy (c.getT f.d) (c.getT f.s1) 0 0 f (a.bayRows st hs ++ d.bayRows st hd)
              s.portIssue st cx f { x with srcHost := wa, dstHost := wd })
     | _, _, _ => s.badProgram st cx 0x80)))

/-- Whether a transfer that no packed region may meet meets one (R249). -/
def State.meetsPacked (s : State) (st cx : Nat) (ds : List TDesc) : Bool :=
  let p := s.pitchOfLaunch (s.ctxOf st cx).launch
  ds.any (fun d => d.loc == 0 && d.devRanges.any (fun r => s.inRegion p r.1 r.2))

/-- The address that such a transfer is refused for. -/
def firstDev (ds : List TDesc) : Nat := ((ds.find? (fun d => d.loc == 0)).map (·.base)).getD 0

/-- The end of the checks of a transfer between plain sides: refused, or posted. -/
def State.portPost (s : State) (st cx op : Nat) (f : FmtA) (ds : List TDesc) (x : Xfer) : State :=
  if s.meetsPacked st cx ds then s.seqDenied st cx op (s.pitchOfLaunch (s.ctxOf st cx).launch) (firstDev ds) false
  else s.portIssue st cx f x

/-- PGATH: rows of tS1 named by the index tensor tS2 (R180). DESIGN CHOICE: of a source with more than two dimensions the rows are those
of its first plane, since R180 numbers rows along dimension 1 alone (log 156). -/
def execPgath (st : StallId) (cx : CtxId) (f : FmtA) (s : State) : Res :=
  let c := s.ctxOf st cx
  .next (s.issue st cx 0x81 f.gn f.gp (inFile f.d 16 && inFile f.s1 16 && inFile f.s2 16 && unused f.s3 && portOpts f.x 0)
    (ts [f.d, f.s1, f.s2])
    (s.atChan st f (match s.tensor st cx (c.getT f.s1), s.tensor st cx (c.getT f.s2), s.tensor st cx (c.getT f.d) with
     | some a, some i, some d =>
       let ok := a.fmt == d.fmt && a.fmt.fam == .plain && a.rowBits % 8 == 0 && a.loc != 2 && d.loc != 2
         && i.loc == 1 && i.ndim == 1 && i.fmt == ⟨.plain, .fp32⟩ && i.fits
         && d.extent 0 == a.extent 0 && d.rowCount == i.extent 0
         && decide (d.dataBytes true ≤ 2 ^ 32) && decide (a.dataBytes true ≤ 2 ^ 32)
         && (a.loc == 0 || a.fits) && (d.loc == 0 || d.fits) && !boundsMeet (a.bounds st false) (d.bounds st false)
       if !ok then s.badProgram st cx 0x81
       else s.portPost st cx 0x81 f [a, d]
         (s.newXfer st cx .gather (c.getT f.d) (c.getT f.s1) (c.getT f.s2) 0 f
           (a.bayRows st false ++ i.bayRows st false ++ d.bayRows st false))
     | _, _, _ => s.badProgram st cx 0x81)))

/-- PWALK: a page walk of the list at aS1 (R220). -/
def execPwalk (st : StallId) (cx : CtxId) (f : FmtA) (s : State) : Res :=
  let c := s.ctxOf st cx
  let a := c.getA f.s1
  let g := c.getG f.s2
  .next (s.issue st cx 0x82 f.gn f.gp (inFile f.d 16 && inFile f.s1 16 && unused f.s3 && portOpts f.x 0x18000)
    (gs [f.s2] ++ ts [f.d])
    (s.atChan st f (match devOperand a 0 64, s.tensor st cx (c.getT f.d) with
     | some lst, some d =>
       if 2 ≤ bits f.x.toNat 16 15 || bits g.toNat 31 22 ≠ 0 || bits g.toNat 63 48 ≠ 0 || d.loc ≠ 1 || d.ndim ≠ 2 || d.raxis ≠ 0
           || !d.fits then
         s.badProgram st cx 0x82
       else
         let x := s.newXfer st cx .walk (c.getT f.d) 0 0 g f (d.bayRows st false)
         s.portIssue st cx f { x with walk := some ⟨BitVec.ofNat 64 lst, [], [], [], 0, [], false⟩ }
     | _, _ => s.badProgram st cx 0x82)))

/-- Whether two formats are paired by PCONV (R46, R183). -/
def convPair (mx fb : Fmt) : Bool := mx.fam == .mx && fb.fam == .fb && mx.el == fb.el

/-- PCONV: MX to FB or FB to MX (R183). -/
def execPconv (st : StallId) (cx : CtxId) (f : FmtA) (s : State) : Res :=
  let c := s.ctxOf st cx
  .next (s.issue st cx 0x83 f.gn f.gp (inFile f.d 16 && inFile f.s1 16 && unused f.s2 && unused f.s3 && portOpts f.x 0x600)
    (ts [f.d, f.s1])
    (s.atChan st f (match s.tensor st cx (c.getT f.s1), s.tensor st cx (c.getT f.d) with
     | some a, some d =>
       let toFb := convPair a.fmt d.fmt
       let ok := (toFb && bits f.x.toNat 10 9 == 0 || convPair d.fmt a.fmt && bits f.x.toNat 10 9 != 3)
         && a.loc != 2 && d.loc != 2 && sidesOk a d st false false
       if !ok then s.badProgram st cx 0x83
       else s.portPost st cx 0x83 f [a, d]
         (s.newXfer st cx .conv (c.getT f.d) (c.getT f.s1) 0 0 f (a.bayRows st false ++ d.bayRows st false))
     | _, _ => s.badProgram st cx 0x83)))

/-- Whether the operand in gS2 of a PSEND or PPOST keeps R418, R421 and R431. -/
def sendOk (x : BitVec 32) (g : W64) (bytes : Nat) : Bool :=
  let v := g.toNat
  match x.getLsbD 15, x.getLsbD 16 with
  | true, true => false
  | true, false => v % 64 == 0
  | false, true => bit v 15 == false && v / 2 ^ 28 == 0 && bytes % 4 == 0 && decide (bytes ≤ 65536)
  | false, false => v / 256 == 0

/-- PSEND and PPOST share their checks (R418, R420). -/
def State.portMail (s : State) (st cx op : Nat) (kind : XKind) (f : FmtA) (t : BitVec 512) (g : W64) : State :=
  s.atChan st f (match s.tensor st cx t with
  | none => s.badProgram st cx op
  | some d =>
    let p := s.pitchOfLaunch (s.ctxOf st cx).launch
    if d.fmt.fam ≠ .plain || d.loc = 2 || (d.loc = 1 && !d.fits) || !sendOk f.x g (d.dataBytes true)
        || 2 ^ 24 < d.dataBytes true then
      s.badProgram st cx op
    else if kind = .send && bits f.x.toNat 16 15 = 0 && !s.outboxActive p (g.toNat % 256) then
      (s.sentRec p st (f.x.toNat % 8) (s.outboxDest p (g.toNat % 256)) .accessDenied (d.dataBytes true)).seqDenied st cx op p d.base false
    else s.portPost st cx op f [d]
      (s.newXfer st cx kind (if kind = .post then t else 0) (if kind = .send then t else 0) 0 g f (d.bayRows st false)))

/-- PSEND: a message, a collective step or a window write (R418). -/
def execPsend (st : StallId) (cx : CtxId) (f : FmtA) (s : State) : Res :=
  let c := s.ctxOf st cx
  .next (s.issue st cx 0x84 f.gn f.gp (unused f.d && inFile f.s1 16 && unused f.s3 && portOpts f.x 0x18000)
    (gs [f.s2] ++ ts [f.s1]) (s.portMail st cx 0x84 .send f (c.getT f.s1) (c.getG f.s2)))

/-- PPOST: a receive buffer, a collective step or a window read (R418). -/
def execPpost (st : StallId) (cx : CtxId) (f : FmtA) (s : State) : Res :=
  let c := s.ctxOf st cx
  .next (s.issue st cx 0x85 f.gn f.gp (inFile f.d 16 && unused f.s1 && unused f.s3 && portOpts f.x 0x18000)
    (gs [f.s2] ++ ts [f.d]) (s.portMail st cx 0x85 .post f (c.getT f.d) (c.getG f.s2)))

/-- PTIME: a quantity of the calling context's latest transfer on a channel (R193). -/
def execPtime (st : StallId) (cx : CtxId) (f : FmtA) (s : State) : Res :=
  let sel := bits f.x.toNat 14 12
  let i := (s.chanOf st (f.x.toNat % 8)).info[cx.val]?.getD ChanInfo.zero
  .next (s.issue st cx 0x86 f.gn f.gp (unused f.s1 && unused f.s2 && unused f.s3 && xOnly f.x 0x7007 && decide (sel < 4)) (gs [f.d])
    (s.retire st cx (fun c => c.setG f.d
      (if sel = 0 then i.time else if sel = 1 then i.bytes else if sel = 2 then i.zeros else i.count))))

/-- A tensor without an array of anchors beside its elements, as ATENS reads and adds it (R184). -/
def TDesc.elemsOnly (d : TDesc) : TDesc := { d with sbase := d.base }

/-- ATENS: a memory-side add of a bay tensor into device memory (R184). -/
def execAtens (st : StallId) (cx : CtxId) (f : FmtA) (s : State) : Res :=
  let c := s.ctxOf st cx
  .next (s.issue st cx 0x9D f.gn f.gp (inFile f.d 16 && inFile f.s1 16 && unused f.s2 && unused f.s3 && portOpts f.x 0)
    (ts [f.d, f.s1])
    (s.atChan st f (match (s.tensor st cx (c.getT f.s1)).map TDesc.elemsOnly, (s.tensor st cx (c.getT f.d)).map TDesc.elemsOnly with
     | some a, some d =>
       let ok := a.fmt == d.fmt && (a.fmt == ⟨.plain, .fp32⟩ || a.fmt == ⟨.plain, .bf16⟩ || a.fmt.fam == .wide)
         && a.loc == 1 && d.loc == 0 && a.ext == d.ext && sidesOk a d st false false
       if !ok then s.badProgram st cx 0x9D
       else s.portPost st cx 0x9D f [d] (s.newXfer st cx .atens (c.getT f.d) (c.getT f.s1) 0 0 f (a.bayRows st false))
     | _, _ => s.badProgram st cx 0x9D)))

/-! ### Pairs (R185 to R188) -/

/-- Element codes of a transpose in the destination's coordinate order (R179). -/
def transposed (a : TDesc) (cs : List (Nat × Option Nat)) : List (Nat × Option Nat) :=
  let arr := cs.toArray
  let e0 := a.extent 0
  let e1 := a.extent 1
  (List.range (cs.length)).map (fun i =>
    let plane := i / (e0 * e1)
    let r := i % (e0 * e1)
    -- destination (i0, i1) with EXT[0] = e1 receives source (i1, i0)
    (arr[plane * (e0 * e1) + (r % e1) * e0 + r / e1]?).getD (0, none))

/-- A transfer's data as it goes to its destination: transposed, or with segments marked whole (R166, R179). -/
def Xfer.shaped (x : Xfer) (a d : TDesc) (data : XData) : XData :=
  if x.opt 6 6 = 1 then (match data with
    | .codes cs => .codes (transposed a cs)
    | y => y)
  else d.markAll data

/-- The next pair of a channel's FB read from unpacked device memory. -/
def State.chanPair (s : State) (st ch : Nat) : State :=
  match (s.chanOf st ch).actor? with
  | none => s
  | some x =>
    match s.launch? x.launch with
    | none => s
    | some l =>
      match TDesc.parse (s.stallsOf l.pitch) x.s1, TDesc.parse (s.stallsOf l.pitch) x.d with
      | some a, some d =>
        let n := x.pairs.length
        if (x.kind ≠ .copy ∧ x.kind ≠ .conv) ∨ a.fmt.fam ≠ .fb ∨ a.loc ≠ 0 ∨ s.pkSrc l.pitch a ≠ .none ∨ a.segments ≤ n then s
        else
          let push := fun (g : Option Seg) => s.modXfer st ch x.serial (fun y => { y with pairs := y.pairs ++ [(n, g)] })
          s.onRows st ch x (match s.readPair l.pitch (some l.csr.toNat) a.fmt.el a.base a.sbase n with
           | .stop (.poison z) => if d.loc = 0 then push none else s.pairFail st ch x l a d (.poison (z / 64 * 64))
           | .stop z => (match z.err with
             | some e => s.pairFail st ch x l a d e
             | none => s)
           | .got g =>
             let first := ((x.pairs.findSome? (fun q => q.2.map (fun z => fieldAt z.trailer 4 4 - q.1)))).getD
               (fieldAt g.trailer 4 4 - n)
             (match g.fails a.fmt.el (a.want first n) with
              | some bad => s.pairFail st ch x l a d (.own bad.1 (g.syndrome bad.2 ch) (segAddr a.base n) 0x05 ch)
              | none => push (some ⟨g.elems, g.trailer, g.record⟩)))
      | _, _ => s

/-- The next pair of a split's tile stream. -/
def State.streamPair (s : State) (st sp : Nat) : State :=
  match s.nextLoad st sp with
  | none => s
  | some (l, x, t, d) =>
    if d.fmt.fam ≠ .fb ∨ s.pkSrc x.pitch d ≠ .none then s
    else
      let r := t.reader l st sp true
      let e := t.extent (s.splitOf st sp) (s.splitWidth st) d
      let need := d.tileSegs e.1 e.2.1 e.2.2
      match need.find? (fun n => !t.pairs.any (fun q => q.1 == n)) with
      | none => s
      | some n =>
        match s.readPair x.pitch (some x.csr.toNat) d.fmt.el d.base d.sbase n with
        | .stop z => s.rdStop r x.pitch z
        | .got g =>
          let first := ((t.pairs[0]?).map (fun q => fieldAt q.2.2 4 4 - q.1)).getD (fieldAt g.trailer 4 4 - n)
          (match g.fails d.fmt.el (d.want first n) with
           | some bad => s.rdErr r x.pitch (.own bad.1 (g.syndrome bad.2 (8 + sp)) (segAddr d.base n) 0x06 sp)
           | none => s.loadGot st sp l t d need false (n, g.elems, g.record))

/-- PORTER_PAIR_CHECK: the next staged pair of a channel (0 to 7), of a split's tile stream (8 to 11), or of the page walk on a channel
(12 to 19). -/
def execPorterPairCheck (st : StallId) (eng : Fin 20) (s : State) : Res :=
  .next (if eng.val < 8 then s.chanPair st eng
    else if eng.val < 12 then s.streamPair st (eng - 8)
    else s.walkPair st (eng - 12))

/-! ### Completion (R179 to R184, R190) -/

/-- The end of a transfer's stores: its last access is made and it completes in its turn, or its launch ends. -/
def State.portEnd (s : State) (st ch : Nat) (x : Xfer) (bytes : Nat) : Stored → State
  | .ok s' => State.pumpChan 4 st ch (s'.xferMoved st ch x bytes)
  | .error e => s.xferErr st ch x e

/-- The copy of a transfer whose data is at hand. One into a packed region or a remote bay is written by events of its own, for which
what a host window gave is kept. -/
def State.copyEnd (s : State) (st ch : Nat) (x : Xfer) (l : Launch) (a d : TDesc) (host : List Byte) (ups : List (Nat × BitVec 39)) :
    State :=
  let packedDst := (match sideOf d x.dstHost with
    | .dev => (match s.pkDst l.pitch d with
      | .unit _ => true
      | _ => false)
    | _ => false)
  let bytes := d.dataBytes (d.loc == 0)
  let src := sideOf a x.srcHost
  let dst := sideOf d x.dstHost
  let asked := fun (s : State) => (s.hostAsk (some (s.fnOf l.pitch))).bufferCopy st ch false host
  if packedDst || dst == .remote then
    (if src == .host && x.data.isNone then (match s.xferFetch st x a host ups with
      | .got s' data => (asked s').modXfer st ch x.serial (fun y => { y with data := some data })
      | _ => s)
     else s)
  else if a.fmt.fam = .fb && src == .dev && dst == .dev && x.data.isNone then
    let need := (match s.pkSrc l.pitch a with
      | .unit n => a.units (s.pkrSeg l.pitch n)
      | .lowr _ => x.pairs.length + 1
      | _ => a.segments)
    if x.pairs.length < need then s else s.portEnd st ch x bytes (s.segsStore st x d)
  else match s.xferFetch st x a host ups with
    | .wait => s
    | .err s' e => s'.xferErr st ch x e
    | .got s0 data =>
      let s' := if src == .host then asked s0 else s0
      s'.portEnd st ch x bytes (s'.xferStore st x d (x.shaped a d data))

/-- The data of a conversion whose two sides differ in the length of a row of the stream: block by block there is no counterpart, and the
spec gives none. DESIGN CHOICE: the destination's bytes are free (log 155). -/
def State.convFree (s : State) (d : TDesc) : XData :=
  .runs (d.zeroPad (d.runBytes.zipIdx.map (fun x =>
    clean ((List.range x.1).map (fun i => Config.anyByte ((s.free * 4 + x.2) * 2 ^ 32 + i))))))

/-- The data of a conversion from MX to FB: blocks with code 0xFF mark their segments (R47), and so does every poisoned byte of a source
in a bay (R166). With the blocks that converted to zero. -/
def mxConv (a d : TDesc) (runs : List (List FByte)) : XData × Nat :=
  let r := mxToFb a.fmt.el (runs[1]?.getD []) (runs[0]?.getD [])
  let n := blockBytes a.fmt.el
  let at' := fun (b : Nat) => ((a.byteRuns[1]?).map (·.1)).getD 0 + b
  -- elements of a block with code 0xFF carry the poison that its segment takes
  let es := ((r.1[0]?.getD []).zipIdx).map (fun e =>
    if r.2.2.contains (e.2 / n) then (e.1.1, some (at' (e.2 / n))) else e.1)
  let hit := fun (i : Nat) => a.loc != 0 || r.2.2.any (fun b => decide (b * n / 4096 ≤ i) && decide (i ≤ (b * n + n - 1) / 4096))
  (.runs (d.zeroPad [es, r.1[1]?.getD [], r.1[2]?.getD []] ++ [d.segMarks hit es]), r.2.1)

/-- The conversion of a transfer whose source is at hand (R183): blocks with code 0xFF poison their segments in device memory, and end
the launch where the destination is a bay. An FB source whose slab scales break R37 ends the launch. -/
def State.convEnd (s : State) (st ch : Nat) (x : Xfer) (l : Launch) (a d : TDesc) (ups : List (Nat × BitVec 39)) : State :=
  match s.xferFetch st x a [] ups with
  | .wait => s
  | .err s' e => s'.xferErr st ch x e
  | .got s' data =>
    let bytes := d.dataBytes (d.loc == 0)
    let runs := a.runsOf data
    if a.fmt.fam = .fb ∧ slabsBad (runs[2]?.getD []) then s'.xferErr st ch x (.bad .badDescriptor a.base)
    else if a.extent a.raxis ≠ d.extent d.raxis then s'.afterAny.portEnd st ch x bytes (s'.afterAny.xferStore st x d (s'.convFree d))
    else if a.fmt.fam = .mx then
      let r := mxConv a d runs
      s'.portEnd st ch { x with zeros := r.2 } bytes (s'.xferStore st x d r.1)
    else
      let md := (RMode.ofCode (x.opt 10 9)).getD .rne
      let r := fbToMx a md l.seed d.tag runs
      (s'.raiseFlags st x.ctx false r.2).portEnd st ch x bytes ((s'.raiseFlags st x.ctx false r.2).xferStore st x d (.runs r.1))

/-- One row of a gather written (R180). -/
def State.gatherRow (s : State) (st : Nat) (x : Xfer) (l : Launch) (d : TDesc) (q : Nat) (fs : List FByte) : Stored :=
  let csr := some l.csr.toNat
  if d.loc = 0 then
    (match s.devRefuses l.pitch csr false [(d.rowAt q, fs.length)] with
     | some e => .error e
     | none => .ok (s.devStore l.pitch csr (some (s.ctxFaultInfo l (some st) .ok 0x02 x.ctx 0 0)) (d.rowAt q) fs))
  else match firstFlag fs with
    | some a => .error (.poison a)
    | none => .ok (s.bayWrites st (d.rowAt q) (bytesWords (bare fs)))

/-- The rows of a gather in order; rows before a bad index stay written (R180). -/
def State.gatherRows (s : State) (st ch : Nat) (x : Xfer) (l : Launch) (a d : TDesc) (is : List (W32 × Nat)) : Except (State × XErr × Nat) State :=
  let n := ceilDiv a.rowBits 8
  is.foldl (fun (r : Except (State × XErr × Nat) State) i => match r with
    | .error e => .error e
    | .ok s =>
      let q := i.2
      if i.1 ≠ 0xFFFFFFFF#32 ∧ a.extent 1 ≤ i.1.toNat then .error (s, .bad .badProgram 0, n * q)
      else
        let src : State × Except XErr (List FByte) :=
          if i.1 = 0xFFFFFFFF#32 then (s, .ok (clean (List.replicate n 0)))
          else if a.loc = 0 then (s, s.devFlags l.pitch (some l.csr.toNat) (a.rowAt i.1.toNat) n)
          else let y := s.bayFlags st (a.rowAt i.1.toNat) (ceilDiv n 4); (y.1, .ok (y.2.take n))
        (match src.2 with
         | .error e => .error (src.1, e, n * q)
         | .ok fs => (match src.1.gatherRow st x l d q fs with
           | .ok s' => .ok s'
           | .error e => .error (src.1, e, n * q)))) (.ok (let _ := ch; s))

/-- A gather performed. -/
def State.gatherEnd (s : State) (st ch : Nat) (x : Xfer) (l : Launch) (a i d : TDesc) (ups : List (Nat × BitVec 39)) : State :=
  let r := (s.upset st ups).bayReadRange st i.base (i.extent 0)
  match r.2.2 with
  | some z => r.1.xferErr st ch x (.poison z)
  | none =>
    match r.1.gatherRows st ch x l a d (r.2.1.zipIdx) with
    | .ok s' => s'.portEnd st ch x (d.dataBytes (d.loc == 0)) (.ok s')
    | .error (s', e, wrote) => s'.xferErr st ch { x with wrote := wrote } e

/-- One element of an ATENS added by its controller (R117, R184): the state, and whether the sum saturated. -/
def State.atensOne (s : State) (st : Nat) (x : Xfer) (l : Launch) (el : Elem) (wide : Bool) (addr v : Nat) : Except XErr (State × Bool) :=
  let n := if wide then 16 else el.width / 8
  match s.devRefuses l.pitch (some l.csr.toNat) false [(addr, n)] with
  | some e => .error e
  | none =>
    match s.readDev l.pitch (some l.csr.toNat) addr n with
    | .ok old =>
      let op : AtomOp := if wide then .addTill else if el = .bf16 then .addBf16 else .addF32
      let r := op.apply (leNat old) (BitVec.ofNat 64 v) (BitVec.ofNat 64 (v / 2 ^ 64))
      .ok ((s.devStore l.pitch (some l.csr.toNat) (some (s.ctxFaultInfo l (some st) .ok 0x02 x.ctx 0 0)) addr
        (clean (leBytes n r.1))), r.2)
    | z => (match z.err with
      | some e => .error e
      | none => .error .fatal)

/-- The operands of an ATENS in coordinate order from the words of its source: of a WIDE tensor T alone. -/
def TDesc.addends (d : TDesc) (runs : List (List FByte)) : List (Nat × Option Nat) :=
  if d.fmt.fam = .wide then
    d.inCoords (0, none) ((chunksOf 16 (runs[0]?.getD [])).map (fun x => (leNat (bare x), firstFlag x)))
  else match d.dataOf runs with
    | .codes cs => cs
    | .runs _ => []

/-- Where an ATENS adds an element, by its index in coordinate order. -/
def TDesc.addendAt (d : TDesc) (i : Nat) : Nat :=
  if d.fmt.fam = .wide then d.base + 16 * d.streamAt i
  else d.rowAt (i / d.extent 0) + (i % d.extent 0) * d.fmt.el.width / 8

/-- A destination line of an ATENS written poisoned, because a word that was to be added to it is uncorrectable (R166). -/
def State.atensPoison (s : State) (st : Nat) (x : Xfer) (l : Launch) (line : Nat) : Except XErr State :=
  match s.devRefuses l.pitch (some l.csr.toNat) false [(line, 64)] with
  | some e => .error e
  | none => .ok (s.devStore l.pitch (some l.csr.toNat) (some (s.ctxFaultInfo l (some st) .ok 0x02 x.ctx 0 0)) line
      (List.replicate 64 (0, some line)))

/-- A memory-side add performed: every element at the same index; a saturation raises TILL_SAT or ends the launch (R117). The lines that
an uncorrectable source word reaches are written poisoned, and nothing is added there (R166). -/
def State.atensEnd (s : State) (st ch : Nat) (x : Xfer) (l : Launch) (a d : TDesc) (ups : List (Nat × BitVec 39)) : State :=
  let wide := a.fmt.fam == .wide
  let n := if wide then 16 else a.fmt.el.width / 8
  let r := (s.upset st ups).bayArrays st a (if wide then 1 else a.spans.length)
  let cs := a.addends r.2
  let bad := ((cs.zipIdx).filterMap (fun c => if c.1.2.isSome then some (d.addendAt c.2 / 64 * 64) else none)).eraseDups
  let out := (cs.zipIdx).foldl (fun (z : Except (State × XErr × Nat) (State × Option Nat)) c => match z with
    | .error e => .error e
    | .ok (s, sat) =>
      let at' := d.addendAt c.2
      if bad.contains (at' / 64 * 64) then .ok (s, sat)
      else (match s.atensOne st x l a.fmt.el wide at' c.1.1 with
       | .ok (s', b) => .ok (s', if b && sat.isNone then some at' else sat)
       | .error e => .error (s, e, n * c.2))) (.ok (r.1, none))
  let out' := bad.foldl (fun (z : Except (State × XErr × Nat) (State × Option Nat)) line => match z with
    | .error e => .error e
    | .ok (s, sat) => (match s.atensPoison st x l line with
      | .ok s' => .ok (s', sat)
      | .error e => .error (s, e, n * d.count))) out
  match out' with
  | .error (s', e, wrote) => s'.xferErr st ch { x with wrote := wrote } e
  | .ok (s', none) => s'.portEnd st ch x (n * d.count) (.ok s')
  | .ok (s', some z) =>
    let s2 := s'.raiseFlags st x.ctx true false
    if l.strictOvf then s2.xferErr st ch { x with wrote := n * d.count } (.own .tillOverflow (x.pc.toNat % 2 ^ 32) z 0x05 ch)
    else s2.portEnd st ch x (n * d.count) (.ok s2)

/-- A walk whose last epoch read has returned: its tile is written (R221, R225). -/
def State.walkEnd (s : State) (st ch : Nat) (x : Xfer) (d : TDesc) : State :=
  match x.walk with
  | none => s
  | some w =>
    if !w.closed then s
    else s.portEnd st ch x (d.dataBytes false) (s.xferStore st x d (w.tile x d.fmt))

/-- A collective that a step of a member completes; with its last step it closes (R431). -/
def State.collStep (s : State) (k : Option Nat) : State :=
  match k with
  | none => s
  | some k =>
    let s1 := s.modColl k (fun c => { c with done := c.done + 1 })
    (s1.modNet (fun n => { n with colls := n.colls.filter (fun c => !(c.serial == k && c.sends.length + c.plan.length ≤ c.done)) })).pruneSlows

/-- The transfer whose turn it is makes its accesses, where its tokens cover their rows (R145, R189). A secondary takes the bytes that its
primary's matching host read returned (R489). -/
def State.portAct (s : State) (st ch : Nat) (x : Xfer) (host : List Byte) (ups : List (Nat × BitVec 39)) : State :=
  match s.launch? x.launch with
  | none => s
  | some l =>
    s.onRows st ch x
      (let ps := s.stallsOf l.pitch
       -- a write into a mirror range waits for the bridge (R308, R486)
       if x.dstHost.isNone && s.writeHeld l.pitch (TDesc.parse ps x.d) then s else
       match x.kind, TDesc.parse ps x.s1, TDesc.parse ps x.s2, TDesc.parse ps x.d with
       | .copy, some a, _, some d =>
         if s.shadow && x.srcHost.isSome then
           (match s.pair.copies.find? (fun y => y.1 == st && y.2.1 == ch) with
            | some y => ({ s with pair := { s.pair with copies := s.pair.copies.erase y } }).copyEnd st ch x l a d y.2.2 ups
            | none => s)
         else s.copyEnd st ch x l a d host ups
       | .gather, some a, some i, some d => s.gatherEnd st ch x l a i d ups
       | .walk, _, _, some d => s.walkEnd st ch x d
       | .conv, some a, _, some d => s.convEnd st ch x l a d ups
       | .atens, some a, _, some d => s.atensEnd st ch x l a.elemsOnly d.elemsOnly ups
       | _, _, _, _ => s)

/-- PORTER_TRANSFER_COMPLETE: a receive buffer that has been filled completes, whenever that is; else the oldest copying transfer that has
made its accesses; else the transfer whose turn it is makes them, and completes where none is before it (R189, R190). `host` is what a
read of host memory returned. -/
def execPorterTransferComplete (st : StallId) (ch : ChanId) (host : List Byte) (ups : List (Nat × BitVec 39)) (s : State) : Res :=
  let c := s.chanOf st ch
  .next (match c.xfers.find? (fun x => x.kind == .post && x.written && x.fwd.isNone) with
    | some x => (s.portEnd st ch x x.wrote (.ok s)).collStep x.coll
    | none =>
      match c.front?.filter (·.written), c.actor? with
      | some x, _ => (s.portEnd st ch x x.wrote (.ok s)).collStep x.coll
      | none, some x => s.portAct st ch x host ups
      | none, none => s)

/-- A copy's accesses to a remote bay, where they are served: the source is read, or the destination written (R169 to R171). What a host
window is to give comes first. -/
def State.remoteAct (s : State) (st ch : Nat) (x : Xfer) (a d : TDesc) (ups : List (Nat × BitVec 39)) : State :=
  if sideOf a x.srcHost = .remote ∧ x.data.isNone then
    let r := ((s.rouse a.stall).upset a.stall ups).bayRuns a.stall a
    let data := a.dataOf r.2
    (match data.flag with
     | some z => r.1.xferErr st ch x (.poison z)
     | none => r.1.modXfer st ch x.serial (fun y => { y with data := some data }))
  else if sideOf d x.dstHost = .remote ∧ ¬(sideOf a x.srcHost = .host ∧ x.data.isNone) then
    (match (s.rouse (d.bayStall st)).xferFetch st x a [] ups with
     | .wait => s
     | .err s' e => s'.xferErr st ch x e
     | .got s' data => (match s'.xferStore st x d (x.shaped a d data) with
       | .ok s2 => State.pumpChan 4 st ch (s2.modXfer st ch x.serial (fun y => { y with written := true, wrote := d.dataBytes false }))
       | .error e => s'.xferErr st ch x e))
  else s

/-- REMOTE_BAY_REQUEST: the accesses of a channel's copy to a remote bay are served there and acknowledged (R169 to R171). An uncorrectable
word ends the requesting launch (R166). -/
def execRemoteBayRequest (st : StallId) (ch : ChanId) (ups : List (Nat × BitVec 39)) (s : State) : Res :=
  .next (match (s.chanOf st ch).actor? with
    | none => s
    | some x =>
      match s.launch? x.launch with
      | none => s
      | some l =>
        match x.kind, TDesc.parse (s.stallsOf l.pitch) x.s1, TDesc.parse (s.stallsOf l.pitch) x.d with
        | .copy, some a, some d => s.onRows st ch x (s.remoteAct st ch x a d ups)
        | _, _, _ => s)

/-- PORTER_STARVATION: a channel whose request has waited 1,024 cycles is served in the next cycle before any other; its wait then counts
again from zero (R195). What it asked for is served by its own events, in the channel's order. -/
def execPorterStarvation (st : StallId) (ch : ChanId) (s : State) : Res :=
  .next (if (s.chanOf st ch).xfers.isEmpty then s
    else State.pumpChan 4 st ch (s.modChan st ch (fun c => { c with starving := !c.starving })))

end Sys2Proof.Machine
end

