-- ==== Sys2Proof/Machine/SeqEvents.lean ====
section
/-! DEFINITION. What comes back to the sequencers and ends their instances: LD_DATA_RETURN, ATOMIC_RESPONSE, MFEN_COMPLETE,
WAITU_RETURN, TOKEN_GRANT, DEFERRED_TOKEN_EFFECT, INSTANCE_END, SWEEP_COMPLETE, SWEEP_TIMEOUT, INSTRUCTION_CACHE_FILL (spec 05
R123, R131, R134, R135, R144, R146, R148; 06 R168; 18 R453 to R456). -/

namespace Sys2Proof.Machine

/-! ### Data that returns -/

/-- LD_DATA_RETURN: the data of a served load reaches its register; a poisoned line ends the launch (R135, R285). -/
def execLdDataReturn (id : Nat) (s : State) : Res :=
  .next (match s.req? id with
    | none => s
    | some r =>
      match r.client, r.served with
      | .ctx st c l, some a =>
        let arrive := fun (p : PendReg) (f : Ctx → Ctx) =>
          if a.poison then (s.dropReq id).poisonFault l (srcCtx st c) (some st) 0x02 c 0 0 (r.addr.toNat / 64 * 64)
          else (s.dropReq id).modCtx st c (fun x => { f x with pend := x.pend.erase p })
        (match r.kind with
         | .load g => arrive (.g g) (fun x => x.setG g (BitVec.ofNat 64 (leNat a.bytes)))
         | .loadT t => arrive (.t t) (fun x => x.setT t (BitVec.ofNat 512 (leNat a.bytes)))
         | _ => s)
      | _, _ => s)

/-- The syndrome of a TILL_OVERFLOW by an atomic (Table 18-4). -/
def MemReq.overflowSyn (r : MemReq) : Nat := r.pc.toNat % 2 ^ 32

/-- Whether a context runs a launch's instance. -/
def State.runsAt (s : State) (st c l : Nat) : Bool := (s.ctxOf st c).launch == l && (s.ctxOf st c).live

/-- TILL_SAT of a launch whose context is no longer its own (R117). -/
def State.satLate (s : State) (l : Nat) : State := s.modLaunch l (fun x => { x with tillSat := true })

/-- ATOMIC_RESPONSE: the old value, or the saturation bit of a till-format add, reaches its register; a saturation raises
TILL_SAT or ends the launch (R117, R147, R148). -/
def execAtomicResponse (id : Nat) (s : State) : Res :=
  .next (match s.req? id with
    | none => s
    | some r =>
      match r.client, r.served, r.kind with
      | .ctx st c l, some a, .atom op reg _ _ =>
        if !s.runsAt st c l then
          (if a.sat && ((s.launch? l).map (fun x => x.strictOvf)).getD false then
            ((s.dropReq id).satLate l).contextFault l (srcCtx st c) (some st) .tillOverflow 0x02 c r.overflowSyn r.addr.toNat
          else if a.sat then (s.dropReq id).satLate l
          else s.dropReq id)
        else
        let v : W64 := if op = .addTill then BitVec.ofNat 64 (b2n a.sat) else BitVec.ofNat 64 (leNat a.bytes)
        let s1 := (s.dropReq id).modCtx st c (fun x => { x.setG reg v with pend := x.pend.erase (.g reg) })
        if a.sat then
          let s2 := s1.raiseFlags st c true false
          if ((s.launch? l).map (fun x => x.strictOvf)).getD false then
            s2.contextFault l (srcCtx st c) (some st) .tillOverflow 0x02 c r.overflowSyn r.addr.toNat
          else s2
        else s1
      | _, _, _ => s)

/-! ### Waits that end -/

/-- A context that goes on past the instruction it waited at. -/
def State.resume (s : State) (st c : Nat) : State := s.retire st c (fun x => { x with wait := .none })

/-- MFEN_COMPLETE (R135). -/
def execMfenComplete (st : StallId) (cx : CtxId) (s : State) : Res :=
  .next (match (s.ctxOf st cx).wait with
    | .fence n => if s.writesBefore st cx n then s else s.resume st cx
    | _ => s)

/-- WAITU_RETURN (R134). -/
def execWaituReturn (st : StallId) (cx : CtxId) (s : State) : Res :=
  .next (match (s.ctxOf st cx).wait with
    | .unit code limit =>
      (match s.unitCount st cx code with
       | some n => if n ≤ limit then s.resume st cx else s
       | none => s)
    | _ => s)

/-- TOKEN_GRANT: the `n`-th waiting request, where nothing overlaps it, an entry is free and no older request comes first
(R143, R146). -/
def execTokenGrant (n : Nat) (s : State) : Res :=
  .next (match s.tokReqs[n]? with
    | none => s
    | some q =>
      if s.grantable q.rows && !s.outranked (s.tokReqs.take n) q then
        ({ s with tokReqs := s.tokReqs.eraseIdx n }.grant q).resume q.stall q.ctx
      else s)

/-! ### Deferred actions (R144) -/

/-- Whether two lists of row ranges meet. -/
def rowsMeet (a : List Rows) (r : Rows) : Bool := a.any (fun x => x.overlaps r)

/-- The bay rows of a pass's weights. -/
def State.weightRows (s : State) (st : Nat) (c : Nat) (w : BitVec 512) : List Rows :=
  match s.tensor st c w with
  | some d => if d.loc = 1 then d.rows st else []
  | none => []

/-- Whether a client has an operation issued before a point that is not done with some rows (R144). -/
def State.clientBusy (s : State) (t : Token) (serial : Nat) : Bool :=
  let st := t.stall
  match t.client with
  | .seq => false
  | .vec => (s.ctxOf st t.ctx).vecq.any (fun o => decide (o.serial < serial) && rowsMeet o.rows t.rows)
  | .feed k =>
    let x := s.splitOf st k
    x.waiting.any (fun q => decide (q.serial < serial)
        && (rowsMeet (q.feedRows ++ q.preRows) t.rows || rowsMeet (s.weightRows st q.ctx q.wgt) t.rows))
    || x.flight.any (fun p => decide (p.req.serial < serial)
        && ((decide (x.slot ≤ p.lastEntry (p.req.tiles - 1)) && rowsMeet p.req.feedRows t.rows)
            || (decide (x.slot ≤ p.lastPreload) && rowsMeet p.req.preRows t.rows)
            || (decide (x.slot < p.endSlot) && rowsMeet (s.weightRows st p.req.ctx p.req.wgt) t.rows)))
    || x.loads.any (fun l => l.pass.isNone && decide (l.serial < serial) && l.data.isNone
        && rowsMeet (s.weightRows st l.ctx l.desc) t.rows)
  | .drain k => (s.splitOf st k).passes.any (fun q => decide (q.serial < serial) && rowsMeet q.drainRows t.rows)
  | .port c => (s.chanOf st c).xfers.any (fun x => decide (x.serial < serial) && rowsMeet x.rows t.rows)

/-- The context that waits on a handle goes on when nothing is pending there (TKWAIT). -/
def State.handleFree (s : State) (st c k : Nat) : State :=
  if (s.ctxOf st c).wait = .handle k ∧ s.handleBusy st c k = false then s.resume st c else s

/-- DEFERRED_TOKEN_EFFECT: the oldest deferred action on the `n`-th token takes effect once its client is done with the rows. -/
def execDeferredTokenEffect (n : Nat) (s : State) : Res :=
  .next (match s.tokens[n]? with
    | none => s
    | some t =>
      match t.deferred with
      | [] => s
      | d :: rest =>
        if s.clientBusy t d.serial then s
        else
          match d.tgt with
          | some k => { s with tokens := s.tokens.set n { t with client := k, deferred := rest } }.handleFree t.stall t.ctx t.handle
          | none => { s with tokens := s.tokens.eraseIdx n }.handleFree t.stall t.ctx t.handle)

/-! ### The end of instances and launches (R123, R168) -/

/-- Whether a context has work of its own that has not completed (R123). -/
def State.ctxBusy (s : State) (st c : Nat) : Bool :=
  let l := (s.ctxOf st c).launch
  s.passCount st c != 0 || !(s.ctxOf st c).vecq.isEmpty
    || (List.range 8).any (fun ch => s.xferCount st c ch != 0)
    || s.writesBefore st c s.serial
    || s.tokens.any (fun t => t.stall == st && t.ctx == c && t.launch == l && !t.deferred.isEmpty)

/-- A launch that ends with OK: rows still under its tokens on its own stalls are swept, then its tokens are freed (R168). -/
def State.okSweep (s : State) (l : Nat) (x : Launch) : State :=
  let mine := s.tokens.filter (fun t => t.launch == l && x.ownStall t.rows.stall)
  let s1 := mine.foldl (fun s t => s.zeroRows t.rows.stall t.rows.bay t.rows.first t.rows.last) s
  let s2 := { s1 with tokens := s1.tokens.filter (fun t => t.launch != l),
                      mem := { s1.mem with reqs := s1.mem.reqs.filter (fun r => match r.client, r.kind with
                        | .ctx _ _ l', .load _ => l' != l
                        | .ctx _ _ l', .loadT _ => l' != l
                        | _, _ => true) } }
  x.splits.foldl (fun s y => s.modStall y.1 (fun z => { z with ctx := z.ctx.setIfInBounds y.2.1 Ctx.reset })) s2

/-- INSTANCE_END: a context at END whose work is complete; with the last instance the launch ends with OK. -/
def execInstanceEnd (st : StallId) (cx : CtxId) (s : State) : Res :=
  let c := s.ctxOf st cx
  .next (match s.launchIn st cx with
    | none => s
    | some x =>
      if c.wait ≠ .ended || s.ctxBusy st cx then s
      else
        let s1 := (s.modCtx st cx (fun c => { c with live := false, wait := .none })).modLaunch c.launch
          (fun x => { x with running := x.running.filter (· != st.val) })
        if (x.running.filter (· != st.val)).isEmpty then
          let s2 := (s1.okSweep c.launch x).modLaunch c.launch (fun x => { x with ended := some .ok })
          x.splits.foldl (fun s y => s.leaveStall y.1) (s2.finishLaunch c.launch)
        else s1)

/-! ### Sweeps (R453 to R456) -/

/-- The launches that a stall still sweeps. -/
def State.sweepsOn (s : State) (st : Nat) : List Nat :=
  (s.fe.launches.filter (fun e => e.2.ended.isSome && e.2.sweeping.contains st)).map (·.1)

/-- A launch with one stall less to sweep; after the last its completion may be written. A launch that its pitch's reset ended
waits for step 8 (R382). -/
def State.sweptOne (s : State) (l st : Nat) : State :=
  let s1 := s.modLaunch l (fun x => { x with sweeping := x.sweeping.filter (· != st) })
  match s1.launch? l with
  | some x =>
    if x.sweeping.isEmpty then
      let s2 := if (s1.pitch x.pitch).toReport.contains (x.sq, x.hseq) then s1 else (s1.settleLaunch l).finishLaunch l
      x.splits.foldl (fun s y => s.leaveStall y.1) s2
    else s1
  | none => s1

/-- The sweep that a pitch's reset makes of a stall finishes (R382 steps 5, 6). -/
def State.pitchSwept (s : State) (p st : Nat) : State :=
  let s1 := s.resetSweep p st
  if (s1.pitch p).sweeping.isEmpty then s1.resetSettle p else s1

/-- SWEEP_COMPLETE: the sweeper of a stall finishes, for its pitch's reset or for the launches that ended there. -/
def execSweepComplete (st : StallId) (s : State) : Res :=
  .next (match s.pitchOfStall st with
    | some p =>
      if (s.pitch p).state = .resetting ∧ (s.pitch p).sweeping.contains st.val then
        ((s.sweepsOn st).foldl (fun s l => match s.launch? l with
          | some x => ((s.sweepStall l x st).endUses l st).sweptOne l st
          | none => s) s).pitchSwept p st
      else (s.sweepsOn st).foldl (fun s l => match s.launch? l with
          | some x => ((s.sweepStall l x st).endUses l st).sweptOne l st
          | none => s) s
    | none => s)

/-- The fault record of a stall whose sweep did not finish: UKIND 0x08 with MAPOUT (R455, R473). -/
def State.sweepFault (s : State) (st : Nat) : State :=
  s.postFault (srcStall st)
    { FaultInfo.noCtx 1 .ok 0x08 0 0 0 (s.pitchOfStall st) (some st) with flags := 2 + 16 }

/-- SWEEP_TIMEOUT: a stall that is sweeping goes DARK, which loses its bays, and is mapped out; its sweep counts as done. -/
def execSweepTimeout (st : StallId) (s : State) : Res :=
  let p := s.pitchOfStall st
  let resets := (match p with
    | some p => (s.pitch p).state == .resetting && (s.pitch p).sweeping.contains st.val
    | none => false)
  let ls := s.sweepsOn st
  .next (if ls.isEmpty && !resets then s
    else
      let s1 := ((s.sweepFault st).mapOutStall st Status.hwFault.code).setPwr st .dark
      let s2 := ls.foldl (fun s l => match s.launch? l with
        | some x => ((s.sweepStall l x st).endUses l st).sweptOne l st
        | none => s) s1
      match p, resets with
      | some p, true => s2.pitchSwept p st
      | _, _ => s2)

/-! ### Instruction fetch (R131) -/

/-- Lines of the instruction cache: 64 KiB of 64 bytes (R131). -/
def icacheLines : Nat := 1024

/-- A line of a launch's image as its fetches see it: memory, but for what its own writes have replaced (R131). -/
def Launch.lineSeen (x : Launch) (a : Nat) (bs : List Byte) : List W64 :=
  let seen := (bs.zipIdx).map (fun b => ((x.image.find? (fun e => e.1 == a + b.2)).map (·.2)).getD b.1)
  (List.range 8).map (fun i => BitVec.ofNat 64 (fieldAt seen (8 * i) 8))

/-- A word without a listed opcode that a context has reached: a NOP under a false guard, else the launch ends with BAD_PROGRAM
(R133). -/
def State.unlisted (s : State) (st : StallId) (cx : CtxId) (w : W64) : State :=
  if (seqInstr st cx w).isSome || !s.atIssue st cx || !s.inImage st cx then s
  else if s.guard st cx (wordGn w) (wordGp w) then s.badProgram st cx (wordOp w)
  else s.retire st cx id

/-- INSTRUCTION_CACHE_FILL: a line of 64 bytes of the program image returns into the stall's instruction cache; a poisoned or
refused line ends the launch. `line` counts lines from the first instruction. A context that stands at a word of the line that names no
instruction meets it now; one that names an instruction is brought by that instruction's own command. DESIGN CHOICE: R131 does not say which
line a full cache gives up; the one that was filled longest ago goes (log 158). -/
def execInstructionCacheFill (st : StallId) (cx : CtxId) (line : Nat) (s : State) : Res :=
  .next (match s.launchIn st cx with
    | none => s
    | some x =>
      let a := x.prog + 64 + 64 * line
      if x.codeLen ≤ 8 * line || x.ended.isSome then s
      else match s.readDev x.pitch (some x.csr.toNat) a 64 with
        | .ok bs =>
          let ws := x.lineSeen a bs
          let s1 := s.modStall st (fun y =>
            { y with icache := ((a / 64, ws) :: y.icache.filter (fun e => e.1 != a / 64)).take icacheLines })
          let pc := (s.ctxOf st cx).pc.toNat
          if pc / 8 = line then s1.unlisted st cx (ws[pc % 8]?.getD 0) else s1
        | .poison _ => s.poisonFault (s.ctxOf st cx).launch (srcCtx st cx) (some st) 0x02 cx 0 0 (a / 64 * 64)
        | .denied _ m => s.seqDenied st cx 0 x.pitch a m
        | .fatal => s.tablePoison x.pitch)

end Sys2Proof.Machine
end

