-- ==== Sys2Proof/Machine/Sideband.lean ====
section
/-! DEFINITION. The sideband: SPDM_MESSAGE, MCTP_CONTROL_MESSAGE and JTAG_INSTRUCTION (spec 21 R519, R520, R524; 22 R552, R553, R555). -/

namespace Sys2Proof.Machine

/-! ### Measurement blocks (R520, Table 21-7) -/

/-- The bytes of a component's active image. -/
def State.activeImage (s : State) (c : Nat) : List Byte :=
  let x := (s.comp c).active
  if x.image.isEmpty then Config.shippedImage c else x.bytes (entLength x.entry)

/-- The key in a slot: 2 INSTALLER, 16 + p OPERATOR p (Table 21-2). -/
def State.keySlot (s : State) (n : Nat) : Option Key :=
  if n = 2 then s.sec.installer else if 16 ≤ n then s.sec.operators[n - 16]?.getD none else none

/-- The bytes of the key in a slot. -/
def State.keyBytes (s : State) (n : Nat) : List Byte :=
  match s.keySlot n with
  | some k => k.bytes
  | none => []

/-- What a measurement block holds, if there is a block of that index. -/
def State.blockHolds (s : State) (n : Nat) : Option (List Byte) :=
  if n = 1 then some Config.securityRom
  else if 2 ≤ n ∧ n ≤ 6 then some (s.activeImage (n - 1))
  else if n = 7 then
    some (Config.measured 7 ((List.range 5).flatMap (fun c =>
      let e := (s.comp (c + 1)).active.entry
      [entVersion e, entSvn e, (s.comp (c + 1)).floor])))
  else if n = 8 then some (Config.measured 8 [s.sec.policy.toNat] ++ s.keyBytes 2)
  else if n = 9 then some (Config.measured 9 (s.chip.map ++ [s.raw 0 offMapOut]))
  else if n = 10 then some (Config.measured 10 [s.sec.book.next] ++ s.sec.book.chain)
  else if 0x20 ≤ n ∧ n < 0x38 then
    (let p := n - 0x20
     let regions := (List.range 16).filter (fun k => bit (s.raw 0 (offCsPitch k)) p)
     some (Config.measured n
       ([s.pcfgView p, s.raw 0 (offXlat p), s.raw 0 (offMreg p), s.raw 0 (offFrange p), s.raw 0 (offSlots p), s.fld 0 offRetain p p]
         ++ regions.flatMap (fun k => [s.csView k, s.raw 0 (offCsMap k), s.raw 0 (offCsPitch k)])) ++ s.keyBytes (16 + p)))
  else none

/-- A measurement block as it is returned: its index and its digest. -/
def State.measure (s : State) (n : Nat) : Option (List Byte) := (s.blockHolds n).map (fun b => leBytes 1 n ++ Config.sha384 b)

/-- Whether a block is returned: blocks 1 to 10 to anyone, block 0x20 + p in a session that the installer key or OPERATOR p has proved. -/
def blockOpen (x : Option Session) (n : Nat) : Bool :=
  decide (n ≤ 10) || x.any (fun x => x.finished && (x.auth == some 2 || x.auth == some (n - 0x20 + 16)))

/-! ### SPDM_MESSAGE (R519) -/

/-- What an answer comes to: its response code, the numbers and the bytes it holds, and its effect. -/
structure SpdmDone where
  code : Nat
  nums : List Nat
  bytes : List Byte
  act : Security → Security

/-- ERROR. -/
def SpdmDone.error : SpdmDone := ⟨0x7F, [], [], id⟩

/-- A session by its id. -/
def State.session? (s : State) (id : Nat) : Option Session := s.sec.sessions.find? (fun x => x.id == id)

/-- The security block with a session changed. -/
def Security.modSession (x : Security) (id : Nat) (f : Session → Session) : Security :=
  { x with sessions := x.sessions.map (fun y => if y.id = id then f y else y) }

/-- Whether the requester of a session proves a key already provisioned in a slot. -/
def State.proves (s : State) (id : Nat) (key : Option Nat) (sig : List Byte) : Bool :=
  match key.bind s.keySlot with
  | some k => sigOk k.scheme k.bytes (Config.spdmTranscript id) sig
  | none => false

/-- Requests that open the connection, and those that need it open. -/
def State.spdmOpen (s : State) (x : Option Session) (r : SpdmReq) : SpdmDone :=
  let ready := s.sec.spdmStep == 3 && x.all (·.finished)
  match r with
  | .getVersion => if x.isSome then .error else ⟨0x04, [], [], fun y => { y with spdmStep := 1, sessions := [] }⟩
  | .getCapabilities => if x.isNone && s.sec.spdmStep == 1 then ⟨0x61, [], [], fun y => { y with spdmStep := 2 }⟩ else .error
  | .negotiateAlgorithms ok => if x.isNone && s.sec.spdmStep == 2 && ok then ⟨0x63, [], [], fun y => { y with spdmStep := 3 }⟩ else .error
  | .getDigests => if ready then ⟨0x01, [], [], id⟩ else .error
  | .getCertificate slot off len => if ready && decide (slot < 2) then ⟨0x02, [slot, off, len], [], id⟩ else .error
  | .challenge slot nonce => if ready && x.isNone && decide (slot < 2) then ⟨0x03, [slot], nonce, id⟩ else .error
  | .getMeasurements n nonce =>
    if !ready then .error
    else if n = 0 then ⟨0x60, [((List.range 0x38).filter (fun k => (s.blockHolds k).isSome && blockOpen x k)).length], nonce, id⟩
    else if n = 0xFF then ⟨0x60, [], nonce ++ ((List.range 0x38).filter (blockOpen x)).flatMap (fun k => (s.measure k).getD []), id⟩
    else (match s.measure n with
      | some b => if blockOpen x n then ⟨0x60, [n], nonce ++ b, id⟩ else .error
      | none => .error)
  | .keyExchange slot asks =>
    let id' := (s.sec.sessions.map (·.id)).foldl max 0 + 1
    if ready && x.isNone && decide (slot < 2) then
      ⟨0x64, [slot, id'], [], fun y => { y with sessions := y.sessions ++ [⟨id', asks, none, false⟩] }⟩
    else .error
  | .finish key sig mac =>
    (match x with
     | some y =>
       if !y.finished && mac && (!y.asksKey || s.proves y.id key sig) then
         ⟨0x65, [], [], fun z => z.modSession y.id (fun w => { w with finished := true, auth := if y.asksKey then key else none })⟩
       else .error
     | none => .error)
  | .heartbeat => if x.any (·.finished) then ⟨0x68, [], [], id⟩ else .error
  | .endSession =>
    (match x with
     | some y => if y.finished then ⟨0x6C, [], [], fun z => { z with sessions := z.sessions.filter (fun w => w.id != y.id) }⟩ else .error
     | none => .error)
  | .other _ => .error

/-- Whether the endpoint is reachable by a binding: the clerk runs, and the host port for PCIe messages. -/
def State.endpointUp (s : State) (vdm : Bool) : Bool := s.md.supply && s.md.clerk && (!vdm || s.md.hostUp)

/-- SPDM_MESSAGE: a request, in the clear or in a session, is answered; one in a session that does not exist is an error. -/
def execSpdmMessage (vdm : Bool) (sess : Option Nat) (r : SpdmReq) (s : State) : Res :=
  let d := (match sess with
    | none => s.spdmOpen none r
    | some id => (match s.session? id with
      | some x => s.spdmOpen (some x) r
      | none => .error))
  .next (if !s.endpointUp vdm then s
    else ({ s with free := s.free + 1, sec := d.act s.sec }).emit (.spdm vdm d.code (Config.spdmBody s.free d.nums d.bytes)))

/-! ### MCTP_CONTROL_MESSAGE (R552) -/

/-- The endpoint ID of a binding. -/
def State.eid (s : State) (vdm : Bool) : Nat := if vdm then s.sec.eidVdm else s.sec.eidI3c

/-! ### PLDM (R553) -/

/-- What a sensor shows: the register field of Table 22-15; none where the sensor, or its register, lies on the compute die while its rails
are off or during a chip reset. The
values are read as the message comes (DESIGN CHOICE, log entry 141: R553 refreshes them every 1 ms). -/
def State.reading (s : State) (x : PldmSensor) : Option Int :=
  let die := fun (v : Int) => if s.dieDown || !s.fine then none else some v
  match x with
  | .power => some (bits s.pwrStatView 12 0)
  | .powerLimit => some (s.fld 0 offPwrLimit 12 0)
  | .stage => some (bits s.pwrStatView 15 13)
  | .dieTemp n => if n.val < 60 then die (s.sensor n).temp.toInt else some (s.sensor n).temp.toInt
  | .dieStep n => if n.val < 60 then die (s.sensor n).step else some ((s.sensor n).step : Int)
  | .stackTemp n => die (s.stack n).temp.toInt
  | .stackStep n => die (s.stack n).step
  | .stalls => some (bits s.healthView 5 0)
  | .spares => some (bits s.healthView 8 6)
  | .pchOut => some (bits s.healthView 23 16)
  | .halfLinks => some (bits s.healthView 29 24)
  | .replace => some (bits s.healthView 32 32)
  | .links n => some (bits (s.portView n) 27 16)
  | .pitch p => die (bits (s.pcfgView p) 27 26)
  | .time => some (bits s.tstatView 1 0)

/-- The answer to a PLDM request. -/
def State.pldm (s : State) (vdm : Bool) (r : PldmReq) : Out :=
  let known := fun (b : Option (List Byte)) => match b with
    | some b => Out.pldmBytes vdm b
    | none => .pldmError vdm
  match r with
  | .base c => known (Config.pldmBase c)
  | .pdr h => known (Config.pldmPdr h)
  | .read x => .pldmReading vdm (s.reading x)
  | .other ty c => if ty = 2 then known (Config.pldmType2 c) else .pldmError vdm

/-- MCTP_CONTROL_MESSAGE: a PLDM request is answered and changes nothing; the bus owner assigns or asks for the endpoint ID of a binding; 0 and 0xFF are no endpoint's. -/
def execMctpControlMessage (vdm : Bool) (r : MctpReq) (s : State) : Res :=
  .next (if !s.endpointUp vdm then s
    else match r with
      | .setEid e =>
        if 0 < e ∧ e < 0xFF then
          ({ s with sec := if vdm then { s.sec with eidVdm := e } else { s.sec with eidI3c := e } }).emit (.mctp vdm (some e))
        else s.emit (.mctp vdm none)
      | .getEid => s.emit (.mctp vdm (some (s.eid vdm)))
      | .other _ => s.emit (.mctp vdm none)
      | .pldm r => s.emit (s.pldm vdm r))

/-! ### JTAG_INSTRUCTION (R555) -/

/-- Whether a bit of the consent token's SCOPE is open (Table 21-9): 0 register read, 1 register write, 2 scan chains, 3 device-memory
read. -/
def State.jtagMay (s : State) (b : Nat) : Bool := s.sec.unlocked && bit s.debugScope b

/-- JTAG_INSTRUCTION: within the unlocked scope an instruction has its effect; every other acts as BYPASS. -/
def execJtagInstruction (op : JtagOp) (s : State) : Res :=
  .next (if !s.md.supply then s
    else match op with
      | .idcode => s.emit (.jtag (some Config.idcode))
      | .regRead fn off => if s.jtagMay 0 then s.emit (.jtag (some (s.readReg fn off).toNat)) else s.emit (.jtag none)
      | .regWrite fn off v => if s.jtagMay 1 then s.regWrite fn off v.toNat else s.emit (.jtag none)
      | .scan n =>
        if s.jtagMay 2 then ({ s with free := s.free + 1 }).emit (.jtag (some (Config.scanChain s.free n))) else s.emit (.jtag none)
      | .memRead u off n => if s.jtagMay 3 then s.emit (.jtag (some (leNat (s.memBytes u off n)))) else s.emit (.jtag none)
      | .bypass => s.emit (.jtag none)
      | .other _ => s.emit (.jtag none))

end Sys2Proof.Machine
end

