-- ==== Sys2Proof/Machine/Tensor.lean ====
section
/-! DEFINITION. Loads and stores of device memory and bay words, and the tensor-descriptor instructions (spec 05 Tables 5-7
and 5-9). -/

namespace Sys2Proof.Machine

/-- LD: an 8-byte load is issued; its register waits for LD_DATA_RETURN. -/
def execLd (st : StallId) (cx : CtxId) (f : FmtA) (s : State) : Res :=
  .next (s.issue st cx 0x13 f.gn f.gp (inFile f.s1 16 && unused f.s2 && unused f.s3) (gs [f.d])
    (match devOperand ((s.ctxOf st cx).getA f.s1) f.x 8 with
     | none => s.badProgram st cx 0x13
     | some a => s.memIssue st cx 0x13 .read (.load f.d) a 8 (fun c => if f.d = 0 then c else c.await (.g f.d))))

/-- ST: an 8-byte store is posted. -/
def execSt (st : StallId) (cx : CtxId) (f : FmtA) (s : State) : Res :=
  let c := s.ctxOf st cx
  .next (s.issue st cx 0x14 f.gn f.gp (unused f.d && inFile f.s1 16 && unused f.s3) (gs [f.s2])
    (match devOperand (c.getA f.s1) f.x 8 with
     | none => s.badProgram st cx 0x14
     | some a => s.memIssue st cx 0x14 .write (.store (leBytes 8 (c.getG f.s2).toNat)) a 8 id))

/-- LDB: a bay word under a SEQ token. -/
def execLdb (st : StallId) (cx : CtxId) (f : FmtA) (ups : List (Nat × BitVec 39)) (s : State) : Res :=
  .next (s.issue st cx 0x15 f.gn f.gp (inFile f.s1 16 && unused f.s2 && unused f.s3) (gs [f.d])
    (match bayOperand ((s.ctxOf st cx).getA f.s1) f.x with
     | none => s.badProgram st cx 0x15
     | some a => s.covered st cx 0x15 .seq [rowSpan st a 1]
         (s.bayLoad st cx 0 0x02 cx ups [a] (fun s ws =>
           s.retire st cx (fun c => c.setG f.d (((ws[0]?).getD 0).zeroExtend 64))))))

/-- STB: a bay word under a SEQ token. -/
def execStb (st : StallId) (cx : CtxId) (f : FmtA) (s : State) : Res :=
  let c := s.ctxOf st cx
  .next (s.issue st cx 0x16 f.gn f.gp (unused f.d && inFile f.s1 16 && unused f.s3) (gs [f.s2])
    (match bayOperand (c.getA f.s1) f.x with
     | none => s.badProgram st cx 0x16
     | some a => s.covered st cx 0x16 .seq [rowSpan st a 1]
         ((s.bayWrite st a ((c.getG f.s2).truncate 32)).retire st cx id)))

/-- A tensor-descriptor register with one of its eight words replaced (R125). -/
def setTw (t : BitVec 512) (i : Nat) (v : W64) : BitVec 512 :=
  BitVec.ofNat 512 (setBits t.toNat (64 * i + 63) (64 * i) v.toNat)

/-- One of the eight words of a tensor-descriptor register. -/
def getTw (t : BitVec 512) (i : Nat) : W64 := BitVec.ofNat 64 (t.toNat / 2 ^ (64 * i))

/-- TSET: word X[2:0] of tD = gS1. -/
def execTset (st : StallId) (cx : CtxId) (f : FmtA) (s : State) : Res :=
  let c := s.ctxOf st cx
  .next (s.issue st cx 0x30 f.gn f.gp (inFile f.d 16 && unused f.s2 && unused f.s3 && xOnly f.x 7) (gs [f.s1] ++ ts [f.d])
    (s.retire st cx (fun x => x.setT f.d (setTw (c.getT f.d) (f.x.toNat % 8) (c.getG f.s1)))))

/-- TGET: gD = word X[2:0] of tS1. -/
def execTget (st : StallId) (cx : CtxId) (f : FmtA) (s : State) : Res :=
  let c := s.ctxOf st cx
  .next (s.issue st cx 0x31 f.gn f.gp (inFile f.s1 16 && unused f.s2 && unused f.s3 && xOnly f.x 7) (gs [f.d] ++ ts [f.s1])
    (s.retire st cx (fun x => x.setG f.d (getTw (c.getT f.s1) (f.x.toNat % 8)))))

/-- TLD: a 64-byte load is issued; its register waits for LD_DATA_RETURN. -/
def execTld (st : StallId) (cx : CtxId) (f : FmtA) (s : State) : Res :=
  .next (s.issue st cx 0x32 f.gn f.gp (inFile f.d 16 && inFile f.s1 16 && unused f.s2 && unused f.s3) (ts [f.d])
    (match devOperand ((s.ctxOf st cx).getA f.s1) f.x 64 with
     | none => s.badProgram st cx 0x32
     | some a => s.memIssue st cx 0x32 .read (.loadT f.d) a 64 (fun c => c.await (.t f.d))))

/-- TST: a 64-byte store is posted. -/
def execTst (st : StallId) (cx : CtxId) (f : FmtA) (s : State) : Res :=
  let c := s.ctxOf st cx
  .next (s.issue st cx 0x33 f.gn f.gp (unused f.d && inFile f.s1 16 && inFile f.s2 16 && unused f.s3) (ts [f.s2])
    (match devOperand (c.getA f.s1) f.x 64 with
     | none => s.badProgram st cx 0x33
     | some a => s.memIssue st cx 0x33 .write (.store (leBytes 64 (c.getT f.s2).toNat)) a 64 id))

/-- TMOV: tD = tS1. -/
def execTmov (st : StallId) (cx : CtxId) (f : FmtA) (s : State) : Res :=
  let c := s.ctxOf st cx
  .next (s.issue st cx 0x34 f.gn f.gp (inFile f.d 16 && inFile f.s1 16 && unused f.s2 && unused f.s3 && xOnly f.x 0)
    (ts [f.d, f.s1]) (s.retire st cx (fun x => x.setT f.d (c.getT f.s1))))

/-- The bit range of the field that TADV names: BASE, ORIGIN_K, SBASE, TAG (Table 5-3). -/
def advField (code : Nat) : Nat × Nat :=
  match code with
  | 0 => (47, 0)
  | 1 => (159, 128)
  | 2 => (239, 192)
  | _ => (95, 80)

/-- A descriptor with a number added to one field, wrapping within it. -/
def tadv (t : BitVec 512) (code : Nat) (v : W64) : BitVec 512 :=
  let r := advField code
  BitVec.ofNat 512 (setBits t.toNat r.1 r.2 (bits t.toNat r.1 r.2 + v.toNat))

/-- TADV: tD = tS1 with gS2 added to field X[1:0]. -/
def execTadv (st : StallId) (cx : CtxId) (f : FmtA) (s : State) : Res :=
  let c := s.ctxOf st cx
  .next (s.issue st cx 0x35 f.gn f.gp (inFile f.d 16 && inFile f.s1 16 && unused f.s3 && xOnly f.x 3)
    (gs [f.s2] ++ ts [f.d, f.s1]) (s.retire st cx (fun x => x.setT f.d (tadv (c.getT f.s1) (f.x.toNat % 4) (c.getG f.s2)))))

end Sys2Proof.Machine
end

