-- ==== Sys2Proof/Machine/Dispatch.lean ====
section
/-! DEFINITION. One arm per command: the direct call of its meaning. -/

namespace Sys2Proof.Machine

def exec (i : Instr) (s : State) : Host.Outcome State Fault Refusal :=
  match i with
  | .nop st cx f => Sys2Proof.Machine.execNop st cx f s
  | .add st cx f => Sys2Proof.Machine.execAdd st cx f s
  | .sub st cx f => Sys2Proof.Machine.execSub st cx f s
  | .mul st cx f => Sys2Proof.Machine.execMul st cx f s
  | .mulh st cx f => Sys2Proof.Machine.execMulh st cx f s
  | .and st cx f => Sys2Proof.Machine.execAnd st cx f s
  | .or st cx f => Sys2Proof.Machine.execOr st cx f s
  | .xor st cx f => Sys2Proof.Machine.execXor st cx f s
  | .shl st cx f => Sys2Proof.Machine.execShl st cx f s
  | .shr st cx f => Sys2Proof.Machine.execShr st cx f s
  | .sar st cx f => Sys2Proof.Machine.execSar st cx f s
  | .addi st cx f => Sys2Proof.Machine.execAddi st cx f s
  | .movi st cx f => Sys2Proof.Machine.execMovi st cx f s
  | .movh st cx f => Sys2Proof.Machine.execMovh st cx f s
  | .cmp st cx f => Sys2Proof.Machine.execCmp st cx f s
  | .cmpi st cx f => Sys2Proof.Machine.execCmpi st cx f s
  | .plog st cx f => Sys2Proof.Machine.execPlog st cx f s
  | .mova st cx f => Sys2Proof.Machine.execMova st cx f s
  | .movg st cx f => Sys2Proof.Machine.execMovg st cx f s
  | .ld st cx f => Sys2Proof.Machine.execLd st cx f s
  | .st st cx f => Sys2Proof.Machine.execSt st cx f s
  | .ldb st cx f ups => Sys2Proof.Machine.execLdb st cx f ups s
  | .stb st cx f => Sys2Proof.Machine.execStb st cx f s
  | .flags st cx f => Sys2Proof.Machine.execFlags st cx f s
  | .br st cx f => Sys2Proof.Machine.execBr st cx f s
  | .jr st cx f => Sys2Proof.Machine.execJr st cx f s
  | .call st cx f => Sys2Proof.Machine.execCall st cx f s
  | .loop st cx f => Sys2Proof.Machine.execLoop st cx f s
  | .loopi st cx f => Sys2Proof.Machine.execLoopi st cx f s
  | .lbrk st cx f => Sys2Proof.Machine.execLbrk st cx f s
  | .endInst st cx f => Sys2Proof.Machine.execEndInst st cx f s
  | .tset st cx f => Sys2Proof.Machine.execTset st cx f s
  | .tget st cx f => Sys2Proof.Machine.execTget st cx f s
  | .tld st cx f => Sys2Proof.Machine.execTld st cx f s
  | .tst st cx f => Sys2Proof.Machine.execTst st cx f s
  | .tmov st cx f => Sys2Proof.Machine.execTmov st cx f s
  | .tadv st cx f => Sys2Proof.Machine.execTadv st cx f s
  | .pass st cx f => Sys2Proof.Machine.execPass st cx f s
  | .wld st cx f => Sys2Proof.Machine.execWld st cx f s
  | .ascl st cx f => Sys2Proof.Machine.execAscl st cx f s
  | .dctw st cx f => Sys2Proof.Machine.execDctw st cx f s
  | .satm st cx f => Sys2Proof.Machine.execSatm st cx f s
  | .splt st cx f => Sys2Proof.Machine.execSplt st cx f s
  | .vld st cx f ups => Sys2Proof.Machine.execVld st cx f ups s
  | .vst st cx f => Sys2Proof.Machine.execVst st cx f s
  | .vldc st cx f ups => Sys2Proof.Machine.execVldc st cx f ups s
  | .vstc st cx f => Sys2Proof.Machine.execVstc st cx f s
  | .vbc st cx f => Sys2Proof.Machine.execVbc st cx f s
  | .vlane st cx f => Sys2Proof.Machine.execVlane st cx f s
  | .vadd st cx f => Sys2Proof.Machine.execVadd st cx f s
  | .vsub st cx f => Sys2Proof.Machine.execVsub st cx f s
  | .vmul st cx f => Sys2Proof.Machine.execVmul st cx f s
  | .vfma st cx f => Sys2Proof.Machine.execVfma st cx f s
  | .vmax st cx f => Sys2Proof.Machine.execVmax st cx f s
  | .vmin st cx f => Sys2Proof.Machine.execVmin st cx f s
  | .vlog st cx f => Sys2Proof.Machine.execVlog st cx f s
  | .vsh st cx f => Sys2Proof.Machine.execVsh st cx f s
  | .vcmp st cx f => Sys2Proof.Machine.execVcmp st cx f s
  | .vsel st cx f => Sys2Proof.Machine.execVsel st cx f s
  | .vcvt st cx f => Sys2Proof.Machine.execVcvt st cx f s
  | .vsfu st cx f => Sys2Proof.Machine.execVsfu st cx f s
  | .vred st cx f => Sys2Proof.Machine.execVred st cx f s
  | .vrmax st cx f => Sys2Proof.Machine.execVrmax st cx f s
  | .vexpd st cx f => Sys2Proof.Machine.execVexpd st cx f s
  | .vsca st cx f => Sys2Proof.Machine.execVsca st cx f s
  | .vscf st cx f => Sys2Proof.Machine.execVscf st cx f s
  | .vwadd st cx f => Sys2Proof.Machine.execVwadd st cx f s
  | .vwcvt st cx f => Sys2Proof.Machine.execVwcvt st cx f s
  | .vwanc st cx f => Sys2Proof.Machine.execVwanc st cx f s
  | .vcvtt st cx f => Sys2Proof.Machine.execVcvtt st cx f s
  | .pcopy st cx f => Sys2Proof.Machine.execPcopy st cx f s
  | .pgath st cx f => Sys2Proof.Machine.execPgath st cx f s
  | .pwalk st cx f => Sys2Proof.Machine.execPwalk st cx f s
  | .pconv st cx f => Sys2Proof.Machine.execPconv st cx f s
  | .psend st cx f => Sys2Proof.Machine.execPsend st cx f s
  | .ppost st cx f => Sys2Proof.Machine.execPpost st cx f s
  | .ptime st cx f => Sys2Proof.Machine.execPtime st cx f s
  | .waitu st cx f => Sys2Proof.Machine.execWaitu st cx f s
  | .tkacq st cx f => Sys2Proof.Machine.execTkacq st cx f s
  | .tktry st cx f => Sys2Proof.Machine.execTktry st cx f s
  | .tkpass st cx f => Sys2Proof.Machine.execTkpass st cx f s
  | .tkrel st cx f => Sys2Proof.Machine.execTkrel st cx f s
  | .tkwait st cx f => Sys2Proof.Machine.execTkwait st cx f s
  | .aadd st cx f => Sys2Proof.Machine.execAadd st cx f s
  | .amin st cx f => Sys2Proof.Machine.execAmin st cx f s
  | .amax st cx f => Sys2Proof.Machine.execAmax st cx f s
  | .acas st cx f => Sys2Proof.Machine.execAcas st cx f s
  | .awadd st cx f => Sys2Proof.Machine.execAwadd st cx f s
  | .atens st cx f => Sys2Proof.Machine.execAtens st cx f s
  | .mfen st cx f => Sys2Proof.Machine.execMfen st cx f s
  | .mark st cx f => Sys2Proof.Machine.execMark st cx f s
  | .time st cx f => Sys2Proof.Machine.execTime st cx f s
  | .cyc st cx f => Sys2Proof.Machine.execCyc st cx f s
  | .ldDataReturn id => Sys2Proof.Machine.execLdDataReturn id s
  | .atomicResponse id => Sys2Proof.Machine.execAtomicResponse id s
  | .mfenComplete st cx => Sys2Proof.Machine.execMfenComplete st cx s
  | .waituReturn st cx => Sys2Proof.Machine.execWaituReturn st cx s
  | .tokenGrant n => Sys2Proof.Machine.execTokenGrant n s
  | .deferredTokenEffect n => Sys2Proof.Machine.execDeferredTokenEffect n s
  | .instanceEnd st cx => Sys2Proof.Machine.execInstanceEnd st cx s
  | .passEntry st sp => Sys2Proof.Machine.execPassEntry st sp s
  | .arraySlot st sp hold upset ups => Sys2Proof.Machine.execArraySlot st sp hold upset ups s
  | .outputRowsRelease st sp => Sys2Proof.Machine.execOutputRowsRelease st sp s
  | .sweepComplete st => Sys2Proof.Machine.execSweepComplete st s
  | .sweepTimeout st => Sys2Proof.Machine.execSweepTimeout st s
  | .remoteBayRequest st ch ups => Sys2Proof.Machine.execRemoteBayRequest st ch ups s
  | .bayCorrectedRewrite n => Sys2Proof.Machine.execBayCorrectedRewrite n s
  | .windowForce n => Sys2Proof.Machine.execWindowForce n s
  | .porterPairCheck st eng => Sys2Proof.Machine.execPorterPairCheck st eng s
  | .porterTransferComplete st ch host ups => Sys2Proof.Machine.execPorterTransferComplete st ch host ups s
  | .porterStarvation st ch => Sys2Proof.Machine.execPorterStarvation st ch s
  | .pageWalkHeaderRead st ch => Sys2Proof.Machine.execPageWalkHeaderRead st ch s
  | .scaleFrameCheck st ch => Sys2Proof.Machine.execScaleFrameCheck st ch s
  | .pageWalkEpochRead st ch => Sys2Proof.Machine.execPageWalkEpochRead st ch s
  | .blockDecode st eng => Sys2Proof.Machine.execBlockDecode st eng s
  | .encodedWritePass st ch ups => Sys2Proof.Machine.execEncodedWritePass st ch ups s
  | .entTableBuildDone st ch => Sys2Proof.Machine.execEntTableBuildDone st ch s
  | .entDecoderTableLoad st => Sys2Proof.Machine.execEntDecoderTableLoad st s
  | .factorExpandTile st eng => Sys2Proof.Machine.execFactorExpandTile st eng s
  | .memoryRead job u off o alt again => Sys2Proof.Machine.execMemoryRead job u off o alt again s
  | .memoryWrite job => Sys2Proof.Machine.execMemoryWrite job s
  | .memoryAtomic id o => Sys2Proof.Machine.execMemoryAtomic id o s
  | .atomicBufferEvict u => Sys2Proof.Machine.execAtomicBufferEvict u s
  | .patrolRead u o alt again => Sys2Proof.Machine.execPatrolRead u o alt again s
  | .stackTempReport k temp => Sys2Proof.Machine.execStackTempReport k temp s
  | .memoryUnitPowerDown u => Sys2Proof.Machine.execMemoryUnitPowerDown u s
  | .bellWrite fn off size data => Sys2Proof.Machine.execBellWrite fn off size data s
  | .callerStart => Sys2Proof.Machine.execCallerStart s
  | .doorbellScan g entries => Sys2Proof.Machine.execDoorbellScan g entries s
  | .groupRescan g entries => Sys2Proof.Machine.execGroupRescan g entries s
  | .frontEndIdleCheck => Sys2Proof.Machine.execFrontEndIdleCheck s
  | .descriptorFetch q slots => Sys2Proof.Machine.execDescriptorFetch q slots s
  | .cqDoorbellPoll q entry => Sys2Proof.Machine.execCqDoorbellPoll q entry s
  | .completionRecordWrite q => Sys2Proof.Machine.execCompletionRecordWrite q s
  | .statusBlockWrite k => Sys2Proof.Machine.execStatusBlockWrite k s
  | .watermarkRefresh p => Sys2Proof.Machine.execWatermarkRefresh p s
  | .descNop q => Sys2Proof.Machine.execDescNop q s
  | .launch q => Sys2Proof.Machine.execLaunch q s
  | .launchPlace q => Sys2Proof.Machine.execLaunchPlace q s
  | .wait q => Sys2Proof.Machine.execWait q s
  | .signal q => Sys2Proof.Machine.execSignal q s
  | .signalWriteVisible n => Sys2Proof.Machine.execSignalWriteVisible n s
  | .pageEdit q => Sys2Proof.Machine.execPageEdit q s
  | .tableRelease q => Sys2Proof.Machine.execTableRelease q s
  | .queueCreate q => Sys2Proof.Machine.execQueueCreate q s
  | .queueDelete q => Sys2Proof.Machine.execQueueDelete q s
  | .resync q entries => Sys2Proof.Machine.execResync q entries s
  | .resume q => Sys2Proof.Machine.execResume q s
  | .hostwin q => Sys2Proof.Machine.execHostwin q s
  | .kill q => Sys2Proof.Machine.execKill q s
  | .pitchReset q => Sys2Proof.Machine.execPitchReset q s
  | .fwOpen q hdr => Sys2Proof.Machine.execFwOpen q hdr s
  | .fwBlock q data => Sys2Proof.Machine.execFwBlock q data s
  | .fwCommit q => Sys2Proof.Machine.execFwCommit q s
  | .fwActivate q => Sys2Proof.Machine.execFwActivate q s
  | .slotAssign n q => Sys2Proof.Machine.execSlotAssign n q s
  | .blockedSlotRelease n => Sys2Proof.Machine.execBlockedSlotRelease n s
  | .sliceExpiry n => Sys2Proof.Machine.execSliceExpiry n s
  | .msixHoldExpiry fn v => Sys2Proof.Machine.execMsixHoldExpiry fn v s
  | .msixUnmask fn v => Sys2Proof.Machine.execMsixUnmask fn v s
  | .pitchEnable p v => Sys2Proof.Machine.execPitchEnable p v s
  | .pitchDisable p => Sys2Proof.Machine.execPitchDisable p s
  | .prstWarmCmd p => Sys2Proof.Machine.execPrstWarmCmd p s
  | .prstScrubCmd p => Sys2Proof.Machine.execPrstScrubCmd p s
  | .functionLevelReset fn => Sys2Proof.Machine.execFunctionLevelReset fn s
  | .vfDisable n => Sys2Proof.Machine.execVfDisable n s
  | .xlatInval p v => Sys2Proof.Machine.execXlatInval p v s
  | .csresWrite v => Sys2Proof.Machine.execCsresWrite v s
  | .csEnable n v => Sys2Proof.Machine.execCsEnable n v s
  | .csSeal n on => Sys2Proof.Machine.execCsSeal n on s
  | .lift n => Sys2Proof.Machine.execLift n s
  | .csStateDeferred n => Sys2Proof.Machine.execCsStateDeferred n s
  | .pkrEnEffect p n => Sys2Proof.Machine.execPkrEnEffect p n s
  | .tableAreaEnable p => Sys2Proof.Machine.execTableAreaEnable p s
  | .fctEnEffect p => Sys2Proof.Machine.execFctEnEffect p s
  | .fenceQuery fn k => Sys2Proof.Machine.execFenceQuery fn k s
  | .fenceDefine fn k owner => Sys2Proof.Machine.execFenceDefine fn k owner s
  | .fenceUndefine fn k => Sys2Proof.Machine.execFenceUndefine fn k s
  | .baywinOpen n v => Sys2Proof.Machine.execBaywinOpen n v s
  | .baywinClose n => Sys2Proof.Machine.execBaywinClose n s
  | .dumpRelease fn => Sys2Proof.Machine.execDumpRelease fn s
  | .stocktakeRelease => Sys2Proof.Machine.execStocktakeRelease s
  | .aqEnable fn v => Sys2Proof.Machine.execAqEnable fn v s
  | .aqDisable fn => Sys2Proof.Machine.execAqDisable fn s
  | .psbEnable fn v => Sys2Proof.Machine.execPsbEnable fn v s
  | .mailboxDisableEffect p inbox m => Sys2Proof.Machine.execMailboxDisableEffect p inbox m s
  | .timeLoad v => Sys2Proof.Machine.execTimeLoad v s
  | .tsyncWrite v => Sys2Proof.Machine.execTsyncWrite v s
  | .portEnable n v => Sys2Proof.Machine.execPortEnable n v s
  | .portDisable n => Sys2Proof.Machine.execPortDisable n s
  | .accept n => Sys2Proof.Machine.execAccept n s
  | .modeWrite m => Sys2Proof.Machine.execModeWrite m s
  | .crstGo => Sys2Proof.Machine.execCrstGo s
  | .crstDump => Sys2Proof.Machine.execCrstDump s
  | .registerWrite fn off size v poison => Sys2Proof.Machine.execRegisterWrite fn off size v poison s
  | .id bad => Sys2Proof.Machine.execId bad s
  | .enroll slot scheme key sig bad => Sys2Proof.Machine.execEnroll slot scheme key sig bad s
  | .revoke slot sig bad => Sys2Proof.Machine.execRevoke slot sig bad s
  | .policy word sig bad => Sys2Proof.Machine.execPolicy word sig bad s
  | .auditRead first count addr bad => Sys2Proof.Machine.execAuditRead first count addr bad s
  | .auditAck aseq bad => Sys2Proof.Machine.execAuditAck aseq bad s
  | .auditSeal bad => Sys2Proof.Machine.execAuditSeal bad s
  | .debugNonce bad => Sys2Proof.Machine.execDebugNonce bad s
  | .consent token bad => Sys2Proof.Machine.execConsent token bad s
  | .relock bad => Sys2Proof.Machine.execRelock bad s
  | .auditCheckpoint => Sys2Proof.Machine.execAuditCheckpoint s
  | .debugUnlock scheme sig => Sys2Proof.Machine.execDebugUnlock scheme sig s
  | .debugExpiry => Sys2Proof.Machine.execDebugExpiry s
  | .fwConfirm c => Sys2Proof.Machine.execFwConfirm c s
  | .fwTrialFailure c => Sys2Proof.Machine.execFwTrialFailure c s
  | .bar4Write fn off bytes poison => Sys2Proof.Machine.execBar4Write fn off bytes poison s
  | .bar4Read fn off n => Sys2Proof.Machine.execBar4Read fn off n s
  | .pcieConfigRequest fn r => Sys2Proof.Machine.execPcieConfigRequest fn r s
  | .pcieCompletionError r => Sys2Proof.Machine.execPcieCompletionError r s
  | .slowClockTick => Sys2Proof.Machine.execSlowClockTick s
  | .ppsEdge => Sys2Proof.Machine.execPpsEdge s
  | .tsyncExchange => Sys2Proof.Machine.execTsyncExchange s
  | .tsyncRequest n => Sys2Proof.Machine.execTsyncRequest n s
  | .tsyncReply n => Sys2Proof.Machine.execTsyncReply n s
  | .daybookHeadPoll k count => Sys2Proof.Machine.execDaybookHeadPoll k count s
  | .reclaimHeadPoll p count => Sys2Proof.Machine.execReclaimHeadPoll p count s
  | .linkTrained k full => Sys2Proof.Machine.execLinkTrained k full s
  | .linkTrainTimeout k => Sys2Proof.Machine.execLinkTrainTimeout k s
  | .ident n => Sys2Proof.Machine.execIdent n s
  | .identTimeout k => Sys2Proof.Machine.execIdentTimeout k s
  | .wiringWaitExpiry n => Sys2Proof.Machine.execWiringWaitExpiry n s
  | .lossOfSignal k => Sys2Proof.Machine.execLossOfSignal k s
  | .flitReceive k flit fec => Sys2Proof.Machine.execFlitReceive k flit fec s
  | .retryRequest k ack => Sys2Proof.Machine.execRetryRequest k ack s
  | .linkAckTimeout k => Sys2Proof.Machine.execLinkAckTimeout k s
  | .data n => Sys2Proof.Machine.execData n s
  | .ack n => Sys2Proof.Machine.execAck n s
  | .refuse n => Sys2Proof.Machine.execRefuse n s
  | .credit n => Sys2Proof.Machine.execCredit n s
  | .wreq n ups => Sys2Proof.Machine.execWreq n ups s
  | .wresp n ups => Sys2Proof.Machine.execWresp n ups s
  | .collEnd n => Sys2Proof.Machine.execCollEnd n s
  | .thermalSlow n => Sys2Proof.Machine.execThermalSlow n s
  | .slowLimitExpiry job => Sys2Proof.Machine.execSlowLimitExpiry job s
  | .peerEpoch n => Sys2Proof.Machine.execPeerEpoch n s
  | .pairWrite n => Sys2Proof.Machine.execPairWrite n s
  | .pairState n => Sys2Proof.Machine.execPairState n s
  | .pairDigest n => Sys2Proof.Machine.execPairDigest n s
  | .pairFail n => Sys2Proof.Machine.execPairFail n s
  | .pairJoin mode live off => Sys2Proof.Machine.execPairJoin mode live off s
  | .heartbeat => Sys2Proof.Machine.execHeartbeat s
  | .heartbeatReceive bridge partner => Sys2Proof.Machine.execHeartbeatReceive bridge partner s
  | .heartbeatSilence => Sys2Proof.Machine.execHeartbeatSilence s
  | .powerLoss cause => Sys2Proof.Machine.execPowerLoss cause s
  | .bridgeCreditTimeout => Sys2Proof.Machine.execBridgeCreditTimeout s
  | .hangWindow => Sys2Proof.Machine.execHangWindow s
  | .stocktakeReadTimeout words => Sys2Proof.Machine.execStocktakeReadTimeout words s
  | .stocktakeLimit => Sys2Proof.Machine.execStocktakeLimit s
  | .stallDoze st => Sys2Proof.Machine.execStallDoze st s
  | .stallNap st => Sys2Proof.Machine.execStallNap st s
  | .stallDark st => Sys2Proof.Machine.execStallDark st s
  | .stallWake st => Sys2Proof.Machine.execStallWake st s
  | .powerLimitPeriod watts => Sys2Proof.Machine.execPowerLimitPeriod watts s
  | .currentAlarm => Sys2Proof.Machine.execCurrentAlarm s
  | .currentAlarmClear => Sys2Proof.Machine.execCurrentAlarmClear s
  | .dieSensorRead n temp => Sys2Proof.Machine.execDieSensorRead n temp s
  | .thermalCeilingStep n => Sys2Proof.Machine.execThermalCeilingStep n s
  | .supplyGood active other => Sys2Proof.Machine.execSupplyGood active other s
  | .undervoltage => Sys2Proof.Machine.execUndervoltage s
  | .lossOfSupply => Sys2Proof.Machine.execLossOfSupply s
  | .pwrEnAssert => Sys2Proof.Machine.execPwrEnAssert s
  | .pwrEnDeassert => Sys2Proof.Machine.execPwrEnDeassert s
  | .railInLimits r => Sys2Proof.Machine.execRailInLimits r s
  | .railOrderTimeout => Sys2Proof.Machine.execRailOrderTimeout s
  | .regulatorFault r => Sys2Proof.Machine.execRegulatorFault r s
  | .cableOvercurrent n => Sys2Proof.Machine.execCableOvercurrent n s
  | .perstAssert => Sys2Proof.Machine.execPerstAssert s
  | .hbmTrainingDone hot units sts => Sys2Proof.Machine.execHbmTrainingDone hot units sts s
  | .dieToDieLaneFailure iod syn => Sys2Proof.Machine.execDieToDieLaneFailure iod syn s
  | .callerSilence c => Sys2Proof.Machine.execCallerSilence c s
  | .uncorrectableStateError loc syn => Sys2Proof.Machine.execUncorrectableStateError loc syn s
  | .clockOrPowerFault domain => Sys2Proof.Machine.execClockOrPowerFault domain s
  | .laneErrorRatioCheck k => Sys2Proof.Machine.execLaneErrorRatioCheck k s
  | .tensorOperationComplete st cx ups => Sys2Proof.Machine.execTensorOperationComplete st cx ups s
  | .instructionCacheFill st cx line => Sys2Proof.Machine.execInstructionCacheFill st cx line s
  | .scrubZeroingDone p => Sys2Proof.Machine.execScrubZeroingDone p s
  | .pitchRestoreDone p => Sys2Proof.Machine.execPitchRestoreDone p s
  | .computeDieResetDone => Sys2Proof.Machine.execComputeDieResetDone s
  | .componentVerified c active other => Sys2Proof.Machine.execComponentVerified c active other s
  | .railDischarged r => Sys2Proof.Machine.execRailDischarged r s
  | .spdmMessage vdm sess r => Sys2Proof.Machine.execSpdmMessage vdm sess r s
  | .mctpControlMessage vdm r => Sys2Proof.Machine.execMctpControlMessage vdm r s
  | .jtagInstruction op => Sys2Proof.Machine.execJtagInstruction op s
  | .perstDeassert => Sys2Proof.Machine.execPerstDeassert s

end Sys2Proof.Machine
end

