-- ==== Sys2Proof/Safety.lean ====
section
/-! DEFINITION. What a sound state is: the sparse tables of memory, of the bays and of the set-up registers are in their canonical
forms. -/

namespace Sys2Proof.Machine

/-- Memory is in its canonical form: addresses strictly rise, and no entry equals what an unlisted byte reads as; so for the poison
flags of lines. -/
def Memory.wf (m : Mem) : Bool := Tab.wf (0 : Byte) m.bytes && Tab.wf false m.poison

/-- Memory, the bays and the register table are in their canonical forms. -/
def State.canonical (s : State) : Prop :=
  Tab.wf (0 : Byte) s.mem.bytes = true ∧ Tab.wf false s.mem.poison = true ∧ Tab.wf (0 : BitVec 39) s.bays = true ∧
  Tab.rising s.regs = true

end Sys2Proof.Machine
end

