-- ==== Sys2Proof/Certificates/Slice0/Obligations.lean ====
section
/-! DEFINITION. The statements for the provers, read from the numbered rules of the spec. Each obligation is a Prop of its own. The
predicates before them say what several share: when an instruction of a stall program executes, and what is left unchanged. -/

namespace Sys2Proof.Cert

open Sys2Proof.Machine

/-- The meaning of command `c` on `s` is a next state of which `P` holds. -/
def Gives (s : State) (c : Instr) (P : State → Prop) : Prop := ∃ t, exec c s = .next t ∧ P t

/-- When context `cx` of stall `st` executes an instruction (R121, R131, R133): an instance runs there and nothing holds it, its program
counter lies in the image, the guard is true, the encoding keeps R133, and no register it needs has an outstanding write. -/
def Executes (s : State) (st cx : Nat) (gn : Bool) (gp : Nat) (enc : Bool) (needs : List PendReg) : Prop :=
  s.atIssue st cx = true ∧ s.inImage st cx = true ∧ s.guard st cx gn gp = true ∧ enc = true ∧ (s.ctxOf st cx).waits needs = false

/-- Among the stalls, only context `cx` of stall `st` and that stall's two tallies differ between `s` and `t`: ISSUE moved by one, and VEC
by the `n` cycles of the vector unit. -/
def StallKept (s t : State) (st cx n : Nat) : Prop :=
  (∀ i, i ≠ st → t.stall i = s.stall i) ∧
  { t.stall st with ctx := (s.stall st).ctx, issue := (s.stall st).issue, vec := (s.stall st).vec } = s.stall st ∧
  (t.stall st).issue = (s.stall st).issue + 1 ∧ (t.stall st).vec = (s.stall st).vec + BitVec.ofNat 64 n ∧
  ∀ k, k ≠ cx → t.ctxOf st k = s.ctxOf st k

/-- Context `d` follows `c` with flow running on sequentially: the next program counter and the loops are those of R136, one more
instruction is counted, and the registers of `d` are those of `e`. -/
def RunsOn (e d : Ctx) : Prop :=
  { e with pc := (advLoops e.loops e.pc).2, loops := (advLoops e.loops e.pc).1, progress := e.progress + 1 } = d

/-- Context `cx` of stall `st` becomes `e` and runs on after `n` cycles of the vector unit, and no other context changes. -/
def StepsOn (s t : State) (st cx n : Nat) (e : Ctx) : Prop := StallKept s t st cx n ∧ RunsOn e (t.ctxOf st cx)

/-- An instruction whose whole effect is that its context becomes `e` and runs on. -/
def Retires (s : State) (st cx n : Nat) (c : Instr) (e : Ctx) : Prop :=
  Gives s c fun t => { t with stalls := s.stalls } = s ∧ StepsOn s t st cx n e

/-- An instruction whose whole effect is that its context becomes `e`, at the target of a jump. -/
def Jumps (s : State) (st cx : Nat) (c : Instr) (e : Ctx) (target : W64) : Prop :=
  Gives s c fun t => { t with stalls := s.stalls } = s ∧ StallKept s t st cx 0 ∧
    t.ctxOf st cx = { e with pc := target, progress := e.progress + 1 }

/-- `e` is `c` with general register `d` holding `v`: the others hold what they held, g0 stays zero, and nothing else differs. -/
def WithG (c : Ctx) (d : Nat) (v : W64) (e : Ctx) : Prop :=
  e.getG d = (if d = 0 then 0 else v) ∧ (∀ r, r ≠ d → e.getG r = c.getG r) ∧ { e with g := c.g } = c

/-- `e` is `c` with predicate `d` holding `v`: the others hold what they held, p0 stays true, and nothing else differs. -/
def WithP (c : Ctx) (d : Nat) (v : Bool) (e : Ctx) : Prop :=
  e.getP d = (if d = 0 then true else v) ∧ (∀ r, r ≠ d → e.getP r = c.getP r) ∧ { e with p := c.p } = c

/-- `e` is `c` with tensor-descriptor register `d` holding `v`, and nothing else differs. -/
def WithT (c : Ctx) (d : Nat) (v : BitVec 512) (e : Ctx) : Prop :=
  e.getT d = v ∧ (∀ r, r ≠ d → e.getT r = c.getT r) ∧ { e with t := c.t } = c

/-- `e` is `c` with vector register `d` holding `v`, and nothing else differs. -/
def WithV (c : Ctx) (d : Nat) (v : Vector W32 256) (e : Ctx) : Prop :=
  e.getV d = v ∧ (∀ r, r ≠ d → e.getV r = c.getV r) ∧ { e with v := c.v } = c

/-- `e` is `c` with address register `d` holding `v`, and nothing else differs. -/
def WithA (c : Ctx) (d : Nat) (v : W64) (e : Ctx) : Prop :=
  e.getA d = v ∧ (∀ r, r ≠ d → e.getA r = c.getA r) ∧ { e with a := c.a } = c

/-- An instruction whose whole effect is to write general register `d`. -/
def PutsG (s : State) (st cx : Nat) (c : Instr) (d : Nat) (v : W64) : Prop :=
  ∃ e, WithG (s.ctxOf st cx) d v e ∧ Retires s st cx 0 c e

/-- An instruction whose whole effect is to write predicate `d`. -/
def PutsP (s : State) (st cx : Nat) (c : Instr) (d : Nat) (v : Bool) : Prop :=
  ∃ e, WithP (s.ctxOf st cx) d v e ∧ Retires s st cx 0 c e

/-- An instruction whose whole effect is to write address register `d`. -/
def PutsA (s : State) (st cx : Nat) (c : Instr) (d : Nat) (v : W64) : Prop :=
  ∃ e, WithA (s.ctxOf st cx) d v e ∧ Retires s st cx 0 c e

/-- An instruction whose whole effect is to write tensor-descriptor register `d`. -/
def PutsT (s : State) (st cx : Nat) (c : Instr) (d : Nat) (v : BitVec 512) : Prop :=
  ∃ e, WithT (s.ctxOf st cx) d v e ∧ Retires s st cx 0 c e

/-- An instruction of `n` vector cycles whose whole effect is to write general register `d`. -/
def PutsGV (s : State) (st cx n : Nat) (c : Instr) (d : Nat) (v : W64) : Prop :=
  ∃ e, WithG (s.ctxOf st cx) d v e ∧ Retires s st cx n c e

/-- An instruction of `n` vector cycles whose whole effect is to write vector register `d`. -/
def PutsV (s : State) (st cx n : Nat) (c : Instr) (d : Nat) (v : Vector W32 256) : Prop :=
  ∃ e, WithV (s.ctxOf st cx) d v e ∧ Retires s st cx n c e

end Sys2Proof.Cert
namespace Sys2Proof.Cert
open Sys2Proof.Machine
/-- The effective address of an address register and an immediate. -/
def effective (a : W64) (x : BitVec 32) : W64 := a + x.signExtend 64
end Sys2Proof.Cert

section
open Sys2Proof Sys2Proof.Machine Sys2Proof.Cert

/-- R133 and Table 5-7: ADD, SUB, MUL, AND, OR and XOR write gD from gS1 and gS2 in 64 bits, MULH the high half of the signed product; NOP
changes no register. S3 and X are zero. Nothing else changes but the program counter. -/
def Sys2Proof.Cert.ArithmeticResults : Prop :=
  ∀ (s : State) (st : StallId) (cx : CtxId) (f : FmtA),
    let c := s.ctxOf st cx
    let a := c.getG f.s1
    let b := c.getG f.s2
    (Executes s st cx f.gn f.gp (f.s3 == 0 && xOnly f.x 0) (gs [f.d, f.s1, f.s2]) →
      PutsG s st cx (.add st cx f) f.d (a + b) ∧ PutsG s st cx (.sub st cx f) f.d (a - b) ∧
      PutsG s st cx (.mul st cx f) f.d (a * b) ∧
      PutsG s st cx (.mulh st cx f) f.d ((a.signExtend 128 * b.signExtend 128).extractLsb' 64 64) ∧
      PutsG s st cx (.and st cx f) f.d (a &&& b) ∧ PutsG s st cx (.or st cx f) f.d (a ||| b) ∧
      PutsG s st cx (.xor st cx f) f.d (a ^^^ b)) ∧
    (Executes s st cx f.gn f.gp (f.d == 0 && f.s1 == 0 && f.s2 == 0 && f.s3 == 0 && xOnly f.x 0) [] → Retires s st cx 0 (.nop st cx f) c)

/-- R133 and Table 5-7: SHL, SHR and SAR shift gS1 by the amount in gS2 bits 5 to 0, or in X where X bit 6 says so. -/
def Sys2Proof.Cert.ShiftResults : Prop :=
  ∀ (s : State) (st : StallId) (cx : CtxId) (f : FmtA),
    let a := (s.ctxOf st cx).getG f.s1
    let n := shiftAmount (s.ctxOf st cx) f
    Executes s st cx f.gn f.gp (f.s3 == 0 && xOnly f.x 0x7F) (gs [f.d, f.s1, f.s2]) →
      n < 64 ∧ PutsG s st cx (.shl st cx f) f.d (a <<< n) ∧ PutsG s st cx (.shr st cx f) f.d (a >>> n) ∧
      PutsG s st cx (.sar st cx f) f.d (a.sshiftRight n)
/-- R133 and Table 5-7: the arithmetic, logic and shift instructions write gD from gS1 and gS2 in 64 bits, and nothing else changes but the program
counter. -/
def Obligations.IntegerResults : Prop := Sys2Proof.Cert.ArithmeticResults ∧ Sys2Proof.Cert.ShiftResults

end

namespace Sys2Proof.Cert
open Sys2Proof.Machine

/-- The conditions of CMP (Table 5-7): EQ, NE, LT, GE, LTU, GEU, and PREC for 6 (R6). -/
def condition (k : Nat) (a b : W64) : Prop :=
  match k with
  | 0 => a = b
  | 1 => a ≠ b
  | 2 => a.toInt < b.toInt
  | 3 => b.toInt ≤ a.toInt
  | 4 => a.toNat < b.toNat
  | 5 => b.toNat ≤ a.toNat
  | _ => 1 ≤ (b.toNat + 2 ^ 32 - a.toNat % 2 ^ 32) % 2 ^ 32 ∧ (b.toNat + 2 ^ 32 - a.toNat % 2 ^ 32) % 2 ^ 32 ≤ 2 ^ 31 - 1

/-- The predicate operations of PLOG (Table 5-7): AND, OR, XOR, AND NOT. -/
def predicateOf (k : Nat) (a b : Bool) : Bool :=
  if k = 0 then a && b else if k = 1 then a || b else if k = 2 then a ^^ b else a && !b

end Sys2Proof.Cert

section
open Sys2Proof Sys2Proof.Machine Sys2Proof.Cert

/-- Table 5-7: ADDI, MOVI, MOVH, MOVA and MOVG move and combine immediates and registers, and FLAGS reads TILL_SAT and NONFINITE as bits 0
and 1. Each writes one register and nothing else. -/
def Sys2Proof.Cert.MoveResults : Prop :=
  ∀ (s : State) (st : StallId) (cx : CtxId) (f : FmtA) (b : FmtB),
    let c := s.ctxOf st cx
    (Executes s st cx f.gn f.gp (f.s2 == 0 && f.s3 == 0) (gs [f.d, f.s1]) →
      PutsG s st cx (.addi st cx f) f.d (c.getG f.s1 + f.x.signExtend 64)) ∧
    (Executes s st cx b.gn b.gp (b.s1 == 0) (gs [b.d]) → PutsG s st cx (.movi st cx b) b.d (b.i.signExtend 64)) ∧
    (Executes s st cx b.gn b.gp (decide (b.i.toNat < 2 ^ 22)) (gs [b.d, b.s1]) →
      PutsG s st cx (.movh st cx b) b.d (b.i.extractLsb' 0 22 ++ (c.getG b.s1).extractLsb' 0 42)) ∧
    (Executes s st cx f.gn f.gp (decide (f.d.val < 16) && f.s2 == 0 && f.s3 == 0) (gs [f.s1]) →
      PutsA s st cx (.mova st cx f) f.d (c.getG f.s1 + f.x.signExtend 64)) ∧
    (Executes s st cx f.gn f.gp (decide (f.s1.val < 16) && f.s2 == 0 && f.s3 == 0 && xOnly f.x 0) (gs [f.d]) →
      PutsG s st cx (.movg st cx f) f.d (c.getA f.s1)) ∧
    (Executes s st cx f.gn f.gp (f.s1 == 0 && f.s2 == 0 && f.s3 == 0 && xOnly f.x 0) (gs [f.d]) →
      PutsG s st cx (.flags st cx f) f.d (BitVec.ofNat 64 (c.tillSat.toNat + 2 * c.nonfinite.toNat)))

/-- Table 5-7 and R6: CMP and CMPI write pD with a condition on 64-bit words, signed, unsigned or of sequence numbers, and PLOG with an
operation on two predicates. Nothing else changes but the program counter. -/
def Sys2Proof.Cert.PredicateResults : Prop :=
  ∀ (s : State) (st : StallId) (cx : CtxId) (f : FmtA) (v : Bool),
    let c := s.ctxOf st cx
    (Executes s st cx f.gn f.gp (decide (f.d.val < 8) && f.s3 == 0) (gs [f.s1, f.s2]) → f.x.toNat < 7 →
      (v = true ↔ condition f.x.toNat (c.getG f.s1) (c.getG f.s2)) → PutsP s st cx (.cmp st cx f) f.d v) ∧
    (Executes s st cx f.gn f.gp (decide (f.d.val < 8) && f.s3 == 0) (gs [f.s1]) → f.s2.val < 7 →
      (v = true ↔ condition f.s2 (c.getG f.s1) (f.x.signExtend 64)) → PutsP s st cx (.cmpi st cx f) f.d v) ∧
    (Executes s st cx f.gn f.gp (decide (f.d.val < 8) && decide (f.s1.val < 8) && decide (f.s2.val < 8) && f.s3 == 0) [] →
      f.x.toNat < 4 → PutsP s st cx (.plog st cx f) f.d (predicateOf f.x.toNat (c.getP f.s1) (c.getP f.s2)))

/-- Table 5-8 and R136: where BR, JR, CALL and LBRK take the program counter, and what LOOP and LOOPI begin or skip. Only CALL writes a
register, g31. A branch that would leave the body of the innermost loop is not covered here. -/
def Obligations.FlowResults : Prop :=
  ∀ (s : State) (st : StallId) (cx : CtxId) (f : FmtC),
    let c := s.ctxOf st cx
    (Executes s st cx f.gn f.gp (f.s1 == 0 && f.x == 0) [] → c.leavesBody (c.pc + f.off.signExtend 64) = false →
      Jumps s st cx (.br st cx f) c (c.pc + f.off.signExtend 64)) ∧
    (Executes s st cx f.gn f.gp (f.x == 0 && f.off == 0) (gs [f.s1]) → (f.s1 = 31 ∨ c.leavesBody (c.getG f.s1) = false) →
      Jumps s st cx (.jr st cx f) c (c.getG f.s1)) ∧
    (Executes s st cx f.gn f.gp (f.s1 == 0 && f.x == 0) [.g 31] →
      ∃ e, WithG c 31 (c.pc + 1) e ∧ Jumps s st cx (.call st cx f) e (c.pc + f.off.signExtend 64)) ∧
    (Executes s st cx f.gn f.gp (f.off == 0) (gs [f.s1]) → c.mayLoop f.x.toNat = true →
      (c.getG f.s1 = 0 → Jumps s st cx (.loop st cx f) c (c.pc + 1 + f.x.zeroExtend 64)) ∧
      (c.getG f.s1 ≠ 0 → Jumps s st cx (.loop st cx f) { c with loops := ⟨c.pc + 1, f.x.toNat, c.getG f.s1⟩ :: c.loops } (c.pc + 1))) ∧
    (Executes s st cx f.gn f.gp (f.s1 == 0) [] → c.mayLoop f.x.toNat = true →
      (f.off = 0 → Jumps s st cx (.loopi st cx f) c (c.pc + 1 + f.x.zeroExtend 64)) ∧
      (f.off ≠ 0 → Jumps s st cx (.loopi st cx f) { c with loops := ⟨c.pc + 1, f.x.toNat, f.off.zeroExtend 64⟩ :: c.loops } (c.pc + 1))) ∧
    (∀ l rest, Executes s st cx f.gn f.gp (f.s1 == 0 && f.x == 0 && f.off == 0) [] → c.loops = l :: rest →
      Jumps s st cx (.lbrk st cx f) { c with loops := rest } (l.start + BitVec.ofNat 64 l.len)) ∧
    (Executes s st cx f.gn f.gp (f.s1 == 0 && f.x == 0 && f.off == 0) [] →
      Gives s (.endInst st cx f) fun t => { t with stalls := s.stalls } = s ∧ (∀ i, i ≠ st.val → t.stall i = s.stall i) ∧
        { t.stall st with ctx := (s.stall st).ctx } = s.stall st ∧ (∀ k, k ≠ cx.val → t.ctxOf st k = s.ctxOf st k) ∧
        t.ctxOf st cx = { c with wait := .ended })
/-- Table 5-7, R6: the instructions that move and combine immediates and registers write one register, and CMP, CMPI and PLOG one predicate, and
nothing else changes but the program counter. -/
def Obligations.MoveAndPredicateResults : Prop := Sys2Proof.Cert.MoveResults ∧ Sys2Proof.Cert.PredicateResults

end

namespace Sys2Proof.Cert
open Sys2Proof.Machine

/-- The bits of a tensor descriptor that TADV's field code names (Table 5-3): the lowest bit and the width of BASE, ORIGIN_K, SBASE, TAG. -/
def advanceField (k : Nat) : Nat × Nat := if k = 0 then (0, 48) else if k = 1 then (128, 32) else if k = 2 then (192, 48) else (80, 16)

end Sys2Proof.Cert

section
open Sys2Proof Sys2Proof.Machine Sys2Proof.Cert

/-- Table 5-9: TSET writes one word of a descriptor register and keeps the other seven, TGET reads one, TMOV copies a register, and TADV
adds gS2 to one field, wrapping within it, and keeps every other bit. -/
def Obligations.DescriptorRegisterResults : Prop :=
  ∀ (s : State) (st : StallId) (cx : CtxId) (f : FmtA),
    let c := s.ctxOf st cx
    let k := f.x.toNat
    (Executes s st cx f.gn f.gp (decide (f.d.val < 16) && f.s2 == 0 && f.s3 == 0) (gs [f.s1] ++ ts [f.d]) → k < 8 →
      ∃ v, PutsT s st cx (.tset st cx f) f.d v ∧ v.extractLsb' (64 * k) 64 = c.getG f.s1 ∧
        ∀ j, j < 8 → j ≠ k → v.extractLsb' (64 * j) 64 = (c.getT f.d).extractLsb' (64 * j) 64) ∧
    (Executes s st cx f.gn f.gp (decide (f.s1.val < 16) && f.s2 == 0 && f.s3 == 0) (gs [f.d] ++ ts [f.s1]) → k < 8 →
      PutsG s st cx (.tget st cx f) f.d ((c.getT f.s1).extractLsb' (64 * k) 64)) ∧
    (Executes s st cx f.gn f.gp (decide (f.d.val < 16) && decide (f.s1.val < 16) && f.s2 == 0 && f.s3 == 0 && xOnly f.x 0) (ts [f.d, f.s1]) →
      PutsT s st cx (.tmov st cx f) f.d (c.getT f.s1)) ∧
    (Executes s st cx f.gn f.gp (decide (f.d.val < 16) && decide (f.s1.val < 16) && f.s3 == 0) (gs [f.s2] ++ ts [f.d, f.s1]) → k < 4 →
      ∃ v, PutsT s st cx (.tadv st cx f) f.d v ∧
        v.extractLsb' (advanceField k).1 (advanceField k).2 =
          (c.getT f.s1).extractLsb' (advanceField k).1 (advanceField k).2 + (c.getG f.s2).setWidth (advanceField k).2 ∧
        ∀ i, (i < (advanceField k).1 ∨ (advanceField k).1 + (advanceField k).2 ≤ i) → v.getLsbD i = (c.getT f.s1).getLsbD i)
end

namespace Sys2Proof.Cert
open Sys2Proof.Machine

/-- Device address `v` of an access of `n` bytes that the program may make, and where the translation takes it: the register and the sum lie
in 48 bits, the sum is aligned to `n` (R125, R150), no area of the pitch refuses the use (R249, R348, R253), and the table maps it (R269). -/
def Reaches (s : State) (st cx : Nat) (x : Launch) (use : Use) (base v : W64) (n : Nat) (pl : Place) : Prop :=
  s.launch? (s.ctxOf st cx).launch = some x ∧ base.toNat < 2 ^ 48 ∧ v.toNat < 2 ^ 48 ∧ v.toNat % n = 0 ∧
  s.areaRefuses x.pitch use v.toNat n = false ∧
  s.translate x.pitch (some x.csr.toNat) (if use = .read then .read else .write) v.toNat = .ok pl

/-- The request that an instruction of context `cx` of stall `st` sends: numbered, for its launch, not yet served. -/
def request (s : State) (st cx : Nat) (x : Launch) (op : Nat) (kind : MemKind) (addr : W64) (pl : Place) : MemReq :=
  { id := s.serial, client := .ctx st cx (s.ctxOf st cx).launch, pitch := x.pitch, pc := (s.ctxOf st cx).pc, op := op,
    kind := kind, addr := addr, place := pl, served := none }

/-- An instruction whose whole effect is to send one request to a memory unit and to run on as `e`. No byte of memory changes before the
unit performs it. The translation of the address is kept, and the unit is awake. Where its station has no reservation left for the answer or
its lane no credits (R303, R306), the instruction waits and nothing changes. -/
def Asks (s : State) (st cx : Nat) (c : Instr) (x : Launch) (kind : MemKind) (addr : W64) (pl : Place) (e : Ctx) : Prop :=
  (s.mem.room st pl.unit kind = false → exec c s = .next s) ∧
  (s.mem.room st pl.unit kind = true → Gives s c fun t => { t with stalls := s.stalls, mem := s.mem, serial := s.serial } = s ∧ StepsOn s t st cx 0 e ∧
    t.serial = s.serial + 1 ∧ { t.mem with reqs := s.mem.reqs, tlb := s.mem.tlb, pwr := s.mem.pwr } = s.mem ∧
    ∃ op, t.mem.reqs = s.mem.reqs ++ [request s st cx x op kind addr pl])

/-- The context waiting for the data of general register `r`, unless it is g0. -/
def awaitG (c : Ctx) (r : Nat) : Ctx := if r = 0 then c else { c with pend := c.pend ++ [.g r] }

end Sys2Proof.Cert

section
open Sys2Proof Sys2Proof.Machine Sys2Proof.Cert

/-- Table 5-7, Table 5-9, R134 and R306: LD, ST, TLD and TST send one request for the aligned bytes at aS1 + X; the register of a load waits for its
data, and a store is posted with the bytes of gS2 or tS2. No register changes and no byte of memory changes yet. -/
def Sys2Proof.Cert.MemoryInstructions : Prop :=
  ∀ (s : State) (st : StallId) (cx : CtxId) (f : FmtA) (x : Launch) (pl : Place),
    let c := s.ctxOf st cx
    let v := effective (c.getA f.s1) f.x
    (Executes s st cx f.gn f.gp (decide (f.s1.val < 16) && f.s2 == 0 && f.s3 == 0) (gs [f.d]) →
      Reaches s st cx x .read (c.getA f.s1) v 8 pl → Asks s st cx (.ld st cx f) x (.load f.d) v pl (awaitG c f.d)) ∧
    (Executes s st cx f.gn f.gp (f.d == 0 && decide (f.s1.val < 16) && f.s3 == 0) (gs [f.s2]) →
      Reaches s st cx x .write (c.getA f.s1) v 8 pl →
      Asks s st cx (.st st cx f) x (.store (leBytes 8 (c.getG f.s2).toNat)) v pl c) ∧
    (Executes s st cx f.gn f.gp (decide (f.d.val < 16) && decide (f.s1.val < 16) && f.s2 == 0 && f.s3 == 0) (ts [f.d]) →
      Reaches s st cx x .read (c.getA f.s1) v 64 pl →
      Asks s st cx (.tld st cx f) x (.loadT f.d) v pl { c with pend := c.pend ++ [.t f.d] }) ∧
    (Executes s st cx f.gn f.gp (f.d == 0 && decide (f.s1.val < 16) && decide (f.s2.val < 16) && f.s3 == 0) (ts [f.s2]) →
      Reaches s st cx x .write (c.getA f.s1) v 64 pl →
      Asks s st cx (.tst st cx f) x (.store (leBytes 64 (c.getT f.s2).toNat)) v pl c)

/-- Table 5-11: AADD, AMIN, AMAX, ACAS and AWADD send one atomic request to the memory side of the address in aS1, with the operation of
Table 11-6 that X[1:0] names. gD waits for the response, and with D = 0 the atomic is posted. -/
def Sys2Proof.Cert.AtomicInstructions : Prop :=
  ∀ (s : State) (st : StallId) (cx : CtxId) (f : FmtA) (x : Launch) (pl : Place) (k : Fin 4),
    let c := s.ctxOf st cx
    let v := c.getA f.s1
    let size : Fin 4 → Nat := fun k => if k = 1 then 2 else if k = 3 then 8 else 4
    (Executes s st cx f.gn f.gp (decide (f.s1.val < 16) && f.s3 == 0 && f.x == BitVec.ofNat 32 k) (gs [f.d, f.s2]) →
      Reaches s st cx x .atomic v v (size k) pl →
      Asks s st cx (.aadd st cx f) x (.atom ([.addF32, .addBf16, .addI32, .addI64][k]) f.d (c.getG f.s2) 0) v pl (awaitG c f.d) ∧
      Asks s st cx (.amin st cx f) x (.atom ([.minF32, .minBf16, .minI32, .minI64][k]) f.d (c.getG f.s2) 0) v pl (awaitG c f.d) ∧
      Asks s st cx (.amax st cx f) x (.atom ([.maxF32, .maxBf16, .maxI32, .maxI64][k]) f.d (c.getG f.s2) 0) v pl (awaitG c f.d)) ∧
    (Executes s st cx f.gn f.gp (decide (f.s1.val < 16) && f.x == 0) (gs [f.d, f.s2, f.s3]) →
      (Reaches s st cx x .atomic v v 8 pl →
        Asks s st cx (.acas st cx f) x (.atom .cas f.d (c.getG f.s2) (c.getG f.s3)) v pl (awaitG c f.d)) ∧
      (Reaches s st cx x .atomic v v 16 pl →
        Asks s st cx (.awadd st cx f) x (.atom .addTill f.d (c.getG f.s2) (c.getG f.s3)) v pl (awaitG c f.d)))
/-- Tables 5-7, 5-9 and 5-11, R134: LD, ST, TLD, TST and the atomics send one request for their bytes and run on; the register of a load or of an
atomic with a result waits, and no byte of memory changes yet. -/
def Obligations.MemoryAndAtomicInstructions : Prop := Sys2Proof.Cert.MemoryInstructions ∧ Sys2Proof.Cert.AtomicInstructions

end

section
open Sys2Proof Sys2Proof.Machine Sys2Proof.Cert

/-- R143 to R146, Table 5-11: a token is taken at once where its rows are free and no older request of the bay outranks it; TKTRY tells by
pS3 whether it was; TKPASS and TKREL add a deferred action to the token, and TKWAIT goes on when none is pending. -/
def Obligations.TokenInstructions : Prop :=
  ∀ (s : State) (st : StallId) (cx : CtxId) (f : FmtA) (q : TokReq) (tk : Token),
    let c := s.ctxOf st cx
    let free := s.grantable q.rows = true ∧ s.outranked s.tokReqs q = false
    let taken : Token := { rows := q.rows, client := q.client, stall := q.stall, ctx := q.ctx, handle := q.handle, launch := q.launch, deferred := [] }
    let mine : Token → Bool := fun t => t.stall == st.val && t.ctx == cx.val && t.handle == f.d.val && t.launch == c.launch
    let deferred : Option Client → List Token := fun k =>
      s.tokens.map (fun t => if mine t then { t with deferred := t.deferred ++ [⟨s.serial, k⟩] } else t)
    (Executes s st cx f.gn f.gp (tokEnc f && f.s3 == 0) (gs [f.s1, f.s2]) → s.tokRequest st cx f = some q →
      (free → Gives s (.tkacq st cx f) fun t => { t with stalls := s.stalls, tokens := s.tokens } = s ∧
        t.tokens = s.tokens ++ [taken] ∧ StepsOn s t st cx 0 c) ∧
      (¬free → Gives s (.tkacq st cx f) fun t => t.tokReqs = s.tokReqs ++ [q] ∧ t.tokens = s.tokens ∧
        t.ctxOf st cx = { c with wait := .token })) ∧
    (Executes s st cx f.gn f.gp (tokEnc f && decide (f.s3.val < 8)) (gs [f.s1, f.s2]) → s.tokRequest st cx f = some q →
      (free → Gives s (.tktry st cx f) fun t => { t with stalls := s.stalls, tokens := s.tokens } = s ∧
        t.tokens = s.tokens ++ [taken] ∧ ∃ e, WithP c f.s3 true e ∧ StepsOn s t st cx 0 e) ∧
      (¬free → PutsP s st cx (.tktry st cx f) f.s3 false)) ∧
    (Executes s st cx f.gn f.gp (decide (f.d.val < 16) && f.s1 == 0 && f.s2 == 0 && f.s3 == 0 && xOnly f.x 0x1F) [] →
      ∀ (k : Client) (l : Launch), s.tokenOf st cx f.d = some tk → tk.deferred.all (fun d => d.tgt.isSome) = true →
      Client.ofCode f.x.toNat = some k → s.launch? c.launch = some l → l.owns st k = true →
      (tk.rows.stall = st.val ∨ k.isPort = true) →
      Gives s (.tkpass st cx f) fun t => { t with stalls := s.stalls, tokens := s.tokens, serial := s.serial } = s ∧
        t.serial = s.serial + 1 ∧ t.tokens = deferred (some k) ∧ StepsOn s t st cx 0 c) ∧
    (Executes s st cx f.gn f.gp (decide (f.d.val < 16) && f.s1 == 0 && f.s2 == 0 && f.s3 == 0 && xOnly f.x 0) [] →
      s.tokenOf st cx f.d = some tk → tk.deferred.all (fun d => d.tgt.isSome) = true →
      Gives s (.tkrel st cx f) fun t => { t with stalls := s.stalls, tokens := s.tokens, serial := s.serial } = s ∧
        t.serial = s.serial + 1 ∧ t.tokens = deferred none ∧ StepsOn s t st cx 0 c) ∧
    (Executes s st cx f.gn f.gp (decide (f.d.val < 16) && f.s1 == 0 && f.s2 == 0 && f.s3 == 0 && xOnly f.x 0) [] →
      s.handleBusy st cx f.d = false → Retires s st cx 0 (.tkwait st cx f) c)

/-- Table 5-11, R134, R135, R193, R391, R406: WAITU goes on when the unit's count is at most its limit and MFEN when no earlier write is
outstanding, and each waits with what it waits for where that is not so; PTIME writes gD with the figure that X selects of the context's latest
transfer on a channel; TIME writes FK time, the master count with at most 39 ns more, never below the last reading; CYC writes the count of
cycles of its instance, whose growth since its last reading is free (log entry 14); and MARK posts a Daybook record of type 0x09 with gS1 to the
pitch. -/
def Obligations.WaitAndTimeInstructions : Prop :=
  ∀ (s : State) (st : StallId) (cx : CtxId) (f : FmtA),
    let c := s.ctxOf st cx
    let i := (s.chanOf st (f.x.toNat % 8)).info[cx.val]?.getD ChanInfo.zero
    let sel := f.x.toNat / 2 ^ 12 % 8
    (Executes s st cx f.gn f.gp (f.d == 0 && f.s1 == 0 && f.s2 == 0 && f.s3 == 0 && xOnly f.x 0xFF1F) [] →
      ∀ n, s.unitCount st cx (f.x.toNat % 32) = some n →
      (n ≤ f.x.toNat / 2 ^ 8 % 2 ^ 8 → Retires s st cx 0 (.waitu st cx f) c) ∧
      (¬n ≤ f.x.toNat / 2 ^ 8 % 2 ^ 8 → Gives s (.waitu st cx f) fun t => { t with stalls := s.stalls } = s ∧
        (∀ k, k ≠ st.val → t.stall k = s.stall k) ∧ t.ctxOf st cx = { c with wait := .unit (f.x.toNat % 32) (f.x.toNat / 2 ^ 8 % 2 ^ 8) })) ∧
    (Executes s st cx f.gn f.gp (f.d == 0 && f.s1 == 0 && f.s2 == 0 && f.s3 == 0 && xOnly f.x 0) [] →
      (s.writesBefore st cx s.serial = false → Retires s st cx 0 (.mfen st cx f) c) ∧
      (s.writesBefore st cx s.serial = true → Gives s (.mfen st cx f) fun t =>
        { t with stalls := s.stalls, serial := s.serial } = s ∧ (∀ k, k ≠ st.val → t.stall k = s.stall k) ∧ t.ctxOf st cx = { c with wait := .fence s.serial })) ∧
    (Executes s st cx f.gn f.gp (f.s1 == 0 && f.s2 == 0 && f.s3 == 0 && xOnly f.x 0x7007 && decide (sel < 4)) (gs [f.d]) →
      PutsG s st cx (.ptime st cx f) f.d
        (if sel = 0 then i.time else if sel = 1 then i.bytes else if sel = 2 then i.zeros else i.count)) ∧
    (Executes s st cx f.gn f.gp (f.s1 == 0 && f.s2 == 0 && f.s3 == 0 && xOnly f.x 0) (gs [f.d]) →
      (Gives s (.time st cx f) fun t => { t with stalls := s.stalls, clk := s.clk, free := s.free } = s ∧
        { t.clk with floor := s.clk.floor } = s.clk ∧ (t.clk.floor - s.clk.floor).toNat < 2 ^ 63 ∧
        (t.clk.floor = s.clk.floor ∨ ∃ n, n < 40 ∧ t.clk.floor = s.clk.time + BitVec.ofNat 64 n) ∧
        ∃ e, WithG c f.d t.clk.floor e ∧ StepsOn s t st cx 0 e) ∧
      (Gives s (.cyc st cx f) fun t => { t with stalls := s.stalls, free := s.free } = s ∧
        ∃ e, let n := c.cyc + BitVec.ofNat 64 (Config.cycles s.free)
          WithG { c with cyc := n } f.d n e ∧ StepsOn s t st cx 0 e)) ∧
    (Executes s st cx f.gn f.gp (f.d == 0 && f.s2 == 0 && f.s3 == 0 && xOnly f.x 0) (gs [f.s1]) →
      ∀ l, s.launch? c.launch = some l → Gives s (.mark st cx f) fun t =>
        { t with stalls := s.stalls } = s.postDbk [l.pitch] .mark (srcCtx st cx) 0x09
          (leBytes 8 (c.getG f.s1).toNat ++ leBytes 2 l.sq ++ leBytes 2 0 ++ leBytes 4 l.hseq.toNat) ∧ StepsOn s t st cx 0 c)
end

namespace Sys2Proof.Cert
open Sys2Proof.Machine

/-- A bay address that an instruction may use (R126): it fits 22 bits and its row is at most 3,071. -/
def BayAddress (v : W64) : Prop := v.toNat < 2 ^ 22 ∧ v.toNat / 256 % 4096 ≤ 3071

/-- The stored word at a bay address of a stall, with its check bits. -/
def stored (s : State) (st a : Nat) : BitVec 39 := s.bayWord (st * 2 ^ 22 + a)

/-- An instruction whose whole effect is to write the words `ws` of its own stall's bays, and to run on after `n` vector cycles. A word
written is stored with its check bits; every other word keeps its bits, and no other state differs but the records of bad words. -/
def StoresBay (s : State) (st cx n : Nat) (c : Instr) (ws : List (Nat × W32)) : Prop :=
  Gives s c fun t => { t with stalls := s.stalls, bays := s.bays, rewrites := s.rewrites, health := s.health } = s ∧
    StepsOn s t st cx n (s.ctxOf st cx) ∧ (∀ w ∈ ws, stored t st w.1 = bayEncode w.2) ∧
    (∀ k, (∀ w ∈ ws, k ≠ st * 2 ^ 22 + w.1) → t.bayWord k = s.bayWord k) ∧
    { t.health with bayBad := s.health.bayBad, bayMended := s.health.bayMended } = s.health

end Sys2Proof.Cert

section
open Sys2Proof Sys2Proof.Machine Sys2Proof.Cert

/-- Tables 5-7 and 5-10, R126, R145, R164, R165: under a token of their client, LDB reads one bay word into gD, and a single-bit error is
corrected and queued for rewriting; VLD and VLDC read a row or a column of 256 words into vD; STB, VST and VSTC write a word, a row or a
column with its check bits. -/
def Obligations.BayInstructions : Prop :=
  ∀ (s : State) (st : StallId) (cx : CtxId) (f : FmtA) (ups : List (Nat × BitVec 39)) (w : W32) (ws : Vector W32 256),
    let c := s.ctxOf st cx
    let v := effective (c.getA f.s1) f.x
    let a := v.toNat
    s.canonical → (c.getA f.s1).toNat < 2 ^ 22 → BayAddress v →
    (Executes s st cx f.gn f.gp (decide (f.s1.val < 16) && f.s2 == 0 && f.s3 == 0) (gs [f.d]) →
      s.cover st cx .seq [rowSpan st a 1] = .held →
      (bayDecode (stored s st a) = .good w → PutsG s st cx (.ldb st cx f []) f.d (w.zeroExtend 64)) ∧
      (bayDecode (stored (s.upsetOnly st ups [a]) st a) = .corrected w → Gives s (.ldb st cx f ups) fun t =>
        (∃ e, WithG c f.d (w.zeroExtend 64) e ∧ RunsOn e (t.ctxOf st cx)) ∧
        t.rewrites = s.rewrites ++ [(st.val * 2 ^ 22 + a, bayEncode w)])) ∧
    (Executes s st cx f.gn f.gp (f.d == 0 && decide (f.s1.val < 16) && f.s3 == 0) (gs [f.s2]) →
      s.cover st cx .seq [rowSpan st a 1] = .held → StoresBay s st cx 0 (.stb st cx f) [(a, (c.getG f.s2).setWidth 32)]) ∧
    (Executes s st cx f.gn f.gp (decide (f.d.val < 16) && decide (f.s1.val < 16) && f.s2 == 0 && f.s3 == 0) [] → (∀ i : Fin 256,
        bayDecode (stored s st (a + i)) = .good ws[i]) → a % 256 = 0 → s.cover st cx .vec [rowSpan st a 256] = .held →
      PutsV s st cx 1 (.vld st cx f []) f.d ws) ∧
    (Executes s st cx f.gn f.gp (decide (f.d.val < 16) && decide (f.s1.val < 16) && f.s2 == 0 && f.s3 == 0) [] → (∀ i : Fin 256,
        bayDecode (stored s st (a + 256 * i)) = .good ws[i]) → a / 256 % 4096 + 255 ≤ 3071 → s.cover st cx .vec [columnRows st a] = .held →
      PutsV s st cx 1 (.vldc st cx f []) f.d ws) ∧
    (Executes s st cx f.gn f.gp (f.d == 0 && decide (f.s1.val < 16) && decide (f.s2.val < 16) && f.s3 == 0) [] →
      (a % 256 = 0 → s.cover st cx .vec [rowSpan st a 256] = .held →
        StoresBay s st cx 1 (.vst st cx f) ((List.finRange 256).map fun (i : Fin 256) => (a + i, (c.getV f.s2)[i]))) ∧
      (a / 256 % 4096 + 255 ≤ 3071 → s.cover st cx .vec [columnRows st a] = .held →
        StoresBay s st cx 1 (.vstc st cx f) ((List.finRange 256).map fun (i : Fin 256) => (a + 256 * i, (c.getV f.s2)[i]))))
end

namespace Sys2Proof.Cert
open Sys2Proof.Machine

/-- A lane operation by its type code (Table 5-10, R137): 0 FP32, 1 two BF16 halves, each on its own, else INT32. -/
def byType (ty : Nat) (fp : Elem → Nat → Nat → Nat) (int : W32 → W32 → W32) (a b : W32) : W32 :=
  if ty = 0 then BitVec.ofNat 32 (fp .fp32 a.toNat b.toNat)
  else if ty = 1 then
    BitVec.ofNat 16 (fp .bf16 (a.extractLsb' 16 16).toNat (b.extractLsb' 16 16).toNat) ++
    BitVec.ofNat 16 (fp .bf16 (a.extractLsb' 0 16).toNat (b.extractLsb' 0 16).toNat)
  else int a b

/-- One lane of VFMA by its type code: 0 FP32, else two BF16 halves. -/
def fused (ty : Nat) (a b m : W32) : W32 :=
  if ty = 0 then BitVec.ofNat 32 (Elem.fp32.fmaC a.toNat b.toNat m.toNat)
  else
    BitVec.ofNat 16 (Elem.bf16.fmaC (a.extractLsb' 16 16).toNat (b.extractLsb' 16 16).toNat (m.extractLsb' 16 16).toNat) ++
    BitVec.ofNat 16 (Elem.bf16.fmaC (a.extractLsb' 0 16).toNat (b.extractLsb' 0 16).toNat (m.extractLsb' 0 16).toNat)

/-- The floating conditions of VCMP: EQ, NE, LT, LE. -/
def floatHolds (k : Nat) (x y : FNum) : Bool :=
  if k = 0 then x.eqv y else if k = 1 then !x.eqv y else if k = 2 then x.lt y else x.lt y || x.eqv y

/-- The signed conditions of VCMP. -/
def intHolds (k : Nat) (a b : W32) : Bool :=
  if k = 0 then a == b else if k = 1 then a != b else if k = 2 then decide (a.toInt < b.toInt) else decide (a.toInt ≤ b.toInt)

/-- One lane of VCMP by its condition and type codes: all ones where the condition holds, each half on its own for packed BF16. -/
def compared (k ty : Nat) (a b : W32) : W32 :=
  let half : BitVec 16 → BitVec 16 → BitVec 16 := fun x y =>
    if floatHolds k (Elem.bf16.decode x.toNat) (Elem.bf16.decode y.toNat) then BitVec.allOnes 16 else 0
  if ty = 0 then (if floatHolds k (Elem.fp32.decode a.toNat) (Elem.fp32.decode b.toNat) then BitVec.allOnes 32 else 0)
  else if ty = 1 then half (a.extractLsb' 16 16) (b.extractLsb' 16 16) ++ half (a.extractLsb' 0 16) (b.extractLsb' 0 16)
  else (if intHolds k a b then BitVec.allOnes 32 else 0)

/-- Neighbouring values of a list combined, lane 2i with lane 2i + 1. -/
def neighbours {α : Type} (g : α → α → α) (l : List α) : List α :=
  (List.range (l.length / 2)).filterMap fun i => do return g (← l[2 * i]?) (← l[2 * i + 1]?)

/-- The binary tree of VRED over 256 lanes: eight rounds of neighbours (R138). -/
def tree {α : Type} (g : α → α → α) (l : List α) : Option α :=
  (neighbours g (neighbours g (neighbours g (neighbours g (neighbours g (neighbours g (neighbours g (neighbours g l))))))))[0]?

/-- A vector instruction whose lanes may raise NONFINITE: vD is written, and the flag of the instance and of its launch is raised where any
lane says so; nothing else changes. -/
def PutsFlagged (s : State) (st cx n : Nat) (c : Instr) (d : Nat) (v : Vector W32 256) (nonfinite : Bool) : Prop :=
  Gives s c fun t => { t with stalls := s.stalls, fe := s.fe } = s ∧ { t.fe with launches := s.fe.launches } = s.fe ∧
    (t.launch? (s.ctxOf st cx).launch).map (fun l => l.nonfinite) =
      (s.launch? (s.ctxOf st cx).launch).map (fun l => l.nonfinite || nonfinite) ∧
    ∃ e, WithV { s.ctxOf st cx with nonfinite := (s.ctxOf st cx).nonfinite || nonfinite } d v e ∧ StepsOn s t st cx n e

/-- VSH by its code: left, logical right, arithmetic right. -/
def shifted (k : Nat) (a b : W32) : W32 :=
  if k = 0 then a <<< (b.toNat % 32) else if k = 1 then a >>> (b.toNat % 32) else a.sshiftRight (b.toNat % 32)

end Sys2Proof.Cert

section
open Sys2Proof Sys2Proof.Machine Sys2Proof.Cert

/-- Table 5-10 and R137: the lane instructions that write one vector register from one, two or three, and VLANE. Type 3 of the two-operand
ones, types 2 and 3 of VFMA and code 3 of VSH are reserved. VEC counts one cycle, and four for VSFU. -/
def Obligations.LaneInstructions : Prop :=
  ∀ (s : State) (st : StallId) (cx : CtxId) (f : FmtA),
    let c := s.ctxOf st cx
    let a := c.getV f.s1
    let b := c.getV f.s2
    let m := c.getV f.s3
    let k := f.x.toNat
    let one := decide (f.d.val < 16) && decide (f.s1.val < 16)
    let two := one && decide (f.s2.val < 16)
    (Executes s st cx f.gn f.gp (decide (f.d.val < 16) && f.s2 == 0 && f.s3 == 0 && xOnly f.x 0) (gs [f.s1]) →
      PutsV s st cx 1 (.vbc st cx f) f.d (Vector.replicate 256 ((c.getG f.s1).setWidth 32))) ∧
    (∀ i : Fin 256, k = i → Executes s st cx f.gn f.gp (decide (f.s1.val < 16) && f.s2 == 0 && f.s3 == 0) (gs [f.d]) →
      PutsGV s st cx 1 (.vlane st cx f) f.d (a[i].setWidth 64)) ∧
    (k < 3 → Executes s st cx f.gn f.gp (two && f.s3 == 0) [] →
      PutsV s st cx 1 (.vadd st cx f) f.d (a.zipWith (byType k Elem.addC (· + ·)) b) ∧
      PutsV s st cx 1 (.vsub st cx f) f.d (a.zipWith (byType k Elem.subC (· - ·)) b) ∧
      PutsV s st cx 1 (.vmul st cx f) f.d (a.zipWith (byType k Elem.mulC (· * ·)) b) ∧
      PutsV s st cx 1 (.vmax st cx f) f.d (a.zipWith (byType k Elem.maxC (fun a b => if a.toInt < b.toInt then b else a)) b) ∧
      PutsV s st cx 1 (.vmin st cx f) f.d (a.zipWith (byType k Elem.minC (fun a b => if b.toInt < a.toInt then b else a)) b) ∧
      PutsV s st cx 1 (.vsh st cx f) f.d (a.zipWith (shifted k) b)) ∧
    (k < 2 → Executes s st cx f.gn f.gp (two && decide (f.s3.val < 16)) [] →
      PutsV s st cx 1 (.vfma st cx f) f.d (Vector.ofFn fun i => fused k a[i] b[i] m[i])) ∧
    (k < 4 → Executes s st cx f.gn f.gp (two && f.s3 == 0) [] →
      PutsV s st cx 1 (.vlog st cx f) f.d (a.zipWith (fun x y => if k = 0 then x &&& y else if k = 1 then x ||| y
        else if k = 2 then x ^^^ y else x &&& ~~~y) b)) ∧
    (Executes s st cx f.gn f.gp (two && decide (f.s3.val < 16) && xOnly f.x 0) [] →
      PutsV s st cx 1 (.vsel st cx f) f.d (Vector.ofFn fun i => (m[i] &&& a[i]) ||| (~~~m[i] &&& b[i])))

/-- Table 5-10, R137, R138, R141, R52: VCMP writes masks, VSFU applies a special function in four cycles, VCVT converts lanes and VRMAX and
VEXPD keep row statistics, and a lane that is not finite raises NONFINITE; VRED combines the 256 lanes in a fixed binary tree. -/
def Obligations.ComparisonAndReduction : Prop :=
  ∀ (s : State) (st : StallId) (cx : CtxId) (f : FmtA),
    let c := s.ctxOf st cx
    let a := c.getV f.s1
    let b := c.getV f.s2
    let k := f.x.toNat
    let one := decide (f.d.val < 16) && decide (f.s1.val < 16)
    let two := one && decide (f.s2.val < 16)
    (k < 32 → k % 8 < 4 → k / 8 < 3 → Executes s st cx f.gn f.gp (two && f.s3 == 0) [] →
      PutsV s st cx 1 (.vcmp st cx f) f.d (a.zipWith (compared (k % 8) (k / 8)) b)) ∧
    (k < 6 → Executes s st cx f.gn f.gp (one && f.s2 == 0 && f.s3 == 0) [] → PutsV s st cx 4 (.vsfu st cx f) f.d (a.map (sfuLane k))) ∧
    (∀ md l, k < 128 → k % 4 < 3 → k / 4 % 4 < 3 → RMode.ofCode (k / 16 % 4) = some md → s.launch? c.launch = some l →
      Executes s st cx f.gn f.gp (one && f.s2 == 0 && f.s3 == 0) [] →
      let r := fun i : Fin 256 => cvtLane (k % 4) (k / 4 % 4) md (decide (64 ≤ k)) l.seed i (a[i])
      PutsFlagged s st cx 1 (.vcvt st cx f) f.d (Vector.ofFn fun i => (r i).1) ((List.finRange 256).any fun i => (r i).2)) ∧
    (Executes s st cx f.gn f.gp (two && f.s3 == 0 && xOnly f.x 0) [] →
      PutsFlagged s st cx 1 (.vrmax st cx f) f.d (Vector.ofFn fun i => (rmaxLane a[i] b[i]).1)
        ((List.finRange 256).any fun i => (rmaxLane a[i] b[i]).2) ∧
      PutsFlagged s st cx 4 (.vexpd st cx f) f.d (Vector.ofFn fun i => (expdLane a[i] b[i]).1)
        ((List.finRange 256).any fun i => (expdLane a[i] b[i]).2)) ∧
    (∀ v, Executes s st cx f.gn f.gp (decide (f.s1.val < 16) && f.s2 == 0 && f.s3 == 0) (gs [f.d]) →
      (k = 0 ∧ (tree Elem.fp32.addC (a.toList.map (·.toNat))).map (BitVec.ofNat 64) = some v ∨
       k = 1 ∧ (tree Elem.fp32.maxC (a.toList.map (·.toNat))).map (BitVec.ofNat 64) = some v ∨
       k = 2 ∧ v = BitVec.ofInt 64 (a.toList.map (·.toInt)).sum ∨
       k = 3 ∧ (∃ i : Fin 256, v = a[i].signExtend 64) ∧ ∀ i : Fin 256, a[i].toInt ≤ v.toInt) →
      PutsGV s st cx 1 (.vred st cx f) f.d v)
end

namespace Sys2Proof.Cert
open Sys2Proof.Machine

/-- An instruction whose whole effect is to put one operation into its context's tensor queue (R134), numbered among the operations issued, and
to run on; register `r`, where it is not g0, waits for its result. -/
def QueuesOp (s : State) (st cx : Nat) (c : Instr) (kind : VecKind) (d s1 s2 : BitVec 512) (r : Nat) (rows : List Rows) : Prop :=
  let x := s.ctxOf st cx
  let op : VecOp := { serial := s.serial, pc := x.pc, kind := kind, d := d, s1 := s1, s2 := s2, reg := r, rows := rows }
  Gives s c fun t => { t with stalls := s.stalls, serial := s.serial } = s ∧ t.serial = s.serial + 1 ∧
    StepsOn s t st cx 0 { x with vecq := x.vecq ++ [op], pend := if r = 0 then x.pend else x.pend ++ [.g r] }

/-- Whether the tensor queue of a context takes another operation whose rows its tokens cover or are about to cover (R134, R145). -/
def TakesOp (s : State) (st cx : Nat) (rows : List Rows) : Prop :=
  (s.ctxOf st cx).vecq.length < 4 ∧ s.cover st cx .vec rows ≠ .missing

end Sys2Proof.Cert

section
open Sys2Proof Sys2Proof.Machine Sys2Proof.Cert

/-- Table 5-10 and R134: VSCA, VSCF, VWADD, VWCVT, VWANC and VCVTT on bay tensors of the formats that Table 5-10 gives them each queue one
operation for the vector unit with their descriptors as they stand, and run on. -/
def Obligations.TensorInstructions : Prop :=
  ∀ (s : State) (st : StallId) (cx : CtxId) (f : FmtA) (d a b : TDesc) (md : RMode),
    let c := s.ctxOf st cx
    let k := f.x.toNat
    let inD := decide (f.d.val < 16)
    let in1 := decide (f.s1.val < 16)
    let plainF : TDesc → Prop := fun t => t.fmt = ⟨.plain, .bf16⟩ ∨ t.fmt = ⟨.plain, .fp32⟩
    let dst := s.tensor st cx (c.getT f.d) = some d ∧ d.loc = 1 ∧ d.fits = true
    let src := s.tensor st cx (c.getT f.s1) = some a ∧ a.loc = 1 ∧ a.fits = true
    (k < 8 → src → plainF a → TakesOp s st cx (a.rows st) → (4 ≤ k → s.holdsSplit st cx (k % 4) = true) →
      Executes s st cx f.gn f.gp (in1 && f.s2 == 0 && f.s3 == 0) (gs [f.d] ++ ts [f.s1]) →
      QueuesOp s st cx (.vsca st cx f) (.vsca (if 4 ≤ k then some (k % 4) else none)) 0 (c.getT f.s1) 0 f.d (a.rows st)) ∧
    (dst → src → d.fmt.fam = .fb → plainF a → d.count = a.count → d.extent 0 = a.extent a.raxis → RMode.ofCode k = some md →
      TakesOp s st cx (d.rows st ++ a.rows st) → k < 4 →
      Executes s st cx f.gn f.gp (inD && in1 && f.s3 == 0) (gs [f.s2] ++ ts [f.d, f.s1]) →
      QueuesOp s st cx (.vscf st cx f) (.vscf md f.s2) (c.getT f.d) (c.getT f.s1) 0 f.s2 (d.rows st ++ a.rows st)) ∧
    (dst → src → s.tensor st cx (c.getT f.s2) = some b → b.loc = 1 → b.fits = true → d.fmt.fam = .wide → a.fmt.fam = .wide → b.fmt.fam = .wide →
      a.count = d.count → b.count = d.count → TakesOp s st cx (d.rows st ++ a.rows st ++ b.rows st) →
      Executes s st cx f.gn f.gp (inD && in1 && decide (f.s2.val < 16) && f.s3 == 0 && xOnly f.x 0) (ts [f.d, f.s1, f.s2]) →
      QueuesOp s st cx (.vwadd st cx f) .vwadd (c.getT f.d) (c.getT f.s1) (c.getT f.s2) 0 (d.rows st ++ a.rows st ++ b.rows st)) ∧
    (dst → src → a.fmt.fam = .wide → a.count = d.count → k < 8 →
      (d.fmt.fam = .wide ∧ md = .rne ∧ (c.getG f.s2).setWidth 16 = 0x3F80#16 ∨
       d.fmt.fam = .plain ∧ d.fmt.el ≠ .fp32 ∧ RMode.ofCode (k % 4) = some md) →
      TakesOp s st cx (d.rows st ++ a.rows st) → Executes s st cx f.gn f.gp (inD && in1 && f.s3 == 0) (gs [f.s2] ++ ts [f.d, f.s1]) →
      QueuesOp s st cx (.vwcvt st cx f) (.vwcvt ((c.getG f.s2).setWidth 16) md (decide (4 ≤ k))) (c.getT f.d) (c.getT f.s1) 0 0
        (d.rows st ++ a.rows st)) ∧
    (dst → d.fmt.fam = .wide → d.rowCount ≤ 256 → TakesOp s st cx (d.rows st) →
      Executes s st cx f.gn f.gp (inD && in1 && f.s2 == 0 && f.s3 == 0 && xOnly f.x 0) (ts [f.d]) →
      QueuesOp s st cx (.vwanc st cx f) (.vwanc (c.getV f.s1).toList) (c.getT f.d) 0 0 0 (d.rows st)) ∧
    (dst → src → a.fmt.fam = .plain → d.fmt.fam = .plain → a.count = d.count → k < 8 → RMode.ofCode (k % 4) = some md →
      TakesOp s st cx (d.rows st ++ a.rows st) → Executes s st cx f.gn f.gp (inD && in1 && f.s2 == 0 && f.s3 == 0) (ts [f.d, f.s1]) →
      QueuesOp s st cx (.vcvtt st cx f) (.vcvtt md (decide (4 ≤ k))) (c.getT f.d) (c.getT f.s1) 0 0 (d.rows st ++ a.rows st))
end

namespace Sys2Proof.Cert
open Sys2Proof.Machine

/-- A transfer as an instruction of context `cx` posts it: numbered, for its launch, nothing moved yet. -/
def transfer (s : State) (st cx : Nat) (kind : XKind) (d s1 s2 : BitVec 512) (g : W64) (opts : BitVec 32) (rows : List Rows) : Xfer :=
  { serial := s.serial, ctx := cx, launch := (s.ctxOf st cx).launch, pc := (s.ctxOf st cx).pc, kind := kind, d := d, s1 := s1, s2 := s2,
    gval := g, opts := opts, rows := rows, srcHost := none, dstHost := none, walk := none, pairs := [], data := none, begun := false,
    written := false, wrote := 0, zeros := 0, enc := none, msg := 0, coll := none, step := 0, fwd := none }

/-- An instruction whose effect is to put transfer `x` last into the queue of channel `ch` (R174) and to run on, in `u`; the channel then begins
what is next there (R189), as its shared operation says. Nothing else differs in `u`. -/
def Posts (s : State) (st cx ch : Nat) (c : Instr) (x : Xfer) : Prop :=
  Gives s c fun t => ∃ u, t = State.pumpChan 4 st ch u ∧ { u with stalls := s.stalls, serial := s.serial } = s ∧ u.serial = s.serial + 1 ∧
    (∀ i, i ≠ st → u.stall i = s.stall i) ∧
    { u.stall st with ctx := (s.stall st).ctx, chans := (s.stall st).chans, issue := (s.stall st).issue } = s.stall st ∧
    (u.stall st).issue = (s.stall st).issue + 1 ∧ RunsOn (s.ctxOf st cx) (u.ctxOf st cx) ∧ (∀ k, k ≠ cx → u.ctxOf st k = s.ctxOf st k) ∧
    u.chanOf st ch = { s.chanOf st ch with xfers := (s.chanOf st ch).xfers ++ [x] } ∧ ∀ k, k ≠ ch → u.chanOf st k = s.chanOf st k

end Sys2Proof.Cert

section
open Sys2Proof Sys2Proof.Machine Sys2Proof.Cert

/-- Table 5-11, R174, R178 to R184, R220, R418: each Porter instruction whose operands keep its rules joins the queue of its channel, which takes
four transfers; one that finds its channel full waits, whatever its operands (R121). PCOPY keeps the addresses of the host windows as they
stand (R335), and does not decode a region into itself (R249). -/
def Obligations.PorterInstructions : Prop :=
  ∀ (s : State) (st : StallId) (cx : CtxId) (f : FmtA) (a i d : TDesc) (l : Launch) (wa wd : Option W64),
    let c := s.ctxOf st cx
    let k := f.x.toNat
    let ch := k % 8
    let hs := f.x.getLsbD 7
    let hd := f.x.getLsbD 8
    let inD := decide (f.d.val < 16)
    let in1 := decide (f.s1.val < 16)
    let td := c.getT f.d
    let ta := c.getT f.s1
    s.launch? c.launch = some l →
    (4 ≤ (s.chanOf st ch).xfers.length →
      (Executes s st cx f.gn f.gp (inD && in1 && f.s2 == 0 && f.s3 == 0 && portOpts f.x 0x1C0) (ts [f.d, f.s1]) →
        exec (.pcopy st cx f) s = .next s) ∧
      (Executes s st cx f.gn f.gp (inD && in1 && decide (f.s2.val < 16) && f.s3 == 0 && portOpts f.x 0) (ts [f.d, f.s1, f.s2]) →
        exec (.pgath st cx f) s = .next s) ∧
      (Executes s st cx f.gn f.gp (inD && in1 && f.s3 == 0 && portOpts f.x 0x18000) (gs [f.s2] ++ ts [f.d]) →
        exec (.pwalk st cx f) s = .next s) ∧
      (Executes s st cx f.gn f.gp (inD && in1 && f.s2 == 0 && f.s3 == 0 && portOpts f.x 0x600) (ts [f.d, f.s1]) →
        exec (.pconv st cx f) s = .next s) ∧
      (Executes s st cx f.gn f.gp (inD && in1 && f.s2 == 0 && f.s3 == 0 && portOpts f.x 0) (ts [f.d, f.s1]) →
        exec (.atens st cx f) s = .next s) ∧
      (Executes s st cx f.gn f.gp (f.d == 0 && in1 && f.s3 == 0 && portOpts f.x 0x18000) (gs [f.s2] ++ ts [f.s1]) →
        exec (.psend st cx f) s = .next s) ∧
      (Executes s st cx f.gn f.gp (inD && f.s1 == 0 && f.s3 == 0 && portOpts f.x 0x18000) (gs [f.s2] ++ ts [f.d]) →
        exec (.ppost st cx f) s = .next s)) ∧
    ((s.chanOf st ch).xfers.length < 4 →
    (s.tensor st cx ta = some a → s.tensor st cx td = some d → a.fmt = d.fmt → sidesOk a d st hs hd = true →
      (f.x.getLsbD 6 = true → transposeOk a d hs hd = true) →
      (if hs then ∃ w, s.hostSide l.pitch a 0 = .ok w ∧ wa = some w
       else wa = none ∧ (a.loc = 0 → s.pkSrc l.pitch a ≠ .refused ∧ (f.x.getLsbD 6 = true → s.pkSrc l.pitch a = .none))) →
      (if hd then ∃ w, s.hostSide l.pitch d 1 = .ok w ∧ wd = some w
       else wd = none ∧ (d.loc = 0 → s.pkDst l.pitch d ≠ .refused ∧ s.pkDst l.pitch d ≠ .badProgram ∧
        (f.x.getLsbD 6 = true → s.pkDst l.pitch d = .none) ∧
        (hs = false → a.loc = 0 → s.intoOwn l.pitch (s.pkSrc l.pitch a) d = false))) →
      Executes s st cx f.gn f.gp (inD && in1 && f.s2 == 0 && f.s3 == 0 && portOpts f.x 0x1C0) (ts [f.d, f.s1]) →
      Posts s st cx ch (.pcopy st cx f)
        { transfer s st cx .copy td ta 0 0 f.x (a.bayRows st hs ++ d.bayRows st hd) with srcHost := wa, dstHost := wd }) ∧
    (s.tensor st cx ta = some a → s.tensor st cx (c.getT f.s2) = some i → s.tensor st cx td = some d →
      a.fmt = d.fmt → a.fmt.fam = .plain → a.rowBits % 8 = 0 → a.loc ≠ 2 → d.loc ≠ 2 →
      i.loc = 1 → i.ndim = 1 → i.fmt = ⟨.plain, .fp32⟩ → i.fits = true → d.extent 0 = a.extent 0 → d.rowCount = i.extent 0 →
      d.dataBytes true ≤ 2 ^ 32 → a.dataBytes true ≤ 2 ^ 32 → (a.loc = 0 ∨ a.fits = true) → (d.loc = 0 ∨ d.fits = true) →
      boundsMeet (a.bounds st false) (d.bounds st false) = false → s.meetsPacked st cx [a, d] = false →
      Executes s st cx f.gn f.gp (inD && in1 && decide (f.s2.val < 16) && f.s3 == 0 && portOpts f.x 0) (ts [f.d, f.s1, f.s2]) →
      Posts s st cx ch (.pgath st cx f) (transfer s st cx .gather td ta (c.getT f.s2) 0 f.x
        (a.bayRows st false ++ i.bayRows st false ++ d.bayRows st false))) ∧
    (s.tensor st cx td = some d → d.loc = 1 → d.ndim = 2 → d.raxis = 0 → d.fits = true → (c.getA f.s1).toNat < 2 ^ 48 →
      (c.getA f.s1).toNat % 64 = 0 → k / 2 ^ 15 % 4 < 2 → (c.getG f.s2).toNat / 2 ^ 22 % 2 ^ 10 = 0 → (c.getG f.s2).toNat < 2 ^ 48 →
      Executes s st cx f.gn f.gp (inD && in1 && f.s3 == 0 && portOpts f.x 0x18000) (gs [f.s2] ++ ts [f.d]) →
      Posts s st cx ch (.pwalk st cx f) { transfer s st cx .walk td 0 0 (c.getG f.s2) f.x (d.bayRows st false) with
        walk := some ⟨c.getA f.s1, [], [], [], 0, [], false⟩ }) ∧
    (s.tensor st cx ta = some a → s.tensor st cx td = some d → a.loc ≠ 2 → d.loc ≠ 2 → sidesOk a d st false false = true →
      (convPair a.fmt d.fmt = true ∧ k / 2 ^ 9 % 4 = 0 ∨ convPair d.fmt a.fmt = true ∧ k / 2 ^ 9 % 4 ≠ 3) →
      s.meetsPacked st cx [a, d] = false → Executes s st cx f.gn f.gp (inD && in1 && f.s2 == 0 && f.s3 == 0 && portOpts f.x 0x600) (ts [f.d, f.s1]) →
      Posts s st cx ch (.pconv st cx f) (transfer s st cx .conv td ta 0 0 f.x (a.bayRows st false ++ d.bayRows st false))) ∧
    ((s.tensor st cx ta).map TDesc.elemsOnly = some a → (s.tensor st cx td).map TDesc.elemsOnly = some d → a.fmt = d.fmt →
      (a.fmt = ⟨.plain, .fp32⟩ ∨ a.fmt = ⟨.plain, .bf16⟩ ∨ a.fmt.fam = .wide) → a.loc = 1 → d.loc = 0 → a.ext = d.ext →
      sidesOk a d st false false = true → s.meetsPacked st cx [d] = false →
      Executes s st cx f.gn f.gp (inD && in1 && f.s2 == 0 && f.s3 == 0 && portOpts f.x 0) (ts [f.d, f.s1]) →
      Posts s st cx ch (.atens st cx f) (transfer s st cx .atens td ta 0 0 f.x (a.bayRows st false))) ∧
    (s.tensor st cx ta = some a → a.fmt.fam = .plain → a.loc ≠ 2 → (a.loc = 1 → a.fits = true) →
      sendOk f.x (c.getG f.s2) (a.dataBytes true) = true → a.dataBytes true ≤ 2 ^ 24 →
      (k / 2 ^ 15 % 4 = 0 → s.outboxActive l.pitch ((c.getG f.s2).toNat % 256) = true) → s.meetsPacked st cx [a] = false →
      Executes s st cx f.gn f.gp (f.d == 0 && in1 && f.s3 == 0 && portOpts f.x 0x18000) (gs [f.s2] ++ ts [f.s1]) →
      Posts s st cx ch (.psend st cx f) (transfer s st cx .send 0 ta 0 (c.getG f.s2) f.x (a.bayRows st false))) ∧
    (s.tensor st cx td = some d → d.fmt.fam = .plain → d.loc ≠ 2 → (d.loc = 1 → d.fits = true) →
      sendOk f.x (c.getG f.s2) (d.dataBytes true) = true → d.dataBytes true ≤ 2 ^ 24 → s.meetsPacked st cx [d] = false →
      Executes s st cx f.gn f.gp (inD && f.s1 == 0 && f.s3 == 0 && portOpts f.x 0x18000) (gs [f.s2] ++ ts [f.d]) →
      Posts s st cx ch (.ppost st cx f) (transfer s st cx .post td 0 0 (c.getG f.s2) f.x (d.bayRows st false))))
end

namespace Sys2Proof.Cert
open Sys2Proof.Machine

/-- An instruction whose whole effect is that split `sp` of its stall becomes `y` and its context `e` runs on; `n` operations were numbered. -/
def SetsSplit (s : State) (st cx sp n : Nat) (c : Instr) (P : Split → Prop) (e : Ctx) : Prop :=
  Gives s c fun t => { t with stalls := s.stalls, serial := s.serial } = s ∧ t.serial = s.serial + n ∧ (∀ i, i ≠ st → t.stall i = s.stall i) ∧
    { t.stall st with ctx := (s.stall st).ctx, splits := (s.stall st).splits, issue := (s.stall st).issue } = s.stall st ∧
    (t.stall st).issue = (s.stall st).issue + 1 ∧ RunsOn e (t.ctxOf st cx) ∧ (∀ k, k ≠ cx → t.ctxOf st k = s.ctxOf st k) ∧
    P (t.splitOf st sp) ∧ ∀ k, k ≠ sp → t.splitOf st k = s.splitOf st k

/-- The pass that a PASS instruction queues (R69, R70): its number, that of its first tile, its descriptors as they stand and the rows it reads
and writes. -/
def passOf (s : State) (st cx : Nat) (f : FmtA) (sp : Nat) (word : W64) (tile0 planned : Nat) (a o : TDesc) (p : Option TDesc) : PassReq :=
  let c := s.ctxOf st cx
  { num := (s.splitOf st sp).passCount, serial := s.serial, ctx := cx, pc := c.pc, act := c.getT f.s1, wgt := c.getT f.s2,
    pre := if word.getLsbD 7 then c.getT f.s3 else 0, out := c.getT f.d, word := word, width := s.splitWidth st,
    tile0 := tile0, planned := planned, feedRows := a.rows st, preRows := (p.map (fun d => d.rows st)).getD [], drainRows := o.rows st }

end Sys2Proof.Cert

section
open Sys2Proof Sys2Proof.Machine Sys2Proof.Cert

/-- Table 5-9, R69, R74, R77, R84, R101, R108: on a split that the launch holds, ASCL and DCTW write its registers, WLD starts the load of a tile
in place of one that no pass used, PASS queues a pass behind the others, and SATM reads a word of the mask of the latest ended pass.
SPLT sets the stall's split configuration, once no pass of the context is left, and the launch's splits with it; where a pass of another context
runs or waits it ends the launch. -/
def Obligations.ArrayInstructions : Prop :=
  ∀ (s : State) (st : StallId) (cx : CtxId) (f : FmtA) (sp : SplitId) (l : Launch) (a w o : TDesc) (p : Option TDesc),
    let c := s.ctxOf st cx
    let k := f.x.toNat
    let x := s.splitOf st sp
    let word := c.getG (k % 32)
    let mine := x.loads.find? (fun t => t.pass.isNone && t.desc == c.getT f.s2)
    let tile0 := (mine.map (·.num)).getD x.dropWld.tileCount
    s.launch? c.launch = some l →
    (l.holds st sp = true → k < 4 → k % 4 = sp → Executes s st cx f.gn f.gp (f.d == 0 && f.s2 == 0 && f.s3 == 0) (gs [f.s1]) →
      SetsSplit s st cx sp 0 (.ascl st cx f) (fun y => y = { x with ascl := (c.getG f.s1).setWidth 16 }) c) ∧
    (l.holds st sp = true → k < 16 → k % 4 = sp → Executes s st cx f.gn f.gp (f.d == 0 && f.s2 == 0 && f.s3 == 0) (gs [f.s1]) →
      SetsSplit s st cx sp 0 (.dctw st cx f) (fun y => { y with dctl := x.dctl } = x ∧ y.dctl[k / 4]? = some (c.getG f.s1) ∧
        ∀ i, i ≠ k / 4 → y.dctl[i]? = x.dctl[i]?) c) ∧
    (l.holds st sp = true → k < 64 → k / 16 = sp → x.passes.any (fun q => q.ctx == cx.val) = false →
      Executes s st cx f.gn f.gp (f.s1 == 0 && f.s2 == 0 && f.s3 == 0) (gs [f.d]) →
      PutsG s st cx (.satm st cx f) f.d (BitVec.ofNat 64 (x.satMask / 2 ^ (64 * (k % 16))))) ∧
    (l.holds st sp = true → k < 8 → k % 4 = sp → s.tensor st cx (c.getT f.s2) = some w → w.loc ≠ 2 → (w.loc = 1 → w.fits = true) →
      weightFmt w.fmt = true → w.originK % 32 = 0 → Executes s st cx f.gn f.gp (f.d == 0 && f.s1 == 0 && decide (f.s2.val < 16) && f.s3 == 0) (ts [f.s2]) →
      SetsSplit s st cx sp 1 (.wld st cx f) (fun y => { y with loads := x.loads, tileCount := x.tileCount } = x ∧
        ∃ t, y.loads = x.loads.filter (fun t => t.pass.isSome) ++ [t] ∧ t.pass = none ∧ t.desc = c.getT f.s2 ∧ t.diag = decide (4 ≤ k) ∧
          t.data = none ∧ t.issued = 0) c) ∧
    (∀ h : Nat × Nat, k < 3 → l.splitsOn st = some h → h.2 = 2 ^ (s.stall st).config → s.passCount st cx = 0 →
      Executes s st cx f.gn f.gp (f.d == 0 && f.s1 == 0 && f.s2 == 0 && f.s3 == 0) [] →
      ((∃ i : Fin 4, (s.stall st).splits[i].passes ≠ []) → exec (.splt st cx f) s = .next (s.badProgram st cx 0x45)) ∧
      ((∀ i : Fin 4, (s.stall st).splits[i].passes = []) → Gives s (.splt st cx f) fun t =>
        { t with stalls := s.stalls, fe := s.fe } = s ∧ { t.fe with launches := s.fe.launches } = s.fe ∧
        (t.stall st).config = k ∧ (∀ i, i < 4 → t.splitOf st i = Split.reset) ∧
        t.launch? c.launch = some { l with splits := l.splits.map (fun y => if y.1 = st.val then (st.val, 0, 2 ^ k) else y) } ∧
        (∀ j, j ≠ c.launch → t.launch? j = s.launch? j) ∧ RunsOn c (t.ctxOf st cx) ∧ ∀ i, i ≠ st.val → t.stall i = s.stall i)) ∧
    (l.holds st sp = true → word.toNat / 2 ^ 48 % 4 = sp → x.passes.length < 2 → s.tensor st cx (c.getT f.s1) = some a →
      s.tensor st cx (c.getT f.s2) = some w → s.tensor st cx (c.getT f.d) = some o →
      p = (if word.getLsbD 7 then s.tensor st cx (c.getT f.s3) else none) →
      (passOf s st cx f sp word tile0 mine.isSome.toNat a o p).wordOk = true →
      (passOf s st cx f sp word tile0 mine.isSome.toNat a o p).shapeOk ((mine.map (·.diag)).getD false) a w o p = true →
      Executes s st cx f.gn f.gp (decide (f.d.val < 16) && decide (f.s1.val < 16) && decide (f.s2.val < 16) && decide (f.s3.val < 16) && xOnly f.x 0x1F)
        (gs [k % 32] ++ ts ([f.d.val, f.s1.val, f.s2.val] ++ (if word.getLsbD 7 then [f.s3.val] else []))) →
      SetsSplit s st cx sp 1 (.pass st cx f) (fun y => y.ascl = x.ascl ∧ y.dctl = x.dctl ∧ y.slot = x.slot ∧ y.satMask = x.satMask ∧ y.passCount = x.passCount + 1 ∧ y.passes.map (·.num) = x.passes.map (·.num) ++ [x.passCount] ∧
        ∃ q, y.waiting.getLast? = some q ∧ { q with planned := mine.isSome.toNat } = passOf s st cx f sp word tile0 mine.isSome.toNat a o p) c)
end

namespace Sys2Proof.Cert
open Sys2Proof.Machine

/-- Between `s` and `t` context `cx` of stall `st` becomes `e`, and no other part of any stall differs. -/
def CtxBecomes (s t : State) (st cx : Nat) (e : Ctx) : Prop :=
  (∀ i, i ≠ st → t.stall i = s.stall i) ∧ { t.stall st with ctx := (s.stall st).ctx } = s.stall st ∧
  (∀ k, k ≠ cx → t.ctxOf st k = s.ctxOf st k) ∧ t.ctxOf st cx = e

/-- A memory unit's answer to request `id` reaches its context, which becomes `e`; the request is gone and nothing else differs. -/
def Arrives (s : State) (st cx id : Nat) (c : Instr) (e : Ctx) : Prop :=
  Gives s c fun t => { t with stalls := s.stalls, mem := s.mem } = s ∧
    t.mem = { s.mem with reqs := s.mem.reqs.filter (fun r => r.id != id) } ∧ CtxBecomes s t st cx e

end Sys2Proof.Cert

section
open Sys2Proof Sys2Proof.Machine Sys2Proof.Cert

/-- R121, R134, R135, R147: the answer of a memory unit arrives. LD_DATA_RETURN writes the register of a load, which waits no longer;
ATOMIC_RESPONSE writes the old value, or for a till-format add the saturation bit, which then raises TILL_SAT; a context that runs another launch by
then keeps its registers (R148). -/
def Obligations.MemoryAnswers : Prop :=
  ∀ (s : State) (st : StallId) (cx : CtxId) (id l : Nat) (r : MemReq) (a : MemAns),
    let c := s.ctxOf st cx
    s.req? id = some r → r.client = .ctx st cx l → r.served = some a →
    (∀ g : Fin 32, r.kind = .load g → a.poison = false →
      ∃ e, WithG c g (BitVec.ofNat 64 (leNat a.bytes)) e ∧
        Arrives s st cx id (.ldDataReturn id) { e with pend := c.pend.erase (.g g) }) ∧
    (∀ k : Fin 16, r.kind = .loadT k → a.poison = false →
      ∃ e, WithT c k (BitVec.ofNat 512 (leNat a.bytes)) e ∧
        Arrives s st cx id (.ldDataReturn id) { e with pend := c.pend.erase (.t k) }) ∧
    (∀ (op : AtomOp) (g : Fin 32) (x y : W64), r.kind = .atom op g x y → a.sat = false → s.runsAt st cx l = true →
      ∃ e, WithG c g (if op = .addTill then 0 else BitVec.ofNat 64 (leNat a.bytes)) e ∧
        Arrives s st cx id (.atomicResponse id) { e with pend := c.pend.erase (.g g) }) ∧
    (∀ (g : Fin 32) (x y : W64) (n : Launch), r.kind = .atom .addTill g x y → a.sat = true → s.launch? l = some n → n.strictOvf = false →
      s.runsAt st cx l = true → ∃ e, WithG c g 1 e ∧ Gives s (.atomicResponse id) fun t =>
        CtxBecomes s t st cx { e with pend := c.pend.erase (.g g), tillSat := true } ∧
        t.launch? l = some { n with tillSat := true } ∧ (∀ r ∈ t.mem.reqs, r.id ≠ id) ∧ t.mem.bytes = s.mem.bytes) ∧
    (∀ (op : AtomOp) (g : Fin 32) (x y : W64), r.kind = .atom op g x y → a.sat = false → s.runsAt st cx l = false →
      exec (.atomicResponse id) s = .next { s with mem := { s.mem with reqs := s.mem.reqs.filter (fun r => r.id != id) } })

/-- R123, R134, R135, R143 to R146: a context goes on from WAITU, MFEN or TKACQ when what it waits for is there, and stays as it is otherwise; a
deferred hand-over or release takes effect once its client is done with the rows; a context at END whose work is complete ends its instance, and the
last instance ends the launch with OK. -/
def Sys2Proof.Cert.WaitsEnd : Prop :=
  ∀ (s : State) (st : StallId) (cx : CtxId) (n : Nat),
    let c := s.ctxOf st cx
    (c.wait = .fence n → (s.writesBefore st cx n = false → Retires s st cx 0 (.mfenComplete st cx) { c with wait := .none }) ∧
      (s.writesBefore st cx n = true → exec (.mfenComplete st cx) s = .next s)) ∧
    (∀ code limit k, c.wait = .unit code limit → s.unitCount st cx code = some k →
      (k ≤ limit → Retires s st cx 0 (.waituReturn st cx) { c with wait := .none }) ∧
      (¬k ≤ limit → exec (.waituReturn st cx) s = .next s)) ∧
    (∀ q : TokReq, s.tokReqs[n]? = some q → q.stall = st.val → q.ctx = cx.val → s.grantable q.rows = true →
      s.outranked (s.tokReqs.take n) q = false → Gives s (.tokenGrant n) fun t =>
        { t with stalls := s.stalls, tokens := s.tokens, tokReqs := s.tokReqs } = s ∧ t.tokReqs = s.tokReqs.eraseIdx n ∧
        t.tokens = s.tokens ++ [{ rows := q.rows, client := q.client, stall := q.stall, ctx := q.ctx, handle := q.handle, launch := q.launch, deferred := [] }] ∧
        StepsOn s t st cx 0 { c with wait := .none }) ∧
    (∀ (tk : Token) (d : Deferred) (rest : List Deferred), s.tokens[n]? = some tk → tk.deferred = d :: rest → s.clientBusy tk d.serial = false →
      tk.stall = st.val → tk.ctx = cx.val → Gives s (.deferredTokenEffect n) fun t =>
        { t with stalls := s.stalls, tokens := s.tokens } = s ∧
        t.tokens = (match d.tgt with
          | some k => s.tokens.set n { tk with client := k, deferred := rest }
          | none => s.tokens.eraseIdx n) ∧
        (c.wait ≠ .handle tk.handle → t.stalls = s.stalls)) ∧
    (∀ x : Launch, s.launchIn st cx = some x → c.wait = .ended → s.ctxBusy st cx = false →
      (x.running.any (· != st.val) = true → Gives s (.instanceEnd st cx) fun t =>
        { t with stalls := s.stalls, fe := s.fe } = s ∧ { t.fe with launches := s.fe.launches } = s.fe ∧
        CtxBecomes s t st cx { c with live := false, wait := .none } ∧
        t.launch? c.launch = some { x with running := x.running.filter (· != st.val) }) ∧
      (x.running.any (· != st.val) = false → Gives s (.instanceEnd st cx) fun t => ∃ u : State,
        t = x.splits.foldl (fun s y => s.leaveStall y.1) (u.finishLaunch c.launch) ∧
        u.launch? c.launch = some { x with running := [], ended := some .ok } ∧ (∀ k ∈ u.tokens, k.launch ≠ c.launch) ∧
        u.mem.bytes = s.mem.bytes))

/-- R131, R133, R134, R52: INSTRUCTION_CACHE_FILL keeps the eight words of one line of the image, as its launch found it, in a cache of 1,024 lines; a
context that stands there at a word that names no instruction ends its launch with BAD_PROGRAM. A scale measured by VSCA arrives in its register when
the operation completes, and the VEC tally counts its cycles. -/
def Sys2Proof.Cert.FillsAndTensorCompletion : Prop :=
  ∀ (s : State) (st : StallId) (cx : CtxId) (line : Nat) (x : Launch) (bs : List Byte) (op : VecOp) (rest : List VecOp) (g : Fin 32)
    (a : TDesc) (ws : List (List W32)),
    let c := s.ctxOf st cx
    (s.launchIn st cx = some x → x.ended = none → 8 * line < x.codeLen →
      s.readDev x.pitch (some x.csr.toNat) (x.prog + 64 + 64 * line) 64 = .ok bs →
      ∃ (u : State) (seen : List W64), { u with stalls := s.stalls } = s ∧ (∀ i, i ≠ st.val → u.stall i = s.stall i) ∧
        { u.stall st with icache := (s.stall st).icache } = s.stall st ∧
        (u.stall st).icache.head? = some ((x.prog + 64 + 64 * line) / 64, seen) ∧ (u.stall st).icache.length ≤ 1024 ∧
        (x.image = [] → ∀ i, i < 8 → seen[i]? = some (BitVec.ofNat 64 (fieldAt bs (8 * i) 8))) ∧
        let w := seen[c.pc.toNat % 8]?.getD 0
        (c.pc.toNat / 8 ≠ line ∨ (seqInstr st cx w).isSome = true → exec (.instructionCacheFill st cx line) s = .next u) ∧
        (c.pc.toNat / 8 = line → seqInstr st cx w = none → u.atIssue st cx = true → u.inImage st cx = true →
          u.guard st cx (wordGn w) (wordGp w) = true → exec (.instructionCacheFill st cx line) s = .next (u.badProgram st cx (wordOp w)))) ∧
    (c.vecq = op :: rest → op.kind = .vsca none → op.reg = g.val → s.cover st cx .vec op.rows = .held → s.tensor st cx op.s1 = some a →
      s.readSpans st a.spans = (s, ws, none) → Gives s (.tensorOperationComplete st cx []) fun t =>
        { t with stalls := s.stalls } = s ∧ (∀ i, i ≠ st.val → t.stall i = s.stall i) ∧
        (t.stall st).vec = (s.stall st).vec + BitVec.ofNat 64 (op.kind.cycles a.count) ∧
        ∃ e, WithG c g ((actScale (a.plainVals ws)).setWidth 64) e ∧
          t.ctxOf st cx = { e with vecq := rest, pend := c.pend.erase (.g g), progress := c.progress + 1 })
/-- R123, R131, R134, R135, R143 to R146, R52: a context goes on from what it waits for when that is there; a deferred token action takes effect once
its client is done; the last instance of a launch ends it with OK; and a fetched line and a measured scale arrive. -/
def Obligations.WaitsAndCompletions : Prop := Sys2Proof.Cert.WaitsEnd ∧ Sys2Proof.Cert.FillsAndTensorCompletion

end

namespace Sys2Proof.Cert
open Sys2Proof.Machine

/-- Between `s` and `t` only split `sp` of stall `st` differs among the stalls, and it becomes `y`. -/
def SplitBecomes (s t : State) (st sp : Nat) (y : Split) : Prop :=
  (∀ i, i ≠ st → t.stall i = s.stall i) ∧ { t.stall st with splits := (s.stall st).splits } = s.stall st ∧
  (∀ k, k ≠ sp → t.splitOf st k = s.splitOf st k) ∧ t.splitOf st sp = y

end Sys2Proof.Cert

section
open Sys2Proof Sys2Proof.Machine Sys2Proof.Cert

/-- R74, R91, R108, R60: PASS_ENTRY takes the waiting pass into the array once its first tile is in place and its feed tokens cover its rows;
ARRAY_SLOT moves an idle split by one slot, and a split that is held by none, its passes keeping their place (R76); OUTPUT_ROWS_RELEASE ends the oldest pass once its last slot is over, with its saturation mask. -/
def Sys2Proof.Cert.ArrayEvents : Prop :=
  ∀ (s : State) (st : StallId) (sp : SplitId) (l : Nat) (n : Launch),
    let x := s.splitOf st sp
    s.splitLaunch st sp = some (l, n) →
    (∀ (q : PassReq) (rest : List PassReq) (a w o : TDesc) (p : Pass), x.waiting = q :: rest →
      x.loads.any (fun t => t.pass == some q.num && t.index == 0 && t.data.isSome && t.issued == 256) = true →
      (∀ y ∈ x.flight.getLast?, y.nextSlot ≤ x.slot) → x.flight.length < 2 → s.cover st q.ctx (.feed sp) (q.feedRows ++ q.preRows) = .held →
      s.tensor st q.ctx q.act = some a → s.tensor st q.ctx q.wgt = some w → s.tensor st q.ctx q.out = some o →
      x.latch q a w o = some p → Gives s (.passEntry st sp) fun t =>
        { t with stalls := s.stalls } = s ∧ SplitBecomes s t st sp { x with waiting := rest, flight := x.flight ++ [p] }) ∧
    (x.waiting = [] → x.flight = [] → x.loads = [] → s.launch? l = some n → Gives s (.arraySlot st sp false none []) fun t =>
      { t with stalls := s.stalls, fe := s.fe } = s ∧ { t.fe with launches := s.fe.launches } = s.fe ∧
      t.splitOf st sp = { x with slot := x.slot + 1 } ∧ (∀ k, k ≠ sp.val → t.splitOf st k = s.splitOf st k) ∧
      (t.stall st).slots = (s.stall st).slots + 1 ∧ t.launch? l = some { n with progress := n.progress + 1 }) ∧
    (x.loads = [] → (∀ p ∈ x.flight, p.drains x.slot = false) → Gives s (.arraySlot st sp true none []) fun t =>
      { t with stalls := s.stalls } = s ∧ SplitBecomes s t st sp x) ∧
    (∀ (p : Pass) (rest : List Pass), x.flight = p :: rest → p.endSlot ≤ x.slot → s.launch? l = some n → Gives s (.outputRowsRelease st sp) fun t =>
      { t with stalls := s.stalls, fe := s.fe } = s ∧ t.launch? l = some { n with progress := n.progress + 1 } ∧
      SplitBecomes s t st sp
        { x with flight := rest, loads := x.loads.filter (fun t => t.pass != some p.req.num),
                 satMask := p.satCols.foldl (fun m c => m ||| 2 ^ c) 0 })

/-- R454 to R456, R472, R473: when the sweeper of a stall is done, the launch's rows there read zero and its tokens are free, the
expander's buffer is empty where the launch was its last user, and the launch waits for its other stalls; a sweeper that does not finish maps its stall out. -/
def Sys2Proof.Cert.SweepEvents : Prop :=
  ∀ (s : State) (st : StallId) (p l : Nat) (x : Launch),
    (s.pitchOfStall st = some p → (s.pitch p).state ≠ .resetting → s.sweepsOn st = [l] → s.launch? l = some x →
      s.mem.entUse.any (fun u => u.launch == l && u.stall == st.val) = false → x.sweeping.any (· != st.val) = true →
      Gives s (.sweepComplete st) fun t =>
        { t with stalls := s.stalls, bays := s.bays, rewrites := s.rewrites, tokens := s.tokens, fe := s.fe } = s ∧
        t.launch? l = some { x with sweeping := x.sweeping.filter (· != st.val) } ∧
        t.tokens = s.tokens.filter (fun k => !(k.launch == l && k.rows.stall == st.val)) ∧
        (∀ b first last row col, b < 4 → x.rows[b]? = some (some (first, last)) → first ≤ row → row ≤ last → col < 256 →
          t.bayWord (st.val * 2 ^ 22 + b * 2 ^ 20 + row * 256 + col) = 0) ∧
        (t.stall st).factors = (if (s.stall st).factorsBy = some l then [] else (s.stall st).factors) ∧
        (∀ i, i ≠ st.val → t.stall i = s.stall i)) ∧
    (s.sweepsOn st ≠ [] → s.pstall st < 52 → Gives s (.sweepTimeout st) fun t => t.health.out.getLsbD (s.pstall st) = true)

/-- R165, R166, R169 to R171, R189, R195: BAY_CORRECTED_REWRITE writes a corrected word back, with its check bits, and nothing else;
REMOTE_BAY_REQUEST serves the copy whose turn it is in its channel: it brings the data of a remote source, which an uncorrectable word refuses, and
stores into a remote destination, which marks the transfer written; PORTER_STARVATION turns a channel's starvation, and the channel moves on. -/
def Obligations.BayAndChannelEvents : Prop :=
  ∀ (s : State) (st : StallId) (ch : ChanId) (n : Nat) (r : Nat × BitVec 39) (x : Xfer) (l : Launch) (a d : TDesc) (data : XData) (u : State),
    s.canonical →
    (s.rewrites[n]? = some r → Gives s (.bayCorrectedRewrite n) fun t => { t with bays := s.bays, rewrites := s.rewrites } = s ∧
      t.rewrites = s.rewrites.eraseIdx n ∧ t.bayWord r.1 = r.2 ∧ ∀ k, k ≠ r.1 → t.bayWord k = s.bayWord k) ∧
    (s.rewrites[n]? = none → exec (.bayCorrectedRewrite n) s = .next s) ∧
    ((s.chanOf st ch).actor? = some x → s.launch? x.launch = some l → x.kind = .copy → TDesc.parse (s.stallsOf l.pitch) x.s1 = some a →
      TDesc.parse (s.stallsOf l.pitch) x.d = some d → s.cover st x.ctx (.port ch) x.rows = .held →
      (sideOf a x.srcHost = .remote → x.data = none → (s.stall a.stall).pwr = .active → (s.bayRuns a.stall a).1 = s →
        data = a.dataOf (s.bayRuns a.stall a).2 →
        (data.flag = none → Gives s (.remoteBayRequest st ch []) fun t =>
          { t with stalls := s.stalls } = s ∧ (t.chanOf st ch).xfers =
            (s.chanOf st ch).xfers.map (fun y => if y.serial = x.serial then { y with data := some data } else y) ∧
          (∀ i, i ≠ st.val → t.stall i = s.stall i) ∧ ∀ k, k ≠ ch.val → t.chanOf st k = s.chanOf st k) ∧
        (∀ z, data.flag = some z → exec (.remoteBayRequest st ch []) s = .next (s.xferErr st ch x (.poison z)))) ∧
      (sideOf d x.dstHost = .remote → x.data = some data → (s.stall d.stall).pwr = .active → s.xferStore st x d (x.shaped a d data) = .ok u →
        Gives s (.remoteBayRequest st ch []) fun t => ∃ w, t = State.pumpChan 4 st ch w ∧ { w with stalls := u.stalls } = u ∧
          (w.chanOf st ch).xfers = (u.chanOf st ch).xfers.map (fun y =>
            if y.serial = x.serial then { y with written := true, wrote := d.dataBytes false } else y) ∧
          (∀ k, k ≠ ch.val → w.chanOf st k = u.chanOf st k) ∧ ∀ i, i ≠ st.val → w.stall i = u.stall i)) ∧
    ((s.chanOf st ch).xfers ≠ [] → Gives s (.porterStarvation st ch) fun t => ∃ u, t = State.pumpChan 4 st ch u ∧
      { u with stalls := s.stalls } = s ∧ u.chanOf st ch = { s.chanOf st ch with starving := !(s.chanOf st ch).starving } ∧
      (∀ k, k ≠ ch.val → u.chanOf st k = s.chanOf st k) ∧ ∀ i, i ≠ st.val → u.stall i = s.stall i) ∧
    ((s.chanOf st ch).xfers = [] → exec (.porterStarvation st ch) s = .next s)
/-- R60, R74, R91, R108, R454 to R456, R472, R473: a pass enters the array, moves by one slot and releases its rows; a sweeper that is done leaves a
launch's rows zero and its tokens free, and one that does not finish maps its stall out. -/
def Obligations.ArrayAndSweepEvents : Prop := Sys2Proof.Cert.ArrayEvents ∧ Sys2Proof.Cert.SweepEvents

end

namespace Sys2Proof.Cert
open Sys2Proof.Machine

/-- Between `s` and `t` the bytes `bs` have been written at offset `off` of unit `u`, and every other byte of memory reads as before. -/
def StoresAt (s t : State) (u off : Nat) (bs : List Byte) : Prop :=
  (∀ i, i < bs.length → Tab.get 0 t.mem.bytes (memKey u off + i) = bs[i]?.getD 0) ∧
  ∀ k, k < memKey u off ∨ memKey u off + bs.length ≤ k → Tab.get 0 t.mem.bytes k = Tab.get 0 s.mem.bytes k

/-- Request `id` goes to its controller next: it is there, has not been served, and no earlier request of its client to its bytes has
still to be. -/
def Next (s : State) (id : Nat) (r : MemReq) : Prop := s.req? id = some r ∧ r.served = none ∧ s.reqBlocked r = false

/-- Between `s` and `t` nothing differs but memory, and what launches keep of the words of their images that they have written (R131). -/
def MemOnly (s t : State) : Prop :=
  { t with mem := s.mem, fe := s.fe } = s ∧ { t.fe with launches := s.fe.launches } = s.fe ∧
  ∀ k, (t.launch? k).map (fun x => { x with image := [] }) = (s.launch? k).map (fun x => { x with image := [] })

/-- The requests of `s` with the answer `a` given to request `id`. -/
def answered (s : State) (id : Nat) (a : MemAns) : List MemReq :=
  s.mem.reqs.map (fun q => if q.id = id then { q with served := some a } else q)

end Sys2Proof.Cert

section
open Sys2Proof Sys2Proof.Machine Sys2Proof.Cert

/-- R266, R278, R280, R503: a controller serves the requests that reach it. MEMORY_READ gives a load the bytes of its place, and takes the unit out
of POWER_DOWN; MEMORY_WRITE writes the bytes of a store and nothing else, and poisons its line where a word of its payload arrives with an error
that the code cannot correct (R280); MEMORY_ATOMIC answers with the value held just before the operation and leaves the operation's result at the
place. -/
def Obligations.MemoryServes : Prop :=
  ∀ (s : State) (id off : Nat) (u : UnitId) (alt again : LineOutcome) (r : MemReq), Next s id r → s.canonical →
    (∀ n, (∃ g, r.kind = .load g ∧ n = 8) ∨ (∃ g, r.kind = .loadT g ∧ n = 64) → r.place.region = none →
      s.unitOff (s.readPlace r.place).1 = false → Gives s (.memoryRead (some ⟨id, none⟩) u off .good alt again) fun t =>
        { t with mem := s.mem } = s ∧ { t.mem with reqs := s.mem.reqs, pwr := s.mem.pwr } = s.mem ∧
        t.mem.reqs = answered s id ⟨s.memBytes (s.readPlace r.place).1 (s.readPlace r.place).2 n,
          s.linePoison (s.readPlace r.place).1 (s.readPlace r.place).2, false⟩ ∧
        t.mem.pwr[(s.readPlace r.place).1]? ≠ some .powerDown) ∧
    (∀ bs, r.kind = .store bs → r.place.replica = none → s.pair.state = .independent → s.linePoison r.place.unit r.place.off = false →
      Gives s (.memoryWrite ⟨id, none⟩) fun t => MemOnly s t ∧
        { t.mem with bytes := s.mem.bytes, poison := s.mem.poison, reqs := s.mem.reqs, pwr := s.mem.pwr } = s.mem ∧
        t.mem.reqs = s.mem.reqs.filter (fun q => q.id != r.id) ∧ StoresAt s t r.place.unit r.place.off bs) ∧
    (∀ bs (e : WordUpset), r.kind = .store bs → r.place.replica = none → s.pair.state = .independent → s.linePoison r.place.unit r.place.off = false →
      bayDecode (bayEncode (BitVec.ofNat 32 (leNat ((bs.drop (4 * e.word)).take 4))) ^^^ e.flips) = .poisoned →
      Gives s (.memoryWrite ⟨id, some e⟩) fun t => t.linePoison r.place.unit r.place.off = true ∧ t.mem.bytes = s.mem.bytes ∧
        t.mem.reqs = s.mem.reqs.filter (fun q => q.id != r.id)) ∧
    (∀ (op : AtomOp) (g st c l : Nat) (x y : W64), r.kind = .atom op g x y → r.client = .ctx st c l → r.place.replica = none →
      s.pair.state = .independent → s.linePoison r.place.unit r.place.off = false → s.countsIn r.pitch r.addr.toNat op.size = [] →
      let old := s.memBytes r.place.unit r.place.off op.size
      Gives s (.memoryAtomic id .good) fun t => MemOnly s t ∧
        StoresAt s t r.place.unit r.place.off (leBytes op.size (op.apply (leNat old) x y).1) ∧
        t.mem.reqs = answered s r.id ⟨old, false, (op.apply (leNat old) x y).2⟩)

/-- R279, R283, R503: a line leaves an atomic buffer without any byte of memory changing; the patrol reads the next line of a unit that is awake, and
of a good line moves on alone; a unit with no request to serve goes into POWER_DOWN. -/
def Sys2Proof.Cert.ControllerEvents : Prop :=
  ∀ (s : State) (u : UnitId) (k a : Nat) (alt again : LineOutcome),
    (s.mem.atomicBuf.find? (fun k => k / 2 ^ 29 == u.val) = some k →
      exec (.atomicBufferEvict u) s = .next { s with mem := { s.mem with atomicBuf := s.mem.atomicBuf.erase k } }) ∧
    (s.mem.pwr[u.val]? = some .active → s.unitOff u = false → s.mem.patrol[u.val]? = some a →
      exec (.patrolRead u .good alt again) s =
        .next { s with mem := { s.mem with patrol := s.mem.patrol.setIfInBounds u ((a + 64) % s.unitC u) } }) ∧
    (s.mem.pwr[u.val]? = some .active → (∀ r ∈ s.mem.reqs, r.place.unit = u.val → r.served ≠ none) →
      exec (.memoryUnitPowerDown u) s = .next { s with mem := { s.mem with pwr := s.mem.pwr.setIfInBounds u .powerDown } })

/-- R282, R284: an uncorrectable line that lies in no region of common stock is delivered and written back as poisoned with its data zero, a
deferred fault of the controller is recorded, and no other byte or line changes. -/
def Obligations.UncorrectableLine : Prop :=
  ∀ (s : State) (u : UnitId) (off : Nat) (alt again : LineOutcome), s.canonical → off < s.unitC u → s.unitOff u = false →
    s.regionAt u off = none → s.pair.state = .independent →
    Gives s (.memoryRead none u off .bad alt again) fun t =>
      t.linePoison u off = true ∧
      (∀ i, i < 64 → Tab.get 0 t.mem.bytes (memKey u off / 64 * 64 + i) = 0) ∧
      (∀ k, k / 64 ≠ memKey u off / 64 → Tab.get 0 t.mem.bytes k = Tab.get 0 s.mem.bytes k) ∧
      (∀ k, k ≠ memKey u off / 64 → t.mem.poisoned k = s.mem.poisoned k) ∧
      t.seqOf (srcMc u) = s.seqOf (srcMc u) + 2 ∧ t.stalls = s.stalls ∧ t.regs = s.regs

/-- R295, R297: the step that a stack takes at a temperature report, by the limits of Table 11-13 in eighths of a degree; SHUTDOWN powers the
stack off and loses what it held, and no other stack changes its step. -/
def Sys2Proof.Cert.StackSteps : Prop :=
  ∀ (s : State) (k : StackId) (temp : BitVec 12),
    let x := s.stack k
    let T := temp.toInt
    let n := if 105 * 8 ≤ T then 3 else if 95 * 8 ≤ T ∨ (x.step = 2 ∧ 92 * 8 ≤ T) then 2
      else if 85 * 8 ≤ T ∨ (1 ≤ x.step ∧ 82 * 8 ≤ T) then 1 else 0
    x.off = false → x.step < 3 →
    (n = x.step → exec (.stackTempReport k temp) s = .next { s with mem := { s.mem with hbms := s.mem.hbms.setIfInBounds k { x with temp := temp } } }) ∧
    (n ≠ x.step → n < 3 → Gives s (.stackTempReport k temp) fun t =>
      (t.stack k).step = n ∧ (t.stack k).temp = temp ∧ (t.stack k).off = false ∧ (∀ j, j ≠ k.val → t.stack j = s.stack j) ∧
      { t.mem with hbms := s.mem.hbms } = s.mem ∧ t.stalls = s.stalls ∧ t.regs = s.regs ∧ t.seqOf (srcMc (2 * k.val)) = s.seqOf (srcMc (2 * k.val)) + 1) ∧
    (n = 3 → (∀ p, (s.pitch p).state = .off) → Gives s (.stackTempReport k temp) fun t =>
      (t.stack k).step = 3 ∧ (t.stack k).off = true ∧ (∀ j, j ≠ k.val → t.stack j = s.stack j) ∧
      ∀ a, s.canonical → a / 2 ^ 36 = k.val → Tab.get 0 t.mem.bytes a = 0)

/-- R279, R283, R295, R297, R503: what a controller does of its own accord, and the step that a stack takes at a temperature report. -/
def Obligations.ControllerAndStackEvents : Prop := Sys2Proof.Cert.ControllerEvents ∧ Sys2Proof.Cert.StackSteps

end

namespace Sys2Proof.Cert
open Sys2Proof.Machine

/-- Between `s` and `t` the transfer `x` of channel `ch` of stall `st` becomes `y`, and nothing else of any stall differs. -/
def XferBecomes (s t : State) (st ch : Nat) (x y : Xfer) : Prop :=
  (∀ i, i ≠ st → t.stall i = s.stall i) ∧ { t.stall st with chans := (s.stall st).chans } = s.stall st ∧
  (∀ k, k ≠ ch → t.chanOf st k = s.chanOf st k) ∧
  t.chanOf st ch = { s.chanOf st ch with xfers := (s.chanOf st ch).xfers.map (fun z => if z.serial = x.serial then y else z) }

/-- Transfer numbers are distinct within a channel. -/
def OneEach (s : State) (st ch : Nat) : Prop :=
  ∀ x ∈ (s.chanOf st ch).xfers, ∀ y ∈ (s.chanOf st ch).xfers, x.serial = y.serial → x = y

/-- A command whose whole effect is on one transfer, which becomes `y`. -/
def MovesXfer (s : State) (c : Instr) (st ch : Nat) (x y : Xfer) : Prop :=
  Gives s c fun t => { t with stalls := s.stalls } = s ∧ XferBecomes s t st ch x y

end Sys2Proof.Cert

section
open Sys2Proof Sys2Proof.Machine Sys2Proof.Cert

/-- R185, R186, R189, R190, R193: PORTER_PAIR_CHECK takes in the next segment of the FB read of a channel, with its scale record, once both have passed every
check; a message that has been answered completes: it leaves its channel, which counts it and its bytes, and its context's PTIME quantities name
it. -/
def Obligations.PorterEvents : Prop :=
  ∀ (s : State) (st : StallId) (ch : ChanId) (eng : Fin 20) (x : Xfer) (l : Launch) (a d : TDesc) (g : SegPair) (h : List Byte),
    OneEach s st ch → s.launch? x.launch = some l →
    (eng.val = ch.val → (s.chanOf st ch).actor? = some x → s.cover st x.ctx (.port ch) x.rows = .held → x.kind = .copy → TDesc.parse (s.stallsOf l.pitch) x.s1 = some a → TDesc.parse (s.stallsOf l.pitch) x.d = some d →
      a.fmt.fam = .fb → a.loc = 0 → s.pkSrc l.pitch a = .none → x.pairs.length < a.segments →
      s.readPair l.pitch (some l.csr.toNat) a.fmt.el a.base a.sbase x.pairs.length = .got g →
      let first := ((x.pairs.findSome? (fun q => q.2.map (fun z => fieldAt z.trailer 4 4 - q.1)))).getD (fieldAt g.trailer 4 4 - x.pairs.length)
      g.fails a.fmt.el (a.want first x.pairs.length) = none →
      MovesXfer s (.porterPairCheck st eng) st ch x { x with pairs := x.pairs ++ [(x.pairs.length, some ⟨g.elems, g.trailer, g.record⟩)] }) ∧
    ((s.chanOf st ch).front? = some x → x.kind = .send → x.written = true → x.coll = none → x.opt 5 5 = 0 → (s.chanOf st ch).xfers = [x] → x.ctx < 4 →
      Gives s (.porterTransferComplete st ch h []) fun t =>
        (t.chanOf st ch).xfers = [] ∧ (t.chanOf st ch).nXfers = (s.chanOf st ch).nXfers + 1 ∧
        (t.chanOf st ch).nBytes = (s.chanOf st ch).nBytes + BitVec.ofNat 64 x.wrote ∧
        (t.chanOf st ch).info[x.ctx]? = some
          { time := s.stamp (srcChan st ch), bytes := BitVec.ofNat 64 x.wrote,
            zeros := ((s.chanOf st ch).info[x.ctx]?.getD ChanInfo.zero).zeros,
            count := ((s.chanOf st ch).info[x.ctx]?.getD ChanInfo.zero).count + 1 } ∧
        (∀ k, k ≠ ch.val → t.chanOf st k = s.chanOf st k) ∧ t.launch? x.launch = some { l with progress := l.progress + 1 } ∧
        t.mem = s.mem ∧ t.out = s.out)

/-- R219 to R222, R249: the steps of a page walk, none of whose reads meets a packed region. The header read fixes the pages of the walk's group and reads their entries; the frame of each page is
checked in turn; the closing read of the epoch ends the walk's reading where it equals the header's. -/
def Obligations.PageWalkEvents : Prop :=
  ∀ (s : State) (st : StallId) (ch : ChanId) (x : Xfer) (w : Walk) (l : Launch) (d : TDesc) (h es sf ep : List Byte) (i e : Nat) (f : Fmt),
    OneEach s st ch → s.frontWalk st ch = some (x, w, l) →
    (∀ a k bs, s.walkRead l a k = .ok bs → s.inRegion l.pitch a k = false ∧ s.readDev l.pitch (some l.csr.toNat) a k = .ok bs) ∧
    let pages := ((List.range (256 / plP h)).map (x.block * 256 / plP h + ·)).filter (fun i => decide (i * plP h < plValid h))
    (w.header = [] → s.cover st x.ctx (.port ch) x.rows = .held → s.walkRead l w.list.toNat 64 = .ok h →
      TDesc.parse (s.stallsOf l.pitch) x.d = some d → plOk h = true → x.layer < plLayers h →
      x.head < plHeads h → some d.fmt = plFmt h → d.extent 0 = (if x.valueTile then 256 else plDim h + 32) → d.extent 1 = 256 →
      s.walkRead l (w.list.toNat + 64 + 8 * pages.headD 0) (8 * pages.length) = .ok es →
      let w' : Walk := ⟨w.list, h, pages, (chunksOf 8 es).map leNat, w.checked, w.got, pages.isEmpty⟩
      MovesXfer s (.pageWalkHeaderRead st ch) st ch x { x with walk := some w' }) ∧
    (w.pages[w.checked]? = some i → w.entries[w.checked]? = some e → plFmt w.header = some f → f.fam = .fb → w.got.length = w.checked →
      s.walkRead l (plScale w.header e) 64 = .ok sf →
      fieldAt sf 0 2 = plTag w.header → fieldAt sf 2 1 = f.toCode → fieldAt sf 3 1 = bits e 63 56 → fieldAt sf 4 4 = i →
      fieldAt sf 8 4 = plSegs w.header f → fieldAt sf 12 1 = plF w.header 16 1 → zeroAt sf 13 51 = true →
      MovesXfer s (.scaleFrameCheck st ch) st ch x { x with pairs := [], walk := some { w with checked := w.checked + 1 } }) ∧
    (w.closed = false → w.header ≠ [] → w.got.length = w.pages.length →
      s.walkRead l (w.list.toNat + 4) 4 = .ok ep → leNat ep = plEpoch w.header →
      MovesXfer s (.pageWalkEpochRead st ch) st ch x { x with walk := some { w with closed := true } })

/-- R255, R259 to R264: the Packer's events. A decoded block goes to its read; an expanded tensor goes to its copy, and the pieces of the factors that it used stay
in the buffer of 256 KiB as they were read; an encoding write's passes run over its source and mark it written once each unit is stored; a table that has been built is READY; and a stall's
decoder keeps the four tables loaded last. -/
def Obligations.PackerEvents : Prop :=
  ∀ (s : State) (st : StallId) (ch : ChanId) (eng : Fin 12) (x : Xfer) (l : Launch) (a d : TDesc) (n : Nat) (g : Seg)
    (data : XData) (u : EntUse) (tb : EncTable) (hd : LowrHead) (w : Expanded),
    OneEach s st ch → eng.val = ch.val → (s.chanOf st ch).actor? = some x →
    s.cover st x.ctx (.port ch) x.rows = .held → s.launch? x.launch = some l →
    (x.kind = .copy → x.srcHost = none → a.loc = 0 → TDesc.parse (s.stallsOf l.pitch) x.s1 = some a →
      TDesc.parse (s.stallsOf l.pitch) x.d = some d → s.pkSrc l.pitch a = .unit n → x.pairs.length < a.units (s.pkrSeg l.pitch n) →
      s.decodeUnit (x.reader st ch) l.pitch n (some l.csr.toNat) a x.pairs.length
        (if x.pairs.length = 0 then none else some (firstIndex x.pairs)) = .got s g →
      MovesXfer s (.blockDecode st eng) st ch x { x with pairs := x.pairs ++ [(x.pairs.length, some g)] }) ∧
    (x.kind = .copy → x.srcHost = none → a.loc = 0 → x.data = none → TDesc.parse (s.stallsOf l.pitch) x.s1 = some a →
      s.pkSrc l.pitch a = .lowr n → s.lowrRead (x.reader st ch) l.pitch (some l.csr.toNat) a = .ok hd → hd.base = false →
      s.expand (x.reader st ch) l.pitch (some l.csr.toNat) l.seed hd a (List.range (a.extent 1)) 0 (a.extent 0) (List.range hd.b.segments) = .ok w →
      w.nonfin = false → Gives s (.factorExpandTile st eng) fun t =>
        { t with stalls := s.stalls, fe := s.fe } = s ∧ t.fe.queues = s.fe.queues ∧
        (t.chanOf st ch).xfers = (s.chanOf st ch).xfers.map (fun z => if z.serial = x.serial then { x with data := some (.codes (w.cols.flatMap (·.1))) } else z) ∧
        ((t.stall st).factors.map (fun e => e.2.length)).sum ≤ 262144 ∧
        ∀ e ∈ (t.stall st).factors, e ∈ (s.stall st).factors ∨
          ((e.1, e.2.length) ∈ hd.pieces a (List.range (a.extent 0)) (List.range (a.extent 1)) ∧
            s.readDev l.pitch (some l.csr.toNat) e.1 e.2.length = .ok e.2)) ∧
    (x.kind = .copy → x.dstHost = none → d.loc = 0 → (sideOf a x.srcHost = .host → x.data ≠ none) → s.writeHeld l.pitch (some d) = false → TDesc.parse (s.stallsOf l.pitch) x.s1 = some a →
      TDesc.parse (s.stallsOf l.pitch) x.d = some d → s.pkDst l.pitch d = .unit n →
      s.xferFetch st x a [] [] = .got s data → s.pkrCodec l.pitch n ≠ 1 → x.enc = none → s.tableActive l.pitch = true →
      s.slotFirstFree l.pitch = none → Gives s (.encodedWritePass st ch []) fun t =>
        (t.chanOf st ch).xfers = (s.chanOf st ch).xfers.map (fun z => if z.serial = x.serial then { x with enc := some ⟨none, 0, [], true⟩ } else z) ∧
        t.mem = s.mem ∧ t.seqOf (srcChan st ch) = s.seqOf (srcChan st ch) + 1) ∧
    (s.useOf st ch = some u → u.building = true → x.enc = some tb → Gives s (.entTableBuildDone st ch) fun t =>
      XferBecomes s t st ch x { x with enc := some { tb with ready := true } } ∧ t.mem.entUse = s.mem.entUse.filter (· != u)) ∧
    (let key := fun (u : EntUse) => (s.slotId u.pitch u.slot, s.slotGen u.pitch u.slot)
     s.mem.entUse.find? (fun u => u.stall == st.val && !u.building && !(s.stall st).entHeld.contains (key u)) = some u →
      Gives s (.entDecoderTableLoad st) fun t => { t with stalls := s.stalls } = s ∧ (∀ i, i ≠ st.val → t.stall i = s.stall i) ∧
        t.stall st = { s.stall st with entHeld := (key u :: (s.stall st).entHeld).take 4 })

end

namespace Sys2Proof.Cert
open Sys2Proof.Machine

/-- A command whose whole effect is `u`, followed by what ends every front-end command. -/
def FrontEndGives (s : State) (c : Instr) (u : State) : Prop := exec c s = .next u.feDone

/-- A descriptor as it is fetched. -/
def fetched (h : W32) (b : List Byte) : Desc :=
  ⟨h, (b ++ List.replicate 64 0).take 64, false, false, none, false, none, none, 0⟩

end Sys2Proof.Cert

section
open Sys2Proof Sys2Proof.Machine Sys2Proof.Cert

/-- R317, R319, R320, R323, R324, R382, Table 13-2: a bell sets the bit of its group, whose read callers that are BUSY issue at once, but for a pitch
that resets, whose bit stays; a bell that is no bell is counted and no more; a queue's entry lies in its function's array by the rank of its group;
sleeping callers start; entries that return are scanned; and callers that find nothing come to sleep by the final scans. -/
def Obligations.CallerEvents : Prop :=
  ∀ (s : State) (fn : FnId) (g : GroupId) (off size : Nat) (data : BitVec 32) (es : List W64),
    (s.fnServes fn = true → s.mem.reqs = [] →
      (off = 0 → size = 4 → data.toNat < 64 → s.groupFn data.toNat = some fn.val → s.fe.st = .asleep →
        exec (.bellWrite fn off size data) s =
          .next { s with fe := { s.fe with pendMask := s.fe.pendMask ||| BitVec.ofNat 64 (2 ^ data.toNat) } }) ∧
      (off = 0 → size = 4 → data.toNat < 64 → s.groupFn data.toNat = some fn.val → s.fe.st = .busy → s.dieDown = false →
        s.groupOpen data.toNat = true → s.fe.pendMask = 0 → s.fe.reading.getLsbD data.toNat = false →
        exec (.bellWrite fn off size data) s =
          .next { s with fe := { s.fe with reading := s.fe.reading ||| BitVec.ofNat 64 (2 ^ data.toNat) } }) ∧
      (off = 0 → size = 4 → data.toNat < 64 → s.groupFn data.toNat = some fn.val → s.fe.st = .busy → s.groupOpen data.toNat = false →
        s.fe.pendMask = 0 → exec (.bellWrite fn off size data) s =
          .next { s with fe := { s.fe with pendMask := BitVec.ofNat 64 (2 ^ data.toNat) } }) ∧
      (¬(off = 0 ∧ size = 4 ∧ data.toNat < 64 ∧ s.groupFn data.toNat = some fn.val) → s.dieDown = false →
        exec (.bellWrite fn off size data) s = .next (s.setFld fn offAccErr 15 0 (s.fld fn offAccErr 15 0 + 1)))) ∧
    (∀ q, q < 1024 → s.groupFn (q / 16) = some fn.val → s.entryAt fn q = s.fld fn offDba 63 12 * 4096 +
      128 * ((List.range (q / 16)).filter (fun k => s.fld 0 (offBgrp k) 5 5 == 1 && s.fld 0 (offBgrp k) 4 0 == fn.val)).length + 8 * (q % 16)) ∧
    (s.fe.st = .asleep → s.dieDown = false → (s.fe.pendMask ≠ 0 ∨ s.fe.wake = true) →
      FrontEndGives s .callerStart { s with fe := { s.fe with st := .busy, wake := false, foundNew := false, passed := 0 } }) ∧
    (let b : BitVec 64 := BitVec.ofNat 64 (2 ^ g.val)
     let s1 := s.hostAsk (s.groupFn g)
     (s.awake = true → s.fe.st = .busy → s.fe.reading.getLsbD g = true →
      Gives s (.doorbellScan g es) fun t => ∃ u : State, t = u.feDone ∧
        u = State.scanGroup { s1 with fe := { s.fe with reading := s.fe.reading &&& ~~~b, passed := s.fe.passed ||| b } } g es) ∧
     (s.fe.st = .busy → s.dieDown = false → s.groupActive g = true → s.groupOpen g = true →
      FrontEndGives s (.groupRescan g es) (State.scanGroup { s1 with fe := { s.fe with passed := s.fe.passed ||| b } } g es))) ∧
    (s.dieDown = false → s.fe.st = .busy → s.fe.pendMask = 0 → s.fe.reading = 0 → s.feBusy = false → (∀ g, s.groupActive g = false) →
      s.fe.foundNew = false → Gives s .frontEndIdleCheck fun t => { t with fe := s.fe } = s ∧ t.fe.idlePending = true ∧
        t.fe.reading = s.openOf s.allGroups ∧ t.fe.st = (if s.openOf s.allGroups = 0 then .check else .final) ∧ t.fe.queues = s.fe.queues ∧ t.fe.launches = s.fe.launches) ∧
    (s.dieDown = false → s.fe.st = .check → s.fe.foundNew = false → s.fe.pendMask = 0 → s.fe.wake = false →
      exec .frontEndIdleCheck s = .next { s with fe := { s.fe with st := .asleep, idlePending := false } })

/-- R321, R573, Table 13-1: what the doorbell entry of one queue does. An SQ is told of as many new descriptors as its TAIL_SEQ is ahead of the newest
fetched, where TAIL_IDX agrees and its ring can hold them, and stops with BAD_DESCRIPTOR otherwise, as where a reserved bit is set (R4); a CQ takes the records consumed in the same
way. -/
def Obligations.DoorbellEntries : Prop :=
  ∀ (s : State) (q : Nat) (e : W64) (x : Queue), s.queue? q = some x →
    let seq := e.toNat % 2 ^ 32
    let idx := bits e.toNat 47 32
    let size := 2 ^ x.log2
    let t := s.scanEntry q e
    (bits e.toNat 63 48 = 0 → x.isCq = false → x.state = .active → s.queueOpen x = true → x.closing = none →
      let n := (BitVec.ofNat 32 seq - x.newest).toNat
      (n ≠ 0 → n ≤ size → (idx + size - x.nextIdx % size) % size = n % size →
        (t.queue? q).map (fun y => (y.toFetch, y.dbSeen, y.state)) = some (n, e, .active) ∧ t.fe.foundNew = true) ∧
      (n ≠ 0 → ¬(n ≤ size ∧ (idx + size - x.nextIdx % size) % size = n % size) →
        (t.queue? q).map (fun y => (y.toFetch, y.state, y.reason)) = some (0, .stopped, 0x11)) ∧
      (n = 0 → (t.queue? q).map (fun y => (y.toFetch, y.dbSeen, y.state)) = some (0, e, .active))) ∧
    (bits e.toNat 63 48 = 0 → x.isCq = true → x.state = .active →
      let n := (BitVec.ofNat 32 seq - x.consumed).toNat
      n ≠ 0 → n ≤ (x.newest - x.consumed).toNat → (idx + size - x.headIdx % size) % size = n % size →
        (t.queue? q).map (fun y => (y.consumed, y.headIdx, y.state)) = some (BitVec.ofNat 32 seq, idx % size, .active)) ∧
    (bits e.toNat 63 48 ≠ 0 → x.state = .active → (x.isCq = false → s.queueOpen x = true ∧ x.closing = none) →
      (t.queue? q).map (fun y => (y.state, y.reason)) = some (.stopped, 0x11)) ∧
    t.mem = s.mem ∧ t.stalls = s.stalls ∧ t.regs = s.regs

/-- R322, R338, R339, R343, R573: a descriptor whose HSEQ is the next of its queue is accepted from the slots that arrive; a CQ that waits has its entry
read; a completion record is written into the next slot of its CQ, one DSEQ on, and a status block to its place. -/
def Sys2Proof.Cert.QueueEvents : Prop :=
  ∀ (s : State) (q : QueueId) (p : PitchId) (x : Queue) (b : List Byte) (e : W64) (r : CRec),
    (s.queue? q = some x → s.awake = true → x.isCq = false → x.state = .active → s.queueOpen x = true → 0 < x.toFetch →
      (x.descs.filter (fun d => !d.started)).length < 64 → fieldAt b 4 4 = (x.newest + 1).toNat →
      Gives s (.descriptorFetch q [b]) fun t => ∃ u : State, t = u.feDone ∧
        u.queue? q = some { x with newest := x.newest + 1, nextIdx := (x.nextIdx + 1) % 2 ^ x.log2, toFetch := x.toFetch - 1,
                                   descs := x.descs ++ [fetched (x.newest + 1) b], dirty := true } ∧
        (∀ k, k ≠ q.val → u.queue? k = s.queue? k) ∧ u.fe.foundNew = true ∧ u.mem = s.mem ∧ u.stalls = s.stalls ∧ u.regs = s.regs) ∧
    (s.queue? q = some x → s.awake = true → x.isCq = true → x.waiting ≠ [] →
      FrontEndGives s (.cqDoorbellPoll q e) ((s.hostAsk (some x.fn)).scanEntry q e)) ∧
    (s.recordDue q = some (x, r) → s.pair.state = .independent → r.sq ≠ q.val → Gives s (.completionRecordWrite q) fun t => ∃ u : State, t = u.feDone ∧
      (∃ post, u.out = s.out ++ .hostWrite (BitVec.ofNat 64 (x.base.toNat + 32 * x.nextIdx))
        (r.bytes (s.stamp (srcQueue q)) (srcQueue q) (x.newest + 1)) :: post) ∧
      (u.queue? q).map (fun y => (y.newest, y.nextIdx, y.waiting)) =
        some (x.newest + 1, (x.nextIdx + 1) % 2 ^ x.log2, x.waiting.drop 1) ∧ u.mem = s.mem ∧ u.stalls = s.stalls ∧ u.regs = s.regs) ∧
    (s.queue? q = some x → x.dirty = true → s.dieDown = false → s.pair.state = .independent → s.pair.heldOut = [] →
      Gives s (.statusBlockWrite (.queue q)) fun t =>
        t.out = s.out ++ [.hostWrite x.status (x.blockBytes q (s.stamp (srcQueue q)) (x.sseq + 1))] ∧
        t.queue? q = some { x with sseq := x.sseq + 1, dirty := false } ∧ (∀ k, k ≠ q.val → t.queue? k = s.queue? k) ∧
        t.mem = s.mem ∧ t.stalls = s.stalls ∧ t.regs = s.regs) ∧
    ((s.pitch p).state ≠ .off → s.dieDown = false → s.pair.state = .independent → s.pair.heldOut = [] → s.inFlight p = [] → s.psbOn p = true →
      Gives s (.watermarkRefresh p) fun t => ∃ bs,
        t.out = s.out ++ [.hostWrite (BitVec.ofNat 64 (s.psbAddr p)) bs] ∧
        t.pitch p = { s.pitch p with sseq := (s.pitch p).sseq + 1, watermark := s.watermarkNow p, psbDirty := false } ∧
        (∀ k, k ≠ p.val → t.pitch k = s.pitch k) ∧ t.mem = s.mem ∧ t.stalls = s.stalls ∧ t.regs = s.regs)

/-- R356, R357, R359 to R361: a ready SQ whose turn it is takes a free slot of its pitch; the blocked SQ with the lowest effective priority gives its
slot up when another waits for it; under ROTATE an SQ whose time has run out gives its slot up to one that waits, and else starts its time again; and
where the callers sleep, either timer wakes them (R324). -/
def Sys2Proof.Cert.SlotEvents : Prop :=
  ∀ (s : State) (n : SlotId) (q : QueueId) (p : Nat) (x : Queue),
    let s0 := s.tidy
    let blocked := s0.slotOf n = { s0.slotOf n with queue := some q.val, pitch := p } ∧ s0.slotsGiven p ≤ (s0.slotsHeld p).length ∧
      s0.nextResident p ≠ none ∧ (s0.lowestSlot p Cond.isBlocked).map (·.1) = some n.val
    let due := s0.slotOf n = { s0.slotOf n with queue := some q.val, pitch := p } ∧ s0.rotates p = true ∧
      (s0.slotOf n).since.toNat + max 50000 (ceilDiv (s0.slice p * (s0.eff q + 1) * 1000) 8) ≤ s0.now.toNat
    (s.fe.st = .asleep → s.dieDown = false → s.pairIdle = false →
      (blocked → exec (.blockedSlotRelease n) s = .next s.wakeFront) ∧ (due → exec (.sliceExpiry n) s = .next s.wakeFront)) ∧
    (s.awake = true →
    (s0.queue? q = some x → s0.pitchOfFn x.fn = some p → s0.nextResident p = some q.val → (s0.slotOf n).queue = none →
      (s0.slotsHeld p).length < s0.slotsGiven p → Gives s (.slotAssign n q) fun t => ∃ u : State, t = u.tidy ∧
        u.slotOf n = { s0.slotOf n with queue := some q.val, pitch := p, res := (s0.slotOf n).res + 1, since := s0.now } ∧
        (∀ k, k ≠ n.val → u.slotOf k = s0.slotOf k) ∧ { u with fe := s.fe, clk := s.clk, free := s.free } = s) ∧
    (blocked → Gives s (.blockedSlotRelease n) fun t =>
        ∃ u : State, t = u.tidy ∧ u.slotOf n = { s0.slotOf n with queue := none } ∧ (∀ k, k ≠ n.val → u.slotOf k = s0.slotOf k) ∧
        { u with fe := s.fe } = s) ∧
    (due → s0.nextResident p = none → Gives s (.sliceExpiry n) fun t =>
        t.slotOf n = { s0.slotOf n with since := s0.now } ∧ (∀ k, k ≠ n.val → t.slotOf k = s0.slotOf k) ∧
        { t with fe := s.fe, clk := s.clk, free := s.free } = s) ∧
    (due → s0.nextResident p ≠ none → Gives s (.sliceExpiry n) fun t => ∃ u : State, t = u.tidy ∧
        u.slotOf n = { s0.slotOf n with queue := none } ∧ (∀ k, k ≠ n.val → u.slotOf k = s0.slotOf k) ∧
        { u with fe := s.fe, clk := s.clk, free := s.free } = s))

/-- R322, R338, R339, R343, R356, R357, R359 to R361, R573: descriptors are accepted in order, completion records and status blocks written, and slots
given and taken back. -/
def Obligations.QueueAndSlotEvents : Prop := Sys2Proof.Cert.QueueEvents ∧ Sys2Proof.Cert.SlotEvents

end

namespace Sys2Proof.Cert
open Sys2Proof.Machine

/-- The head `d` of queue `q` comes to start now as the descriptor of opcode `op`: it is examined, no check of R326 fails, and its SQ is resident
or an admin SQ. -/
def Heads (s : State) (q op : Nat) (x : Queue) (d : Desc) : Prop :=
  s.headAt q = some (x, d) ∧ s.headFails x d = none ∧ d.op = op ∧ s.mayStart q x = true

/-- A command that brings the block to `u`, starts the head `d` of `q` and completes it with a status and an INFO. -/
def EndsHead (s : State) (c : Instr) (u : State) (q : Nat) (d : Desc) (st : Status) (info : W64) : Prop :=
  FrontEndGives s c (u.endHead q d.hseq st info)

end Sys2Proof.Cert

section
open Sys2Proof Sys2Proof.Machine Sys2Proof.Cert

/-- R326, R338, R339, R367: a head that starts and completes counts as started in its queue, and its completion record with its status and INFO waits
in its CQ, after those that wait there; no memory, stall or register changes. A head that fails a check of R326 completes with that check's status. -/
def Obligations.HeadCompletes : Prop :=
  ∀ (s : State) (q : QueueId) (x c : Queue) (d : Desc) (st : Status) (info : W64),
    s.queue? q = some x → x.desc? d.hseq = some d → d.finished = false → s.queue? x.cq = some c → c.state ≠ .stopped → x.cq ≠ q.val →
    s.pair.state = .independent →
    (¬(d.quiet = true ∧ st = .ok) →
      let t := s.endHead q d.hseq st info
      (t.queue? x.cq).map (·.waiting) = some (c.waiting ++ [⟨q, d.hseq, st.code, 0, info, none⟩]) ∧
      (t.queue? q).map (fun y => (y.started, y.newest, y.nextIdx, y.doneCount)) = some (d.hseq, x.newest, x.nextIdx, x.doneCount) ∧
      t.mem = s.mem ∧ t.stalls = s.stalls ∧ t.regs = s.regs ∧ t.out = s.out ∧ t.fe.launches = s.fe.launches ∧ t.fe.fences = s.fe.fences) ∧
    (s.headAt q = some (x, d) → s.headFails x d = some st → s.installerDesc x d = false → EndsHead s (.descNop q) s q d st 0)

/-- R325, R329, R331, R352, R353: DESC_NOP completes at once; LAUNCH brings the head to PLACE; LAUNCH_PLACE starts the instances of a launch whose stalls,
splits and rows are free, each with the registers of Table 5-1, or ends it where its parameter header says that it is to be skipped; WAIT completes
once its fence has reached VALUE; SIGNAL with a higher VALUE begins its write, unless its word cannot be written; a SIGNAL whose fence is wrong
completes with or without a slot; and once the write is visible the fence entry holds the value, or keeps its own where the write was refused. -/
def Obligations.ServiceDescriptors : Prop :=
  ∀ (s : State) (q : QueueId) (x : Queue) (d : Desc) (p : Nat) (f : Fence) (n : FenceId) (entry len : Nat) (hd : List Byte) (no : Status),
    s.pitchOfFn x.fn = some p →
    (Heads s q 0x00 x d → EndsHead s (.descNop q) s q d .ok 0) ∧
    (Heads s q 0x01 x d → d.blocked = false → (d.phdr ≠ 0 ∨ s.maskFails p d.mask = none) → FrontEndGives s (.launch q)
      (s.afterNow.modQueue q (fun x => x.modDesc d.hseq (fun d => { d with blocked := true, placeTime := s.now })))) ∧
    (Heads s q 0x01 x d → d.blocked = true → d.phdr = 0 → s.maskFails p d.mask = none → s.placeable d.mask d.shape d.allot = true →
      s.firstToPlace p q d = true → s.progHeader p d.csr d.prog = .ok (some (entry, len)) → s.regionFails p d.csr = none →
      Gives s (.launchPlace q) fun t =>
        (∃ y, t.launch? s.fe.nextLaunch = some y ∧ y.pitch = p ∧ y.sq = q.val ∧ y.hseq = d.hseq ∧ y.mask = d.mask ∧ y.prog = d.prog ∧
          y.codeLen = len ∧ y.image = [] ∧ y.param = d.param ∧ y.seed = d.seed ∧ y.rows = d.allot ∧ y.ended = none ∧ y.running = maskStalls d.mask) ∧
        ∀ st ∈ maskStalls d.mask, ∀ cfg lo k, s.freeSplit st d.shape = some (cfg, lo, k) → lo < 4 →
          let e := t.ctxOf st lo
          e.live = true ∧ e.launch = s.fe.nextLaunch ∧ e.pc = BitVec.ofNat 64 entry ∧ e.getG 1 = d.param ∧ e.getG 2 = d.seed ∧
          e.getG 3 = BitVec.ofNat 64 ((maskStalls d.mask).idxOf st) ∧ e.getG 4 = BitVec.ofNat 64 lo ∧
          e.getG 5 = BitVec.ofNat 64 (maskStalls d.mask).length ∧ e.getG 6 = BitVec.ofNat 64 k ∧ (∀ r, 7 ≤ r → e.getG r = 0) ∧ e.pend = []) ∧
    (Heads s q 0x01 x d → d.blocked = true → d.phdr ≠ 0 → d.ovr = none → s.maskFails p d.mask = none → s.placeable d.mask d.shape d.allot = true →
      s.firstToPlace p q d = true → s.readDev p (some d.csr) d.phdr 64 = .ok hd → fieldAt hd 0 1 = 1 → zeroAt hd 1 7 = true → zeroAt hd 14 2 = true →
      zeroAt hd 30 34 = true → FrontEndGives s (.launchPlace q) ((s.startDesc q d.hseq).finishDesc q d.hseq .ok 4 0 none)) ∧
    (Heads s q 0x02 x d → s.fenceFails p q d false = none → s.fence? d.fence = some f → d.value ≤ f.value →
      EndsHead s (.wait q) s q d .ok 0) ∧
    (Heads s q 0x03 x d → s.fenceFails p q d true = none → s.fence? d.fence = some f →
      (d.value < f.value → EndsHead s (.signal q) s q d .badDescriptor 0) ∧
      (f.value < d.value → s.fenceWordFails p d.fence = some no → EndsHead s (.signal q) (s.fenceRefused p d.fence no) q d no 0) ∧
      (d.value = f.value → EndsHead s (.signal q) s q d .ok 0) ∧
      (f.value < d.value → s.fenceWordFails p d.fence = none → Gives s (.signal q) fun t => ∃ u : State, t = u.feDone ∧
        u.fence? d.fence = some { f with writing := some (q.val, d.hseq, d.value) } ∧ (∀ k, k ≠ d.fence → u.fence? k = s.fence? k) ∧
        u.mem = s.mem ∧ u.stalls = s.stalls ∧ u.regs = s.regs)) ∧
    (s.headAt q = some (x, d) → s.headFails x d = none → d.op = 0x03 → s.fenceFails p q d true = some no → EndsHead s (.signal q) s q d no 0) ∧
    (∀ (h : W32) (v : W64) (y : Queue), s.fence? n = some f → f.writing = some (q.val, h, v) → s.queue? f.owner = some y → s.pitchOfFn y.fn = some p →
      s.leads = false → s.fenceWordFails p n = some no → Gives s (.signalWriteVisible n) fun t =>
        t.fence? n = some { f with writing := none } ∧ (∀ k, k ≠ n.val → t.fence? k = s.fence? k) ∧ t.mem = s.mem) ∧
    (∀ (h : W32) (v : W64) (y : Queue) (pl : Place) (a : Nat), a = s.fenceWord p n →
      s.fence? n = some f → f.writing = some (q.val, h, v) → s.queue? f.owner = some y → s.pitchOfFn y.fn = some p →
      s.pair.state = .independent → s.canonical → s.fenceActive p = true → s.translate p none .write a = .ok pl → pl.replica = none →
      s.linePoison pl.unit pl.off = false → Gives s (.signalWriteVisible n) fun t =>
        t.fence? n = some { f with value := v, writing := none } ∧ (∀ k, k ≠ n.val → t.fence? k = s.fence? k) ∧
        StoresAt s t pl.unit pl.off (leBytes 8 v.toNat) ∧ t.stalls = s.stalls)

/-- R230, R255, R334 to R336, R344, R381, R546: the descriptors of Tables 13-9 to 13-11, each with its own effect, complete with the statuses the
spec gives. -/
def Obligations.AdminDescriptors : Prop :=
  ∀ (s : State) (q : QueueId) (x : Queue) (d : Desc) (p n i : Nat) (y : Queue) (h bs : List Byte) (es : List (Nat × W64)),
    let f := fieldAt d.bytes
    s.pitchOfFn x.fn = some p → s.queue? q = some x →
    (Heads s q 0x04 x d → s.readDev p none (f 8 6) 64 = .ok h → plOk h = true → s.readDev p none (f 14 6) (16 * f 20 2) = .ok bs →
      let raw := (List.range (f 20 2)).map (fun i => (bs.drop (16 * i)).take 16)
      let e := s.pageEdit p (f 8 6) h (raw.map EditRec.parse) none
      raw.all (editOk (plCap h)) = true → f 22 1 = 0 → e.stop = none →
      EndsHead s (.pageEdit q) e.s q d (if e.skipped = 0 then .ok else .badDescriptor) (BitVec.ofNat 64 e.skipped)) ∧
    (Heads s q 0x05 x d →
      (s.slotReady p (f 8 2) (f 10 1) = some i → s.slotCount p i = 0 → EndsHead s (.tableRelease q) (s.slotFree p i) q d .ok 0) ∧
      (s.slotReady p (f 8 2) (f 10 1) = some i → s.slotCount p i ≠ 0 →
        EndsHead s (.tableRelease q) (s.slotPut p i 3 (leBytes 1 3)) q d .ok 0) ∧
      (s.slotReady p (f 8 2) (f 10 1) = none → EndsHead s (.tableRelease q) s q d .tableMissing 0)) ∧
    (Heads s q 0x40 x d → s.queue? (f 8 2) = none → f 10 1 = 1 → f 14 1 = 0xFF → Gives s (.queueCreate q) fun t => ∃ u : State, t = u.feDone ∧
      ∃ z, u.queue? (f 8 2) = some z ∧ z.isCq = true ∧ z.fn = x.fn ∧ z.log2 = f 11 1 ∧ z.base = BitVec.ofNat 64 (f 16 8) ∧
        z.newest = BitVec.ofNat 32 (f 32 4) - 1 ∧ z.consumed = BitVec.ofNat 32 (f 32 4) - 1 ∧ z.state = .active ∧ z.descs = []) ∧
    (Heads s q 0x41 x d → n = f 8 2 → n ≠ q.val → s.queue? n = some y → y.isCq = false → s.adminPair n y = false →
      (∀ e ∈ s.fe.fences, e.2.owner ≠ n) → y.closing = none → y.descs = [] → Gives s (.queueDelete q) fun t => ∃ u : State, t = u.feDone ∧
        u.queue? n = some { y with toFetch := 0, closing := some (q.val, d.hseq), dirty := true } ∧ u.mem = s.mem ∧ u.stalls = s.stalls) ∧
    (Heads s q 0x43 x d → n = f 8 2 → f 10 2 = 1 → f 12 1 = 0 → s.queue? n = some y → y.isCq = false → y.state = .held →
      EndsHead s (.resume q) (s.modQueue n (fun y => { y with state := .active })) q d .ok 0) ∧
    (Heads s q 0x42 x d → f 8 1 = 0xFF → f 9 1 = 0 → s.servedPitch x.fn = some p → (s.pitch p).state = .running →
      FrontEndGives s (.resync q es)
        (let qs := s.pitchQueues p
         let s2 := (es.filter (fun e => qs.contains e.1)).foldl (fun s e => s.scanEntry e.1 e.2) (s.startDesc q d.hseq)
         ((qs.foldl (fun s n => s.writeBlock n) s2).writePsb p).finishDesc q d.hseq .ok 0 (BitVec.ofNat 64 (qs.length + b2n (s2.psbOn p))) none)) ∧
    (Heads s q 0x42 x d → f 8 1 = 0xFF → f 9 1 = 1 → s.servedPitch x.fn = some p → (s.pitch p).state = .running →
      Gives s (.resync q []) fun t => ∃ u : State, t = u.feDone ∧ ∀ m ∈ s.pitchQueues p, m ≠ q.val → ∀ z, s.queue? m = some z → z.isCq = false →
        z.state = .active → (u.queue? m).map (fun z => (z.state, z.toFetch)) = some (.held, 0)) ∧
    (Heads s q 0x44 x d → f 9 1 ≠ 0 → EndsHead s (.hostwin q)
      { s with fe := { s.fe with wins := Tab.put s.fe.wins (p * 64 + f 8 1) (BitVec.ofNat 64 (f 16 8), BitVec.ofNat 64 (f 24 8), f 9 1) } } q d .ok 0) ∧
    (Heads s q 0x44 x d → f 9 1 = 0 →
      EndsHead s (.hostwin q) { s with fe := { s.fe with wins := Tab.del s.fe.wins (p * 64 + f 8 1) } } q d .ok 0) ∧
    (Heads s q 0x45 x d → n = f 8 2 → s.queueOf x.fn n = true → s.queue? n = some y → y.isCq = false →
      let k : W32 := BitVec.ofNat 32 (f 12 4)
      let s1 := s.startDesc q d.hseq
      (2 ^ 31 ≤ (y.newest - k).toNat → FrontEndGives s (.kill q) (s1.finishDesc q d.hseq .ok 0 2 none)) ∧
      ((y.newest - k).toNat < 2 ^ 31 →
        FrontEndGives s (.kill q) ((s1.killDesc n k).1.finishDesc q d.hseq .ok 0 (BitVec.ofNat 64 (s1.killDesc n k).2) none))) ∧
    (Heads s q 0x46 x d → f 8 1 = 0xFF → s.servedPitch x.fn = some p → (s.pitch p).state = .running → Gives s (.pitchReset q) fun t =>
      (t.pitch p).state = .resetting ∧ (t.pitch p).cause = 1 ∧ (t.pitch p).scrub = (f 9 1 == 1) ∧ (t.pitch p).masked = true ∧
      (q.val, d.hseq) ∈ (t.pitch p).joined ∧ (∀ k, k ≠ p → (t.pitch k).state = (s.pitch k).state))

end

namespace Sys2Proof.Cert
open Sys2Proof.Machine

/-- A write of register `off` is not ignored, and goes to no other package; no BAR4 write of the function waits to take effect before it
(R537). -/
def Accepts (s : State) (fn off : Nat) : Prop := s.settleHost fn = s ∧ s.writeOff off = false ∧ s.pair.state = .independent

/-- The state with the audit record of an installer's write that takes effect (R521). -/
def logged (s : State) (off old new : Nat) (pitch : Option Nat) : State :=
  s.audit { action := 0x01, role := 2, result := 0, func := some 0, pitch := pitch, status := 0, target := off, old := old, new := new, detail := [] }

/-- A reset of pitch `p` with a cause has begun between `s` and `t`, and no other pitch has changed state (R382). -/
def ResetBegins (s t : State) (p cause : Nat) (scrub : Bool) : Prop :=
  (t.pitch p).state = .resetting ∧ (t.pitch p).cause = cause ∧ (t.pitch p).scrub = scrub ∧ (t.pitch p).masked = true ∧
  ∀ k, k ≠ p → (t.pitch k).state = (s.pitch k).state

/-- Register `off` of function `fn` holds `v` in `t`, and every other register holds what it held in `s`. -/
def StoresReg (s t : State) (fn off v : Nat) : Prop :=
  t.raw fn off = v ∧ ∀ f o, regKey f o ≠ regKey fn off → t.raw f o = s.raw f o

end Sys2Proof.Cert

section
open Sys2Proof Sys2Proof.Machine Sys2Proof.Cert

/-- R369, R370, R381 to R383, R387, R534: the commands that reset a pitch begin a reset with their cause; a scrub that is done has left every byte of the
pitch's space zero and no other byte changed; and the last step of a reset leaves the pitch RUNNING, or FAILED where a stack of it is off or has been since it was enabled (R297). -/
def Obligations.PitchResets : Prop :=
  ∀ (s : State) (p : PitchId) (v : W64) (fn : FnId) (n : Nat), s.canonical → s.pair.state = .independent →
    (Accepts s 0 (offPcfg p) → (s.pitch p).state = .off → s.fld 0 (offPcfg p) 24 24 = 0 → s.sec.unlocked = false → bits v.toNat 23 0 ≠ 0 →
      (∀ u, u < 24 → bit (bits v.toNat 23 0) u = true → s.unitOff u = false ∧ s.ownerOf u = none) →
      Gives s (.pitchEnable p v) fun t => ResetBegins s t p 6 true ∧ (t.pitch p).enabling = true ∧
        t.fld 0 (offPcfg p) 23 0 = bits v.toNat 23 0 ∧ t.fld 0 (offPcfg p) 24 24 = 1 ∧
        t.clk.loadPending = none) ∧
    (Accepts s 0 (offPcfg p) → (s.pitch p).state = .running → s.pcfgFixed p (setBits (s.raw 0 (offPcfg p)) 24 24 0) = false →
      Gives s (.pitchDisable p) fun t => ResetBegins s t p 7 false ∧ (t.pitch p).disabling = true ∧ t.fld 0 (offPcfg p) 24 24 = 0) ∧
    (Accepts s 0 (offPrst p) → (s.pitch p).state = .running →
      Gives s (.prstWarmCmd p) (ResetBegins s · p 2 false) ∧ Gives s (.prstScrubCmd p) (ResetBegins s · p 2 true)) ∧
    (fn.val ≠ 0 → s.fnThere fn = true → s.servedPitch fn = some p.val → (s.pitch p).state = .running →
      Gives s (.functionLevelReset fn) fun t => ResetBegins s t p 3 false ∧ (t.pitch p).teardown = true) ∧
    (Gives s (.vfDisable n) fun t => t.md.numVfs = min n s.md.numVfs ∧
      ∀ v k, n < v → v ≤ s.md.numVfs → v < 25 → s.servedPitch v = some k → (s.pitch k).state = .running →
        (t.pitch k).state = .resetting ∧ (t.pitch k).cause = 4 ∧ (t.pitch k).teardown = true) ∧
    ((s.pitch p).state = .resetting → (s.pitch p).step = 6 → (s.pitch p).zeroing = true → Gives s (.scrubZeroingDone p) fun t =>
      (∀ u off, off < 2 ^ 35 → Tab.get 0 t.mem.bytes (memKey u off) =
        if s.zeroable p (s.pitch p).whole u off = true then 0 else Tab.get 0 s.mem.bytes (memKey u off)) ∧
      t.pitch p = { s.pitch p with step := 7, zeroing := false, zeroed := true } ∧ t.stalls = s.stalls ∧ t.regs = s.regs ∧ t.bays = s.bays) ∧
    ((s.pitch p).state = .resetting → (s.pitch p).step = 7 → (s.pitch p).disabling = false →
      ((s.pitch p).scrub = true → (s.pitch p).zeroed = true) → (s.pitch p).teardown = false → Gives s (.pitchRestoreDone p) fun t =>
      (t.pitch p).state = (if ((s.pitch p).lost || (s.unitsOf p).any (fun u => s.unitOff u)) = true then .failed else .running) ∧ (t.pitch p).step = 0 ∧
      (t.pitch p).count = (s.pitch p).count + 1 ∧ (t.pitch p).masked = false ∧ (t.pitch p).joined = [])

/-- R165, R172, R173, R271, R286 to R293: the commands that set up translation, common stock and the windows into bays. -/
def Obligations.DeviceSetUp : Prop :=
  ∀ (s : State) (p : PitchId) (v : W64) (n : RegionId) (w : WinId) (sl en : Bool), s.canonical →
    let ctl := offCsCtl n
    let old := s.raw 0 ctl
    (Accepts s 0 (offXlat p) → Gives s (.xlatInval p v) fun t =>
      StoresReg s t 0 (offXlat p) (bits v.toNat 63 21 * 2 ^ 21) ∧ t.mem.bytes = s.mem.bytes ∧ t.stalls = s.stalls ∧
      ∀ k, k / 2 ^ 27 = p.val → Tab.find t.mem.tlb k = none) ∧
    (Accepts s 0 offCsres → (∀ k, (s.pitch k).state = .off) → bits v.toNat 13 0 < s.chip.part.unitBytes / 2 ^ 21 →
      exec (.csresWrite v) s = .next (s.setRaw 0 offCsres (bits v.toNat 13 0))) ∧
    (Accepts s 0 ctl → bit old 0 = false → bit v.toNat 0 = true → bit v.toNat 6 = false → s.csBusy n = false → (s.region n).state = .off →
      (s.setRaw 0 ctl (csFixedMask v.toNat + bits v.toNat 1 0)).csReady n = true → Gives s (.csEnable n v) fun t =>
      (t.region n).state = (if bit v.toNat 1 then .sealed else .load) ∧ t.raw 0 ctl = csFixedMask v.toNat + bits v.toNat 1 0 ∧
      (∀ k, k ≠ n.val → t.region k = s.region k) ∧ t.mem.bytes = s.mem.bytes) ∧
    (Accepts s 0 ctl → old = csFixedMask old + bits old 1 0 → bit old 0 = true → s.csBusy n = false →
      ((s.region n).state = .load → Gives s (.csSeal n true) fun t => (t.region n).state = .sealed ∧
        (∀ k, k ≠ n.val → t.region k = s.region k) ∧ t.mem.bytes = s.mem.bytes) ∧
      ((s.region n).state = .sealed → Gives s (.csSeal n false) fun t => (t.region n).state = .load ∧
        (∀ k, k ≠ n.val → t.region k = s.region k) ∧ t.mem.bytes = s.mem.bytes) ∧
      ((s.region n).state = .quarantined → s.csDirty n = false → Gives s (.lift n) fun t => (t.region n).state = .sealed ∧
        (∀ k, k ≠ n.val → t.region k = s.region k) ∧ t.mem.bytes = s.mem.bytes)) ∧
    ((s.region n).held = some (sl, en) → s.csBusy n = false → (s.region n).state = .load → Gives s (.csStateDeferred n) fun t =>
      t.region n = ⟨if en then (if sl then .sealed else .load) else .off, none⟩ ∧ (∀ k, k ≠ n.val → t.region k = s.region k) ∧
      { t with mem := s.mem } = s ∧ { t.mem with regions := s.mem.regions } = s.mem) ∧
    (s.winOpen w = false → s.winReady w = true → Gives s (.windowForce w) fun t => t.winOpen w = true ∧
      (t.stall (s.winStall w)).pwr = .active ∧ (∀ k, k ≠ w.val → t.winOpen k = s.winOpen k) ∧ t.mem = s.mem ∧ t.bays = s.bays) ∧
    (Accepts s 0 (offBayWin w) → s.raw 0 (offBayWin w) = 0 → bits v.toNat 13 8 < 48 → bits v.toNat 27 16 ≤ bits v.toNat 39 28 →
      bits v.toNat 39 28 ≤ 3071 → (∀ k, k ≠ w.val → s.winOpen k = false) → s.stallHeld (bits v.toNat 13 8) = false →
      Gives s (.baywinOpen w v) fun t => t.winOpen w = true ∧ t.winStall w = bits v.toNat 13 8 ∧ t.winBay w = bits v.toNat 15 14 ∧
        t.winFirst w = bits v.toNat 27 16 ∧ t.winLast w = bits v.toNat 39 28 ∧ t.mem = s.mem) ∧
    (Accepts s 0 (offBayWin w) → s.winOpen w = true → Gives s (.baywinClose w) fun t => t.winOpen w = false ∧ t.fld 0 (offBayWin w) 0 0 = 0 ∧
      (∀ k, k ≠ w.val → t.winOpen k = s.winOpen k) ∧ t.mem = s.mem ∧ t.stalls = s.stalls)

end

section
open Sys2Proof Sys2Proof.Machine Sys2Proof.Cert

/-- R347 to R349, R457, R544 to R547: the operations on a function's set-up registers: the fence table, the admin pair, the pitch block and the retained
copies. Each takes effect where the function serves a pitch. -/
def Obligations.FunctionSetUp : Prop :=
  ∀ (s : State) (fn : FnId) (p : Nat) (i : FenceId) (q : QueueId) (x : Queue) (f : Fence) (v : W64), s.canonical →
    s.settleHost fn = s → s.fnThere fn = true → s.servedPitch fn = some p → s.dieDown = false → s.pair.state = .independent →
    let r := s.fenceRange p
    (r.1 ≤ i.val → i.val < r.1 + r.2 →
      (∀ o, (s.fence? i).map (·.owner) = o → exec (.fenceQuery fn i) s = .next (s.fnShow fn i 0 o true)) ∧
      (s.fence? i = none → s.queue? q = some x → x.isCq = false → x.fn = fn.val → s.fenceWordFails p i = none →
        Gives s (.fenceDefine fn i q) fun t => t.fence? i = some ⟨q.val, 0, none⟩ ∧ (∀ k, k ≠ i.val → t.fence? k = s.fence? k) ∧
          t.fld fn offFnDef 29 28 = 1 ∧ t.fe.queues = s.fe.queues ∧ t.stalls = s.stalls) ∧
      (s.fence? i = some f → f.writing = none →
        (∀ e ∈ s.fe.queues, ∀ d, e.2.head? = some d → ¬(e.2.isCq = false ∧ d.op = 2 ∧ d.blocked = true ∧ d.fence = i.val)) →
        exec (.fenceUndefine fn i) s =
          .next (State.fnShow { s with fe := { s.fe with fences := Tab.del s.fe.fences i } } fn i 2 none true)) ∧
      (s.fence? i = some f → exec (.fenceDefine fn i q) s = .next (s.fnShow fn i 1 none false))) ∧
    (s.raw fn offAqCfg = 0xFF * 2 ^ 48 → State.aqReady (s.setRaw fn offAqCfg (blend (0xFF * 2 ^ 48) (setBits v.toNat 0 0 1) (fnRw offAqCfg))) fn = true →
      Gives s (.aqEnable fn v) fun t => t.fld fn offAqCfg 1 1 = 1 ∧
        (∃ y, t.queue? (bits v.toNat 25 16) = some y ∧ y.isCq = false ∧ y.admin = true ∧ y.fn = fn.val ∧ y.cq = bits v.toNat 41 32 ∧ y.newest = 0xFFFFFFFF) ∧
        ∃ y, t.queue? (bits v.toNat 41 32) = some y ∧ y.isCq = true ∧ y.fn = fn.val) ∧
    (s.fld fn offAqCfg 1 0 = 3 → s.fld fn offAqCfg 63 63 = 0 → s.fld fn offAqCfg 25 16 = q.val → s.queue? q = some x → x.descs = [] →
      Gives s (.aqDisable fn) fun t => ∃ u : State, t = u.feDone ∧ u.fld fn offAqCfg 63 63 = 1 ∧ u.fld fn offAqCfg 0 0 = 0 ∧
        u.queue? q = some { x with toFetch := 0, dirty := true } ∧ u.mem = s.mem ∧ u.stalls = s.stalls) ∧
    (s.raw fn offPsb = 0 → Gives s (.psbEnable fn v) fun t =>
      (∃ bs, t.out = s.out ++ [.hostWrite (BitVec.ofNat 64 (bits v.toNat 63 6 * 64)) bs]) ∧
      (t.pitch p).sseq = (s.pitch p).sseq + 1 ∧ t.psbOn p = true ∧ t.mem = s.mem ∧ t.stalls = s.stalls) ∧
    (Gives s (.dumpRelease fn) fun t => t.fld fn offDumpBase 2 2 = 0 ∧ t.fld fn offDumpBase 0 0 = s.fld fn offDumpBase 0 0 ∧
      (∀ g o, regKey g o ≠ regKey fn offDumpBase → t.raw g o = s.raw g o) ∧ t.mem = s.mem ∧ t.stalls = s.stalls ∧ t.fe = s.fe)

/-- R242, R253, R416, R542, R548: a change of EN that had to wait takes effect once the pitch has no launch in flight, or its mailbox nothing that uses
it; what keeps the rules comes into force, and an EN of 0 takes it out, which waits while a posted buffer or a PSEND uses the mailbox. -/
def Obligations.EnableEffects : Prop :=
  ∀ (s : State) (p : PitchId) (n : RegionId) (m : Fin 256), s.canonical → s.inFlight p = [] → s.pair.state = .independent →
    (s.pfld p (offPkr n) 63 63 = 1 →
      (s.pfld p (offPkr n) 0 0 = 1 → (s.setFld (s.fnOf p) (offPkr n) 63 63 0).pkrReady p n = true → Gives s (.pkrEnEffect p n) fun t =>
        t.pkrActive p n = true ∧ t.pfld p (offPkr n) 63 63 = 0 ∧ (∀ k, k ≠ n.val → k < 16 → t.pkrActive p k = s.pkrActive p k) ∧ t.mem = s.mem) ∧
      (s.pfld p (offPkr n) 0 0 = 0 → Gives s (.pkrEnEffect p n) fun t => t.pkrActive p n = false ∧ t.pfld p (offPkr n) 63 63 = 0 ∧ t.mem = s.mem)) ∧
    (s.pfld p offPktbl 63 63 = 1 →
      (s.pfld p offPktbl 0 0 = 0 → Gives s (.tableAreaEnable p) fun t => t.tableActive p = false ∧ t.pfld p offPktbl 63 63 = 0 ∧ t.mem = s.mem) ∧
      (s.pfld p offPktbl 0 0 = 1 → s.mapped p (s.tableArea p).1 (s.tableArea p).2 = true → s.inRegion p (s.tableArea p).1 (s.tableArea p).2 = false →
        s.fctActive p = false → Gives s (.tableAreaEnable p) fun t => t.tableActive p = true ∧ t.pfld p offPktbl 63 63 = 0)) ∧
    (s.pfld p offFctBase 63 63 = 1 →
      (s.pfld p offFctBase 0 0 = 0 → Gives s (.fctEnEffect p) fun t => t.fctActive p = false ∧ t.pfld p offFctBase 63 63 = 0 ∧ t.mem = s.mem) ∧
      (s.pfld p offFctBase 0 0 = 1 → 1 ≤ s.frames p → s.frames p ≤ 2 ^ 26 → s.privWritable p (s.fctArea p).1 (s.fctArea p).2 = true →
        s.inPacked p (s.fctArea p).1 (s.fctArea p).2 = false → s.tableActive p = false → s.inFences p (s.fctArea p).1 (s.fctArea p).2 = false →
        Gives s (.fctEnEffect p) fun t => t.fctActive p = true ∧ t.pfld p offFctBase 63 63 = 0 ∧ t.mem = s.mem)) ∧
    (s.pfld p (offIbox m) 63 63 = 1 → s.pfld p (offIbox m) 0 0 = 0 → s.inboxBusy p m = false → Gives s (.mailboxDisableEffect p true m) fun t =>
      t.pfld p (offIbox m) 1 1 = 0 ∧ t.pfld p (offIbox m) 63 63 = 0 ∧ t.mem = s.mem ∧ t.stalls = s.stalls) ∧
    (s.pfld p (offIbox m) 63 63 = 1 → s.pfld p (offIbox m) 0 0 = 0 → s.inboxBusy p m = true → exec (.mailboxDisableEffect p true m) s = .next s) ∧
    (s.pfld p (offObox m) 63 63 = 1 → s.pfld p (offObox m) 0 0 = 0 →
      (s.outboxBusy p m = true → exec (.mailboxDisableEffect p false m) s = .next s) ∧
      (s.outboxBusy p m = false → Gives s (.mailboxDisableEffect p false m) fun t => t.pfld p (offObox m) 1 1 = 0 ∧
        t.pfld p (offObox m) 63 63 = 0 ∧ t.mem = s.mem ∧ t.stalls = s.stalls))

/-- R373, R375 to R377, R391, R405, R451, R480, R521, R534, R538, R541, R549: MSI-X vectors, the consumed counts of full rings, register writes, the requests of the
PCIe hierarchy, and what an error of each kind of the FK2's own reads does. -/
def Obligations.HostCommands : Prop :=
  ∀ (s : State) (fn : FnId) (vc : VectorId) (k : Fin 25) (p : PitchId) (n : W64) (m : Fin 4) (q : QueueId) (x : Queue) (off size : Nat)
      (r : CfgReq) (g : GroupId) (st : StallId) (ch : ChanId) (z : Xfer) (a : W64),
    s.canonical →
    (let y := s.msiOf fn vc
     Tab.rising s.msi = true → s.pair.heldOut = [] →
      (0 < y.count → y.t0.toNat + y.hold * 1000 ≤ s.now.toNat → s.msiMasked fn vc = false → Gives s (.msixHoldExpiry fn vc) fun t =>
        t.msiOf fn vc = { y with count := 0, sent := y.sent + 1 } ∧ t.out = s.out ++ [.msix fn vc y.addr y.data] ∧
        { t with msi := s.msi, out := s.out, clk := s.clk, free := s.free } = s) ∧
      (s.settleHost fn = s → s.fnThere fn = true → vc.val < s.tableSize fn → s.md.fnMask.getLsbD fn = false → Gives s (.msixUnmask fn vc) fun t =>
        let sent := y.pend && !s.fnIdle fn
        t.msiOf fn vc = { y with mask := false, pend := y.pend && !sent } ∧
        t.out = s.out ++ (if sent = true then [.msix fn vc y.addr y.data] else []) ∧ { t with msi := s.msi, out := s.out } = s)) ∧
    (let r := s.dbk[k]
     let f := s.flt[k]
     (s.ringActive (s.dbkReg k) 8 20 = true → r.full (s.ringSize (s.dbkReg k)) = true → r.gap = 0 → n ≤ r.written →
      (r.written - n).toNat ≤ s.ringSize (s.dbkReg k) → Gives s (.daybookHeadPoll (.daybook k) n) fun t =>
        { t with dbk := s.dbk, hostAcc := s.hostAcc } = s ∧ t.dbk = s.dbk.setIfInBounds k { r with consumed := n }) ∧
     (s.ringActive (s.fltReg k) 6 16 = true → f.full (s.ringSize (s.fltReg k)) = true → n ≤ f.written →
      (f.written - n).toNat ≤ s.ringSize (s.fltReg k) → Gives s (.daybookHeadPoll (.fault k) n) fun t =>
        { t with flt := s.flt, hostAcc := s.hostAcc } = s ∧ t.flt = s.flt.setIfInBounds k { f with consumed := n })) ∧
    (let r := s.rcl[p]
     let sz := s.pfld p offRclSize 16 0
     s.rclActive p = true → r.full sz = true → n ≤ r.written → (r.written - n).toNat ≤ sz → Gives s (.reclaimHeadPoll p n) fun t =>
       { t with rcl := s.rcl, hostAcc := s.hostAcc } = s ∧ t.rcl = s.rcl.setIfInBounds p { r with consumed := n }) ∧
    (Accepts s 0 offModPair → s.d1536 = true → s.livePitches = [] → m.val = 1 ∨ m.val = 2 →
      exec (.modeWrite m) s = .next { logged s offModPair s.pairView m none with pair := { s.pair with mode := m, state := .joining } }) ∧
    (Accepts s 0 offHangWin → Gives s (.registerWrite 0 offHangWin 8 n false) fun t =>
      StoresReg s t 0 offHangWin (blend (s.raw 0 offHangWin) n.toNat (mask 16 0)) ∧ t.mem = s.mem ∧ t.fe = s.fe ∧ t.stalls = s.stalls) ∧
    (s.settleHost fn = s → s.fnThere fn = true → s.dieDown = false → (size ≠ 8 ∨ off % 8 ≠ 0) →
      exec (.registerWrite fn off size n false) s = .next (s.setFld fn offAccErr 31 16 (s.fld fn offAccErr 31 16 + 1))) ∧
    (s.settleHost fn = s → s.fnThere fn = true → s.dieDown = false → exec (.registerWrite fn off size n true) s = .next (s.setFld fn offAccErr 31 16 (s.fld fn offAccErr 31 16 + 1))) ∧
    (s.settleHost fn = s → s.fnThere fn = true → off % 8 = 0 →
      (off < 0x10000 → fnNamed off = true → exec (.registerWrite fn off 8 n false) s = .next (s.fnWrite fn off n.toNat)) ∧
      (0x10000 ≤ off → fn.val = 0 → pfNamed off = true → exec (.registerWrite fn off 8 n false) s = .next (s.pfWrite off n.toNat)) ∧
      (s.dieDown = false → (if off < 0x10000 then fnNamed off else fn.val == 0 && pfNamed off) = false →
        exec (.registerWrite fn off 8 n false) s = .next (s.setFld fn offAccErr 31 16 (s.fld fn offAccErr 31 16 + 1)))) ∧
    (Accepts s 0 offGhDumpCfg → Gives s .stocktakeRelease fun t => t.fld 0 offGhDumpCfg 8 8 = 0 ∧
      (∀ g o, regKey g o ≠ regKey 0 offGhDumpCfg → t.raw g o = s.raw g o) ∧ t.mem = s.mem ∧ t.stalls = s.stalls) ∧
    (s.md.hostUp = false ∨ s.fnThere fn = false → exec (.pcieConfigRequest fn r) s = .next s) ∧
    (s.md.hostUp = true → s.fnThere fn = true → s.md.started = false → exec (.pcieConfigRequest fn r) s = .next { s with out := s.out ++ [.config fn none] }) ∧
    (s.md.hostUp = true → s.fnThere fn = true → s.md.started = true → exec (.pcieConfigRequest fn (.fnMask true)) s =
      .next { s with md := { s.md with fnMask := s.md.fnMask ||| BitVec.ofNat 25 (2 ^ fn.val) }, out := s.out ++ [.config fn (some [])] }) ∧
    (s.md.hostUp = true → s.fnThere fn = true → s.md.started = true → exec (.pcieConfigRequest fn (.read off)) s =
      .next { s with free := s.free + 1, out := s.out ++ [.config fn (some [Config.cfgRead s.free fn off])] }) ∧
    (s.md.hostUp = true → s.fnThere fn = true → s.md.started = true →
      exec (.pcieConfigRequest fn .ident) s = .next { s with out := s.out ++ [.config fn (some (s.cfgIdent fn))] }) ∧
    (s.md.hostUp = true → s.fnThere fn = true → s.md.started = true →
      exec (.pcieConfigRequest fn .msixSize) s = .next { s with out := s.out ++ [.config fn (some [s.tableSize fn])] }) ∧
    (s.md.hostUp = true → s.md.started = true → s.md.numVfs ≤ off → exec (.pcieConfigRequest 0 (.numVfs off)) s =
      .next { s with md := { s.md with numVfs := min off 24 }, out := s.out ++ [.config 0 (some [])] }) ∧
    (s.queue? q = some x → s.awake = true → x.isCq = false → x.state = .active → s.queueOpen x = true → 0 < x.toFetch →
      Gives s (.pcieCompletionError (.fetch q)) fun t => t.queue? q = some { x with toFetch := 0, dirty := true } ∧
        t.md.aer = s.md.aer ||| BitVec.ofNat 25 (2 ^ x.fn) ∧ (∀ j, j ≠ q.val → t.queue? j = s.queue? j) ∧
        t.mem = s.mem ∧ t.stalls = s.stalls ∧ t.regs = s.regs) ∧
    (s.queue? q = some x → s.awake = true → x.isCq = true → x.waiting ≠ [] → Gives s (.pcieCompletionError (.cqCount q)) fun t =>
      { t with md := s.md, hostAcc := s.hostAcc } = s ∧ t.md = { s.md with aer := s.md.aer ||| BitVec.ofNat 25 (2 ^ x.fn) }) ∧
    (Gives s (.pcieCompletionError (.ringCount (.daybook k))) fun t => { t with md := s.md, hostAcc := s.hostAcc } = s ∧
      t.md = { s.md with aer := s.md.aer ||| BitVec.ofNat 25 (2 ^ (s.dbkReg k).1) }) ∧
    (Gives s (.pcieCompletionError (.ringCount (.fault k))) fun t => { t with md := s.md, hostAcc := s.hostAcc } = s ∧
      t.md = { s.md with aer := s.md.aer ||| BitVec.ofNat 25 (2 ^ (s.fltReg k).1) }) ∧
    (Gives s (.pcieCompletionError (.rclCount p)) fun t => { t with md := s.md, hostAcc := s.hostAcc } = s ∧
      t.md = { s.md with aer := s.md.aer ||| BitVec.ofNat 25 (2 ^ s.fnOf p) }) ∧
    (s.awake = true → s.fe.reading.getLsbD g = true → Gives s (.pcieCompletionError (.scan g)) fun t => ∃ u : State, t = u.feDone ∧
      { u with fe := s.fe, md := s.md, hostAcc := s.hostAcc } = s ∧ u.fe.queues = s.fe.queues ∧ u.fe.reading.getLsbD g = false) ∧
    ((s.chanOf st ch).actor? = some z → z.srcHost = some a → exec (.pcieCompletionError (.porter st ch)) s =
      .next ((s.logAer (some (s.fnOf (s.pitchOfLaunch z.launch)))).xferErr st ch z (.poison a.toNat)))

end

namespace Sys2Proof.Cert
open Sys2Proof.Machine

/-- Link `i` is `l` in `t`, and every other link is what it was in `s`. -/
def LinkBecomes (s t : State) (i : Nat) (l : Link) : Prop := t.link i = l ∧ ∀ k, k ≠ i → t.link k = s.link k

/-- No port waits to report a link that does not match the plan (R428). -/
def WiringQuiet (s : State) : Prop := ∀ i, (s.link i).unreported = false

/-- FK time is steered toward an offset: the way that removes it, by at most 500 ppm (R395 to R397). -/
def SlewsBy (t : State) (th : Int) : Prop := t.clk.rate.sign = th.sign ∧ -maxSlew ≤ t.clk.rate ∧ t.clk.rate ≤ maxSlew

/-- A record of a link's fault and nothing else has come between `s` and `u` (R452). -/
def Notes (s u : State) : Prop := u.net = s.net ∧ u.mem = s.mem ∧ u.bays = s.bays ∧ u.stalls = s.stalls ∧ u.regs = s.regs ∧ u.fe = s.fe

/-- The state with one flit of a kind sent on a link, repeating a sequence number. -/
def sentBytes (s : State) (i kind : Nat) : Out :=
  let l := s.link i
  .link i kind (flitBytes l.txSeq.toNat l.rxSeq.toNat kind 0 l.reportVc (l.freed[l.reportVc]?.getD 0) [])

end Sys2Proof.Cert

section
open Sys2Proof Sys2Proof.Machine Sys2Proof.Cert

/-- R391, R392, R394 to R397: loading and steering FK time, the slow clock's tick, an edge of PPS_IN, and the exchanges of a follower. -/
def Obligations.TimeEvents : Prop :=
  ∀ (s : State) (v x : W64) (n i : Nat) (ls : List Nat) (m : Msg),
    (Accepts s 0 offTimeLoad → s.livePitches = [] →
      exec (.timeLoad v) s = .next ((logged s offTimeLoad 0 v.toNat none).modClk (fun c => { c with loadPending := some v }))) ∧
    (Accepts s 0 offTimeLoad → s.livePitches ≠ [] → Gives s (.timeLoad v) fun t => t.clk.loadPending = s.clk.loadPending ∧ t.clk.time = s.clk.time) ∧
    (Accepts s 0 offTsync → s.canonical → Gives s (.tsyncWrite v) fun t =>
      StoresReg s t 0 offTsync (Nat.land v.toNat (mask 3 0 + mask 10 8 + mask 23 16)) ∧ t.clk.time = s.clk.time ∧
      t.clk.tstate = (if bits v.toNat 1 0 = 1 then (if bit v.toNat 2 then tsAcquiring else tsLocked)
        else if bits v.toNat 1 0 = 2 then tsAcquiring else tsFree) ∧ t.clk.hops = (if bits v.toNat 1 0 = 1 then 0 else 255)) ∧
    ((s.clk.loadPending = none ∨ s.fld 0 offTsync 3 3 = 1) → Gives s .slowClockTick fun t =>
      { t with clk := s.clk } = s ∧ t.clk.time = s.clk.time + 40 + BitVec.ofInt 64 ((s.clk.frac + s.clk.rate) / 2 ^ 32) ∧
      t.clk.frac = (s.clk.frac + s.clk.rate) % 2 ^ 32) ∧
    (s.clk.loadPending = some x → s.fld 0 offTsync 3 3 = 0 → s.livePitches = [] → Gives s .slowClockTick fun t =>
      t.clk.time = x ∧ t.clk.valid = true ∧ t.clk.loadPending = none ∧ t.mem = s.mem ∧ t.stalls = s.stalls) ∧
    (s.clk.loadPending = some x → s.fld 0 offTsync 3 3 = 0 → s.livePitches ≠ [] → Gives s .slowClockTick fun t =>
      { t with clk := s.clk } = s ∧ t.clk = { s.clk.tick with loadPending := none }) ∧
    (s.tsRole ≠ 1 → exec .ppsEdge s = .next s) ∧
    (s.tsRole = 1 → s.fld 0 offTsync 2 2 = 0 → s.fld 0 offTsync 3 3 = 1 → s.clk.loadPending = some x → s.livePitches = [] → Gives s .ppsEdge fun t =>
      t.clk.time = x ∧ t.clk.valid = true ∧ t.clk.loadPending = none) ∧
    (s.tsRole = 1 → s.fld 0 offTsync 2 2 = 1 → s.fld 0 offTsync 3 3 = 0 → ∃ p, p = s.now ∧ Gives s .ppsEdge fun t =>
      t.clk.theta = ppsTheta p.toNat ∧ t.clk.time = s.clk.time ∧
      ((100000 < (ppsTheta p.toNat).natAbs → t.clk.ppsBad = (s.clk.ppsBad + 1) % 2 ^ 16 ∧ t.clk.ppsOk = false ∧ t.clk.rate = s.clk.rate) ∧
       ((ppsTheta p.toNat).natAbs ≤ 100000 → s.clk.ppsLast = none → t.clk.ppsBad = s.clk.ppsBad ∧
         t.clk.ppsLast = some p ∧ t.clk.ppsRun = s.clk.ppsRun + 1 ∧ SlewsBy t (ppsTheta p.toNat)))) ∧
    (s.tsRole = 2 → s.clk.exch = none → s.trainedLinks (s.fld 0 offTsync 10 8) = i :: ls → Gives s .tsyncExchange fun t =>
      ∃ u : State, t = u.control i mtTsyncReq 0 [] ∧ u.clk.exch = some s.now ∧ u.net = s.net ∧ u.out = s.out) ∧
    (s.msg? n = some m → m.mtype = mtTsyncReq → m.link = some i → Gives s (.tsyncRequest n) fun t =>
      ∃ (u : State) (t3 : Nat), t = u.control i mtTsyncRep 0 (Config.tsyncReply s.now.toNat t3 s.clk.tstate s.clk.hops) ∧
        u.net = (s.takeMsg m).net ∧ u.clk.time = s.clk.time) ∧
    (s.msg? n = some m → m.mtype = mtTsyncRep → m.link = some i → s.tsRole = 2 → i / 4 = s.fld 0 offTsync 10 8 → s.clk.exch = some x →
      let f := Config.tsyncFields m.data
      let th := exchTheta x (BitVec.ofNat 64 f.1) (BitVec.ofNat 64 f.2.1) s.now
      let de := exchDelay x (BitVec.ofNat 64 f.1) (BitVec.ofNat 64 f.2.1) s.now
      Gives s (.tsyncReply n) fun t =>
        t.clk.theta = th ∧ t.clk.delay = de ∧ t.clk.exch = none ∧ t.clk.exchFail = 0 ∧ t.clk.hops = (if 255 ≤ f.2.2.2 then 255 else min 255 (f.2.2.2 + 1)) ∧
        (s.clk.tstate = tsLocked → f.2.2.1 ≠ tsLocked → t.clk.tstate = tsHoldover ∧ t.clk.rate = s.clk.rate) ∧
        (s.clk.tstate = tsLocked → f.2.2.1 = tsLocked → t.clk.tstate = tsLocked ∧ SlewsBy t th) ∧
        (s.clk.tstate = tsAcquiring → s.livePitches = [] → t.clk.time = s.clk.time + BitVec.ofInt 64 th ∧ t.clk.valid = true))

/-- R411, R420, R427 to R429, R472, R475: a port written enabled, disabled or accepted, and the states its links pass through. -/
def Obligations.LinkStates : Prop :=
  ∀ (s : State) (n : PortId) (k : Fin 4) (v : W64) (i : LinkId) (l : Link), s.canonical → s.link i = l →
    (Accepts s 0 (offPort n) → s.raw 0 (offPort n) = 0 → (∀ j, s.link j = Link.reset) → s.pair.portsHeld = false → bit v.toNat 2 = false →
      Gives s (.portEnable n v) fun t => StoresReg s t 0 (offPort n) (Nat.land (setBits v.toNat 0 0 1) (1 + portFixed)) ∧
        (t.link (4 * n + k)).state = .train ∧ (∀ j, j / 4 ≠ n.val → t.link j = s.link j)) ∧
    (Accepts s 0 (offPort n) → s.fld 0 (offPort n) 0 0 = 1 → (∀ j ∈ portLinks n, s.link j = { Link.reset with state := .train }) → s.net.held = [] →
      s.fld 0 (offPort n) 2 2 = 0 → Gives s (.portDisable n) fun t => (t.link (4 * n + k)).state = .off ∧ t.fld 0 (offPort n) 0 0 = 0 ∧
        (∀ j, j / 4 ≠ n.val → t.link j = s.link j) ∧ t.mem = s.mem) ∧
    (Accepts s 0 (offPort n) → s.fld 0 (offPort n) 0 0 = 1 → i.val = 4 * n + k → l.state = .quarantined → Gives s (.accept n) fun t =>
      ∃ u : State, t = u.pumpAll ∧ u.link i = { l with state := .routed, unreported := false } ∧ u.out = s.out ∧
        ∀ j, j / 4 ≠ n.val → u.link j = s.link j) ∧
    (l.state = .train → s.md.cableOff.getLsbD (i.val / 4) = false → l.pairOut = false → l.half = false → s.health.replace = false →
      Gives s (.linkTrained i true) fun t => ∃ u : State, t = u.sendIdent i ∧ LinkBecomes s u i { l with state := .ident } ∧
        { u with net := s.net } = s) ∧
    (l.state = .train → s.md.cableOff.getLsbD (i.val / 4) = false → Gives s (.linkTrained i false) fun t => ∃ u : State, t = u.sendIdent i ∧
        LinkBecomes s u i { l with state := .ident, half := true, pairOut := true }) ∧
    (l.state = .train → Gives s (.linkTrainTimeout i) fun t => ∃ u : State, u = s.linkFault i l.txSeq.toNat 3 ∧ Notes s u ∧
      LinkBecomes u t i { l with down := l.down + 1 } ∧ { t with net := u.net } = u) ∧
    (l.state = .ident → exec (.identTimeout i) s =
      .next (s.control i mtIdent (s.chipId + (i / 4) * 2 ^ 12 + (i % 4) * 2 ^ 16 + s.net.epoch.toNat * 2 ^ 32) [])) ∧
    (l.state = .routed ∨ l.state = .quarantined → l.heads = [] → s.net.held = [] → i.val / 4 ≠ 7 → Gives s (.lossOfSignal i) fun t =>
      ∃ u : State, u = s.linkFault i l.txSeq.toNat 2 ∧ Notes s u ∧ (t.link i).state = .train ∧ (t.link i).down = l.down + 1 ∧ (t.link i).waiting = [] ∧ (t.link i).kept = [] ∧
      (∀ j, j ≠ i.val → t.link j = s.link j) ∧ t.mem = s.mem ∧ t.out = u.out) ∧
    (l.trained = true → l.half = false → l.heads = [] → s.net.held = [] → i.val / 4 ≠ 7 → Gives s (.laneErrorRatioCheck i) fun t =>
      (t.link i).state = .train ∧ (t.link i).pairOut = true ∧ (∀ j, j ≠ i.val → t.link j = s.link j)) ∧
    (WiringQuiet s → exec (.wiringWaitExpiry n) s = .next s) ∧
    (∀ (a : Nat × Nat × Nat) (b : Nat) (y : Nat × Nat × Nat), l.unreported = true → i.val / 4 = n.val → s.portSeen n = some a →
      ((List.range 8).find? (fun b => b != n.val && s.planOf b == some (a.1, a.2.1)) = none → exec (.wiringWaitExpiry n) s = .next (s.wiringMismatch n)) ∧
      ((List.range 8).find? (fun b => b != n.val && s.planOf b == some (a.1, a.2.1)) = some b → s.portSeen b = some y → s.planOf n = some (y.1, y.2.1) →
        exec (.wiringWaitExpiry n) s = .next (s.wiringSwap n b a y)))

/-- R427, R428, R436, R437: IDENT compares what a link sees with its port's plan, and PEER_EPOCH teaches an epoch and goes on, once, to every other live link. -/
def Sys2Proof.Cert.IdentAndEpochs : Prop :=
  ∀ (s : State) (n : Nat) (m : Msg) (i : LinkId),
    let c := bits m.arg 11 0
    let port := bits m.arg 14 12
    s.msg? n = some m → m.link = some i.val →
    (m.mtype = mtIdent → (s.link i).state = .ident → s.learns c (bits m.arg 47 32) false = false →
      (s.planOf (i / 4) = some (c, port) → bits m.arg 17 16 = i % 4 → Gives s (.ident n) fun t =>
        ∃ u : State, t = (List.range 8).foldl (fun s n => s.decideWiring n false) u.pumpAll ∧ (u.link i).state = .routed ∧ (u.link i).seen = some (c, port, i.val % 4) ∧
          (∀ j, j ≠ i.val → u.link j = s.link j) ∧ { u with net := s.net } = s) ∧
      (s.planOf (i / 4) ≠ some (c, port) ∨ bits m.arg 17 16 ≠ i % 4 → Gives s (.ident n) fun t =>
        (t.link i).state = .quarantined ∧ (t.link i).seen = some (c, port, bits m.arg 17 16))) ∧
    (m.mtype = mtPeerEpoch →
      (s.learns c (bits m.arg 31 16) (bit m.arg 32) = false → exec (.peerEpoch n) s = .next (s.takeMsg m)) ∧
      (s.learns c (bits m.arg 31 16) (bit m.arg 32) = true → exec (.peerEpoch n) s =
        .next (((s.takeMsg m).newEpoch c (bits m.arg 31 16)).sendEpoch c (bits m.arg 31 16) (bit m.arg 32) (some i)))) ∧
    (∀ e : Nat, c ≠ s.chipId → epochBefore (s.epochOf c) e = true → s.learns c e false = true)

/-- R412 to R414, R444: what a receiver does with a flit, and a sender's replay and its failure. A head or body flit gives its place back as it
leaves it, which is the model's choice (log entry 164). -/
def Sys2Proof.Cert.FlitRules : Prop :=
  ∀ (s : State) (i : LinkId) (b : List Byte) (fec : Bool) (ack : BitVec 16) (l : Link), s.link i = l → l.trained = true →
    (flitGood b fec = false → fieldAt b 4 1 = 0 → exec (.flitReceive i b fec) s = .next (s.sendFlit i 0 0 [])) ∧
    (flitGood b fec = false ∧ fieldAt b 4 1 ≠ 0 ∨
        flitGood b fec = true ∧ 1 ≤ fieldAt b 4 1 ∧ fieldAt b 4 1 ≤ 4 ∧ fieldAt b 0 2 ≠ (l.rxSeq + 1).toNat → Gives s (.flitReceive i b fec) fun t =>
      LinkBecomes s t i { l.reported with retries := l.retries + 1 } ∧ t.out = s.out ++ [sentBytes s i 5] ∧
      { t with net := s.net, out := s.out } = s) ∧
    (flitGood b fec = true → fieldAt b 4 1 = 2 → fieldAt b 5 1 = 0 → fieldAt b 0 2 = (l.rxSeq + 1).toNat → l.waiting = [] → s.net.held = [] →
      Gives s (.flitReceive i b fec) fun t => ∃ u : State, t = u.sendFlit i 0 0 [] ∧ { u with net := s.net } = s ∧
        LinkBecomes s u i (({ ({ l with rxSeq := l.rxSeq + 1, rx := l.rx + 1 } : Link).heard b with
          arriving := l.arriving.set 0 (l.arriving[0].1 ++ (b.drop 8).take 244, l.arriving[0].2) } : Link).free 0)) ∧
    (let data := (b.drop 8).take 244
     let m : Msg := ⟨s.net.nextMsg, some i.val, fieldAt b 5 1, 1, data.take (48 + fieldAt data 8 4), l.state == .ident, s.raw 0 (offRtbl (fieldAt data 0 2 % 4096))⟩
     flitGood b fec = true → fieldAt b 4 1 = 4 → fieldAt b 5 1 < 2 → fieldAt b 0 2 = (l.rxSeq + 1).toNat → l.waiting = [] → s.net.held = [] →
       l.state ≠ .quarantined → m.mtype ≠ mtWreq → Gives s (.flitReceive i b fec) fun t => ∃ u : State, t = u.sendFlit i 0 0 [] ∧
         { u with net := s.net } = s ∧ u.net.arrived = s.net.arrived ++ [m] ∧ u.net.nextMsg = s.net.nextMsg + 1 ∧
         LinkBecomes s u i (({ l with rxSeq := l.rxSeq + 1, rx := l.rx + 1 } : Link).heard b)) ∧
    (let ks := (keptAfter l.kept ack.toNat).map (fun f => { f with replays := f.replays + 1 })
     (∀ f ∈ keptAfter l.kept ack.toNat, f.replays < 7) → Gives s (.retryRequest i ack) fun t => ∃ u : State,
       LinkBecomes s u i { l with kept := ks, tx := l.tx + BitVec.ofNat 64 ks.length } ∧
       u.out = s.out ++ ks.map (fun f => .link i (fieldAt f.bytes 4 1) f.bytes) ∧ { u with net := s.net, out := s.out } = s ∧
       (ks = [] → t = u) ∧ (∀ f fs, ks = f :: fs → t = u.linkFault i f.lseq 0 ∧ Notes u t)) ∧
    ((∃ f ∈ keptAfter l.kept ack.toNat, 7 ≤ f.replays) → Gives s (.retryRequest i ack) fun t => ∃ u : State,
      t = (u.linkFault i (u.link i).oldest 0).linkLeave i .train (l.state != .ident) ∧ (u.link i).state = l.state ∧ { u with net := s.net, out := s.out } = s) ∧
    (l.kept = [] → exec (.linkAckTimeout i) s = .next s) ∧
    (l.kept ≠ [] → exec (.linkAckTimeout i) s = .next ((s.linkFault i l.oldest 1).linkLeave i .train (l.state != .ident)))

/-- R412 to R414, R427, R428, R436, R437: what a receiver does with a flit and a sender with a retry request, what IDENT decides of a link, and how a
chip's epoch is learnt and told. -/
def Obligations.LinkMessages : Prop := Sys2Proof.Cert.IdentAndEpochs ∧ Sys2Proof.Cert.FlitRules

end

namespace Sys2Proof.Cert
open Sys2Proof.Machine

/-- The commands by which the engine takes message `n`, each with its type (Table 17-8). -/
def MsgCommand (n mt : Nat) (c : Instr) : Prop :=
  (c = .data n ∧ mt = mtData) ∨ (c = .ack n ∧ mt = mtAck) ∨ (c = .refuse n ∧ mt = mtRefuse) ∨ (c = .credit n ∧ mt = mtCredit) ∨
  (c = .wreq n [] ∧ mt = mtWreq) ∨ (c = .wresp n [] ∧ mt = mtWresp) ∨ (c = .collEnd n ∧ mt = mtCollEnd) ∨ (c = .thermalSlow n ∧ mt = mtSlow)

/-- The engine takes message `m` now: no earlier one of its flow waits (R419), and the link that it came on carries messages (R411; that one which
came on a link in IDENT waits for it is the model's reading, log entry 163). -/
def OnWay (s : State) (m : Msg) : Prop := s.behind m = false ∧ (m.early = true → ∀ i, m.link = some i → (s.link i).state = .routed)

/-- Message `m` has arrived for this chip, which serves it: it has reached its destination, no chip reset is under way, and its epochs are
those that the chips have now (R420, R436). -/
def Reached (s : State) (n mt : Nat) (m : Msg) : Prop :=
  s.msg? n = some m ∧ OnWay s m ∧ m.mtype = mt ∧ m.dst = s.chipId ∧ s.pair.state = .independent ∧ s.dieDown = false ∧
  s.learns m.srcChip m.sepoch false = false ∧ epochBefore m.sepoch (s.epochOf m.srcChip) = false ∧ m.depoch = s.net.epoch.toNat

/-- Pair message `m` has arrived over the bridge of a D1536 whose die serves it (R485). -/
def Bridged (s : State) (n mt : Nat) (m : Msg) : Prop :=
  s.msg? n = some m ∧ OnWay s m ∧ m.mtype = mt ∧ m.dst = s.chipId ∧ s.d1536 = true ∧ m.link.map (· / 4) = some 7 ∧ s.dieDown = false ∧
  m.depoch = s.net.epoch.toNat

/-- The pair has ended in `t` with this package running on alone: nothing waits for the partner or is held for it (R492, R493). -/
def RunsAlone (t : State) : Prop :=
  t.pair.state = .single ∧ t.pair.waiting = [] ∧ t.pair.sent = [] ∧ t.pair.heldOut = [] ∧ t.health.failover = true ∧ t.health.replace = true

end Sys2Proof.Cert

section
open Sys2Proof Sys2Proof.Machine Sys2Proof.Cert

/-- R411, R419, R420, R422, R425, R436: what every message meets before it has an effect. It waits behind an earlier one of its flow, and for its
link, which refuses it where it is not ROUTED (log entry 163); one for another chip goes on by the routing entry that its head met, or is refused; a
chip in reset, and one whose epoch is not the message's, refuses it; and a refusal answers DATA and the window messages alone. -/
def Obligations.MessageGate : Prop :=
  ∀ (s : State) (n mt : Nat) (m : Msg) (c : Instr) (st : Status), MsgCommand n mt c → s.msg? n = some m → m.mtype = mt →
    let u := s.takeMsg m
    let port := m.link.map (· / 4)
    let v := s.learnEpoch m.srcChip m.sepoch false
    (s.behind m = true → exec c s = .next s) ∧
    (∀ i, s.behind m = false → m.early = true → m.link = some i →
      ((s.link i).state = .ident → exec c s = .next s) ∧
      ((s.link i).state ≠ .ident → (s.link i).state ≠ .routed → exec c s = .next (u.refuse m .peerUnreachable))) ∧
    (OnWay s m → m.dst ≠ s.chipId → u.routeBy port m.route = none → exec c s = .next (u.refuse m .peerUnreachable)) ∧
    (OnWay s m → m.dst ≠ s.chipId → u.routeBy port m.route ≠ none → exec c s = .next (u.forwardBy m.route port m.vc m.bytes)) ∧
    (OnWay s m → m.dst = s.chipId → s.pair.state ≠ .stoodDown → s.dieDown = true → exec c s = .next (u.refuse m .peerReset)) ∧
    (OnWay s m → m.dst = s.chipId → s.pair.state ≠ .stoodDown → s.dieDown = false →
      (epochBefore m.sepoch (v.epochOf m.srcChip) = true → exec c s = .next (v.takeMsg m)) ∧
      (epochBefore m.sepoch (v.epochOf m.srcChip) = false → m.depoch ≠ v.net.epoch.toNat →
        exec c s = .next ((v.takeMsg m).refuse m .peerReset))) ∧
    (mt ≠ mtData → mt ≠ mtWreq → mt ≠ mtWresp → u.refuse m st = u) ∧
    (mt = mtData ∨ mt = mtWreq ∨ mt = mtWresp → u.refuse m st =
      u.engineSend (u.engineHead m.srcChip m.spitch m.mbox m.dpitch mtRefuse (m.msgid + st.code * 2 ^ 32)) [])

/-- R417 to R420, R402: a message that has reached its chip: data is deposited into the oldest posted buffer and acknowledged or refused; an
acknowledgement lands the transfer that sent it; a refusal ends it, its credit going back for PEER_UNREACHABLE alone; a credit joins its FIFO or empties it. -/
def Obligations.MailboxMessages : Prop :=
  ∀ (s s1 : State) (n k cr o : Nat) (m : Msg) (b : Posted) (bs : List Posted) (x : Xfer) (d : TDesc) (e : Sent) (st : Status),
    let u := s.takeMsg m
    let p := m.dpitch
    let bound := s.pfld p (offIbox m.mbox) 19 8 = m.srcChip ∧ s.pfld p (offIbox m.mbox) 28 24 = m.spitch
    (Reached s n mtData m →
      (24 ≤ p ∨ (s.pitch p).state ≠ .running → exec (.data n) s = .next (u.refuse m .peerReset)) ∧
      (p < 24 → (s.pitch p).state = .running →
        (s.inboxActive p m.mbox = false ∨ ¬bound → exec (.data n) s = .next (u.refuse m .accessDenied)) ∧
        (s.inboxActive p m.mbox = true → bound →
          (m.job ≠ 0 → s.net.colls = [] → exec (.data n) s = .next (u.refuse m .peerReset)) ∧
          (m.job = 0 → s.postedAt p m.mbox = [] → exec (.data n) s = .next s) ∧
          (m.job = 0 → s.postedAt p m.mbox = b :: bs → s.xferAt b.stall b.chan b.xfer = some x → x.written = false → b.coll = none →
            TDesc.parse (s.stallsOf p) x.d = some d → (u.setPosted p m.mbox bs).fill b.stall x d m.data = .ok s1 → Gives s (.data n) fun t =>
              ∃ w : State, t = (w.sendAck m).pumpAll.pumpFwd ∧ w.mem = s1.mem ∧ w.bays = s1.bays ∧ w.net = s1.net ∧
                (s1.xferAt b.stall b.chan b.xfer = some x →
                  w.xferAt b.stall b.chan b.xfer = some { x with written := true, wrote := m.len, fwd := none }))))) ∧
    (Reached s n mtAck m → s.pair.sent = [] →
      (s.sent? (bits m.arg 31 0) false = none → exec (.ack n) s = .next u) ∧
      (s.sent? (bits m.arg 31 0) false = some e → e.coll = none → Gives s (.ack n) fun t =>
        t.net.sent = s.net.sent.filter (fun y => !(y.msgid == e.msgid && y.xfer == e.xfer)) ∧ t.mem = s.mem ∧ t.out = s.out ∧
        (s.xferAt e.stall e.chan e.xfer = some x → t.xferAt e.stall e.chan e.xfer = some { x with written := true, wrote := s.xferLen x }))) ∧
    (Reached s n mtRefuse m →
      (s.net.sent = [] → exec (.refuse n) s = .next u) ∧
      (s.net.sent.find? (fun y => y.msgid == bits m.arg 31 0) = some e → Status.ofCode (bits m.arg 47 32) = some st → e.credit = some (k, cr) →
        Tab.rising s.net.credits = true → Gives s (.refuse n) fun t => ∃ w : State, t = (w.sendEnds e st).pumpAll ∧
          w.creditsOf e.pitch k = (if st = .peerUnreachable then cr :: s.creditsOf e.pitch k else s.creditsOf e.pitch k) ∧
          w.net.sent = s.net.sent ∧ w.mem = s.mem)) ∧
    (Reached s n mtCredit m → Tab.rising s.net.credits = true →
      (s.outboxFor p (m.srcChip, m.spitch, bits m.arg 31 24) = none → exec (.credit n) s = .next u) ∧
      (s.outboxFor p (m.srcChip, m.spitch, bits m.arg 31 24) = some o →
        (bit m.arg 32 = true → Gives s (.credit n) fun t => t.creditsOf p o = [] ∧ { t with net := s.net } = s) ∧
        (bit m.arg 32 = false → (s.creditsOf p o).length < 16 → Gives s (.credit n) fun t => ∃ w : State, t = w.pumpAll ∧
          w.creditsOf p o = s.creditsOf p o ++ [bits m.arg 23 0] ∧ { w with net := s.net } = s)))

/-- R173, R421, R439, R442: window requests and their answers, the end of a collective, and a stack's slow-down told to its members. -/
def Obligations.WindowAndCollectiveMessages : Prop :=
  ∀ (s : State) (n job : Nat) (m : Msg) (g : Grant) (e : Sent) (c : Coll) (st : Status) (sl : Slow) (x : Xfer) (d : TDesc),
    let u := s.takeMsg m
    let f := Config.wreqFields (BitVec.ofNat 64 m.arg)
    let w := f.1 % 8
    let id := bits m.arg 31 0
    (Reached s n mtWreq m → Gives s (.wreq n []) fun t =>
      let r := u.bayFlags (s.winStall w) (s.winAddr w f.2.1) (ceilDiv f.2.2.1 4)
      if s.winAdmits w m.srcChip f.2.1 f.2.2.1 f.2.2.2 = false then
        t = (u.postError 24 (srcStall (s.winStall w)) .accessDenied 2 (w + m.srcChip * 2 ^ 16)).refuse m .accessDenied
      else if f.2.2.2 = true then
        ∃ y : State, t = y.sendWresp m m.msgid [] ∧ { y with net := s.net } = s ∧
          y.net.grants = s.net.grants ++ [⟨m.srcChip, m.msgid, s.winStall w, s.winAddr w f.2.1, f.2.2.1, w⟩]
      else if firstFlag r.2 = none then t = r.1.sendWresp m m.msgid ((bare r.2).take f.2.2.1)
      else t = r.1.refuse m .poisonConsumed) ∧
    (Reached s n mtWresp m →
      (s.net.grants.find? (fun y => y.chip == m.srcChip && y.msgid == id) = some g → Gives s (.wresp n []) fun t =>
        ∃ y : State, t = y.sendWresp m id [] ∧ y.bays = (s.bayWrites g.stall g.addr (bytesWords (m.data.take g.bytes))).bays ∧
          y.net.grants = s.net.grants.filter (fun y => !(y.chip == m.srcChip && y.msgid == id)) ∧ y.mem = s.mem) ∧
      (s.net.grants = [] → s.sent? id true = none → exec (.wresp n []) s = .next u) ∧
      (s.net.grants = [] → s.sent? id true = some e → e.granted = true → s.xferAt e.stall e.chan e.xfer = some x → x.kind = .send →
        TDesc.parse (s.stallsOf e.pitch) x.tensorOf = some d → Gives s (.wresp n []) fun t =>
          ∃ y : State, t = y.pumpAll ∧ y.xferAt e.stall e.chan e.xfer = some { x with written := true, wrote := s.xferLen x } ∧
            y.mem = s.mem ∧ y.bays = s.bays)) ∧
    (Reached s n mtCollEnd m →
      (s.net.colls = [] → exec (.collEnd n) s = .next u) ∧
      (s.net.colls.find? (fun k => k.pitch == m.dpitch && k.job == m.job && k.id == m.coll) = some c → Status.ofCode (bits m.arg 15 0) = some st →
        exec (.collEnd n) s = .next (u.endColl c.serial st))) ∧
    (Reached s n mtSlow m →
      (bits m.arg 47 40 = 0 → s.net.slows = [sl] → sl.job = bits m.arg 15 0 → Gives s (.thermalSlow n) fun t =>
        t.net.slows = [{ sl with holding := sl.holding.filter (fun h => h.1 != bits m.arg 31 16) }] ∧
        t.mem = s.mem ∧ t.stalls = s.stalls) ∧
      (bits m.arg 47 40 ≠ 0 → s.net.colls.filter (fun c => c.job == bits m.arg 15 0) = [] → exec (.thermalSlow n) s = .next u) ∧
      (bits m.arg 47 40 ≠ 0 → s.net.colls.filter (fun c => c.job == bits m.arg 15 0) ≠ [] → s.net.slows = [] → Gives s (.thermalSlow n) fun t =>
        t.net.slows = [⟨bits m.arg 15 0, s.now, [(bits m.arg 31 16, bits m.arg 39 32, BitVec.ofNat 64 (leNat (m.data.take 8)))],
          [(bits m.arg 31 16, bits m.arg 39 32)]⟩]) ∧
      (bits m.arg 47 40 ≠ 0 → s.net.slows = [sl] → sl.job = bits m.arg 15 0 →
        (∃ o ∈ sl.origins, o.1 = bits m.arg 31 16 ∧ o.2.2 = BitVec.ofNat 64 (leNat (m.data.take 8))) → exec (.thermalSlow n) s = .next u)) ∧
    (s.net.slows = [sl] → sl.job = job →
      (sl.first.toNat + s.slowLimit ≤ s.now.toNat → Gives s (.slowLimitExpiry job) fun t => t.net.slows = [{ sl with holding := [] }] ∧ t.mem = s.mem ∧ t.stalls = s.stalls) ∧
      (s.now.toNat < sl.first.toNat + s.slowLimit → exec (.slowLimitExpiry job) s = .next s))

/-- R479, R483 to R488, R491 to R493: pair messages and heartbeats, joining a pair, and its end. -/
def Obligations.PairEvents : Prop :=
  ∀ (s : State) (n : Nat) (m : Msg) (mode : Fin 4) (who : Fin 5) (via : Bool),
    let u := s.takeMsg m
    (Bridged s n mtPairWrite m → s.shadow = true → s.pair.mode = 1 → m.data.length = 64 → bits m.arg 52 48 < 24 →
      m.arg < 2 ^ 64 → bits m.arg 47 0 + 64 ≤ s.spaceOf (bits m.arg 52 48) →
      let pl := u.physPlace (bits m.arg 52 48) (bits m.arg 47 0)
      exec (.pairWrite n) s = .next ((u.writeLine pl.1 pl.2 m.data (bit m.arg 63)).sendAck m)) ∧
    (Bridged s n mtPairState m → s.shadow = true → exec (.pairState n) s =
      .next ((((Config.pairRecs m.data).foldl (fun s r => s.takeRec r) u).modPair (fun p =>
        { p with seenSeq := BitVec.ofNat 32 (bits m.arg 31 0) })).sendAck m)) ∧
    (Bridged s n mtPairDigest m → s.leads = true → s.pair.mode = 2 → s.pair.awaiting = [] → Gives s (.pairDigest n) fun t =>
      ∃ w : State, t = w.sendAck m ∧ w.pair.digests = s.pair.digests ++ [(bits m.arg 41 32, BitVec.ofNat 32 m.arg,
        BitVec.ofNat 64 (leNat (m.data.take 8)), Config.digestStatus (bits m.arg 63 42))] ∧ { w with pair := s.pair, net := s.net } = s) ∧
    (Bridged s n mtPairFail m → s.shadow = true → u.net.arrived = [] → s.fe.launches = [] → s.fe.queues = [] → s.fe.fences = [] → s.pair.records = [] →
      s.pair.awaiting = [] → s.livePitches = [] → s.canonical → Gives s (.pairFail n) fun t => RunsAlone t ∧ t.pair.primary = true ∧
        t.pair.failovers = s.pair.failovers + 1 ∧ t.chipId = s.partner % 4096 ∧ t.net.epoch = BitVec.ofNat 16 (bits m.arg 31 16)) ∧
    (s.d1536 = true → s.pair.state = .joining → s.pair.mode = mode.val → s.planOf 7 = some (s.partner, 7) →
      (s.portSeen 7).map (fun x => (x.1, x.2.1)) = s.planOf 7 → s.routedLinks 7 ≠ [] → s.liveStalls = 48 → s.livePitches = [] → s.dieDown = false →
      (s.chip.pkg = 0 → Gives s (.pairJoin mode 48 true) fun t => ∃ (w : State) (rs : List PairRec), t = (w.pairTell rs).pairShow ∧
        w.pair.state = .paired ∧ w.pair.primary = true ∧ w.pair.portsHeld = false ∧ w.regs = s.regs) ∧
      (s.chip.pkg ≠ 0 → Gives s (.pairJoin mode 48 true) fun t => ∃ w : State, t = (List.range 7).foldl (fun s n => s.portDisable n) w ∧
        w.pair.state = .paired ∧ w.pair.primary = false ∧ w.pair.portsHeld = true ∧ w.net = s.net)) ∧
    (s.d1536 = true → s.md.clerk = true → s.md.rails = 6 → exec .heartbeat s = .next { s with
      out := s.out ++ [.bridge sbBeat (leBytes 1 s.pair.state.code), .sideband sbBeat (leBytes 1 s.pair.state.code)] }) ∧
    (s.d1536 = true → (s.pair.state ≠ .paired ∨ who.val = 1 ∨ who.val = 2) → Gives s (.heartbeatReceive via who) fun t =>
      t.pair = (if via then { s.pair with beatBridge := s.now } else { s.pair with beatSide := s.now }) ∧
      { t with pair := s.pair, free := s.free, clk := s.clk } = s) ∧
    (s.d1536 = true → s.pair.state = .paired → who.val = 3 → s.pair.awaiting = [] → Gives s (.heartbeatReceive via who) fun t =>
      t.pair.state = .stoodDown ∧ t.fe.queues = [] ∧ t.fe.fences = [] ∧ t.fe.wins = []) ∧
    (s.pair.state ≠ .paired → exec .heartbeatSilence s = .next s ∧ exec (.powerLoss n) s = .next s ∧ exec .bridgeCreditTimeout s = .next s) ∧
    (s.leads = true → s.pair.awaiting = [] →
      (s.pair.beatBridge.toNat + 1000000 ≤ s.now.toNat → Gives s .heartbeatSilence RunsAlone) ∧
      Gives s (.powerLoss n) RunsAlone ∧
      (s.pair.waiting ≠ [] → Gives s .bridgeCreditTimeout RunsAlone))

end

namespace Sys2Proof.Cert
open Sys2Proof.Machine

/-- A chip reset with a cause has begun in `t` (R463, R464, Table 18-16): the chip epoch and the count have moved on by one, every pitch that
was not OFF is RESETTING with its messages masked, and no queue, launch, fence, token or collective is left. -/
def ChipBegins (s t : State) (cause : Nat) : Prop :=
  t.crst.cause = cause ∧ t.crst.count = s.crst.count + 1 ∧ t.net.epoch = s.net.epoch + 1 ∧ t.crst.live = s.livePitches ∧
  (∀ p ∈ s.livePitches, (t.pitch p).state = .resetting ∧ (t.pitch p).masked = true) ∧
  t.fe.queues = [] ∧ t.fe.launches = [] ∧ t.fe.fences = [] ∧ t.tokens = [] ∧ t.net.colls = [] ∧ t.net.posted = [] ∧ t.sec.unlocked = false

/-- Nothing stands in the way of a chip reset: the FK2 has started, no reset of the chip is under way, and it is in no pair. -/
def ResetFree (s : State) : Prop := s.md.started = true ∧ s.crst.step = 0 ∧ s.crst.held = false ∧ s.pair.state = .independent

end Sys2Proof.Cert

section
open Sys2Proof Sys2Proof.Machine Sys2Proof.Cert

/-- R14, R446, R460 to R471, R473: the commands that begin a chip reset, what a stocktake writes, what the compute die's reset leaves, where
of memory only the tables of ENT slots change (R256), and the hang window. -/
def Obligations.ChipResets : Prop :=
  ∀ (s : State) (k : Stock) (n : Nat) (x : Subject) (w : Watch), s.canonical →
    (Accepts s 0 offCrst → ResetFree s → Gives s .crstGo fun t => ChipBegins s t 1 ∧ t.crst.step = 5 ∧ t.crst.stock = none) ∧
    (Accepts s 0 offCrst → ResetFree s →
      (s.stockOk = true → Gives s .crstDump fun t => ChipBegins s t 1 ∧ t.crst.step = 4 ∧ t.crst.stock = some ⟨0, Config.shadowUnits, 64, 0, 0, false⟩) ∧
      (s.stockOk = false → Gives s .crstDump fun t => ChipBegins s t 1 ∧ t.crst.step = 5 ∧
        t.fld 0 offGhDumpCfg 47 32 = (s.fld 0 offGhDumpCfg 47 32 + 1) % 2 ^ 16)) ∧
    (s.crst.held = false → s.crst.step = 5 → s.crst.stock = none → s.crst.perst = false → Gives s .computeDieResetDone fun t =>
      t.crst.step = 6 ∧
      ((∀ p, p < 24 → s.tableActive p = false) → t.mem.poison = s.mem.poison ∧ t.mem.bytes = s.mem.bytes) ∧ t.bays = [] ∧ t.tokens = [] ∧ t.fe.queues = [] ∧ t.net = s.net ∧
      (∀ fn off, fn < 25 → off < 0x10000 → t.raw fn off = if chipKeeps off then s.raw fn off else resetWord s.chip.part off)) ∧
    (s.crst.held = true → exec .computeDieResetDone s = .next s) ∧
    (s.crst.stock = some k → k.next < k.total → k.bytes + 16 + 8 * n ≤ s.stockRoom → Gives s (.stocktakeReadTimeout n) fun t =>
      ∃ bs : List Byte, t.out = s.out ++ [.hostWrite (BitVec.ofNat 64 (s.stockBase + k.bytes)) bs] ∧ bs.length ≤ 16 + 8 * n ∧ bs[6]? = some 1 ∧
        t.crst.stock = some { k with next := k.next + 1, bytes := k.bytes + bs.length, sections := k.sections + 1, silent := k.silent + 1 } ∧
        t.mem = s.mem) ∧
    (s.crst.stock = some k → Gives s .stocktakeLimit fun t => t.crst.stock = none ∧ t.crst.step = 5 ∧ t.fld 0 offGhDumpCfg 8 8 = 1 ∧
      ∃ bs : List Byte, t.out = s.out ++ [.hostWrite (BitVec.ofNat 64 s.stockBase) bs] ∧ bs.length = 64) ∧
    (s.crst.stock = none → exec (.stocktakeReadTimeout n) s = .next s ∧ exec .stocktakeLimit s = .next s) ∧
    (s.now.toNat < s.health.hangAt.toNat + s.hangWindow ∨ s.dieDown = true → exec .hangWindow s = .next s) ∧
    (s.health.hangAt.toNat + s.hangWindow ≤ s.now.toNat → s.dieDown = false →
      (s.subjects = [] → Gives s .hangWindow fun t => t.watch = [] ∧ t.health = { s.health with hangAt := s.now, hangWin := BitVec.ofNat 64 (s.raw 0 offHangWin) } ∧ t.out = s.out) ∧
      (s.subjects = [x] → Tab.find s.watch x.key = some w → w.seen = x.moves →
        (w.raised = true ∨ s.hangOn = false → Gives s .hangWindow fun t => Tab.find t.watch x.key = some w ∧ t.out = s.out) ∧
        (w.raised = false → s.hangOn = true → Gives s .hangWindow fun t => ∃ u : State, Tab.find u.watch x.key = some { w with raised := true } ∧ u.out = s.out ∧
          t = u.postEvent [x.dbk] x.src 0x21 (x.head ++ leBytes 8 w.last.toNat))) ∧
      (s.subjects = [x] → (Tab.find s.watch x.key).map (·.seen) ≠ some x.moves → Gives s .hangWindow fun t =>
        ∃ l, Tab.find t.watch x.key = some ⟨x.moves, l, false⟩ ∧ t.out = s.out))

/-- R94, R444, R446, R447, Table 18-1: a fault of the whole chip begins a chip reset with cause 2; an uncorrectable error in the state that the front
end keeps for one pitch resets that pitch alone; and one in logic that a stall's splits share maps the stall out and ends every launch on it with
HW_FAULT. -/
def Obligations.FatalFaults : Prop :=
  ∀ (s : State) (iod : Fin 2) (syn : W64) (c : Fin 4) (d : Fin 8) (p : PitchId) (loc : StateLoc) (st : StallId) (fetch : Bool), s.canonical →
    (ResetFree s →
      Gives s (.dieToDieLaneFailure iod syn) (ChipBegins s · 2) ∧ Gives s (.callerSilence c) (ChipBegins s · 2) ∧
      Gives s (.clockOrPowerFault d) (ChipBegins s · 2) ∧
      ((∀ k, loc ≠ .pitchState k) → (∀ a b, loc ≠ .stall a b) → Gives s (.uncorrectableStateError loc syn) (ChipBegins s · 2))) ∧
    ((s.pitch p).state = .off → exec (.uncorrectableStateError (.pitchState p) syn) s = .next s) ∧
    ((s.pitch p).state = .running → s.pair.state = .independent → Gives s (.uncorrectableStateError (.pitchState p) syn) (ResetBegins s · p 5 false)) ∧
    (s.dieDown = false → s.pair.state = .independent → Gives s (.uncorrectableStateError (.stall st fetch) syn) fun t =>
      (s.pstall st < 52 → t.health.out.getLsbD (s.pstall st) = true) ∧ (∀ l, l ∉ s.launchesOn st → t.launch? l = s.launch? l) ∧
      ∀ l x, l ∈ s.launchesOn st → s.launch? l = some x → x.ended = none → (t.launch? l).map (·.ended) = some (some .hwFault)) ∧
    (s.crst.held = true → s.md.started = true → s.pair.state = .independent → Gives s (.callerSilence c) fun t =>
      t.crst = s.crst ∧ t.net.epoch = s.net.epoch ∧ t.mem = s.mem)

end

namespace Sys2Proof.Cert
open Sys2Proof.Machine

/-- Of the stalls, only `st` differs between `s` and `t`, and it is `x` in `t`. -/
def StallBecomes (s t : State) (st : Nat) (x : Stall) : Prop := t.stall st = x ∧ ∀ i, i ≠ st → t.stall i = s.stall i

/-- The rails of the package are down in `t`, and stay down until PWR_EN has been deasserted: its memory, its bays and its work are gone, PWRGD is
low, and a note says why (R494, R511, R562). -/
def RailsLost (s t : State) (note : HealthNote) : Prop :=
  t.md.rails = 0 ∧ t.md.latched = true ∧ t.md.started = false ∧ t.md.notes = s.md.notes ++ [note] ∧ t.mem.bytes = [] ∧ t.bays = [] ∧
  t.fe.queues = [] ∧ t.sec.unlocked = false ∧ t.health.out = s.health.out ∧ .pin "PWRGD" false ∈ t.out

/-- Limiting moves: the stage and the ceiling of `t` after a period whose reading lies above the limit (Table 20-10). -/
def Tightens (s t : State) : Prop :=
  let lim := min s.fmax 64
  (s.pw.stage = 0 → (∃ i, i < 48 ∧ 64 < (s.stall i).fstep) → t.pw.stage = 1 ∧ t.pw.ceil = lim) ∧
  (s.pw.stage = 1 → t.pw.stage = 2 ∧ max 32 (lim - 8) ≤ t.pw.ceil ∧ t.pw.ceil ≤ max 32 (lim - 1)) ∧
  (s.pw.stage = 2 → 32 < s.pw.ceil → t.pw.stage = 2 ∧ max 32 (s.pw.ceil - 8) ≤ t.pw.ceil ∧ t.pw.ceil < s.pw.ceil) ∧
  (s.pw.stage = 2 → s.pw.ceil ≤ 32 → t.pw.stage = 3 ∧ t.pw.k = 7) ∧
  (s.pw.stage = 3 → 2 < s.pw.k → t.pw.stage = 3 ∧ t.pw.k = s.pw.k - 1) ∧
  (s.pw.stage = 3 → s.pw.k ≤ 2 → t.pw.stage = 4) ∧ (s.pw.stage = 4 → t.pw.stage = 4)

end Sys2Proof.Cert

section
open Sys2Proof Sys2Proof.Machine Sys2Proof.Cert

/-- R173, R497 to R504, Table 20-5: the sleep states of a stall, what each loses, and waking. -/
def Obligations.SleepStates : Prop :=
  ∀ (s : State) (st : StallId) (x : Stall), s.stall st = x →
    (x.pwr = .active → s.dieDown = false →
      (s.stallWork st = true → exec (.stallDoze st) s = .next s) ∧
      (s.stallWork st = false → Gives s (.stallDoze st) fun t => { t with stalls := s.stalls, free := s.free, clk := s.clk } = s ∧
        (t.stall st).pwr = .doze ∧ (t.stall st).idleFrom = s.now ∧ (t.stall st).ctx = x.ctx ∧ ∀ i, i ≠ st.val → t.stall i = s.stall i)) ∧
    (x.pwr = .doze → s.windowOn st = true → exec (.stallNap st) s = .next s) ∧
    (x.pwr = .doze → s.stallHeld st = false → s.stallWork st = false → s.windowOn st = false → s.stallResets st = false → s.dieDown = false →
      (x.idleFrom.toNat + x.napIdle ≤ s.now.toNat + 80 → Gives s (.stallNap st) fun t =>
        StallBecomes s t st { x.logicReset with pwr := .nap } ∧ t.bays = s.bays ∧ t.mem = s.mem ∧ t.fe = s.fe) ∧
      (s.now.toNat + 80 < x.idleFrom.toNat + x.napIdle → exec (.stallNap st) s = .next s)) ∧
    (x.pwr = .nap → s.stallHeld st = false → bit x.policy.toNat 16 = true → s.windowOn st = false → s.stallResets st = false → s.dieDown = false →
      x.freeFrom.toNat + x.darkIdle ≤ s.now.toNat → Gives s (.stallDark st) fun t =>
        StallBecomes s t st { x.logicReset with pwr := .dark } ∧ t.mem = s.mem ∧
        ∀ k, Tab.find t.bays k = if k / 2 ^ 22 = st.val then none else Tab.find s.bays k) ∧
    (x.pwr = .nap → bit x.policy.toNat 16 = false → exec (.stallDark st) s = .next s) ∧
    (s.inService st = true → s.pitchOfStall st ≠ none → s.dieDown = false →
      (x.pwr = .active → exec (.stallWake st) s = .next s) ∧
      (x.pwr = .doze → Gives s (.stallWake st) fun t => StallBecomes s t st { x with pwr := .active } ∧ t.mem = s.mem ∧ t.bays = s.bays) ∧
      (x.pwr = .nap ∨ x.pwr = .dark → Gives s (.stallWake st) fun t =>
        StallBecomes s t st { x with pwr := .active, wakes := x.wakes + 1, fstep := s.opPoint st } ∧ t.mem = s.mem ∧ t.bays = s.bays)) ∧
    (s.inService st = false → exec (.stallWake st) s = .next s)

/-- R505 to R511, Tables 20-10 and 20-14: limiting by the input power, the current alarm, and what a die sensor's reading does. -/
def Obligations.PowerAndHeat : Prop :=
  ∀ (s : State) (watts : Nat) (n : SensorId) (temp : BitVec 12) (i : StallId),
    (Gives s (.powerLimitPeriod watts) fun t => t.pw.readings = (watts :: s.pw.readings).take 20 ∧
      t.pw.ovr = s.pw.ovr + (if 2 ≤ s.pw.stage then 1 else 0) ∧ t.mem = s.mem ∧ t.regs = s.regs ∧ (s.limitW < watts → Tightens s t) ∧
      (watts ≤ s.limitW → s.pw.readings.length < 19 → t.pw.stage = s.pw.stage ∧ t.pw.ceil = s.pw.ceil ∧ t.pw.k = s.pw.k) ∧
      ((s.stall i).pwr = .active → (t.stall i).fstep = t.opPoint i)) ∧
    (Gives s .currentAlarm fun t => t.pw = { s.pw with alarm := true } ∧ (t.stall i).ithr = true ∧ { t with pw := s.pw, stalls := s.stalls } = s) ∧
    (Gives s .currentAlarmClear fun t => t.pw = { s.pw with alarm := false } ∧
      (s.pw.stage < 3 → (∀ x ∈ s.sensorsOf i, x.acts < 3) → (t.stall i).ithr = false) ∧ { t with pw := s.pw, stalls := s.stalls } = s) ∧
    (Gives s (.dieSensorRead n none) fun t => t.sensor n = { s.sensor n with valid := false } ∧ (∀ k, k ≠ n.val → t.sensor k = s.sensor k) ∧
      t.mem = s.mem ∧ t.md = s.md) ∧
    (temp.toInt < 115 * 8 → Gives s (.dieSensorRead n (some temp)) fun t =>
      t.sensor n = { s.sensor n with temp := temp, valid := true, step := dieStep (s.sensor n).step temp.toInt } ∧
      (∀ k, k ≠ n.val → t.sensor k = s.sensor k) ∧ t.mem = s.mem ∧ t.md = s.md) ∧
    (115 * 8 ≤ temp.toInt → s.md.rails ≠ 0 → s.pair.state = .independent → Gives s (.dieSensorRead n (some temp)) fun t =>
      RailsLost s t ⟨1, n, temp.toNat⟩ ∧ t.md.tripped = true ∧ t.md.tripTime = some s.now ∧ .pin "THERMTRIP#" false ∈ t.out) ∧
    (Gives s (.thermalCeilingStep n) fun t => (∀ k, k ≠ n.val → t.sensor k = s.sensor k) ∧ { t with pw := s.pw, stalls := s.stalls } = s ∧
      t.sensor n = (let x := s.sensor n
        if x.valid = false ∨ (2 ≤ x.step ∧ 100 * 8 ≤ x.temp.toInt) then { x with ceil := max 32 (x.ceil - 1) }
        else if x.step < 2 then { x with ceil := min 74 (x.ceil + 1) } else x))

/-- R494, R560 to R562, R565, R572: the rail order, what ends it, and the loss of the supply. -/
def Obligations.RailsAndSupply : Prop :=
  ∀ (s : State) (r : Fin 6) (f : Fin 7) (n : PortId) (i : LinkId),
    (s.md.clerk = true → s.md.rails = 0 → s.md.applying = false → s.md.removing = false →
      (s.md.latched = false → s.md.tripTime = none → exec .pwrEnAssert s = .next { s with md := { s.md with pwrEn := true, applying := true } }) ∧
      (s.md.latched = true → exec .pwrEnAssert s = .next { s with md := { s.md with pwrEn := true } })) ∧
    (s.md.rails = 6 → s.md.removing = false → Gives s .pwrEnDeassert fun t => t.md.pwrEn = false ∧ t.md.removing = true ∧ t.md.rails = 6 ∧
      t.md.started = false ∧ t.md.latched = false ∧ t.mem.bytes = [] ∧ t.bays = [] ∧ t.fe.queues = [] ∧ .pin "PWRGD" false ∈ t.out) ∧
    (s.md.applying = true → s.md.rails = r.val →
      (r.val < 5 → exec (.railInLimits r) s = .next { s with md := { s.md with rails := r.val + 1, hostUp := decide (1 ≤ r.val) && !s.md.perst } }) ∧
      (r.val = 5 → Gives s (.railInLimits r) fun t => t.md.rails = 6 ∧ t.md.applying = false ∧ .pin "PWRGD" true ∈ t.out ∧ t.mem = s.mem)) ∧
    (s.md.applying = true → Gives s .railOrderTimeout fun t => t.md.latched = true ∧ t.md.applying = false ∧
      t.md.notes = s.md.notes ++ [⟨3, s.md.rails + 1, 0⟩] ∧ t.md.removing = decide (0 < s.md.rails)) ∧
    (s.md.removing = true → s.md.rails = r.val + 1 → (r.val ≠ 0 → exec (.railDischarged r) s = .next { s with md := { s.md with rails := r.val } }) ∧
      (r.val = 0 → s.md.pwrEn = false → exec (.railDischarged r) s = .next { s with md := { s.md with rails := 0, removing := false } })) ∧
    (0 < s.md.rails → s.pair.state = .independent →
      Gives s .undervoltage (RailsLost s · ⟨2, 0, 0⟩) ∧ Gives s (.regulatorFault f) (RailsLost s · ⟨4, f, 0⟩)) ∧
    (s.md.rails = 0 → s.md.applying = false → exec .undervoltage s = .next s ∧ exec (.regulatorFault f) s = .next s) ∧
    (s.md.supply = true → Gives s .lossOfSupply fun t => t.md.supply = false ∧ t.md.rails = 0 ∧ t.clk.time = 0 ∧ t.clk.valid = false ∧ t.mem.bytes = [] ∧
      t.regs = [] ∧ t.fe.queues = [] ∧ t.health.out = s.health.out ∧ t.pair.failovers = s.pair.failovers ∧ (s.sec.unlocked = false → t.sec.book = s.sec.book) ∧ t.chip = s.chip) ∧
    (s.md.rails = 6 → ¬(s.chip.part = .d1536 ∧ n.val = 7) → i.val / 4 = n.val → (∀ j, (s.link j).heads = []) → s.net.held = [] →
      s.pair.state = .independent → (s.link i).state = .routed → Gives s (.cableOvercurrent n) fun t =>
        t.md.cableOff = s.md.cableOff ||| BitVec.ofNat 8 (2 ^ n.val) ∧ (t.link i).state = .train ∧ (∀ j, j / 4 ≠ n.val → t.link j = s.link j))

/-- R297, R463, R465 to R467, R531, R569 to R571: start-up step by step, PERST#, and the end of a chip reset. -/
def Obligations.StartUp : Prop :=
  ∀ (s : State) (c : FwId) (b other : Bool) (p : PitchId) (u : UnitId) (ls : List Nat), s.canonical →
    (s.md.supply = false → (s.comp 1).spare.st ≠ .trial → s.md.pwrEn = false → Gives s (.supplyGood true other) fun t =>
      t.md.supply = true ∧ t.md.clerk = true ∧ t.md.applying = s.md.applying ∧ t.mem = s.mem ∧ t.clk.time = s.clk.time) ∧
    (s.md.supply = false → (s.comp 1).spare.st = .empty → Gives s (.supplyGood false other) fun t => t.md.gateFailed = true ∧
      t.md.applying = s.md.applying ∧ t.out = s.out ++ [.pin "REPLACE_REQ#" false, .pin "AMBER" true]) ∧
    (s.md.supply = true → exec (.supplyGood b other) s = .next s) ∧
    (s.starting = true → actOrder[s.md.verified.length]? = some (c.val + 1) → c.val ≠ 0 → (s.comp (c.val + 1)).spare.st = .empty →
      (s.md.trained = false → exec (.componentVerified c true other) s = .next { s with md := { s.md with verified := s.md.verified ++ [c.val + 1] } }) ∧
      exec (.componentVerified c false other) s = .next s) ∧
    (s.starting = true → actOrder[s.md.verified.length]? = some (c.val + 1) → c.val = 1 → (s.comp 2).spare.st = .empty → s.md.trained = true →
      Gives s (.componentVerified c true other) fun t => t.md.started = true ∧ t.clk.valid = false ∧ t.mem = s.mem ∧ t.stalls = s.stalls) ∧
    (s.starting = true → s.md.verified.contains 4 = true → s.md.verified.contains 2 = false → s.crst.step = 0 → s.md.trained = false →
      (∀ k, k < 12 → (s.stack k).off = false ∧ (s.stack k).step < 3) → exec (.hbmTrainingDone [] [] []) s =
        .next { s with md := { s.md with trained := true } }) ∧
    (s.crst.held = false → s.crst.step = 6 → s.crst.perst = false → s.crst.live = [p.val] → (∀ u, u < 24 → s.unitOff u = false) → s.crst.unconfirmed = [] →
      (∀ k, k < 12 → (s.stack k).off = false ∧ (s.stack k).step < 3) → (s.comp 4).spare.st = .empty → s.pair.state = .independent →
      (s.pitch p).teardown = false → Gives s (.hbmTrainingDone [] [] []) fun t =>
        t.crst.step = 0 ∧ (t.pitch p).state = (if (s.pitch p).lost = true then .failed else .running) ∧ (t.pitch p).masked = false ∧ t.mem.bytes = s.mem.bytes ∧ t.fe.wake = true) ∧
    (s.crst.held = false → s.crst.step = 6 → s.crst.perst = false → s.crst.live = [p.val] → u.val ∈ s.unitsOf p → s.pair.state = .independent →
      (∀ k, k < 12 → (s.stack k).off = false ∧ (s.stack k).step < 3) → (s.comp 4).spare.st = .empty → (s.pitch p).teardown = false →
      Gives s (.hbmTrainingDone [] [.silent u ls] []) fun t => t.crst.step = 0 ∧ (t.pitch p).state = .failed ∧
        ∀ b, b / 64 ∉ s.crst.touched.filter (fun k => k / 2 ^ 29 == u.val) ++ ls.map (fun k => u.val * 2 ^ 29 + k % 2 ^ 29) →
          Tab.get 0 t.mem.bytes b = Tab.get 0 s.mem.bytes b) ∧
    (s.md.started = true → s.crst.step = 0 → s.crst.held = false → s.pair.state = .independent → Gives s .perstAssert fun t =>
      ChipBegins s t 3 ∧ t.md.perst = true ∧ t.md.hostUp = false ∧ t.md.numVfs = 0 ∧ (s.mem.reqs = [] → t.msi = []) ∧
      t.crst.perst = true) ∧
    (s.md.started = false → exec .perstAssert s = .next { s with msi := [], md := { s.md with perst := true, hostUp := false, numVfs := 0, fnMask := 0 } }) ∧
    exec .perstDeassert s = .next { s with md := { s.md with perst := false, hostUp := decide (2 ≤ s.md.rails) && !s.md.removing } }

end

namespace Sys2Proof.Cert
open Sys2Proof.Machine

/-- Nothing holds a security command back: the function's writes before it have taken effect, and the audit book is not stalled (R523). -/
def SecReady (s : State) : Prop := s.canonical ∧ s.settleHost 0 = s ∧ s.sec.book.stalled = false

/-- The response of a security command (Tables 21-4, 21-5): its status, the length of its reply and the reply at byte 8,192 of the buffer. -/
def secAnswer (s : State) (st : Status) (reply : List Byte) : Out :=
  .hostWrite (BitVec.ofNat 64 (s.fld 0 offSecAddr 63 14 * 2 ^ 14 + 8192)) (leBytes 2 st.code ++ leBytes 2 0 ++ leBytes 4 reply.length ++ reply)

/-- A security command has been answered in `t` with a status and a reply, and that is all it shows. -/
def SecAnswered (s t : State) (op : Nat) (st : Status) (reply : List Byte) : Prop :=
  t.sec.result = st.code ∧ t.raw 0 offSecCmd = op ∧ t.out = s.out ++ [secAnswer s st reply] ∧ t.mem = s.mem ∧ t.stalls = s.stalls

/-- The keys, the policy and COUNT are in `t` what they were in `s`. -/
def KeysKept (s t : State) : Prop :=
  t.sec.installer = s.sec.installer ∧ t.sec.operators = s.sec.operators ∧ t.sec.policy = s.sec.policy ∧ t.sec.count = s.sec.count

/-- The write point of the book lies inside a segment, with room for the next two slots (R523). -/
def BookRoom (s : State) : Prop := s.sec.book.point % segSlots ≠ 0 ∧ (s.sec.book.point + 1) % segSlots ≠ 0

/-- An image in `t` that differs from that of `s` in a component's slots alone. -/
def CompKept (s t : State) (c : Nat) : Prop := ∀ k, 1 ≤ k → k ≤ 5 → k ≠ c → t.comp k = s.comp k

end Sys2Proof.Cert

section
open Sys2Proof Sys2Proof.Machine Sys2Proof.Cert

/-- R516 to R518: the key commands. Each answers at once; a malformed one changes nothing; a slot changes only by the rules of R518, and each signed command
that is accepted adds one to COUNT. -/
def Obligations.KeyCommands : Prop :=
  ∀ (s : State) (slot scheme : Nat) (key sig : List Byte) (p : PitchId) (w : BitVec 6), SecReady s →
    let signed (op : Nat) (pl : List Byte) := s.installerSigned (s.signedBytes op pl) sig
    let enrolSig := signed 0x02 (Config.secPayload 0x02 [slot, scheme] key)
    let revokeSig := signed 0x03 (Config.secPayload 0x03 [slot] [])
    (Gives s (.id false) fun t => SecAnswered s t 0x01 .ok (leBytes 16 s.chip.uid.toNat ++ Config.secReply 0x01
      [s.chip.part.code, 0xB0, s.slotMask, s.sec.policy.toNat, s.sec.count.toNat]) ∧ KeysKept s t) ∧
    (Gives s (.enroll slot scheme key sig true) fun t => SecAnswered s t 0x02 .badDescriptor [] ∧ KeysKept s t) ∧
    ((scheme = 1 ∨ scheme = 2) → key.length = keyLen scheme →
      (slot = 2 → bit s.ialg (scheme - 1) = true → s.sec.installer = none → s.livePitches = [] → Gives s (.enroll slot scheme key sig false) fun t =>
        SecAnswered s t 0x02 .ok [] ∧ t.sec.installer = some ⟨scheme, key⟩ ∧ t.sec.operators = s.sec.operators ∧ t.sec.count = s.sec.count) ∧
      (slot = 2 → bit s.ialg (scheme - 1) = true → s.sec.installer ≠ none → Gives s (.enroll slot scheme key sig false) fun t =>
        if enrolSig = true then SecAnswered s t 0x02 .ok [] ∧ t.sec.installer = some ⟨scheme, key⟩ ∧ t.sec.operators = s.sec.operators ∧
          t.sec.count = s.sec.count + 1
        else SecAnswered s t 0x02 .accessDenied [] ∧ KeysKept s t) ∧
      (slot = 2 → bit s.ialg (scheme - 1) = false → Gives s (.enroll slot scheme key sig false) fun t =>
        SecAnswered s t 0x02 .accessDenied [] ∧ KeysKept s t) ∧
      (slot = 16 + p → (s.pitch p).state = .off → Gives s (.enroll slot scheme key sig false) fun t =>
        if enrolSig = true then SecAnswered s t 0x02 .ok [] ∧ t.sec.operators = s.sec.operators.setIfInBounds p (some ⟨scheme, key⟩) ∧
          t.sec.installer = s.sec.installer ∧ t.sec.count = s.sec.count + 1
        else SecAnswered s t 0x02 .accessDenied [] ∧ KeysKept s t) ∧
      (slot = 16 + p → (s.pitch p).state ≠ .off → Gives s (.enroll slot scheme key sig false) fun t =>
        SecAnswered s t 0x02 .accessDenied [] ∧ KeysKept s t)) ∧
    (slot = 2 → s.livePitches = [] → Gives s (.revoke slot sig false) fun t =>
      if revokeSig = true then SecAnswered s t 0x03 .ok [] ∧ t.sec.installer = none ∧ t.sec.operators = Vector.replicate 24 none ∧
        t.sec.count = s.sec.count + 1
      else SecAnswered s t 0x03 .accessDenied [] ∧ KeysKept s t) ∧
    (slot = 16 + p → (s.pitch p).state = .off → Gives s (.revoke slot sig false) fun t =>
      if revokeSig = true then SecAnswered s t 0x03 .ok [] ∧ t.sec.operators = s.sec.operators.setIfInBounds p none ∧
        t.sec.installer = s.sec.installer ∧ t.sec.count = s.sec.count + 1
      else SecAnswered s t 0x03 .accessDenied [] ∧ KeysKept s t) ∧
    (slot = 2 → s.livePitches ≠ [] → Gives s (.revoke slot sig false) fun t => SecAnswered s t 0x03 .accessDenied [] ∧ KeysKept s t) ∧
    (slot = 16 + p → (s.pitch p).state ≠ .off → Gives s (.revoke slot sig false) fun t => SecAnswered s t 0x03 .accessDenied [] ∧ KeysKept s t) ∧
    (bits w.toNat 4 3 ≠ 0 → Gives s (.policy w sig false) fun t =>
      if signed 0x04 (Config.secPayload 0x04 [w.toNat] []) = true then SecAnswered s t 0x04 .ok [] ∧ t.sec.policy = w ∧
        t.sec.count = s.sec.count + 1 ∧ t.sec.installer = s.sec.installer
      else SecAnswered s t 0x04 .accessDenied [] ∧ KeysKept s t) ∧
    (bits w.toNat 4 3 = 0 → Gives s (.policy w sig false) fun t => SecAnswered s t 0x04 .badDescriptor [] ∧ KeysKept s t)

/-- R521 to R524: reading, acknowledging and sealing the audit book, the checkpoints that fall due, and maker debug from its nonce to its end. -/
def Obligations.AuditAndDebug : Prop :=
  ∀ (s : State) (first count aseq scheme : Nat) (addr : W64) (token c sig : List Byte),
    let found := ((s.sec.book.inOrder.filter (fun e => decide (first ≤ e.1))).take count).map (·.2)
    (SecReady s →
      (found = [] → Gives s (.auditRead first count addr false) fun t => SecAnswered s t 0x05 .ok (Config.secReply 0x05 [0]) ∧ KeysKept s t) ∧
      (found ≠ [] → Gives s (.auditRead first count addr false) fun t =>
        t.out = s.out ++ [.hostWrite addr found.flatten, secAnswer s .ok (Config.secReply 0x05 [found.length])]) ∧
      (Gives s (.auditAck aseq false) fun t => SecAnswered s t 0x06 .ok (Config.secReply 0x06 [(s.sec.book.ack aseq).free]) ∧
        t.sec.book.acked = max s.sec.book.acked (aseq + 1) ∧ KeysKept s t) ∧
      (s.sec.book.open' = 0 → Gives s (.auditSeal false) fun t => SecAnswered s t 0x07 .ok (Config.secReply 0x07 [s.sec.book.sealedAt]) ∧
        t.sec.book.sealedAt = s.sec.book.sealedAt) ∧
      (s.sec.book.open' ≠ 0 → BookRoom s → Gives s (.auditSeal false) fun t =>
        SecAnswered s t 0x07 .ok (Config.secReply 0x07 [s.sec.book.next + 1]) ∧ t.sec.book.sealedAt = s.sec.book.next + 1 ∧ t.sec.book.open' = 0) ∧
      (Gives s (.debugNonce false) fun t => SecAnswered s t 0x08 .ok s.nextNonce ∧ t.sec.nonce = some s.nextNonce ∧
        t.sec.nonces = s.sec.nonces + 1 ∧ t.sec.unlocked = s.sec.unlocked ∧ KeysKept s t) ∧
      (Gives s (.consent token false) fun t =>
        let st := (s.consentDone token).status
        SecAnswered s t 0x09 st [] ∧ t.sec.unlocked = s.sec.unlocked ∧
        (t.sec.consent, t.sec.nonce) = if st = .ok then (some (token.take 64), none) else (s.sec.consent, s.sec.nonce)) ∧
      (Gives s (.relock false) fun t => SecAnswered s t 0x0A .ok [] ∧ t.sec.unlocked = false ∧ t.sec.consent = none)) ∧
    (s.debugAllowed = false ∨ s.livePitches ≠ [] ∨ s.sec.nonce ≠ some ((token.drop 24).take 32) → (s.consentDone token).status ≠ .ok) ∧
    (s.sec.book.open' < 256 → (0 < s.sec.book.open' → s.now.toNat < s.sec.book.oldest.toNat + 60 * 10 ^ 9) → exec .auditCheckpoint s = .next s) ∧
    (256 ≤ s.sec.book.open' → BookRoom s → Gives s .auditCheckpoint fun t => t.sec.book.open' = 0 ∧ t.sec.book.sealedAt = s.sec.book.next ∧
      t.sec.book.next = s.sec.book.next + 1 ∧ t.out = s.out ∧ t.mem = s.mem) ∧
    (s.sec.consent = some c → s.debugAllowed = true → s.livePitches = [] → s.sec.unlocked = false → s.now.toNat ≤ s.notAfter → scheme = 1 ∨ scheme = 2 →
      Gives s (.debugUnlock scheme sig) fun t => t.sec.unlocked = sigOk scheme (Config.makerKey scheme) c sig ∧
        t.sec.consent = s.sec.consent ∧ t.mem = s.mem ∧ t.out = s.out) ∧
    (s.sec.consent = none ∨ s.livePitches ≠ [] → Gives s (.debugUnlock scheme sig) fun t =>
      t.sec.unlocked = s.sec.unlocked ∧ t.mem = s.mem ∧ t.out = s.out) ∧
    (s.sec.unlocked = true → s.notAfter < s.now.toNat → Gives s .debugExpiry fun t => t.sec.unlocked = false ∧ t.sec.consent = none) ∧
    (s.sec.unlocked = false ∨ s.now.toNat ≤ s.notAfter → exec .debugExpiry s = .next s)

/-- R525 to R532, Table 21-11: the firmware descriptors, and how an image in trial is confirmed or given up. -/
def Obligations.FirmwareUpdate : Prop :=
  ∀ (s : State) (q : QueueId) (x : Queue) (d : Desc) (hdr data : List Byte) (y : FwSess) (k : FwId) (st : Status),
    let c := fieldAt d.bytes 8 1
    let off := fieldAt d.bytes 12 4
    let len := fieldAt d.bytes 16 4
    let h := hdr.take len
    let failing := s.openFails h len (bit (fieldAt d.bytes 20 1) 0)
    let z := (s.comp c).spare
    (Heads s q 0x60 x d → failing = some st → EndsHead s (.fwOpen q hdr) (s.auditDesc q d none st) q d st 0) ∧
    (Heads s q 0x60 x d → failing ≠ none ∨ ∃ u, EndsHead s (.fwOpen q hdr) u q d .ok 0 ∧
      (∀ e ∈ hdrOrder h, (u.comp e.1).spare = ⟨.loading, e.2, [], 0⟩) ∧ (∀ n, 1 ≤ n → n ≤ 5 → (u.comp n).active = (s.comp n).active) ∧
      (u.fw.sess.map (fun y => (y.bundle, y.comps, y.status)) = some (fieldAt h 12 4, (hdrOrder h).map (·.1), BitVec.ofNat 64 (fieldAt d.bytes 24 8)))) ∧
    (Heads s q 0x61 x d → z.st ≠ .loading ∨ entLength z.entry < off + len →
      EndsHead s (.fwBlock q data) (s.auditDesc q d none .badDescriptor) q d .badDescriptor 0) ∧
    (Heads s q 0x61 x d → 1 ≤ c → c ≤ 5 → z.st = .loading → off + len ≤ entLength z.entry → (len % 4096 = 0 ∨ off + len = entLength z.entry) →
      data.length = len → ∃ u, EndsHead s (.fwBlock q data) u q d .ok 0 ∧ CompKept s u c ∧ (u.comp c).active = (s.comp c).active ∧
        (u.comp c).spare.st = .loading ∧ (u.comp c).spare.entry = z.entry ∧
        ∀ i, Tab.find (u.comp c).spare.image i = if off ≤ i ∧ i < off + len then data[i - off]? else Tab.find z.image i) ∧
    (Heads s q 0x62 x d → 1 ≤ c → c ≤ 5 → z.st = .loading →
      s.fw.sess = some y → c ∈ y.comps →
        if Config.sha384 (z.bytes (entLength z.entry)) = (z.entry.drop 16).take 48 then
          ∃ u, EndsHead s (.fwCommit q) u q d .ok 0 ∧ (u.comp c).spare = { z with st := .committed } ∧ (u.comp c).active = (s.comp c).active ∧ CompKept s u c
        else EndsHead s (.fwCommit q) (s.auditDesc q d none .badDescriptor) q d .badDescriptor 0) ∧
    (Heads s q 0x63 x d → (s.activateFails c = true → EndsHead s (.fwActivate q) (s.auditDesc q d none .badDescriptor) q d .badDescriptor 0) ∧
      (s.activateFails c = false → s.fw.sess = some y → c ∈ y.comps →
        (c = 4 → ∃ u, EndsHead s (.fwActivate q) u q d .ok 0 ∧ (u.comp c).spare = { z with st := .armed } ∧ CompKept s u c) ∧
        (c < 4 → ∃ u, EndsHead s (.fwActivate q) u q d .ok 0 ∧ (u.comp c).spare = { z with st := .trial, trials := z.trials + 1 } ∧ CompKept s u c) ∧
        (c = 5 → s.fw.port = none → FrontEndGives s (.fwActivate q) (s.portTakes q d.hseq 0)) ∧
        (∀ before, c = 5 → s.fw.port = some (q.val, d.hseq, 7, before) → s.portBack 7 before = true →
          ∃ u, EndsHead s (.fwActivate q) u q d .ok 0 ∧ u.fw.port = none ∧ (u.comp c).spare = { z with st := .trial, trials := z.trials + 1 }))) ∧
    (let f := s.comp (k.val + 1)
     (f.spare.st ≠ .trial → exec (.fwConfirm k) s = .next s ∧ exec (.fwTrialFailure k) s = .next s) ∧
     (f.spare.st = .trial →
      (Gives s (.fwConfirm k) fun t => (t.comp (k.val + 1)).active = { f.spare with st := .active } ∧
        (t.comp (k.val + 1)).spare = { f.active with st := .previous } ∧
        (t.comp (k.val + 1)).floor = (if entRaise f.spare.entry then max f.floor (entSvn f.spare.entry) else f.floor) ∧ t.mem = s.mem) ∧
      (f.spare.trials < 2 → Gives s (.fwTrialFailure k) fun t =>
        (t.comp (k.val + 1)).spare = { f.spare with trials := f.spare.trials + 1 } ∧ (t.comp (k.val + 1)).active = f.active) ∧
      (2 ≤ f.spare.trials → Gives s (.fwTrialFailure k) fun t =>
        (t.comp (k.val + 1)).spare = { f.spare with st := .failed } ∧ (t.comp (k.val + 1)).active = f.active)))

/-- R519, R520, R524, R537, R550 to R553, R555: the set-up window, and the sideband. -/
def Obligations.WindowAndSideband : Prop :=
  ∀ (s : State) (fn : FnId) (off n p a id : Nat) (phys po vdm : Bool) (bs : List Byte) (pl : Place) (slot : Nat) (v : W64) (u : UnitId) (r : PldmReq) (k : StackId) (g : PitchId),
    (s.md.hostUp = true → s.dieDown = false → s.fnThere fn = true →
      (s.hostView fn off = none → exec (.bar4Write fn off bs po) s = .next (s.setFld fn offAccErr 47 32 (s.fld fn offAccErr 47 32 + 1))) ∧
      (s.hostView fn off = some (p, a, phys) → lineRuns a bs.length = [(a, bs.length)] → s.hostPlace p phys .csWrite a bs.length = .ok pl →
        Gives s (.bar4Write fn off bs po) fun t => (∃ r, t.mem = { s.mem with reqs := s.mem.reqs ++ [r] } ∧ r.client = .host fn ∧ r.pitch = p ∧
          r.place = pl ∧ r.kind = .hostWrite bs po ∧ r.served = none) ∧ t.stalls = s.stalls ∧ t.regs = s.regs ∧ t.out = s.out) ∧
      (s.hostView fn off = some (p, a, phys) → lineRuns a bs.length = [(a, bs.length)] → s.hostPlace p phys .csWrite a bs.length = .denied false →
        exec (.bar4Write fn off bs po) s = .next (s.setFld fn offAccErr 47 32 (s.fld fn offAccErr 47 32 + 1))) ∧
      (s.hostView fn off = some (p, a, phys) → s.settleHost fn = s → lineRuns a n = [(a, n)] → s.hostPlace p phys .read a n = .ok pl →
        let x := s.readPlace pl
        exec (.bar4Read fn off n) s = .next { s with out := s.out ++ [if s.linePoison x.1 x.2 then .readData fn (List.replicate n 0) true
          else .readData fn (s.memBytes x.1 x.2 n) false] })) ∧
    (s.md.hostUp = true → s.dieDown = true → s.fnThere fn = true → exec (.bar4Write fn off bs po) s = .next s ∧
      exec (.bar4Read fn off n) s = .next { s with out := s.out ++ [.readData fn (List.replicate n 0) false] }) ∧
    (s.endpointUp vdm = true →
      (Gives s (.spdmMessage vdm none .getVersion) fun t => t.sec = { s.sec with spdmStep := 1, sessions := [] } ∧
        (∃ b, t.out = s.out ++ [.spdm vdm 0x04 b]) ∧ t.mem = s.mem) ∧
      (32 ≤ slot → slot < 56 → Gives s (.spdmMessage vdm none (.getMeasurements slot bs)) fun t => t.sec = s.sec ∧
        ∃ b, t.out = s.out ++ [.spdm vdm 0x7F b]) ∧
      (s.sec.spdmStep = 3 → 1 ≤ slot → slot ≤ 10 → Gives s (.spdmMessage vdm none (.getMeasurements slot bs)) fun t => t.sec = s.sec ∧
        ∃ b, t.out = s.out ++ [.spdm vdm 0x60 b]) ∧
      (s.session? id = none → Gives s (.spdmMessage vdm (some id) .heartbeat) fun t => t.sec = s.sec ∧ ∃ b, t.out = s.out ++ [.spdm vdm 0x7F b]) ∧
      exec (.mctpControlMessage vdm .getEid) s = .next { s with out := s.out ++ [.mctp vdm (some (s.eid vdm))] } ∧
      exec (.mctpControlMessage vdm (.pldm r)) s = .next { s with out := s.out ++ [s.pldm vdm r] } ∧
      (r = .read (.pitch g) → s.pldm vdm r =
        .pldmReading vdm (if s.dieDown = true ∨ s.fine = false then none else some ((bits (s.pcfgView g) 27 26 : Nat) : Int))) ∧
      (r = .read (.stackTemp k) → s.pldm vdm r = .pldmReading vdm (if s.dieDown = true ∨ s.fine = false then none else some (s.stack k).temp.toInt)) ∧
      (0 < slot → slot < 255 → Gives s (.mctpControlMessage vdm (.setEid slot)) fun t => t.eid vdm = slot ∧ t.eid (!vdm) = s.eid (!vdm) ∧
        t.out = s.out ++ [.mctp vdm (some slot)])) ∧
    (s.endpointUp vdm = false → exec (.spdmMessage vdm none .getVersion) s = .next s ∧ exec (.mctpControlMessage vdm .getEid) s = .next s) ∧
    (s.md.supply = true →
      exec (.jtagInstruction .idcode) s = .next { s with out := s.out ++ [.jtag (some Config.idcode)] } ∧
      (∀ op : JtagOp, op ≠ .idcode → s.sec.unlocked = false → exec (.jtagInstruction op) s = .next { s with out := s.out ++ [.jtag none] }) ∧
      (s.jtagMay 0 = true → exec (.jtagInstruction (.regRead fn off)) s = .next { s with out := s.out ++ [.jtag (some (s.readReg fn off).toNat)] }) ∧
      (s.jtagMay 1 = true → exec (.jtagInstruction (.regWrite fn off v)) s = .next (s.regWrite fn off v.toNat)) ∧
      (s.jtagMay 3 = true → exec (.jtagInstruction (.memRead u off n)) s = .next { s with out := s.out ++ [.jtag (some (leNat (s.memBytes u off n)))] }))

end

namespace Sys2Proof.Cert
open Sys2Proof.Machine

/-- The context in which an instruction of a stall program runs, and its guard: GN and GP (R133). -/
def guardOf : Instr → Option (StallId × CtxId × Bool × Fin 8)
  | .nop st cx f => some (st, cx, f.gn, f.gp)
  | .add st cx f => some (st, cx, f.gn, f.gp)
  | .sub st cx f => some (st, cx, f.gn, f.gp)
  | .mul st cx f => some (st, cx, f.gn, f.gp)
  | .mulh st cx f => some (st, cx, f.gn, f.gp)
  | .and st cx f => some (st, cx, f.gn, f.gp)
  | .or st cx f => some (st, cx, f.gn, f.gp)
  | .xor st cx f => some (st, cx, f.gn, f.gp)
  | .shl st cx f => some (st, cx, f.gn, f.gp)
  | .shr st cx f => some (st, cx, f.gn, f.gp)
  | .sar st cx f => some (st, cx, f.gn, f.gp)
  | .addi st cx f => some (st, cx, f.gn, f.gp)
  | .movi st cx f => some (st, cx, f.gn, f.gp)
  | .movh st cx f => some (st, cx, f.gn, f.gp)
  | .cmp st cx f => some (st, cx, f.gn, f.gp)
  | .cmpi st cx f => some (st, cx, f.gn, f.gp)
  | .plog st cx f => some (st, cx, f.gn, f.gp)
  | .mova st cx f => some (st, cx, f.gn, f.gp)
  | .movg st cx f => some (st, cx, f.gn, f.gp)
  | .ld st cx f => some (st, cx, f.gn, f.gp)
  | .st st cx f => some (st, cx, f.gn, f.gp)
  | .ldb st cx f _ => some (st, cx, f.gn, f.gp)
  | .stb st cx f => some (st, cx, f.gn, f.gp)
  | .flags st cx f => some (st, cx, f.gn, f.gp)
  | .br st cx f => some (st, cx, f.gn, f.gp)
  | .jr st cx f => some (st, cx, f.gn, f.gp)
  | .call st cx f => some (st, cx, f.gn, f.gp)
  | .loop st cx f => some (st, cx, f.gn, f.gp)
  | .loopi st cx f => some (st, cx, f.gn, f.gp)
  | .lbrk st cx f => some (st, cx, f.gn, f.gp)
  | .endInst st cx f => some (st, cx, f.gn, f.gp)
  | .tset st cx f => some (st, cx, f.gn, f.gp)
  | .tget st cx f => some (st, cx, f.gn, f.gp)
  | .tld st cx f => some (st, cx, f.gn, f.gp)
  | .tst st cx f => some (st, cx, f.gn, f.gp)
  | .tmov st cx f => some (st, cx, f.gn, f.gp)
  | .tadv st cx f => some (st, cx, f.gn, f.gp)
  | .pass st cx f => some (st, cx, f.gn, f.gp)
  | .wld st cx f => some (st, cx, f.gn, f.gp)
  | .ascl st cx f => some (st, cx, f.gn, f.gp)
  | .dctw st cx f => some (st, cx, f.gn, f.gp)
  | .satm st cx f => some (st, cx, f.gn, f.gp)
  | .splt st cx f => some (st, cx, f.gn, f.gp)
  | .vld st cx f _ => some (st, cx, f.gn, f.gp)
  | .vst st cx f => some (st, cx, f.gn, f.gp)
  | .vldc st cx f _ => some (st, cx, f.gn, f.gp)
  | .vstc st cx f => some (st, cx, f.gn, f.gp)
  | .vbc st cx f => some (st, cx, f.gn, f.gp)
  | .vlane st cx f => some (st, cx, f.gn, f.gp)
  | .vadd st cx f => some (st, cx, f.gn, f.gp)
  | .vsub st cx f => some (st, cx, f.gn, f.gp)
  | .vmul st cx f => some (st, cx, f.gn, f.gp)
  | .vfma st cx f => some (st, cx, f.gn, f.gp)
  | .vmax st cx f => some (st, cx, f.gn, f.gp)
  | .vmin st cx f => some (st, cx, f.gn, f.gp)
  | .vlog st cx f => some (st, cx, f.gn, f.gp)
  | .vsh st cx f => some (st, cx, f.gn, f.gp)
  | .vcmp st cx f => some (st, cx, f.gn, f.gp)
  | .vsel st cx f => some (st, cx, f.gn, f.gp)
  | .vcvt st cx f => some (st, cx, f.gn, f.gp)
  | .vsfu st cx f => some (st, cx, f.gn, f.gp)
  | .vred st cx f => some (st, cx, f.gn, f.gp)
  | .vrmax st cx f => some (st, cx, f.gn, f.gp)
  | .vexpd st cx f => some (st, cx, f.gn, f.gp)
  | .vsca st cx f => some (st, cx, f.gn, f.gp)
  | .vscf st cx f => some (st, cx, f.gn, f.gp)
  | .vwadd st cx f => some (st, cx, f.gn, f.gp)
  | .vwcvt st cx f => some (st, cx, f.gn, f.gp)
  | .vwanc st cx f => some (st, cx, f.gn, f.gp)
  | .vcvtt st cx f => some (st, cx, f.gn, f.gp)
  | .pcopy st cx f => some (st, cx, f.gn, f.gp)
  | .pgath st cx f => some (st, cx, f.gn, f.gp)
  | .pwalk st cx f => some (st, cx, f.gn, f.gp)
  | .pconv st cx f => some (st, cx, f.gn, f.gp)
  | .psend st cx f => some (st, cx, f.gn, f.gp)
  | .ppost st cx f => some (st, cx, f.gn, f.gp)
  | .ptime st cx f => some (st, cx, f.gn, f.gp)
  | .waitu st cx f => some (st, cx, f.gn, f.gp)
  | .tkacq st cx f => some (st, cx, f.gn, f.gp)
  | .tktry st cx f => some (st, cx, f.gn, f.gp)
  | .tkpass st cx f => some (st, cx, f.gn, f.gp)
  | .tkrel st cx f => some (st, cx, f.gn, f.gp)
  | .tkwait st cx f => some (st, cx, f.gn, f.gp)
  | .aadd st cx f => some (st, cx, f.gn, f.gp)
  | .amin st cx f => some (st, cx, f.gn, f.gp)
  | .amax st cx f => some (st, cx, f.gn, f.gp)
  | .acas st cx f => some (st, cx, f.gn, f.gp)
  | .awadd st cx f => some (st, cx, f.gn, f.gp)
  | .atens st cx f => some (st, cx, f.gn, f.gp)
  | .mfen st cx f => some (st, cx, f.gn, f.gp)
  | .mark st cx f => some (st, cx, f.gn, f.gp)
  | .time st cx f => some (st, cx, f.gn, f.gp)
  | .cyc st cx f => some (st, cx, f.gn, f.gp)
  | _ => none

/-- ENROLL and REVOKE, by what a requester must hold for a key slot of `u` to change: for ENROLL the signature of the present installer key, or an
empty INSTALLER slot while every pitch is OFF; for REVOKE that signature (R518). -/
def KeyRight (u : State) (c : Instr) : Prop :=
  (∃ slot scheme key sig bad, c = .enroll slot scheme key sig bad ∧
    (u.installerSigned (u.signedBytes 0x02 (Config.secPayload 0x02 [slot, scheme] key)) sig = true ∨
     (slot = 2 ∧ u.sec.installer = none ∧ u.livePitches = []))) ∨
  (∃ slot sig bad, c = .revoke slot sig bad ∧ u.installerSigned (u.signedBytes 0x03 (Config.secPayload 0x03 [slot] [])) sig = true)

end Sys2Proof.Cert

section
open Sys2Proof Sys2Proof.Machine Sys2Proof.Cert

/-- A step takes the command at the front of the queue and runs it with the rest of the queue; a block with nothing to do idles (a choice of
the model, log entry 7). -/
def Obligations.StepTakesFront : Prop :=
  ∀ (s : State) (c : Instr) (q : List Instr),
    (s.pending = c :: q → step s = exec c { s with pending := q }) ∧ (s.pending = [] → step s = .next s)

/-- R569, Tables 15-1, 16-3, 16-4, 17-2, 17-5, 17-17, 20-9, 20-11 and 21-6: the state that start-up leaves. Every pitch is OFF, every port's EN is 0, no
region is enabled, VALID is clear, and each register named holds the reset value of its table. -/
def Obligations.ResetValues : Prop :=
  let r := State.reset
  r.pending = [] ∧ (∀ p, p < 24 → (r.pitch p).state = .off) ∧ (∀ i, i < 32 → (r.link i).state = .off) ∧ (∀ n, n < 16 → (r.region n).state = .off) ∧
  r.clk.valid = false ∧ r.clk.tstate = tsFree ∧ r.clk.hops = 255 ∧ r.fe.queues = [] ∧ r.fe.fences = [] ∧ r.tokens = [] ∧ r.crst.step = 0 ∧
  r.sec.installer = none ∧ r.sec.unlocked = false ∧ r.sec.book.next = 1 ∧ r.ialg = 3 ∧ r.calg = 1 ∧ r.cosign = false ∧ r.debugAllowed = false ∧
  r.pw.stage = 0 ∧ r.pw.ceil = 74 ∧ r.health.replace = false ∧ r.net.epoch = 0 ∧
  r.fld 0 offTsync 23 16 = 10 ∧ r.fld 0 offSlowLim 15 0 = 30 ∧ r.fld 0 offHangWin 15 0 = 500 ∧ r.fmax = 74 ∧ (∀ n, n < 8 → r.fld 0 (offPort n) 0 0 = 0)

/-- The canonical forms of memory, of the bays and of the registers hold at reset. -/
def Obligations.ResetCanonical : Prop := State.reset.canonical

/-- Every step keeps the canonical forms: addresses strictly rise, and no entry equals what an unlisted address reads as. -/
def Obligations.CanonicalKept : Prop := ∀ s t : State, s.canonical → step s = .next t → t.canonical

/-- Every command completes from every state: exec answers a next state, which keeps the queue and the package's part, place and UID. -/
def Obligations.EveryCommandCompletes : Prop :=
  ∀ (c : Instr) (s : State), Gives s c fun t =>
    t.pending = s.pending ∧ t.chip.part = s.chip.part ∧ t.chip.pkg = s.chip.pkg ∧ t.chip.uid = s.chip.uid

/-- R472, R516, R518, R522, R523, R526: what no command undoes. A physical stall that is mapped out stays so; the audit book's ASEQ and the ASEQ
acknowledged never move back; an SVN floor never falls; and a key slot changes only by ENROLL or REVOKE, with the right that R518 asks. -/
def Obligations.NothingUndone : Prop :=
  ∀ (c : Instr) (s t : State), exec c s = .next t →
    (∀ i, s.health.out.getLsbD i = true → t.health.out.getLsbD i = true) ∧
    s.sec.book.next ≤ t.sec.book.next ∧ s.sec.book.acked ≤ t.sec.book.acked ∧ (∀ k, (s.comp k).floor ≤ (t.comp k).floor) ∧
    (t.sec.installer ≠ s.sec.installer ∨ t.sec.operators ≠ s.sec.operators → KeyRight (s.settleHost 0) c)

/-- R125, R131, R133: what every instruction of a stall program meets before it acts. Where no instance of a launch that goes on is at an instruction, it has no effect;
a program counter beyond the image ends the launch with BAD_PROGRAM; one whose guard is false runs on and changes nothing else; p0 reads true, so that an
instruction without a guard executes, and g0 reads zero. -/
def Obligations.InstructionGuards : Prop :=
  ∀ (s : State) (c : Instr) (st : StallId) (cx : CtxId) (gn : Bool) (gp : Fin 8), guardOf c = some (st, cx, gn, gp) →
    (s.atIssue st cx = false → exec c s = .next s) ∧
    (s.atIssue st cx = true → s.inImage st cx = false → ∃ op, exec c s = .next (s.badProgram st cx op)) ∧
    (s.atIssue st cx = true → s.inImage st cx = true → s.guard st cx gn gp = false → Retires s st cx 0 c (s.ctxOf st cx)) ∧
    s.guard st cx false 0 = true ∧ (s.ctxOf st cx).getP 0 = true ∧ (s.ctxOf st cx).getG 0 = 0 ∧
    s.guard st cx gn gp = ((s.ctxOf st cx).getP gp ^^ gn)

/-- R6: a sequence number precedes another when the difference modulo 2^32 lies in the range 1 to 2^31 - 1; two that are equal or lie exactly 2^31
apart do not precede each other. -/
def Obligations.SequenceOrder : Prop :=
  ∀ a b : W32, (precedes a b = true ↔ 1 ≤ (b.toNat + 2 ^ 32 - a.toNat) % 2 ^ 32 ∧ (b.toNat + 2 ^ 32 - a.toNat) % 2 ^ 32 ≤ 2 ^ 31 - 1) ∧
    (a = b ∨ (b.toNat + 2 ^ 32 - a.toNat) % 2 ^ 32 = 2 ^ 31 → precedes a b = false ∧ precedes b a = false)

/-- R29: sub-byte elements are packed from the least significant bit upwards, in bytes for 4-bit formats and in little-endian words of three bytes for
6-bit formats; and codes packed and unpacked are the same codes. -/
def Obligations.SubByteElements : Prop :=
  ∀ (bs : List Byte) (n i : Nat) (cs : List Nat),
    (2 * i < n → i < bs.length → (unpackCodes 4 bs n)[2 * i]? = bs[i]?.map (fun b => (b.extractLsb' 0 4).toNat)) ∧
    (2 * i + 1 < n → i < bs.length → (unpackCodes 4 bs n)[2 * i + 1]? = bs[i]?.map (fun b => (b.extractLsb' 4 4).toNat)) ∧
    (∀ j, j < 4 → 4 * i + j < n → 3 * i + 2 < bs.length → (unpackCodes 6 bs n)[4 * i + j]? =
      some (leNat ((bs.drop (3 * i)).take 3) / 2 ^ (6 * j) % 2 ^ 6)) ∧
    (∀ w, 0 < w → (∀ c ∈ cs, c < 2 ^ w) → unpackCodes w (packCodes w cs) cs.length = cs)

end
end

