-- ==== Sys2Proof/Laws/Exec.lean ====
section
/-! SUPPORT. What exec is on each command: the call of its meaning. -/

namespace Sys2Proof.Machine

theorem exec_nop (st : StallId) (cx : CtxId) (f : FmtA) (s : State) : exec (.nop st cx f) s = Sys2Proof.Machine.execNop st cx f s := rfl
theorem exec_add (st : StallId) (cx : CtxId) (f : FmtA) (s : State) : exec (.add st cx f) s = Sys2Proof.Machine.execAdd st cx f s := rfl
theorem exec_sub (st : StallId) (cx : CtxId) (f : FmtA) (s : State) : exec (.sub st cx f) s = Sys2Proof.Machine.execSub st cx f s := rfl
theorem exec_mul (st : StallId) (cx : CtxId) (f : FmtA) (s : State) : exec (.mul st cx f) s = Sys2Proof.Machine.execMul st cx f s := rfl
theorem exec_mulh (st : StallId) (cx : CtxId) (f : FmtA) (s : State) : exec (.mulh st cx f) s = Sys2Proof.Machine.execMulh st cx f s := rfl
theorem exec_and (st : StallId) (cx : CtxId) (f : FmtA) (s : State) : exec (.and st cx f) s = Sys2Proof.Machine.execAnd st cx f s := rfl
theorem exec_or (st : StallId) (cx : CtxId) (f : FmtA) (s : State) : exec (.or st cx f) s = Sys2Proof.Machine.execOr st cx f s := rfl
theorem exec_xor (st : StallId) (cx : CtxId) (f : FmtA) (s : State) : exec (.xor st cx f) s = Sys2Proof.Machine.execXor st cx f s := rfl
theorem exec_shl (st : StallId) (cx : CtxId) (f : FmtA) (s : State) : exec (.shl st cx f) s = Sys2Proof.Machine.execShl st cx f s := rfl
theorem exec_shr (st : StallId) (cx : CtxId) (f : FmtA) (s : State) : exec (.shr st cx f) s = Sys2Proof.Machine.execShr st cx f s := rfl
theorem exec_sar (st : StallId) (cx : CtxId) (f : FmtA) (s : State) : exec (.sar st cx f) s = Sys2Proof.Machine.execSar st cx f s := rfl
theorem exec_addi (st : StallId) (cx : CtxId) (f : FmtA) (s : State) : exec (.addi st cx f) s = Sys2Proof.Machine.execAddi st cx f s := rfl
theorem exec_movi (st : StallId) (cx : CtxId) (f : FmtB) (s : State) : exec (.movi st cx f) s = Sys2Proof.Machine.execMovi st cx f s := rfl
theorem exec_movh (st : StallId) (cx : CtxId) (f : FmtB) (s : State) : exec (.movh st cx f) s = Sys2Proof.Machine.execMovh st cx f s := rfl
theorem exec_cmp (st : StallId) (cx : CtxId) (f : FmtA) (s : State) : exec (.cmp st cx f) s = Sys2Proof.Machine.execCmp st cx f s := rfl
theorem exec_cmpi (st : StallId) (cx : CtxId) (f : FmtA) (s : State) : exec (.cmpi st cx f) s = Sys2Proof.Machine.execCmpi st cx f s := rfl
theorem exec_plog (st : StallId) (cx : CtxId) (f : FmtA) (s : State) : exec (.plog st cx f) s = Sys2Proof.Machine.execPlog st cx f s := rfl
theorem exec_mova (st : StallId) (cx : CtxId) (f : FmtA) (s : State) : exec (.mova st cx f) s = Sys2Proof.Machine.execMova st cx f s := rfl
theorem exec_movg (st : StallId) (cx : CtxId) (f : FmtA) (s : State) : exec (.movg st cx f) s = Sys2Proof.Machine.execMovg st cx f s := rfl
theorem exec_ld (st : StallId) (cx : CtxId) (f : FmtA) (s : State) : exec (.ld st cx f) s = Sys2Proof.Machine.execLd st cx f s := rfl
theorem exec_st (st : StallId) (cx : CtxId) (f : FmtA) (s : State) : exec (.st st cx f) s = Sys2Proof.Machine.execSt st cx f s := rfl
theorem exec_ldb (st : StallId) (cx : CtxId) (f : FmtA) (ups : List (Nat × BitVec 39)) (s : State) : exec (.ldb st cx f ups) s = Sys2Proof.Machine.execLdb st cx f ups s := rfl
theorem exec_stb (st : StallId) (cx : CtxId) (f : FmtA) (s : State) : exec (.stb st cx f) s = Sys2Proof.Machine.execStb st cx f s := rfl
theorem exec_flags (st : StallId) (cx : CtxId) (f : FmtA) (s : State) : exec (.flags st cx f) s = Sys2Proof.Machine.execFlags st cx f s := rfl
theorem exec_br (st : StallId) (cx : CtxId) (f : FmtC) (s : State) : exec (.br st cx f) s = Sys2Proof.Machine.execBr st cx f s := rfl
theorem exec_jr (st : StallId) (cx : CtxId) (f : FmtC) (s : State) : exec (.jr st cx f) s = Sys2Proof.Machine.execJr st cx f s := rfl
theorem exec_call (st : StallId) (cx : CtxId) (f : FmtC) (s : State) : exec (.call st cx f) s = Sys2Proof.Machine.execCall st cx f s := rfl
theorem exec_loop (st : StallId) (cx : CtxId) (f : FmtC) (s : State) : exec (.loop st cx f) s = Sys2Proof.Machine.execLoop st cx f s := rfl
theorem exec_loopi (st : StallId) (cx : CtxId) (f : FmtC) (s : State) : exec (.loopi st cx f) s = Sys2Proof.Machine.execLoopi st cx f s := rfl
theorem exec_lbrk (st : StallId) (cx : CtxId) (f : FmtC) (s : State) : exec (.lbrk st cx f) s = Sys2Proof.Machine.execLbrk st cx f s := rfl
theorem exec_endInst (st : StallId) (cx : CtxId) (f : FmtC) (s : State) : exec (.endInst st cx f) s = Sys2Proof.Machine.execEndInst st cx f s := rfl
theorem exec_tset (st : StallId) (cx : CtxId) (f : FmtA) (s : State) : exec (.tset st cx f) s = Sys2Proof.Machine.execTset st cx f s := rfl
theorem exec_tget (st : StallId) (cx : CtxId) (f : FmtA) (s : State) : exec (.tget st cx f) s = Sys2Proof.Machine.execTget st cx f s := rfl
theorem exec_tld (st : StallId) (cx : CtxId) (f : FmtA) (s : State) : exec (.tld st cx f) s = Sys2Proof.Machine.execTld st cx f s := rfl
theorem exec_tst (st : StallId) (cx : CtxId) (f : FmtA) (s : State) : exec (.tst st cx f) s = Sys2Proof.Machine.execTst st cx f s := rfl
theorem exec_tmov (st : StallId) (cx : CtxId) (f : FmtA) (s : State) : exec (.tmov st cx f) s = Sys2Proof.Machine.execTmov st cx f s := rfl
theorem exec_tadv (st : StallId) (cx : CtxId) (f : FmtA) (s : State) : exec (.tadv st cx f) s = Sys2Proof.Machine.execTadv st cx f s := rfl
theorem exec_pass (st : StallId) (cx : CtxId) (f : FmtA) (s : State) : exec (.pass st cx f) s = Sys2Proof.Machine.execPass st cx f s := rfl
theorem exec_wld (st : StallId) (cx : CtxId) (f : FmtA) (s : State) : exec (.wld st cx f) s = Sys2Proof.Machine.execWld st cx f s := rfl
theorem exec_ascl (st : StallId) (cx : CtxId) (f : FmtA) (s : State) : exec (.ascl st cx f) s = Sys2Proof.Machine.execAscl st cx f s := rfl
theorem exec_dctw (st : StallId) (cx : CtxId) (f : FmtA) (s : State) : exec (.dctw st cx f) s = Sys2Proof.Machine.execDctw st cx f s := rfl
theorem exec_satm (st : StallId) (cx : CtxId) (f : FmtA) (s : State) : exec (.satm st cx f) s = Sys2Proof.Machine.execSatm st cx f s := rfl
theorem exec_splt (st : StallId) (cx : CtxId) (f : FmtA) (s : State) : exec (.splt st cx f) s = Sys2Proof.Machine.execSplt st cx f s := rfl
theorem exec_vld (st : StallId) (cx : CtxId) (f : FmtA) (ups : List (Nat × BitVec 39)) (s : State) : exec (.vld st cx f ups) s = Sys2Proof.Machine.execVld st cx f ups s := rfl
theorem exec_vst (st : StallId) (cx : CtxId) (f : FmtA) (s : State) : exec (.vst st cx f) s = Sys2Proof.Machine.execVst st cx f s := rfl
theorem exec_vldc (st : StallId) (cx : CtxId) (f : FmtA) (ups : List (Nat × BitVec 39)) (s : State) : exec (.vldc st cx f ups) s = Sys2Proof.Machine.execVldc st cx f ups s := rfl
theorem exec_vstc (st : StallId) (cx : CtxId) (f : FmtA) (s : State) : exec (.vstc st cx f) s = Sys2Proof.Machine.execVstc st cx f s := rfl
theorem exec_vbc (st : StallId) (cx : CtxId) (f : FmtA) (s : State) : exec (.vbc st cx f) s = Sys2Proof.Machine.execVbc st cx f s := rfl
theorem exec_vlane (st : StallId) (cx : CtxId) (f : FmtA) (s : State) : exec (.vlane st cx f) s = Sys2Proof.Machine.execVlane st cx f s := rfl
theorem exec_vadd (st : StallId) (cx : CtxId) (f : FmtA) (s : State) : exec (.vadd st cx f) s = Sys2Proof.Machine.execVadd st cx f s := rfl
theorem exec_vsub (st : StallId) (cx : CtxId) (f : FmtA) (s : State) : exec (.vsub st cx f) s = Sys2Proof.Machine.execVsub st cx f s := rfl
theorem exec_vmul (st : StallId) (cx : CtxId) (f : FmtA) (s : State) : exec (.vmul st cx f) s = Sys2Proof.Machine.execVmul st cx f s := rfl
theorem exec_vfma (st : StallId) (cx : CtxId) (f : FmtA) (s : State) : exec (.vfma st cx f) s = Sys2Proof.Machine.execVfma st cx f s := rfl
theorem exec_vmax (st : StallId) (cx : CtxId) (f : FmtA) (s : State) : exec (.vmax st cx f) s = Sys2Proof.Machine.execVmax st cx f s := rfl
theorem exec_vmin (st : StallId) (cx : CtxId) (f : FmtA) (s : State) : exec (.vmin st cx f) s = Sys2Proof.Machine.execVmin st cx f s := rfl
theorem exec_vlog (st : StallId) (cx : CtxId) (f : FmtA) (s : State) : exec (.vlog st cx f) s = Sys2Proof.Machine.execVlog st cx f s := rfl
theorem exec_vsh (st : StallId) (cx : CtxId) (f : FmtA) (s : State) : exec (.vsh st cx f) s = Sys2Proof.Machine.execVsh st cx f s := rfl
theorem exec_vcmp (st : StallId) (cx : CtxId) (f : FmtA) (s : State) : exec (.vcmp st cx f) s = Sys2Proof.Machine.execVcmp st cx f s := rfl
theorem exec_vsel (st : StallId) (cx : CtxId) (f : FmtA) (s : State) : exec (.vsel st cx f) s = Sys2Proof.Machine.execVsel st cx f s := rfl
theorem exec_vcvt (st : StallId) (cx : CtxId) (f : FmtA) (s : State) : exec (.vcvt st cx f) s = Sys2Proof.Machine.execVcvt st cx f s := rfl
theorem exec_vsfu (st : StallId) (cx : CtxId) (f : FmtA) (s : State) : exec (.vsfu st cx f) s = Sys2Proof.Machine.execVsfu st cx f s := rfl
theorem exec_vred (st : StallId) (cx : CtxId) (f : FmtA) (s : State) : exec (.vred st cx f) s = Sys2Proof.Machine.execVred st cx f s := rfl
theorem exec_vrmax (st : StallId) (cx : CtxId) (f : FmtA) (s : State) : exec (.vrmax st cx f) s = Sys2Proof.Machine.execVrmax st cx f s := rfl
theorem exec_vexpd (st : StallId) (cx : CtxId) (f : FmtA) (s : State) : exec (.vexpd st cx f) s = Sys2Proof.Machine.execVexpd st cx f s := rfl
theorem exec_vsca (st : StallId) (cx : CtxId) (f : FmtA) (s : State) : exec (.vsca st cx f) s = Sys2Proof.Machine.execVsca st cx f s := rfl
theorem exec_vscf (st : StallId) (cx : CtxId) (f : FmtA) (s : State) : exec (.vscf st cx f) s = Sys2Proof.Machine.execVscf st cx f s := rfl
theorem exec_vwadd (st : StallId) (cx : CtxId) (f : FmtA) (s : State) : exec (.vwadd st cx f) s = Sys2Proof.Machine.execVwadd st cx f s := rfl
theorem exec_vwcvt (st : StallId) (cx : CtxId) (f : FmtA) (s : State) : exec (.vwcvt st cx f) s = Sys2Proof.Machine.execVwcvt st cx f s := rfl
theorem exec_vwanc (st : StallId) (cx : CtxId) (f : FmtA) (s : State) : exec (.vwanc st cx f) s = Sys2Proof.Machine.execVwanc st cx f s := rfl
theorem exec_vcvtt (st : StallId) (cx : CtxId) (f : FmtA) (s : State) : exec (.vcvtt st cx f) s = Sys2Proof.Machine.execVcvtt st cx f s := rfl
theorem exec_pcopy (st : StallId) (cx : CtxId) (f : FmtA) (s : State) : exec (.pcopy st cx f) s = Sys2Proof.Machine.execPcopy st cx f s := rfl
theorem exec_pgath (st : StallId) (cx : CtxId) (f : FmtA) (s : State) : exec (.pgath st cx f) s = Sys2Proof.Machine.execPgath st cx f s := rfl
theorem exec_pwalk (st : StallId) (cx : CtxId) (f : FmtA) (s : State) : exec (.pwalk st cx f) s = Sys2Proof.Machine.execPwalk st cx f s := rfl
theorem exec_pconv (st : StallId) (cx : CtxId) (f : FmtA) (s : State) : exec (.pconv st cx f) s = Sys2Proof.Machine.execPconv st cx f s := rfl
theorem exec_psend (st : StallId) (cx : CtxId) (f : FmtA) (s : State) : exec (.psend st cx f) s = Sys2Proof.Machine.execPsend st cx f s := rfl
theorem exec_ppost (st : StallId) (cx : CtxId) (f : FmtA) (s : State) : exec (.ppost st cx f) s = Sys2Proof.Machine.execPpost st cx f s := rfl
theorem exec_ptime (st : StallId) (cx : CtxId) (f : FmtA) (s : State) : exec (.ptime st cx f) s = Sys2Proof.Machine.execPtime st cx f s := rfl
theorem exec_waitu (st : StallId) (cx : CtxId) (f : FmtA) (s : State) : exec (.waitu st cx f) s = Sys2Proof.Machine.execWaitu st cx f s := rfl
theorem exec_tkacq (st : StallId) (cx : CtxId) (f : FmtA) (s : State) : exec (.tkacq st cx f) s = Sys2Proof.Machine.execTkacq st cx f s := rfl
theorem exec_tktry (st : StallId) (cx : CtxId) (f : FmtA) (s : State) : exec (.tktry st cx f) s = Sys2Proof.Machine.execTktry st cx f s := rfl
theorem exec_tkpass (st : StallId) (cx : CtxId) (f : FmtA) (s : State) : exec (.tkpass st cx f) s = Sys2Proof.Machine.execTkpass st cx f s := rfl
theorem exec_tkrel (st : StallId) (cx : CtxId) (f : FmtA) (s : State) : exec (.tkrel st cx f) s = Sys2Proof.Machine.execTkrel st cx f s := rfl
theorem exec_tkwait (st : StallId) (cx : CtxId) (f : FmtA) (s : State) : exec (.tkwait st cx f) s = Sys2Proof.Machine.execTkwait st cx f s := rfl
theorem exec_aadd (st : StallId) (cx : CtxId) (f : FmtA) (s : State) : exec (.aadd st cx f) s = Sys2Proof.Machine.execAadd st cx f s := rfl
theorem exec_amin (st : StallId) (cx : CtxId) (f : FmtA) (s : State) : exec (.amin st cx f) s = Sys2Proof.Machine.execAmin st cx f s := rfl
theorem exec_amax (st : StallId) (cx : CtxId) (f : FmtA) (s : State) : exec (.amax st cx f) s = Sys2Proof.Machine.execAmax st cx f s := rfl
theorem exec_acas (st : StallId) (cx : CtxId) (f : FmtA) (s : State) : exec (.acas st cx f) s = Sys2Proof.Machine.execAcas st cx f s := rfl
theorem exec_awadd (st : StallId) (cx : CtxId) (f : FmtA) (s : State) : exec (.awadd st cx f) s = Sys2Proof.Machine.execAwadd st cx f s := rfl
theorem exec_atens (st : StallId) (cx : CtxId) (f : FmtA) (s : State) : exec (.atens st cx f) s = Sys2Proof.Machine.execAtens st cx f s := rfl
theorem exec_mfen (st : StallId) (cx : CtxId) (f : FmtA) (s : State) : exec (.mfen st cx f) s = Sys2Proof.Machine.execMfen st cx f s := rfl
theorem exec_mark (st : StallId) (cx : CtxId) (f : FmtA) (s : State) : exec (.mark st cx f) s = Sys2Proof.Machine.execMark st cx f s := rfl
theorem exec_time (st : StallId) (cx : CtxId) (f : FmtA) (s : State) : exec (.time st cx f) s = Sys2Proof.Machine.execTime st cx f s := rfl
theorem exec_cyc (st : StallId) (cx : CtxId) (f : FmtA) (s : State) : exec (.cyc st cx f) s = Sys2Proof.Machine.execCyc st cx f s := rfl
theorem exec_ldDataReturn (id : Nat) (s : State) : exec (.ldDataReturn id) s = Sys2Proof.Machine.execLdDataReturn id s := rfl
theorem exec_atomicResponse (id : Nat) (s : State) : exec (.atomicResponse id) s = Sys2Proof.Machine.execAtomicResponse id s := rfl
theorem exec_mfenComplete (st : StallId) (cx : CtxId) (s : State) : exec (.mfenComplete st cx) s = Sys2Proof.Machine.execMfenComplete st cx s := rfl
theorem exec_waituReturn (st : StallId) (cx : CtxId) (s : State) : exec (.waituReturn st cx) s = Sys2Proof.Machine.execWaituReturn st cx s := rfl
theorem exec_tokenGrant (n : Nat) (s : State) : exec (.tokenGrant n) s = Sys2Proof.Machine.execTokenGrant n s := rfl
theorem exec_deferredTokenEffect (n : Nat) (s : State) : exec (.deferredTokenEffect n) s = Sys2Proof.Machine.execDeferredTokenEffect n s := rfl
theorem exec_instanceEnd (st : StallId) (cx : CtxId) (s : State) : exec (.instanceEnd st cx) s = Sys2Proof.Machine.execInstanceEnd st cx s := rfl
theorem exec_passEntry (st : StallId) (sp : SplitId) (s : State) : exec (.passEntry st sp) s = Sys2Proof.Machine.execPassEntry st sp s := rfl
theorem exec_arraySlot (st : StallId) (sp : SplitId) (hold : Bool) (upset : Option ArrayUpset) (ups : List (Nat × BitVec 39)) (s : State) : exec (.arraySlot st sp hold upset ups) s = Sys2Proof.Machine.execArraySlot st sp hold upset ups s := rfl
theorem exec_outputRowsRelease (st : StallId) (sp : SplitId) (s : State) : exec (.outputRowsRelease st sp) s = Sys2Proof.Machine.execOutputRowsRelease st sp s := rfl
theorem exec_sweepComplete (st : StallId) (s : State) : exec (.sweepComplete st) s = Sys2Proof.Machine.execSweepComplete st s := rfl
theorem exec_sweepTimeout (st : StallId) (s : State) : exec (.sweepTimeout st) s = Sys2Proof.Machine.execSweepTimeout st s := rfl
theorem exec_remoteBayRequest (st : StallId) (ch : ChanId) (ups : List (Nat × BitVec 39)) (s : State) : exec (.remoteBayRequest st ch ups) s = Sys2Proof.Machine.execRemoteBayRequest st ch ups s := rfl
theorem exec_bayCorrectedRewrite (n : Nat) (s : State) : exec (.bayCorrectedRewrite n) s = Sys2Proof.Machine.execBayCorrectedRewrite n s := rfl
theorem exec_windowForce (n : WinId) (s : State) : exec (.windowForce n) s = Sys2Proof.Machine.execWindowForce n s := rfl
theorem exec_porterPairCheck (st : StallId) (eng : Fin 20) (s : State) : exec (.porterPairCheck st eng) s = Sys2Proof.Machine.execPorterPairCheck st eng s := rfl
theorem exec_porterTransferComplete (st : StallId) (ch : ChanId) (host : List Byte) (ups : List (Nat × BitVec 39)) (s : State) : exec (.porterTransferComplete st ch host ups) s = Sys2Proof.Machine.execPorterTransferComplete st ch host ups s := rfl
theorem exec_porterStarvation (st : StallId) (ch : ChanId) (s : State) : exec (.porterStarvation st ch) s = Sys2Proof.Machine.execPorterStarvation st ch s := rfl
theorem exec_pageWalkHeaderRead (st : StallId) (ch : ChanId) (s : State) : exec (.pageWalkHeaderRead st ch) s = Sys2Proof.Machine.execPageWalkHeaderRead st ch s := rfl
theorem exec_scaleFrameCheck (st : StallId) (ch : ChanId) (s : State) : exec (.scaleFrameCheck st ch) s = Sys2Proof.Machine.execScaleFrameCheck st ch s := rfl
theorem exec_pageWalkEpochRead (st : StallId) (ch : ChanId) (s : State) : exec (.pageWalkEpochRead st ch) s = Sys2Proof.Machine.execPageWalkEpochRead st ch s := rfl
theorem exec_blockDecode (st : StallId) (eng : Fin 12) (s : State) : exec (.blockDecode st eng) s = Sys2Proof.Machine.execBlockDecode st eng s := rfl
theorem exec_encodedWritePass (st : StallId) (ch : ChanId) (ups : List (Nat × BitVec 39)) (s : State) : exec (.encodedWritePass st ch ups) s = Sys2Proof.Machine.execEncodedWritePass st ch ups s := rfl
theorem exec_entTableBuildDone (st : StallId) (ch : ChanId) (s : State) : exec (.entTableBuildDone st ch) s = Sys2Proof.Machine.execEntTableBuildDone st ch s := rfl
theorem exec_entDecoderTableLoad (st : StallId) (s : State) : exec (.entDecoderTableLoad st) s = Sys2Proof.Machine.execEntDecoderTableLoad st s := rfl
theorem exec_factorExpandTile (st : StallId) (eng : Fin 12) (s : State) : exec (.factorExpandTile st eng) s = Sys2Proof.Machine.execFactorExpandTile st eng s := rfl
theorem exec_memoryRead (job : Option Served) (u : UnitId) (off : Nat) (o : LineOutcome) (alt : LineOutcome) (again : LineOutcome) (s : State) : exec (.memoryRead job u off o alt again) s = Sys2Proof.Machine.execMemoryRead job u off o alt again s := rfl
theorem exec_memoryWrite (job : Served) (s : State) : exec (.memoryWrite job) s = Sys2Proof.Machine.execMemoryWrite job s := rfl
theorem exec_memoryAtomic (id : Nat) (o : LineOutcome) (s : State) : exec (.memoryAtomic id o) s = Sys2Proof.Machine.execMemoryAtomic id o s := rfl
theorem exec_atomicBufferEvict (u : UnitId) (s : State) : exec (.atomicBufferEvict u) s = Sys2Proof.Machine.execAtomicBufferEvict u s := rfl
theorem exec_patrolRead (u : UnitId) (o : LineOutcome) (alt : LineOutcome) (again : LineOutcome) (s : State) : exec (.patrolRead u o alt again) s = Sys2Proof.Machine.execPatrolRead u o alt again s := rfl
theorem exec_stackTempReport (k : StackId) (temp : BitVec 12) (s : State) : exec (.stackTempReport k temp) s = Sys2Proof.Machine.execStackTempReport k temp s := rfl
theorem exec_memoryUnitPowerDown (u : UnitId) (s : State) : exec (.memoryUnitPowerDown u) s = Sys2Proof.Machine.execMemoryUnitPowerDown u s := rfl
theorem exec_bellWrite (fn : FnId) (off : Nat) (size : Nat) (data : BitVec 32) (s : State) : exec (.bellWrite fn off size data) s = Sys2Proof.Machine.execBellWrite fn off size data s := rfl
theorem exec_callerStart (s : State) : exec (.callerStart) s = Sys2Proof.Machine.execCallerStart s := rfl
theorem exec_doorbellScan (g : GroupId) (entries : List W64) (s : State) : exec (.doorbellScan g entries) s = Sys2Proof.Machine.execDoorbellScan g entries s := rfl
theorem exec_groupRescan (g : GroupId) (entries : List W64) (s : State) : exec (.groupRescan g entries) s = Sys2Proof.Machine.execGroupRescan g entries s := rfl
theorem exec_frontEndIdleCheck (s : State) : exec (.frontEndIdleCheck) s = Sys2Proof.Machine.execFrontEndIdleCheck s := rfl
theorem exec_descriptorFetch (q : QueueId) (slots : List (List Byte)) (s : State) : exec (.descriptorFetch q slots) s = Sys2Proof.Machine.execDescriptorFetch q slots s := rfl
theorem exec_cqDoorbellPoll (q : QueueId) (entry : W64) (s : State) : exec (.cqDoorbellPoll q entry) s = Sys2Proof.Machine.execCqDoorbellPoll q entry s := rfl
theorem exec_completionRecordWrite (q : QueueId) (s : State) : exec (.completionRecordWrite q) s = Sys2Proof.Machine.execCompletionRecordWrite q s := rfl
theorem exec_statusBlockWrite (k : BlockId) (s : State) : exec (.statusBlockWrite k) s = Sys2Proof.Machine.execStatusBlockWrite k s := rfl
theorem exec_watermarkRefresh (p : PitchId) (s : State) : exec (.watermarkRefresh p) s = Sys2Proof.Machine.execWatermarkRefresh p s := rfl
theorem exec_descNop (q : QueueId) (s : State) : exec (.descNop q) s = Sys2Proof.Machine.execDescNop q s := rfl
theorem exec_launch (q : QueueId) (s : State) : exec (.launch q) s = Sys2Proof.Machine.execLaunch q s := rfl
theorem exec_launchPlace (q : QueueId) (s : State) : exec (.launchPlace q) s = Sys2Proof.Machine.execLaunchPlace q s := rfl
theorem exec_wait (q : QueueId) (s : State) : exec (.wait q) s = Sys2Proof.Machine.execWait q s := rfl
theorem exec_signal (q : QueueId) (s : State) : exec (.signal q) s = Sys2Proof.Machine.execSignal q s := rfl
theorem exec_signalWriteVisible (n : FenceId) (s : State) : exec (.signalWriteVisible n) s = Sys2Proof.Machine.execSignalWriteVisible n s := rfl
theorem exec_pageEdit (q : QueueId) (s : State) : exec (.pageEdit q) s = Sys2Proof.Machine.execPageEdit q s := rfl
theorem exec_tableRelease (q : QueueId) (s : State) : exec (.tableRelease q) s = Sys2Proof.Machine.execTableRelease q s := rfl
theorem exec_queueCreate (q : QueueId) (s : State) : exec (.queueCreate q) s = Sys2Proof.Machine.execQueueCreate q s := rfl
theorem exec_queueDelete (q : QueueId) (s : State) : exec (.queueDelete q) s = Sys2Proof.Machine.execQueueDelete q s := rfl
theorem exec_resync (q : QueueId) (entries : List (Nat × W64)) (s : State) : exec (.resync q entries) s = Sys2Proof.Machine.execResync q entries s := rfl
theorem exec_resume (q : QueueId) (s : State) : exec (.resume q) s = Sys2Proof.Machine.execResume q s := rfl
theorem exec_hostwin (q : QueueId) (s : State) : exec (.hostwin q) s = Sys2Proof.Machine.execHostwin q s := rfl
theorem exec_kill (q : QueueId) (s : State) : exec (.kill q) s = Sys2Proof.Machine.execKill q s := rfl
theorem exec_pitchReset (q : QueueId) (s : State) : exec (.pitchReset q) s = Sys2Proof.Machine.execPitchReset q s := rfl
theorem exec_fwOpen (q : QueueId) (hdr : List Byte) (s : State) : exec (.fwOpen q hdr) s = Sys2Proof.Machine.execFwOpen q hdr s := rfl
theorem exec_fwBlock (q : QueueId) (data : List Byte) (s : State) : exec (.fwBlock q data) s = Sys2Proof.Machine.execFwBlock q data s := rfl
theorem exec_fwCommit (q : QueueId) (s : State) : exec (.fwCommit q) s = Sys2Proof.Machine.execFwCommit q s := rfl
theorem exec_fwActivate (q : QueueId) (s : State) : exec (.fwActivate q) s = Sys2Proof.Machine.execFwActivate q s := rfl
theorem exec_slotAssign (n : SlotId) (q : QueueId) (s : State) : exec (.slotAssign n q) s = Sys2Proof.Machine.execSlotAssign n q s := rfl
theorem exec_blockedSlotRelease (n : SlotId) (s : State) : exec (.blockedSlotRelease n) s = Sys2Proof.Machine.execBlockedSlotRelease n s := rfl
theorem exec_sliceExpiry (n : SlotId) (s : State) : exec (.sliceExpiry n) s = Sys2Proof.Machine.execSliceExpiry n s := rfl
theorem exec_msixHoldExpiry (fn : FnId) (v : VectorId) (s : State) : exec (.msixHoldExpiry fn v) s = Sys2Proof.Machine.execMsixHoldExpiry fn v s := rfl
theorem exec_msixUnmask (fn : FnId) (v : VectorId) (s : State) : exec (.msixUnmask fn v) s = Sys2Proof.Machine.execMsixUnmask fn v s := rfl
theorem exec_pitchEnable (p : PitchId) (v : W64) (s : State) : exec (.pitchEnable p v) s = Sys2Proof.Machine.execPitchEnable p v s := rfl
theorem exec_pitchDisable (p : PitchId) (s : State) : exec (.pitchDisable p) s = Sys2Proof.Machine.execPitchDisable p s := rfl
theorem exec_prstWarmCmd (p : PitchId) (s : State) : exec (.prstWarmCmd p) s = Sys2Proof.Machine.execPrstWarmCmd p s := rfl
theorem exec_prstScrubCmd (p : PitchId) (s : State) : exec (.prstScrubCmd p) s = Sys2Proof.Machine.execPrstScrubCmd p s := rfl
theorem exec_functionLevelReset (fn : FnId) (s : State) : exec (.functionLevelReset fn) s = Sys2Proof.Machine.execFunctionLevelReset fn s := rfl
theorem exec_vfDisable (n : Nat) (s : State) : exec (.vfDisable n) s = Sys2Proof.Machine.execVfDisable n s := rfl
theorem exec_xlatInval (p : PitchId) (v : W64) (s : State) : exec (.xlatInval p v) s = Sys2Proof.Machine.execXlatInval p v s := rfl
theorem exec_csresWrite (v : W64) (s : State) : exec (.csresWrite v) s = Sys2Proof.Machine.execCsresWrite v s := rfl
theorem exec_csEnable (n : RegionId) (v : W64) (s : State) : exec (.csEnable n v) s = Sys2Proof.Machine.execCsEnable n v s := rfl
theorem exec_csSeal (n : RegionId) (on : Bool) (s : State) : exec (.csSeal n on) s = Sys2Proof.Machine.execCsSeal n on s := rfl
theorem exec_lift (n : RegionId) (s : State) : exec (.lift n) s = Sys2Proof.Machine.execLift n s := rfl
theorem exec_csStateDeferred (n : RegionId) (s : State) : exec (.csStateDeferred n) s = Sys2Proof.Machine.execCsStateDeferred n s := rfl
theorem exec_pkrEnEffect (p : PitchId) (n : RegionId) (s : State) : exec (.pkrEnEffect p n) s = Sys2Proof.Machine.execPkrEnEffect p n s := rfl
theorem exec_tableAreaEnable (p : PitchId) (s : State) : exec (.tableAreaEnable p) s = Sys2Proof.Machine.execTableAreaEnable p s := rfl
theorem exec_fctEnEffect (p : PitchId) (s : State) : exec (.fctEnEffect p) s = Sys2Proof.Machine.execFctEnEffect p s := rfl
theorem exec_fenceQuery (fn : FnId) (i : FenceId) (s : State) : exec (.fenceQuery fn i) s = Sys2Proof.Machine.execFenceQuery fn i s := rfl
theorem exec_fenceDefine (fn : FnId) (i : FenceId) (owner : QueueId) (s : State) : exec (.fenceDefine fn i owner) s = Sys2Proof.Machine.execFenceDefine fn i owner s := rfl
theorem exec_fenceUndefine (fn : FnId) (i : FenceId) (s : State) : exec (.fenceUndefine fn i) s = Sys2Proof.Machine.execFenceUndefine fn i s := rfl
theorem exec_baywinOpen (n : WinId) (v : W64) (s : State) : exec (.baywinOpen n v) s = Sys2Proof.Machine.execBaywinOpen n v s := rfl
theorem exec_baywinClose (n : WinId) (s : State) : exec (.baywinClose n) s = Sys2Proof.Machine.execBaywinClose n s := rfl
theorem exec_dumpRelease (fn : FnId) (s : State) : exec (.dumpRelease fn) s = Sys2Proof.Machine.execDumpRelease fn s := rfl
theorem exec_stocktakeRelease (s : State) : exec (.stocktakeRelease) s = Sys2Proof.Machine.execStocktakeRelease s := rfl
theorem exec_aqEnable (fn : FnId) (v : W64) (s : State) : exec (.aqEnable fn v) s = Sys2Proof.Machine.execAqEnable fn v s := rfl
theorem exec_aqDisable (fn : FnId) (s : State) : exec (.aqDisable fn) s = Sys2Proof.Machine.execAqDisable fn s := rfl
theorem exec_psbEnable (fn : FnId) (v : W64) (s : State) : exec (.psbEnable fn v) s = Sys2Proof.Machine.execPsbEnable fn v s := rfl
theorem exec_mailboxDisableEffect (p : PitchId) (inbox : Bool) (m : Fin 256) (s : State) : exec (.mailboxDisableEffect p inbox m) s = Sys2Proof.Machine.execMailboxDisableEffect p inbox m s := rfl
theorem exec_timeLoad (v : W64) (s : State) : exec (.timeLoad v) s = Sys2Proof.Machine.execTimeLoad v s := rfl
theorem exec_tsyncWrite (v : W64) (s : State) : exec (.tsyncWrite v) s = Sys2Proof.Machine.execTsyncWrite v s := rfl
theorem exec_portEnable (n : PortId) (v : W64) (s : State) : exec (.portEnable n v) s = Sys2Proof.Machine.execPortEnable n v s := rfl
theorem exec_portDisable (n : PortId) (s : State) : exec (.portDisable n) s = Sys2Proof.Machine.execPortDisable n s := rfl
theorem exec_accept (n : PortId) (s : State) : exec (.accept n) s = Sys2Proof.Machine.execAccept n s := rfl
theorem exec_modeWrite (m : Fin 4) (s : State) : exec (.modeWrite m) s = Sys2Proof.Machine.execModeWrite m s := rfl
theorem exec_crstGo (s : State) : exec (.crstGo) s = Sys2Proof.Machine.execCrstGo s := rfl
theorem exec_crstDump (s : State) : exec (.crstDump) s = Sys2Proof.Machine.execCrstDump s := rfl
theorem exec_registerWrite (fn : FnId) (off : Nat) (size : Nat) (v : W64) (poison : Bool) (s : State) : exec (.registerWrite fn off size v poison) s = Sys2Proof.Machine.execRegisterWrite fn off size v poison s := rfl
theorem exec_id (bad : Bool) (s : State) : exec (.id bad) s = Sys2Proof.Machine.execId bad s := rfl
theorem exec_enroll (slot scheme : Nat) (key sig : List Byte) (bad : Bool) (s : State) : exec (.enroll slot scheme key sig bad) s = Sys2Proof.Machine.execEnroll slot scheme key sig bad s := rfl
theorem exec_revoke (slot : Nat) (sig : List Byte) (bad : Bool) (s : State) : exec (.revoke slot sig bad) s = Sys2Proof.Machine.execRevoke slot sig bad s := rfl
theorem exec_policy (word : BitVec 6) (sig : List Byte) (bad : Bool) (s : State) : exec (.policy word sig bad) s = Sys2Proof.Machine.execPolicy word sig bad s := rfl
theorem exec_auditRead (first count : Nat) (addr : W64) (bad : Bool) (s : State) : exec (.auditRead first count addr bad) s = Sys2Proof.Machine.execAuditRead first count addr bad s := rfl
theorem exec_auditAck (aseq : Nat) (bad : Bool) (s : State) : exec (.auditAck aseq bad) s = Sys2Proof.Machine.execAuditAck aseq bad s := rfl
theorem exec_auditSeal (bad : Bool) (s : State) : exec (.auditSeal bad) s = Sys2Proof.Machine.execAuditSeal bad s := rfl
theorem exec_debugNonce (bad : Bool) (s : State) : exec (.debugNonce bad) s = Sys2Proof.Machine.execDebugNonce bad s := rfl
theorem exec_consent (token : List Byte) (bad : Bool) (s : State) : exec (.consent token bad) s = Sys2Proof.Machine.execConsent token bad s := rfl
theorem exec_relock (bad : Bool) (s : State) : exec (.relock bad) s = Sys2Proof.Machine.execRelock bad s := rfl
theorem exec_auditCheckpoint (s : State) : exec (.auditCheckpoint) s = Sys2Proof.Machine.execAuditCheckpoint s := rfl
theorem exec_debugUnlock (scheme : Nat) (sig : List Byte) (s : State) : exec (.debugUnlock scheme sig) s = Sys2Proof.Machine.execDebugUnlock scheme sig s := rfl
theorem exec_debugExpiry (s : State) : exec (.debugExpiry) s = Sys2Proof.Machine.execDebugExpiry s := rfl
theorem exec_fwConfirm (c : FwId) (s : State) : exec (.fwConfirm c) s = Sys2Proof.Machine.execFwConfirm c s := rfl
theorem exec_fwTrialFailure (c : FwId) (s : State) : exec (.fwTrialFailure c) s = Sys2Proof.Machine.execFwTrialFailure c s := rfl
theorem exec_bar4Write (fn : FnId) (off : Nat) (bytes : List Byte) (poison : Bool) (s : State) : exec (.bar4Write fn off bytes poison) s = Sys2Proof.Machine.execBar4Write fn off bytes poison s := rfl
theorem exec_bar4Read (fn : FnId) (off : Nat) (n : Nat) (s : State) : exec (.bar4Read fn off n) s = Sys2Proof.Machine.execBar4Read fn off n s := rfl
theorem exec_pcieConfigRequest (fn : FnId) (r : CfgReq) (s : State) : exec (.pcieConfigRequest fn r) s = Sys2Proof.Machine.execPcieConfigRequest fn r s := rfl
theorem exec_pcieCompletionError (r : HostRead) (s : State) : exec (.pcieCompletionError r) s = Sys2Proof.Machine.execPcieCompletionError r s := rfl
theorem exec_slowClockTick (s : State) : exec (.slowClockTick) s = Sys2Proof.Machine.execSlowClockTick s := rfl
theorem exec_ppsEdge (s : State) : exec (.ppsEdge) s = Sys2Proof.Machine.execPpsEdge s := rfl
theorem exec_tsyncExchange (s : State) : exec (.tsyncExchange) s = Sys2Proof.Machine.execTsyncExchange s := rfl
theorem exec_tsyncRequest (n : Nat) (s : State) : exec (.tsyncRequest n) s = Sys2Proof.Machine.execTsyncRequest n s := rfl
theorem exec_tsyncReply (n : Nat) (s : State) : exec (.tsyncReply n) s = Sys2Proof.Machine.execTsyncReply n s := rfl
theorem exec_daybookHeadPoll (k : RingId) (count : W64) (s : State) : exec (.daybookHeadPoll k count) s = Sys2Proof.Machine.execDaybookHeadPoll k count s := rfl
theorem exec_reclaimHeadPoll (p : PitchId) (count : W64) (s : State) : exec (.reclaimHeadPoll p count) s = Sys2Proof.Machine.execReclaimHeadPoll p count s := rfl
theorem exec_linkTrained (i : LinkId) (full : Bool) (s : State) : exec (.linkTrained i full) s = Sys2Proof.Machine.execLinkTrained i full s := rfl
theorem exec_linkTrainTimeout (i : LinkId) (s : State) : exec (.linkTrainTimeout i) s = Sys2Proof.Machine.execLinkTrainTimeout i s := rfl
theorem exec_ident (s : State) : exec (.ident n) s = Sys2Proof.Machine.execIdent n s := rfl
theorem exec_identTimeout (i : LinkId) (s : State) : exec (.identTimeout i) s = Sys2Proof.Machine.execIdentTimeout i s := rfl
theorem exec_wiringWaitExpiry (n : PortId) (s : State) : exec (.wiringWaitExpiry n) s = Sys2Proof.Machine.execWiringWaitExpiry n s := rfl
theorem exec_lossOfSignal (i : LinkId) (s : State) : exec (.lossOfSignal i) s = Sys2Proof.Machine.execLossOfSignal i s := rfl
theorem exec_flitReceive (i : LinkId) (flit : List Byte) (fec : Bool) (s : State) : exec (.flitReceive i flit fec) s = Sys2Proof.Machine.execFlitReceive i flit fec s := rfl
theorem exec_retryRequest (i : LinkId) (ack : BitVec 16) (s : State) : exec (.retryRequest i ack) s = Sys2Proof.Machine.execRetryRequest i ack s := rfl
theorem exec_linkAckTimeout (i : LinkId) (s : State) : exec (.linkAckTimeout i) s = Sys2Proof.Machine.execLinkAckTimeout i s := rfl
theorem exec_data (n : Nat) (s : State) : exec (.data n) s = Sys2Proof.Machine.execData n s := rfl
theorem exec_ack (n : Nat) (s : State) : exec (.ack n) s = Sys2Proof.Machine.execAck n s := rfl
theorem exec_refuse (n : Nat) (s : State) : exec (.refuse n) s = Sys2Proof.Machine.execRefuse n s := rfl
theorem exec_credit (n : Nat) (s : State) : exec (.credit n) s = Sys2Proof.Machine.execCredit n s := rfl
theorem exec_wreq (n : Nat) (ups : List (Nat × BitVec 39)) (s : State) : exec (.wreq n ups) s = Sys2Proof.Machine.execWreq n ups s := rfl
theorem exec_wresp (n : Nat) (ups : List (Nat × BitVec 39)) (s : State) : exec (.wresp n ups) s = Sys2Proof.Machine.execWresp n ups s := rfl
theorem exec_collEnd (n : Nat) (s : State) : exec (.collEnd n) s = Sys2Proof.Machine.execCollEnd n s := rfl
theorem exec_thermalSlow (n : Nat) (s : State) : exec (.thermalSlow n) s = Sys2Proof.Machine.execThermalSlow n s := rfl
theorem exec_slowLimitExpiry (job : Nat) (s : State) : exec (.slowLimitExpiry job) s = Sys2Proof.Machine.execSlowLimitExpiry job s := rfl
theorem exec_peerEpoch (n : Nat) (s : State) : exec (.peerEpoch n) s = Sys2Proof.Machine.execPeerEpoch n s := rfl
theorem exec_pairWrite (n : Nat) (s : State) : exec (.pairWrite n) s = Sys2Proof.Machine.execPairWrite n s := rfl
theorem exec_pairState (n : Nat) (s : State) : exec (.pairState n) s = Sys2Proof.Machine.execPairState n s := rfl
theorem exec_pairDigest (n : Nat) (s : State) : exec (.pairDigest n) s = Sys2Proof.Machine.execPairDigest n s := rfl
theorem exec_pairFail (n : Nat) (s : State) : exec (.pairFail n) s = Sys2Proof.Machine.execPairFail n s := rfl
theorem exec_pairJoin (mode : Fin 4) (live : Nat) (off : Bool) (s : State) : exec (.pairJoin mode live off) s = Sys2Proof.Machine.execPairJoin mode live off s := rfl
theorem exec_heartbeat (s : State) : exec (.heartbeat) s = Sys2Proof.Machine.execHeartbeat s := rfl
theorem exec_heartbeatReceive (bridge : Bool) (partner : Fin 5) (s : State) : exec (.heartbeatReceive bridge partner) s = Sys2Proof.Machine.execHeartbeatReceive bridge partner s := rfl
theorem exec_heartbeatSilence (s : State) : exec (.heartbeatSilence) s = Sys2Proof.Machine.execHeartbeatSilence s := rfl
theorem exec_powerLoss (cause : Nat) (s : State) : exec (.powerLoss cause) s = Sys2Proof.Machine.execPowerLoss cause s := rfl
theorem exec_bridgeCreditTimeout (s : State) : exec (.bridgeCreditTimeout) s = Sys2Proof.Machine.execBridgeCreditTimeout s := rfl
theorem exec_hangWindow (s : State) : exec (.hangWindow) s = Sys2Proof.Machine.execHangWindow s := rfl
theorem exec_stocktakeReadTimeout (words : Nat) (s : State) : exec (.stocktakeReadTimeout words) s = Sys2Proof.Machine.execStocktakeReadTimeout words s := rfl
theorem exec_stocktakeLimit (s : State) : exec (.stocktakeLimit) s = Sys2Proof.Machine.execStocktakeLimit s := rfl
theorem exec_stallDoze (st : StallId) (s : State) : exec (.stallDoze st) s = Sys2Proof.Machine.execStallDoze st s := rfl
theorem exec_stallNap (st : StallId) (s : State) : exec (.stallNap st) s = Sys2Proof.Machine.execStallNap st s := rfl
theorem exec_stallDark (st : StallId) (s : State) : exec (.stallDark st) s = Sys2Proof.Machine.execStallDark st s := rfl
theorem exec_stallWake (st : StallId) (s : State) : exec (.stallWake st) s = Sys2Proof.Machine.execStallWake st s := rfl
theorem exec_powerLimitPeriod (watts : Nat) (s : State) : exec (.powerLimitPeriod watts) s = Sys2Proof.Machine.execPowerLimitPeriod watts s := rfl
theorem exec_currentAlarm (s : State) : exec (.currentAlarm) s = Sys2Proof.Machine.execCurrentAlarm s := rfl
theorem exec_currentAlarmClear (s : State) : exec (.currentAlarmClear) s = Sys2Proof.Machine.execCurrentAlarmClear s := rfl
theorem exec_dieSensorRead (n : SensorId) (temp : Option (BitVec 12)) (s : State) : exec (.dieSensorRead n temp) s = Sys2Proof.Machine.execDieSensorRead n temp s := rfl
theorem exec_thermalCeilingStep (n : SensorId) (s : State) : exec (.thermalCeilingStep n) s = Sys2Proof.Machine.execThermalCeilingStep n s := rfl
theorem exec_supplyGood (active other : Bool) (s : State) : exec (.supplyGood active other) s = Sys2Proof.Machine.execSupplyGood active other s := rfl
theorem exec_undervoltage (s : State) : exec (.undervoltage) s = Sys2Proof.Machine.execUndervoltage s := rfl
theorem exec_lossOfSupply (s : State) : exec (.lossOfSupply) s = Sys2Proof.Machine.execLossOfSupply s := rfl
theorem exec_pwrEnAssert (s : State) : exec (.pwrEnAssert) s = Sys2Proof.Machine.execPwrEnAssert s := rfl
theorem exec_pwrEnDeassert (s : State) : exec (.pwrEnDeassert) s = Sys2Proof.Machine.execPwrEnDeassert s := rfl
theorem exec_railInLimits (r : Fin 6) (s : State) : exec (.railInLimits r) s = Sys2Proof.Machine.execRailInLimits r s := rfl
theorem exec_railOrderTimeout (s : State) : exec (.railOrderTimeout) s = Sys2Proof.Machine.execRailOrderTimeout s := rfl
theorem exec_regulatorFault (r : Fin 7) (s : State) : exec (.regulatorFault r) s = Sys2Proof.Machine.execRegulatorFault r s := rfl
theorem exec_cableOvercurrent (n : PortId) (s : State) : exec (.cableOvercurrent n) s = Sys2Proof.Machine.execCableOvercurrent n s := rfl
theorem exec_perstAssert (s : State) : exec (.perstAssert) s = Sys2Proof.Machine.execPerstAssert s := rfl
theorem exec_hbmTrainingDone (hot : List StackId) (units : List UnitFinding) (sts : List StallId) (s : State) : exec (.hbmTrainingDone hot units sts) s = Sys2Proof.Machine.execHbmTrainingDone hot units sts s := rfl
theorem exec_dieToDieLaneFailure (iod : Fin 2) (syn : W64) (s : State) : exec (.dieToDieLaneFailure iod syn) s = Sys2Proof.Machine.execDieToDieLaneFailure iod syn s := rfl
theorem exec_callerSilence (c : Fin 4) (s : State) : exec (.callerSilence c) s = Sys2Proof.Machine.execCallerSilence c s := rfl
theorem exec_uncorrectableStateError (loc : StateLoc) (syn : W64) (s : State) : exec (.uncorrectableStateError loc syn) s = Sys2Proof.Machine.execUncorrectableStateError loc syn s := rfl
theorem exec_clockOrPowerFault (domain : Fin 8) (s : State) : exec (.clockOrPowerFault domain) s = Sys2Proof.Machine.execClockOrPowerFault domain s := rfl
theorem exec_laneErrorRatioCheck (i : LinkId) (s : State) : exec (.laneErrorRatioCheck i) s = Sys2Proof.Machine.execLaneErrorRatioCheck i s := rfl
theorem exec_tensorOperationComplete (st : StallId) (cx : CtxId) (ups : List (Nat × BitVec 39)) (s : State) : exec (.tensorOperationComplete st cx ups) s = Sys2Proof.Machine.execTensorOperationComplete st cx ups s := rfl
theorem exec_instructionCacheFill (st : StallId) (cx : CtxId) (line : Nat) (s : State) : exec (.instructionCacheFill st cx line) s = Sys2Proof.Machine.execInstructionCacheFill st cx line s := rfl
theorem exec_scrubZeroingDone (p : PitchId) (s : State) : exec (.scrubZeroingDone p) s = Sys2Proof.Machine.execScrubZeroingDone p s := rfl
theorem exec_pitchRestoreDone (p : PitchId) (s : State) : exec (.pitchRestoreDone p) s = Sys2Proof.Machine.execPitchRestoreDone p s := rfl
theorem exec_computeDieResetDone (s : State) : exec .computeDieResetDone s = Sys2Proof.Machine.execComputeDieResetDone s := rfl
theorem exec_componentVerified (c : FwId) (active other : Bool) (s : State) : exec (.componentVerified c active other) s = Sys2Proof.Machine.execComponentVerified c active other s := rfl
theorem exec_railDischarged (r : Fin 6) (s : State) : exec (.railDischarged r) s = Sys2Proof.Machine.execRailDischarged r s := rfl
theorem exec_spdmMessage (vdm : Bool) (sess : Option Nat) (r : SpdmReq) (s : State) : exec (.spdmMessage vdm sess r) s = Sys2Proof.Machine.execSpdmMessage vdm sess r s := rfl
theorem exec_mctpControlMessage (vdm : Bool) (r : MctpReq) (s : State) : exec (.mctpControlMessage vdm r) s = Sys2Proof.Machine.execMctpControlMessage vdm r s := rfl
theorem exec_jtagInstruction (op : JtagOp) (s : State) : exec (.jtagInstruction op) s = Sys2Proof.Machine.execJtagInstruction op s := rfl
theorem exec_perstDeassert (s : State) : exec (.perstDeassert) s = Sys2Proof.Machine.execPerstDeassert s := rfl

end Sys2Proof.Machine
end

