-- ==== Sys2Proof/Laws/Tab.lean ====
section
/-! SUPPORT. Laws of the sparse tables: every operation keeps the canonical form, and a read after a write gives what was
written at the key and what stood before at every other key. -/

namespace Sys2Proof

variable {α : Type}

theorem Tab.rising_iff (t : Tab α) : Tab.rising t = true ↔ t.Pairwise (fun a b => a.1 < b.1) := by
  induction t with
  | nil => simp [Tab.rising]
  | cons x t ih =>
    cases t with
    | nil => simp [Tab.rising]
    | cons y t =>
      obtain ⟨k, v⟩ := x
      obtain ⟨k', v'⟩ := y
      simp only [Tab.rising, Bool.and_eq_true, decide_eq_true_eq, ih, List.pairwise_cons, List.mem_cons, forall_eq_or_imp]
      constructor
      · rintro ⟨h, h1, h2⟩
        exact ⟨⟨h, fun a ha => Nat.lt_trans h (h1 a ha)⟩, h1, h2⟩
      · rintro ⟨⟨h, _⟩, h1, h2⟩
        exact ⟨h, h1, h2⟩

theorem Tab.wf_iff [DecidableEq α] (d : α) (t : Tab α) :
    Tab.wf d t = true ↔ Tab.rising t = true ∧ ∀ e ∈ t, e.2 ≠ d := by
  simp [Tab.wf]

theorem Tab.mem_put {t : Tab α} {k : Nat} {v : α} {e : Nat × α} (h : e ∈ Tab.put t k v) : e = (k, v) ∨ e ∈ t := by
  induction t with
  | nil => simpa [Tab.put] using h
  | cons x t ih =>
    obtain ⟨k', v'⟩ := x
    simp only [Tab.put] at h
    split at h
    · simpa using h
    · split at h
      · rcases List.mem_cons.1 h with h | h
        · exact .inl h
        · exact .inr (List.mem_cons_of_mem _ h)
      · rcases List.mem_cons.1 h with h | h
        · exact .inr (by simp [h])
        · rcases ih h with h | h
          · exact .inl h
          · exact .inr (List.mem_cons_of_mem _ h)

theorem Tab.rising_put {t : Tab α} (h : Tab.rising t = true) (k : Nat) (v : α) : Tab.rising (Tab.put t k v) = true := by
  rw [Tab.rising_iff] at *
  induction t with
  | nil => simp [Tab.put]
  | cons x t ih =>
    obtain ⟨k', v'⟩ := x
    rw [List.pairwise_cons] at h
    simp only [Tab.put]
    split
    · rename_i g
      refine List.pairwise_cons.2 ⟨?_, List.pairwise_cons.2 h⟩
      intro e he
      rcases List.mem_cons.1 he with he | he
      · subst he; exact g
      · exact Nat.lt_trans g (h.1 e he)
    · split
      · rename_i g
        subst g
        exact List.pairwise_cons.2 h
      · refine List.pairwise_cons.2 ⟨?_, ih h.2⟩
        intro e he
        rcases Tab.mem_put he with he | he
        · subst he; simp; omega
        · exact h.1 e he

theorem Tab.del_sublist (t : Tab α) (k : Nat) : (Tab.del t k).Sublist t := by
  induction t with
  | nil => exact List.Sublist.refl _
  | cons x t ih =>
    obtain ⟨k', v'⟩ := x
    simp only [Tab.del]
    split
    · exact List.sublist_cons_self _ _
    · exact ih.cons_cons _

theorem Tab.mem_del {t : Tab α} {k : Nat} {e : Nat × α} (h : e ∈ Tab.del t k) : e ∈ t := (Tab.del_sublist t k).subset h

theorem Tab.rising_del {t : Tab α} (h : Tab.rising t = true) (k : Nat) : Tab.rising (Tab.del t k) = true :=
  (Tab.rising_iff _).2 (((Tab.rising_iff _).1 h).sublist (Tab.del_sublist t k))

theorem Tab.rising_filter {t : Tab α} (h : Tab.rising t = true) (p : Nat × α → Bool) : Tab.rising (List.filter p t) = true :=
  (Tab.rising_iff _).2 (((Tab.rising_iff _).1 h).sublist List.filter_sublist)

section
variable [DecidableEq α] {d : α}

theorem Tab.wf_nil (d : α) : Tab.wf d ([] : Tab α) = true := rfl

theorem Tab.wf_filter {t : Tab α} (h : Tab.wf d t = true) (p : Nat × α → Bool) : Tab.wf d (List.filter p t) = true := by
  rw [Tab.wf_iff] at *
  exact ⟨Tab.rising_filter h.1 p, fun e he => h.2 e (List.mem_filter.1 he).1⟩

theorem Tab.wf_clearRange {t : Tab α} (h : Tab.wf d t = true) (a b : Nat) : Tab.wf d (Tab.clearRange t a b) = true :=
  Tab.wf_filter h _

theorem Tab.wf_set {t : Tab α} (h : Tab.wf d t = true) (k : Nat) (v : α) : Tab.wf d (Tab.set d t k v) = true := by
  rw [Tab.wf_iff] at *
  simp only [Tab.set]
  split
  · exact ⟨Tab.rising_del h.1 k, fun e he => h.2 e (Tab.mem_del he)⟩
  · refine ⟨Tab.rising_put h.1 k v, fun e he => ?_⟩
    rcases Tab.mem_put he with he | he
    · subst he; assumption
    · exact h.2 e he

theorem Tab.wf_modify {t : Tab α} (h : Tab.wf d t = true) (k : Nat) (f : α → α) : Tab.wf d (Tab.modify d t k f) = true :=
  Tab.wf_set h _ _

theorem Tab.wf_setRange {t : Tab α} (h : Tab.wf d t = true) (k : Nat) (vs : List α) : Tab.wf d (Tab.setRange d t k vs) = true := by
  induction vs generalizing t k with
  | nil => exact h
  | cons v vs ih => exact ih (Tab.wf_set h k v) (k + 1)

end

/-! ### Read after write -/

theorem Tab.find_none {t : Tab α} {k : Nat} (h : ∀ e ∈ t, k < e.1) : Tab.find t k = none := by
  induction t with
  | nil => rfl
  | cons x t ih =>
    obtain ⟨k', v'⟩ := x
    have := h (k', v') (by simp)
    simp only [Tab.find]
    rw [if_neg (by simp at this; omega)]
    exact ih (fun e he => h e (List.mem_cons_of_mem _ he))

@[simp] theorem Tab.find_put_self (t : Tab α) (k : Nat) (v : α) : Tab.find (Tab.put t k v) k = some v := by
  induction t with
  | nil => simp [Tab.put, Tab.find]
  | cons x t ih =>
    obtain ⟨k', v'⟩ := x
    simp only [Tab.put]
    split
    · simp [Tab.find]
    · split
      · simp [Tab.find]
      · rename_i h; simp [Tab.find, h, ih]

theorem Tab.find_put_ne (t : Tab α) {k j : Nat} (v : α) (h : j ≠ k) : Tab.find (Tab.put t k v) j = Tab.find t j := by
  induction t with
  | nil => simp [Tab.put, Tab.find, h]
  | cons x t ih =>
    obtain ⟨k', v'⟩ := x
    simp only [Tab.put]
    split
    · simp [Tab.find, h]
    · split
      · rename_i g; subst g; simp [Tab.find, h]
      · simp [Tab.find, ih]

theorem Tab.find_del_self {t : Tab α} (h : Tab.rising t = true) (k : Nat) : Tab.find (Tab.del t k) k = none := by
  rw [Tab.rising_iff] at h
  induction t with
  | nil => rfl
  | cons x t ih =>
    obtain ⟨k', v'⟩ := x
    rw [List.pairwise_cons] at h
    simp only [Tab.del]
    split
    · rename_i g; subst g; exact Tab.find_none h.1
    · rename_i g; simp [Tab.find, g, ih h.2]

theorem Tab.find_del_ne (t : Tab α) {k j : Nat} (h : j ≠ k) : Tab.find (Tab.del t k) j = Tab.find t j := by
  induction t with
  | nil => rfl
  | cons x t ih =>
    obtain ⟨k', v'⟩ := x
    simp only [Tab.del]
    split
    · rename_i g; subst g; simp [Tab.find, h]
    · simp [Tab.find, ih]

section
variable [DecidableEq α] {d : α}

/-- A read at the key that was written. -/
theorem Tab.get_set_self {t : Tab α} (h : Tab.rising t = true) (k : Nat) (v : α) : Tab.get d (Tab.set d t k v) k = v := by
  simp only [Tab.set]
  split
  · rename_i g; simp [Tab.get, Tab.find_del_self h, g]
  · simp [Tab.get]

/-- A read at any other key. -/
theorem Tab.get_set_ne (t : Tab α) {k j : Nat} (v : α) (h : j ≠ k) : Tab.get d (Tab.set d t k v) j = Tab.get d t j := by
  simp only [Tab.set]
  split
  · simp [Tab.get, Tab.find_del_ne t h]
  · simp [Tab.get, Tab.find_put_ne t v h]

/-- A range write leaves every key outside the range. -/
theorem Tab.get_setRange_ne (t : Tab α) {k j : Nat} (vs : List α) (h : j < k ∨ k + vs.length ≤ j) :
    Tab.get d (Tab.setRange d t k vs) j = Tab.get d t j := by
  induction vs generalizing t k with
  | nil => rfl
  | cons v vs ih =>
    simp only [List.length_cons] at h
    rw [Tab.setRange, ih _ (by omega), Tab.get_set_ne t v (by omega)]

/-- What a range write leaves within the range. -/
theorem Tab.get_setRange_in {t : Tab α} (h : Tab.wf d t = true) (k i : Nat) (vs : List α) (hi : i < vs.length) :
    Tab.get d (Tab.setRange d t k vs) (k + i) = vs[i] := by
  induction vs generalizing t k i with
  | nil => simp at hi
  | cons v vs ih =>
    cases i with
    | zero =>
      show Tab.get d (Tab.setRange d (Tab.set d t k v) (k + 1) vs) k = v
      rw [Tab.get_setRange_ne _ _ (by omega), Tab.get_set_self ((Tab.wf_iff d t).1 h).1]
    | succ i =>
      rw [Tab.setRange]
      have := ih (Tab.wf_set h k v) (k + 1) i (by simpa using hi)
      rw [show k + (i + 1) = k + 1 + i by omega, this]
      rfl

end

end Sys2Proof
end

