-- ==== Sys2Proof/Laws/Keep.lean ====
section
/-! SUPPORT. What no command undoes, as one relation between the states before and after, and how it is proved of the record
updates, folds and conditionals that the operations are made of. -/

namespace Sys2Proof.Machine

set_option Elab.async false
set_option linter.all false

/-- What a command leaves of a state `s` in its next state `t`: the queue, the package's identity, the canonical form, the map-outs
made, the key slots where `k` holds (the command is neither ENROLL nor REVOKE), the order of the audit book, and the SVN floors. -/
structure Keep (k : Prop) (s t : State) : Prop where
  pending : t.pending = s.pending
  chip : t.chip.part = s.chip.part ∧ t.chip.pkg = s.chip.pkg ∧ t.chip.uid = s.chip.uid
  canon : s.canonical → t.canonical
  out : s.health.out &&& t.health.out = s.health.out
  keys : k → t.sec.installer = s.sec.installer ∧ t.sec.operators = s.sec.operators
  book : s.sec.book.next ≤ t.sec.book.next ∧ s.sec.book.acked ≤ t.sec.book.acked
  floors : ∀ i : Fin 5, (s.fw.comps.get i).floor ≤ (t.fw.comps.get i).floor

theorem Keep.refl (k : Prop) (s : State) : Keep k s s :=
  ⟨rfl, ⟨rfl, rfl, rfl⟩, id, by simp, fun _ => ⟨rfl, rfl⟩, ⟨Nat.le_refl _, Nat.le_refl _⟩, fun _ => Nat.le_refl _⟩

theorem Keep.trans {k : Prop} {s t u : State} (h : Keep k s t) (g : Keep k t u) : Keep k s u where
  pending := g.pending.trans h.pending
  chip := ⟨g.chip.1.trans h.chip.1, g.chip.2.1.trans h.chip.2.1, g.chip.2.2.trans h.chip.2.2⟩
  canon := fun c => g.canon (h.canon c)
  out := by
    have h1 := h.out; have h2 := g.out
    rw [← h1, BitVec.and_assoc, h2]
  keys := fun c => ⟨(g.keys c).1.trans (h.keys c).1, (g.keys c).2.trans (h.keys c).2⟩
  book := ⟨Nat.le_trans h.book.1 g.book.1, Nat.le_trans h.book.2 g.book.2⟩
  floors := fun i => Nat.le_trans (h.floors i) (g.floors i)

/-- A change of anything but what is kept. -/
theorem Keep.of {k : Prop} {s t : State} (h : Keep k s t) {free serial chip stalls tokens tokReqs rewrites mem fe dbk flt rcl msi clk net
    health crst watch pair sec fw pw md hostAcc srcLast srcSeq out}
    (hc : chip.part = t.chip.part ∧ chip.pkg = t.chip.pkg ∧ chip.uid = t.chip.uid := by exact ⟨rfl, rfl, rfl⟩)
    (hm : mem.bytes = t.mem.bytes ∧ mem.poison = t.mem.poison := by exact ⟨rfl, rfl⟩)
    (ho : health.out = t.health.out := by rfl)
    (hs : sec.installer = t.sec.installer ∧ sec.operators = t.sec.operators ∧ sec.book.next = t.sec.book.next ∧
      sec.book.acked = t.sec.book.acked := by exact ⟨rfl, rfl, rfl, rfl⟩)
    (hf : fw.comps = t.fw.comps := by rfl) :
    Keep k s (State.mk t.pending free serial chip stalls tokens tokReqs t.bays rewrites mem t.regs fe dbk flt rcl msi clk net
      health crst watch pair sec fw pw md hostAcc srcLast srcSeq out) := by
  refine h.trans ⟨rfl, hc, ?_, ?_, ?_, ?_, ?_⟩
  · rintro ⟨a, b, c, d⟩
    exact ⟨by simpa [hm.1] using a, by simpa [hm.2] using b, c, d⟩
  · simp [ho]
  · intro _; exact ⟨hs.1, hs.2.1⟩
  · simp [hs.2.2.1, hs.2.2.2]
  · intro i; simp [hf]

/-- A change of memory, bays and registers that keeps their form, and of the rest of the state. -/
theorem Keep.ofTabs {k : Prop} {s t : State} (h : Keep k s t) {free serial chip stalls tokens tokReqs bays rewrites mem regs fe dbk flt
    rcl msi clk net health crst watch pair sec fw pw md hostAcc srcLast srcSeq out}
    (hc : chip.part = t.chip.part ∧ chip.pkg = t.chip.pkg ∧ chip.uid = t.chip.uid)
    (hb : Tab.wf (0 : Byte) t.mem.bytes = true → Tab.wf (0 : Byte) mem.bytes = true)
    (hp : Tab.wf false t.mem.poison = true → Tab.wf false mem.poison = true)
    (hy : Tab.wf (0 : BitVec 39) t.bays = true → Tab.wf (0 : BitVec 39) bays = true)
    (hr : Tab.rising t.regs = true → Tab.rising regs = true)
    (ho : t.health.out &&& health.out = t.health.out)
    (hk : k → sec.installer = t.sec.installer ∧ sec.operators = t.sec.operators)
    (hs : t.sec.book.next ≤ sec.book.next ∧ t.sec.book.acked ≤ sec.book.acked)
    (hf : ∀ i : Fin 5, (t.fw.comps.get i).floor ≤ (fw.comps.get i).floor) :
    Keep k s (State.mk t.pending free serial chip stalls tokens tokReqs bays rewrites mem regs fe dbk flt rcl msi clk net
      health crst watch pair sec fw pw md hostAcc srcLast srcSeq out) :=
  h.trans ⟨rfl, hc, fun c => ⟨hb c.1, hp c.2.1, hy c.2.2.1, hr c.2.2.2⟩, ho, hk, hs, hf⟩

theorem Keep.ite {k : Prop} {s a b : State} {p : Prop} [Decidable p] (ha : Keep k s a) (hb : Keep k s b) : Keep k s (if p then a else b) := by
  split
  · exact ha
  · exact hb

theorem Keep.withTlb {k : Prop} {s t : State} (h : Keep k s t) (x : Tab W64) : Keep k s { t with mem := { t.mem with tlb := x } } :=
  Keep.of h ⟨rfl, rfl, rfl⟩ ⟨rfl, rfl⟩ rfl ⟨rfl, rfl, rfl, rfl⟩ rfl

theorem Keep.foldl {α : Type} {k : Prop} {s t : State} (h : Keep k s t) {f : State → α → State} (l : List α)
    (hf : ∀ u x, Keep k s u → Keep k s (f u x)) : Keep k s (l.foldl f t) := by
  induction l generalizing t with
  | nil => exact h
  | cons a l ih => exact ih (hf t a h)

theorem Keep.foldlFst {α β : Type} {k : Prop} {s : State} {p : State × β} (h : Keep k s p.1) {f : State × β → α → State × β} (l : List α)
    (hf : ∀ u x, Keep k s u.1 → Keep k s (f u x).1) : Keep k s (l.foldl f p).1 := by
  induction l generalizing p with
  | nil => exact h
  | cons a l ih => exact ih (hf p a h)

theorem Keep.foldlVia {α β : Type} {k : Prop} {s : State} {g : β → State} {p : β} (h : Keep k s (g p)) {f : β → α → β} (l : List α)
    (hf : ∀ u x, Keep k s (g u) → Keep k s (g (f u x))) : Keep k s (g (l.foldl f p)) := by
  induction l generalizing p with
  | nil => exact h
  | cons a l ih => exact ih (hf p a h)

theorem Keep.withHealth {k : Prop} {s t : State} (h : Keep k s t) {x : Health} (hx : x.out = t.health.out) : Keep k s { t with health := x } :=
  Keep.of h (ho := hx)

theorem Keep.afterNowHealth {k : Prop} {s t : State} (h : Keep k s t) {x : Health} (hx : x.out = t.health.out) :
    Keep k s { t.afterNow with health := x } :=
  Keep.withHealth (t := t.afterNow) (Keep.of h) hx

@[simp] theorem State.afterNow_health (s : State) : s.afterNow.health = s.health := rfl

/-- A result whose next state keeps. -/
structure KeepRes (k : Prop) (s : State) (r : Res) : Prop where
  out : ∀ u, r = .next u → Keep k s u

theorem KeepRes.next {k : Prop} {s t : State} (h : Keep k s t) : KeepRes k s (.next t) :=
  ⟨fun _ e => by cases e; exact h⟩

end Sys2Proof.Machine
end

