-- ==== Sys2Proof/Laws/KeepOps.lean ====
section
/-! SUPPORT. `Keep` of the operations that every family shares: one lemma for each operation and meaning. -/

namespace Sys2Proof.Machine

set_option Elab.async false
set_option linter.all false

/-! ### RegMap -/

theorem State.setRaw_keep {κ : Prop} {σ τ : State} (hστ : Keep κ σ τ) (fn off v : Nat) : Keep κ σ (τ.setRaw fn off v) := by
  unfold State.setRaw
  split
  · exact Keep.ofTabs hστ ⟨rfl, rfl, rfl⟩ id id id (fun h => Tab.rising_del h _) (by simp) (fun _ => ⟨rfl, rfl⟩) ⟨Nat.le_refl _, Nat.le_refl _⟩ (fun _ => Nat.le_refl _)
  · exact Keep.ofTabs hστ ⟨rfl, rfl, rfl⟩ id id id (fun h => Tab.rising_put h _ _) (by simp) (fun _ => ⟨rfl, rfl⟩) ⟨Nat.le_refl _, Nat.le_refl _⟩ (fun _ => Nat.le_refl _)

theorem State.setFld_keep {κ : Prop} {σ τ : State} (hστ : Keep κ σ τ) (fn : Nat) (off : Nat) (hi : Nat) (lo : Nat) (v : Nat) :
    Keep κ σ (State.setFld τ fn off hi lo v) := by
  unfold State.setFld
  repeat' (first | with_reducible assumption | with_reducible apply State.setRaw_keep)

/-! ### Ops -/

theorem State.modStall_keep {κ : Prop} {σ τ : State} (hστ : Keep κ σ τ) (i : Nat) (f : Stall → Stall) :
    Keep κ σ (State.modStall τ i f) := by
  unfold State.modStall
  repeat' (first | with_reducible assumption | with_reducible refine Keep.of ?_)

theorem State.modCtx_keep {κ : Prop} {σ τ : State} (hστ : Keep κ σ τ) (i : Nat) (c : Nat) (f : Ctx → Ctx) :
    Keep κ σ (State.modCtx τ i c f) := by
  unfold State.modCtx
  repeat' (first | with_reducible assumption | with_reducible apply State.modStall_keep | intro _ _ _ | intro _ _ | intro _ | with_reducible refine Keep.of ?_)

theorem State.modSplit_keep {κ : Prop} {σ τ : State} (hστ : Keep κ σ τ) (i : Nat) (k : Nat) (f : Split → Split) :
    Keep κ σ (State.modSplit τ i k f) := by
  unfold State.modSplit
  repeat' (first | with_reducible assumption | with_reducible apply State.modStall_keep | intro _ _ _ | intro _ _ | intro _ | with_reducible refine Keep.of ?_)

theorem State.modChan_keep {κ : Prop} {σ τ : State} (hστ : Keep κ σ τ) (i : Nat) (c : Nat) (f : Chan → Chan) :
    Keep κ σ (State.modChan τ i c f) := by
  unfold State.modChan
  repeat' (first | with_reducible assumption | with_reducible apply State.modStall_keep | intro _ _ _ | intro _ _ | intro _ | with_reducible refine Keep.of ?_)

theorem State.modLaunch_keep {κ : Prop} {σ τ : State} (hστ : Keep κ σ τ) (l : Nat) (f : Launch → Launch) :
    Keep κ σ (State.modLaunch τ l f) := by
  unfold State.modLaunch
  repeat' (first | with_reducible assumption | split | with_reducible refine Keep.of ?_)

theorem State.modQueue_keep {κ : Prop} {σ τ : State} (hστ : Keep κ σ τ) (q : Nat) (f : Queue → Queue) :
    Keep κ σ (State.modQueue τ q f) := by
  unfold State.modQueue
  repeat' (first | with_reducible assumption | split | with_reducible refine Keep.of ?_)

theorem State.modPitch_keep {κ : Prop} {σ τ : State} (hστ : Keep κ σ τ) (p : Nat) (f : Pitch → Pitch) :
    Keep κ σ (State.modPitch τ p f) := by
  unfold State.modPitch
  repeat' (first | with_reducible assumption | with_reducible refine Keep.of ?_)

theorem State.modSlot_keep {κ : Prop} {σ τ : State} (hστ : Keep κ σ τ) (n : Nat) (f : Slot → Slot) :
    Keep κ σ (State.modSlot τ n f) := by
  unfold State.modSlot
  repeat' (first | with_reducible assumption | with_reducible refine Keep.of ?_)

theorem State.tickSerial_keep {κ : Prop} {σ τ : State} (hστ : Keep κ σ τ)  :
    Keep κ σ (State.tickSerial τ) := by
  unfold State.tickSerial
  repeat' (first | with_reducible assumption | with_reducible refine Keep.of ?_)

theorem State.afterNow_keep {κ : Prop} {σ τ : State} (hστ : Keep κ σ τ)  :
    Keep κ σ (State.afterNow τ) := by
  unfold State.afterNow
  repeat' (first | with_reducible assumption | with_reducible refine Keep.of ?_)

theorem State.afterStamp_keep {κ : Prop} {σ τ : State} (hστ : Keep κ σ τ) (src : Nat) :
    Keep κ σ (State.afterStamp τ src) := by
  unfold State.afterStamp
  repeat' (first | with_reducible assumption | with_reducible apply State.afterNow_keep | with_reducible refine Keep.of ?_)

theorem State.afterSeq_keep {κ : Prop} {σ τ : State} (hστ : Keep κ σ τ) (src : Nat) :
    Keep κ σ (State.afterSeq τ src) := by
  unfold State.afterSeq
  repeat' (first | with_reducible assumption | with_reducible refine Keep.of ?_)

theorem State.afterAny_keep {κ : Prop} {σ τ : State} (hστ : Keep κ σ τ)  :
    Keep κ σ (State.afterAny τ) := by
  unfold State.afterAny
  repeat' (first | with_reducible assumption | with_reducible refine Keep.of ?_)

theorem State.emit_keep {κ : Prop} {σ τ : State} (hστ : Keep κ σ τ) (o : Out) :
    Keep κ σ (State.emit τ o) := by
  unfold State.emit
  repeat' (first | with_reducible assumption | with_reducible refine Keep.of ?_)

theorem State.hostAsk_keep {κ : Prop} {σ τ : State} (hστ : Keep κ σ τ) (fn : Option Nat) :
    Keep κ σ (State.hostAsk τ fn) := by
  unfold State.hostAsk
  repeat' (first | with_reducible assumption | with_reducible refine Keep.of ?_)

theorem State.hostWrite_keep {κ : Prop} {σ τ : State} (hστ : Keep κ σ τ) (fn : Option Nat) (addr : Nat) (bs : List Byte) :
    Keep κ σ (State.hostWrite τ fn addr bs) := by
  unfold State.hostWrite
  repeat' (first | with_reducible assumption | with_reducible apply State.hostAsk_keep | with_reducible apply State.emit_keep | split)

theorem State.hostShow_keep {κ : Prop} {σ τ : State} (hστ : Keep κ σ τ) (fn : Nat) (addr : Nat) (bs : List Byte) :
    Keep κ σ (State.hostShow τ fn addr bs) := by
  unfold State.hostShow
  repeat' (first | with_reducible assumption | with_reducible apply State.hostWrite_keep | with_reducible apply State.hostAsk_keep | split | with_reducible refine Keep.of ?_)

theorem State.emitAfter_keep {κ : Prop} {σ τ : State} (hστ : Keep κ σ τ) (o : Out) :
    Keep κ σ (State.emitAfter τ o) := by
  unfold State.emitAfter
  repeat' (first | with_reducible assumption | with_reducible apply State.emit_keep | split | with_reducible refine Keep.of ?_)

theorem State.modMsi_keep {κ : Prop} {σ τ : State} (hστ : Keep κ σ τ) (fn : Nat) (v : Nat) (f : MsiVec → MsiVec) :
    Keep κ σ (State.modMsi τ fn v f) := by
  unfold State.modMsi
  repeat' (first | with_reducible assumption | with_reducible refine Keep.of ?_)

theorem State.sendMsi_keep {κ : Prop} {σ τ : State} (hστ : Keep κ σ τ) (fn : Nat) (v : Nat) :
    Keep κ σ (State.sendMsi τ fn v) := by
  unfold State.sendMsi
  repeat' (first | with_reducible assumption | with_reducible apply State.modMsi_keep | with_reducible apply State.emitAfter_keep | split | intro _ _ _ | intro _ _ | intro _ | with_reducible refine Keep.of ?_)

theorem State.raiseCause_keep {κ : Prop} {σ τ : State} (hστ : Keep κ σ τ) (fn : Nat) (v : Nat) :
    Keep κ σ (State.raiseCause τ fn v) := by
  unfold State.raiseCause
  repeat' (first | with_reducible assumption | with_reducible apply State.sendMsi_keep | with_reducible apply State.modMsi_keep | with_reducible apply State.afterNow_keep | split | intro _ _ _ | intro _ _ | intro _ | with_reducible refine Keep.of ?_)

theorem State.eventMsg_keep {κ : Prop} {σ τ : State} (hστ : Keep κ σ τ) (p : Nat) :
    Keep κ σ (State.eventMsg τ p) := by
  unfold State.eventMsg
  repeat' (first | with_reducible assumption | with_reducible apply State.modMsi_keep | with_reducible apply State.emitAfter_keep | split | intro _ _ _ | intro _ _ | intro _ | with_reducible refine Keep.of ?_)

theorem State.putDbk_keep {κ : Prop} {σ τ : State} (hστ : Keep κ σ τ) (k : Nat) (r : DbkRec) :
    Keep κ σ (State.putDbk τ k r) := by
  unfold State.putDbk
  repeat' (first | with_reducible assumption | with_reducible apply State.hostWrite_keep | split | with_reducible refine Keep.of ?_)

theorem State.postDbkF_keep {κ : Prop} {σ τ : State} (hστ : Keep κ σ τ) (fl : Nat) (ks : List Nat) (c : DbkClass) (src : Nat) (type : Nat) (payload : List Byte) :
    Keep κ σ (State.postDbkF τ fl ks c src type payload) := by
  unfold State.postDbkF
  repeat' (first | with_reducible assumption | with_reducible apply State.putDbk_keep | with_reducible apply State.afterSeq_keep | with_reducible apply State.afterStamp_keep | with_reducible apply Keep.foldl | with_reducible apply Keep.foldlFst | split | intro _ _ _ | intro _ _ | intro _ | dsimp only)

theorem State.postDbk_keep {κ : Prop} {σ τ : State} (hστ : Keep κ σ τ) (ks : List Nat) (c : DbkClass) (src : Nat) (type : Nat) (payload : List Byte) :
    Keep κ σ (State.postDbk τ ks c src type payload) := by
  unfold State.postDbk
  repeat' (first | with_reducible assumption | with_reducible apply State.postDbkF_keep)

theorem State.postEvent_keep {κ : Prop} {σ τ : State} (hστ : Keep κ σ τ) (ks : List Nat) (src : Nat) (type : Nat) (payload : List Byte) :
    Keep κ σ (State.postEvent τ ks src type payload) := by
  unfold State.postEvent
  repeat' (first | with_reducible assumption | with_reducible apply State.postDbk_keep | with_reducible apply State.eventMsg_keep | with_reducible apply Keep.foldl | split | intro _ _ _ | intro _ _ | intro _)

theorem State.postError_keep {κ : Prop} {σ τ : State} (hστ : Keep κ σ τ) (k : Nat) (src : Nat) (st : Status) (what : Nat) (detail : Nat) :
    Keep κ σ (State.postError τ k src st what detail) := by
  unfold State.postError
  repeat' (first | with_reducible assumption | with_reducible apply State.postDbk_keep)

theorem State.putFlt_keep {κ : Prop} {σ τ : State} (hστ : Keep κ σ τ) (k : Nat) (f : FaultInfo) (time : W64) (src : Nat) (seq : W32) :
    Keep κ σ (State.putFlt τ k f time src seq) := by
  unfold State.putFlt
  repeat' (first | with_reducible assumption | with_reducible apply State.hostWrite_keep | split | with_reducible refine Keep.of ?_)

theorem State.postFault_keep {κ : Prop} {σ τ : State} (hστ : Keep κ σ τ) (src : Nat) (f : FaultInfo) :
    Keep κ σ (State.postFault τ src f) := by
  unfold State.postFault
  repeat' (first | with_reducible assumption | with_reducible apply State.putFlt_keep | with_reducible apply State.postDbk_keep | with_reducible apply State.eventMsg_keep | with_reducible apply State.afterSeq_keep | with_reducible apply State.afterStamp_keep | with_reducible apply Keep.foldl | split | intro _ _ _ | intro _ _ | intro _ | with_reducible refine Keep.of ?_)

theorem State.postCorrected_keep {κ : Prop} {σ τ : State} (hστ : Keep κ σ τ) (key src : Nat) (f : FaultInfo) : Keep κ σ (State.postCorrected τ key src f) := by
  unfold State.postCorrected
  extract_lets now due s1
  have h1 : Keep κ σ s1 := State.postFault_keep hστ _ _
  clear_value s1 due now
  exact Keep.ite (Keep.withHealth h1 rfl) (Keep.afterNowHealth hστ rfl)

/-! ### Flits -/

theorem State.modNet_keep {κ : Prop} {σ τ : State} (hστ : Keep κ σ τ) (f : Net → Net) :
    Keep κ σ (State.modNet τ f) := by
  unfold State.modNet
  repeat' (first | with_reducible assumption | with_reducible refine Keep.of ?_)

theorem State.modLink_keep {κ : Prop} {σ τ : State} (hστ : Keep κ σ τ) (i : Nat) (f : Link → Link) :
    Keep κ σ (State.modLink τ i f) := by
  unfold State.modLink
  repeat' (first | with_reducible assumption | with_reducible apply State.modNet_keep | intro _ _ _ | intro _ _ | intro _ | with_reducible refine Keep.of ?_)

theorem State.takeMsg_keep {κ : Prop} {σ τ : State} (hστ : Keep κ σ τ) (m : Msg) :
    Keep κ σ (State.takeMsg τ m) := by
  unfold State.takeMsg
  repeat' (first | with_reducible assumption | with_reducible apply State.modLink_keep | with_reducible apply State.modNet_keep | exact fun _ h => h | split | intro _ _ _ | intro _ _ | intro _ | with_reducible refine Keep.of ?_)

theorem State.sendFlit_keep {κ : Prop} {σ τ : State} (hστ : Keep κ σ τ) (i : Nat) (kind : Nat) (vc : Nat) (data : List Byte) :
    Keep κ σ (State.sendFlit τ i kind vc data) := by
  unfold State.sendFlit
  repeat' (first | with_reducible assumption | with_reducible apply State.modLink_keep | with_reducible apply State.emit_keep | split | intro _ _ _ | intro _ _ | intro _ | with_reducible refine Keep.of ?_)

theorem State.pump_keep {κ : Prop} {σ τ : State} (hστ : Keep κ σ τ) (n i : Nat) : Keep κ σ (State.pump n i τ) := by
  induction n generalizing τ with
  | zero => exact hστ
  | succ n ih =>
    unfold State.pump
    dsimp only
    split
    · exact hστ
    · split
      · exact hστ
      · exact ih (State.sendFlit_keep (State.modLink_keep hστ _ _) _ _ _ _)

theorem State.queueOn_keep {κ : Prop} {σ τ : State} (hστ : Keep κ σ τ) (i : Nat) (vc : Nat) (msg : Nat) (bs : List Byte) :
    Keep κ σ (State.queueOn τ i vc msg bs) := by
  unfold State.queueOn
  repeat' (first | with_reducible assumption | with_reducible apply State.pump_keep | with_reducible apply State.modLink_keep | intro _ _ _ | intro _ _ | intro _ | with_reducible refine Keep.of ?_)

/-! ### PairOps -/

theorem State.modPair_keep {κ : Prop} {σ τ : State} (hστ : Keep κ σ τ) (f : Pair → Pair) :
    Keep κ σ (State.modPair τ f) := by
  unfold State.modPair
  repeat' (first | with_reducible assumption | with_reducible refine Keep.of ?_)

theorem State.pairGo_keep {κ : Prop} {σ τ : State} (hστ : Keep κ σ τ) (m : PairMsg) :
    Keep κ σ (State.pairGo τ m) := by
  unfold State.pairGo
  repeat' (first | with_reducible assumption | with_reducible apply State.modPair_keep | with_reducible apply State.queueOn_keep | with_reducible apply State.modNet_keep | with_reducible apply State.afterAny_keep | with_reducible apply State.afterNow_keep | exact fun _ h => h | intro _ _ _ | intro _ _ | intro _ | with_reducible refine Keep.of ?_)

theorem State.pairPump_keep {κ : Prop} {σ τ : State} (hστ : Keep κ σ τ)  :
    Keep κ σ (State.pairPump τ) := by
  unfold State.pairPump
  repeat' (first | with_reducible assumption | with_reducible apply State.pairGo_keep | with_reducible apply State.modPair_keep | with_reducible apply Keep.foldl | with_reducible apply Keep.foldlFst | split | with_reducible refine Keep.of ?_ | intro _ _ _ | intro _ _ | intro _ | dsimp only)

theorem State.pairSend_keep {κ : Prop} {σ τ : State} (hστ : Keep κ σ τ) (m : PairMsg) :
    Keep κ σ (State.pairSend τ m) := by
  unfold State.pairSend
  repeat' (first | with_reducible assumption | with_reducible apply State.pairPump_keep | with_reducible apply State.modPair_keep | intro _ _ _ | intro _ _ | intro _ | with_reducible refine Keep.of ?_)

theorem State.pairTell_keep {κ : Prop} {σ τ : State} (hστ : Keep κ σ τ) (rs : List PairRec) :
    Keep κ σ (State.pairTell τ rs) := by
  unfold State.pairTell
  repeat' (first | with_reducible assumption | with_reducible apply State.pairSend_keep | with_reducible apply State.modPair_keep | intro _ _ _ | intro _ _ | intro _ | with_reducible refine Keep.of ?_)

theorem State.pairCopy_keep {κ : Prop} {σ τ : State} (hστ : Keep κ σ τ) (r : PairRec) :
    Keep κ σ (State.pairCopy τ r) := by
  unfold State.pairCopy
  repeat' (first | with_reducible assumption | with_reducible apply State.pairTell_keep | split)

theorem State.tellLanded_keep {κ : Prop} {σ τ : State} (hστ : Keep κ σ τ) (st : Nat) (ch : Nat) (status : Status) :
    Keep κ σ (State.tellLanded τ st ch status) := by
  unfold State.tellLanded
  repeat' (first | with_reducible assumption | with_reducible apply State.pairTell_keep | split)

theorem State.pairSync_keep {κ : Prop} {σ τ : State} (hστ : Keep κ σ τ)  :
    Keep κ σ (State.pairSync τ) := by
  unfold State.pairSync
  repeat' (first | with_reducible assumption | with_reducible apply State.pairTell_keep | with_reducible apply State.modPair_keep | with_reducible apply State.hostWrite_keep | split | intro _ _ _ | intro _ _ | intro _ | with_reducible refine Keep.of ?_)

theorem State.pairFlush_keep {κ : Prop} {σ τ : State} (hστ : Keep κ σ τ)  :
    Keep κ σ (State.pairFlush τ) := by
  unfold State.pairFlush
  repeat' (first | with_reducible assumption | with_reducible apply State.modPair_keep | with_reducible apply State.emit_keep | with_reducible apply Keep.foldl | split | intro _ _ _ | intro _ _ | intro _ | with_reducible refine Keep.of ?_)

theorem State.pairShow_keep {κ : Prop} {σ τ : State} (hστ : Keep κ σ τ)  :
    Keep κ σ (State.pairShow τ) := by
  unfold State.pairShow
  repeat' (first | with_reducible assumption | with_reducible apply State.pairFlush_keep | with_reducible apply State.pairSync_keep)

theorem State.pairAck_keep {κ : Prop} {σ τ : State} (hστ : Keep κ σ τ) (msgid : Nat) :
    Keep κ σ (State.pairAck τ msgid) := by
  unfold State.pairAck
  repeat' (first | with_reducible assumption | with_reducible apply State.pairShow_keep | with_reducible apply State.pairPump_keep | with_reducible apply State.modPair_keep | intro _ _ _ | intro _ _ | intro _ | with_reducible refine Keep.of ?_)

theorem State.pairForget_keep {κ : Prop} {σ τ : State} (hστ : Keep κ σ τ)  :
    Keep κ σ (State.pairForget τ) := by
  unfold State.pairForget
  repeat' (first | with_reducible assumption | with_reducible apply State.pairFlush_keep | with_reducible apply State.modPair_keep | intro _ _ _ | intro _ _ | intro _ | with_reducible refine Keep.of ?_)

theorem State.digest_keep {κ : Prop} {σ τ : State} (hστ : Keep κ σ τ) (l : Nat) (rec : List Byte) :
    Keep κ σ (State.digest τ l rec) := by
  unfold State.digest
  repeat' (first | with_reducible assumption | split | with_reducible refine Keep.of ?_)

/-! ### Audit -/

theorem State.setBook_keep {κ : Prop} {σ τ : State} (hστ : Keep κ σ τ) (b : Book)
    (hb : τ.sec.book.next ≤ b.next ∧ τ.sec.book.acked ≤ b.acked) : Keep κ σ (τ.setBook b) :=
  Keep.ofTabs hστ ⟨rfl, rfl, rfl⟩ id id id id (by simp) (fun _ => ⟨rfl, rfl⟩) hb (fun _ => Nat.le_refl _)

theorem State.audit_keep {κ : Prop} {σ τ : State} (hστ : Keep κ σ τ) (r : AuditRec) : Keep κ σ (τ.audit r) := by
  have hp : ∀ (b b' : Book) n x, b.put n x = some b' → b'.next = b.next ∧ b'.acked = b.acked := by
    intro b b' n x h
    simp only [Book.put, Book.fresh, Option.map_eq_some_iff] at h
    obtain ⟨a, ha, rfl⟩ := h
    split at ha
    · cases ha; exact ⟨rfl, rfl⟩
    · split at ha
      · cases ha
      · cases ha; exact ⟨rfl, rfl⟩
  unfold State.audit
  dsimp only
  split
  · rename_i b' hb
    obtain ⟨h1, h2⟩ := hp _ _ _ _ hb
    exact State.setBook_keep (State.afterStamp_keep hστ _) _ ⟨Nat.le_succ _, Nat.le_of_eq h2.symm⟩
  · exact State.setBook_keep (State.afterNow_keep hστ) _ ⟨Nat.le_refl _, Nat.le_refl _⟩

theorem State.copied_keep {κ : Prop} {σ τ : State} (hστ : Keep κ σ τ) (off : Nat) (new : Nat) (act : State → State) (hact : ∀ (x0 : State), Keep κ σ x0 → Keep κ σ (act x0)) :
    Keep κ σ (State.copied τ off new act) := by
  unfold State.copied
  repeat' (first | with_reducible assumption | apply hact | with_reducible apply State.pairCopy_keep | split)

theorem State.quietWrite_keep {κ : Prop} {σ τ : State} (hστ : Keep κ σ τ) (off : Nat) (new : Nat) (ignored : Bool) (act : State → State) (hact : ∀ (x0 : State), Keep κ σ x0 → Keep κ σ (act x0)) :
    Keep κ σ (State.quietWrite τ off new ignored act) := by
  unfold State.quietWrite
  repeat' (first | with_reducible assumption | apply hact | with_reducible apply State.copied_keep | split)

theorem State.installerWrite_keep {κ : Prop} {σ τ : State} (hστ : Keep κ σ τ) (off : Nat) (old : Nat) (new : Nat) (pitch : Option Nat) (ignored : Bool) (act : State → State) (hact : ∀ (x0 : State), Keep κ σ x0 → Keep κ σ (act x0)) :
    Keep κ σ (State.installerWrite τ off old new pitch ignored act) := by
  unfold State.installerWrite
  repeat' (first | with_reducible assumption | apply hact | with_reducible apply State.copied_keep | with_reducible apply State.audit_keep | split | dsimp only)

theorem State.auditReset_keep {κ : Prop} {σ τ : State} (hστ : Keep κ σ τ) (fn : Nat) (pitch : Nat) (target : Nat) (cause : Nat) (scrub : Bool) :
    Keep κ σ (State.auditReset τ fn pitch target cause scrub) := by
  unfold State.auditReset
  repeat' (first | with_reducible assumption | with_reducible apply State.audit_keep)

theorem State.auditChip_keep {κ : Prop} {σ τ : State} (hστ : Keep κ σ τ) (cause : Nat) :
    Keep κ σ (State.auditChip τ cause) := by
  unfold State.auditChip
  repeat' (first | with_reducible assumption | with_reducible apply State.audit_keep | split)

theorem State.auditDevice_keep {κ : Prop} {σ τ : State} (hστ : Keep κ σ τ) (action : Nat) (target : Nat) (old : Nat) (new : Nat) (detail : List Byte) :
    Keep κ σ (State.auditDevice τ action target old new detail) := by
  unfold State.auditDevice
  repeat' (first | with_reducible assumption | with_reducible apply State.audit_keep)

theorem State.relock_keep {κ : Prop} {σ τ : State} (hστ : Keep κ σ τ)  :
    Keep κ σ (State.relock τ) := by
  unfold State.relock
  repeat' (first | with_reducible assumption | with_reducible apply State.audit_keep | split | with_reducible refine Keep.of ?_)

/-! ### DevMem -/

theorem State.modRegion_keep {κ : Prop} {σ τ : State} (hστ : Keep κ σ τ) (n : Nat) (f : CsRegion → CsRegion) :
    Keep κ σ (State.modRegion τ n f) := by
  unfold State.modRegion
  repeat' (first | with_reducible assumption | with_reducible refine Keep.of ?_)

theorem State.cacheXlat_keep {κ : Prop} {σ τ : State} (hστ : Keep κ σ τ) (p : Nat) (addr : Nat) :
    Keep κ σ (State.cacheXlat τ p addr) := by
  unfold State.cacheXlat
  repeat' (first | with_reducible assumption | split | with_reducible refine Keep.of ?_)

theorem Mem.setPoison_wf {m : Mem} (h : Tab.wf false m.poison = true) (k : Nat) (v : Bool) : Tab.wf false (m.setPoison k v).poison = true :=
  Tab.wf_set h _ _

theorem Mem.setLost_wf {m : Mem} (h : Tab.wf false m.poison = true) (a n : Nat) (v : Bool) : Tab.wf false (m.setLost a n v).poison = true :=
  Tab.wf_clearRange h _ _

/-- Ranges of lines marked one after the other. -/
theorem Mem.setLosts_wf {α : Type} (f : α → Nat × Nat × Bool) (l : List α) {m : Mem} (h : Tab.wf false m.poison = true) :
    Tab.wf false (l.foldl (fun (m : Mem) x => m.setLost (f x).1 (f x).2.1 (f x).2.2) m).poison = true ∧
    (l.foldl (fun (m : Mem) x => m.setLost (f x).1 (f x).2.1 (f x).2.2) m).bytes = m.bytes := by
  induction l generalizing m with
  | nil => exact ⟨h, rfl⟩
  | cons x l ih => exact ih (Mem.setLost_wf h _ _ _)

theorem State.writeLine_keep {κ : Prop} {σ τ : State} (hστ : Keep κ σ τ) (unit off : Nat) (bs : List Byte) (poison : Bool) :
    Keep κ σ (τ.writeLine unit off bs poison) := by
  unfold State.writeLine
  dsimp only
  split
  · exact hστ
  · split
    · exact Keep.ofTabs hστ ⟨rfl, rfl, rfl⟩ id (fun h => Mem.setPoison_wf h _ _) id id (by simp) (fun _ => ⟨rfl, rfl⟩) ⟨Nat.le_refl _, Nat.le_refl _⟩ (fun _ => Nat.le_refl _)
    · split
      · exact hστ
      · exact Keep.ofTabs hστ ⟨rfl, rfl, rfl⟩ (fun h => Tab.wf_setRange h _ _) (fun h => Mem.setPoison_wf h _ _) id id (by simp) (fun _ => ⟨rfl, rfl⟩) ⟨Nat.le_refl _, Nat.le_refl _⟩ (fun _ => Nat.le_refl _)

theorem State.poisonedWrite_keep {κ : Prop} {σ τ : State} (hστ : Keep κ σ τ) (p : Nat) (unit : Nat) (off : Nat) (who : Option FaultInfo) :
    Keep κ σ (State.poisonedWrite τ p unit off who) := by
  unfold State.poisonedWrite
  repeat' (first | with_reducible assumption | with_reducible apply State.postFault_keep | split | with_reducible refine Keep.of ?_)

theorem State.lineCopy_keep {κ : Prop} {σ τ : State} (hστ : Keep κ σ τ) (p : Nat) (unit : Nat) (off : Nat) :
    Keep κ σ (State.lineCopy τ p unit off) := by
  unfold State.lineCopy
  repeat' (first | with_reducible assumption | with_reducible apply State.pairSend_keep)

theorem State.mirrorLine_keep {κ : Prop} {σ τ : State} (hστ : Keep κ σ τ) (p : Nat) (a : Nat) (pl : Place) :
    Keep κ σ (State.mirrorLine τ p a pl) := by
  unfold State.mirrorLine
  repeat' (first | with_reducible assumption | with_reducible apply State.lineCopy_keep | split)

theorem State.keepImage_keep {κ : Prop} {σ τ : State} (hστ : Keep κ σ τ) (l : Nat) (a : Nat) (n : Nat) (pl : Place) :
    Keep κ σ (State.keepImage τ l a n pl) := by
  unfold State.keepImage
  repeat' (first | with_reducible assumption | with_reducible apply State.modLaunch_keep | split | intro _ _ _ | intro _ _ | intro _ | with_reducible refine Keep.of ?_)

theorem State.writeCopy_keep {κ : Prop} {σ τ : State} (hστ : Keep κ σ τ) (p : Nat) (unit : Nat) (off : Nat) (who : Option FaultInfo) (bs : List Byte) (poison : Bool) :
    Keep κ σ (State.writeCopy τ p unit off who bs poison) := by
  unfold State.writeCopy
  repeat' (first | with_reducible assumption | with_reducible apply State.poisonedWrite_keep | with_reducible apply State.writeLine_keep | split)

theorem State.writePlace_keep {κ : Prop} {σ τ : State} (hστ : Keep κ σ τ) (p : Nat) (a : Nat) (pl : Place) (who : Option FaultInfo) (bs : List Byte) (poison : Bool) :
    Keep κ σ (State.writePlace τ p a pl who bs poison) := by
  unfold State.writePlace
  repeat' (first | with_reducible assumption | with_reducible apply State.writeCopy_keep | with_reducible apply State.keepImage_keep | with_reducible apply State.mirrorLine_keep | with_reducible apply State.digest_keep | split | with_reducible refine Keep.of ?_)

theorem State.digestHost_keep {κ : Prop} {σ τ : State} (hστ : Keep κ σ τ) (l : Nat) (a : Nat) (bs : List Byte) :
    Keep κ σ (State.digestHost τ l a bs) := by
  unfold State.digestHost
  repeat' (first | with_reducible assumption | with_reducible apply State.digest_keep | with_reducible apply Keep.foldl | with_reducible apply Keep.foldlFst | intro _ _ _ | intro _ _ | intro _ | dsimp only)

theorem State.digestMsg_keep {κ : Prop} {σ τ : State} (hστ : Keep κ σ τ) (l : Nat) (mbox : Nat) (chip : Nat) (bs : List Byte) :
    Keep κ σ (State.digestMsg τ l mbox chip bs) := by
  unfold State.digestMsg
  repeat' (first | with_reducible assumption | with_reducible apply State.digest_keep | with_reducible apply Keep.foldl | with_reducible apply Keep.foldlFst | intro _ _ _ | intro _ _ | intro _ | dsimp only)

theorem State.bufferCopy_keep {κ : Prop} {σ τ : State} (hστ : Keep κ σ τ) (st : Nat) (ch : Nat) (post : Bool) (bs : List Byte) :
    Keep κ σ (State.bufferCopy τ st ch post bs) := by
  unfold State.bufferCopy
  repeat' (first | with_reducible assumption | with_reducible apply State.pairSend_keep | split)

theorem State.writePiece_keep {κ : Prop} {σ τ : State} (hστ : Keep κ σ τ) (p : Nat) (acc : Acc) (csr : Option Nat) (who : Option FaultInfo) (a : Nat) (bs : List Byte) (poison : Bool) :
    Keep κ σ (State.writePiece τ p acc csr who a bs poison) := by
  unfold State.writePiece
  repeat' (first | with_reducible assumption | with_reducible apply State.writePlace_keep | split | with_reducible refine Keep.of ?_)

theorem State.writeDev_keep {κ : Prop} {σ τ : State} (hστ : Keep κ σ τ) (p : Nat) (csr : Option Nat) (acc : Acc) (who : Option FaultInfo) (addr : Nat) (bs : List Byte) (poison : Bool) :
    Keep κ σ (State.writeDev τ p csr acc who addr bs poison) := by
  unfold State.writeDev
  repeat' (first | with_reducible assumption | with_reducible apply State.writePiece_keep | with_reducible apply Keep.foldl | with_reducible apply Keep.foldlFst | intro _ _ _ | intro _ _ | intro _ | dsimp only)

/-! ### Launch -/

theorem State.wakeFront_keep {κ : Prop} {σ τ : State} (hστ : Keep κ σ τ)  :
    Keep κ σ (State.wakeFront τ) := by
  unfold State.wakeFront
  repeat' (first | with_reducible assumption | with_reducible refine Keep.of ?_)

theorem State.descDone_keep {κ : Prop} {σ τ : State} (hστ : Keep κ σ τ) (q : Nat) (h : W32) (launch : Option Nat) :
    Keep κ σ (State.descDone τ q h launch) := by
  unfold State.descDone
  repeat' (first | with_reducible assumption | with_reducible apply State.wakeFront_keep | with_reducible apply State.modSlot_keep | with_reducible apply State.modPitch_keep | with_reducible apply State.modQueue_keep | split | intro _ _ _ | intro _ _ | intro _ | with_reducible refine Keep.of ?_)

theorem State.finishDesc_keep {κ : Prop} {σ τ : State} (hστ : Keep κ σ τ) (q : Nat) (h : W32) (st : Status) (cflags : Nat) (info : W64) (launch : Option Nat) :
    Keep κ σ (State.finishDesc τ q h st cflags info launch) := by
  unfold State.finishDesc
  repeat' (first | with_reducible assumption | with_reducible apply State.descDone_keep | with_reducible apply State.wakeFront_keep | with_reducible apply State.modQueue_keep | split | intro _ _ _ | intro _ _ | intro _ | with_reducible refine Keep.of ?_)

theorem State.dropLaunch_keep {κ : Prop} {σ τ : State} (hστ : Keep κ σ τ) (l : Nat) :
    Keep κ σ (State.dropLaunch τ l) := by
  unfold State.dropLaunch
  repeat' (first | with_reducible assumption | with_reducible refine Keep.of ?_)

theorem State.postLaunchEnd_keep {κ : Prop} {σ τ : State} (hστ : Keep κ σ τ) (x : Launch) (st : Status) :
    Keep κ σ (State.postLaunchEnd τ x st) := by
  unfold State.postLaunchEnd
  repeat' (first | with_reducible assumption | with_reducible apply State.postDbk_keep)

theorem State.endLaunch_keep {κ : Prop} {σ τ : State} (hστ : Keep κ σ τ) (l : Nat) (x : Launch) :
    Keep κ σ (State.endLaunch τ l x) := by
  unfold State.endLaunch
  repeat' (first | with_reducible assumption | with_reducible apply State.postLaunchEnd_keep | with_reducible apply State.dropLaunch_keep | with_reducible apply State.finishDesc_keep | split | intro _ _ _ | intro _ _ | intro _)

theorem State.sendDigest_keep {κ : Prop} {σ τ : State} (hστ : Keep κ σ τ) (x : Launch) :
    Keep κ σ (State.sendDigest τ x) := by
  unfold State.sendDigest
  repeat' (first | with_reducible assumption | with_reducible apply State.digest_keep | with_reducible apply State.pairSend_keep)

theorem State.compareDigest_keep {κ : Prop} {σ τ : State} (hστ : Keep κ σ τ) (x : Launch) (d : W64) (st : Nat) :
    Keep κ σ (State.compareDigest τ x d st) := by
  unfold State.compareDigest
  repeat' (first | with_reducible assumption | with_reducible apply State.digest_keep | with_reducible apply State.modPair_keep | with_reducible apply State.postEvent_keep | split | intro _ _ _ | intro _ _ | intro _ | with_reducible refine Keep.of ?_)

theorem State.finishLaunch_keep {κ : Prop} {σ τ : State} (hστ : Keep κ σ τ) (l : Nat) :
    Keep κ σ (State.finishLaunch τ l) := by
  unfold State.finishLaunch
  repeat' (first | with_reducible assumption | with_reducible apply State.compareDigest_keep | with_reducible apply State.sendDigest_keep | with_reducible apply State.endLaunch_keep | with_reducible apply State.dropLaunch_keep | with_reducible apply State.modPair_keep | split | intro _ _ _ | intro _ _ | intro _ | with_reducible refine Keep.of ?_)

theorem State.finishAwaiting_keep {κ : Prop} {σ τ : State} (hστ : Keep κ σ τ)  :
    Keep κ σ (State.finishAwaiting τ) := by
  unfold State.finishAwaiting
  repeat' (first | with_reducible assumption | with_reducible apply State.finishLaunch_keep | with_reducible apply State.modPair_keep | with_reducible apply Keep.foldl | intro _ _ _ | intro _ _ | intro _ | with_reducible refine Keep.of ?_)

theorem State.writeDump_keep {κ : Prop} {σ τ : State} (hστ : Keep κ σ τ) (p : Nat) (time : W64) (src : Nat) (seq : W32) (queue : Nat) (h : W32) (st : Status) (sections : List (List Byte)) :
    Keep κ σ (State.writeDump τ p time src seq queue h st sections) := by
  unfold State.writeDump
  repeat' (first | with_reducible assumption | with_reducible apply State.writeDev_keep | with_reducible apply State.setFld_keep)

theorem State.retainLaunch_keep {κ : Prop} {σ τ : State} (hστ : Keep κ σ τ) (l : Nat) (time : W64) (src : Nat) (seq : W32) (st : Status) :
    Keep κ σ (State.retainLaunch τ l time src seq st) := by
  unfold State.retainLaunch
  repeat' (first | with_reducible assumption | with_reducible apply State.writeDump_keep | with_reducible apply State.modLaunch_keep | split | intro _ _ _ | intro _ _ | intro _ | with_reducible refine Keep.of ?_)

theorem State.stopOn_keep {κ : Prop} {σ τ : State} (hστ : Keep κ σ τ) (l : Nat) (y : Nat × Nat × Nat) :
    Keep κ σ (State.stopOn τ l y) := by
  unfold State.stopOn
  repeat' (first | with_reducible assumption | with_reducible apply State.modStall_keep | split | intro _ _ _ | intro _ _ | intro _ | with_reducible refine Keep.of ?_)

theorem State.abortLaunch_keep {κ : Prop} {σ τ : State} (hστ : Keep κ σ τ) (l : Nat) (st : Status) (faulted : Bool) :
    Keep κ σ (State.abortLaunch τ l st faulted) := by
  unfold State.abortLaunch
  repeat' (first | with_reducible assumption | with_reducible apply State.stopOn_keep | with_reducible apply State.modLaunch_keep | with_reducible apply Keep.foldl | split | intro _ _ _ | intro _ _ | intro _ | with_reducible refine Keep.of ?_)

theorem State.killLaunch_keep {κ : Prop} {σ τ : State} (hστ : Keep κ σ τ) (l : Nat) :
    Keep κ σ (State.killLaunch τ l) := by
  unfold State.killLaunch
  repeat' (first | with_reducible assumption | with_reducible apply State.abortLaunch_keep | with_reducible apply State.retainLaunch_keep | with_reducible apply State.afterAny_keep)

theorem State.contextFaultF_keep {κ : Prop} {σ τ : State} (hστ : Keep κ σ τ) (l : Nat) (src : Nat) (lstall : Option Nat) (st : Status) (ukind : Nat) (uindex : Nat) (syndrome : Nat) (addr : Nat) (more : Nat) (seqid : Nat) :
    Keep κ σ (State.contextFaultF τ l src lstall st ukind uindex syndrome addr more seqid) := by
  unfold State.contextFaultF
  repeat' (first | with_reducible assumption | with_reducible apply State.abortLaunch_keep | with_reducible apply State.retainLaunch_keep | with_reducible apply State.postFault_keep | split | with_reducible refine Keep.of ?_)

theorem State.contextFault_keep {κ : Prop} {σ τ : State} (hστ : Keep κ σ τ) (l : Nat) (src : Nat) (lstall : Option Nat) (st : Status) (ukind : Nat) (uindex : Nat) (syndrome : Nat) (addr : Nat) :
    Keep κ σ (State.contextFault τ l src lstall st ukind uindex syndrome addr) := by
  unfold State.contextFault
  repeat' (first | with_reducible assumption | with_reducible apply State.contextFaultF_keep)

theorem State.seqFault_keep {κ : Prop} {σ τ : State} (hστ : Keep κ σ τ) (st : Nat) (c : Nat) (op : Nat) (status : Status) (addr : Nat) :
    Keep κ σ (State.seqFault τ st c op status addr) := by
  unfold State.seqFault
  repeat' (first | with_reducible assumption | with_reducible apply State.contextFault_keep)

theorem State.badProgram_keep {κ : Prop} {σ τ : State} (hστ : Keep κ σ τ) (st : Nat) (c : Nat) (op : Nat) :
    Keep κ σ (State.badProgram τ st c op) := by
  unfold State.badProgram
  repeat' (first | with_reducible assumption | with_reducible apply State.seqFault_keep)

theorem State.poisonFault_keep {κ : Prop} {σ τ : State} (hστ : Keep κ σ τ) (l : Nat) (src : Nat) (lstall : Option Nat) (ukind : Nat) (uindex : Nat) (client : Nat) (engine : Nat) (addr : Nat) :
    Keep κ σ (State.poisonFault τ l src lstall ukind uindex client engine addr) := by
  unfold State.poisonFault
  repeat' (first | with_reducible assumption | with_reducible apply State.contextFault_keep)

theorem State.zeroRows_keep {κ : Prop} {σ τ : State} (hστ : Keep κ σ τ) (st bay first last : Nat) : Keep κ σ (τ.zeroRows st bay first last) :=
  Keep.ofTabs hστ ⟨rfl, rfl, rfl⟩ id id (fun h => Tab.wf_clearRange h _ _) id (by simp) (fun _ => ⟨rfl, rfl⟩) ⟨Nat.le_refl _, Nat.le_refl _⟩ (fun _ => Nat.le_refl _)

theorem State.freeTokens_keep {κ : Prop} {σ τ : State} (hστ : Keep κ σ τ) (l : Nat) (st : Nat) :
    Keep κ σ (State.freeTokens τ l st) := by
  unfold State.freeTokens
  repeat' (first | with_reducible assumption | intro _ _ _ | intro _ _ | intro _ | with_reducible refine Keep.of ?_)

theorem State.sweepStall_keep {κ : Prop} {σ τ : State} (hστ : Keep κ σ τ) (l : Nat) (x : Launch) (st : Nat) :
    Keep κ σ (State.sweepStall τ l x st) := by
  unfold State.sweepStall
  repeat' (first | with_reducible assumption | with_reducible apply State.freeTokens_keep | with_reducible apply State.zeroRows_keep | with_reducible apply State.modStall_keep | with_reducible apply Keep.foldl | split | intro _ _ _ | intro _ _ | intro _ | with_reducible refine Keep.of ?_)

/-! ### Blocks -/

theorem State.writePsb_keep {κ : Prop} {σ τ : State} (hστ : Keep κ σ τ) (p : Nat) :
    Keep κ σ (State.writePsb τ p) := by
  unfold State.writePsb
  repeat' (first | with_reducible assumption | with_reducible apply State.hostShow_keep | with_reducible apply State.afterStamp_keep | with_reducible apply State.modPitch_keep | split | intro _ _ _ | intro _ _ | intro _ | with_reducible refine Keep.of ?_)

theorem State.writeBlock_keep {κ : Prop} {σ τ : State} (hστ : Keep κ σ τ) (q : Nat) :
    Keep κ σ (State.writeBlock τ q) := by
  unfold State.writeBlock
  repeat' (first | with_reducible assumption | with_reducible apply State.hostShow_keep | with_reducible apply State.afterStamp_keep | split | with_reducible refine Keep.of ?_)

theorem State.writeRecord_keep {κ : Prop} {σ τ : State} (hστ : Keep κ σ τ) (q : Nat) :
    Keep κ σ (State.writeRecord τ q) := by
  unfold State.writeRecord
  repeat' (first | with_reducible assumption | with_reducible apply State.writeBlock_keep | with_reducible apply State.descDone_keep | with_reducible apply State.raiseCause_keep | with_reducible apply State.hostShow_keep | with_reducible apply State.afterStamp_keep | with_reducible apply State.modQueue_keep | split | intro _ _ _ | intro _ _ | intro _ | with_reducible refine Keep.of ?_)

theorem State.drainCq_keep {κ : Prop} {σ τ : State} (hστ : Keep κ σ τ) (n q : Nat) : Keep κ σ (State.drainCq n q τ) := by
  induction n generalizing τ with
  | zero => exact hστ
  | succ n ih => exact ih (State.writeRecord_keep hστ q)

theorem State.drainCqs_keep {κ : Prop} {σ τ : State} (hστ : Keep κ σ τ) (qs : List Nat) :
    Keep κ σ (State.drainCqs τ qs) := by
  unfold State.drainCqs
  repeat' (first | with_reducible assumption | with_reducible apply State.drainCq_keep | with_reducible apply Keep.foldl | intro _ _ _ | intro _ _ | intro _)

/-! ### MemServe -/

theorem State.reclaim_keep {κ : Prop} {σ τ : State} (hστ : Keep κ σ τ) (p : Nat) (unit : Nat) (kind : Nat) (frame : Nat) :
    Keep κ σ (State.reclaim τ p unit kind frame) := by
  unfold State.reclaim
  repeat' (first | with_reducible assumption | with_reducible apply State.hostWrite_keep | with_reducible apply State.afterSeq_keep | with_reducible apply State.afterStamp_keep | with_reducible apply State.modPitch_keep | split | intro _ _ _ | intro _ _ | intro _ | with_reducible refine Keep.of ?_)

theorem State.dropReq_keep {κ : Prop} {σ τ : State} (hστ : Keep κ σ τ) (id : Nat) :
    Keep κ σ (State.dropReq τ id) := by
  unfold State.dropReq
  repeat' (first | with_reducible assumption | exact fun _ h => h | intro _ _ _ | intro _ _ | intro _ | with_reducible refine Keep.of ?_)

theorem State.modReq_keep {κ : Prop} {σ τ : State} (hστ : Keep κ σ τ) (id : Nat) (f : MemReq → MemReq) :
    Keep κ σ (State.modReq τ id f) := by
  unfold State.modReq
  repeat' (first | with_reducible assumption | exact fun _ h => h | split | intro _ _ _ | intro _ _ | intro _ | with_reducible refine Keep.of ?_)

theorem State.serveStore_keep {κ : Prop} {σ τ : State} (hστ : Keep κ σ τ) (r : MemReq) (bs : List Byte) (poison : Bool) :
    Keep κ σ (State.serveStore τ r bs poison) := by
  unfold State.serveStore
  repeat' (first | with_reducible assumption | with_reducible apply State.dropReq_keep | with_reducible apply State.writePlace_keep | exact fun _ h => h)

theorem State.serveHost_keep {κ : Prop} {σ τ : State} (hστ : Keep κ σ τ) (r : MemReq) (bs : List Byte) (poison : Bool) :
    Keep κ σ (State.serveHost τ r bs poison) := by
  unfold State.serveHost
  repeat' (first | with_reducible assumption | with_reducible apply State.dropReq_keep | with_reducible apply State.writePlace_keep | with_reducible apply State.pairCopy_keep | exact fun _ h => h)

theorem State.settleHost_keep {κ : Prop} {σ τ : State} (hστ : Keep κ σ τ) (fn : Nat) :
    Keep κ σ (State.settleHost τ fn) := by
  unfold State.settleHost
  repeat' (first | with_reducible assumption | with_reducible apply State.serveHost_keep | with_reducible apply State.hostWrite_keep | with_reducible apply Keep.foldl | split | intro _ _ _ | intro _ _ | intro _ | with_reducible refine Keep.of ?_)

theorem State.bufferLine_keep {κ : Prop} {σ τ : State} (hστ : Keep κ σ τ) (unit : Nat) (off : Nat) :
    Keep κ σ (State.bufferLine τ unit off) := by
  unfold State.bufferLine
  repeat' (first | with_reducible assumption | split | intro _ _ _ | intro _ _ | intro _ | with_reducible refine Keep.of ?_)

theorem State.reclaims_keep {κ : Prop} {σ τ : State} (hστ : Keep κ σ τ) (p : Nat) (cs : List (Nat × Int × Int × Nat)) :
    Keep κ σ (State.reclaims τ p cs) := by
  unfold State.reclaims
  repeat' (first | with_reducible assumption | with_reducible apply State.reclaim_keep | with_reducible apply Keep.foldl | split | intro _ _ _ | intro _ _ | intro _)

theorem State.serveAtomic_keep {κ : Prop} {σ τ : State} (hστ : Keep κ σ τ) (r : MemReq) (op : AtomOp) (x : W64) (y : W64) :
    Keep κ σ (State.serveAtomic τ r op x y) := by
  unfold State.serveAtomic
  repeat' (first | with_reducible assumption | with_reducible apply State.reclaims_keep | with_reducible apply State.bufferLine_keep | with_reducible apply State.modReq_keep | with_reducible apply State.dropReq_keep | with_reducible apply State.poisonFault_keep | with_reducible apply State.contextFault_keep | with_reducible apply State.writePlace_keep | with_reducible apply State.keepImage_keep | with_reducible apply State.digest_keep | with_reducible apply State.postError_keep | exact fun _ h => h | split | intro _ _ _ | intro _ _ | intro _ | with_reducible refine Keep.of ?_)

theorem State.settleLaunch_keep {κ : Prop} {σ τ : State} (hστ : Keep κ σ τ) (l : Nat) :
    Keep κ σ (State.settleLaunch τ l) := by
  unfold State.settleLaunch
  repeat' (first | with_reducible assumption | with_reducible apply State.serveAtomic_keep | with_reducible apply State.serveStore_keep | with_reducible apply Keep.foldl | split | intro _ _ _ | intro _ _ | intro _ | with_reducible refine Keep.of ?_)

theorem State.settle_keep {κ : Prop} {σ τ : State} (hστ : Keep κ σ τ) (p : Nat) :
    Keep κ σ (State.settle τ p) := by
  unfold State.settle
  repeat' (first | with_reducible assumption | with_reducible apply State.serveAtomic_keep | with_reducible apply State.serveHost_keep | with_reducible apply State.serveStore_keep | with_reducible apply State.hostWrite_keep | with_reducible apply Keep.foldl | split | intro _ _ _ | intro _ _ | intro _ | with_reducible refine Keep.of ?_)

/-! ### LinkOps -/

theorem State.forwardBy_keep {κ : Prop} {σ τ : State} (hστ : Keep κ σ τ) (e : Nat) (inPort : Option Nat) (vcIn : Nat) (bs : List Byte) :
    Keep κ σ (State.forwardBy τ e inPort vcIn bs) := by
  unfold State.forwardBy
  repeat' (first | with_reducible assumption | with_reducible apply State.queueOn_keep | with_reducible apply State.modNet_keep | split | intro _ _ _ | intro _ _ | intro _ | with_reducible refine Keep.of ?_)

theorem State.forward_keep {κ : Prop} {σ τ : State} (hστ : Keep κ σ τ) (inPort : Option Nat) (vcIn : Nat) (bs : List Byte) :
    Keep κ σ (State.forward τ inPort vcIn bs) := by
  unfold State.forward
  repeat' (first | with_reducible assumption | with_reducible apply State.forwardBy_keep)

theorem State.releaseHeld_keep {κ : Prop} {σ τ : State} (hστ : Keep κ σ τ) (old : Nat) :
    Keep κ σ (State.releaseHeld τ old) := by
  unfold State.releaseHeld
  repeat' (first | with_reducible assumption | with_reducible apply State.queueOn_keep | with_reducible apply State.modNet_keep | with_reducible apply Keep.foldl | split | intro _ _ _ | intro _ _ | intro _ | with_reducible refine Keep.of ?_)

theorem State.engineSend_keep {κ : Prop} {σ τ : State} (hστ : Keep κ σ τ) (h : Head) (data : List Byte) :
    Keep κ σ (State.engineSend τ h data) := by
  unfold State.engineSend
  repeat' (first | with_reducible assumption | with_reducible apply State.forward_keep | with_reducible apply State.modNet_keep | with_reducible apply State.afterAny_keep | with_reducible apply State.afterNow_keep | split | intro _ _ _ | intro _ _ | intro _ | with_reducible refine Keep.of ?_)

theorem State.control_keep {κ : Prop} {σ τ : State} (hστ : Keep κ σ τ) (i : Nat) (mtype : Nat) (arg : Nat) (data : List Byte) :
    Keep κ σ (State.control τ i mtype arg data) := by
  unfold State.control
  repeat' (first | with_reducible assumption | with_reducible apply State.queueOn_keep | with_reducible apply State.modNet_keep | with_reducible apply State.afterAny_keep | with_reducible apply State.afterNow_keep | intro _ _ _ | intro _ _ | intro _ | with_reducible refine Keep.of ?_)

theorem State.refuseMsg_keep {κ : Prop} {σ τ : State} (hστ : Keep κ σ τ) (m : Msg) (st : Status) :
    Keep κ σ (State.refuseMsg τ m st) := by
  unfold State.refuseMsg
  repeat' (first | with_reducible assumption | with_reducible apply State.engineSend_keep)

theorem State.sendEpoch_keep {κ : Prop} {σ τ : State} (hστ : Keep κ σ τ) (chip : Nat) (epoch : Nat) (fresh : Bool) (but : Option Nat) :
    Keep κ σ (State.sendEpoch τ chip epoch fresh but) := by
  unfold State.sendEpoch
  repeat' (first | with_reducible assumption | with_reducible apply State.control_keep | with_reducible apply Keep.foldl | intro _ _ _ | intro _ _ | intro _)

theorem State.tellNeighbours_keep {κ : Prop} {σ τ : State} (hστ : Keep κ σ τ) (c : Coll) (mtype : Nat) (arg : Nat) (data : List Byte) :
    Keep κ σ (State.tellNeighbours τ c mtype arg data) := by
  unfold State.tellNeighbours
  repeat' (first | with_reducible assumption | with_reducible apply State.engineSend_keep | with_reducible apply Keep.foldl | exact fun _ h => h | split | intro _ _ _ | intro _ _ | intro _ | with_reducible refine Keep.of ?_)

theorem State.portRec_keep {κ : Prop} {σ τ : State} (hστ : Keep κ σ τ) (st : Nat) (ch : Nat) (x : Xfer) (status : Status) (bytes : Nat) :
    Keep κ σ (State.portRec τ st ch x status bytes) := by
  unfold State.portRec
  repeat' (first | with_reducible assumption | with_reducible apply State.postDbk_keep | with_reducible apply State.afterStamp_keep | split | with_reducible refine Keep.of ?_)

theorem State.failRec_keep {κ : Prop} {σ τ : State} (hστ : Keep κ σ τ) (st : Nat) (ch : Nat) (x : Xfer) (status : Status) :
    Keep κ σ (State.failRec τ st ch x status) := by
  unfold State.failRec
  repeat' (first | with_reducible assumption | with_reducible apply State.portRec_keep | split)

theorem State.xferFault_keep {κ : Prop} {σ τ : State} (hστ : Keep κ σ τ) (st : Nat) (ch : Nat) (x : Xfer) (status : Status) (addr : Nat) :
    Keep κ σ (State.xferFault τ st ch x status addr) := by
  unfold State.xferFault
  repeat' (first | with_reducible assumption | with_reducible apply State.failRec_keep | with_reducible apply State.contextFault_keep)

theorem State.pruneSlows_keep {κ : Prop} {σ τ : State} (hστ : Keep κ σ τ)  :
    Keep κ σ (State.pruneSlows τ) := by
  unfold State.pruneSlows
  repeat' (first | with_reducible assumption | with_reducible apply State.modNet_keep | intro _ _ _ | intro _ _ | intro _ | with_reducible refine Keep.of ?_)

theorem State.endColl_keep {κ : Prop} {σ τ : State} (hστ : Keep κ σ τ) (k : Nat) (st : Status) :
    Keep κ σ (State.endColl τ k st) := by
  unfold State.endColl
  repeat' (first | with_reducible assumption | with_reducible apply State.pruneSlows_keep | with_reducible apply State.xferFault_keep | with_reducible apply State.tellNeighbours_keep | with_reducible apply State.modNet_keep | with_reducible apply Keep.foldl | split | intro _ _ _ | intro _ _ | intro _ | with_reducible refine Keep.of ?_)

theorem State.endColls_keep {κ : Prop} {σ τ : State} (hστ : Keep κ σ τ) (f : Coll → Bool) (st : Status) :
    Keep κ σ (State.endColls τ f st) := by
  unfold State.endColls
  repeat' (first | with_reducible assumption | with_reducible apply State.endColl_keep | with_reducible apply Keep.foldl | intro _ _ _ | intro _ _ | intro _)

theorem State.sendCredit_keep {κ : Prop} {σ τ : State} (hστ : Keep κ σ τ) (p : Nat) (m : Nat) (size : Nat) (reset : Bool) :
    Keep κ σ (State.sendCredit τ p m size reset) := by
  unfold State.sendCredit
  repeat' (first | with_reducible assumption | with_reducible apply State.engineSend_keep | split)

theorem State.dropPitchNet_keep {κ : Prop} {σ τ : State} (hστ : Keep κ σ τ) (p : Nat) :
    Keep κ σ (State.dropPitchNet τ p) := by
  unfold State.dropPitchNet
  repeat' (first | with_reducible assumption | with_reducible apply State.sendCredit_keep | with_reducible apply State.endColls_keep | with_reducible apply State.modNet_keep | with_reducible apply Keep.foldl | intro _ _ _ | intro _ _ | intro _ | with_reducible refine Keep.of ?_)

/-! ### Stacks -/

theorem State.modStack_keep {κ : Prop} {σ τ : State} (hστ : Keep κ σ τ) (k : Nat) (f : Stack → Stack) :
    Keep κ σ (State.modStack τ k f) := by
  unfold State.modStack
  repeat' (first | with_reducible assumption | with_reducible refine Keep.of ?_)

theorem State.thermalRec_keep {κ : Prop} {σ τ : State} (hστ : Keep κ σ τ) (k : Nat) (was : Nat) (now : Nat) (temp : BitVec 12) :
    Keep κ σ (State.thermalRec τ k was now temp) := by
  unfold State.thermalRec
  repeat' (first | with_reducible assumption | with_reducible apply State.postDbk_keep)

theorem State.slowColl_keep {κ : Prop} {σ τ : State} (hστ : Keep κ σ τ) (c : Coll) (k : Nat) (factor : Nat) (time : W64) :
    Keep κ σ (State.slowColl τ c k factor time) := by
  unfold State.slowColl
  repeat' (first | with_reducible assumption | with_reducible apply State.tellNeighbours_keep | exact fun _ h => h)

theorem State.slowAll_keep {κ : Prop} {σ τ : State} (hστ : Keep κ σ τ) (k : Nat) (factor : Nat) (time : W64) :
    Keep κ σ (State.slowAll τ k factor time) := by
  unfold State.slowAll
  repeat' (first | with_reducible assumption | with_reducible apply State.slowColl_keep | with_reducible apply Keep.foldl | intro _ _ _ | intro _ _ | intro _)

theorem State.slowOpened_keep {κ : Prop} {σ τ : State} (hστ : Keep κ σ τ) (c : Coll) :
    Keep κ σ (State.slowOpened τ c) := by
  unfold State.slowOpened
  repeat' (first | with_reducible assumption | with_reducible apply State.slowColl_keep | with_reducible apply Keep.foldl | intro _ _ _ | intro _ _ | intro _)

/-! ### Limits -/

theorem State.retune_keep {κ : Prop} {σ τ : State} (hστ : Keep κ σ τ) : Keep κ σ τ.retune :=
  Keep.of hστ ⟨rfl, rfl, rfl⟩ ⟨rfl, rfl⟩ rfl ⟨rfl, rfl, rfl, rfl⟩ rfl

/-! ### Ecc -/

theorem State.upset_keep {κ : Prop} {σ τ : State} (hστ : Keep κ σ τ) (st : Nat) (ups : List (Nat × BitVec 39)) : Keep κ σ (τ.upset st ups) :=
  Keep.foldl hστ _ (fun _ _ h => Keep.ofTabs h ⟨rfl, rfl, rfl⟩ id id (fun h => Tab.wf_set h _ _) id (by simp) (fun _ => ⟨rfl, rfl⟩) ⟨Nat.le_refl _, Nat.le_refl _⟩ (fun _ => Nat.le_refl _))

theorem State.bayWrite_keep {κ : Prop} {σ τ : State} (hστ : Keep κ σ τ) (st addr : Nat) (w : W32) : Keep κ σ (τ.bayWrite st addr w) :=
  Keep.ofTabs hστ ⟨rfl, rfl, rfl⟩ id id (fun h => Tab.wf_set h _ _) id (by simp) (fun _ => ⟨rfl, rfl⟩) ⟨Nat.le_refl _, Nat.le_refl _⟩ (fun _ => Nat.le_refl _)

theorem State.bayWrites_keep {κ : Prop} {σ τ : State} (hστ : Keep κ σ τ) (st addr : Nat) (ws : List W32) : Keep κ σ (τ.bayWrites st addr ws) := by
  induction ws generalizing τ addr with
  | nil => exact hστ
  | cons w ws ih => exact ih (State.bayWrite_keep hστ st addr w) (addr + 1)

/-! ### Faults -/

theorem State.zeroBays_keep {κ : Prop} {σ τ : State} (hστ : Keep κ σ τ) (st : Nat) : Keep κ σ (τ.zeroBays st) :=
  Keep.ofTabs hστ ⟨rfl, rfl, rfl⟩ id id (fun h => Tab.wf_clearRange h _ _) id (by simp) (fun _ => ⟨rfl, rfl⟩) ⟨Nat.le_refl _, Nat.le_refl _⟩ (fun _ => Nat.le_refl _)

theorem State.setPwr_keep {κ : Prop} {σ τ : State} (hστ : Keep κ σ τ) (st : Nat) (tgt : PwrState) :
    Keep κ σ (State.setPwr τ st tgt) := by
  unfold State.setPwr
  repeat' (first | with_reducible assumption | with_reducible apply State.zeroBays_keep | with_reducible apply State.postDbk_keep | with_reducible apply State.afterNow_keep | with_reducible apply State.modStall_keep | split | intro _ _ _ | intro _ _ | intro _ | with_reducible refine Keep.of ?_)

theorem State.wakeStall_keep {κ : Prop} {σ τ : State} (hστ : Keep κ σ τ) (st : Nat) :
    Keep κ σ (State.wakeStall τ st) := by
  unfold State.wakeStall
  repeat' (first | with_reducible assumption | with_reducible apply State.setPwr_keep)

theorem State.rouse_keep {κ : Prop} {σ τ : State} (hστ : Keep κ σ τ) (st : Nat) :
    Keep κ σ (State.rouse τ st) := by
  unfold State.rouse
  repeat' (first | with_reducible assumption | with_reducible apply State.wakeStall_keep | split)

theorem State.replaceEvent_keep {κ : Prop} {σ τ : State} (hστ : Keep κ σ τ) (kind : Nat) (index : Nat) (status : Nat) :
    Keep κ σ (State.replaceEvent τ kind index status) := by
  unfold State.replaceEvent
  repeat' (first | with_reducible assumption | with_reducible apply State.postEvent_keep | with_reducible apply State.emit_keep | split | with_reducible refine Keep.of ?_)

theorem State.reviewDegraded_keep {κ : Prop} {σ τ : State} (hστ : Keep κ σ τ)  :
    Keep κ σ (State.reviewDegraded τ) := by
  unfold State.reviewDegraded
  repeat' (first | with_reducible assumption | with_reducible apply State.emit_keep | split | with_reducible refine Keep.of ?_)

theorem State.standDown_keep {κ : Prop} {σ τ : State} (hστ : Keep κ σ τ)  :
    Keep κ σ (State.standDown τ) := by
  unfold State.standDown
  repeat' (first | with_reducible assumption | with_reducible apply State.abortLaunch_keep | with_reducible apply Keep.foldl | intro _ _ _ | intro _ _ | intro _ | with_reducible refine Keep.of ?_)

theorem State.pairBreak_keep {κ : Prop} {σ τ : State} (hστ : Keep κ σ τ)  :
    Keep κ σ (State.pairBreak τ) := by
  unfold State.pairBreak
  repeat' (first | with_reducible assumption | with_reducible apply State.standDown_keep | with_reducible apply State.replaceEvent_keep | with_reducible apply State.finishAwaiting_keep | with_reducible apply State.pairForget_keep | with_reducible apply State.modPair_keep | split | intro _ _ _ | intro _ _ | intro _ | with_reducible refine Keep.of ?_)

theorem State.mapOutStall_keep {κ : Prop} {σ τ : State} (hστ : Keep κ σ τ) (st status : Nat) : Keep κ σ (τ.mapOutStall st status) := by
  unfold State.mapOutStall
  dsimp only
  split
  · exact hστ
  · have h : Keep κ σ { τ with health := { τ.health with out := τ.health.out ||| BitVec.ofNat 52 (2 ^ τ.pstall st) } } :=
      Keep.ofTabs hστ ⟨rfl, rfl, rfl⟩ id id id id (by ext i; simp; intro a; exact .inl a) (fun _ => ⟨rfl, rfl⟩) ⟨Nat.le_refl _, Nat.le_refl _⟩ (fun _ => Nat.le_refl _)
    have g := State.pairBreak_keep (State.replaceEvent_keep h 1 st status)
    split
    · exact g
    · exact State.setPwr_keep g _ _

theorem State.leaveStall_keep {κ : Prop} {σ τ : State} (hστ : Keep κ σ τ) (st : Nat) :
    Keep κ σ (State.leaveStall τ st) := by
  unfold State.leaveStall
  repeat' (first | with_reducible assumption | with_reducible apply State.setPwr_keep | with_reducible apply State.afterNow_keep | with_reducible apply State.modStall_keep | split | with_reducible refine Keep.of ?_ | with_reducible refine Keep.ofTabs ?_ ⟨rfl, rfl, rfl⟩ (fun h => by (try dsimp only); first | exact h | exact Tab.wf_clearRange h _ _ | exact Tab.wf_set h _ _ | exact Tab.wf_setRange h _ _ | exact Tab.wf_filter h _ | exact Tab.wf_nil _) (fun h => by (try dsimp only); first | exact h | exact Tab.wf_clearRange h _ _ | exact Tab.wf_set h _ _ | exact Tab.wf_setRange h _ _ | exact Tab.wf_filter h _ | exact Tab.wf_nil _) (fun h => by (try dsimp only); first | exact h | exact Tab.wf_clearRange h _ _ | exact Tab.wf_set h _ _ | exact Tab.wf_setRange h _ _ | exact Tab.wf_filter h _ | exact Tab.wf_nil _) (fun h => by (try dsimp only); first | exact h | exact Tab.rising_filter h _ | rfl) (by simp) (fun _ => ⟨rfl, rfl⟩) ⟨Nat.le_refl _, Nat.le_refl _⟩ (fun _ => Nat.le_refl _) | intro _ _ _ | intro _ | dsimp -zeta only | (extract_lets +onlyGivenNames w; first | (refine (fun (hw : Keep κ σ w) => ?_) ?_; clear_value w; rotate_left; subst w; rotate_left) | (refine (fun (hw : Keep κ σ w.1) => ?_) ?_; clear_value w; rotate_left; subst w; rotate_left) | skip) | dsimp only | dsimp +zetaDelta only)

theorem State.countMismatch_keep {κ : Prop} {σ τ : State} (hστ : Keep κ σ τ) (st : Nat) :
    Keep κ σ (State.countMismatch τ st) := by
  unfold State.countMismatch
  repeat' (first | with_reducible assumption | with_reducible apply State.mapOutStall_keep | with_reducible apply State.afterNow_keep | split | with_reducible refine Keep.afterNowHealth ?_ rfl | with_reducible refine Keep.of ?_)

theorem State.countBay_keep {κ : Prop} {σ τ : State} (hστ : Keep κ σ τ) (st : Nat) (bay : Nat) :
    Keep κ σ (State.countBay τ st bay) := by
  unfold State.countBay
  repeat' (first | with_reducible assumption | with_reducible apply State.mapOutStall_keep | with_reducible apply State.afterNow_keep | split | with_reducible refine Keep.afterNowHealth ?_ rfl | with_reducible refine Keep.of ?_)

theorem State.stallFault_keep {κ : Prop} {σ τ : State} (hστ : Keep κ σ τ) (st : Nat) (ukind : Nat) :
    Keep κ σ (State.stallFault τ st ukind) := by
  unfold State.stallFault
  repeat' (first | with_reducible assumption | with_reducible apply State.mapOutStall_keep | with_reducible apply State.contextFaultF_keep | with_reducible apply Keep.foldl | intro _ _ _ | intro _ _ | intro _)

theorem State.resetDesc_keep {κ : Prop} {σ τ : State} (hστ : Keep κ σ τ) (p : Nat) (q : Nat) (d : Desc) :
    Keep κ σ (State.resetDesc τ p q d) := by
  unfold State.resetDesc
  repeat' (first | with_reducible assumption | with_reducible apply State.abortLaunch_keep | with_reducible apply State.modPitch_keep | split | intro _ _ _ | intro _ _ | intro _ | with_reducible refine Keep.of ?_)

theorem State.freeSlots_keep {κ : Prop} {σ τ : State} (hστ : Keep κ σ τ) (p : Nat) :
    Keep κ σ (State.freeSlots τ p) := by
  unfold State.freeSlots
  repeat' (first | with_reducible assumption | split | intro _ _ _ | intro _ _ | intro _ | with_reducible refine Keep.of ?_)

theorem State.resetBegin_keep {κ : Prop} {σ τ : State} (hστ : Keep κ σ τ) (p : Nat) (cause : Nat) (scrub : Bool) :
    Keep κ σ (State.resetBegin τ p cause scrub) := by
  unfold State.resetBegin
  repeat' (first | with_reducible assumption | with_reducible apply State.freeSlots_keep | with_reducible apply State.resetDesc_keep | with_reducible apply State.wakeStall_keep | with_reducible apply State.dropPitchNet_keep | with_reducible apply State.writePsb_keep | with_reducible apply State.writeDump_keep | with_reducible apply State.postDbk_keep | with_reducible apply State.modMsi_keep | with_reducible apply State.modPitch_keep | with_reducible apply Keep.foldl | split | intro _ _ _ | intro _ _ | intro _ | with_reducible refine Keep.of ?_)

theorem State.resetSweep_keep {κ : Prop} {σ τ : State} (hστ : Keep κ σ τ) (p : Nat) (st : Nat) :
    Keep κ σ (State.resetSweep τ p st) := by
  unfold State.resetSweep
  repeat' (first | with_reducible assumption | with_reducible apply State.zeroBays_keep | with_reducible apply State.modPitch_keep | with_reducible apply State.modStall_keep | intro _ _ _ | intro _ _ | intro _ | with_reducible refine Keep.of ?_)

theorem State.setUnitPwr_keep {κ : Prop} {σ τ : State} (hστ : Keep κ σ τ) (u : Nat) (p : UnitPwr) :
    Keep κ σ (State.setUnitPwr τ u p) := by
  unfold State.setUnitPwr
  repeat' (first | with_reducible assumption | with_reducible refine Keep.of ?_)

theorem State.resetTables_keep {κ : Prop} {σ τ : State} (hστ : Keep κ σ τ) (p : Nat) :
    Keep κ σ (State.resetTables τ p) := by
  unfold State.resetTables
  repeat' (first | with_reducible assumption | with_reducible apply State.writeDev_keep | with_reducible apply Keep.foldl | split | intro _ _ _ | intro _ _ | intro _ | with_reducible refine Keep.of ?_)

theorem State.fenceRefused_keep {κ : Prop} {σ τ : State} (hστ : Keep κ σ τ) (p : Nat) (f : Nat) (st : Status) :
    Keep κ σ (State.fenceRefused τ p f st) := by
  unfold State.fenceRefused
  repeat' (first | with_reducible assumption | with_reducible apply State.poisonedWrite_keep | split | with_reducible refine Keep.of ?_)

theorem State.signalDone_keep {κ : Prop} {σ τ : State} (hστ : Keep κ σ τ) (n : Nat) :
    Keep κ σ (State.signalDone τ n) := by
  unfold State.signalDone
  repeat' (first | with_reducible assumption | with_reducible apply State.fenceRefused_keep | with_reducible apply State.finishDesc_keep | with_reducible apply State.writeDev_keep | with_reducible apply State.postDbk_keep | split | intro _ _ _ | intro _ _ | intro _ | with_reducible refine Keep.of ?_)

theorem State.resetSettle_keep {κ : Prop} {σ τ : State} (hστ : Keep κ σ τ) (p : Nat) :
    Keep κ σ (State.resetSettle τ p) := by
  unfold State.resetSettle
  repeat' (first | with_reducible assumption | with_reducible apply State.signalDone_keep | with_reducible apply State.resetTables_keep | with_reducible apply State.setUnitPwr_keep | with_reducible apply State.settle_keep | with_reducible apply State.modPitch_keep | with_reducible apply Keep.foldl | split | intro _ _ _ | intro _ _ | intro _ | with_reducible refine Keep.of ?_)

theorem State.resetRequest_keep {κ : Prop} {σ τ : State} (hστ : Keep κ σ τ) (p : Nat) (cause : Nat) (scrub : Bool) (teardown : Bool) :
    Keep κ σ (State.resetRequest τ p cause scrub teardown) := by
  unfold State.resetRequest
  repeat' (first | with_reducible assumption | with_reducible apply State.resetBegin_keep | with_reducible apply State.pairCopy_keep | with_reducible apply State.modPitch_keep | split | intro _ _ _ | intro _ _ | intro _ | with_reducible refine Keep.of ?_)

theorem State.pitchFatal_keep {κ : Prop} {σ τ : State} (hστ : Keep κ σ τ) (p : Nat) (src : Nat) (ukind : Nat) (uindex : Nat) (syndrome : Nat) (addr : Nat) :
    Keep κ σ (State.pitchFatal τ p src ukind uindex syndrome addr) := by
  unfold State.pitchFatal
  repeat' (first | with_reducible assumption | with_reducible apply State.resetRequest_keep | with_reducible apply State.postFault_keep)

theorem State.chipBegin_keep {κ : Prop} {σ τ : State} (hστ : Keep κ σ τ) (cause : Nat) (dump : Bool) (perst : Bool) (src : Nat) (seq : W32) :
    Keep κ σ (State.chipBegin τ cause dump perst src seq) := by
  unfold State.chipBegin
  repeat' (first | with_reducible assumption | with_reducible apply State.sendEpoch_keep | with_reducible apply State.settle_keep | with_reducible apply State.writePsb_keep | with_reducible apply State.relock_keep | with_reducible apply State.auditChip_keep | with_reducible apply State.postDbk_keep | with_reducible apply State.afterNow_keep | with_reducible apply State.modPitch_keep | with_reducible apply State.setFld_keep | with_reducible apply Keep.foldl | split | intro _ _ _ | intro _ _ | intro _ | with_reducible refine Keep.of ?_)

theorem State.chipReset_keep {κ : Prop} {σ τ : State} (hστ : Keep κ σ τ) (cause : Nat) (dump : Bool) (perst : Bool) (src : Nat) (seq : W32) :
    Keep κ σ (State.chipReset τ cause dump perst src seq) := by
  unfold State.chipReset
  repeat' (first | with_reducible assumption | with_reducible apply State.chipBegin_keep | with_reducible apply State.replaceEvent_keep | split | with_reducible refine Keep.of ?_)

theorem State.startFault_keep {κ : Prop} {σ τ : State} (hστ : Keep κ σ τ)  :
    Keep κ σ (State.startFault τ) := by
  unfold State.startFault
  repeat' (first | with_reducible assumption | with_reducible apply State.replaceEvent_keep | split | with_reducible refine Keep.of ?_)

theorem State.chipFatal_keep {κ : Prop} {σ τ : State} (hστ : Keep κ σ τ) (src : Nat) (ukind : Nat) (uindex : Nat) (syndrome : Nat) :
    Keep κ σ (State.chipFatal τ src ukind uindex syndrome) := by
  unfold State.chipFatal
  repeat' (first | with_reducible assumption | with_reducible apply State.startFault_keep | with_reducible apply State.chipReset_keep | with_reducible apply State.pairBreak_keep | with_reducible apply State.pairGo_keep | with_reducible apply State.modPair_keep | with_reducible apply State.postFault_keep | split | intro _ _ _ | intro _ _ | intro _ | with_reducible refine Keep.of ?_)

theorem State.malformed_keep {κ : Prop} {σ τ : State} (hστ : Keep κ σ τ) (p : Nat) (addr : Nat) :
    Keep κ σ (State.malformed τ p addr) := by
  unfold State.malformed
  repeat' (first | with_reducible assumption | with_reducible apply State.postError_keep)

theorem State.tablePoison_keep {κ : Prop} {σ τ : State} (hστ : Keep κ σ τ) (p : Nat) :
    Keep κ σ (State.tablePoison τ p) := by
  unfold State.tablePoison
  repeat' (first | with_reducible assumption | with_reducible apply State.pitchFatal_keep)

theorem State.seqDenied_keep {κ : Prop} {σ τ : State} (hστ : Keep κ σ τ) (st : Nat) (c : Nat) (op : Nat) (p : Nat) (addr : Nat) (malformed : Bool) :
    Keep κ σ (State.seqDenied τ st c op p addr malformed) := by
  unfold State.seqDenied
  repeat' (first | with_reducible assumption | with_reducible apply State.malformed_keep | with_reducible apply State.seqFault_keep | split)

/-! ### BayOps -/

theorem State.bayCorrected_keep {κ : Prop} {σ τ : State} (hστ : Keep κ σ τ) (key : Nat) (w : W32) :
    Keep κ σ (State.bayCorrected τ key w) := by
  unfold State.bayCorrected
  repeat' (first | with_reducible assumption | with_reducible apply State.countBay_keep | with_reducible apply State.postCorrected_keep | with_reducible refine Keep.of ?_)

theorem State.bayUncorrectable_keep {κ : Prop} {σ τ : State} (hστ : Keep κ σ τ) (key : Nat) :
    Keep κ σ (State.bayUncorrectable τ key) := by
  unfold State.bayUncorrectable
  repeat' (first | with_reducible assumption | with_reducible apply State.mapOutStall_keep | with_reducible apply State.postFault_keep | split | with_reducible refine Keep.of ?_)

theorem State.bayReadList_keep {κ : Prop} {σ τ : State} (hστ : Keep κ σ τ) (st : Nat) (addrs : List Nat) : Keep κ σ (τ.bayReadList st addrs).1 := by
  unfold State.bayReadList
  refine Keep.foldlFst hστ _ (fun u x hu => ?_)
  dsimp only
  split
  · exact hu
  · exact State.bayCorrected_keep hu _ _
  · exact State.bayUncorrectable_keep hu _

theorem State.bayReadRange_keep {κ : Prop} {σ τ : State} (hστ : Keep κ σ τ) (st : Nat) (addr : Nat) (n : Nat) :
    Keep κ σ (State.bayReadRange τ st addr n).1 := by
  unfold State.bayReadRange
  repeat' (first | with_reducible assumption | with_reducible apply State.bayReadList_keep)

/-! ### Operands -/

theorem State.tally_keep {κ : Prop} {σ τ : State} (hστ : Keep κ σ τ) (st : Nat) (c : Nat) (f : Ctx → Ctx) :
    Keep κ σ (State.tally τ st c f) := by
  unfold State.tally
  repeat' (first | with_reducible assumption | with_reducible apply State.modCtx_keep | with_reducible apply State.modStall_keep | intro _ _ _ | intro _ _ | intro _ | with_reducible refine Keep.of ?_)

theorem State.retire_keep {κ : Prop} {σ τ : State} (hστ : Keep κ σ τ) (st : Nat) (c : Nat) (f : Ctx → Ctx) :
    Keep κ σ (State.retire τ st c f) := by
  unfold State.retire
  repeat' (first | with_reducible assumption | with_reducible apply State.tally_keep | intro _ _ _ | intro _ _ | intro _)

theorem State.issue_keep {κ : Prop} {σ τ : State} (hστ : Keep κ σ τ) (st c op : Nat) (gn : Bool) (gp : Nat) (enc : Bool) (rs : List PendReg) {body : State}
    (hb : Keep κ σ body) : Keep κ σ (τ.issue st c op gn gp enc rs body) := by
  unfold State.issue
  repeat' (first | with_reducible assumption | with_reducible apply State.badProgram_keep | with_reducible apply State.retire_keep | split)

/-! ### Flags -/

theorem State.raiseFlags_keep {κ : Prop} {σ τ : State} (hστ : Keep κ σ τ) (st : Nat) (c : Nat) (sat : Bool) (nonfin : Bool) :
    Keep κ σ (State.raiseFlags τ st c sat nonfin) := by
  unfold State.raiseFlags
  repeat' (first | with_reducible assumption | with_reducible apply State.modLaunch_keep | with_reducible apply State.modCtx_keep | intro _ _ _ | intro _ _ | intro _ | with_reducible refine Keep.of ?_)

/-! ### Access -/

theorem State.memIssue_keep {κ : Prop} {σ τ : State} (hστ : Keep κ σ τ) (st : Nat) (c : Nat) (op : Nat) (use : Use) (kind : MemKind) (addr : Nat) (n : Nat) (fn : Ctx → Ctx) :
    Keep κ σ (State.memIssue τ st c op use kind addr n fn) := by
  unfold State.memIssue
  repeat' (first | with_reducible assumption | with_reducible apply State.retire_keep | with_reducible apply State.seqDenied_keep | with_reducible apply State.tablePoison_keep | with_reducible apply State.setUnitPwr_keep | with_reducible apply State.cacheXlat_keep | with_reducible apply State.tickSerial_keep | exact fun _ h => h | split | with_reducible refine Keep.of ?_)

theorem State.covered_keep {κ : Prop} {σ τ : State} (hστ : Keep κ σ τ) (st c op : Nat) (k : Client) (rs : List Rows) {body : State}
    (hb : Keep κ σ body) : Keep κ σ (τ.covered st c op k rs body) := by
  unfold State.covered
  repeat' (first | with_reducible assumption | with_reducible apply State.badProgram_keep | split)

theorem State.upsetOnly_keep {κ : Prop} {σ τ : State} (hστ : Keep κ σ τ) (st : Nat) (ups : List (Nat × BitVec 39)) (addrs : List Nat) :
    Keep κ σ (State.upsetOnly τ st ups addrs) := by
  unfold State.upsetOnly
  repeat' (first | with_reducible assumption | with_reducible apply State.upset_keep | intro _ _ _ | intro _ _ | intro _)

theorem State.bayLoad_keep {κ : Prop} {σ τ : State} (hστ : Keep κ σ τ) (st : Nat) (c : Nat) (code : Nat) (ukind : Nat) (uindex : Nat) (ups : List (Nat × BitVec 39)) (addrs : List Nat) (k : State → List W32 → State) (hk : ∀ (x0 : State) (x1 : List W32), Keep κ σ x0 → Keep κ σ (k x0 x1)) :
    Keep κ σ (State.bayLoad τ st c code ukind uindex ups addrs k) := by
  unfold State.bayLoad
  repeat' (first | with_reducible assumption | apply hk | with_reducible apply State.upsetOnly_keep | with_reducible apply State.bayReadList_keep | with_reducible apply State.poisonFault_keep | split | with_reducible refine Keep.of ?_)

end Sys2Proof.Machine
end

