-- ==== Sys2Proof/Laws/KeepPrograms.lean ====
section
/-! SUPPORT. `Keep` of stall programs, transfers, the array and the vector unit: one lemma for each operation and meaning. -/

namespace Sys2Proof.Machine

set_option Elab.async false
set_option linter.all false

/-! ### BayTensor -/

theorem State.readSpans_keep {κ : Prop} {σ τ : State} (hστ : Keep κ σ τ) (st : Nat) (spans : List (Nat × Nat)) :
    Keep κ σ (State.readSpans τ st spans).1 := by
  unfold State.readSpans
  repeat' (first | with_reducible assumption | with_reducible apply State.bayReadRange_keep | with_reducible apply Keep.foldl | with_reducible apply Keep.foldlFst | intro _ _ _ | intro _ _ | intro _ | dsimp only)

theorem State.writePlain_keep {κ : Prop} {σ τ : State} (hστ : Keep κ σ τ) (st : Nat) (d : TDesc) (codes : List Nat) :
    Keep κ σ (State.writePlain τ st d codes) := by
  unfold State.writePlain
  repeat' (first | with_reducible assumption | with_reducible apply State.bayWrites_keep | with_reducible apply Keep.foldl | intro _ _ _ | intro _ _ | intro _)

theorem State.writeWide_keep {κ : Prop} {σ τ : State} (hστ : Keep κ σ τ) (st : Nat) (d : TDesc) (ws : List Wide) :
    Keep κ σ (State.writeWide τ st d ws) := by
  unfold State.writeWide
  repeat' (first | with_reducible assumption | with_reducible apply State.bayWrites_keep | intro _ _ _ | intro _ _ | intro _)

theorem State.writeFb_keep {κ : Prop} {σ τ : State} (hστ : Keep κ σ τ) (st : Nat) (d : TDesc) (p : FbParts) :
    Keep κ σ (State.writeFb τ st d p) := by
  unfold State.writeFb
  repeat' (first | with_reducible assumption | with_reducible apply State.bayWrites_keep | intro _ _ _ | intro _ _ | intro _)

/-! ### Pairs -/

theorem State.unitFault_keep {κ : Prop} {σ τ : State} (hστ : Keep κ σ τ) (r : Reader) (src : Nat) (st : Status) (ukind : Nat) (uindex : Nat) (syn : Nat) (addr : Nat) :
    Keep κ σ (State.unitFault τ r src st ukind uindex syn addr) := by
  unfold State.unitFault
  repeat' (first | with_reducible assumption | with_reducible apply State.contextFaultF_keep)

theorem State.rdFault_keep {κ : Prop} {σ τ : State} (hστ : Keep κ σ τ) (r : Reader) (st : Status) (syn : Nat) (addr : Nat) :
    Keep κ σ (State.rdFault τ r st syn addr) := by
  unfold State.rdFault
  repeat' (first | with_reducible assumption | with_reducible apply State.unitFault_keep)

theorem State.rdBad_keep {κ : Prop} {σ τ : State} (hστ : Keep κ σ τ) (r : Reader) (st : Status) (addr : Nat) :
    Keep κ σ (State.rdBad τ r st addr) := by
  unfold State.rdBad
  repeat' (first | with_reducible assumption | with_reducible apply State.rdFault_keep | with_reducible apply State.unitFault_keep | with_reducible apply State.badProgram_keep | split)

theorem State.rdDenied_keep {κ : Prop} {σ τ : State} (hστ : Keep κ σ τ) (r : Reader) (p : Nat) (addr : Nat) (m : Bool) :
    Keep κ σ (State.rdDenied τ r p addr m) := by
  unfold State.rdDenied
  repeat' (first | with_reducible assumption | with_reducible apply State.rdBad_keep | with_reducible apply State.malformed_keep | split)

theorem State.rdPoison_keep {κ : Prop} {σ τ : State} (hστ : Keep κ σ τ) (r : Reader) (addr : Nat) :
    Keep κ σ (State.rdPoison τ r addr) := by
  unfold State.rdPoison
  repeat' (first | with_reducible assumption | with_reducible apply State.rdFault_keep)

theorem State.rdStop_keep {κ : Prop} {σ τ : State} (hστ : Keep κ σ τ) (r : Reader) (p : Nat) (z : Rd) : Keep κ σ (τ.rdStop r p z) := by
  cases z with
  | ok _ => exact hστ
  | denied a m => exact State.rdDenied_keep hστ _ _ _ _
  | poison a => exact State.rdPoison_keep hστ _ _
  | fatal => exact State.tablePoison_keep hστ _

/-! ### Scalar -/

theorem execBin_keep {κ : Prop} {σ τ : State} (hστ : Keep κ σ τ) (op : Nat) (fn : W64 → W64 → W64) (st : StallId) (cx : CtxId) (f : FmtA) :
    KeepRes κ σ (execBin op fn st cx f τ) := by
  unfold execBin
  repeat' (first | with_reducible assumption | with_reducible apply State.issue_keep | with_reducible apply State.retire_keep | with_reducible apply KeepRes.next | intro _ _ _ | intro _ _ | intro _)

theorem execNop_keep {κ : Prop} {σ τ : State} (hστ : Keep κ σ τ) (st : StallId) (cx : CtxId) (f : FmtA) :
    KeepRes κ σ (execNop st cx f τ) := by
  unfold execNop
  repeat' (first | with_reducible assumption | with_reducible apply State.issue_keep | with_reducible apply State.retire_keep | with_reducible apply KeepRes.next | exact fun _ h => h)

theorem execAdd_keep {κ : Prop} {σ τ : State} (hστ : Keep κ σ τ) (st : StallId) (cx : CtxId) (f : FmtA) :
    KeepRes κ σ (execAdd st cx f τ) := by
  unfold execAdd
  repeat' (first | with_reducible assumption | with_reducible apply execBin_keep | with_reducible apply KeepRes.next | intro _ _ _ | intro _ _ | intro _)

theorem execSub_keep {κ : Prop} {σ τ : State} (hστ : Keep κ σ τ) (st : StallId) (cx : CtxId) (f : FmtA) :
    KeepRes κ σ (execSub st cx f τ) := by
  unfold execSub
  repeat' (first | with_reducible assumption | with_reducible apply execBin_keep | with_reducible apply KeepRes.next | intro _ _ _ | intro _ _ | intro _)

theorem execMul_keep {κ : Prop} {σ τ : State} (hστ : Keep κ σ τ) (st : StallId) (cx : CtxId) (f : FmtA) :
    KeepRes κ σ (execMul st cx f τ) := by
  unfold execMul
  repeat' (first | with_reducible assumption | with_reducible apply execBin_keep | with_reducible apply KeepRes.next | intro _ _ _ | intro _ _ | intro _)

theorem execMulh_keep {κ : Prop} {σ τ : State} (hστ : Keep κ σ τ) (st : StallId) (cx : CtxId) (f : FmtA) :
    KeepRes κ σ (execMulh st cx f τ) := by
  unfold execMulh
  repeat' (first | with_reducible assumption | with_reducible apply execBin_keep | with_reducible apply KeepRes.next | intro _ _ _ | intro _ _ | intro _)

theorem execAnd_keep {κ : Prop} {σ τ : State} (hστ : Keep κ σ τ) (st : StallId) (cx : CtxId) (f : FmtA) :
    KeepRes κ σ (execAnd st cx f τ) := by
  unfold execAnd
  repeat' (first | with_reducible assumption | with_reducible apply execBin_keep | with_reducible apply KeepRes.next | intro _ _ _ | intro _ _ | intro _)

theorem execOr_keep {κ : Prop} {σ τ : State} (hστ : Keep κ σ τ) (st : StallId) (cx : CtxId) (f : FmtA) :
    KeepRes κ σ (execOr st cx f τ) := by
  unfold execOr
  repeat' (first | with_reducible assumption | with_reducible apply execBin_keep | with_reducible apply KeepRes.next | intro _ _ _ | intro _ _ | intro _)

theorem execXor_keep {κ : Prop} {σ τ : State} (hστ : Keep κ σ τ) (st : StallId) (cx : CtxId) (f : FmtA) :
    KeepRes κ σ (execXor st cx f τ) := by
  unfold execXor
  repeat' (first | with_reducible assumption | with_reducible apply execBin_keep | with_reducible apply KeepRes.next | intro _ _ _ | intro _ _ | intro _)

theorem execShift_keep {κ : Prop} {σ τ : State} (hστ : Keep κ σ τ) (op : Nat) (fn : W64 → Nat → W64) (st : StallId) (cx : CtxId) (f : FmtA) :
    KeepRes κ σ (execShift op fn st cx f τ) := by
  unfold execShift
  repeat' (first | with_reducible assumption | with_reducible apply State.issue_keep | with_reducible apply State.retire_keep | with_reducible apply KeepRes.next | intro _ _ _ | intro _ _ | intro _)

theorem execShl_keep {κ : Prop} {σ τ : State} (hστ : Keep κ σ τ) (st : StallId) (cx : CtxId) (f : FmtA) :
    KeepRes κ σ (execShl st cx f τ) := by
  unfold execShl
  repeat' (first | with_reducible assumption | with_reducible apply execShift_keep | with_reducible apply KeepRes.next | intro _ _ _ | intro _ _ | intro _)

theorem execShr_keep {κ : Prop} {σ τ : State} (hστ : Keep κ σ τ) (st : StallId) (cx : CtxId) (f : FmtA) :
    KeepRes κ σ (execShr st cx f τ) := by
  unfold execShr
  repeat' (first | with_reducible assumption | with_reducible apply execShift_keep | with_reducible apply KeepRes.next | intro _ _ _ | intro _ _ | intro _)

theorem execSar_keep {κ : Prop} {σ τ : State} (hστ : Keep κ σ τ) (st : StallId) (cx : CtxId) (f : FmtA) :
    KeepRes κ σ (execSar st cx f τ) := by
  unfold execSar
  repeat' (first | with_reducible assumption | with_reducible apply execShift_keep | with_reducible apply KeepRes.next | intro _ _ _ | intro _ _ | intro _)

theorem execAddi_keep {κ : Prop} {σ τ : State} (hστ : Keep κ σ τ) (st : StallId) (cx : CtxId) (f : FmtA) :
    KeepRes κ σ (execAddi st cx f τ) := by
  unfold execAddi
  repeat' (first | with_reducible assumption | with_reducible apply State.issue_keep | with_reducible apply State.retire_keep | with_reducible apply KeepRes.next | intro _ _ _ | intro _ _ | intro _)

theorem execMovi_keep {κ : Prop} {σ τ : State} (hστ : Keep κ σ τ) (st : StallId) (cx : CtxId) (f : FmtB) :
    KeepRes κ σ (execMovi st cx f τ) := by
  unfold execMovi
  repeat' (first | with_reducible assumption | with_reducible apply State.issue_keep | with_reducible apply State.retire_keep | with_reducible apply KeepRes.next | intro _ _ _ | intro _ _ | intro _)

theorem execMovh_keep {κ : Prop} {σ τ : State} (hστ : Keep κ σ τ) (st : StallId) (cx : CtxId) (f : FmtB) :
    KeepRes κ σ (execMovh st cx f τ) := by
  unfold execMovh
  repeat' (first | with_reducible assumption | with_reducible apply State.issue_keep | with_reducible apply State.retire_keep | with_reducible apply KeepRes.next | intro _ _ _ | intro _ _ | intro _)

theorem execCmp_keep {κ : Prop} {σ τ : State} (hστ : Keep κ σ τ) (st : StallId) (cx : CtxId) (f : FmtA) :
    KeepRes κ σ (execCmp st cx f τ) := by
  unfold execCmp
  repeat' (first | with_reducible assumption | with_reducible apply State.issue_keep | with_reducible apply State.retire_keep | with_reducible apply State.badProgram_keep | with_reducible apply KeepRes.next | split | intro _ _ _ | intro _ _ | intro _ | with_reducible refine Keep.of ?_)

theorem execCmpi_keep {κ : Prop} {σ τ : State} (hστ : Keep κ σ τ) (st : StallId) (cx : CtxId) (f : FmtA) :
    KeepRes κ σ (execCmpi st cx f τ) := by
  unfold execCmpi
  repeat' (first | with_reducible assumption | with_reducible apply State.issue_keep | with_reducible apply State.retire_keep | with_reducible apply State.badProgram_keep | with_reducible apply KeepRes.next | split | intro _ _ _ | intro _ _ | intro _ | with_reducible refine Keep.of ?_)

theorem execPlog_keep {κ : Prop} {σ τ : State} (hστ : Keep κ σ τ) (st : StallId) (cx : CtxId) (f : FmtA) :
    KeepRes κ σ (execPlog st cx f τ) := by
  unfold execPlog
  repeat' (first | with_reducible assumption | with_reducible apply State.issue_keep | with_reducible apply State.retire_keep | with_reducible apply KeepRes.next | intro _ _ _ | intro _ _ | intro _)

theorem execMova_keep {κ : Prop} {σ τ : State} (hστ : Keep κ σ τ) (st : StallId) (cx : CtxId) (f : FmtA) :
    KeepRes κ σ (execMova st cx f τ) := by
  unfold execMova
  repeat' (first | with_reducible assumption | with_reducible apply State.issue_keep | with_reducible apply State.retire_keep | with_reducible apply KeepRes.next | intro _ _ _ | intro _ _ | intro _)

theorem execMovg_keep {κ : Prop} {σ τ : State} (hστ : Keep κ σ τ) (st : StallId) (cx : CtxId) (f : FmtA) :
    KeepRes κ σ (execMovg st cx f τ) := by
  unfold execMovg
  repeat' (first | with_reducible assumption | with_reducible apply State.issue_keep | with_reducible apply State.retire_keep | with_reducible apply KeepRes.next | intro _ _ _ | intro _ _ | intro _)

theorem execFlags_keep {κ : Prop} {σ τ : State} (hστ : Keep κ σ τ) (st : StallId) (cx : CtxId) (f : FmtA) :
    KeepRes κ σ (execFlags st cx f τ) := by
  unfold execFlags
  repeat' (first | with_reducible assumption | with_reducible apply State.issue_keep | with_reducible apply State.retire_keep | with_reducible apply KeepRes.next | intro _ _ _ | intro _ _ | intro _)

theorem execTime_keep {κ : Prop} {σ τ : State} (hστ : Keep κ σ τ) (st : StallId) (cx : CtxId) (f : FmtA) :
    KeepRes κ σ (execTime st cx f τ) := by
  unfold execTime
  repeat' (first | with_reducible assumption | with_reducible apply State.issue_keep | with_reducible apply State.retire_keep | with_reducible apply State.afterNow_keep | with_reducible apply KeepRes.next | intro _ _ _ | intro _ _ | intro _)

theorem execCyc_keep {κ : Prop} {σ τ : State} (hστ : Keep κ σ τ) (st : StallId) (cx : CtxId) (f : FmtA) :
    KeepRes κ σ (execCyc st cx f τ) := by
  unfold execCyc
  repeat' (first | with_reducible assumption | with_reducible apply State.issue_keep | with_reducible apply State.retire_keep | with_reducible apply State.afterAny_keep | with_reducible apply KeepRes.next | intro _ _ _ | intro _ _ | intro _ | with_reducible refine Keep.of ?_)

theorem execMark_keep {κ : Prop} {σ τ : State} (hστ : Keep κ σ τ) (st : StallId) (cx : CtxId) (f : FmtA) :
    KeepRes κ σ (execMark st cx f τ) := by
  unfold execMark
  repeat' (first | with_reducible assumption | with_reducible apply State.issue_keep | with_reducible apply State.retire_keep | with_reducible apply State.postDbk_keep | with_reducible apply KeepRes.next | exact fun _ h => h | split | with_reducible refine Keep.of ?_)

/-! ### TensorOps -/

theorem State.postVec_keep {κ : Prop} {σ τ : State} (hστ : Keep κ σ τ) (st : Nat) (c : Nat) (op : Nat) (v : VecOp) (fn : Ctx → Ctx) :
    Keep κ σ (State.postVec τ st c op v fn) := by
  unfold State.postVec
  repeat' (first | with_reducible assumption | with_reducible apply State.retire_keep | with_reducible apply State.badProgram_keep | with_reducible apply State.tickSerial_keep | split | intro _ _ _ | intro _ _ | intro _ | with_reducible refine Keep.of ?_)

theorem execVsca_keep {κ : Prop} {σ τ : State} (hστ : Keep κ σ τ) (st : StallId) (cx : CtxId) (f : FmtA) :
    KeepRes κ σ (execVsca st cx f τ) := by
  unfold execVsca
  repeat' (first | with_reducible assumption | with_reducible apply State.postVec_keep | with_reducible apply State.issue_keep | with_reducible apply State.badProgram_keep | with_reducible apply KeepRes.next | split | intro _ _ _ | intro _ _ | intro _ | with_reducible refine Keep.of ?_)

theorem execVscf_keep {κ : Prop} {σ τ : State} (hστ : Keep κ σ τ) (st : StallId) (cx : CtxId) (f : FmtA) :
    KeepRes κ σ (execVscf st cx f τ) := by
  unfold execVscf
  repeat' (first | with_reducible assumption | with_reducible apply State.postVec_keep | with_reducible apply State.issue_keep | with_reducible apply State.badProgram_keep | with_reducible apply KeepRes.next | split | intro _ _ _ | intro _ _ | intro _ | with_reducible refine Keep.of ?_)

theorem execVwadd_keep {κ : Prop} {σ τ : State} (hστ : Keep κ σ τ) (st : StallId) (cx : CtxId) (f : FmtA) :
    KeepRes κ σ (execVwadd st cx f τ) := by
  unfold execVwadd
  repeat' (first | with_reducible assumption | with_reducible apply State.postVec_keep | with_reducible apply State.issue_keep | with_reducible apply State.badProgram_keep | with_reducible apply KeepRes.next | exact fun _ h => h | split | with_reducible refine Keep.of ?_)

theorem execVwcvt_keep {κ : Prop} {σ τ : State} (hστ : Keep κ σ τ) (st : StallId) (cx : CtxId) (f : FmtA) :
    KeepRes κ σ (execVwcvt st cx f τ) := by
  unfold execVwcvt
  repeat' (first | with_reducible assumption | with_reducible apply State.postVec_keep | with_reducible apply State.issue_keep | with_reducible apply State.badProgram_keep | with_reducible apply KeepRes.next | exact fun _ h => h | split | with_reducible refine Keep.of ?_)

theorem execVwanc_keep {κ : Prop} {σ τ : State} (hστ : Keep κ σ τ) (st : StallId) (cx : CtxId) (f : FmtA) :
    KeepRes κ σ (execVwanc st cx f τ) := by
  unfold execVwanc
  repeat' (first | with_reducible assumption | with_reducible apply State.postVec_keep | with_reducible apply State.issue_keep | with_reducible apply State.badProgram_keep | with_reducible apply KeepRes.next | exact fun _ h => h | split | with_reducible refine Keep.of ?_)

theorem execVcvtt_keep {κ : Prop} {σ τ : State} (hστ : Keep κ σ τ) (st : StallId) (cx : CtxId) (f : FmtA) :
    KeepRes κ σ (execVcvtt st cx f τ) := by
  unfold execVcvtt
  repeat' (first | with_reducible assumption | with_reducible apply State.postVec_keep | with_reducible apply State.issue_keep | with_reducible apply State.badProgram_keep | with_reducible apply KeepRes.next | exact fun _ h => h | split | with_reducible refine Keep.of ?_)

theorem State.vecLoad_keep {κ : Prop} {σ τ : State} (hστ : Keep κ σ τ) (st : Nat) (c : Nat) (ups : List (Nat × BitVec 39)) (d : TDesc) (k : State → List (List W32) → State) (hk : ∀ (x0 : State) (x1 : List (List W32)), Keep κ σ x0 → Keep κ σ (k x0 x1)) :
    Keep κ σ (State.vecLoad τ st c ups d k) := by
  unfold State.vecLoad
  repeat' (first | with_reducible assumption | apply hk | with_reducible apply State.readSpans_keep | with_reducible apply State.upsetOnly_keep | with_reducible apply State.poisonFault_keep | split | intro _ _ _ | intro _ _ | intro _ | with_reducible refine Keep.of ?_)

theorem State.vecSat_keep {κ : Prop} {σ τ : State} (hστ : Keep κ σ τ) (st : Nat) (c : Nat) (op : VecOp) (col : Option Nat) (k : State → State) (hk : ∀ (x0 : State), Keep κ σ x0 → Keep κ σ (k x0)) :
    Keep κ σ (State.vecSat τ st c op col k) := by
  unfold State.vecSat
  repeat' (first | with_reducible assumption | apply hk | with_reducible apply State.raiseFlags_keep | with_reducible apply State.contextFault_keep | split | with_reducible refine Keep.of ?_)

theorem State.vecDone_keep {κ : Prop} {σ τ : State} (hστ : Keep κ σ τ) (st : Nat) (c : Nat) (n : Nat) (op : VecOp) (reg : Option W64) :
    Keep κ σ (State.vecDone τ st c n op reg) := by
  unfold State.vecDone
  repeat' (first | with_reducible assumption | with_reducible apply State.modCtx_keep | with_reducible apply State.modStall_keep | split | intro _ _ _ | intro _ _ | intro _ | with_reducible refine Keep.of ?_)

theorem State.vecFinish_keep {κ : Prop} {σ τ : State} (hστ : Keep κ σ τ) (st : Nat) (c : Nat) (op : VecOp) (ups : List (Nat × BitVec 39)) :
    Keep κ σ (State.vecFinish τ st c op ups) := by
  unfold State.vecFinish
  repeat' (first | with_reducible assumption | with_reducible apply State.vecDone_keep | with_reducible apply State.vecSat_keep | with_reducible apply State.vecLoad_keep | with_reducible apply State.writeFb_keep | with_reducible apply State.writeWide_keep | with_reducible apply State.writePlain_keep | with_reducible apply State.raiseFlags_keep | with_reducible apply State.modSplit_keep | split | intro _ _ _ | intro _ _ | intro _ | with_reducible refine Keep.of ?_)

theorem execTensorOperationComplete_keep {κ : Prop} {σ τ : State} (hστ : Keep κ σ τ) (st : StallId) (cx : CtxId) (ups : List (Nat × BitVec 39)) :
    KeepRes κ σ (execTensorOperationComplete st cx ups τ) := by
  unfold execTensorOperationComplete
  repeat' (first | with_reducible assumption | with_reducible apply State.vecFinish_keep | with_reducible apply State.badProgram_keep | with_reducible apply State.contextFault_keep | with_reducible apply KeepRes.next | split | with_reducible refine Keep.of ?_)

/-! ### Tokens -/

theorem State.grant_keep {κ : Prop} {σ τ : State} (hστ : Keep κ σ τ) (q : TokReq) :
    Keep κ σ (State.grant τ q) := by
  unfold State.grant
  repeat' (first | with_reducible assumption | with_reducible refine Keep.of ?_)

theorem execTkacq_keep {κ : Prop} {σ τ : State} (hστ : Keep κ σ τ) (st : StallId) (cx : CtxId) (f : FmtA) :
    KeepRes κ σ (execTkacq st cx f τ) := by
  unfold execTkacq
  repeat' (first | with_reducible assumption | with_reducible apply State.grant_keep | with_reducible apply State.issue_keep | with_reducible apply State.retire_keep | with_reducible apply State.badProgram_keep | with_reducible apply State.modCtx_keep | with_reducible apply KeepRes.next | exact fun _ h => h | split | intro _ _ _ | intro _ _ | intro _ | with_reducible refine Keep.of ?_)

theorem execTktry_keep {κ : Prop} {σ τ : State} (hστ : Keep κ σ τ) (st : StallId) (cx : CtxId) (f : FmtA) :
    KeepRes κ σ (execTktry st cx f τ) := by
  unfold execTktry
  repeat' (first | with_reducible assumption | with_reducible apply State.grant_keep | with_reducible apply State.issue_keep | with_reducible apply State.retire_keep | with_reducible apply State.badProgram_keep | with_reducible apply KeepRes.next | split | intro _ _ _ | intro _ _ | intro _ | with_reducible refine Keep.of ?_)

theorem State.defer_keep {κ : Prop} {σ τ : State} (hστ : Keep κ σ τ) (st : Nat) (c : Nat) (k : Nat) (tgt : Option Client) :
    Keep κ σ (State.defer τ st c k tgt) := by
  unfold State.defer
  repeat' (first | with_reducible assumption | with_reducible apply State.tickSerial_keep | split | intro _ _ _ | intro _ _ | intro _ | with_reducible refine Keep.of ?_)

theorem execTkpass_keep {κ : Prop} {σ τ : State} (hστ : Keep κ σ τ) (st : StallId) (cx : CtxId) (f : FmtA) :
    KeepRes κ σ (execTkpass st cx f τ) := by
  unfold execTkpass
  repeat' (first | with_reducible assumption | with_reducible apply State.defer_keep | with_reducible apply State.issue_keep | with_reducible apply State.retire_keep | with_reducible apply State.badProgram_keep | with_reducible apply KeepRes.next | exact fun _ h => h | split | with_reducible refine Keep.of ?_)

theorem execTkrel_keep {κ : Prop} {σ τ : State} (hστ : Keep κ σ τ) (st : StallId) (cx : CtxId) (f : FmtA) :
    KeepRes κ σ (execTkrel st cx f τ) := by
  unfold execTkrel
  repeat' (first | with_reducible assumption | with_reducible apply State.defer_keep | with_reducible apply State.issue_keep | with_reducible apply State.retire_keep | with_reducible apply State.badProgram_keep | with_reducible apply KeepRes.next | exact fun _ h => h | split | with_reducible refine Keep.of ?_)

theorem execTkwait_keep {κ : Prop} {σ τ : State} (hστ : Keep κ σ τ) (st : StallId) (cx : CtxId) (f : FmtA) :
    KeepRes κ σ (execTkwait st cx f τ) := by
  unfold execTkwait
  repeat' (first | with_reducible assumption | with_reducible apply State.issue_keep | with_reducible apply State.retire_keep | with_reducible apply State.modCtx_keep | with_reducible apply KeepRes.next | exact fun _ h => h | split | intro _ _ _ | intro _ _ | intro _ | with_reducible refine Keep.of ?_)

theorem execWaitu_keep {κ : Prop} {σ τ : State} (hστ : Keep κ σ τ) (st : StallId) (cx : CtxId) (f : FmtA) :
    KeepRes κ σ (execWaitu st cx f τ) := by
  unfold execWaitu
  repeat' (first | with_reducible assumption | with_reducible apply State.issue_keep | with_reducible apply State.retire_keep | with_reducible apply State.badProgram_keep | with_reducible apply State.modCtx_keep | with_reducible apply KeepRes.next | exact fun _ h => h | split | intro _ _ _ | intro _ _ | intro _ | with_reducible refine Keep.of ?_)

theorem execMfen_keep {κ : Prop} {σ τ : State} (hστ : Keep κ σ τ) (st : StallId) (cx : CtxId) (f : FmtA) :
    KeepRes κ σ (execMfen st cx f τ) := by
  unfold execMfen
  repeat' (first | with_reducible assumption | with_reducible apply State.issue_keep | with_reducible apply State.retire_keep | with_reducible apply State.tickSerial_keep | with_reducible apply State.modCtx_keep | with_reducible apply KeepRes.next | exact fun _ h => h | split | intro _ _ _ | intro _ _ | intro _ | with_reducible refine Keep.of ?_)

/-! ### Vector -/

theorem State.retireV_keep {κ : Prop} {σ τ : State} (hστ : Keep κ σ τ) (st : Nat) (c : Nat) (n : Nat) (f : Ctx → Ctx) :
    Keep κ σ (State.retireV τ st c n f) := by
  unfold State.retireV
  repeat' (first | with_reducible assumption | with_reducible apply State.retire_keep | with_reducible apply State.modStall_keep | intro _ _ _ | intro _ _ | intro _ | with_reducible refine Keep.of ?_)

theorem execVld_keep {κ : Prop} {σ τ : State} (hστ : Keep κ σ τ) (st : StallId) (cx : CtxId) (f : FmtA) (ups : List (Nat × BitVec 39)) :
    KeepRes κ σ (execVld st cx f ups τ) := by
  unfold execVld
  repeat' (first | with_reducible assumption | with_reducible apply State.retireV_keep | with_reducible apply State.bayLoad_keep | with_reducible apply State.covered_keep | with_reducible apply State.issue_keep | with_reducible apply State.badProgram_keep | with_reducible apply KeepRes.next | split | intro _ _ _ | intro _ _ | intro _ | with_reducible refine Keep.of ?_)

theorem execVst_keep {κ : Prop} {σ τ : State} (hστ : Keep κ σ τ) (st : StallId) (cx : CtxId) (f : FmtA) :
    KeepRes κ σ (execVst st cx f τ) := by
  unfold execVst
  repeat' (first | with_reducible assumption | with_reducible apply State.retireV_keep | with_reducible apply State.covered_keep | with_reducible apply State.issue_keep | with_reducible apply State.bayWrites_keep | with_reducible apply State.badProgram_keep | with_reducible apply KeepRes.next | exact fun _ h => h | split | with_reducible refine Keep.of ?_)

theorem execVldc_keep {κ : Prop} {σ τ : State} (hστ : Keep κ σ τ) (st : StallId) (cx : CtxId) (f : FmtA) (ups : List (Nat × BitVec 39)) :
    KeepRes κ σ (execVldc st cx f ups τ) := by
  unfold execVldc
  repeat' (first | with_reducible assumption | with_reducible apply State.retireV_keep | with_reducible apply State.bayLoad_keep | with_reducible apply State.covered_keep | with_reducible apply State.issue_keep | with_reducible apply State.badProgram_keep | with_reducible apply KeepRes.next | split | intro _ _ _ | intro _ _ | intro _ | with_reducible refine Keep.of ?_)

theorem execVstc_keep {κ : Prop} {σ τ : State} (hστ : Keep κ σ τ) (st : StallId) (cx : CtxId) (f : FmtA) :
    KeepRes κ σ (execVstc st cx f τ) := by
  unfold execVstc
  repeat' (first | with_reducible assumption | with_reducible apply State.retireV_keep | with_reducible apply State.covered_keep | with_reducible apply State.issue_keep | with_reducible apply State.bayWrite_keep | with_reducible apply State.badProgram_keep | with_reducible apply Keep.foldl | with_reducible apply KeepRes.next | exact fun _ h => h | split | intro _ _ _ | intro _ _ | intro _ | with_reducible refine Keep.of ?_)

theorem execVbc_keep {κ : Prop} {σ τ : State} (hστ : Keep κ σ τ) (st : StallId) (cx : CtxId) (f : FmtA) :
    KeepRes κ σ (execVbc st cx f τ) := by
  unfold execVbc
  repeat' (first | with_reducible assumption | with_reducible apply State.retireV_keep | with_reducible apply State.issue_keep | with_reducible apply KeepRes.next | intro _ _ _ | intro _ _ | intro _)

theorem execVlane_keep {κ : Prop} {σ τ : State} (hστ : Keep κ σ τ) (st : StallId) (cx : CtxId) (f : FmtA) :
    KeepRes κ σ (execVlane st cx f τ) := by
  unfold execVlane
  repeat' (first | with_reducible assumption | with_reducible apply State.retireV_keep | with_reducible apply State.issue_keep | with_reducible apply KeepRes.next | intro _ _ _ | intro _ _ | intro _)

theorem execLane2_keep {κ : Prop} {σ τ : State} (hστ : Keep κ σ τ) (op : Nat) (fp : Elem → Nat → Nat → Nat) (int : W32 → W32 → W32) (st : StallId) (cx : CtxId) (f : FmtA) :
    KeepRes κ σ (execLane2 op fp int st cx f τ) := by
  unfold execLane2
  repeat' (first | with_reducible assumption | with_reducible apply State.retireV_keep | with_reducible apply State.issue_keep | with_reducible apply State.badProgram_keep | with_reducible apply KeepRes.next | split | intro _ _ _ | intro _ _ | intro _)

theorem execVadd_keep {κ : Prop} {σ τ : State} (hστ : Keep κ σ τ) (st : StallId) (cx : CtxId) (f : FmtA) :
    KeepRes κ σ (execVadd st cx f τ) := by
  unfold execVadd
  repeat' (first | with_reducible assumption | with_reducible apply execLane2_keep | with_reducible apply KeepRes.next | intro _ _ _ | intro _ _ | intro _)

theorem execVsub_keep {κ : Prop} {σ τ : State} (hστ : Keep κ σ τ) (st : StallId) (cx : CtxId) (f : FmtA) :
    KeepRes κ σ (execVsub st cx f τ) := by
  unfold execVsub
  repeat' (first | with_reducible assumption | with_reducible apply execLane2_keep | with_reducible apply KeepRes.next | intro _ _ _ | intro _ _ | intro _)

theorem execVmul_keep {κ : Prop} {σ τ : State} (hστ : Keep κ σ τ) (st : StallId) (cx : CtxId) (f : FmtA) :
    KeepRes κ σ (execVmul st cx f τ) := by
  unfold execVmul
  repeat' (first | with_reducible assumption | with_reducible apply execLane2_keep | with_reducible apply KeepRes.next | intro _ _ _ | intro _ _ | intro _)

theorem execVmax_keep {κ : Prop} {σ τ : State} (hστ : Keep κ σ τ) (st : StallId) (cx : CtxId) (f : FmtA) :
    KeepRes κ σ (execVmax st cx f τ) := by
  unfold execVmax
  repeat' (first | with_reducible assumption | with_reducible apply execLane2_keep | with_reducible apply KeepRes.next | split | intro _ _ _ | intro _ _ | intro _)

theorem execVmin_keep {κ : Prop} {σ τ : State} (hστ : Keep κ σ τ) (st : StallId) (cx : CtxId) (f : FmtA) :
    KeepRes κ σ (execVmin st cx f τ) := by
  unfold execVmin
  repeat' (first | with_reducible assumption | with_reducible apply execLane2_keep | with_reducible apply KeepRes.next | split | intro _ _ _ | intro _ _ | intro _)

theorem execVfma_keep {κ : Prop} {σ τ : State} (hστ : Keep κ σ τ) (st : StallId) (cx : CtxId) (f : FmtA) :
    KeepRes κ σ (execVfma st cx f τ) := by
  unfold execVfma
  repeat' (first | with_reducible assumption | with_reducible apply State.retireV_keep | with_reducible apply State.issue_keep | with_reducible apply State.badProgram_keep | with_reducible apply KeepRes.next | split | intro _ _ _ | intro _ _ | intro _)

theorem execVlog_keep {κ : Prop} {σ τ : State} (hστ : Keep κ σ τ) (st : StallId) (cx : CtxId) (f : FmtA) :
    KeepRes κ σ (execVlog st cx f τ) := by
  unfold execVlog
  repeat' (first | with_reducible assumption | with_reducible apply State.retireV_keep | with_reducible apply State.issue_keep | with_reducible apply KeepRes.next | intro _ _ _ | intro _ _ | intro _)

theorem execVsh_keep {κ : Prop} {σ τ : State} (hστ : Keep κ σ τ) (st : StallId) (cx : CtxId) (f : FmtA) :
    KeepRes κ σ (execVsh st cx f τ) := by
  unfold execVsh
  repeat' (first | with_reducible assumption | with_reducible apply State.retireV_keep | with_reducible apply State.issue_keep | with_reducible apply State.badProgram_keep | with_reducible apply KeepRes.next | split | intro _ _ _ | intro _ _ | intro _)

theorem execVcmp_keep {κ : Prop} {σ τ : State} (hστ : Keep κ σ τ) (st : StallId) (cx : CtxId) (f : FmtA) :
    KeepRes κ σ (execVcmp st cx f τ) := by
  unfold execVcmp
  repeat' (first | with_reducible assumption | with_reducible apply State.retireV_keep | with_reducible apply State.issue_keep | with_reducible apply State.badProgram_keep | with_reducible apply KeepRes.next | split | intro _ _ _ | intro _ _ | intro _)

theorem execVsel_keep {κ : Prop} {σ τ : State} (hστ : Keep κ σ τ) (st : StallId) (cx : CtxId) (f : FmtA) :
    KeepRes κ σ (execVsel st cx f τ) := by
  unfold execVsel
  repeat' (first | with_reducible assumption | with_reducible apply State.retireV_keep | with_reducible apply State.issue_keep | with_reducible apply KeepRes.next | intro _ _ _ | intro _ _ | intro _)

theorem execVcvt_keep {κ : Prop} {σ τ : State} (hστ : Keep κ σ τ) (st : StallId) (cx : CtxId) (f : FmtA) :
    KeepRes κ σ (execVcvt st cx f τ) := by
  unfold execVcvt
  repeat' (first | with_reducible assumption | with_reducible apply State.retireV_keep | with_reducible apply State.raiseFlags_keep | with_reducible apply State.issue_keep | with_reducible apply State.badProgram_keep | with_reducible apply KeepRes.next | split | intro _ _ _ | intro _ _ | intro _ | with_reducible refine Keep.of ?_)

theorem execVsfu_keep {κ : Prop} {σ τ : State} (hστ : Keep κ σ τ) (st : StallId) (cx : CtxId) (f : FmtA) :
    KeepRes κ σ (execVsfu st cx f τ) := by
  unfold execVsfu
  repeat' (first | with_reducible assumption | with_reducible apply State.retireV_keep | with_reducible apply State.issue_keep | with_reducible apply State.badProgram_keep | with_reducible apply KeepRes.next | split | intro _ _ _ | intro _ _ | intro _)

theorem execVred_keep {κ : Prop} {σ τ : State} (hστ : Keep κ σ τ) (st : StallId) (cx : CtxId) (f : FmtA) :
    KeepRes κ σ (execVred st cx f τ) := by
  unfold execVred
  repeat' (first | with_reducible assumption | with_reducible apply State.retireV_keep | with_reducible apply State.issue_keep | with_reducible apply KeepRes.next | intro _ _ _ | intro _ _ | intro _)

theorem execFlagLane_keep {κ : Prop} {σ τ : State} (hστ : Keep κ σ τ) (op : Nat) (n : Nat) (g : W32 → W32 → W32 × Bool) (st : StallId) (cx : CtxId) (f : FmtA) :
    KeepRes κ σ (execFlagLane op n g st cx f τ) := by
  unfold execFlagLane
  repeat' (first | with_reducible assumption | with_reducible apply State.retireV_keep | with_reducible apply State.raiseFlags_keep | with_reducible apply State.issue_keep | with_reducible apply KeepRes.next | intro _ _ _ | intro _ _ | intro _)

theorem execVrmax_keep {κ : Prop} {σ τ : State} (hστ : Keep κ σ τ) (st : StallId) (cx : CtxId) (f : FmtA) :
    KeepRes κ σ (execVrmax st cx f τ) := by
  unfold execVrmax
  repeat' (first | with_reducible assumption | with_reducible apply execFlagLane_keep | with_reducible apply KeepRes.next)

theorem execVexpd_keep {κ : Prop} {σ τ : State} (hστ : Keep κ σ τ) (st : StallId) (cx : CtxId) (f : FmtA) :
    KeepRes κ σ (execVexpd st cx f τ) := by
  unfold execVexpd
  repeat' (first | with_reducible assumption | with_reducible apply execFlagLane_keep | with_reducible apply KeepRes.next)

/-! ### XferData -/

theorem State.rdErr_keep {κ : Prop} {σ τ : State} (hστ : Keep κ σ τ) (r : Reader) (p : Nat) (z : XErr) : Keep κ σ (τ.rdErr r p z) := by
  cases z with
  | bad st addr => exact State.rdBad_keep hστ _ _ _
  | denied addr m => exact State.rdDenied_keep hστ _ _ _ _
  | poison addr => exact State.rdPoison_keep hστ _ _
  | fatal => exact State.tablePoison_keep hστ _
  | own st syn addr uk ui => exact State.unitFault_keep hστ _ _ _ _ _ _ _

theorem State.devStore_keep {κ : Prop} {σ τ : State} (hστ : Keep κ σ τ) (p : Nat) (csr : Option Nat) (who : Option FaultInfo) (addr : Nat) (fs : List FByte) :
    Keep κ σ (State.devStore τ p csr who addr fs) := by
  unfold State.devStore
  repeat' (first | with_reducible assumption | with_reducible apply State.writePiece_keep | with_reducible apply Keep.foldl | with_reducible apply Keep.foldlFst | intro _ _ _ | intro _ _ | intro _ | dsimp only)

theorem State.bayFlags_keep {κ : Prop} {σ τ : State} (hστ : Keep κ σ τ) (st : Nat) (addr : Nat) (n : Nat) :
    Keep κ σ (State.bayFlags τ st addr n).1 := by
  unfold State.bayFlags
  repeat' (first | with_reducible assumption | with_reducible apply State.bayReadRange_keep | with_reducible apply Keep.foldl | with_reducible apply Keep.foldlFst | intro _ _ _ | intro _ _ | intro _ | dsimp only)

theorem State.bayArrays_keep {κ : Prop} {σ τ : State} (hστ : Keep κ σ τ) (st : Nat) (d : TDesc) (n : Nat) :
    Keep κ σ (State.bayArrays τ st d n).1 := by
  unfold State.bayArrays
  repeat' (first | with_reducible assumption | with_reducible apply State.bayFlags_keep | with_reducible apply Keep.foldl | with_reducible apply Keep.foldlFst | intro _ _ _ | intro _ _ | intro _ | dsimp only)

theorem State.bayRuns_keep {κ : Prop} {σ τ : State} (hστ : Keep κ σ τ) (st : Nat) (d : TDesc) :
    Keep κ σ (State.bayRuns τ st d).1 := by
  unfold State.bayRuns
  repeat' (first | with_reducible assumption | with_reducible apply State.bayArrays_keep)

theorem State.bayStoreRuns_keep {κ : Prop} {σ τ : State} (hστ : Keep κ σ τ) (st : Nat) (d : TDesc) (runs : List (List FByte)) :
    Keep κ σ (State.bayStoreRuns τ st d runs) := by
  unfold State.bayStoreRuns
  repeat' (first | with_reducible assumption | with_reducible apply State.bayWrites_keep | with_reducible apply Keep.foldl | intro _ _ _ | intro _ _ | intro _)

theorem State.putSeg_keep {κ : Prop} {σ τ : State} (hστ : Keep κ σ τ) (p : Nat) (csr : Option Nat) (who : Option FaultInfo) (d : TDesc) (i : Nat) (elems : List FByte) (trailer : List FByte) (record : List FByte) :
    Keep κ σ (State.putSeg τ p csr who d i elems trailer record) := by
  unfold State.putSeg
  repeat' (first | with_reducible assumption | with_reducible apply State.devStore_keep)

theorem State.devStoreFb_keep {κ : Prop} {σ τ : State} (hστ : Keep κ σ τ) (p : Nat) (csr : Option Nat) (who : Option FaultInfo) (d : TDesc) (runs : List (List FByte)) :
    Keep κ σ (State.devStoreFb τ p csr who d runs) := by
  unfold State.devStoreFb
  repeat' (first | with_reducible assumption | with_reducible apply State.putSeg_keep | with_reducible apply Keep.foldl | split | intro _ _ _ | intro _ _ | intro _)

/-! ### Array -/

theorem State.modLoad_keep {κ : Prop} {σ τ : State} (hστ : Keep κ σ τ) (st : Nat) (sp : Nat) (num : Nat) (f : TileLoad → TileLoad) :
    Keep κ σ (State.modLoad τ st sp num f) := by
  unfold State.modLoad
  repeat' (first | with_reducible assumption | with_reducible apply State.modSplit_keep | split | intro _ _ _ | intro _ _ | intro _ | with_reducible refine Keep.of ?_)

theorem State.tileIn_keep {κ : Prop} {σ τ : State} (hστ : Keep κ σ τ) (st : Nat) (sp : Nat) (launch : Nat) (l : TileLoad) (d : TDesc) (kt : Nat) (cols : List TileCol) :
    Keep κ σ (State.tileIn τ st sp launch l d kt cols).1 := by
  unfold State.tileIn
  repeat' (first | with_reducible assumption | with_reducible apply State.modLoad_keep | split | intro _ _ _ | intro _ _ | intro _ | with_reducible refine Keep.of ?_)

theorem State.tileArrives_keep {κ : Prop} {σ τ : State} (hστ : Keep κ σ τ) (st sp launch : Nat) (l : TileLoad) (d : TDesc) (kt : Nat) (cols : List TileCol) :
    Keep κ σ (τ.tileArrives st sp launch l d kt cols) :=
  Keep.foldl (State.tileIn_keep hστ _ _ _ _ _ _ _) _ (fun _ _ h => State.rdErr_keep h _ _ _)

theorem State.fetchTile_keep {κ : Prop} {σ τ : State} (hστ : Keep κ σ τ) (st sp launch : Nat) (x : Launch) (l : TileLoad) :
    Keep κ σ (τ.fetchTile st sp launch x l).1 := by
  unfold State.fetchTile
  split
  · exact hστ
  · rename_i d hd
    extract_lets +onlyGivenNames e len
    clear_value e len
    split
    · split
      · extract_lets +onlyGivenNames r
        have hr : Keep κ σ r.1 := by
          refine Keep.foldlVia (g := fun (a : State × List TileCol × Option Nat) => a.1) hστ _ (fun u n hu => ?_)
          split
          · exact hu
          · split
            · exact State.readSpans_keep hu _ _
            · exact State.bayReadList_keep hu _ _
        clear_value r
        split
        · exact hr
        · exact State.tileIn_keep hr _ _ _ _ _ _ _
      · exact hστ
      · exact hστ
    · split
      · exact hστ
      · extract_lets +onlyGivenNames r
        clear_value r
        split
        · exact State.tileIn_keep hστ _ _ _ _ _ _ _
        · exact hστ

theorem State.loaderStep_keep {κ : Prop} {σ τ : State} (hστ : Keep κ σ τ) (st sp launch : Nat) (x : Launch) (cycles : Nat) (upset : Option ArrayUpset) :
    Keep κ σ (τ.loaderStep st sp launch x cycles upset).1 := by
  unfold State.loaderStep
  extract_lets +onlyGivenNames r1 s1 sp1 step budget
  have h1 : Keep κ σ s1 := Keep.foldlVia (g := Prod.fst) (p := (τ, [])) hστ _ (fun u l hu => State.fetchTile_keep hu _ _ _ _ _)
  dsimp -zeta only
  exact State.modSplit_keep h1 _ _ _

theorem execWld_keep {κ : Prop} {σ τ : State} (hστ : Keep κ σ τ) (st : StallId) (cx : CtxId) (f : FmtA) :
    KeepRes κ σ (execWld st cx f τ) := by
  unfold execWld
  repeat' (first | with_reducible assumption | with_reducible apply State.issue_keep | with_reducible apply State.retire_keep | with_reducible apply State.badProgram_keep | with_reducible apply State.tickSerial_keep | with_reducible apply State.modSplit_keep | with_reducible apply KeepRes.next | exact fun _ h => h | split | intro _ _ _ | intro _ _ | intro _ | with_reducible refine Keep.of ?_)

theorem execAscl_keep {κ : Prop} {σ τ : State} (hστ : Keep κ σ τ) (st : StallId) (cx : CtxId) (f : FmtA) :
    KeepRes κ σ (execAscl st cx f τ) := by
  unfold execAscl
  repeat' (first | with_reducible assumption | with_reducible apply State.issue_keep | with_reducible apply State.retire_keep | with_reducible apply State.badProgram_keep | with_reducible apply State.modSplit_keep | with_reducible apply KeepRes.next | exact fun _ h => h | split | intro _ _ _ | intro _ _ | intro _ | with_reducible refine Keep.of ?_)

theorem execDctw_keep {κ : Prop} {σ τ : State} (hστ : Keep κ σ τ) (st : StallId) (cx : CtxId) (f : FmtA) :
    KeepRes κ σ (execDctw st cx f τ) := by
  unfold execDctw
  repeat' (first | with_reducible assumption | with_reducible apply State.issue_keep | with_reducible apply State.retire_keep | with_reducible apply State.badProgram_keep | with_reducible apply State.modSplit_keep | with_reducible apply KeepRes.next | exact fun _ h => h | split | intro _ _ _ | intro _ _ | intro _ | with_reducible refine Keep.of ?_)

theorem execSatm_keep {κ : Prop} {σ τ : State} (hστ : Keep κ σ τ) (st : StallId) (cx : CtxId) (f : FmtA) :
    KeepRes κ σ (execSatm st cx f τ) := by
  unfold execSatm
  repeat' (first | with_reducible assumption | with_reducible apply State.issue_keep | with_reducible apply State.retire_keep | with_reducible apply State.badProgram_keep | with_reducible apply KeepRes.next | split | intro _ _ _ | intro _ _ | intro _)

theorem execSplt_keep {κ : Prop} {σ τ : State} (hστ : Keep κ σ τ) (st : StallId) (cx : CtxId) (f : FmtA) :
    KeepRes κ σ (execSplt st cx f τ) := by
  unfold execSplt
  repeat' (first | with_reducible assumption | with_reducible apply State.issue_keep | with_reducible apply State.retire_keep | with_reducible apply State.badProgram_keep | with_reducible apply State.modLaunch_keep | with_reducible apply State.modStall_keep | with_reducible apply KeepRes.next | exact fun _ h => h | split | intro _ _ _ | intro _ _ | intro _ | with_reducible refine Keep.of ?_)

theorem execPass_keep {κ : Prop} {σ τ : State} (hστ : Keep κ σ τ) (st : StallId) (cx : CtxId) (f : FmtA) :
    KeepRes κ σ (execPass st cx f τ) := by
  unfold execPass
  repeat' (first | with_reducible assumption | with_reducible apply State.issue_keep | with_reducible apply State.retire_keep | with_reducible apply State.badProgram_keep | with_reducible apply State.tickSerial_keep | with_reducible apply State.modSplit_keep | with_reducible apply KeepRes.next | exact fun _ h => h | split | intro _ _ _ | intro _ _ | intro _ | with_reducible refine Keep.of ?_)

theorem execPassEntry_keep {κ : Prop} {σ τ : State} (hστ : Keep κ σ τ) (st : StallId) (sp : SplitId) :
    KeepRes κ σ (execPassEntry st sp τ) := by
  unfold execPassEntry
  repeat' (first | with_reducible assumption | with_reducible apply State.badProgram_keep | with_reducible apply State.contextFault_keep | with_reducible apply State.modSplit_keep | with_reducible apply KeepRes.next | split | intro _ _ _ | intro _ _ | intro _ | with_reducible refine Keep.of ?_)

theorem State.preloadRow_keep {κ : Prop} {σ τ : State} (hστ : Keep κ σ τ) (st : Nat) (q : PassReq) (d : TDesc) (vec : Nat) (phase : Nat) :
    Keep κ σ (State.preloadRow τ st q d vec phase).1 := by
  unfold State.preloadRow
  repeat' (first | with_reducible assumption | with_reducible apply State.bayReadList_keep | split | intro _ _ _ | intro _ _ | intro _)

theorem State.enterVector_keep {κ : Prop} {σ τ : State} (hστ : Keep κ σ τ) (st : Nat) (v : PassView) (p : Pass) (t : Nat) (upset : Option ArrayUpset) :
    Keep κ σ (State.enterVector τ st v p t upset).1 := by
  unfold State.enterVector
  repeat' (first | with_reducible assumption | with_reducible apply State.preloadRow_keep | with_reducible apply State.bayReadList_keep | with_reducible apply State.upset_keep | with_reducible apply Keep.foldl | split | intro _ _ _ | intro _ _ | intro _ | with_reducible refine Keep.of ?_)

theorem State.bayHalf_keep {κ : Prop} {σ τ : State} (hστ : Keep κ σ τ) (st : Nat) (addr : Nat) (hi : Bool) (v : Nat) :
    Keep κ σ (State.bayHalf τ st addr hi v) := by
  unfold State.bayHalf
  repeat' (first | with_reducible assumption | with_reducible apply State.bayWrite_keep | split)

theorem State.writeRows_keep {κ : Prop} {σ τ : State} (hστ : Keep κ σ τ) (st : Nat) (v : PassView) (p : Pass) (rows : List (Nat × Nat)) :
    Keep κ σ (State.writeRows τ st v p rows) := by
  unfold State.writeRows
  repeat' (first | with_reducible assumption | with_reducible apply State.bayHalf_keep | with_reducible apply State.raiseFlags_keep | with_reducible apply State.bayWrites_keep | with_reducible apply Keep.foldl | split | intro _ _ _ | intro _ _ | intro _)

theorem State.slotPass_keep {κ : Prop} {σ τ : State} (hστ : Keep κ σ τ) (st : Nat) (sp : Nat) (x : Launch) (t : Nat) (upset : Option ArrayUpset) (mayDrain : Bool) (num : Nat) :
    Keep κ σ (State.slotPass τ st sp x t upset mayDrain num).1 := by
  unfold State.slotPass
  repeat' (first | with_reducible assumption | with_reducible apply State.writeRows_keep | with_reducible apply State.enterVector_keep | with_reducible apply State.raiseFlags_keep | with_reducible apply State.upset_keep | with_reducible apply State.modSplit_keep | with_reducible apply Keep.foldl | split | intro _ _ _ | intro _ _ | intro _ | with_reducible refine Keep.of ?_)

theorem State.slotFault_keep {κ : Prop} {σ τ : State} (hστ : Keep κ σ τ) (st sp l p : Nat) (f : ArrFault) : Keep κ σ (τ.slotFault st sp l p f) := by
  cases f with
  | slot f =>
    unfold State.slotFault
    repeat' (first | with_reducible assumption | with_reducible apply State.contextFaultF_keep | with_reducible apply State.countMismatch_keep | split)
  | load r e => exact State.rdErr_keep hστ _ _ _
  | drain ctx pc => exact State.contextFault_keep hστ _ _ _ _ _ _ _ _

theorem State.slotEnd_keep {κ : Prop} {σ τ : State} (hστ : Keep κ σ τ) (st sp l p : Nat) (fs : List ArrFault) : Keep κ σ (τ.slotEnd st sp l p fs) := by
  unfold State.slotEnd
  split
  · exact State.slotFault_keep hστ _ _ _ _ _
  · exact hστ

theorem execArraySlot_keep {κ : Prop} {σ τ : State} (hστ : Keep κ σ τ) (st : StallId) (sp : SplitId) (hold : Bool) (upset : Option ArrayUpset) (ups : List (Nat × BitVec 39)) :
    KeepRes κ σ (execArraySlot st sp hold upset ups τ) := by
  unfold execArraySlot
  refine KeepRes.next ?_
  split
  · exact hστ
  · extract_lets +onlyGivenNames s0 y t drain cov bad
    have h0 : Keep κ σ s0 := State.modSplit_keep (State.upset_keep hστ _ _) _ _ _
    clear_value s0 y t drain cov bad
    split
    · exact State.slotEnd_keep (State.loaderStep_keep h0 _ _ _ _ _ _) _ _ _ _ _
    · extract_lets +onlyGivenNames r s1 r2
      have hr : Keep κ σ r.1 := Keep.foldlVia (g := Prod.fst) (p := (s0, [])) h0 _ (fun u n hu => State.slotPass_keep hu _ _ _ _ _ _ _)
      clear_value r
      have h1 : Keep κ σ s1 := State.modStall_keep (State.modSplit_keep hr _ _ _) _ _
      have h2 : Keep κ σ r2.1 := State.loaderStep_keep (State.modLaunch_keep h1 _ _) _ _ _ _ _ _
      exact State.slotEnd_keep h2 _ _ _ _ _

theorem execOutputRowsRelease_keep {κ : Prop} {σ τ : State} (hστ : Keep κ σ τ) (st : StallId) (sp : SplitId) :
    KeepRes κ σ (execOutputRowsRelease st sp τ) := by
  unfold execOutputRowsRelease
  repeat' (first | with_reducible assumption | with_reducible apply State.modLaunch_keep | with_reducible apply State.modSplit_keep | with_reducible apply Keep.foldl | with_reducible apply KeepRes.next | split | intro _ _ _ | intro _ _ | intro _ | with_reducible refine Keep.of ?_)

/-! ### Atomics -/

theorem State.atomIssue_keep {κ : Prop} {σ τ : State} (hστ : Keep κ σ τ) (st : Nat) (c : Nat) (opc : Nat) (f : FmtA) (op : AtomOp) (x : W64) (y : W64) :
    Keep κ σ (State.atomIssue τ st c opc f op x y) := by
  unfold State.atomIssue
  repeat' (first | with_reducible assumption | with_reducible apply State.memIssue_keep | with_reducible apply State.badProgram_keep | split | intro _ _ _ | intro _ _ | intro _ | with_reducible refine Keep.of ?_)

theorem execAtom_keep {κ : Prop} {σ τ : State} (hστ : Keep κ σ τ) (opc : Nat) (ops : Fin 4 → AtomOp) (st : StallId) (cx : CtxId) (f : FmtA) :
    KeepRes κ σ (execAtom opc ops st cx f τ) := by
  unfold execAtom
  repeat' (first | with_reducible assumption | with_reducible apply State.atomIssue_keep | with_reducible apply State.issue_keep | with_reducible apply KeepRes.next)

theorem execAadd_keep {κ : Prop} {σ τ : State} (hστ : Keep κ σ τ) (st : StallId) (cx : CtxId) (f : FmtA) :
    KeepRes κ σ (execAadd st cx f τ) := by
  unfold execAadd
  repeat' (first | with_reducible assumption | with_reducible apply execAtom_keep | with_reducible apply KeepRes.next | intro _ _ _ | intro _ _ | intro _)

theorem execAmin_keep {κ : Prop} {σ τ : State} (hστ : Keep κ σ τ) (st : StallId) (cx : CtxId) (f : FmtA) :
    KeepRes κ σ (execAmin st cx f τ) := by
  unfold execAmin
  repeat' (first | with_reducible assumption | with_reducible apply execAtom_keep | with_reducible apply KeepRes.next | intro _ _ _ | intro _ _ | intro _)

theorem execAmax_keep {κ : Prop} {σ τ : State} (hστ : Keep κ σ τ) (st : StallId) (cx : CtxId) (f : FmtA) :
    KeepRes κ σ (execAmax st cx f τ) := by
  unfold execAmax
  repeat' (first | with_reducible assumption | with_reducible apply execAtom_keep | with_reducible apply KeepRes.next | intro _ _ _ | intro _ _ | intro _)

theorem execAcas_keep {κ : Prop} {σ τ : State} (hστ : Keep κ σ τ) (st : StallId) (cx : CtxId) (f : FmtA) :
    KeepRes κ σ (execAcas st cx f τ) := by
  unfold execAcas
  repeat' (first | with_reducible assumption | with_reducible apply State.atomIssue_keep | with_reducible apply State.issue_keep | with_reducible apply KeepRes.next)

theorem execAwadd_keep {κ : Prop} {σ τ : State} (hστ : Keep κ σ τ) (st : StallId) (cx : CtxId) (f : FmtA) :
    KeepRes κ σ (execAwadd st cx f τ) := by
  unfold execAwadd
  repeat' (first | with_reducible assumption | with_reducible apply State.atomIssue_keep | with_reducible apply State.issue_keep | with_reducible apply KeepRes.next)

/-! ### Flow -/

theorem execBr_keep {κ : Prop} {σ τ : State} (hστ : Keep κ σ τ) (st : StallId) (cx : CtxId) (f : FmtC) :
    KeepRes κ σ (execBr st cx f τ) := by
  unfold execBr
  repeat' (first | with_reducible assumption | with_reducible apply State.issue_keep | with_reducible apply State.tally_keep | with_reducible apply State.badProgram_keep | with_reducible apply KeepRes.next | split | intro _ _ _ | intro _ _ | intro _)

theorem execJr_keep {κ : Prop} {σ τ : State} (hστ : Keep κ σ τ) (st : StallId) (cx : CtxId) (f : FmtC) :
    KeepRes κ σ (execJr st cx f τ) := by
  unfold execJr
  repeat' (first | with_reducible assumption | with_reducible apply State.issue_keep | with_reducible apply State.tally_keep | with_reducible apply State.badProgram_keep | with_reducible apply KeepRes.next | split | intro _ _ _ | intro _ _ | intro _)

theorem execCall_keep {κ : Prop} {σ τ : State} (hστ : Keep κ σ τ) (st : StallId) (cx : CtxId) (f : FmtC) :
    KeepRes κ σ (execCall st cx f τ) := by
  unfold execCall
  repeat' (first | with_reducible assumption | with_reducible apply State.issue_keep | with_reducible apply State.tally_keep | with_reducible apply KeepRes.next | intro _ _ _ | intro _ _ | intro _)

theorem State.startLoop_keep {κ : Prop} {σ τ : State} (hστ : Keep κ σ τ) (st : Nat) (cx : Nat) (op : Nat) (len : Nat) (count : W64) :
    Keep κ σ (State.startLoop τ st cx op len count) := by
  unfold State.startLoop
  repeat' (first | with_reducible assumption | with_reducible apply Edit.count_keep | with_reducible apply State.tally_keep | with_reducible apply State.badProgram_keep | split | intro _ _ _ | intro _ _ | intro _ | with_reducible refine Keep.of ?_)

theorem execLoop_keep {κ : Prop} {σ τ : State} (hστ : Keep κ σ τ) (st : StallId) (cx : CtxId) (f : FmtC) :
    KeepRes κ σ (execLoop st cx f τ) := by
  unfold execLoop
  repeat' (first | with_reducible assumption | with_reducible apply State.startLoop_keep | with_reducible apply State.issue_keep | with_reducible apply KeepRes.next)

theorem execLoopi_keep {κ : Prop} {σ τ : State} (hστ : Keep κ σ τ) (st : StallId) (cx : CtxId) (f : FmtC) :
    KeepRes κ σ (execLoopi st cx f τ) := by
  unfold execLoopi
  repeat' (first | with_reducible assumption | with_reducible apply State.startLoop_keep | with_reducible apply State.issue_keep | with_reducible apply KeepRes.next)

theorem execLbrk_keep {κ : Prop} {σ τ : State} (hστ : Keep κ σ τ) (st : StallId) (cx : CtxId) (f : FmtC) :
    KeepRes κ σ (execLbrk st cx f τ) := by
  unfold execLbrk
  repeat' (first | with_reducible assumption | with_reducible apply State.issue_keep | with_reducible apply State.tally_keep | with_reducible apply State.badProgram_keep | with_reducible apply KeepRes.next | split | intro _ _ _ | intro _ _ | intro _ | with_reducible refine Keep.of ?_)

theorem execEndInst_keep {κ : Prop} {σ τ : State} (hστ : Keep κ σ τ) (st : StallId) (cx : CtxId) (f : FmtC) :
    KeepRes κ σ (execEndInst st cx f τ) := by
  unfold execEndInst
  repeat' (first | with_reducible assumption | with_reducible apply State.issue_keep | with_reducible apply State.modCtx_keep | with_reducible apply KeepRes.next | intro _ _ _ | intro _ _ | intro _ | with_reducible refine Keep.of ?_)

/-! ### Tensor -/

theorem execLd_keep {κ : Prop} {σ τ : State} (hστ : Keep κ σ τ) (st : StallId) (cx : CtxId) (f : FmtA) :
    KeepRes κ σ (execLd st cx f τ) := by
  unfold execLd
  repeat' (first | with_reducible assumption | with_reducible apply State.memIssue_keep | with_reducible apply State.issue_keep | with_reducible apply State.badProgram_keep | with_reducible apply KeepRes.next | split | intro _ _ _ | intro _ _ | intro _ | with_reducible refine Keep.of ?_)

theorem execSt_keep {κ : Prop} {σ τ : State} (hστ : Keep κ σ τ) (st : StallId) (cx : CtxId) (f : FmtA) :
    KeepRes κ σ (execSt st cx f τ) := by
  unfold execSt
  repeat' (first | with_reducible assumption | with_reducible apply State.memIssue_keep | with_reducible apply State.issue_keep | with_reducible apply State.badProgram_keep | with_reducible apply KeepRes.next | exact fun _ h => h | split | with_reducible refine Keep.of ?_)

theorem execLdb_keep {κ : Prop} {σ τ : State} (hστ : Keep κ σ τ) (st : StallId) (cx : CtxId) (f : FmtA) (ups : List (Nat × BitVec 39)) :
    KeepRes κ σ (execLdb st cx f ups τ) := by
  unfold execLdb
  repeat' (first | with_reducible assumption | with_reducible apply State.bayLoad_keep | with_reducible apply State.covered_keep | with_reducible apply State.issue_keep | with_reducible apply State.retire_keep | with_reducible apply State.badProgram_keep | with_reducible apply KeepRes.next | split | intro _ _ _ | intro _ _ | intro _ | with_reducible refine Keep.of ?_)

theorem execStb_keep {κ : Prop} {σ τ : State} (hστ : Keep κ σ τ) (st : StallId) (cx : CtxId) (f : FmtA) :
    KeepRes κ σ (execStb st cx f τ) := by
  unfold execStb
  repeat' (first | with_reducible assumption | with_reducible apply State.covered_keep | with_reducible apply State.issue_keep | with_reducible apply State.retire_keep | with_reducible apply State.bayWrite_keep | with_reducible apply State.badProgram_keep | with_reducible apply KeepRes.next | exact fun _ h => h | split | with_reducible refine Keep.of ?_)

theorem execTset_keep {κ : Prop} {σ τ : State} (hστ : Keep κ σ τ) (st : StallId) (cx : CtxId) (f : FmtA) :
    KeepRes κ σ (execTset st cx f τ) := by
  unfold execTset
  repeat' (first | with_reducible assumption | with_reducible apply State.issue_keep | with_reducible apply State.retire_keep | with_reducible apply KeepRes.next | intro _ _ _ | intro _ _ | intro _)

theorem execTget_keep {κ : Prop} {σ τ : State} (hστ : Keep κ σ τ) (st : StallId) (cx : CtxId) (f : FmtA) :
    KeepRes κ σ (execTget st cx f τ) := by
  unfold execTget
  repeat' (first | with_reducible assumption | with_reducible apply State.issue_keep | with_reducible apply State.retire_keep | with_reducible apply KeepRes.next | intro _ _ _ | intro _ _ | intro _)

theorem execTld_keep {κ : Prop} {σ τ : State} (hστ : Keep κ σ τ) (st : StallId) (cx : CtxId) (f : FmtA) :
    KeepRes κ σ (execTld st cx f τ) := by
  unfold execTld
  repeat' (first | with_reducible assumption | with_reducible apply State.memIssue_keep | with_reducible apply State.issue_keep | with_reducible apply State.badProgram_keep | with_reducible apply KeepRes.next | split | intro _ _ _ | intro _ _ | intro _ | with_reducible refine Keep.of ?_)

theorem execTst_keep {κ : Prop} {σ τ : State} (hστ : Keep κ σ τ) (st : StallId) (cx : CtxId) (f : FmtA) :
    KeepRes κ σ (execTst st cx f τ) := by
  unfold execTst
  repeat' (first | with_reducible assumption | with_reducible apply State.memIssue_keep | with_reducible apply State.issue_keep | with_reducible apply State.badProgram_keep | with_reducible apply KeepRes.next | exact fun _ h => h | split | with_reducible refine Keep.of ?_)

theorem execTmov_keep {κ : Prop} {σ τ : State} (hστ : Keep κ σ τ) (st : StallId) (cx : CtxId) (f : FmtA) :
    KeepRes κ σ (execTmov st cx f τ) := by
  unfold execTmov
  repeat' (first | with_reducible assumption | with_reducible apply State.issue_keep | with_reducible apply State.retire_keep | with_reducible apply KeepRes.next | intro _ _ _ | intro _ _ | intro _)

theorem execTadv_keep {κ : Prop} {σ τ : State} (hστ : Keep κ σ τ) (st : StallId) (cx : CtxId) (f : FmtA) :
    KeepRes κ σ (execTadv st cx f τ) := by
  unfold execTadv
  repeat' (first | with_reducible assumption | with_reducible apply State.issue_keep | with_reducible apply State.retire_keep | with_reducible apply KeepRes.next | intro _ _ _ | intro _ _ | intro _)

end Sys2Proof.Machine
end

