-- ==== Sys2Proof/Laws/KeepMemory.lean ====
section
/-! SUPPORT. `Keep` of device memory, pitches and set-up: one lemma for each operation and meaning. -/

namespace Sys2Proof.Machine

set_option Elab.async false
set_option linter.all false

/-! ### Memory -/

theorem State.mapOutPch_keep {κ : Prop} {σ τ : State} (hστ : Keep κ σ τ) (u : Nat) (k : Nat) :
    Keep κ σ (State.mapOutPch τ u k) := by
  unfold State.mapOutPch
  repeat' (first | with_reducible assumption | with_reducible apply State.replaceEvent_keep | split | with_reducible refine Keep.of ?_)

theorem State.countLine_keep {κ : Prop} {σ τ : State} (hστ : Keep κ σ τ) (u : Nat) (o : Nat) :
    Keep κ σ (State.countLine τ u o) := by
  unfold State.countLine
  repeat' (first | with_reducible assumption | with_reducible apply State.mapOutPch_keep | with_reducible apply State.afterNow_keep | split | with_reducible refine Keep.afterNowHealth ?_ rfl | with_reducible refine Keep.of ?_)

theorem State.countSymbol_keep {κ : Prop} {σ τ : State} (hστ : Keep κ σ τ) (u : Nat) (o : Nat) :
    Keep κ σ (State.countSymbol τ u o) := by
  unfold State.countSymbol
  repeat' (first | with_reducible assumption | with_reducible apply State.mapOutPch_keep | with_reducible apply State.afterNow_keep | split | with_reducible refine Keep.afterNowHealth ?_ rfl | with_reducible refine Keep.of ?_)

theorem State.wordMet_keep {κ : Prop} {σ τ : State} (hστ : Keep κ σ τ) (e : WordUpset) (u : Nat) (l : Lane) (bs : List Byte) (x : BitVec 39) (z : BayRead) :
    Keep κ σ (τ.wordMet e u l bs x z).1 := by
  cases z with
  | good w => exact hστ
  | corrected w => exact State.postCorrected_keep hστ _ _ _
  | poisoned => exact State.postFault_keep hστ _ _

theorem State.carried_keep {κ : Prop} {σ τ : State} (hστ : Keep κ σ τ) (e : Option WordUpset) (u : Nat) (l : Lane) (bs : List Byte) : Keep κ σ (τ.carried e u l bs).1 := by
  unfold State.carried
  split
  · exact hστ
  · rename_i e
    exact State.wordMet_keep hστ e u l bs _ _

theorem State.lineCorrected_keep {κ : Prop} {σ τ : State} (hστ : Keep κ σ τ) (u : Nat) (o : Nat) (sym : Nat) :
    Keep κ σ (State.lineCorrected τ u o sym) := by
  unfold State.lineCorrected
  repeat' (first | with_reducible assumption | with_reducible apply State.countSymbol_keep | with_reducible apply State.postCorrected_keep)

theorem State.poisonLine_keep {κ : Prop} {σ τ : State} (hστ : Keep κ σ τ) (u o : Nat) : Keep κ σ (τ.poisonLine u o) :=
  Keep.ofTabs hστ ⟨rfl, rfl, rfl⟩ (fun h => Tab.wf_clearRange h _ _) (fun h => Mem.setPoison_wf h _ _) id id (by simp) (fun _ => ⟨rfl, rfl⟩) ⟨Nat.le_refl _, Nat.le_refl _⟩ (fun _ => Nat.le_refl _)

theorem State.lineLost_keep {κ : Prop} {σ τ : State} (hστ : Keep κ σ τ) (u : Nat) (o : Nat) :
    Keep κ σ (State.lineLost τ u o) := by
  unfold State.lineLost
  repeat' (first | with_reducible assumption | with_reducible apply State.poisonLine_keep | with_reducible apply State.countLine_keep | with_reducible apply State.postFault_keep)

theorem State.quarantine_keep {κ : Prop} {σ τ : State} (hστ : Keep κ σ τ) (n : Nat) (x : Nat) (u : Nat) :
    Keep κ σ (State.quarantine τ n x u) := by
  unfold State.quarantine
  repeat' (first | with_reducible assumption | with_reducible apply State.poisonLine_keep | with_reducible apply State.modRegion_keep | with_reducible apply State.postDbk_keep | split | intro _ _ _ | intro _ _ | intro _ | with_reducible refine Keep.of ?_)

theorem State.repairLine_keep {κ : Prop} {σ τ : State} (hστ : Keep κ σ τ) (n : Nat) (bad : Nat × Nat) (good : Nat × Nat) :
    Keep κ σ (State.repairLine τ n bad good) := by
  unfold State.repairLine
  repeat' (first | with_reducible assumption | with_reducible apply State.writeLine_keep | with_reducible apply State.postDbk_keep)

theorem State.sealedLost_keep {κ : Prop} {σ τ : State} (hστ : Keep κ σ τ) (n : Nat) (rep : Bool) (x : Nat) (u : Nat) (o : Nat) (alt : LineOutcome) (again : LineOutcome) :
    Keep κ σ (State.sealedLost τ n rep x u o alt again) := by
  unfold State.sealedLost
  repeat' (first | with_reducible assumption | with_reducible apply State.repairLine_keep | with_reducible apply State.quarantine_keep | with_reducible apply State.poisonLine_keep | with_reducible apply State.lineCorrected_keep | with_reducible apply State.countLine_keep | with_reducible apply State.postFault_keep | split | with_reducible refine Keep.of ?_)

theorem State.offLine_keep {κ : Prop} {σ τ : State} (hστ : Keep κ σ τ) (u : Nat) (o : Nat) :
    Keep κ σ (State.offLine τ u o) := by
  unfold State.offLine
  repeat' (first | with_reducible assumption | with_reducible apply State.quarantine_keep | split | with_reducible refine Keep.of ?_)

theorem State.lineRead_keep {κ : Prop} {σ τ : State} (hστ : Keep κ σ τ) (u : Nat) (o : Nat) (out : LineOutcome) (alt : LineOutcome) (again : LineOutcome) :
    Keep κ σ (State.lineRead τ u o out alt again) := by
  unfold State.lineRead
  repeat' (first | with_reducible assumption | with_reducible apply State.offLine_keep | with_reducible apply State.sealedLost_keep | with_reducible apply State.lineLost_keep | with_reducible apply State.lineCorrected_keep | split | with_reducible refine Keep.of ?_)

theorem State.wakeUnit_keep {κ : Prop} {σ τ : State} (hστ : Keep κ σ τ) (u : Nat) :
    Keep κ σ (State.wakeUnit τ u) := by
  unfold State.wakeUnit
  repeat' (first | with_reducible assumption | with_reducible apply State.setUnitPwr_keep | split)

theorem State.offRead_keep {κ : Prop} {σ τ : State} (hστ : Keep κ σ τ) (pl : Place) :
    Keep κ σ (State.offRead τ pl) := by
  unfold State.offRead
  repeat' (first | with_reducible assumption | with_reducible apply State.quarantine_keep | split | with_reducible refine Keep.of ?_)

theorem execMemoryRead_keep {κ : Prop} {σ τ : State} (hστ : Keep κ σ τ) (job : Option Served) (u : UnitId) (off : Nat) (o : LineOutcome) (alt : LineOutcome) (again : LineOutcome) :
    KeepRes κ σ (execMemoryRead job u off o alt again τ) := by
  unfold execMemoryRead
  repeat' (first | with_reducible assumption | with_reducible apply State.offRead_keep | with_reducible apply State.wakeUnit_keep | with_reducible apply State.lineRead_keep | with_reducible apply State.carried_keep | with_reducible apply State.modReq_keep | with_reducible apply KeepRes.next | exact fun _ h => h | split | intro _ _ _ | intro _ _ | intro _ | with_reducible refine Keep.of ?_)

theorem execMemoryWrite_keep {κ : Prop} {σ τ : State} (hστ : Keep κ σ τ) (job : Served) :
    KeepRes κ σ (execMemoryWrite job τ) := by
  unfold execMemoryWrite
  repeat' (first | with_reducible assumption | with_reducible apply State.wakeUnit_keep | with_reducible apply State.carried_keep | with_reducible apply State.serveHost_keep | with_reducible apply State.serveStore_keep | with_reducible apply State.hostWrite_keep | with_reducible apply KeepRes.next | exact fun _ h => h | split | with_reducible refine Keep.of ?_)

theorem execMemoryAtomic_keep {κ : Prop} {σ τ : State} (hστ : Keep κ σ τ) (id : Nat) (o : LineOutcome) :
    KeepRes κ σ (execMemoryAtomic id o τ) := by
  unfold execMemoryAtomic
  repeat' (first | with_reducible assumption | with_reducible apply State.wakeUnit_keep | with_reducible apply State.lineRead_keep | with_reducible apply State.serveAtomic_keep | with_reducible apply KeepRes.next | exact fun _ h => h | split | with_reducible refine Keep.of ?_)

theorem execAtomicBufferEvict_keep {κ : Prop} {σ τ : State} (hστ : Keep κ σ τ) (u : UnitId) :
    KeepRes κ σ (execAtomicBufferEvict u τ) := by
  unfold execAtomicBufferEvict
  repeat' (first | with_reducible assumption | with_reducible apply KeepRes.next | split | intro _ _ _ | intro _ _ | intro _ | with_reducible refine Keep.of ?_)

theorem execPatrolRead_keep {κ : Prop} {σ τ : State} (hστ : Keep κ σ τ) (u : UnitId) (o : LineOutcome) (alt : LineOutcome) (again : LineOutcome) :
    KeepRes κ σ (execPatrolRead u o alt again τ) := by
  unfold execPatrolRead
  repeat' (first | with_reducible assumption | with_reducible apply State.lineRead_keep | with_reducible apply KeepRes.next | split | with_reducible refine Keep.of ?_)

theorem execMemoryUnitPowerDown_keep {κ : Prop} {σ τ : State} (hστ : Keep κ σ τ) (u : UnitId) :
    KeepRes κ σ (execMemoryUnitPowerDown u τ) := by
  unfold execMemoryUnitPowerDown
  repeat' (first | with_reducible assumption | with_reducible apply State.setUnitPwr_keep | with_reducible apply KeepRes.next | split | intro _ _ _ | intro _ _ | intro _)

theorem State.stackShutdown_keep {κ : Prop} {σ τ : State} (hστ : Keep κ σ τ) (k : Nat) : Keep κ σ (τ.stackShutdown k) := by
  unfold State.stackShutdown
  extract_lets +onlyGivenNames owners s1 src gone kept s2 s3 s4
  have h1 : Keep κ σ s1 := State.modStack_keep hστ _ _
  have hw := Mem.setLosts_wf (m := gone) (fun (r : Nat × Nat) => (r.1, r.2, true)) kept
  have h2 : Keep κ σ s2 := by
    refine Keep.ofTabs h1 ⟨rfl, rfl, rfl⟩ (fun h => ?_) (fun h => (hw (Tab.wf_filter h _)).1) id id (by simp) (fun _ => ⟨rfl, rfl⟩) ⟨Nat.le_refl _, Nat.le_refl _⟩ (fun _ => Nat.le_refl _)
    have e : (kept.foldl (fun (m : Mem) (r : Nat × Nat) => m.setLost r.1 r.2 true) gone).bytes = gone.bytes := by
      clear hw
      generalize gone = m
      induction kept generalizing m with
      | nil => rfl
      | cons r rs ih => exact ih (m.setLost r.1 r.2 true)
    show Tab.wf (0 : Byte) (kept.foldl (fun (m : Mem) (r : Nat × Nat) => m.setLost r.1 r.2 true) gone).bytes = true
    rw [e]
    exact Tab.wf_clearRange h _ _
  have h3 : Keep κ σ s3 := State.replaceEvent_keep h2 _ _ _
  have h4 : Keep κ σ s4 := by
    refine Keep.foldl h3 _ (fun u n hu => ?_)
    split
    · split
      · exact State.quarantine_keep hu _ _ _
      · exact hu
    · exact hu
  exact Keep.foldl h4 _ (fun u p hu => State.modPitch_keep (State.pitchFatal_keep hu _ _ _ _ _ _) _ _)

theorem execStackTempReport_keep {κ : Prop} {σ τ : State} (hστ : Keep κ σ τ) (k : StackId) (temp : BitVec 12) :
    KeepRes κ σ (execStackTempReport k temp τ) := by
  unfold execStackTempReport
  repeat' (first | with_reducible assumption | with_reducible apply State.stackShutdown_keep | with_reducible apply State.slowAll_keep | with_reducible apply State.thermalRec_keep | with_reducible apply State.modStack_keep | with_reducible apply KeepRes.next | split | intro _ _ _ | intro _ _ | intro _ | with_reducible refine Keep.of ?_)

/-! ### Pitches -/

theorem State.dropQueue_keep {κ : Prop} {σ τ : State} (hστ : Keep κ σ τ) (q : Nat) :
    Keep κ σ (State.dropQueue τ q) := by
  unfold State.dropQueue
  repeat' (first | with_reducible assumption | split | intro _ _ _ | intro _ _ | intro _ | with_reducible refine Keep.of ?_)

theorem State.aqOff_keep {κ : Prop} {σ τ : State} (hστ : Keep κ σ τ) (fn : Nat) :
    Keep κ σ (State.aqOff τ fn) := by
  unfold State.aqOff
  repeat' (first | with_reducible assumption | with_reducible apply State.setFld_keep)

theorem State.dropFn_keep {κ : Prop} {σ τ : State} (hστ : Keep κ σ τ) (fn : Nat) (p : Nat) :
    Keep κ σ (State.dropFn τ fn p) := by
  unfold State.dropFn
  repeat' (first | with_reducible assumption | with_reducible apply State.aqOff_keep | with_reducible apply State.dropQueue_keep | with_reducible apply Keep.foldl | intro _ _ _ | intro _ _ | intro _ | with_reducible refine Keep.of ?_)

theorem State.dropPitch_keep {κ : Prop} {σ τ : State} (hστ : Keep κ σ τ) (p : Nat) :
    Keep κ σ (State.dropPitch τ p) := by
  unfold State.dropPitch
  repeat' (first | with_reducible assumption | with_reducible apply State.aqOff_keep | with_reducible apply State.dropQueue_keep | with_reducible apply Keep.foldl | split | intro _ _ _ | intro _ _ | intro _ | with_reducible refine Keep.of ?_)

theorem State.resetFn_keep {κ : Prop} {σ τ : State} (hστ : Keep κ σ τ) (fn : Nat) : Keep κ σ (τ.resetFn fn) :=
  Keep.ofTabs hστ ⟨rfl, rfl, rfl⟩ id id id (fun h => Tab.rising_filter h _) (by simp) (fun _ => ⟨rfl, rfl⟩) ⟨Nat.le_refl _, Nat.le_refl _⟩ (fun _ => Nat.le_refl _)

theorem State.teardown_keep {κ : Prop} {σ τ : State} (hστ : Keep κ σ τ) (p : Nat) :
    Keep κ σ (State.teardown τ p) := by
  unfold State.teardown
  repeat' (first | with_reducible assumption | with_reducible apply State.resetFn_keep | with_reducible apply State.dropFn_keep | with_reducible refine Keep.of ?_)

theorem State.zeroSpace_keep {κ : Prop} {σ τ : State} (hστ : Keep κ σ τ) (p : Nat) (whole : Bool) : Keep κ σ (τ.zeroSpace p whole) := by
  unfold State.zeroSpace
  extract_lets +onlyGivenNames r m
  have hb : m.bytes = τ.mem.bytes ∧ (Tab.wf false τ.mem.poison = true → Tab.wf false m.poison = true) := by
    subst m
    split
    · generalize τ.mem = z
      generalize τ.unitsOf p = us
      induction us generalizing z with
      | nil => exact ⟨rfl, id⟩
      | cons u us ih =>
        have g := ih (z.setLost (memKey u 0 / 64) (τ.reserveStart u / 64) false)
        exact ⟨g.1, fun h => g.2 (Mem.setLost_wf h _ _ _)⟩
    · exact ⟨rfl, id⟩
  clear_value m
  refine Keep.ofTabs hστ ⟨rfl, rfl, rfl⟩ (fun h => ?_) (fun h => Tab.wf_filter (hb.2 h) _) id id (by simp) (fun _ => ⟨rfl, rfl⟩) ⟨Nat.le_refl _, Nat.le_refl _⟩ (fun _ => Nat.le_refl _)
  show Tab.wf (0 : Byte) (m.bytes.filter _) = true
  rw [hb.1]
  exact Tab.wf_filter h _

theorem execScrubZeroingDone_keep {κ : Prop} {σ τ : State} (hστ : Keep κ σ τ) (p : PitchId) :
    KeepRes κ σ (execScrubZeroingDone p τ) := by
  unfold execScrubZeroingDone
  repeat' (first | with_reducible assumption | with_reducible apply State.zeroSpace_keep | with_reducible apply State.modPitch_keep | with_reducible apply KeepRes.next | split | intro _ _ _ | intro _ _ | intro _ | with_reducible refine Keep.of ?_)

theorem State.rescanLater_keep {κ : Prop} {σ τ : State} (hστ : Keep κ σ τ) (fn : Nat) :
    Keep κ σ (State.rescanLater τ fn) := by
  unfold State.rescanLater
  repeat' (first | with_reducible assumption | with_reducible apply Keep.foldl | intro _ _ _ | intro _ _ | intro _ | with_reducible refine Keep.of ?_)

theorem State.reportReset_keep {κ : Prop} {σ τ : State} (hστ : Keep κ σ τ) (q : Nat) (h : W32) :
    Keep κ σ (State.reportReset τ q h) := by
  unfold State.reportReset
  repeat' (first | with_reducible assumption | with_reducible apply State.finishLaunch_keep | with_reducible apply State.finishDesc_keep | split | intro _ _ _ | intro _ _ | intro _ | with_reducible refine Keep.of ?_)

theorem State.noteReset_keep {κ : Prop} {σ τ : State} (hστ : Keep κ σ τ) (q : Nat) (h : W32) :
    Keep κ σ (State.noteReset τ q h) := by
  unfold State.noteReset
  repeat' (first | with_reducible assumption | with_reducible apply State.postLaunchEnd_keep | split | intro _ _ _ | intro _ _ | intro _ | with_reducible refine Keep.of ?_)

theorem State.holdSqs_keep {κ : Prop} {σ τ : State} (hστ : Keep κ σ τ) (p : Nat) :
    Keep κ σ (State.holdSqs τ p) := by
  unfold State.holdSqs
  repeat' (first | with_reducible assumption | with_reducible apply State.writeBlock_keep | with_reducible apply State.modQueue_keep | with_reducible apply Keep.foldl | split | intro _ _ _ | intro _ _ | intro _ | with_reducible refine Keep.of ?_)

theorem State.releaseUnits_keep {κ : Prop} {σ τ : State} (hστ : Keep κ σ τ) (p : Nat) :
    Keep κ σ (State.releaseUnits τ p) := by
  unfold State.releaseUnits
  repeat' (first | with_reducible assumption | with_reducible apply State.setUnitPwr_keep | with_reducible apply State.setPwr_keep | with_reducible apply State.modPitch_keep | with_reducible apply State.setFld_keep | with_reducible apply Keep.foldl | split | intro _ _ _ | intro _ _ | intro _ | with_reducible refine Keep.of ?_)

theorem State.restoreUnits_keep {κ : Prop} {σ τ : State} (hστ : Keep κ σ τ) (p : Nat) :
    Keep κ σ (State.restoreUnits τ p) := by
  unfold State.restoreUnits
  repeat' (first | with_reducible assumption | with_reducible apply State.setUnitPwr_keep | with_reducible apply State.setPwr_keep | with_reducible apply Keep.foldl | split | intro _ _ _ | intro _ _ | intro _)

theorem State.resetEnd_keep {κ : Prop} {σ τ : State} (hστ : Keep κ σ τ) (p : Nat) : Keep κ σ (τ.resetEnd p) := by
  unfold State.resetEnd
  extract_lets +onlyGivenNames x silent s1 failed s2 s3 s4 fn s4' s5 s6 s7 s8 s9
  have h1 : Keep κ σ s1 := by
    subst s1
    split
    · exact Keep.foldl hστ _ (fun u r hu => State.noteReset_keep hu _ _)
    · exact State.holdSqs_keep (State.drainCqs_keep (Keep.foldl hστ _ (fun u r hu => State.reportReset_keep hu _ _)) _) _
  have h4 : Keep κ σ s4 := State.postDbk_keep (State.writePsb_keep (State.modPitch_keep h1 _ _) _) _ _ _ _ _
  clear_value s4
  have h4' : Keep κ σ s4' := by
    subst s4'
    split
    · exact State.rescanLater_keep h4 _
    · exact h4
  clear_value s4'
  have h5 : Keep κ σ s5 := by
    subst s5
    split
    · exact State.teardown_keep h4' _
    · split
      · exact State.dropPitch_keep h4' _
      · exact h4'
  clear_value s5
  have h6 : Keep κ σ s6 := Keep.foldl h5 _ (fun u r hu => State.drainCqs_keep (State.finishDesc_keep hu _ _ _ _ _ _) _)
  clear_value s6
  have h8 : Keep κ σ s8 := by
    subst s8
    split
    · exact State.modPitch_keep h6 _ _
    · exact State.eventMsg_keep (State.modPitch_keep h6 _ _) _
  clear_value s8
  have h9 : Keep κ σ s9 := by
    refine Keep.foldl h8 _ (fun u v hu => ?_)
    split
    · exact State.sendMsi_keep (State.modMsi_keep hu _ _ _) _ _
    · exact hu
  clear_value s9
  apply State.wakeFront_keep
  split
  · exact State.releaseUnits_keep h9 _
  · exact h9

theorem execPitchRestoreDone_keep {κ : Prop} {σ τ : State} (hστ : Keep κ σ τ) (p : PitchId) :
    KeepRes κ σ (execPitchRestoreDone p τ) := by
  unfold execPitchRestoreDone
  repeat' (first | with_reducible assumption | with_reducible apply State.resetEnd_keep | with_reducible apply State.restoreUnits_keep | with_reducible apply State.modPitch_keep | with_reducible apply KeepRes.next | split | intro _ _ _ | intro _ _ | intro _ | with_reducible refine Keep.of ?_)

theorem State.pitchOff_keep {κ : Prop} {σ τ : State} (hστ : Keep κ σ τ) (p : Nat) :
    Keep κ σ (State.pitchOff τ p) := by
  unfold State.pitchOff
  repeat' (first | with_reducible assumption | with_reducible apply State.teardown_keep | with_reducible apply State.resetBegin_keep | with_reducible apply State.modPitch_keep | with_reducible apply State.setFld_keep | split | intro _ _ _ | intro _ _ | intro _ | with_reducible refine Keep.of ?_)

theorem State.pitchOn_keep {κ : Prop} {σ τ : State} (hστ : Keep κ σ τ) (p : Nat) :
    Keep κ σ (State.pitchOn τ p) := by
  unfold State.pitchOn
  repeat' (first | with_reducible assumption | with_reducible apply State.teardown_keep | with_reducible apply State.resetBegin_keep | with_reducible apply State.postError_keep | with_reducible apply State.modPitch_keep | with_reducible apply State.setFld_keep | split | intro _ _ _ | intro _ _ | intro _ | with_reducible refine Keep.of ?_)

theorem State.pcfgWrite_keep {κ : Prop} {σ τ : State} (hστ : Keep κ σ τ) (p : Nat) (v : Nat) :
    Keep κ σ (State.pcfgWrite τ p v) := by
  unfold State.pcfgWrite
  repeat' (first | with_reducible assumption | with_reducible apply State.pitchOn_keep | with_reducible apply State.pitchOff_keep | with_reducible apply State.installerWrite_keep | with_reducible apply State.setRaw_keep | split | intro _ _ _ | intro _ _ | intro _)

theorem execPitchEnable_keep {κ : Prop} {σ τ : State} (hστ : Keep κ σ τ) (p : PitchId) (v : W64) :
    KeepRes κ σ (execPitchEnable p v τ) := by
  unfold execPitchEnable
  repeat' (first | with_reducible assumption | with_reducible apply State.pcfgWrite_keep | with_reducible apply State.settleHost_keep | with_reducible apply KeepRes.next)

theorem execPitchDisable_keep {κ : Prop} {σ τ : State} (hστ : Keep κ σ τ) (p : PitchId) :
    KeepRes κ σ (execPitchDisable p τ) := by
  unfold execPitchDisable
  repeat' (first | with_reducible assumption | with_reducible apply State.pcfgWrite_keep | with_reducible apply State.settleHost_keep | with_reducible apply KeepRes.next)

theorem State.prstWrite_keep {κ : Prop} {σ τ : State} (hστ : Keep κ σ τ) (p : Nat) (cmd : Nat) :
    Keep κ σ (State.prstWrite τ p cmd) := by
  unfold State.prstWrite
  repeat' (first | with_reducible assumption | with_reducible apply State.resetRequest_keep | with_reducible apply State.installerWrite_keep | intro _ _ _ | intro _ _ | intro _)

theorem execPrstWarmCmd_keep {κ : Prop} {σ τ : State} (hστ : Keep κ σ τ) (p : PitchId) :
    KeepRes κ σ (execPrstWarmCmd p τ) := by
  unfold execPrstWarmCmd
  repeat' (first | with_reducible assumption | with_reducible apply State.prstWrite_keep | with_reducible apply State.settleHost_keep | with_reducible apply KeepRes.next)

theorem execPrstScrubCmd_keep {κ : Prop} {σ τ : State} (hστ : Keep κ σ τ) (p : PitchId) :
    KeepRes κ σ (execPrstScrubCmd p τ) := by
  unfold execPrstScrubCmd
  repeat' (first | with_reducible assumption | with_reducible apply State.prstWrite_keep | with_reducible apply State.settleHost_keep | with_reducible apply KeepRes.next)

theorem State.fnReset_keep {κ : Prop} {σ τ : State} (hστ : Keep κ σ τ) (fn : Nat) (cause : Nat) :
    Keep κ σ (State.fnReset τ fn cause) := by
  unfold State.fnReset
  repeat' (first | with_reducible assumption | with_reducible apply State.resetFn_keep | with_reducible apply State.resetRequest_keep | split | with_reducible refine Keep.of ?_)

theorem State.vfCut_keep {κ : Prop} {σ τ : State} (hστ : Keep κ σ τ) (n : Nat) :
    Keep κ σ (State.vfCut τ n) := by
  unfold State.vfCut
  repeat' (first | with_reducible assumption | with_reducible apply State.fnReset_keep | with_reducible apply Keep.foldl | intro _ _ _ | intro _ _ | intro _ | with_reducible refine Keep.of ?_)

theorem execFunctionLevelReset_keep {κ : Prop} {σ τ : State} (hστ : Keep κ σ τ) (fn : FnId) :
    KeepRes κ σ (execFunctionLevelReset fn τ) := by
  unfold execFunctionLevelReset
  repeat' (first | with_reducible assumption | with_reducible apply State.vfCut_keep | with_reducible apply State.fnReset_keep | with_reducible apply State.resetFn_keep | with_reducible apply State.dropQueue_keep | with_reducible apply State.resetRequest_keep | with_reducible apply State.auditReset_keep | with_reducible apply Keep.foldl | with_reducible apply KeepRes.next | split | intro _ _ _ | intro _ _ | intro _ | with_reducible refine Keep.of ?_)

theorem execVfDisable_keep {κ : Prop} {σ τ : State} (hστ : Keep κ σ τ) (n : Nat) :
    KeepRes κ σ (execVfDisable n τ) := by
  unfold execVfDisable
  repeat' (first | with_reducible assumption | with_reducible apply State.vfCut_keep | with_reducible apply KeepRes.next)

theorem execMsixHoldExpiry_keep {κ : Prop} {σ τ : State} (hστ : Keep κ σ τ) (fn : FnId) (v : VectorId) :
    KeepRes κ σ (execMsixHoldExpiry fn v τ) := by
  unfold execMsixHoldExpiry
  repeat' (first | with_reducible assumption | with_reducible apply State.sendMsi_keep | with_reducible apply State.afterNow_keep | with_reducible apply KeepRes.next | split)

theorem State.unmask_keep {κ : Prop} {σ τ : State} (hστ : Keep κ σ τ) (fn : Nat) (v : Nat) :
    Keep κ σ (State.unmask τ fn v) := by
  unfold State.unmask
  repeat' (first | with_reducible assumption | with_reducible apply State.modMsi_keep | with_reducible apply State.emit_keep | split | intro _ _ _ | intro _ _ | intro _ | with_reducible refine Keep.of ?_)

theorem execMsixUnmask_keep {κ : Prop} {σ τ : State} (hστ : Keep κ σ τ) (fn : FnId) (v : VectorId) :
    KeepRes κ σ (execMsixUnmask fn v τ) := by
  unfold execMsixUnmask
  repeat' (first | with_reducible assumption | with_reducible apply State.unmask_keep | with_reducible apply State.settleHost_keep | with_reducible apply KeepRes.next | split)

/-! ### SetUp -/

theorem State.xlatWrite_keep {κ : Prop} {σ τ : State} (hστ : Keep κ σ τ) (p v : Nat) : Keep κ σ (τ.xlatWrite p v) := by
  unfold State.xlatWrite
  refine State.installerWrite_keep hστ _ _ _ _ _ _ (fun u hu => ?_)
  have h := State.setRaw_keep hu 0 (offXlat p) (bits v 63 21 * 2 ^ 21)
  exact Keep.ite (Keep.withTlb h _) h

theorem execXlatInval_keep {κ : Prop} {σ τ : State} (hστ : Keep κ σ τ) (p : PitchId) (v : W64) :
    KeepRes κ σ (execXlatInval p v τ) := by
  unfold execXlatInval
  repeat' (first | with_reducible assumption | with_reducible apply State.xlatWrite_keep | with_reducible apply State.settleHost_keep | with_reducible apply KeepRes.next)

theorem State.csresWrite_keep {κ : Prop} {σ τ : State} (hστ : Keep κ σ τ) (v : Nat) :
    Keep κ σ (State.csresWrite τ v) := by
  unfold State.csresWrite
  repeat' (first | with_reducible assumption | with_reducible apply State.quietWrite_keep | with_reducible apply State.setRaw_keep | intro _ _ _ | intro _ _ | intro _)

theorem execCsresWrite_keep {κ : Prop} {σ τ : State} (hστ : Keep κ σ τ) (v : W64) :
    KeepRes κ σ (execCsresWrite v τ) := by
  unfold execCsresWrite
  repeat' (first | with_reducible assumption | with_reducible apply State.csresWrite_keep | with_reducible apply State.settleHost_keep | with_reducible apply KeepRes.next)

theorem State.csMove_keep {κ : Prop} {σ τ : State} (hστ : Keep κ σ τ) (n : Nat) (seal' : Bool) (en : Bool) :
    Keep κ σ (State.csMove τ n seal' en) := by
  unfold State.csMove
  repeat' (first | with_reducible assumption | with_reducible apply State.modRegion_keep | split | intro _ _ _ | intro _ _ | intro _ | with_reducible refine Keep.of ?_)

theorem State.csAsk_keep {κ : Prop} {σ τ : State} (hστ : Keep κ σ τ) (n : Nat) (seal' : Bool) (en : Bool) :
    Keep κ σ (State.csAsk τ n seal' en) := by
  unfold State.csAsk
  repeat' (first | with_reducible assumption | with_reducible apply State.csMove_keep | with_reducible apply State.modRegion_keep | split | intro _ _ _ | intro _ _ | intro _ | with_reducible refine Keep.of ?_)

theorem State.csLift_keep {κ : Prop} {σ τ : State} (hστ : Keep κ σ τ) (n : Nat) :
    Keep κ σ (State.csLift τ n) := by
  unfold State.csLift
  repeat' (first | with_reducible assumption | with_reducible apply State.modRegion_keep | with_reducible apply State.postError_keep | split | intro _ _ _ | intro _ _ | intro _ | with_reducible refine Keep.of ?_)

theorem State.csWrite_keep {κ : Prop} {σ τ : State} (hστ : Keep κ σ τ) (n : Nat) (v : Nat) :
    Keep κ σ (State.csWrite τ n v) := by
  unfold State.csWrite
  repeat' (first | with_reducible assumption | with_reducible apply State.csLift_keep | with_reducible apply State.csAsk_keep | with_reducible apply State.installerWrite_keep | with_reducible apply State.setRaw_keep | split | intro _ _ _ | intro _ _ | intro _)

theorem execCsEnable_keep {κ : Prop} {σ τ : State} (hστ : Keep κ σ τ) (n : RegionId) (v : W64) :
    KeepRes κ σ (execCsEnable n v τ) := by
  unfold execCsEnable
  repeat' (first | with_reducible assumption | with_reducible apply State.csWrite_keep | with_reducible apply State.settleHost_keep | with_reducible apply KeepRes.next)

theorem execCsSeal_keep {κ : Prop} {σ τ : State} (hστ : Keep κ σ τ) (n : RegionId) (on : Bool) :
    KeepRes κ σ (execCsSeal n on τ) := by
  unfold execCsSeal
  repeat' (first | with_reducible assumption | with_reducible apply State.csWrite_keep | with_reducible apply State.settleHost_keep | with_reducible apply KeepRes.next)

theorem execLift_keep {κ : Prop} {σ τ : State} (hστ : Keep κ σ τ) (n : RegionId) :
    KeepRes κ σ (execLift n τ) := by
  unfold execLift
  repeat' (first | with_reducible assumption | with_reducible apply State.csWrite_keep | with_reducible apply State.settleHost_keep | with_reducible apply KeepRes.next)

theorem execCsStateDeferred_keep {κ : Prop} {σ τ : State} (hστ : Keep κ σ τ) (n : RegionId) :
    KeepRes κ σ (execCsStateDeferred n τ) := by
  unfold execCsStateDeferred
  repeat' (first | with_reducible assumption | with_reducible apply State.csMove_keep | with_reducible apply KeepRes.next | split | with_reducible refine Keep.of ?_)

theorem State.winForce_keep {κ : Prop} {σ τ : State} (hστ : Keep κ σ τ) (n : Nat) :
    Keep κ σ (State.winForce τ n) := by
  unfold State.winForce
  repeat' (first | with_reducible assumption | with_reducible apply State.wakeStall_keep | with_reducible apply State.setFld_keep | split)

theorem State.winWrite_keep {κ : Prop} {σ τ : State} (hστ : Keep κ σ τ) (n : Nat) (v : Nat) :
    Keep κ σ (State.winWrite τ n v) := by
  unfold State.winWrite
  repeat' (first | with_reducible assumption | with_reducible apply State.winForce_keep | with_reducible apply State.installerWrite_keep | with_reducible apply State.setRaw_keep | split | intro _ _ _ | intro _ _ | intro _)

theorem execBaywinOpen_keep {κ : Prop} {σ τ : State} (hστ : Keep κ σ τ) (n : WinId) (v : W64) :
    KeepRes κ σ (execBaywinOpen n v τ) := by
  unfold execBaywinOpen
  repeat' (first | with_reducible assumption | with_reducible apply State.winWrite_keep | with_reducible apply State.settleHost_keep | with_reducible apply KeepRes.next)

theorem execBaywinClose_keep {κ : Prop} {σ τ : State} (hστ : Keep κ σ τ) (n : WinId) :
    KeepRes κ σ (execBaywinClose n τ) := by
  unfold execBaywinClose
  repeat' (first | with_reducible assumption | with_reducible apply State.winWrite_keep | with_reducible apply State.settleHost_keep | with_reducible apply KeepRes.next)

theorem execWindowForce_keep {κ : Prop} {σ τ : State} (hστ : Keep κ σ τ) (n : WinId) :
    KeepRes κ σ (execWindowForce n τ) := by
  unfold execWindowForce
  repeat' (first | with_reducible assumption | with_reducible apply State.winForce_keep | with_reducible apply KeepRes.next)

theorem execBayCorrectedRewrite_keep {κ : Prop} {σ τ : State} (hστ : Keep κ σ τ) (n : Nat) :
    KeepRes κ σ (execBayCorrectedRewrite n τ) := by
  unfold execBayCorrectedRewrite
  repeat' (first | with_reducible assumption | with_reducible apply KeepRes.next | split | with_reducible refine Keep.of ?_ | with_reducible refine Keep.ofTabs ?_ ⟨rfl, rfl, rfl⟩ (fun h => by (try dsimp only); first | exact h | exact Tab.wf_clearRange h _ _ | exact Tab.wf_set h _ _ | exact Tab.wf_setRange h _ _ | exact Tab.wf_filter h _ | exact Tab.wf_nil _) (fun h => by (try dsimp only); first | exact h | exact Tab.wf_clearRange h _ _ | exact Tab.wf_set h _ _ | exact Tab.wf_setRange h _ _ | exact Tab.wf_filter h _ | exact Tab.wf_nil _) (fun h => by (try dsimp only); first | exact h | exact Tab.wf_clearRange h _ _ | exact Tab.wf_set h _ _ | exact Tab.wf_setRange h _ _ | exact Tab.wf_filter h _ | exact Tab.wf_nil _) (fun h => by (try dsimp only); first | exact h | exact Tab.rising_filter h _ | rfl) (by simp) (fun _ => ⟨rfl, rfl⟩) ⟨Nat.le_refl _, Nat.le_refl _⟩ (fun _ => Nat.le_refl _) | intro _ _ _ | intro _ | dsimp -zeta only | (extract_lets +onlyGivenNames w; first | (refine (fun (hw : Keep κ σ w) => ?_) ?_; clear_value w; rotate_left; subst w; rotate_left) | (refine (fun (hw : Keep κ σ w.1) => ?_) ?_; clear_value w; rotate_left; subst w; rotate_left) | skip) | dsimp only | dsimp +zetaDelta only)

end Sys2Proof.Machine
end

