-- ==== Sys2Proof/Laws/KeepFrontEnd.lean ====
section
/-! SUPPORT. `Keep` of the front end, BAR4 and descriptors: one lemma for each operation and meaning. -/

namespace Sys2Proof.Machine

set_option Elab.async false
set_option linter.all false

/-! ### FrontEnd -/

theorem State.modFe_keep {κ : Prop} {σ τ : State} (hστ : Keep κ σ τ) (f : FrontEnd → FrontEnd) :
    Keep κ σ (State.modFe τ f) := by
  unfold State.modFe
  repeat' (first | with_reducible assumption | with_reducible refine Keep.of ?_)

theorem State.freeSlot_keep {κ : Prop} {σ τ : State} (hστ : Keep κ σ τ) (n : Nat) :
    Keep κ σ (State.freeSlot τ n) := by
  unfold State.freeSlot
  repeat' (first | with_reducible assumption | with_reducible apply State.modSlot_keep | intro _ _ _ | intro _ _ | intro _ | with_reducible refine Keep.of ?_)

theorem State.tidy_keep {κ : Prop} {σ τ : State} (hστ : Keep κ σ τ)  :
    Keep κ σ (State.tidy τ) := by
  unfold State.tidy
  repeat' (first | with_reducible assumption | with_reducible apply State.freeSlot_keep | with_reducible apply State.modFe_keep | with_reducible apply Keep.foldl | split | intro _ _ _ | intro _ _ | intro _ | with_reducible refine Keep.of ?_)

theorem State.reside_keep {κ : Prop} {σ τ : State} (hστ : Keep κ σ τ) (n : Nat) (q : Nat) (p : Nat) :
    Keep κ σ (State.reside τ n q p) := by
  unfold State.reside
  repeat' (first | with_reducible assumption | with_reducible apply State.tidy_keep | with_reducible apply State.afterNow_keep | with_reducible apply State.modSlot_keep | intro _ _ _ | intro _ _ | intro _ | with_reducible refine Keep.of ?_)

theorem execSlotAssign_keep {κ : Prop} {σ τ : State} (hστ : Keep κ σ τ) (n : SlotId) (q : QueueId) :
    KeepRes κ σ (execSlotAssign n q τ) := by
  unfold execSlotAssign
  repeat' (first | with_reducible assumption | with_reducible apply State.reside_keep | with_reducible apply State.tidy_keep | with_reducible apply State.freeSlot_keep | with_reducible apply KeepRes.next | split | intro _ _ _ | intro _ _ | intro _ | with_reducible refine Keep.of ?_)

theorem State.onTimer_keep {κ : Prop} {σ τ : State} (hστ : Keep κ σ τ) (due : Bool) {go : State} (hgo : Keep κ σ go) : Keep κ σ (τ.onTimer due go) := by
  unfold State.onTimer
  repeat' (first | with_reducible assumption | with_reducible apply State.wakeFront_keep | split)

theorem execBlockedSlotRelease_keep {κ : Prop} {σ τ : State} (hστ : Keep κ σ τ) (n : SlotId) : KeepRes κ σ (execBlockedSlotRelease n τ) := by
  unfold execBlockedSlotRelease
  exact KeepRes.next (State.onTimer_keep hστ _ (State.tidy_keep (State.freeSlot_keep (State.tidy_keep hστ) _)))

theorem execSliceExpiry_keep {κ : Prop} {σ τ : State} (hστ : Keep κ σ τ) (n : SlotId) : KeepRes κ σ (execSliceExpiry n τ) := by
  unfold execSliceExpiry
  extract_lets +onlyGivenNames s0 x
  have h0 : Keep κ σ s0 := State.tidy_keep hστ
  clear_value s0 x
  refine KeepRes.next ?_
  split
  · exact hστ
  · extract_lets +onlyGivenNames span
    clear_value span
    refine State.onTimer_keep hστ _ ?_
    split
    · exact State.tidy_keep (State.freeSlot_keep (State.afterNow_keep h0) _)
    · exact State.modSlot_keep (State.afterNow_keep h0) _ _

theorem State.issueReads_keep {κ : Prop} {σ τ : State} (hστ : Keep κ σ τ)  :
    Keep κ σ (State.issueReads τ) := by
  unfold State.issueReads
  repeat' (first | with_reducible assumption | with_reducible apply State.modFe_keep | split | intro _ _ _ | intro _ _ | intro _ | with_reducible refine Keep.of ?_)

theorem State.closeQueue_keep {κ : Prop} {σ τ : State} (hστ : Keep κ σ τ) (q : Nat) :
    Keep κ σ (State.closeQueue τ q) := by
  unfold State.closeQueue
  repeat' (first | with_reducible assumption | with_reducible apply State.aqOff_keep | with_reducible apply State.dropQueue_keep | with_reducible apply State.writeBlock_keep | with_reducible apply State.finishDesc_keep | with_reducible apply State.modQueue_keep | with_reducible apply State.setFld_keep | split | intro _ _ _ | intro _ _ | intro _ | with_reducible refine Keep.of ?_)

theorem State.mirTidy_keep {κ : Prop} {σ τ : State} (hστ : Keep κ σ τ)  :
    Keep κ σ (State.mirTidy τ) := by
  unfold State.mirTidy
  repeat' (first | with_reducible assumption | with_reducible apply State.setFld_keep | with_reducible apply Keep.foldl | split | intro _ _ _ | intro _ _ | intro _ | with_reducible refine Keep.of ?_)

theorem State.feDone_keep {κ : Prop} {σ τ : State} (hστ : Keep κ σ τ)  :
    Keep κ σ (State.feDone τ) := by
  unfold State.feDone
  repeat' (first | with_reducible assumption | with_reducible apply State.mirTidy_keep | with_reducible apply State.closeQueue_keep | with_reducible apply State.issueReads_keep | with_reducible apply State.tidy_keep | with_reducible apply State.pairShow_keep | with_reducible apply Keep.foldl | intro _ _ _ | intro _ _ | intro _)

theorem execBellWrite_keep {κ : Prop} {σ τ : State} (hστ : Keep κ σ τ) (fn : FnId) (off : Nat) (size : Nat) (data : BitVec 32) :
    KeepRes κ σ (execBellWrite fn off size data τ) := by
  unfold execBellWrite
  repeat' (first | with_reducible assumption | with_reducible apply State.issueReads_keep | with_reducible apply State.modFe_keep | with_reducible apply State.settleHost_keep | with_reducible apply State.setFld_keep | with_reducible apply KeepRes.next | split | intro _ _ _ | intro _ _ | intro _ | with_reducible refine Keep.of ?_)

theorem execCallerStart_keep {κ : Prop} {σ τ : State} (hστ : Keep κ σ τ)  :
    KeepRes κ σ (execCallerStart τ) := by
  unfold execCallerStart
  repeat' (first | with_reducible assumption | with_reducible apply State.feDone_keep | with_reducible apply State.modFe_keep | with_reducible apply KeepRes.next | split | intro _ _ _ | intro _ _ | intro _ | with_reducible refine Keep.of ?_)

theorem State.noteNew_keep {κ : Prop} {σ τ : State} (hστ : Keep κ σ τ) (g : Nat) :
    Keep κ σ (State.noteNew τ g) := by
  unfold State.noteNew
  repeat' (first | with_reducible assumption | with_reducible apply State.modFe_keep | with_reducible apply State.afterNow_keep | intro _ _ _ | intro _ _ | intro _ | with_reducible refine Keep.of ?_)

theorem State.stopSq_keep {κ : Prop} {σ τ : State} (hστ : Keep κ σ τ) (q : Nat) :
    Keep κ σ (State.stopSq τ q) := by
  unfold State.stopSq
  repeat' (first | with_reducible assumption | with_reducible apply State.modQueue_keep | intro _ _ _ | intro _ _ | intro _ | with_reducible refine Keep.of ?_)

theorem State.doorbellError_keep {κ : Prop} {σ τ : State} (hστ : Keep κ σ τ) (q : Nat) (fn : Nat) :
    Keep κ σ (State.doorbellError τ q fn) := by
  unfold State.doorbellError
  repeat' (first | with_reducible assumption | with_reducible apply State.postError_keep)

theorem State.stopBound_keep {κ : Prop} {σ τ : State} (hστ : Keep κ σ τ) (q : Nat) (x : Queue) :
    Keep κ σ (State.stopBound τ q x) := by
  unfold State.stopBound
  repeat' (first | with_reducible assumption | with_reducible apply State.stopSq_keep | with_reducible apply State.finishDesc_keep | with_reducible apply Keep.foldl | split | intro _ _ _ | intro _ _ | intro _)

theorem State.stopCq_keep {κ : Prop} {σ τ : State} (hστ : Keep κ σ τ) (q : Nat) :
    Keep κ σ (State.stopCq τ q) := by
  unfold State.stopCq
  repeat' (first | with_reducible assumption | with_reducible apply State.stopBound_keep | with_reducible apply State.doorbellError_keep | with_reducible apply State.descDone_keep | with_reducible apply State.modQueue_keep | with_reducible apply Keep.foldl | split | intro _ _ _ | intro _ _ | intro _ | with_reducible refine Keep.of ?_)

theorem State.scanEntry_keep {κ : Prop} {σ τ : State} (hστ : Keep κ σ τ) (q : Nat) (e : W64) :
    Keep κ σ (State.scanEntry τ q e) := by
  unfold State.scanEntry
  repeat' (first | with_reducible assumption | with_reducible apply State.stopCq_keep | with_reducible apply State.doorbellError_keep | with_reducible apply State.stopSq_keep | with_reducible apply State.noteNew_keep | with_reducible apply State.modQueue_keep | split | intro _ _ _ | intro _ _ | intro _ | with_reducible refine Keep.of ?_)

theorem State.scanGroup_keep {κ : Prop} {σ τ : State} (hστ : Keep κ σ τ) (g : Nat) (es : List W64) :
    Keep κ σ (State.scanGroup τ g es) := by
  unfold State.scanGroup
  repeat' (first | with_reducible assumption | with_reducible apply State.scanEntry_keep | with_reducible apply Keep.foldl | intro _ _ _ | intro _ _ | intro _)

theorem State.scanReturn_keep {κ : Prop} {σ τ : State} (hστ : Keep κ σ τ) (g : GroupId) (entries : List W64) :
    Keep κ σ (State.scanReturn τ g entries) := by
  unfold State.scanReturn
  repeat' (first | with_reducible assumption | with_reducible apply State.scanGroup_keep | with_reducible apply State.feDone_keep | with_reducible apply State.modFe_keep | with_reducible apply State.hostAsk_keep | split | intro _ _ _ | intro _ _ | intro _ | with_reducible refine Keep.of ?_)

theorem execDoorbellScan_keep {κ : Prop} {σ τ : State} (hστ : Keep κ σ τ) (g : GroupId) (entries : List W64) :
    KeepRes κ σ (execDoorbellScan g entries τ) := by
  unfold execDoorbellScan
  repeat' (first | with_reducible assumption | with_reducible apply State.scanReturn_keep | with_reducible apply KeepRes.next)

theorem execGroupRescan_keep {κ : Prop} {σ τ : State} (hστ : Keep κ σ τ) (g : GroupId) (entries : List W64) :
    KeepRes κ σ (execGroupRescan g entries τ) := by
  unfold execGroupRescan
  repeat' (first | with_reducible assumption | with_reducible apply State.scanGroup_keep | with_reducible apply State.feDone_keep | with_reducible apply State.modFe_keep | with_reducible apply State.hostAsk_keep | with_reducible apply KeepRes.next | split | intro _ _ _ | intro _ _ | intro _ | with_reducible refine Keep.of ?_)

theorem execFrontEndIdleCheck_keep {κ : Prop} {σ τ : State} (hστ : Keep κ σ τ)  :
    KeepRes κ σ (execFrontEndIdleCheck τ) := by
  unfold execFrontEndIdleCheck
  repeat' (first | with_reducible assumption | with_reducible apply State.feDone_keep | with_reducible apply State.modFe_keep | with_reducible apply KeepRes.next | split | intro _ _ _ | intro _ _ | intro _ | with_reducible refine Keep.of ?_)

theorem State.accept_keep {κ : Prop} {σ τ : State} (hστ : Keep κ σ τ) (q : Nat) (bs : List (List Byte)) : Keep κ σ (τ.accept q bs) := by
  induction bs generalizing τ with
  | nil => exact hστ
  | cons b bs ih =>
    unfold State.accept
    dsimp only
    split
    · exact hστ
    · split
      · exact hστ
      · split
        · exact State.modQueue_keep hστ _ _
        · exact ih (State.postDbk_keep (State.modQueue_keep hστ _ _) _ _ _ _ _)

theorem State.fetchReturn_keep {κ : Prop} {σ τ : State} (hστ : Keep κ σ τ) (q : QueueId) (slots : List (List Byte)) :
    Keep κ σ (State.fetchReturn τ q slots) := by
  unfold State.fetchReturn
  repeat' (first | with_reducible assumption | with_reducible apply State.accept_keep | with_reducible apply State.noteNew_keep | with_reducible apply State.feDone_keep | with_reducible apply State.hostAsk_keep | with_reducible apply State.modQueue_keep | split | intro _ _ _ | intro _ _ | intro _ | with_reducible refine Keep.of ?_)

theorem execDescriptorFetch_keep {κ : Prop} {σ τ : State} (hστ : Keep κ σ τ) (q : QueueId) (slots : List (List Byte)) :
    KeepRes κ σ (execDescriptorFetch q slots τ) := by
  unfold execDescriptorFetch
  repeat' (first | with_reducible assumption | with_reducible apply State.fetchReturn_keep | with_reducible apply KeepRes.next)

theorem execCqDoorbellPoll_keep {κ : Prop} {σ τ : State} (hστ : Keep κ σ τ) (q : QueueId) (entry : W64) :
    KeepRes κ σ (execCqDoorbellPoll q entry τ) := by
  unfold execCqDoorbellPoll
  repeat' (first | with_reducible assumption | with_reducible apply State.scanEntry_keep | with_reducible apply State.feDone_keep | with_reducible apply State.hostAsk_keep | with_reducible apply KeepRes.next | split | with_reducible refine Keep.of ?_)

theorem execCompletionRecordWrite_keep {κ : Prop} {σ τ : State} (hστ : Keep κ σ τ) (q : QueueId) :
    KeepRes κ σ (execCompletionRecordWrite q τ) := by
  unfold execCompletionRecordWrite
  repeat' (first | with_reducible assumption | with_reducible apply State.feDone_keep | with_reducible apply State.writeRecord_keep | with_reducible apply KeepRes.next | split)

theorem execStatusBlockWrite_keep {κ : Prop} {σ τ : State} (hστ : Keep κ σ τ) (k : BlockId) :
    KeepRes κ σ (execStatusBlockWrite k τ) := by
  unfold execStatusBlockWrite
  repeat' (first | with_reducible assumption | with_reducible apply State.writeBlock_keep | with_reducible apply State.writePsb_keep | with_reducible apply State.pairShow_keep | with_reducible apply KeepRes.next | split | with_reducible refine Keep.of ?_)

theorem execWatermarkRefresh_keep {κ : Prop} {σ τ : State} (hστ : Keep κ σ τ) (p : PitchId) :
    KeepRes κ σ (execWatermarkRefresh p τ) := by
  unfold execWatermarkRefresh
  repeat' (first | with_reducible assumption | with_reducible apply State.writePsb_keep | with_reducible apply State.pairShow_keep | with_reducible apply KeepRes.next | split)

/-! ### Bar4 -/

theorem State.countWin_keep {κ : Prop} {σ τ : State} (hστ : Keep κ σ τ) (fn : Nat) :
    Keep κ σ (State.countWin τ fn) := by
  unfold State.countWin
  repeat' (first | with_reducible assumption | with_reducible apply State.setFld_keep)

theorem State.hostDenied_keep {κ : Prop} {σ τ : State} (hστ : Keep κ σ τ) (fn : Nat) (p : Nat) (x : Xl) :
    Keep κ σ (State.hostDenied τ fn p x) := by
  unfold State.hostDenied
  repeat' (first | with_reducible assumption | with_reducible apply State.countWin_keep | with_reducible apply State.tablePoison_keep | split | with_reducible refine Keep.of ?_)

theorem State.hostPut_keep {κ : Prop} {σ τ : State} (hστ : Keep κ σ τ) (fn : Nat) (p : Nat) (phys : Bool) (a : Nat) (bs : List Byte) (poison : Bool) :
    Keep κ σ (State.hostPut τ fn p phys a bs poison) := by
  unfold State.hostPut
  repeat' (first | with_reducible assumption | with_reducible apply State.hostDenied_keep | with_reducible apply State.csWrite_keep | with_reducible apply State.hostWrite_keep | with_reducible apply State.tickSerial_keep | exact fun _ h => h | split | with_reducible refine Keep.of ?_)

theorem State.hostGet_keep {κ : Prop} {σ τ : State} (hστ : Keep κ σ τ) (fn p : Nat) (phys : Bool) (a n : Nat) : Keep κ σ (τ.hostGet fn p phys a n).1 := by
  unfold State.hostGet
  split
  · dsimp only
    split
    · exact hστ
    · exact hστ
  · exact State.hostDenied_keep hστ _ _ _

theorem execBar4Write_keep {κ : Prop} {σ τ : State} (hστ : Keep κ σ τ) (fn : FnId) (off : Nat) (bytes : List Byte) (poison : Bool) :
    KeepRes κ σ (execBar4Write fn off bytes poison τ) := by
  unfold execBar4Write
  repeat' (first | with_reducible assumption | with_reducible apply State.hostPut_keep | with_reducible apply State.countWin_keep | with_reducible apply Keep.foldl | with_reducible apply KeepRes.next | with_reducible apply Keep.foldlFst | split | with_reducible refine Keep.of ?_ | intro _ _ _ | intro _ _ | intro _ | dsimp only)

theorem execBar4Read_keep {κ : Prop} {σ τ : State} (hστ : Keep κ σ τ) (fn : FnId) (off : Nat) (n : Nat) :
    KeepRes κ σ (execBar4Read fn off n τ) := by
  unfold execBar4Read
  repeat' (first | with_reducible assumption | with_reducible apply State.hostGet_keep | with_reducible apply State.countWin_keep | with_reducible apply State.settleHost_keep | with_reducible apply State.emit_keep | with_reducible apply Keep.foldl | with_reducible apply KeepRes.next | with_reducible apply Keep.foldlFst | split | with_reducible refine Keep.of ?_ | intro _ _ _ | intro _ _ | intro _ | dsimp only)

/-! ### Tables -/

theorem State.slotPut_keep {κ : Prop} {σ τ : State} (hστ : Keep κ σ τ) (p : Nat) (i : Nat) (off : Nat) (bs : List Byte) :
    Keep κ σ (State.slotPut τ p i off bs) := by
  unfold State.slotPut
  repeat' (first | with_reducible assumption | with_reducible apply State.writeDev_keep)

theorem State.slotFree_keep {κ : Prop} {σ τ : State} (hστ : Keep κ σ τ) (p : Nat) (i : Nat) :
    Keep κ σ (State.slotFree τ p i) := by
  unfold State.slotFree
  repeat' (first | with_reducible assumption | with_reducible apply State.slotPut_keep)

theorem State.slotTake_keep {κ : Prop} {σ τ : State} (hστ : Keep κ σ τ) (p : Nat) (i : Nat) :
    Keep κ σ (State.slotTake τ p i) := by
  unfold State.slotTake
  repeat' (first | with_reducible assumption | with_reducible apply State.slotPut_keep)

theorem State.slotDrop_keep {κ : Prop} {σ τ : State} (hστ : Keep κ σ τ) (p : Nat) (i : Nat) :
    Keep κ σ (State.slotDrop τ p i) := by
  unfold State.slotDrop
  repeat' (first | with_reducible assumption | with_reducible apply State.slotFree_keep | with_reducible apply State.slotPut_keep | split | dsimp only)

theorem State.addUse_keep {κ : Prop} {σ τ : State} (hστ : Keep κ σ τ) (u : EntUse) :
    Keep κ σ (State.addUse τ u) := by
  unfold State.addUse
  repeat' (first | with_reducible assumption | with_reducible refine Keep.of ?_)

theorem State.endUse_keep {κ : Prop} {σ τ : State} (hστ : Keep κ σ τ) (u : EntUse) :
    Keep κ σ (State.endUse τ u) := by
  unfold State.endUse
  repeat' (first | with_reducible assumption | with_reducible apply State.slotDrop_keep | with_reducible apply State.slotFree_keep | split | with_reducible refine Keep.of ?_)

theorem State.endUses_keep {κ : Prop} {σ τ : State} (hστ : Keep κ σ τ) (l : Nat) (st : Nat) :
    Keep κ σ (State.endUses τ l st) := by
  unfold State.endUses
  repeat' (first | with_reducible assumption | with_reducible apply State.endUse_keep | with_reducible apply Keep.foldl | intro _ _ _ | intro _ _ | intro _)

theorem State.slotBuild_keep {κ : Prop} {σ τ : State} (hστ : Keep κ σ τ) (p : Nat) (i : Nat) (id : Nat) (gen : Nat) :
    Keep κ σ (State.slotBuild τ p i id gen) := by
  unfold State.slotBuild
  repeat' (first | with_reducible assumption | with_reducible apply State.slotPut_keep | with_reducible apply State.writeDev_keep | exact fun _ h => h)

theorem State.slotFinish_keep {κ : Prop} {σ τ : State} (hστ : Keep κ σ τ) (p : Nat) (i : Nat) (lens : List Nat) :
    Keep κ σ (State.slotFinish τ p i lens) := by
  unfold State.slotFinish
  repeat' (first | with_reducible assumption | with_reducible apply State.slotPut_keep | with_reducible apply State.afterNow_keep | intro _ _ _ | intro _ _ | intro _)

theorem State.slotRelease_keep {κ : Prop} {σ τ : State} (hστ : Keep κ σ τ) (p : Nat) (id : Nat) (gen : Nat) :
    Keep κ σ (State.slotRelease τ p id gen).1 := by
  unfold State.slotRelease
  repeat' (first | with_reducible assumption | with_reducible apply State.slotFree_keep | with_reducible apply State.slotPut_keep | exact fun _ h => h | split | with_reducible refine Keep.of ?_)

/-! ### Xfers -/

theorem State.modXfer_keep {κ : Prop} {σ τ : State} (hστ : Keep κ σ τ) (st : Nat) (ch : Nat) (serial : Nat) (f : Xfer → Xfer) :
    Keep κ σ (State.modXfer τ st ch serial f) := by
  unfold State.modXfer
  repeat' (first | with_reducible assumption | with_reducible apply State.modChan_keep | split | intro _ _ _ | intro _ _ | intro _ | with_reducible refine Keep.of ?_)

theorem State.xferErr_keep {κ : Prop} {σ τ : State} (hστ : Keep κ σ τ) (st : Nat) (ch : Nat) (x : Xfer) (e : XErr) :
    Keep κ σ (State.xferErr τ st ch x e) := by
  unfold State.xferErr
  repeat' (first | with_reducible assumption | with_reducible apply State.rdErr_keep | with_reducible apply State.failRec_keep)

theorem State.xferDone_keep {κ : Prop} {σ τ : State} (hστ : Keep κ σ τ) (st : Nat) (ch : Nat) (x : Xfer) (bytes : Nat) :
    Keep κ σ (State.xferDone τ st ch x bytes) := by
  unfold State.xferDone
  repeat' (first | with_reducible assumption | with_reducible apply State.portRec_keep | with_reducible apply State.modLaunch_keep | with_reducible apply State.modChan_keep | split | intro _ _ _ | intro _ _ | intro _ | with_reducible refine Keep.of ?_)

theorem State.xferMoved_keep {κ : Prop} {σ τ : State} (hστ : Keep κ σ τ) (st : Nat) (ch : Nat) (x : Xfer) (bytes : Nat) :
    Keep κ σ (State.xferMoved τ st ch x bytes) := by
  unfold State.xferMoved
  repeat' (first | with_reducible assumption | with_reducible apply State.xferDone_keep | with_reducible apply State.modXfer_keep | split | intro _ _ _ | intro _ _ | intro _ | with_reducible refine Keep.of ?_)

theorem State.onRows_keep {κ : Prop} {σ τ : State} (hστ : Keep κ σ τ) (st ch : Nat) (x : Xfer) {go : State} (hgo : Keep κ σ go) : Keep κ σ (τ.onRows st ch x go) := by
  unfold State.onRows
  repeat' (first | with_reducible assumption | with_reducible apply State.xferErr_keep | split)

theorem State.xferFetch_got {κ : Prop} {σ τ : State} (hστ : Keep κ σ τ) {st : Nat} {x : Xfer} {d : TDesc} {host : List Byte} {ups : List (Nat × BitVec 39)} {u : State} {w : XData}
    (hu : τ.xferFetch st x d host ups = .got u w) : Keep κ σ u := by
  unfold State.xferFetch at hu
  try dsimp only at hu
  repeat' (first | contradiction | (cases hu; done) | split at hu)
  all_goals (first | contradiction | (injection hu with h1 h2; subst h1))
  all_goals repeat' (first | with_reducible assumption | with_reducible apply State.bayRuns_keep | with_reducible apply State.upset_keep)

theorem State.xferFetch_err {κ : Prop} {σ τ : State} (hστ : Keep κ σ τ) {st : Nat} {x : Xfer} {d : TDesc} {host : List Byte} {ups : List (Nat × BitVec 39)} {u : State} {e : XErr}
    (hu : τ.xferFetch st x d host ups = .err u e) : Keep κ σ u := by
  unfold State.xferFetch at hu
  try dsimp only at hu
  repeat' (first | contradiction | (cases hu; done) | split at hu)
  all_goals (first | contradiction | (injection hu with h1 h2; subst h1; exact hστ))

theorem State.xferStore_ok {κ : Prop} {σ τ : State} (hστ : Keep κ σ τ) {st : Nat} {x : Xfer} {d : TDesc} {data : XData} {u : State}
    (hu : τ.xferStore st x d data = .ok u) : Keep κ σ u := by
  unfold State.xferStore at hu
  try dsimp only at hu
  repeat' (first | contradiction | (cases hu; done) | split at hu)
  all_goals (first | contradiction | (injection hu with hu; subst hu))
  all_goals repeat' (first | with_reducible assumption | with_reducible apply Keep.foldl | with_reducible apply State.devStore_keep | with_reducible apply State.devStoreFb_keep | with_reducible apply State.hostWrite_keep | with_reducible apply State.digestHost_keep | with_reducible apply State.bayStoreRuns_keep | with_reducible apply State.putSeg_keep | with_reducible apply State.bayWrites_keep | intro _ _ _ | split)

theorem State.segsStore_ok {κ : Prop} {σ τ : State} (hστ : Keep κ σ τ) {st : Nat} {x : Xfer} {d : TDesc} {u : State}
    (hu : τ.segsStore st x d = .ok u) : Keep κ σ u := by
  unfold State.segsStore at hu
  try dsimp only at hu
  repeat' (first | contradiction | (cases hu; done) | split at hu)
  all_goals (first | contradiction | (injection hu with hu; subst hu))
  all_goals repeat' (first | with_reducible assumption | with_reducible apply Keep.foldl | with_reducible apply State.devStore_keep | with_reducible apply State.devStoreFb_keep | with_reducible apply State.hostWrite_keep | with_reducible apply State.digestHost_keep | with_reducible apply State.bayStoreRuns_keep | with_reducible apply State.putSeg_keep | with_reducible apply State.bayWrites_keep | intro _ _ _ | split)

theorem State.partStore_ok {κ : Prop} {σ τ : State} (hστ : Keep κ σ τ) {st : Nat} {x : Xfer} {l : Launch} {a d : TDesc} {k : Nat} {u : State × Nat}
    (hu : τ.partStore st x l a d k = .ok u) : Keep κ σ u.1 := by
  unfold State.partStore at hu
  extract_lets +onlyGivenNames runs at hu
  clear_value runs
  split at hu
  · injection hu with hu; subst hu; exact hστ
  · split at hu
    · split at hu
      · injection hu with hu; subst hu; exact hστ
      · split at hu
        · cases hs : τ.segsStore st { x with pairs := x.pairs.filter (fun q => decide (q.1 < k)) } d with
          | error e => rw [hs] at hu; cases hu
          | ok v => rw [hs] at hu; injection hu with hu; subst hu; exact State.segsStore_ok hστ hs
        · split at hu
          · cases hu
          · injection hu with hu; subst hu
            exact Keep.foldl hστ _ (fun u y h => State.devStore_keep h _ _ _ _ _)
    · injection hu with hu; subst hu
      exact State.bayStoreRuns_keep hστ _ _ _

theorem State.pairFail_keep {κ : Prop} {σ τ : State} (hστ : Keep κ σ τ) (st ch : Nat) (x : Xfer) (l : Launch) (a d : TDesc) (e : XErr) : Keep κ σ (τ.pairFail st ch x l a d e) := by
  unfold State.pairFail
  extract_lets +onlyGivenNames n
  split
  · rename_i h
    exact State.xferErr_keep (State.partStore_ok (State.afterAny_keep hστ) h) _ _ _ _
  · exact State.xferErr_keep hστ _ _ _ _

/-! ### Walk -/

theorem execPageWalkHeaderRead_keep {κ : Prop} {σ τ : State} (hστ : Keep κ σ τ) (st : StallId) (ch : ChanId) :
    KeepRes κ σ (execPageWalkHeaderRead st ch τ) := by
  unfold execPageWalkHeaderRead
  repeat' (first | with_reducible assumption | with_reducible apply State.xferErr_keep | with_reducible apply State.modXfer_keep | with_reducible apply State.badProgram_keep | with_reducible apply KeepRes.next | split | intro _ _ _ | intro _ _ | intro _ | with_reducible refine Keep.of ?_)

theorem execScaleFrameCheck_keep {κ : Prop} {σ τ : State} (hστ : Keep κ σ τ) (st : StallId) (ch : ChanId) :
    KeepRes κ σ (execScaleFrameCheck st ch τ) := by
  unfold execScaleFrameCheck
  repeat' (first | with_reducible assumption | with_reducible apply State.xferErr_keep | with_reducible apply State.modXfer_keep | with_reducible apply KeepRes.next | split | intro _ _ _ | intro _ _ | intro _ | with_reducible refine Keep.of ?_)

theorem State.walkPair_keep {κ : Prop} {σ τ : State} (hστ : Keep κ σ τ) (st : Nat) (ch : Nat) :
    Keep κ σ (State.walkPair τ st ch) := by
  unfold State.walkPair
  repeat' (first | with_reducible assumption | with_reducible apply State.xferErr_keep | with_reducible apply State.modXfer_keep | with_reducible apply State.rdPoison_keep | with_reducible apply State.portRec_keep | split | intro _ _ _ | intro _ _ | intro _ | with_reducible refine Keep.of ?_)

theorem execPageWalkEpochRead_keep {κ : Prop} {σ τ : State} (hστ : Keep κ σ τ) (st : StallId) (ch : ChanId) :
    KeepRes κ σ (execPageWalkEpochRead st ch τ) := by
  unfold execPageWalkEpochRead
  repeat' (first | with_reducible assumption | with_reducible apply State.xferErr_keep | with_reducible apply State.modXfer_keep | with_reducible apply KeepRes.next | split | intro _ _ _ | intro _ _ | intro _ | with_reducible refine Keep.of ?_)

/-! ### Descriptors -/

theorem State.startDesc_keep {κ : Prop} {σ τ : State} (hστ : Keep κ σ τ) (q : Nat) (h : W32) :
    Keep κ σ (State.startDesc τ q h) := by
  unfold State.startDesc
  repeat' (first | with_reducible assumption | with_reducible apply State.modSlot_keep | with_reducible apply State.modQueue_keep | split | intro _ _ _ | intro _ _ | intro _ | with_reducible refine Keep.of ?_)

theorem State.endHead_keep {κ : Prop} {σ τ : State} (hστ : Keep κ σ τ) (q : Nat) (h : W32) (st : Status) (info : W64) :
    Keep κ σ (State.endHead τ q h st info) := by
  unfold State.endHead
  repeat' (first | with_reducible assumption | with_reducible apply State.startDesc_keep | with_reducible apply State.finishDesc_keep)

theorem State.auditDesc_keep {κ : Prop} {σ τ : State} (hστ : Keep κ σ τ) (q : Nat) (d : Desc) (pitch : Option Nat) (st : Status) :
    Keep κ σ (State.auditDesc τ q d pitch st) := by
  unfold State.auditDesc
  repeat' (first | with_reducible assumption | with_reducible apply State.audit_keep | split)

theorem State.headRow_keep {κ : Prop} {σ τ : State} (hστ : Keep κ σ τ) (q op : Nat) (act : State → Queue → Desc → State)
    (hact : ∀ (x0 : State) (x1 : Queue) (x2 : Desc), Keep κ σ x0 → Keep κ σ (act x0 x1 x2)) : Keep κ σ (State.headRow τ q op act) := by
  unfold State.headRow
  split
  · exact hστ
  · split
    · refine State.feDone_keep (State.endHead_keep ?_ _ _ _ _)
      split
      · exact State.auditDesc_keep hστ _ _ _ _
      · exact hστ
    · split
      · exact State.feDone_keep (hact _ _ _ hστ)
      · exact hστ

theorem State.startRow_keep {κ : Prop} {σ τ : State} (hστ : Keep κ σ τ) (q : Nat) (op : Nat) (act : State → Queue → Desc → State) (hact : ∀ (x0 : State) (x1 : Queue) (x2 : Desc), Keep κ σ x0 → Keep κ σ (act x0 x1 x2)) :
    Keep κ σ (State.startRow τ q op act) := by
  unfold State.startRow
  repeat' (first | with_reducible assumption | apply hact | with_reducible apply State.headRow_keep | split | intro _ _ _ | intro _ _ | intro _)

theorem State.descRd_keep {κ : Prop} {σ τ : State} (hστ : Keep κ σ τ) (q : Nat) (h : W32) (p : Nat) (r : Rd) :
    Keep κ σ (State.descRd τ q h p r) := by
  unfold State.descRd
  repeat' (first | with_reducible assumption | with_reducible apply State.endHead_keep | with_reducible apply State.tablePoison_keep | with_reducible apply State.malformed_keep | split | with_reducible refine Keep.of ?_)

theorem execDescNop_keep {κ : Prop} {σ τ : State} (hστ : Keep κ σ τ) (q : QueueId) :
    KeepRes κ σ (execDescNop q τ) := by
  unfold execDescNop
  repeat' (first | with_reducible assumption | with_reducible apply State.startRow_keep | with_reducible apply State.endHead_keep | with_reducible apply KeepRes.next | intro _ _ _ | intro _ _ | intro _)

theorem execLaunch_keep {κ : Prop} {σ τ : State} (hστ : Keep κ σ τ) (q : QueueId) :
    KeepRes κ σ (execLaunch q τ) := by
  unfold execLaunch
  repeat' (first | with_reducible assumption | with_reducible apply State.startRow_keep | with_reducible apply State.endHead_keep | with_reducible apply State.afterNow_keep | with_reducible apply State.modQueue_keep | with_reducible apply KeepRes.next | split | intro _ _ _ | intro _ _ | intro _ | with_reducible refine Keep.of ?_)

theorem State.launchOn_keep {κ : Prop} {σ τ : State} (hστ : Keep κ σ τ) (l : Nat) (mask : BitVec 48) (param : W64) (seed : W64) (entry : Nat) (shape : Nat) (st : Nat) (lo : Nat) (n : Nat) :
    Keep κ σ (State.launchOn τ l mask param seed entry shape st lo n) := by
  unfold State.launchOn
  repeat' (first | with_reducible assumption | with_reducible apply State.modStall_keep | split | intro _ _ _ | intro _ _ | intro _ | with_reducible refine Keep.of ?_)

theorem State.placeLaunch_keep {κ : Prop} {σ τ : State} (hστ : Keep κ σ τ) (p : Nat) (q : Nat) (d : Desc) (entry : Nat) (len : Nat) :
    Keep κ σ (State.placeLaunch τ p q d entry len) := by
  unfold State.placeLaunch
  repeat' (first | with_reducible assumption | with_reducible apply State.launchOn_keep | with_reducible apply State.startDesc_keep | with_reducible apply State.wakeStall_keep | with_reducible apply State.digest_keep | with_reducible apply State.pairCopy_keep | with_reducible apply State.postDbk_keep | with_reducible apply State.afterNow_keep | with_reducible apply State.modPitch_keep | with_reducible apply State.modQueue_keep | with_reducible apply Keep.foldl | split | intro _ _ _ | intro _ _ | intro _ | with_reducible refine Keep.of ?_)

theorem State.tryPlace_keep {κ : Prop} {σ τ : State} (hστ : Keep κ σ τ) (p : Nat) (q : Nat) (d : Desc) :
    Keep κ σ (State.tryPlace τ p q d) := by
  unfold State.tryPlace
  repeat' (first | with_reducible assumption | with_reducible apply State.placeLaunch_keep | with_reducible apply State.descRd_keep | with_reducible apply State.endHead_keep | with_reducible apply State.badProgram_keep | split | with_reducible refine Keep.of ?_)

theorem State.readPhdr_keep {κ : Prop} {σ τ : State} (hστ : Keep κ σ τ) (p : Nat) (q : Nat) (d : Desc) :
    Keep κ σ (State.readPhdr τ p q d) := by
  unfold State.readPhdr
  repeat' (first | with_reducible assumption | with_reducible apply State.tryPlace_keep | with_reducible apply State.descRd_keep | with_reducible apply State.endHead_keep | with_reducible apply State.startDesc_keep | with_reducible apply State.finishDesc_keep | with_reducible apply State.modQueue_keep | split | intro _ _ _ | intro _ _ | intro _ | with_reducible refine Keep.of ?_)

theorem execLaunchPlace_keep {κ : Prop} {σ τ : State} (hστ : Keep κ σ τ) (q : QueueId) :
    KeepRes κ σ (execLaunchPlace q τ) := by
  unfold execLaunchPlace
  repeat' (first | with_reducible assumption | with_reducible apply State.readPhdr_keep | with_reducible apply State.tryPlace_keep | with_reducible apply State.startRow_keep | with_reducible apply KeepRes.next | split | intro _ _ _ | intro _ _ | intro _ | with_reducible refine Keep.of ?_)

theorem State.postCycle_keep {κ : Prop} {σ τ : State} (hστ : Keep κ σ τ) (p : Nat) (members : List Nat) :
    Keep κ σ (State.postCycle τ p members) := by
  unfold State.postCycle
  repeat' (first | with_reducible assumption | with_reducible apply State.postEvent_keep | with_reducible apply State.modPitch_keep | with_reducible apply Keep.foldl | intro _ _ _ | intro _ _ | intro _ | with_reducible refine Keep.of ?_)

theorem State.blockWait_keep {κ : Prop} {σ τ : State} (hστ : Keep κ σ τ) (p : Nat) (q : Nat) (d : Desc) :
    Keep κ σ (State.blockWait τ p q d) := by
  unfold State.blockWait
  repeat' (first | with_reducible assumption | with_reducible apply State.postCycle_keep | with_reducible apply State.modQueue_keep | split | intro _ _ _ | intro _ _ | intro _ | with_reducible refine Keep.of ?_)

theorem execWait_keep {κ : Prop} {σ τ : State} (hστ : Keep κ σ τ) (q : QueueId) :
    KeepRes κ σ (execWait q τ) := by
  unfold execWait
  repeat' (first | with_reducible assumption | with_reducible apply State.blockWait_keep | with_reducible apply State.headRow_keep | with_reducible apply State.endHead_keep | with_reducible apply KeepRes.next | split | intro _ _ _ | intro _ _ | intro _ | with_reducible refine Keep.of ?_)

theorem execSignal_keep {κ : Prop} {σ τ : State} (hστ : Keep κ σ τ) (q : QueueId) :
    KeepRes κ σ (execSignal q τ) := by
  unfold execSignal
  repeat' (first | with_reducible assumption | with_reducible apply State.headRow_keep | with_reducible apply State.endHead_keep | with_reducible apply State.startDesc_keep | with_reducible apply State.fenceRefused_keep | with_reducible apply KeepRes.next | split | intro _ _ _ | intro _ _ | intro _ | with_reducible refine Keep.of ?_)

theorem execSignalWriteVisible_keep {κ : Prop} {σ τ : State} (hστ : Keep κ σ τ) (n : FenceId) :
    KeepRes κ σ (execSignalWriteVisible n τ) := by
  unfold execSignalWriteVisible
  repeat' (first | with_reducible assumption | with_reducible apply State.feDone_keep | with_reducible apply State.signalDone_keep | with_reducible apply State.pairTell_keep | with_reducible apply State.modPair_keep | with_reducible apply KeepRes.next | split | intro _ _ _ | intro _ _ | intro _ | with_reducible refine Keep.of ?_)

theorem Edit.run_keep {κ : Prop} {σ : State} {e : Edit} (he : Keep κ σ e.s) {f : Edit → Edit}
    (hf : Keep κ σ e.s → Keep κ σ (f e).s) : Keep κ σ (e.run f).s := by
  unfold Edit.run
  split
  · exact he
  · exact hf he

theorem Edit.put_keep {κ : Prop} {σ : State} {e : Edit} (he : Keep κ σ e.s) (p a : Nat) (bs : List Byte) : Keep κ σ (e.put p a bs).s := by
  unfold Edit.put
  split
  · exact State.writeDev_keep he _ _ _ _ _ _ _
  · exact he
  · exact he

theorem Edit.count_keep {κ : Prop} {σ : State} {e : Edit} (he : Keep κ σ e.s) (p : Nat) (scale : Bool) (frame : Nat) (delta : Int) :
    Keep κ σ (Edit.count p scale frame delta e).s := by
  unfold Edit.count
  dsimp only
  repeat' (first | with_reducible assumption | with_reducible apply State.postError_keep | with_reducible apply State.writeDev_keep | with_reducible apply State.bufferLine_keep | with_reducible apply State.reclaim_keep | split | dsimp only)

theorem Edit.counts_keep {κ : Prop} {σ : State} {e : Edit} (he : Keep κ σ e.s) (p entry : Nat) (delta : Int) :
    Keep κ σ (Edit.counts p entry delta e).s :=
  Edit.run_keep (Edit.run_keep he (fun h => Edit.count_keep h _ _ _ _)) (fun h => Edit.count_keep h _ _ _ _)

theorem State.pageEdit_keep {κ : Prop} {σ τ : State} (hστ : Keep κ σ τ) (p lst : Nat) (h : List Byte) (rs : List EditRec) (valid : Option Nat) :
    Keep κ σ (τ.pageEdit p lst h rs valid).s := by
  unfold State.pageEdit
  extract_lets at' e2 e3 e4 change e5
  have h2 : Keep κ σ e2.s := Keep.foldlVia (g := Edit.s) hστ _ (fun u x hu => Edit.counts_keep hu _ _ _)
  have h3 : Keep κ σ e3.1.s := by
    refine Keep.foldlVia (g := fun (a : Edit × List Nat) => a.1.s) h2 _ (fun u x hu => ?_)
    split
    · exact hu
    · split
      · split
        · exact hu
        · exact Edit.put_keep hu _ _ _
      · exact hu
  have h4 : Keep κ σ e4.s := by
    subst e4
    split
    · exact Edit.run_keep h3 (fun h => Edit.put_keep h _ _ _)
    · exact h3
  have h5 : Keep κ σ e5.s := by
    subst e5
    split
    · refine Edit.run_keep h4 (fun h => ?_)
      split
      · exact Edit.put_keep h _ _ _
      · exact h
    · exact h4
  refine Keep.foldlVia (g := Edit.s) h5 _ (fun u x hu => ?_)
  split
  · exact Edit.counts_keep hu _ _ _
  · exact hu

theorem execPageEdit_keep {κ : Prop} {σ τ : State} (hστ : Keep κ σ τ) (q : QueueId) :
    KeepRes κ σ (execPageEdit q τ) := by
  unfold execPageEdit
  repeat' (first | with_reducible assumption | with_reducible apply State.pageEdit_keep | with_reducible apply State.descRd_keep | with_reducible apply State.startRow_keep | with_reducible apply State.endHead_keep | with_reducible apply State.tablePoison_keep | with_reducible apply State.malformed_keep | with_reducible apply KeepRes.next | split | intro _ _ _ | intro _ _ | intro _ | with_reducible refine Keep.of ?_)

theorem execTableRelease_keep {κ : Prop} {σ τ : State} (hστ : Keep κ σ τ) (q : QueueId) :
    KeepRes κ σ (execTableRelease q τ) := by
  unfold execTableRelease
  repeat' (first | with_reducible assumption | with_reducible apply State.startRow_keep | with_reducible apply State.endHead_keep | with_reducible apply State.slotRelease_keep | with_reducible apply KeepRes.next | split | intro _ _ _ | intro _ _ | intro _ | with_reducible refine Keep.of ?_)

theorem State.makeQueue_keep {κ : Prop} {σ τ : State} (hστ : Keep κ σ τ) (q : Nat) (x : Queue) (first : W32) :
    Keep κ σ (State.makeQueue τ q x first) := by
  unfold State.makeQueue
  repeat' (first | with_reducible assumption | with_reducible apply Edit.put_keep | with_reducible apply State.writeBlock_keep | with_reducible refine Keep.of ?_)

theorem execQueueCreate_keep {κ : Prop} {σ τ : State} (hστ : Keep κ σ τ) (q : QueueId) :
    KeepRes κ σ (execQueueCreate q τ) := by
  unfold execQueueCreate
  repeat' (first | with_reducible assumption | with_reducible apply State.makeQueue_keep | with_reducible apply State.startRow_keep | with_reducible apply State.endHead_keep | with_reducible apply KeepRes.next | split | intro _ _ _ | intro _ _ | intro _ | with_reducible refine Keep.of ?_)

theorem State.killDesc_keep {κ : Prop} {σ τ : State} (hστ : Keep κ σ τ) (q : Nat) (h : W32) : Keep κ σ (τ.killDesc q h).1 := by
  unfold State.killDesc
  split
  · exact hστ
  · extract_lets +onlyGivenNames writing s1
    clear_value writing
    split
    · exact hστ
    · split
      · split
        · split
          · exact State.modLaunch_keep (State.pairCopy_keep hστ _) _ _
          · exact State.killLaunch_keep (State.pairCopy_keep hστ _) _
        · exact hστ
      · exact State.finishDesc_keep (Keep.of hστ ⟨rfl, rfl, rfl⟩ ⟨rfl, rfl⟩ rfl ⟨rfl, rfl, rfl, rfl⟩ rfl) _ _ _ _ _ _

theorem execQueueDelete_keep {κ : Prop} {σ τ : State} (hστ : Keep κ σ τ) (q : QueueId) :
    KeepRes κ σ (execQueueDelete q τ) := by
  unfold execQueueDelete
  repeat' (first | with_reducible assumption | with_reducible apply State.killDesc_keep | with_reducible apply State.startRow_keep | with_reducible apply State.endHead_keep | with_reducible apply State.startDesc_keep | with_reducible apply State.modQueue_keep | with_reducible apply Keep.foldl | with_reducible apply KeepRes.next | split | intro _ _ _ | intro _ _ | intro _ | with_reducible refine Keep.of ?_)

theorem execResume_keep {κ : Prop} {σ τ : State} (hστ : Keep κ σ τ) (q : QueueId) :
    KeepRes κ σ (execResume q τ) := by
  unfold execResume
  repeat' (first | with_reducible assumption | with_reducible apply State.startRow_keep | with_reducible apply State.endHead_keep | with_reducible apply State.modQueue_keep | with_reducible apply Keep.foldl | with_reducible apply KeepRes.next | split | intro _ _ _ | intro _ _ | intro _ | with_reducible refine Keep.of ?_)

theorem execResync_keep {κ : Prop} {σ τ : State} (hστ : Keep κ σ τ) (q : QueueId) (entries : List (Nat × W64)) :
    KeepRes κ σ (execResync q entries τ) := by
  unfold execResync
  repeat' (first | with_reducible assumption | with_reducible apply State.startRow_keep | with_reducible apply State.auditDesc_keep | with_reducible apply State.endHead_keep | with_reducible apply State.startDesc_keep | with_reducible apply State.scanEntry_keep | with_reducible apply State.writeBlock_keep | with_reducible apply State.writePsb_keep | with_reducible apply State.finishDesc_keep | with_reducible apply State.modQueue_keep | with_reducible apply Keep.foldl | with_reducible apply KeepRes.next | split | intro _ _ _ | intro _ _ | intro _ | with_reducible refine Keep.of ?_)

theorem execHostwin_keep {κ : Prop} {σ τ : State} (hστ : Keep κ σ τ) (q : QueueId) :
    KeepRes κ σ (execHostwin q τ) := by
  unfold execHostwin
  repeat' (first | with_reducible assumption | with_reducible apply Edit.put_keep | with_reducible apply State.startRow_keep | with_reducible apply State.endHead_keep | with_reducible apply State.modFe_keep | with_reducible apply KeepRes.next | split | intro _ _ _ | intro _ _ | intro _ | with_reducible refine Keep.of ?_)

theorem execKill_keep {κ : Prop} {σ τ : State} (hστ : Keep κ σ τ) (q : QueueId) :
    KeepRes κ σ (execKill q τ) := by
  unfold execKill
  repeat' (first | with_reducible assumption | with_reducible apply State.killDesc_keep | with_reducible apply State.startRow_keep | with_reducible apply State.auditDesc_keep | with_reducible apply State.endHead_keep | with_reducible apply State.startDesc_keep | with_reducible apply State.finishDesc_keep | with_reducible apply KeepRes.next | split | intro _ _ _ | intro _ _ | intro _ | with_reducible refine Keep.of ?_)

theorem execPitchReset_keep {κ : Prop} {σ τ : State} (hστ : Keep κ σ τ) (q : QueueId) :
    KeepRes κ σ (execPitchReset q τ) := by
  unfold execPitchReset
  repeat' (first | with_reducible assumption | with_reducible apply State.startRow_keep | with_reducible apply State.auditDesc_keep | with_reducible apply State.endHead_keep | with_reducible apply State.startDesc_keep | with_reducible apply State.resetRequest_keep | with_reducible apply State.auditReset_keep | with_reducible apply State.modPitch_keep | with_reducible apply KeepRes.next | split | intro _ _ _ | intro _ _ | intro _ | with_reducible refine Keep.of ?_)

end Sys2Proof.Machine
end

