-- ==== Sys2Proof/Laws/KeepLinks.lean ====
section
/-! SUPPORT. `Keep` of transfers between chips, function registers, time and links: one lemma for each operation and meaning. -/

namespace Sys2Proof.Machine

set_option Elab.async false
set_option linter.all false

/-! ### Send -/

theorem State.setCredits_keep {κ : Prop} {σ τ : State} (hστ : Keep κ σ τ) (p : Nat) (n : Nat) (l : List Nat) :
    Keep κ σ (State.setCredits τ p n l) := by
  unfold State.setCredits
  repeat' (first | with_reducible assumption | with_reducible apply State.modNet_keep | intro _ _ _ | intro _ _ | intro _ | with_reducible refine Keep.of ?_)

theorem State.setPosted_keep {κ : Prop} {σ τ : State} (hστ : Keep κ σ τ) (p : Nat) (m : Nat) (l : List Posted) :
    Keep κ σ (State.setPosted τ p m l) := by
  unfold State.setPosted
  repeat' (first | with_reducible assumption | with_reducible apply State.modNet_keep | intro _ _ _ | intro _ _ | intro _ | with_reducible refine Keep.of ?_)

theorem State.modColl_keep {κ : Prop} {σ τ : State} (hστ : Keep κ σ τ) (k : Nat) (f : Coll → Coll) :
    Keep κ σ (State.modColl τ k f) := by
  unfold State.modColl
  repeat' (first | with_reducible assumption | with_reducible apply State.modNet_keep | split | intro _ _ _ | intro _ _ | intro _ | with_reducible refine Keep.of ?_)

theorem State.openColl_got {κ : Prop} {σ τ : State} (hστ : Keep κ σ τ) {p : Nat} {csr : Option Nat} {addr : Nat} {u : State} {c : Coll}
    (hu : τ.openColl p csr addr = .got u c) : Keep κ σ u := by
  unfold State.openColl at hu
  try dsimp only at hu
  repeat' (first | contradiction | (cases hu; done) | split at hu)
  all_goals (first | contradiction | (injection hu with h1 h2; subst h1))
  all_goals repeat' (first | with_reducible assumption | with_reducible apply State.slowOpened_keep | with_reducible apply State.modNet_keep | with_reducible apply State.tickSerial_keep)

theorem State.sentRec_keep {κ : Prop} {σ τ : State} (hστ : Keep κ σ τ) (p : Nat) (st : Nat) (ch : Nat) (dest : Nat × Nat × Nat) (status : Status) (bytes : Nat) :
    Keep κ σ (State.sentRec τ p st ch dest status bytes) := by
  unfold State.sentRec
  repeat' (first | with_reducible assumption | with_reducible apply State.postDbk_keep | with_reducible apply State.afterStamp_keep | split)

theorem State.sendMsg_keep {κ : Prop} {σ τ : State} (hστ : Keep κ σ τ) (p : Nat) (st : Nat) (ch : Nat) (dest : Nat × Nat × Nat) (mtype : Nat) (job : Nat) (coll : Nat) (step : Nat) (arg : W64) (data : List Byte) :
    Keep κ σ (State.sendMsg τ p st ch dest mtype job coll step arg data).1 := by
  unfold State.sendMsg
  repeat' (first | with_reducible assumption | with_reducible apply State.sentRec_keep | with_reducible apply State.forward_keep | with_reducible apply State.modNet_keep | exact fun _ h => h | intro _ _ _ | intro _ _ | intro _ | with_reducible refine Keep.of ?_)

theorem State.begins_some {κ : Prop} {σ τ : State} (hστ : Keep κ σ τ) {st ch : Nat} {x : Xfer} {go : Option State} {u : State} (hu : τ.begins st ch x go = some u)
    (hgo : ∀ v, go = some v → Keep κ σ v) : Keep κ σ u := by
  unfold State.begins at hu
  split at hu
  · exact hgo u hu
  · cases hu
  · injection hu with hu; subst hu; exact State.xferErr_keep hστ _ _ _ _

theorem State.sendsBeside_keep {κ : Prop} {σ τ : State} (hστ : Keep κ σ τ) (st ch : Nat) (x : Xfer) (len : Nat) : Keep κ σ (τ.sendsBeside st ch x len) := by
  unfold State.sendsBeside
  extract_lets +onlyGivenNames s1
  have h1 : Keep κ σ s1 := State.modXfer_keep hστ _ _ _ _
  clear_value s1
  split
  · exact h1
  · extract_lets +onlyGivenNames s2
    have h2 : Keep κ σ s2 := State.modPair_keep h1 _
    clear_value s2
    split
    · exact State.modXfer_keep h2 _ _ _ _
    · exact State.xferErr_keep h2 _ _ _ _

theorem State.beginWin_keep {κ : Prop} {σ τ : State} (hστ : Keep κ σ τ) (p : Nat) (st : Nat) (ch : Nat) (x : Xfer) (d : TDesc) :
    Keep κ σ (State.beginWin τ p st ch x d) := by
  unfold State.beginWin
  repeat' (first | with_reducible assumption | with_reducible apply State.sendsBeside_keep | with_reducible apply State.sendMsg_keep | with_reducible apply State.sentRec_keep | with_reducible apply State.xferErr_keep | with_reducible apply State.modXfer_keep | with_reducible apply State.modNet_keep | split | intro _ _ _ | intro _ _ | intro _ | with_reducible refine Keep.of ?_)

theorem State.beginSend_some {κ : Prop} {σ τ : State} (hστ : Keep κ σ τ) {p st ch n : Nat} {x : Xfer} {d : TDesc} {job coll step : Nat} {u : State}
    (hu : τ.beginSend p st ch n x d job coll step = some u) : Keep κ σ u := by
  unfold State.beginSend at hu
  extract_lets +onlyGivenNames dest len at hu
  clear_value dest len
  split at hu
  · cases hu
  · split at hu
    · injection hu with hu; subst hu; exact State.xferErr_keep (State.sentRec_keep hστ _ _ _ _ _ _) _ _ _ _
    · split at hu
      · injection hu with hu; subst hu; exact State.xferErr_keep (State.sentRec_keep hστ _ _ _ _ _ _) _ _ _ _
      · refine State.begins_some hστ hu (fun v hv => ?_)
        split at hv
        · cases hv
        · rename_i h
          injection hv with hv; subst hv; exact State.xferErr_keep (State.xferFetch_err hστ h) _ _ _ _
        · rename_i s' data h
          have h1 := State.xferFetch_got hστ h
          split at hv
          · injection hv with hv; subst hv; exact State.xferErr_keep h1 _ _ _ _
          · extract_lets +onlyGivenNames bs s2 s3 r at hv
            have h2 : Keep κ σ s2 := State.digestMsg_keep h1 _ _ _ _
            have h3 : Keep κ σ s3 := State.setCredits_keep h2 _ _ _
            have hr : Keep κ σ r.1 := State.sendMsg_keep h3 _ _ _ _ _ _ _ _ _ _
            clear_value r s3 s2
            split at hv
            · injection hv with hv; subst hv; exact State.sendsBeside_keep h2 _ _ _ _
            · injection hv with hv; subst hv; exact State.modXfer_keep (State.modNet_keep hr _) _ _ _ _

theorem State.beginPost_some {κ : Prop} {σ τ : State} (hστ : Keep κ σ τ) {p st ch m : Nat} {x : Xfer} {d : TDesc} {coll : Option (Nat × Nat)} {u : State}
    (hu : τ.beginPost p st ch m x d coll = some u) : Keep κ σ u := by
  unfold State.beginPost at hu
  split at hu
  · injection hu with hu; subst hu; exact State.xferErr_keep hστ _ _ _ _
  · split at hu
    · cases hu
    · refine State.begins_some hστ hu (fun v hv => ?_)
      injection hv with hv; subst hv
      exact State.modXfer_keep (State.sendCredit_keep (State.setPosted_keep hστ _ _ _) _ _ _ _) _ _ _ _

theorem State.beginColl_some {κ : Prop} {σ τ : State} (hστ : Keep κ σ τ) {p st ch : Nat} {csr : Option Nat} {x : Xfer} {d : TDesc} {u : State}
    (hu : τ.beginColl p st ch csr x d = some u) : Keep κ σ u := by
  unfold State.beginColl at hu
  try dsimp only at hu
  repeat' (first | contradiction | (cases hu; done) | split at hu)
  all_goals (first | contradiction | (injection hu with hu; subst hu) | (rw [Option.map_eq_some_iff] at hu; obtain ⟨v, hv, rfl⟩ := hu))
  all_goals repeat' (first | with_reducible assumption | with_reducible apply State.modXfer_keep | with_reducible apply State.modNet_keep | with_reducible apply State.modColl_keep | with_reducible apply State.xferErr_keep | with_reducible apply State.sentRec_keep | with_reducible apply State.sendMsg_keep | with_reducible apply State.setCredits_keep | with_reducible apply State.digestMsg_keep | with_reducible apply State.setPosted_keep | with_reducible apply State.sendCredit_keep | with_reducible apply State.beginWin_keep | with_reducible refine State.xferFetch_got ?_ (by assumption) | with_reducible refine State.xferFetch_err ?_ (by assumption) | with_reducible refine State.openColl_got ?_ (by assumption) | split | with_reducible refine State.beginSend_some ?_ (by assumption) | with_reducible refine State.beginPost_some ?_ (by assumption))

theorem State.beginXfer_some {κ : Prop} {σ τ : State} (hστ : Keep κ σ τ) {st ch : Nat} {x : Xfer} {u : State} (hu : τ.beginXfer st ch x = some u) : Keep κ σ u := by
  unfold State.beginXfer at hu
  split at hu
  · cases hu
  · split at hu
    · cases hu
    · split at hu
      · exact State.beginColl_some hστ hu
      · split at hu
        · refine State.begins_some hστ hu (fun v hv => ?_)
          split at hv
          · injection hv with hv; subst hv; exact State.beginWin_keep hστ _ _ _ _ _
          · cases hv
        · split at hu
          · exact State.beginSend_some hστ hu
          · exact State.beginPost_some hστ hu

theorem State.pumpChan_keep {κ : Prop} {σ τ : State} (hστ : Keep κ σ τ) (n st ch : Nat) : Keep κ σ (State.pumpChan n st ch τ) := by
  induction n generalizing τ with
  | zero => exact hστ
  | succ n ih =>
    unfold State.pumpChan
    split
    · exact hστ
    · split
      · split
        · rename_i h; exact ih (State.beginXfer_some hστ h)
        · exact hστ
      · exact hστ

theorem State.pumpAll_keep {κ : Prop} {σ τ : State} (hστ : Keep κ σ τ)  :
    Keep κ σ (State.pumpAll τ) := by
  unfold State.pumpAll
  repeat' (first | with_reducible assumption | with_reducible apply State.pumpChan_keep | with_reducible apply Keep.foldl | split | intro _ _ _ | intro _ _ | intro _)

/-! ### FnRegs -/

theorem State.pkrEffect_keep {κ : Prop} {σ τ : State} (hστ : Keep κ σ τ) (p : Nat) (n : Nat) :
    Keep κ σ (State.pkrEffect τ p n) := by
  unfold State.pkrEffect
  repeat' (first | with_reducible assumption | with_reducible apply State.setFld_keep | split)

theorem State.tableEffect_keep {κ : Prop} {σ τ : State} (hστ : Keep κ σ τ) (p : Nat) : Keep κ σ (τ.tableEffect p) := by
  unfold State.tableEffect
  extract_lets fn s1 a
  have h1 : Keep κ σ s1 := State.setFld_keep hστ _ _ _ _ _
  clear_value s1
  generalize List.replicate 65536 (0 : Byte) = bs
  split
  · exact State.setFld_keep h1 _ _ _ _ _
  · split
    · exact State.writeDev_keep (State.setFld_keep h1 _ _ _ _ _) _ _ _ _ _ _ _
    · exact State.setFld_keep h1 _ _ _ _ _

theorem State.fctEffect_keep {κ : Prop} {σ τ : State} (hστ : Keep κ σ τ) (p : Nat) :
    Keep κ σ (State.fctEffect τ p) := by
  unfold State.fctEffect
  repeat' (first | with_reducible assumption | with_reducible apply State.setFld_keep)

theorem State.outboxOn_keep {κ : Prop} {σ τ : State} (hστ : Keep κ σ τ) (p : Nat) (n : Nat) :
    Keep κ σ (State.outboxOn τ p n) := by
  unfold State.outboxOn
  repeat' (first | with_reducible assumption | with_reducible apply State.setFld_keep | split)

theorem State.boxEffect_keep {κ : Prop} {σ τ : State} (hστ : Keep κ σ τ) (p : Nat) (inbox : Bool) (m : Nat) :
    Keep κ σ (State.boxEffect τ p inbox m) := by
  unfold State.boxEffect
  repeat' (first | with_reducible assumption | with_reducible apply State.outboxOn_keep | with_reducible apply State.setPosted_keep | with_reducible apply State.setCredits_keep | with_reducible apply State.setFld_keep | with_reducible apply Keep.foldl | with_reducible apply Keep.foldlFst | split | intro _ _ _ | intro _ _ | intro _ | dsimp only)

theorem State.aqCreate_keep {κ : Prop} {σ τ : State} (hστ : Keep κ σ τ) (fn : Nat) :
    Keep κ σ (State.aqCreate τ fn) := by
  unfold State.aqCreate
  repeat' (first | with_reducible assumption | with_reducible apply State.makeQueue_keep | with_reducible apply State.setFld_keep | intro _ _ _ | intro _ _ | intro _ | with_reducible refine Keep.of ?_)

theorem State.aqClose_keep {κ : Prop} {σ τ : State} (hστ : Keep κ σ τ) (fn : Nat) :
    Keep κ σ (State.aqClose τ fn) := by
  unfold State.aqClose
  repeat' (first | with_reducible assumption | with_reducible apply State.killDesc_keep | with_reducible apply State.feDone_keep | with_reducible apply State.modQueue_keep | with_reducible apply State.setFld_keep | with_reducible apply Keep.foldl | split | intro _ _ _ | intro _ _ | intro _ | with_reducible refine Keep.of ?_)

theorem State.fnEnable_keep {κ : Prop} {σ τ : State} (hστ : Keep κ σ τ) (fn off : Nat) (was : Bool) : Keep κ σ (τ.fnEnable fn off was) := by
  unfold State.fnEnable
  extract_lets now
  have haq : Keep κ σ (if now = true then (if τ.aqReady fn = true then τ.aqCreate fn else τ)
        else if τ.fld fn offAqCfg 1 1 = 1 then τ.aqClose fn else τ) := by
    repeat' (first | with_reducible assumption | with_reducible apply State.aqCreate_keep | with_reducible apply State.aqClose_keep | split)
  refine Keep.ite hστ ?_
  cases hp : τ.pitchOfFn fn with
  | none => exact Keep.ite haq hστ
  | some p =>
    · dsimp -zeta only
      extract_lets idle later
      have hl : ∀ f : State → State, Keep κ σ (f τ) → Keep κ σ (later f) := by
        intro f hf
        subst later
        dsimp only
        split
        · exact hf
        · exact State.setFld_keep hστ _ _ _ _ _
      clear_value later
      repeat' (first | with_reducible assumption | with_reducible apply hl | with_reducible apply State.writePsb_keep | with_reducible apply State.fctEffect_keep | with_reducible apply State.pkrEffect_keep | with_reducible apply State.tableEffect_keep | with_reducible apply State.setFld_keep | with_reducible apply State.boxEffect_keep | with_reducible apply Keep.ite | split | with_reducible refine Keep.of ?_ ⟨rfl, rfl, rfl⟩ ⟨rfl, rfl⟩ rfl ⟨rfl, rfl, rfl, rfl⟩ rfl)

theorem State.fnShow_keep {κ : Prop} {σ τ : State} (hστ : Keep κ σ τ) (fn : Nat) (i : Nat) (op : Nat) (owner : Option Nat) (done : Bool) :
    Keep κ σ (State.fnShow τ fn i op owner done) := by
  unfold State.fnShow
  repeat' (first | with_reducible assumption | with_reducible apply State.setRaw_keep | split)

theorem State.fenceOp_keep {κ : Prop} {σ τ : State} (hστ : Keep κ σ τ) (fn i op owner : Nat) : Keep κ σ (τ.fenceOp fn i op owner) := by
  unfold State.fenceOp
  split
  · exact hστ
  · rename_i p hp
    extract_lets +onlyGivenNames r refused
    have hr : Keep κ σ refused := State.fnShow_keep hστ _ _ _ _ _
    clear_value refused r
    split
    · exact hr
    · split
      · exact State.fnShow_keep hστ _ _ _ _ _
      · extract_lets +onlyGivenNames isSq s1
        have h1 : Keep κ σ s1 := State.writeDev_keep hστ _ _ _ _ _ _ _
        clear_value s1
        split
        · exact hr
        · exact State.fnShow_keep (Keep.of h1 ⟨rfl, rfl, rfl⟩ ⟨rfl, rfl⟩ rfl ⟨rfl, rfl, rfl, rfl⟩ rfl) _ _ _ _ _
      · extract_lets waited
        split
        · exact hr
        · exact State.fnShow_keep (Keep.of hστ ⟨rfl, rfl, rfl⟩ ⟨rfl, rfl⟩ rfl ⟨rfl, rfl, rfl, rfl⟩ rfl) _ _ _ _ _
      · exact hr

theorem State.msixWrite_keep {κ : Prop} {σ τ : State} (hστ : Keep κ σ τ) (fn : Nat) (off : Nat) (v : Nat) :
    Keep κ σ (State.msixWrite τ fn off v) := by
  unfold State.msixWrite
  repeat' (first | with_reducible assumption | with_reducible apply State.unmask_keep | with_reducible apply State.modMsi_keep | split | intro _ _ _ | intro _ _ | intro _ | with_reducible refine Keep.of ?_)

theorem State.fnStore_keep {κ : Prop} {σ τ : State} (hστ : Keep κ σ τ) (fn : Nat) (off : Nat) (v : Nat) :
    Keep κ σ (State.fnStore τ fn off v) := by
  unfold State.fnStore
  repeat' (first | with_reducible assumption | with_reducible apply State.fnEnable_keep | with_reducible apply State.setFld_keep | with_reducible apply State.setRaw_keep | split | dsimp only)

theorem State.fnApply_keep {κ : Prop} {σ τ : State} (hστ : Keep κ σ τ) (fn : Nat) (off : Nat) (v : Nat) :
    Keep κ σ (State.fnApply τ fn off v) := by
  unfold State.fnApply
  repeat' (first | with_reducible assumption | with_reducible apply State.fnStore_keep | with_reducible apply State.msixWrite_keep | with_reducible apply State.fenceOp_keep | split)

theorem State.fnWrite_keep {κ : Prop} {σ τ : State} (hστ : Keep κ σ τ) (fn : Nat) (off : Nat) (v : Nat) :
    Keep κ σ (State.fnWrite τ fn off v) := by
  unfold State.fnWrite
  repeat' (first | with_reducible assumption | with_reducible apply State.fnApply_keep | with_reducible apply State.fnStore_keep | with_reducible apply State.installerWrite_keep | with_reducible apply State.pairCopy_keep | split | intro _ _ _ | intro _ _ | intro _)

theorem State.fnDefine_keep {κ : Prop} {σ τ : State} (hστ : Keep κ σ τ) (fn : Nat) (i : Nat) (op : Nat) (owner : Nat) :
    Keep κ σ (State.fnDefine τ fn i op owner) := by
  unfold State.fnDefine
  repeat' (first | with_reducible assumption | with_reducible apply State.fnWrite_keep)

theorem execFenceQuery_keep {κ : Prop} {σ τ : State} (hστ : Keep κ σ τ) (fn : FnId) (i : FenceId) :
    KeepRes κ σ (execFenceQuery fn i τ) := by
  unfold execFenceQuery
  repeat' (first | with_reducible assumption | with_reducible apply State.fnDefine_keep | with_reducible apply State.settleHost_keep | with_reducible apply KeepRes.next)

theorem execFenceDefine_keep {κ : Prop} {σ τ : State} (hστ : Keep κ σ τ) (fn : FnId) (i : FenceId) (owner : QueueId) :
    KeepRes κ σ (execFenceDefine fn i owner τ) := by
  unfold execFenceDefine
  repeat' (first | with_reducible assumption | with_reducible apply State.fnDefine_keep | with_reducible apply State.settleHost_keep | with_reducible apply KeepRes.next)

theorem execFenceUndefine_keep {κ : Prop} {σ τ : State} (hστ : Keep κ σ τ) (fn : FnId) (i : FenceId) :
    KeepRes κ σ (execFenceUndefine fn i τ) := by
  unfold execFenceUndefine
  repeat' (first | with_reducible assumption | with_reducible apply State.fnDefine_keep | with_reducible apply State.settleHost_keep | with_reducible apply KeepRes.next)

theorem execAqEnable_keep {κ : Prop} {σ τ : State} (hστ : Keep κ σ τ) (fn : FnId) (v : W64) :
    KeepRes κ σ (execAqEnable fn v τ) := by
  unfold execAqEnable
  repeat' (first | with_reducible assumption | with_reducible apply State.fnWrite_keep | with_reducible apply State.settleHost_keep | with_reducible apply KeepRes.next | split)

theorem execAqDisable_keep {κ : Prop} {σ τ : State} (hστ : Keep κ σ τ) (fn : FnId) :
    KeepRes κ σ (execAqDisable fn τ) := by
  unfold execAqDisable
  repeat' (first | with_reducible assumption | with_reducible apply State.fnWrite_keep | with_reducible apply State.settleHost_keep | with_reducible apply KeepRes.next | split)

theorem execPsbEnable_keep {κ : Prop} {σ τ : State} (hστ : Keep κ σ τ) (fn : FnId) (v : W64) :
    KeepRes κ σ (execPsbEnable fn v τ) := by
  unfold execPsbEnable
  repeat' (first | with_reducible assumption | with_reducible apply State.fnWrite_keep | with_reducible apply State.settleHost_keep | with_reducible apply KeepRes.next | split)

theorem execDumpRelease_keep {κ : Prop} {σ τ : State} (hστ : Keep κ σ τ) (fn : FnId) :
    KeepRes κ σ (execDumpRelease fn τ) := by
  unfold execDumpRelease
  repeat' (first | with_reducible assumption | with_reducible apply State.fnWrite_keep | with_reducible apply State.settleHost_keep | with_reducible apply KeepRes.next | split)

theorem execPkrEnEffect_keep {κ : Prop} {σ τ : State} (hστ : Keep κ σ τ) (p : PitchId) (n : RegionId) :
    KeepRes κ σ (execPkrEnEffect p n τ) := by
  unfold execPkrEnEffect
  repeat' (first | with_reducible assumption | with_reducible apply State.pkrEffect_keep | with_reducible apply KeepRes.next | split)

theorem execTableAreaEnable_keep {κ : Prop} {σ τ : State} (hστ : Keep κ σ τ) (p : PitchId) :
    KeepRes κ σ (execTableAreaEnable p τ) := by
  unfold execTableAreaEnable
  repeat' (first | with_reducible assumption | with_reducible apply State.tableEffect_keep | with_reducible apply KeepRes.next | split)

theorem execFctEnEffect_keep {κ : Prop} {σ τ : State} (hστ : Keep κ σ τ) (p : PitchId) :
    KeepRes κ σ (execFctEnEffect p τ) := by
  unfold execFctEnEffect
  repeat' (first | with_reducible assumption | with_reducible apply State.fctEffect_keep | with_reducible apply KeepRes.next | split)

theorem execMailboxDisableEffect_keep {κ : Prop} {σ τ : State} (hστ : Keep κ σ τ) (p : PitchId) (inbox : Bool) (m : Fin 256) :
    KeepRes κ σ (execMailboxDisableEffect p inbox m τ) := by
  unfold execMailboxDisableEffect
  repeat' (first | with_reducible assumption | with_reducible apply State.boxEffect_keep | with_reducible apply KeepRes.next | split)

theorem State.dumpCfgWrite_keep {κ : Prop} {σ τ : State} (hστ : Keep κ σ τ) (v : Nat) :
    Keep κ σ (State.dumpCfgWrite τ v) := by
  unfold State.dumpCfgWrite
  repeat' (first | with_reducible assumption | with_reducible apply State.installerWrite_keep | with_reducible apply State.setFld_keep | with_reducible apply State.setRaw_keep | split | intro _ _ _ | intro _ _ | intro _)

theorem execStocktakeRelease_keep {κ : Prop} {σ τ : State} (hστ : Keep κ σ τ)  :
    KeepRes κ σ (execStocktakeRelease τ) := by
  unfold execStocktakeRelease
  repeat' (first | with_reducible assumption | with_reducible apply State.dumpCfgWrite_keep | with_reducible apply State.settleHost_keep | with_reducible apply KeepRes.next)

theorem State.badCount_keep {κ : Prop} {σ τ : State} (hστ : Keep κ σ τ) (src : Nat) (word : Nat) :
    Keep κ σ (State.badCount τ src word) := by
  unfold State.badCount
  repeat' (first | with_reducible assumption | with_reducible apply State.postError_keep)

theorem execDaybookHeadPoll_keep {κ : Prop} {σ τ : State} (hστ : Keep κ σ τ) (k : RingId) (count : W64) :
    KeepRes κ σ (execDaybookHeadPoll k count τ) := by
  unfold execDaybookHeadPoll
  repeat' (first | with_reducible assumption | with_reducible apply State.badCount_keep | with_reducible apply Edit.count_keep | with_reducible apply State.postDbk_keep | with_reducible apply State.hostAsk_keep | with_reducible apply KeepRes.next | split | with_reducible refine Keep.of ?_)

theorem execReclaimHeadPoll_keep {κ : Prop} {σ τ : State} (hστ : Keep κ σ τ) (p : PitchId) (count : W64) :
    KeepRes κ σ (execReclaimHeadPoll p count τ) := by
  unfold execReclaimHeadPoll
  repeat' (first | with_reducible assumption | with_reducible apply State.badCount_keep | with_reducible apply Edit.count_keep | with_reducible apply State.hostAsk_keep | with_reducible apply KeepRes.next | split | with_reducible refine Keep.of ?_)

/-! ### Time -/

theorem State.modClk_keep {κ : Prop} {σ τ : State} (hστ : Keep κ σ τ) (f : Clock → Clock) :
    Keep κ σ (State.modClk τ f) := by
  unfold State.modClk
  repeat' (first | with_reducible assumption | with_reducible refine Keep.of ?_)

theorem State.timeRecord_keep {κ : Prop} {σ τ : State} (hστ : Keep κ σ τ) (kind : Nat) :
    Keep κ σ (State.timeRecord τ kind) := by
  unfold State.timeRecord
  repeat' (first | with_reducible assumption | with_reducible apply State.postDbk_keep)

theorem State.setTime_keep {κ : Prop} {σ τ : State} (hστ : Keep κ σ τ) (v : W64) :
    Keep κ σ (State.setTime τ v) := by
  unfold State.setTime
  repeat' (first | with_reducible assumption | with_reducible apply State.modClk_keep | intro _ _ _ | intro _ _ | intro _ | with_reducible refine Keep.of ?_)

theorem State.applyLoad_keep {κ : Prop} {σ τ : State} (hστ : Keep κ σ τ)  :
    Keep κ σ (State.applyLoad τ) := by
  unfold State.applyLoad
  repeat' (first | with_reducible assumption | with_reducible apply State.setTime_keep | with_reducible apply State.timeRecord_keep | with_reducible apply State.modClk_keep | split | intro _ _ _ | intro _ _ | intro _ | with_reducible refine Keep.of ?_)

theorem State.timeLoad_keep {κ : Prop} {σ τ : State} (hστ : Keep κ σ τ) (v : W64) :
    Keep κ σ (State.timeLoad τ v) := by
  unfold State.timeLoad
  repeat' (first | with_reducible assumption | with_reducible apply State.modClk_keep | with_reducible apply State.installerWrite_keep | with_reducible apply State.postError_keep | split | intro _ _ _ | intro _ _ | intro _ | with_reducible refine Keep.of ?_)

theorem execTimeLoad_keep {κ : Prop} {σ τ : State} (hστ : Keep κ σ τ) (v : W64) :
    KeepRes κ σ (execTimeLoad v τ) := by
  unfold execTimeLoad
  repeat' (first | with_reducible assumption | with_reducible apply State.timeLoad_keep | with_reducible apply State.settleHost_keep | with_reducible apply KeepRes.next)

theorem State.alignStart_keep {κ : Prop} {σ τ : State} (hστ : Keep κ σ τ)  :
    Keep κ σ (State.alignStart τ) := by
  unfold State.alignStart
  repeat' (first | with_reducible assumption | with_reducible apply State.modClk_keep | split | intro _ _ _ | intro _ _ | intro _ | with_reducible refine Keep.of ?_)

theorem State.tsyncWrite_keep {κ : Prop} {σ τ : State} (hστ : Keep κ σ τ) (v : Nat) :
    Keep κ σ (State.tsyncWrite τ v) := by
  unfold State.tsyncWrite
  repeat' (first | with_reducible assumption | with_reducible apply State.alignStart_keep | with_reducible apply State.installerWrite_keep | with_reducible apply State.setRaw_keep | intro _ _ _ | intro _ _ | intro _)

theorem execTsyncWrite_keep {κ : Prop} {σ τ : State} (hστ : Keep κ σ τ) (v : W64) :
    KeepRes κ σ (execTsyncWrite v τ) := by
  unfold execTsyncWrite
  repeat' (first | with_reducible assumption | with_reducible apply State.tsyncWrite_keep | with_reducible apply State.settleHost_keep | with_reducible apply KeepRes.next)

theorem execSlowClockTick_keep {κ : Prop} {σ τ : State} (hστ : Keep κ σ τ)  :
    KeepRes κ σ (execSlowClockTick τ) := by
  unfold execSlowClockTick
  repeat' (first | with_reducible assumption | with_reducible apply State.applyLoad_keep | with_reducible apply State.modClk_keep | with_reducible apply KeepRes.next | split)

theorem State.slewToward_keep {κ : Prop} {σ τ : State} (hστ : Keep κ σ τ)  :
    Keep κ σ (State.slewToward τ) := by
  unfold State.slewToward
  repeat' (first | with_reducible assumption | with_reducible refine Keep.of ?_)

theorem State.enterHoldover_keep {κ : Prop} {σ τ : State} (hστ : Keep κ σ τ)  :
    Keep κ σ (State.enterHoldover τ) := by
  unfold State.enterHoldover
  repeat' (first | with_reducible assumption | with_reducible apply State.timeRecord_keep | with_reducible apply State.modClk_keep | intro _ _ _ | intro _ _ | intro _ | with_reducible refine Keep.of ?_)

theorem State.enterLocked_keep {κ : Prop} {σ τ : State} (hστ : Keep κ σ τ)  :
    Keep κ σ (State.enterLocked τ) := by
  unfold State.enterLocked
  repeat' (first | with_reducible assumption | with_reducible apply State.timeRecord_keep | with_reducible apply State.modClk_keep | intro _ _ _ | intro _ _ | intro _ | with_reducible refine Keep.of ?_)

theorem State.ppsMeasure_keep {κ : Prop} {σ τ : State} (hστ : Keep κ σ τ) (t : W64) :
    Keep κ σ (State.ppsMeasure τ t) := by
  unfold State.ppsMeasure
  repeat' (first | with_reducible assumption | with_reducible apply State.enterLocked_keep | with_reducible apply State.enterHoldover_keep | with_reducible apply State.slewToward_keep | with_reducible apply State.modClk_keep | with_reducible apply Edit.run_keep | split | intro _ _ _ | intro _ _ | intro _ | with_reducible refine Keep.of ?_)

theorem execPpsEdge_keep {κ : Prop} {σ τ : State} (hστ : Keep κ σ τ)  :
    KeepRes κ σ (execPpsEdge τ) := by
  unfold execPpsEdge
  repeat' (first | with_reducible assumption | with_reducible apply State.ppsMeasure_keep | with_reducible apply State.applyLoad_keep | with_reducible apply State.afterNow_keep | with_reducible apply KeepRes.next | split)

theorem State.exchFailed_keep {κ : Prop} {σ τ : State} (hστ : Keep κ σ τ)  :
    Keep κ σ (State.exchFailed τ) := by
  unfold State.exchFailed
  repeat' (first | with_reducible assumption | with_reducible apply State.enterHoldover_keep | with_reducible apply State.modClk_keep | split | intro _ _ _ | intro _ _ | intro _ | with_reducible refine Keep.of ?_)

theorem execTsyncExchange_keep {κ : Prop} {σ τ : State} (hστ : Keep κ σ τ)  :
    KeepRes κ σ (execTsyncExchange τ) := by
  unfold execTsyncExchange
  repeat' (first | with_reducible assumption | with_reducible apply State.exchFailed_keep | with_reducible apply State.modClk_keep | with_reducible apply State.control_keep | with_reducible apply State.afterNow_keep | with_reducible apply KeepRes.next | split | intro _ _ _ | intro _ _ | intro _ | with_reducible refine Keep.of ?_)

theorem execTsyncRequest_keep {κ : Prop} {σ τ : State} (hστ : Keep κ σ τ) (n : Nat) :
    KeepRes κ σ (execTsyncRequest n τ) := by
  unfold execTsyncRequest
  repeat' (first | with_reducible assumption | with_reducible apply State.control_keep | with_reducible apply State.takeMsg_keep | with_reducible apply State.afterNow_keep | with_reducible apply KeepRes.next | split | with_reducible refine Keep.of ?_)

theorem State.exchDone_keep {κ : Prop} {σ τ : State} (hστ : Keep κ σ τ) (th : Int) (delay : Int) (locked : Bool) (hops : Nat) :
    Keep κ σ (State.exchDone τ th delay locked hops) := by
  unfold State.exchDone
  repeat' (first | with_reducible assumption | with_reducible apply State.enterLocked_keep | with_reducible apply State.enterHoldover_keep | with_reducible apply State.slewToward_keep | with_reducible apply State.setTime_keep | with_reducible apply State.timeRecord_keep | with_reducible apply State.modClk_keep | split | intro _ _ _ | intro _ _ | intro _ | with_reducible refine Keep.of ?_)

theorem execTsyncReply_keep {κ : Prop} {σ τ : State} (hστ : Keep κ σ τ) (n : Nat) :
    KeepRes κ σ (execTsyncReply n τ) := by
  unfold execTsyncReply
  repeat' (first | with_reducible assumption | with_reducible apply State.exchDone_keep | with_reducible apply State.takeMsg_keep | with_reducible apply State.afterNow_keep | with_reducible apply KeepRes.next | split | with_reducible refine Keep.of ?_)

/-! ### Links -/

theorem State.refuse_keep {κ : Prop} {σ τ : State} (hστ : Keep κ σ τ) (m : Msg) (st : Status) :
    Keep κ σ (State.refuse τ m st) := by
  unfold State.refuse
  repeat' (first | with_reducible assumption | with_reducible apply State.refuseMsg_keep | split)

theorem State.bridgeLeft_keep {κ : Prop} {σ τ : State} (hστ : Keep κ σ τ) (i : Nat) :
    Keep κ σ (State.bridgeLeft τ i) := by
  unfold State.bridgeLeft
  repeat' (first | with_reducible assumption | with_reducible apply State.pairBreak_keep | with_reducible apply State.afterNow_keep | split)

theorem State.linkLeave_keep {κ : Prop} {σ τ : State} (hστ : Keep κ σ τ) (i : Nat) (tgt : LState) (count : Bool) :
    Keep κ σ (State.linkLeave τ i tgt count) := by
  unfold State.linkLeave
  repeat' (first | with_reducible assumption | with_reducible apply State.bridgeLeft_keep | with_reducible apply State.refuse_keep | with_reducible apply Edit.count_keep | with_reducible apply State.releaseHeld_keep | with_reducible apply State.modLink_keep | with_reducible apply State.modNet_keep | with_reducible apply State.afterNow_keep | with_reducible apply Keep.foldl | split | intro _ _ _ | intro _ _ | intro _ | with_reducible refine Keep.of ?_)

theorem State.linkFault_keep {κ : Prop} {σ τ : State} (hστ : Keep κ σ τ) (i : Nat) (lseq : Nat) (reason : Nat) :
    Keep κ σ (State.linkFault τ i lseq reason) := by
  unfold State.linkFault
  repeat' (first | with_reducible assumption | with_reducible apply State.postCorrected_keep | split)

theorem State.portEnable_keep {κ : Prop} {σ τ : State} (hστ : Keep κ σ τ) (n : Nat) :
    Keep κ σ (State.portEnable τ n) := by
  unfold State.portEnable
  repeat' (first | with_reducible assumption | with_reducible apply State.modLink_keep | with_reducible apply Keep.foldl | split | intro _ _ _ | intro _ _ | intro _)

theorem State.portDisable_keep {κ : Prop} {σ τ : State} (hστ : Keep κ σ τ) (n : Nat) :
    Keep κ σ (State.portDisable τ n) := by
  unfold State.portDisable
  repeat' (first | with_reducible assumption | with_reducible apply State.linkLeave_keep | with_reducible apply Keep.foldl | split | intro _ _ _ | intro _ _ | intro _)

theorem State.portAccept_keep {κ : Prop} {σ τ : State} (hστ : Keep κ σ τ) (n : Nat) :
    Keep κ σ (State.portAccept τ n) := by
  unfold State.portAccept
  repeat' (first | with_reducible assumption | with_reducible apply State.pumpAll_keep | with_reducible apply State.modLink_keep | with_reducible apply Keep.foldl | split | intro _ _ _ | intro _ _ | intro _ | with_reducible refine Keep.of ?_)

theorem State.portWrite_keep {κ : Prop} {σ τ : State} (hστ : Keep κ σ τ) (n : Nat) (v : Nat) :
    Keep κ σ (State.portWrite τ n v) := by
  unfold State.portWrite
  repeat' (first | with_reducible assumption | with_reducible apply State.portAccept_keep | with_reducible apply State.portDisable_keep | with_reducible apply State.portEnable_keep | with_reducible apply State.installerWrite_keep | with_reducible apply State.setRaw_keep | split | intro _ _ _ | intro _ _ | intro _)

theorem execPortEnable_keep {κ : Prop} {σ τ : State} (hστ : Keep κ σ τ) (n : PortId) (v : W64) :
    KeepRes κ σ (execPortEnable n v τ) := by
  unfold execPortEnable
  repeat' (first | with_reducible assumption | with_reducible apply State.portWrite_keep | with_reducible apply State.settleHost_keep | with_reducible apply KeepRes.next)

theorem execPortDisable_keep {κ : Prop} {σ τ : State} (hστ : Keep κ σ τ) (n : PortId) :
    KeepRes κ σ (execPortDisable n τ) := by
  unfold execPortDisable
  repeat' (first | with_reducible assumption | with_reducible apply State.portWrite_keep | with_reducible apply State.settleHost_keep | with_reducible apply KeepRes.next)

theorem execAccept_keep {κ : Prop} {σ τ : State} (hστ : Keep κ σ τ) (n : PortId) :
    KeepRes κ σ (execAccept n τ) := by
  unfold execAccept
  repeat' (first | with_reducible assumption | with_reducible apply State.portWrite_keep | with_reducible apply State.settleHost_keep | with_reducible apply KeepRes.next)

theorem State.sendIdent_keep {κ : Prop} {σ τ : State} (hστ : Keep κ σ τ) (i : Nat) :
    Keep κ σ (State.sendIdent τ i) := by
  unfold State.sendIdent
  repeat' (first | with_reducible assumption | with_reducible apply State.control_keep)

theorem execLinkTrained_keep {κ : Prop} {σ τ : State} (hστ : Keep κ σ τ) (i : LinkId) (full : Bool) :
    KeepRes κ σ (execLinkTrained i full τ) := by
  unfold execLinkTrained
  repeat' (first | with_reducible assumption | with_reducible apply State.sendIdent_keep | with_reducible apply State.reviewDegraded_keep | with_reducible apply State.replaceEvent_keep | with_reducible apply State.modLink_keep | with_reducible apply KeepRes.next | split | intro _ _ _ | intro _ _ | intro _ | with_reducible refine Keep.of ?_)

theorem execLinkTrainTimeout_keep {κ : Prop} {σ τ : State} (hστ : Keep κ σ τ) (i : LinkId) :
    KeepRes κ σ (execLinkTrainTimeout i τ) := by
  unfold execLinkTrainTimeout
  repeat' (first | with_reducible assumption | with_reducible apply State.linkFault_keep | with_reducible apply State.modLink_keep | with_reducible apply KeepRes.next | split | intro _ _ _ | intro _ _ | intro _ | with_reducible refine Keep.of ?_)

theorem execIdentTimeout_keep {κ : Prop} {σ τ : State} (hστ : Keep κ σ τ) (i : LinkId) :
    KeepRes κ σ (execIdentTimeout i τ) := by
  unfold execIdentTimeout
  repeat' (first | with_reducible assumption | with_reducible apply State.sendIdent_keep | with_reducible apply KeepRes.next | split)

theorem execLossOfSignal_keep {κ : Prop} {σ τ : State} (hστ : Keep κ σ τ) (i : LinkId) :
    KeepRes κ σ (execLossOfSignal i τ) := by
  unfold execLossOfSignal
  repeat' (first | with_reducible assumption | with_reducible apply State.linkFault_keep | with_reducible apply State.linkLeave_keep | with_reducible apply KeepRes.next | split)

theorem State.linkFail_keep {κ : Prop} {σ τ : State} (hστ : Keep κ σ τ) (i : Nat) (reason : Nat) :
    Keep κ σ (State.linkFail τ i reason) := by
  unfold State.linkFail
  repeat' (first | with_reducible assumption | with_reducible apply State.linkFault_keep | with_reducible apply State.linkLeave_keep | split | dsimp only)

theorem execLaneErrorRatioCheck_keep {κ : Prop} {σ τ : State} (hστ : Keep κ σ τ) (i : LinkId) :
    KeepRes κ σ (execLaneErrorRatioCheck i τ) := by
  unfold execLaneErrorRatioCheck
  repeat' (first | with_reducible assumption | with_reducible apply State.linkLeave_keep | with_reducible apply State.modLink_keep | with_reducible apply KeepRes.next | split | intro _ _ _ | intro _ _ | intro _ | with_reducible refine Keep.of ?_)

theorem State.reported_keep {κ : Prop} {σ τ : State} (hστ : Keep κ σ τ) (n : Nat) :
    Keep κ σ (State.reported τ n) := by
  unfold State.reported
  repeat' (first | with_reducible assumption | with_reducible apply State.modLink_keep | with_reducible apply Keep.foldl | intro _ _ _ | intro _ _ | intro _ | with_reducible refine Keep.of ?_)

theorem State.wiringMismatch_keep {κ : Prop} {σ τ : State} (hστ : Keep κ σ τ) (n : Nat) :
    Keep κ σ (State.wiringMismatch τ n) := by
  unfold State.wiringMismatch
  repeat' (first | with_reducible assumption | with_reducible apply State.reported_keep | with_reducible apply State.postEvent_keep | with_reducible apply Keep.foldl | intro _ _ _ | intro _ _ | intro _)

theorem State.wiringSwap_keep {κ : Prop} {σ τ : State} (hστ : Keep κ σ τ) (a : Nat) (b : Nat) (sa : Nat × Nat × Nat) (sb : Nat × Nat × Nat) :
    Keep κ σ (State.wiringSwap τ a b sa sb) := by
  unfold State.wiringSwap
  repeat' (first | with_reducible assumption | with_reducible apply State.reported_keep | with_reducible apply State.postEvent_keep)

theorem State.decideWiring_keep {κ : Prop} {σ τ : State} (hστ : Keep κ σ τ) (n : Nat) (ovr : Bool) :
    Keep κ σ (State.decideWiring τ n ovr) := by
  unfold State.decideWiring
  repeat' (first | with_reducible assumption | with_reducible apply State.wiringSwap_keep | with_reducible apply State.wiringMismatch_keep | split | intro _ _ _ | intro _ _ | intro _ | with_reducible refine Keep.of ?_)

theorem execWiringWaitExpiry_keep {κ : Prop} {σ τ : State} (hστ : Keep κ σ τ) (n : PortId) :
    KeepRes κ σ (execWiringWaitExpiry n τ) := by
  unfold execWiringWaitExpiry
  repeat' (first | with_reducible assumption | with_reducible apply State.decideWiring_keep | with_reducible apply KeepRes.next)

theorem State.sendEnds_keep {κ : Prop} {σ τ : State} (hστ : Keep κ σ τ) (e : Sent) (st : Status) :
    Keep κ σ (State.sendEnds τ e st) := by
  unfold State.sendEnds
  repeat' (first | with_reducible assumption | with_reducible apply State.xferErr_keep | with_reducible apply State.endColl_keep | with_reducible apply State.tellLanded_keep | with_reducible apply State.modNet_keep | split | intro _ _ _ | intro _ _ | intro _ | with_reducible refine Keep.of ?_)

theorem State.newEpoch_keep {κ : Prop} {σ τ : State} (hστ : Keep κ σ τ) (c : Nat) (e : Nat) :
    Keep κ σ (State.newEpoch τ c e) := by
  unfold State.newEpoch
  repeat' (first | with_reducible assumption | with_reducible apply State.sendEnds_keep | with_reducible apply State.setCredits_keep | with_reducible apply State.xferErr_keep | with_reducible apply State.endColls_keep | with_reducible apply State.takeMsg_keep | with_reducible apply State.modNet_keep | with_reducible apply Keep.foldl | split | intro _ _ _ | intro _ _ | intro _ | with_reducible refine Keep.of ?_)

theorem State.learnEpoch_keep {κ : Prop} {σ τ : State} (hστ : Keep κ σ τ) (c : Nat) (e : Nat) (fresh : Bool) :
    Keep κ σ (State.learnEpoch τ c e fresh) := by
  unfold State.learnEpoch
  repeat' (first | with_reducible assumption | with_reducible apply State.newEpoch_keep | split)

theorem execPeerEpoch_keep {κ : Prop} {σ τ : State} (hστ : Keep κ σ τ) (n : Nat) :
    KeepRes κ σ (execPeerEpoch n τ) := by
  unfold execPeerEpoch
  repeat' (first | with_reducible assumption | with_reducible apply State.newEpoch_keep | with_reducible apply State.sendEpoch_keep | with_reducible apply State.takeMsg_keep | with_reducible apply KeepRes.next | split | with_reducible refine Keep.of ?_)

theorem execIdent_keep {κ : Prop} {σ τ : State} (hστ : Keep κ σ τ) (n : Nat) :
    KeepRes κ σ (execIdent n τ) := by
  unfold execIdent
  repeat' (first | with_reducible assumption | with_reducible apply State.learnEpoch_keep | with_reducible apply State.decideWiring_keep | with_reducible apply State.pumpAll_keep | with_reducible apply State.takeMsg_keep | with_reducible apply State.modLink_keep | with_reducible apply Keep.foldl | with_reducible apply KeepRes.next | split | intro _ _ _ | intro _ _ | intro _ | with_reducible refine Keep.of ?_)

theorem State.flitPump_keep {κ : Prop} {σ τ : State} (hστ : Keep κ σ τ) (i : Nat) :
    Keep κ σ (State.flitPump τ i) := by
  unfold State.flitPump
  repeat' (first | with_reducible assumption | with_reducible apply State.releaseHeld_keep | with_reducible apply State.pump_keep)

theorem State.flitInfo_keep {κ : Prop} {σ τ : State} (hστ : Keep κ σ τ) (i : Nat) (b : List Byte) :
    Keep κ σ (State.flitInfo τ i b) := by
  unfold State.flitInfo
  repeat' (first | with_reducible assumption | with_reducible apply State.flitPump_keep | with_reducible apply State.modLink_keep | intro _ _ _ | intro _ _ | intro _)

theorem State.arrive_keep {κ : Prop} {σ τ : State} (hστ : Keep κ σ τ) (i : Nat) (vc : Nat) (route : Nat) (bs : List Byte) :
    Keep κ σ (State.arrive τ i vc route bs) := by
  unfold State.arrive
  repeat' (first | with_reducible assumption | with_reducible apply State.refuse_keep | with_reducible apply State.takeMsg_keep | with_reducible apply State.modNet_keep | split | intro _ _ _ | intro _ _ | intro _ | with_reducible refine Keep.of ?_)

theorem State.onRoute_keep {κ : Prop} {σ τ : State} (hστ : Keep κ σ τ) (m : Msg) {go : State} (hgo : Keep κ σ go) : Keep κ σ (τ.onRoute m go) := by
  unfold State.onRoute
  repeat' (first | with_reducible assumption | with_reducible apply State.refuse_keep | with_reducible apply State.takeMsg_keep | split)

theorem State.assemble_keep {κ : Prop} {σ τ : State} (hστ : Keep κ σ τ) (i : Nat) (kind : Nat) (vc : Nat) (data : List Byte) :
    Keep κ σ (State.assemble τ i kind vc data) := by
  unfold State.assemble
  repeat' (first | with_reducible assumption | with_reducible apply State.arrive_keep | with_reducible apply Edit.put_keep | with_reducible apply State.modLink_keep | split | intro _ _ _ | intro _ _ | intro _ | with_reducible refine Keep.of ?_)

theorem State.replay_keep {κ : Prop} {σ τ : State} (hστ : Keep κ σ τ) (i : Nat) (ack : Nat) :
    Keep κ σ (State.replay τ i ack) := by
  unfold State.replay
  repeat' (first | with_reducible assumption | with_reducible apply State.linkFail_keep | with_reducible apply State.linkFault_keep | with_reducible apply State.modLink_keep | with_reducible apply State.emit_keep | with_reducible apply Keep.foldl | split | intro _ _ _ | intro _ _ | intro _ | with_reducible refine Keep.of ?_)

theorem State.flitIn_keep {κ : Prop} {σ τ : State} (hστ : Keep κ σ τ) (i : Nat) (b : List Byte) (fec : Bool) :
    Keep κ σ (State.flitIn τ i b fec) := by
  unfold State.flitIn
  repeat' (first | with_reducible assumption | with_reducible apply State.replay_keep | with_reducible apply State.assemble_keep | with_reducible apply State.flitInfo_keep | with_reducible apply State.flitPump_keep | with_reducible apply State.sendFlit_keep | with_reducible apply State.modLink_keep | split | intro _ _ _ | intro _ _ | intro _ | with_reducible refine Keep.of ?_)

theorem execFlitReceive_keep {κ : Prop} {σ τ : State} (hστ : Keep κ σ τ) (i : LinkId) (flit : List Byte) (fec : Bool) :
    KeepRes κ σ (execFlitReceive i flit fec τ) := by
  unfold execFlitReceive
  repeat' (first | with_reducible assumption | with_reducible apply State.flitIn_keep | with_reducible apply State.sendFlit_keep | with_reducible apply KeepRes.next | split | dsimp only)

theorem execRetryRequest_keep {κ : Prop} {σ τ : State} (hστ : Keep κ σ τ) (i : LinkId) (ack : BitVec 16) :
    KeepRes κ σ (execRetryRequest i ack τ) := by
  unfold execRetryRequest
  repeat' (first | with_reducible assumption | with_reducible apply State.replay_keep | with_reducible apply KeepRes.next | split)

theorem execLinkAckTimeout_keep {κ : Prop} {σ τ : State} (hστ : Keep κ σ τ) (i : LinkId) :
    KeepRes κ σ (execLinkAckTimeout i τ) := by
  unfold execLinkAckTimeout
  repeat' (first | with_reducible assumption | with_reducible apply State.linkFail_keep | with_reducible apply KeepRes.next | split)

/-! ### Messages -/

theorem State.passOn_keep {κ : Prop} {σ τ : State} (hστ : Keep κ σ τ) (m : Msg) :
    Keep κ σ (State.passOn τ m) := by
  unfold State.passOn
  repeat' (first | with_reducible assumption | with_reducible apply State.refuse_keep | with_reducible apply State.forwardBy_keep | split | dsimp only)

theorem State.overBridge_keep {κ : Prop} {σ τ : State} (hστ : Keep κ σ τ) (m : Msg) :
    Keep κ σ (State.overBridge τ m) := by
  unfold State.overBridge
  repeat' (first | with_reducible assumption | with_reducible apply State.refuse_keep | with_reducible apply State.queueOn_keep | split | with_reducible refine Keep.of ?_)

theorem State.msgRow_keep {κ : Prop} {σ τ : State} (hστ : Keep κ σ τ) (n mt : Nat) (act : State → Msg → State)
    (hact : ∀ (x0 : State) (x1 : Msg), Keep κ σ x0 → Keep κ σ (act x0 x1)) : Keep κ σ (τ.msgRow n mt act) := by
  unfold State.msgRow
  split
  · exact hστ
  · rename_i m hm
    split
    · exact hστ
    · refine State.onRoute_keep hστ _ ?_
      split
      · exact State.passOn_keep (State.takeMsg_keep hστ _) _
      · split
        · exact State.overBridge_keep (State.takeMsg_keep hστ _) _
        · split
          · exact State.refuse_keep (State.takeMsg_keep hστ _) _ _
          · extract_lets +onlyGivenNames s1
            have h1 : Keep κ σ s1 := State.learnEpoch_keep hστ _ _ _
            clear_value s1
            split
            · exact State.takeMsg_keep h1 _
            · split
              · exact State.refuse_keep (State.takeMsg_keep h1 _) _ _
              · exact hact _ _ h1

theorem State.dropSent_keep {κ : Prop} {σ τ : State} (hστ : Keep κ σ τ) (e : Sent) :
    Keep κ σ (State.dropSent τ e) := by
  unfold State.dropSent
  repeat' (first | with_reducible assumption | with_reducible apply State.modNet_keep | intro _ _ _ | intro _ _ | intro _ | with_reducible refine Keep.of ?_)

theorem State.landed_keep {κ : Prop} {σ τ : State} (hστ : Keep κ σ τ) (e : Sent) :
    Keep κ σ (State.landed τ e) := by
  unfold State.landed
  repeat' (first | with_reducible assumption | with_reducible apply State.modXfer_keep | with_reducible apply State.tellLanded_keep | intro _ _ _ | intro _ _ | intro _ | with_reducible refine Keep.of ?_)

theorem execAck_keep {κ : Prop} {σ τ : State} (hστ : Keep κ σ τ) (n : Nat) :
    KeepRes κ σ (execAck n τ) := by
  unfold execAck
  repeat' (first | with_reducible assumption | with_reducible apply State.landed_keep | with_reducible apply State.dropSent_keep | with_reducible apply State.msgRow_keep | with_reducible apply State.pairAck_keep | with_reducible apply State.takeMsg_keep | with_reducible apply KeepRes.next | exact fun _ h => h | split | intro _ _ _ | intro _ _ | intro _ | with_reducible refine Keep.of ?_)

theorem State.refused_keep {κ : Prop} {σ τ : State} (hστ : Keep κ σ τ) (e : Sent) (st : Status) :
    Keep κ σ (State.refused τ e st) := by
  unfold State.refused
  repeat' (first | with_reducible assumption | with_reducible apply State.sendEnds_keep | with_reducible apply State.pumpAll_keep | with_reducible apply State.sentRec_keep | with_reducible apply State.setCredits_keep | split | with_reducible refine Keep.of ?_)

theorem execRefuse_keep {κ : Prop} {σ τ : State} (hστ : Keep κ σ τ) (n : Nat) :
    KeepRes κ σ (execRefuse n τ) := by
  unfold execRefuse
  repeat' (first | with_reducible assumption | with_reducible apply State.refused_keep | with_reducible apply State.msgRow_keep | with_reducible apply State.takeMsg_keep | with_reducible apply KeepRes.next | split | intro _ _ _ | intro _ _ | intro _ | with_reducible refine Keep.of ?_)

theorem execCredit_keep {κ : Prop} {σ τ : State} (hστ : Keep κ σ τ) (n : Nat) :
    KeepRes κ σ (execCredit n τ) := by
  unfold execCredit
  repeat' (first | with_reducible assumption | with_reducible apply State.msgRow_keep | with_reducible apply State.pumpAll_keep | with_reducible apply State.setCredits_keep | with_reducible apply State.takeMsg_keep | with_reducible apply KeepRes.next | split | intro _ _ _ | intro _ _ | intro _ | with_reducible refine Keep.of ?_)

theorem State.bufferBytes_keep {κ : Prop} {σ τ : State} (hστ : Keep κ σ τ) (st : Nat) (x : Xfer) (d : TDesc) (p : Nat) (csr : Nat) :
    Keep κ σ (State.bufferBytes τ st x d p csr).1 := by
  unfold State.bufferBytes
  repeat' (first | with_reducible assumption | with_reducible apply State.bayRuns_keep | split | with_reducible refine Keep.of ?_)

theorem State.forwardChunk_keep {κ : Prop} {σ τ : State} (hστ : Keep κ σ τ) (st : Nat) (ch : Nat) (x : Xfer) (k : Nat) :
    Keep κ σ (State.forwardChunk τ st ch x k) := by
  unfold State.forwardChunk
  repeat' (first | with_reducible assumption | with_reducible apply State.bufferBytes_keep | with_reducible apply State.sendMsg_keep | with_reducible apply State.sentRec_keep | with_reducible apply State.setCredits_keep | with_reducible apply State.xferErr_keep | with_reducible apply State.modXfer_keep | with_reducible apply State.endColl_keep | with_reducible apply State.modNet_keep | exact fun _ h => h | split | intro _ _ _ | intro _ _ | intro _ | with_reducible refine Keep.of ?_)

theorem State.pumpFwd_keep {κ : Prop} {σ τ : State} (hστ : Keep κ σ τ)  :
    Keep κ σ (State.pumpFwd τ) := by
  unfold State.pumpFwd
  repeat' (first | with_reducible assumption | with_reducible apply State.forwardChunk_keep | with_reducible apply Keep.foldl | split | intro _ _ _ | intro _ _ | intro _ | with_reducible refine Keep.of ?_)

theorem State.recvRec_keep {κ : Prop} {σ τ : State} (hστ : Keep κ σ τ) (p : Nat) (st : Nat) (ch : Nat) (m : Msg) (status : Status) :
    Keep κ σ (State.recvRec τ p st ch m status) := by
  unfold State.recvRec
  repeat' (first | with_reducible assumption | with_reducible apply Edit.put_keep | with_reducible apply State.postDbkF_keep | with_reducible apply State.afterStamp_keep | split | with_reducible refine Keep.of ?_)

theorem State.sendAck_keep {κ : Prop} {σ τ : State} (hστ : Keep κ σ τ) (m : Msg) :
    Keep κ σ (State.sendAck τ m) := by
  unfold State.sendAck
  repeat' (first | with_reducible assumption | with_reducible apply State.engineSend_keep)

theorem State.fill_ok {κ : Prop} {σ τ : State} (hστ : Keep κ σ τ) {st : Nat} {x : Xfer} {d : TDesc} {data : List Byte} {u : State}
    (hu : τ.fill st x d data = .ok u) : Keep κ σ u := by
  unfold State.fill at hu
  try dsimp only at hu
  repeat' (first | contradiction | (cases hu; done) | split at hu)
  all_goals (first | contradiction | (injection hu with hu; subst hu))
  all_goals repeat' (first | with_reducible assumption | with_reducible apply Keep.foldl | with_reducible apply State.devStore_keep | with_reducible apply State.devStoreFb_keep | with_reducible apply State.hostWrite_keep | with_reducible apply State.digestHost_keep | with_reducible apply State.bayStoreRuns_keep | with_reducible apply State.putSeg_keep | with_reducible apply State.bayWrites_keep | intro _ _ _ | split)

theorem State.deposit_keep {κ : Prop} {σ τ : State} (hστ : Keep κ σ τ) (p : Nat) (b : Posted) (m : Msg) :
    Keep κ σ (State.deposit τ p b m) := by
  unfold State.deposit
  repeat' (first | with_reducible assumption | with_reducible apply State.fill_keep | with_reducible apply State.sendAck_keep | with_reducible apply State.recvRec_keep | with_reducible apply State.refuse_keep | with_reducible apply State.xferErr_keep | with_reducible apply State.modXfer_keep | with_reducible apply State.bufferCopy_keep | with_reducible refine State.fill_ok ?_ (by assumption) | with_reducible refine fun _ hu => State.fill_ok ?_ hu | split | intro _ _ _ | intro _ _ | intro _ | with_reducible refine Keep.of ?_)

theorem execData_keep {κ : Prop} {σ τ : State} (hστ : Keep κ σ τ) (n : Nat) :
    KeepRes κ σ (execData n τ) := by
  unfold execData
  repeat' (first | with_reducible assumption | with_reducible apply State.deposit_keep | with_reducible apply State.pumpFwd_keep | with_reducible apply State.msgRow_keep | with_reducible apply State.refuse_keep | with_reducible apply State.pumpAll_keep | with_reducible apply State.setPosted_keep | with_reducible apply State.takeMsg_keep | with_reducible apply State.afterAny_keep | with_reducible apply KeepRes.next | exact fun _ h => h | split | intro _ _ _ | intro _ _ | intro _ | with_reducible refine Keep.of ?_)

theorem State.sendWresp_keep {κ : Prop} {σ τ : State} (hστ : Keep κ σ τ) (m : Msg) (msgid : Nat) (data : List Byte) :
    Keep κ σ (State.sendWresp τ m msgid data) := by
  unfold State.sendWresp
  repeat' (first | with_reducible assumption | with_reducible apply State.engineSend_keep)

theorem execWreq_keep {κ : Prop} {σ τ : State} (hστ : Keep κ σ τ) (n : Nat) (ups : List (Nat × BitVec 39)) :
    KeepRes κ σ (execWreq n ups τ) := by
  unfold execWreq
  repeat' (first | with_reducible assumption | with_reducible apply State.sendWresp_keep | with_reducible apply State.msgRow_keep | with_reducible apply State.refuse_keep | with_reducible apply State.bayFlags_keep | with_reducible apply State.upset_keep | with_reducible apply State.takeMsg_keep | with_reducible apply State.modNet_keep | with_reducible apply State.postError_keep | with_reducible apply KeepRes.next | split | intro _ _ _ | intro _ _ | intro _ | with_reducible refine Keep.of ?_)

theorem State.winAnswer_keep {κ : Prop} {σ τ : State} (hστ : Keep κ σ τ) (e : Sent) (m : Msg) (ups : List (Nat × BitVec 39)) :
    Keep κ σ (State.winAnswer τ e m ups) := by
  unfold State.winAnswer
  repeat' (first | with_reducible assumption | with_reducible apply State.fill_keep | with_reducible apply State.landed_keep | with_reducible apply State.dropSent_keep | with_reducible apply State.xferFetch_keep | with_reducible apply State.xferErr_keep | with_reducible apply State.engineSend_keep | with_reducible apply State.bufferCopy_keep | with_reducible apply State.modNet_keep | with_reducible refine State.fill_ok ?_ (by assumption) | with_reducible refine fun _ hu => State.fill_ok ?_ hu | with_reducible refine State.xferFetch_got ?_ (by assumption) | with_reducible refine fun _ hu => State.xferFetch_got ?_ hu | with_reducible refine State.xferFetch_err ?_ (by assumption) | with_reducible refine fun _ hu => State.xferFetch_err ?_ hu | split | intro _ _ _ | intro _ _ | intro _ | with_reducible refine Keep.of ?_)

theorem execWresp_keep {κ : Prop} {σ τ : State} (hστ : Keep κ σ τ) (n : Nat) (ups : List (Nat × BitVec 39)) :
    KeepRes κ σ (execWresp n ups τ) := by
  unfold execWresp
  repeat' (first | with_reducible assumption | with_reducible apply State.winAnswer_keep | with_reducible apply State.sendWresp_keep | with_reducible apply State.msgRow_keep | with_reducible apply State.pumpAll_keep | with_reducible apply State.bayWrites_keep | with_reducible apply State.bufferCopy_keep | with_reducible apply State.takeMsg_keep | with_reducible apply State.modNet_keep | with_reducible apply KeepRes.next | exact fun _ h => h | split | intro _ _ _ | intro _ _ | intro _ | with_reducible refine Keep.of ?_)

theorem execCollEnd_keep {κ : Prop} {σ τ : State} (hστ : Keep κ σ τ) (n : Nat) :
    KeepRes κ σ (execCollEnd n τ) := by
  unfold execCollEnd
  repeat' (first | with_reducible assumption | with_reducible apply State.msgRow_keep | with_reducible apply State.endColl_keep | with_reducible apply State.takeMsg_keep | with_reducible apply KeepRes.next | exact fun _ h => h | split | intro _ _ _ | intro _ _ | intro _ | with_reducible refine Keep.of ?_)

theorem State.slowOn_keep {κ : Prop} {σ τ : State} (hστ : Keep κ σ τ) (arg : Nat) (time : W64) :
    Keep κ σ (State.slowOn τ arg time) := by
  unfold State.slowOn
  repeat' (first | with_reducible assumption | with_reducible apply State.tellNeighbours_keep | with_reducible apply State.modNet_keep | with_reducible apply State.postEvent_keep | with_reducible apply State.afterNow_keep | with_reducible apply Keep.foldl | exact fun _ h => h | split | intro _ _ _ | intro _ _ | intro _ | with_reducible refine Keep.of ?_)

theorem State.slowOff_keep {κ : Prop} {σ τ : State} (hστ : Keep κ σ τ) (arg : Nat) :
    Keep κ σ (State.slowOff τ arg) := by
  unfold State.slowOff
  repeat' (first | with_reducible assumption | with_reducible apply State.modNet_keep | split | intro _ _ _ | intro _ _ | intro _ | with_reducible refine Keep.of ?_)

theorem execThermalSlow_keep {κ : Prop} {σ τ : State} (hστ : Keep κ σ τ) (n : Nat) :
    KeepRes κ σ (execThermalSlow n τ) := by
  unfold execThermalSlow
  repeat' (first | with_reducible assumption | with_reducible apply State.slowOff_keep | with_reducible apply State.slowOn_keep | with_reducible apply State.msgRow_keep | with_reducible apply State.takeMsg_keep | with_reducible apply KeepRes.next | split | intro _ _ _ | intro _ _ | intro _)

theorem execSlowLimitExpiry_keep {κ : Prop} {σ τ : State} (hστ : Keep κ σ τ) (job : Nat) :
    KeepRes κ σ (execSlowLimitExpiry job τ) := by
  unfold execSlowLimitExpiry
  repeat' (first | with_reducible assumption | with_reducible apply State.modNet_keep | with_reducible apply State.afterNow_keep | with_reducible apply KeepRes.next | split | intro _ _ _ | intro _ _ | intro _ | with_reducible refine Keep.of ?_)

end Sys2Proof.Machine
end

