-- ==== Sys2Proof/Laws/KeepModule.lean ====
section
/-! SUPPORT. `Keep` of security, firmware, resets, power and the module: one lemma for each operation and meaning. -/

namespace Sys2Proof.Machine

set_option Elab.async false
set_option linter.all false

/-! ### Security -/

theorem State.secCmd_keep {κ : Prop} {σ τ : State} (hστ : Keep κ σ τ) (op : Nat) (bad : Bool) {d : SecDone}
    (hd : ∀ u, Keep κ σ u → Keep κ σ (d.act u)) : Keep κ σ (τ.secCmd op bad d) := by
  unfold State.secCmd
  extract_lets d' s1 s2
  have h1 : Keep κ σ s1 := by
    subst s1 d'
    split
    · exact State.audit_keep hστ _
    · split
      · exact State.audit_keep hστ _
      · exact hd _ (State.audit_keep hστ _)
  have h2 : Keep κ σ s2 := State.hostWrite_keep h1 _ _ _
  apply State.setRaw_keep
  exact Keep.of h2 ⟨rfl, rfl, rfl⟩ ⟨rfl, rfl⟩ rfl ⟨rfl, rfl, rfl, rfl⟩ rfl

theorem State.modSec_keep {κ : Prop} {σ τ : State} (hστ : Keep κ σ τ) (f : Security → Security)
    (hf : ∀ x, (f x).installer = x.installer ∧ (f x).operators = x.operators ∧ (f x).book = x.book) : Keep κ σ (τ.modSec f) :=
  Keep.of hστ ⟨rfl, rfl, rfl⟩ ⟨rfl, rfl⟩ rfl ⟨(hf _).1, (hf _).2.1, by rw [(hf _).2.2], by rw [(hf _).2.2]⟩ rfl

theorem State.countSigned_keep {κ : Prop} {σ τ : State} (hστ : Keep κ σ τ)  :
    Keep κ σ (State.countSigned τ) := by
  unfold State.countSigned
  repeat' (first | with_reducible assumption | with_reducible apply State.modSec_keep | with_reducible apply Edit.count_keep | exact fun _ => ⟨rfl, rfl, rfl⟩ | intro _ _ _ | intro _ _ | intro _ | with_reducible refine Keep.of ?_)

theorem execId_keep {κ : Prop} {σ τ : State} (hστ : Keep κ σ τ) (bad : Bool) :
    KeepRes κ σ (execId bad τ) := by
  unfold execId
  repeat' (first | with_reducible assumption | with_reducible apply State.secCmd_keep | with_reducible apply Edit.count_keep | with_reducible apply State.accept_keep | with_reducible apply State.settleHost_keep | with_reducible apply KeepRes.next | dsimp only [SecDone.accept, SecDone.refuse] | exact fun _ h => h)

theorem State.setOperator_keep {κ : Prop} {σ τ : State} (hk : ¬ κ) (hστ : Keep κ σ τ) (p : Nat) (k : Option Key) : Keep κ σ (τ.setOperator p k) :=
  Keep.ofTabs hστ ⟨rfl, rfl, rfl⟩ id id id id (by simp) (fun h => absurd h hk) ⟨Nat.le_refl _, Nat.le_refl _⟩ (fun _ => Nat.le_refl _)

theorem State.enroll_keep {κ : Prop} {σ τ : State} (hστ : Keep κ σ τ) (hk : ¬ κ) (slot scheme : Nat) (key sig : List Byte) :
    ∀ u, Keep κ σ u → Keep κ σ ((τ.enroll slot scheme key sig).act u) := by
  intro u hu
  unfold State.enroll
  repeat' (first | with_reducible assumption | split | with_reducible apply State.countSigned_keep | exact Keep.ofTabs (by assumption) ⟨rfl, rfl, rfl⟩ id id id id (by simp [State.modSec]) (fun h => absurd h hk) ⟨Nat.le_refl _, Nat.le_refl _⟩ (fun _ => Nat.le_refl _) | with_reducible refine State.setOperator_keep hk ?_ _ _ | exact fun _ => ⟨rfl, rfl, rfl⟩ | (dsimp only [SecDone.refuse, SecDone.accept, id]) | dsimp only)

theorem execEnroll_keep {κ : Prop} {σ τ : State} (hk : ¬ κ) (hστ : Keep κ σ τ) (slot scheme : Nat) (key sig : List Byte) (bad : Bool) :
    KeepRes κ σ (execEnroll slot scheme key sig bad τ) :=
  KeepRes.next (State.secCmd_keep (State.settleHost_keep hστ _) _ _ (State.enroll_keep (State.settleHost_keep hστ 0) hk _ _ _ _))

theorem State.revoke_keep {κ : Prop} {σ τ : State} (hστ : Keep κ σ τ) (hk : ¬ κ) (slot : Nat) (sig : List Byte) :
    ∀ u, Keep κ σ u → Keep κ σ ((τ.revoke slot sig).act u) := by
  intro u hu
  unfold State.revoke
  repeat' (first | with_reducible assumption | split | with_reducible apply State.countSigned_keep | exact Keep.ofTabs (by assumption) ⟨rfl, rfl, rfl⟩ id id id id (by simp [State.modSec]) (fun h => absurd h hk) ⟨Nat.le_refl _, Nat.le_refl _⟩ (fun _ => Nat.le_refl _) | with_reducible refine State.setOperator_keep hk ?_ _ _ | exact fun _ => ⟨rfl, rfl, rfl⟩ | (dsimp only [SecDone.refuse, SecDone.accept, id]) | dsimp only)

theorem execRevoke_keep {κ : Prop} {σ τ : State} (hk : ¬ κ) (hστ : Keep κ σ τ) (slot : Nat) (sig : List Byte) (bad : Bool) :
    KeepRes κ σ (execRevoke slot sig bad τ) :=
  KeepRes.next (State.secCmd_keep (State.settleHost_keep hστ _) _ _ (State.revoke_keep (State.settleHost_keep hστ 0) hk _ _))

theorem State.setPolicy_keep {κ : Prop} {σ τ : State} (hστ : Keep κ σ τ) (w : BitVec 6) (sig : List Byte) :
    ∀ u, Keep κ σ u → Keep κ σ ((τ.setPolicy w sig).act u) := by
  intro u hu
  unfold State.setPolicy
  repeat' (first | with_reducible assumption | split | with_reducible apply State.countSigned_keep | with_reducible apply State.modSec_keep | exact fun _ => ⟨rfl, rfl, rfl⟩ | (dsimp only [SecDone.refuse, SecDone.accept, id]) | dsimp only)

theorem execPolicy_keep {κ : Prop} {σ τ : State} (hστ : Keep κ σ τ) (w : BitVec 6) (sig : List Byte) (bad : Bool) :
    KeepRes κ σ (execPolicy w sig bad τ) := by
  unfold execPolicy
  repeat' (first | with_reducible assumption | with_reducible apply State.setPolicy_keep | with_reducible apply State.secCmd_keep | with_reducible apply State.settleHost_keep | with_reducible apply KeepRes.next | dsimp only [SecDone.accept, SecDone.refuse])

theorem execAuditRead_keep {κ : Prop} {σ τ : State} (hστ : Keep κ σ τ) (first : Nat) (count : Nat) (addr : W64) (bad : Bool) :
    KeepRes κ σ (execAuditRead first count addr bad τ) := by
  unfold execAuditRead
  repeat' (first | with_reducible assumption | with_reducible apply State.secCmd_keep | with_reducible apply Edit.count_keep | with_reducible apply State.accept_keep | with_reducible apply State.settleHost_keep | with_reducible apply State.hostWrite_keep | with_reducible apply KeepRes.next | dsimp only [SecDone.accept, SecDone.refuse] | split | intro _ _ _ | intro _ _ | intro _)

theorem execAuditAck_keep {κ : Prop} {σ τ : State} (hστ : Keep κ σ τ) (aseq : Nat) (bad : Bool) : KeepRes κ σ (execAuditAck aseq bad τ) :=
  KeepRes.next (State.secCmd_keep (State.settleHost_keep hστ _) _ _ (fun u hu => State.setBook_keep hu _
    ⟨Nat.le_refl _, Nat.le_max_left _ _⟩))

theorem State.checkpoint_keep {κ : Prop} {σ τ : State} (hστ : Keep κ σ τ) : Keep κ σ τ.checkpoint := by
  have hp : ∀ (b b' : Book) n x, b.put n x = some b' → b'.next = b.next ∧ b'.acked = b.acked := by
    intro b b' n x h
    simp only [Book.put, Book.fresh, Option.map_eq_some_iff] at h
    obtain ⟨a, ha, rfl⟩ := h
    split at ha
    · cases ha; exact ⟨rfl, rfl⟩
    · split at ha
      · cases ha
      · cases ha; exact ⟨rfl, rfl⟩
  have hfold : ∀ (n : Nat) (l : List (List Byte)) (b : Book),
      (l.foldl (fun (b : Book) (x : List Byte) => (b.put n x).getD b) b).next = b.next ∧
      (l.foldl (fun (b : Book) (x : List Byte) => (b.put n x).getD b) b).acked = b.acked := by
    intro n l
    induction l with
    | nil => exact fun b => ⟨rfl, rfl⟩
    | cons x l ih =>
      intro b
      have h := ih ((b.put n x).getD b)
      have g : ((b.put n x).getD b).next = b.next ∧ ((b.put n x).getD b).acked = b.acked := by
        cases hb : b.put n x with
        | none => exact ⟨rfl, rfl⟩
        | some b' => exact hp _ _ _ _ hb
      exact ⟨h.1.trans g.1, h.2.trans g.2⟩
  unfold State.checkpoint
  extract_lets n s1 b body b1
  have h1 : Keep κ σ s1 := State.audit_keep hστ _
  split
  · exact h1
  · exact State.setBook_keep h1 _ ⟨Nat.le_of_eq (hfold _ _ _).1.symm, Nat.le_of_eq (hfold _ _ _).2.symm⟩

theorem execAuditSeal_keep {κ : Prop} {σ τ : State} (hστ : Keep κ σ τ) (bad : Bool) :
    KeepRes κ σ (execAuditSeal bad τ) := by
  unfold execAuditSeal
  repeat' (first | with_reducible assumption | with_reducible apply State.checkpoint_keep | with_reducible apply State.secCmd_keep | with_reducible apply Edit.put_keep | with_reducible apply State.accept_keep | with_reducible apply State.settleHost_keep | with_reducible apply KeepRes.next | dsimp only [SecDone.accept, SecDone.refuse] | split | intro _ _ _ | intro _ _ | intro _)

theorem execAuditCheckpoint_keep {κ : Prop} {σ τ : State} (hστ : Keep κ σ τ)  :
    KeepRes κ σ (execAuditCheckpoint τ) := by
  unfold execAuditCheckpoint
  repeat' (first | with_reducible assumption | with_reducible apply State.checkpoint_keep | with_reducible apply State.afterNow_keep | with_reducible apply KeepRes.next | split)

theorem execDebugNonce_keep {κ : Prop} {σ τ : State} (hστ : Keep κ σ τ) (bad : Bool) :
    KeepRes κ σ (execDebugNonce bad τ) := by
  unfold execDebugNonce
  repeat' (first | with_reducible assumption | with_reducible apply State.modSec_keep | with_reducible apply State.secCmd_keep | with_reducible apply State.accept_keep | with_reducible apply State.settleHost_keep | with_reducible apply KeepRes.next | exact fun _ => ⟨rfl, rfl, rfl⟩ | dsimp only [SecDone.accept, SecDone.refuse] | split | intro _ _ _ | intro _ _ | intro _ | with_reducible refine Keep.of ?_)

theorem State.consentDone_keep {κ : Prop} {σ τ : State} (hστ : Keep κ σ τ) (t : List Byte) :
    ∀ u, Keep κ σ u → Keep κ σ ((τ.consentDone t).act u) := by
  intro u hu
  unfold State.consentDone
  repeat' (first | with_reducible assumption | split | with_reducible apply State.countSigned_keep | with_reducible apply State.modSec_keep | exact fun _ => ⟨rfl, rfl, rfl⟩ | (dsimp only [SecDone.refuse, SecDone.accept, id]) | dsimp only)

theorem execConsent_keep {κ : Prop} {σ τ : State} (hστ : Keep κ σ τ) (token : List Byte) (bad : Bool) :
    KeepRes κ σ (execConsent token bad τ) := by
  unfold execConsent
  repeat' (first | with_reducible assumption | with_reducible apply State.consentDone_keep | with_reducible apply State.secCmd_keep | with_reducible apply State.settleHost_keep | with_reducible apply KeepRes.next | dsimp only [SecDone.accept, SecDone.refuse])

theorem execRelock_keep {κ : Prop} {σ τ : State} (hστ : Keep κ σ τ) (bad : Bool) :
    KeepRes κ σ (execRelock bad τ) := by
  unfold execRelock
  repeat' (first | with_reducible assumption | with_reducible apply State.secCmd_keep | with_reducible apply State.accept_keep | with_reducible apply State.settleHost_keep | with_reducible apply State.relock_keep | with_reducible apply KeepRes.next | dsimp only [SecDone.accept, SecDone.refuse])

theorem execDebugUnlock_keep {κ : Prop} {σ τ : State} (hστ : Keep κ σ τ) (scheme : Nat) (sig : List Byte) :
    KeepRes κ σ (execDebugUnlock scheme sig τ) := by
  unfold execDebugUnlock
  repeat' (first | with_reducible assumption | with_reducible apply State.modSec_keep | with_reducible apply State.audit_keep | with_reducible apply State.afterNow_keep | with_reducible apply KeepRes.next | exact fun _ => ⟨rfl, rfl, rfl⟩ | split | intro _ _ _ | intro _ _ | intro _ | with_reducible refine Keep.of ?_)

theorem execDebugExpiry_keep {κ : Prop} {σ τ : State} (hστ : Keep κ σ τ)  :
    KeepRes κ σ (execDebugExpiry τ) := by
  unfold execDebugExpiry
  repeat' (first | with_reducible assumption | with_reducible apply State.relock_keep | with_reducible apply State.afterNow_keep | with_reducible apply KeepRes.next | split)

/-! ### Firmware -/

theorem State.modFw_keep {κ : Prop} {σ τ : State} (hστ : Keep κ σ τ) (f : Firmware → Firmware) (hf : ∀ x, (f x).comps = x.comps) : Keep κ σ (τ.modFw f) :=
  Keep.of hστ ⟨rfl, rfl, rfl⟩ ⟨rfl, rfl⟩ rfl ⟨rfl, rfl, rfl, rfl⟩ (hf _)

theorem FwComp.setSpare_floor (c : FwComp) (x : FwSlot) : (c.setSpare x).floor = c.floor := by
  unfold FwComp.setSpare; split <;> rfl

theorem FwComp.setActive_floor (c : FwComp) (x : FwSlot) : (c.setActive x).floor = c.floor := by
  unfold FwComp.setActive; split <;> rfl

theorem State.audit_fw (s : State) (r : AuditRec) : (s.audit r).fw = s.fw := by
  unfold State.audit; dsimp only; split <;> rfl

theorem State.modComp_keep {κ : Prop} {σ τ : State} (hστ : Keep κ σ τ) (c : Nat) (f : FwComp → FwComp)
    (hf : (τ.fw.comps[c - 1]?.getD FwComp.reset).floor ≤ (f (τ.fw.comps[c - 1]?.getD FwComp.reset)).floor) : Keep κ σ (τ.modComp c f) := by
  unfold State.modComp State.modFw
  refine Keep.ofTabs hστ ⟨rfl, rfl, rfl⟩ id id id id (by simp) (fun _ => ⟨rfl, rfl⟩) ⟨Nat.le_refl _, Nat.le_refl _⟩ (fun i => ?_)
  show τ.fw.comps[i.val].floor ≤ (τ.fw.comps.setIfInBounds (c - 1) (f (τ.fw.comps[c - 1]?.getD FwComp.reset)))[i.val].floor
  rw [Vector.getElem_setIfInBounds i.isLt]
  split
  · rename_i h
    rw [h] at hf ⊢
    have e : τ.fw.comps[i.val]?.getD FwComp.reset = τ.fw.comps[i.val] := by simp
    rw [e] at hf ⊢
    exact hf
  · exact Nat.le_refl _

theorem State.fwStatus_keep {κ : Prop} {σ τ : State} (hστ : Keep κ σ τ) (x : FwSess) (openNow : Bool) :
    Keep κ σ (State.fwStatus τ x openNow) := by
  unfold State.fwStatus
  repeat' (first | with_reducible assumption | with_reducible apply State.modFw_keep | with_reducible apply State.hostWrite_keep | with_reducible apply State.afterStamp_keep | exact fun _ => rfl | intro _ _ _ | intro _ _ | intro _ | with_reducible refine Keep.of ?_)

theorem State.fwNote_keep {κ : Prop} {σ τ : State} (hστ : Keep κ σ τ)  :
    Keep κ σ (State.fwNote τ) := by
  unfold State.fwNote
  repeat' (first | with_reducible assumption | with_reducible apply State.fwStatus_keep | split | with_reducible refine Keep.of ?_)

theorem State.fwEnd_keep {κ : Prop} {σ τ : State} (hστ : Keep κ σ τ)  :
    Keep κ σ (State.fwEnd τ) := by
  unfold State.fwEnd
  repeat' (first | with_reducible assumption | with_reducible apply State.fwStatus_keep | with_reducible apply State.modComp_keep | with_reducible apply State.modFw_keep | with_reducible apply Keep.foldl | exact Nat.le_of_eq (FwComp.setSpare_floor _ _).symm | exact Nat.le_refl _ | exact fun _ => rfl | split | intro _ _ _ | intro _ _ | intro _ | with_reducible refine Keep.of ?_)

theorem State.fwChanged_keep {κ : Prop} {σ τ : State} (hστ : Keep κ σ τ)  :
    Keep κ σ (State.fwChanged τ) := by
  unfold State.fwChanged
  repeat' (first | with_reducible assumption | with_reducible apply State.fwEnd_keep | with_reducible apply State.fwNote_keep | split | with_reducible refine Keep.of ?_)

theorem State.fwEndHead_keep {κ : Prop} {σ τ : State} (hστ : Keep κ σ τ) (q : Nat) (d : Desc) (st : Status) (act : State → State) (hact : ∀ (x0 : State), Keep κ σ x0 → Keep κ σ (act x0)) :
    Keep κ σ (State.fwEndHead τ q d st act) := by
  unfold State.fwEndHead
  repeat' (first | with_reducible assumption | apply hact | with_reducible apply State.auditDesc_keep | with_reducible apply State.endHead_keep | split)

theorem State.fwOpen_keep {κ : Prop} {σ τ : State} (hστ : Keep κ σ τ) (h : List Byte) (status : W64) :
    Keep κ σ (State.fwOpen τ h status) := by
  unfold State.fwOpen
  repeat' (first | with_reducible assumption | with_reducible apply State.fwEnd_keep | with_reducible apply State.fwNote_keep | with_reducible apply State.modComp_keep | with_reducible apply State.modFw_keep | with_reducible apply Keep.foldl | exact Nat.le_of_eq (FwComp.setSpare_floor _ _).symm | exact Nat.le_refl _ | exact fun _ => rfl | intro _ _ _ | intro _ _ | intro _ | with_reducible refine Keep.of ?_)

theorem execFwOpen_keep {κ : Prop} {σ τ : State} (hστ : Keep κ σ τ) (q : QueueId) (hdr : List Byte) :
    KeepRes κ σ (execFwOpen q hdr τ) := by
  unfold execFwOpen
  repeat' (first | with_reducible assumption | with_reducible apply State.fwOpen_keep | with_reducible apply State.fwEndHead_keep | with_reducible apply State.startRow_keep | with_reducible apply KeepRes.next | exact fun _ h => h | split | intro _ _ _ | intro _ _ | intro _ | with_reducible refine Keep.of ?_)

theorem execFwBlock_keep {κ : Prop} {σ τ : State} (hστ : Keep κ σ τ) (q : QueueId) (data : List Byte) :
    KeepRes κ σ (execFwBlock q data τ) := by
  unfold execFwBlock
  repeat' (first | with_reducible assumption | with_reducible apply State.fwEndHead_keep | with_reducible apply State.fwNote_keep | with_reducible apply State.modComp_keep | with_reducible apply State.modFw_keep | with_reducible apply Edit.put_keep | with_reducible apply State.startRow_keep | with_reducible apply Keep.foldl | with_reducible apply KeepRes.next | exact Nat.le_of_eq (FwComp.setSpare_floor _ _).symm | exact Nat.le_refl _ | exact fun _ h => h | exact fun _ => rfl | split | intro _ _ _ | intro _ _ | intro _ | with_reducible refine Keep.of ?_)

theorem execFwCommit_keep {κ : Prop} {σ τ : State} (hστ : Keep κ σ τ) (q : QueueId) :
    KeepRes κ σ (execFwCommit q τ) := by
  unfold execFwCommit
  repeat' (first | with_reducible assumption | with_reducible apply State.fwEndHead_keep | with_reducible apply State.fwChanged_keep | with_reducible apply State.modComp_keep | with_reducible apply State.startRow_keep | with_reducible apply KeepRes.next | exact Nat.le_of_eq (FwComp.setSpare_floor _ _).symm | exact Nat.le_refl _ | exact fun _ h => h | split | intro _ _ _ | intro _ _ | intro _ | with_reducible refine Keep.of ?_)

theorem State.fwAudit_keep {κ : Prop} {σ τ : State} (hστ : Keep κ σ τ) (action : Nat) (c : Nat) (old : Nat) (new : Nat) :
    Keep κ σ (State.fwAudit τ action c old new) := by
  unfold State.fwAudit
  repeat' (first | with_reducible assumption | with_reducible apply State.auditDevice_keep)

theorem State.trialStart_keep {κ : Prop} {σ τ : State} (hστ : Keep κ σ τ) (c : Nat) :
    Keep κ σ (State.trialStart τ c) := by
  unfold State.trialStart
  repeat' (first | with_reducible assumption | with_reducible apply State.fwAudit_keep | with_reducible apply State.modComp_keep | exact Nat.le_of_eq (FwComp.setSpare_floor _ _).symm | exact Nat.le_refl _ | intro _ _ _ | intro _ _ | intro _ | with_reducible refine Keep.of ?_)

theorem State.activate_keep {κ : Prop} {σ τ : State} (hστ : Keep κ σ τ) (c : Nat) :
    Keep κ σ (State.activate τ c) := by
  unfold State.activate
  repeat' (first | with_reducible assumption | with_reducible apply State.trialStart_keep | with_reducible apply State.fwChanged_keep | with_reducible apply State.modComp_keep | with_reducible apply State.modFw_keep | with_reducible apply State.afterNow_keep | exact Nat.le_of_eq (FwComp.setSpare_floor _ _).symm | exact Nat.le_refl _ | exact fun _ => rfl | split | intro _ _ _ | intro _ _ | intro _ | with_reducible refine Keep.of ?_)

theorem State.portTakes_keep {κ : Prop} {σ τ : State} (hστ : Keep κ σ τ) (q : Nat) (h : W32) (n : Nat) :
    Keep κ σ (State.portTakes τ q h n) := by
  unfold State.portTakes
  repeat' (first | with_reducible assumption | with_reducible apply State.modFw_keep | with_reducible apply State.linkLeave_keep | with_reducible apply Keep.foldl | exact fun _ => rfl | split | intro _ _ _ | intro _ _ | intro _ | with_reducible refine Keep.of ?_)

theorem execFwActivate_keep {κ : Prop} {σ τ : State} (hστ : Keep κ σ τ) (q : QueueId) :
    KeepRes κ σ (execFwActivate q τ) := by
  unfold execFwActivate
  repeat' (first | with_reducible assumption | with_reducible apply State.portTakes_keep | with_reducible apply State.activate_keep | with_reducible apply State.fwEndHead_keep | with_reducible apply State.modFw_keep | with_reducible apply State.startRow_keep | with_reducible apply KeepRes.next | exact fun _ h => h | exact fun _ => rfl | split | intro _ _ _ | intro _ _ | intro _ | with_reducible refine Keep.of ?_)

theorem execFwConfirm_keep {κ : Prop} {σ τ : State} (hστ : Keep κ σ τ) (c : FwId) : KeepRes κ σ (execFwConfirm c τ) := by
  unfold execFwConfirm
  dsimp only
  refine KeepRes.next ?_
  split
  · refine State.fwChanged_keep (State.modComp_keep (State.fwAudit_keep hστ _ _ _ _) _ _ ?_)
    have e : (τ.fwAudit 0x21 (c.val + 1) (entVersion (τ.comp (c.val + 1)).active.entry) (entVersion (τ.comp (c.val + 1)).spare.entry)).fw = τ.fw :=
      State.audit_fw _ _
    rw [e]
    show (τ.comp (c.val + 1)).floor ≤ _
    dsimp only
    split
    · exact Nat.le_max_left _ _
    · exact Nat.le_refl _
  · exact hστ

theorem execFwTrialFailure_keep {κ : Prop} {σ τ : State} (hστ : Keep κ σ τ) (c : FwId) :
    KeepRes κ σ (execFwTrialFailure c τ) := by
  unfold execFwTrialFailure
  repeat' (first | with_reducible assumption | with_reducible apply State.trialStart_keep | with_reducible apply State.fwAudit_keep | with_reducible apply State.fwChanged_keep | with_reducible apply State.modComp_keep | with_reducible apply State.modFw_keep | with_reducible apply KeepRes.next | exact Nat.le_of_eq (FwComp.setSpare_floor _ _).symm | exact Nat.le_refl _ | exact fun _ => rfl | split | intro _ _ _ | intro _ _ | intro _ | with_reducible refine Keep.of ?_)

/-! ### ChipReset -/

theorem State.modCrst_keep {κ : Prop} {σ τ : State} (hστ : Keep κ σ τ) (f : Crst → Crst) :
    Keep κ σ (State.modCrst τ f) := by
  unfold State.modCrst
  repeat' (first | with_reducible assumption | with_reducible refine Keep.of ?_)

theorem State.crstWrite_keep {κ : Prop} {σ τ : State} (hστ : Keep κ σ τ) (v : Nat) :
    Keep κ σ (State.crstWrite τ v) := by
  unfold State.crstWrite
  repeat' (first | with_reducible assumption | with_reducible apply State.chipReset_keep | with_reducible apply State.installerWrite_keep | intro _ _ _ | intro _ _ | intro _)

theorem execCrstGo_keep {κ : Prop} {σ τ : State} (hστ : Keep κ σ τ)  :
    KeepRes κ σ (execCrstGo τ) := by
  unfold execCrstGo
  repeat' (first | with_reducible assumption | with_reducible apply State.crstWrite_keep | with_reducible apply State.settleHost_keep | with_reducible apply KeepRes.next)

theorem execCrstDump_keep {κ : Prop} {σ τ : State} (hστ : Keep κ σ τ)  :
    KeepRes κ σ (execCrstDump τ) := by
  unfold execCrstDump
  repeat' (first | with_reducible assumption | with_reducible apply State.crstWrite_keep | with_reducible apply State.settleHost_keep | with_reducible apply KeepRes.next)

theorem State.stockSection_keep {κ : Prop} {σ τ : State} (hστ : Keep κ σ τ) (silent : Option Nat) : Keep κ σ (τ.stockSection silent) := by
  unfold State.stockSection
  split
  · exact hστ
  · extract_lets h all ws head bs k'
    clear_value bs k'
    split
    · exact State.modCrst_keep hστ _
    · exact State.modCrst_keep (State.hostWrite_keep hστ _ _ _) _

theorem State.stockRest_keep {κ : Prop} {σ τ : State} (hστ : Keep κ σ τ) (n : Nat) : Keep κ σ (State.stockRest n τ) := by
  induction n generalizing τ with
  | zero => exact hστ
  | succ n ih =>
    unfold State.stockRest
    split
    · split
      · exact ih (State.stockSection_keep hστ _)
      · exact hστ
    · exact hστ

theorem State.stockHeader_keep {κ : Prop} {σ τ : State} (hστ : Keep κ σ τ)  :
    Keep κ σ (State.stockHeader τ) := by
  unfold State.stockHeader
  repeat' (first | with_reducible assumption | with_reducible apply State.modCrst_keep | with_reducible apply State.hostWrite_keep | with_reducible apply State.afterNow_keep | with_reducible apply State.setFld_keep | split | intro _ _ _ | intro _ _ | intro _ | with_reducible refine Keep.of ?_)

theorem State.stockEnd_keep {κ : Prop} {σ τ : State} (hστ : Keep κ σ τ)  :
    Keep κ σ (State.stockEnd τ) := by
  unfold State.stockEnd
  repeat' (first | with_reducible assumption | with_reducible apply State.stockHeader_keep | with_reducible apply State.stockRest_keep | split | with_reducible refine Keep.of ?_)

theorem execStocktakeReadTimeout_keep {κ : Prop} {σ τ : State} (hστ : Keep κ σ τ) (words : Nat) :
    KeepRes κ σ (execStocktakeReadTimeout words τ) := by
  unfold execStocktakeReadTimeout
  repeat' (first | with_reducible assumption | with_reducible apply State.stockSection_keep | with_reducible apply KeepRes.next | split | with_reducible refine Keep.of ?_)

theorem execStocktakeLimit_keep {κ : Prop} {σ τ : State} (hστ : Keep κ σ τ)  :
    KeepRes κ σ (execStocktakeLimit τ) := by
  unfold execStocktakeLimit
  repeat' (first | with_reducible assumption | with_reducible apply State.stockHeader_keep | with_reducible apply State.modCrst_keep | with_reducible apply KeepRes.next | split | intro _ _ _ | intro _ _ | intro _ | with_reducible refine Keep.of ?_)

theorem State.applySpare_keep {κ : Prop} {σ τ : State} (hστ : Keep κ σ τ) (l : Nat) :
    Keep κ σ (State.applySpare τ l) := by
  unfold State.applySpare
  repeat' (first | with_reducible assumption | with_reducible apply State.replaceEvent_keep | with_reducible apply State.postFault_keep | split | with_reducible refine Keep.of ?_)

theorem State.resetRegs_keep {κ : Prop} {σ τ : State} (hστ : Keep κ σ τ)  :
    Keep κ σ (State.resetRegs τ) := by
  unfold State.resetRegs
  repeat' (first | with_reducible assumption | split | with_reducible refine Keep.of ?_ | with_reducible refine Keep.ofTabs ?_ ⟨rfl, rfl, rfl⟩ (fun h => by (try dsimp only); first | exact h | exact Tab.wf_clearRange h _ _ | exact Tab.wf_set h _ _ | exact Tab.wf_setRange h _ _ | exact Tab.wf_filter h _ | exact Tab.wf_nil _) (fun h => by (try dsimp only); first | exact h | exact Tab.wf_clearRange h _ _ | exact Tab.wf_set h _ _ | exact Tab.wf_setRange h _ _ | exact Tab.wf_filter h _ | exact Tab.wf_nil _) (fun h => by (try dsimp only); first | exact h | exact Tab.wf_clearRange h _ _ | exact Tab.wf_set h _ _ | exact Tab.wf_setRange h _ _ | exact Tab.wf_filter h _ | exact Tab.wf_nil _) (fun h => by (try dsimp only); first | exact h | exact Tab.rising_filter h _ | rfl) (by simp) (fun _ => ⟨rfl, rfl⟩) ⟨Nat.le_refl _, Nat.le_refl _⟩ (fun _ => Nat.le_refl _) | intro _ _ _ | intro _ | dsimp -zeta only | (extract_lets +onlyGivenNames w; first | (refine (fun (hw : Keep κ σ w) => ?_) ?_; clear_value w; rotate_left; subst w; rotate_left) | (refine (fun (hw : Keep κ σ w.1) => ?_) ?_; clear_value w; rotate_left; subst w; rotate_left) | skip) | dsimp only | dsimp +zetaDelta only)

theorem State.dieReset_keep {κ : Prop} {σ τ : State} (hστ : Keep κ σ τ)  :
    Keep κ σ (State.dieReset τ) := by
  unfold State.dieReset
  repeat' (first | with_reducible assumption | with_reducible apply State.resetRegs_keep | with_reducible apply State.applySpare_keep | with_reducible apply Edit.count_keep | with_reducible apply State.resetTables_keep | with_reducible apply Keep.foldl | with_reducible apply Keep.foldlFst | with_reducible refine Keep.of ?_ | with_reducible refine Keep.ofTabs ?_ ⟨rfl, rfl, rfl⟩ (fun h => by (try dsimp only); first | exact h | exact Tab.wf_clearRange h _ _ | exact Tab.wf_set h _ _ | exact Tab.wf_setRange h _ _ | exact Tab.wf_filter h _ | exact Tab.wf_nil _) (fun h => by (try dsimp only); first | exact h | exact Tab.wf_clearRange h _ _ | exact Tab.wf_set h _ _ | exact Tab.wf_setRange h _ _ | exact Tab.wf_filter h _ | exact Tab.wf_nil _) (fun h => by (try dsimp only); first | exact h | exact Tab.wf_clearRange h _ _ | exact Tab.wf_set h _ _ | exact Tab.wf_setRange h _ _ | exact Tab.wf_filter h _ | exact Tab.wf_nil _) (fun h => by (try dsimp only); first | exact h | exact Tab.rising_filter h _ | rfl) (by simp) (fun _ => ⟨rfl, rfl⟩) ⟨Nat.le_refl _, Nat.le_refl _⟩ (fun _ => Nat.le_refl _) | intro _ _ _ | intro _ | dsimp -zeta only | (extract_lets +onlyGivenNames w; first | (refine (fun (hw : Keep κ σ w) => ?_) ?_; clear_value w; rotate_left; subst w; rotate_left) | (refine (fun (hw : Keep κ σ w.1) => ?_) ?_; clear_value w; rotate_left; subst w; rotate_left) | skip) | dsimp only | dsimp +zetaDelta only)

theorem State.undefine_keep {κ : Prop} {σ τ : State} (hστ : Keep κ σ τ) (lines : List Nat) : Keep κ σ (τ.undefine lines) := by
  have key : ∀ (n : Nat) (ls : List Nat) (a : Tab Byte × Nat), Tab.wf (0 : Byte) a.1 = true →
      Tab.wf (0 : Byte) (ls.foldl (fun (r : Tab Byte × Nat) k =>
        (Tab.setRange 0 r.1 (64 * k) ((List.range 64).map (fun i => Config.anyByte (n * 2 ^ 32 + 64 * r.2 + i))), r.2 + 1)) a).1 = true := by
    intro n ls
    induction ls with
    | nil => exact fun _ h => h
    | cons k ks ih => exact fun a h => ih _ (Tab.wf_setRange h _ _)
  unfold State.undefine
  extract_lets +onlyGivenNames r
  have hr : Tab.wf (0 : Byte) τ.mem.bytes = true → Tab.wf (0 : Byte) r.1 = true := fun h => key τ.free lines (τ.mem.bytes, 0) h
  clear_value r
  apply State.afterAny_keep
  exact Keep.ofTabs hστ ⟨rfl, rfl, rfl⟩ hr id id id (by simp) (fun _ => ⟨rfl, rfl⟩) ⟨Nat.le_refl _, Nat.le_refl _⟩ (fun _ => Nat.le_refl _)

theorem State.silence_keep {κ : Prop} {σ τ : State} (hστ : Keep κ σ τ) (silent : List (UnitId × List Nat)) :
    Keep κ σ (State.silence τ silent) := by
  unfold State.silence
  repeat' (first | with_reducible assumption | with_reducible apply State.undefine_keep | with_reducible apply State.modCrst_keep | with_reducible apply Keep.foldl | intro _ _ _ | intro _ _ | intro _ | with_reducible refine Keep.of ?_)

theorem execComputeDieResetDone_keep {κ : Prop} {σ τ : State} (hστ : Keep κ σ τ) :
    KeepRes κ σ (execComputeDieResetDone τ) := by
  unfold execComputeDieResetDone
  repeat' (first | with_reducible assumption | with_reducible apply State.dieReset_keep | with_reducible apply State.stockEnd_keep | with_reducible apply State.modCrst_keep | with_reducible apply KeepRes.next | split | intro _ _ _ | intro _ _ | intro _ | with_reducible refine Keep.of ?_)

theorem State.stacksUp_keep {κ : Prop} {σ τ : State} (hστ : Keep κ σ τ) (hot : List StackId) :
    Keep κ σ (State.stacksUp τ hot) := by
  unfold State.stacksUp
  repeat' (first | with_reducible assumption | with_reducible apply State.replaceEvent_keep | with_reducible apply State.thermalRec_keep | with_reducible apply State.modStack_keep | with_reducible apply Keep.foldl | split | intro _ _ _ | intro _ _ | intro _ | with_reducible refine Keep.of ?_)

theorem State.pchFails_keep {κ : Prop} {σ τ : State} (hστ : Keep κ σ τ) (u : Nat) (k : Nat) :
    Keep κ σ (State.pchFails τ u k) := by
  unfold State.pchFails
  repeat' (first | with_reducible assumption | with_reducible apply State.replaceEvent_keep | split | intro _ _ _ | intro _ _ | intro _ | with_reducible refine Keep.of ?_)

theorem State.regionsBack_keep {κ : Prop} {σ τ : State} (hστ : Keep κ σ τ) (cut : Vector (BitVec 32) 24) :
    Keep κ σ (State.regionsBack τ cut) := by
  unfold State.regionsBack
  repeat' (first | with_reducible assumption | with_reducible apply State.modRegion_keep | with_reducible apply Keep.foldl | split | intro _ _ _ | intro _ _ | intro _ | with_reducible refine Keep.of ?_)

theorem State.pitchBack_keep {κ : Prop} {σ τ : State} (hστ : Keep κ σ τ) (cut : Vector (BitVec 32) 24) (p : Nat) :
    Keep κ σ (State.pitchBack τ cut p) := by
  unfold State.pitchBack
  repeat' (first | with_reducible assumption | with_reducible apply State.restoreUnits_keep | with_reducible apply State.teardown_keep | with_reducible apply State.writePsb_keep | with_reducible apply State.modPitch_keep | with_reducible apply State.setFld_keep | split | intro _ _ _ | intro _ _ | intro _ | with_reducible refine Keep.of ?_)

theorem State.perstRegs_keep {κ : Prop} {σ τ : State} (hστ : Keep κ σ τ) : Keep κ σ (State.perstRegs τ) := by
  unfold State.perstRegs
  split
  · exact State.resetRegs_keep hστ
  · exact hστ

theorem State.chipBack_keep {κ : Prop} {σ τ : State} (hστ : Keep κ σ τ) (cut : Vector (BitVec 32) 24) :
    Keep κ σ (State.chipBack τ cut) := by
  unfold State.chipBack
  repeat' (first | with_reducible assumption | with_reducible apply State.pitchBack_keep | with_reducible apply State.perstRegs_keep | with_reducible apply State.regionsBack_keep | with_reducible apply State.modCrst_keep | with_reducible apply Edit.count_keep | with_reducible apply State.reviewDegraded_keep | with_reducible apply State.wakeFront_keep | with_reducible apply State.postDbk_keep | with_reducible apply State.eventMsg_keep | with_reducible apply State.modPitch_keep | with_reducible apply Keep.foldl | split | intro _ _ _ | intro _ _ | intro _ | with_reducible refine Keep.of ?_)

theorem State.pchsFail_keep {κ : Prop} {σ τ : State} (hστ : Keep κ σ τ) (units : List UnitFinding) :
    Keep κ σ (State.pchsFail τ units) := by
  unfold State.pchsFail
  repeat' (first | with_reducible assumption | with_reducible apply State.pchFails_keep | with_reducible apply Keep.foldl | intro _ _ _ | intro _ _ | intro _)

theorem State.hbmUp_keep {κ : Prop} {σ τ : State} (hστ : Keep κ σ τ) (hot : List StackId) (units : List UnitFinding) (sts : List StallId) :
    Keep κ σ (State.hbmUp τ hot units sts) := by
  unfold State.hbmUp
  repeat' (first | with_reducible assumption | with_reducible apply State.chipBack_keep | with_reducible apply State.pchsFail_keep | with_reducible apply State.silence_keep | with_reducible apply State.stacksUp_keep | with_reducible apply State.trialStart_keep | with_reducible apply State.fwChanged_keep | with_reducible apply State.mapOutStall_keep | with_reducible apply Keep.foldl | split | intro _ _ _ | intro _ _ | intro _)

theorem State.watchOne_keep {κ : Prop} {σ τ : State} (hστ : Keep κ σ τ) (prev : W64) (now : W64) (on : Bool) (x : Subject) :
    Keep κ σ (State.watchOne τ prev now on x) := by
  unfold State.watchOne
  repeat' (first | with_reducible assumption | with_reducible apply Edit.put_keep | with_reducible apply State.postEvent_keep | with_reducible apply State.afterAny_keep | split | intro _ _ _ | intro _ _ | intro _ | with_reducible refine Keep.of ?_)

theorem execHangWindow_keep {κ : Prop} {σ τ : State} (hστ : Keep κ σ τ)  :
    KeepRes κ σ (execHangWindow τ) := by
  unfold execHangWindow
  repeat' (first | with_reducible assumption | with_reducible apply State.watchOne_keep | with_reducible apply State.afterNow_keep | with_reducible apply Keep.foldl | with_reducible apply KeepRes.next | with_reducible apply Keep.foldlFst | split | with_reducible refine Keep.of ?_ | with_reducible refine Keep.ofTabs ?_ ⟨rfl, rfl, rfl⟩ (fun h => by (try dsimp only); first | exact h | exact Tab.wf_clearRange h _ _ | exact Tab.wf_set h _ _ | exact Tab.wf_setRange h _ _ | exact Tab.wf_filter h _ | exact Tab.wf_nil _) (fun h => by (try dsimp only); first | exact h | exact Tab.wf_clearRange h _ _ | exact Tab.wf_set h _ _ | exact Tab.wf_setRange h _ _ | exact Tab.wf_filter h _ | exact Tab.wf_nil _) (fun h => by (try dsimp only); first | exact h | exact Tab.wf_clearRange h _ _ | exact Tab.wf_set h _ _ | exact Tab.wf_setRange h _ _ | exact Tab.wf_filter h _ | exact Tab.wf_nil _) (fun h => by (try dsimp only); first | exact h | exact Tab.rising_filter h _ | rfl) (by simp) (fun _ => ⟨rfl, rfl⟩) ⟨Nat.le_refl _, Nat.le_refl _⟩ (fun _ => Nat.le_refl _) | intro _ _ _ | intro _ | dsimp -zeta only | (extract_lets +onlyGivenNames w; first | (refine (fun (hw : Keep κ σ w) => ?_) ?_; clear_value w; rotate_left; subst w; rotate_left) | (refine (fun (hw : Keep κ σ w.1) => ?_) ?_; clear_value w; rotate_left; subst w; rotate_left) | skip) | dsimp only | dsimp +zetaDelta only)

theorem execDieToDieLaneFailure_keep {κ : Prop} {σ τ : State} (hστ : Keep κ σ τ) (iod : Fin 2) (syn : W64) :
    KeepRes κ σ (execDieToDieLaneFailure iod syn τ) := by
  unfold execDieToDieLaneFailure
  repeat' (first | with_reducible assumption | with_reducible apply State.chipFatal_keep | with_reducible apply KeepRes.next)

theorem execCallerSilence_keep {κ : Prop} {σ τ : State} (hστ : Keep κ σ τ) (c : Fin 4) :
    KeepRes κ σ (execCallerSilence c τ) := by
  unfold execCallerSilence
  repeat' (first | with_reducible assumption | with_reducible apply State.chipFatal_keep | with_reducible apply KeepRes.next)

theorem execUncorrectableStateError_keep {κ : Prop} {σ τ : State} (hστ : Keep κ σ τ) (loc : StateLoc) (syn : W64) :
    KeepRes κ σ (execUncorrectableStateError loc syn τ) := by
  unfold execUncorrectableStateError
  repeat' (first | with_reducible assumption | with_reducible apply State.chipFatal_keep | with_reducible apply State.pitchFatal_keep | with_reducible apply State.stallFault_keep | with_reducible apply KeepRes.next | split | with_reducible refine Keep.of ?_)

theorem execClockOrPowerFault_keep {κ : Prop} {σ τ : State} (hστ : Keep κ σ τ) (domain : Fin 8) :
    KeepRes κ σ (execClockOrPowerFault domain τ) := by
  unfold execClockOrPowerFault
  repeat' (first | with_reducible assumption | with_reducible apply State.chipFatal_keep | with_reducible apply KeepRes.next)

/-! ### Module -/

theorem State.modMd_keep {κ : Prop} {σ τ : State} (hστ : Keep κ σ τ) (f : Module → Module) :
    Keep κ σ (State.modMd τ f) := by
  unfold State.modMd
  repeat' (first | with_reducible assumption | with_reducible refine Keep.of ?_)

theorem State.railsFall_keep {κ : Prop} {σ τ : State} (hστ : Keep κ σ τ) : Keep κ σ τ.railsFall := by
  unfold State.railsFall
  have h := State.relock_keep hστ
  generalize State.relock τ = u at h
  exact Keep.ofTabs h ⟨rfl, rfl, rfl⟩ (fun _ => Tab.wf_nil _) (fun _ => Tab.wf_nil _) (fun _ => Tab.wf_nil _)
    (fun g => Tab.rising_filter g _) (by simp) (fun _ => ⟨rfl, rfl⟩) ⟨Nat.le_refl _, Nat.le_refl _⟩ (fun _ => Nat.le_refl _)

theorem State.lossNotice_keep {κ : Prop} {σ τ : State} (hστ : Keep κ σ τ) (cause : Nat) :
    Keep κ σ (State.lossNotice τ cause) := by
  unfold State.lossNotice
  repeat' (first | with_reducible assumption | with_reducible apply State.emit_keep | split | with_reducible refine Keep.of ?_)

theorem State.pwrgd_keep {κ : Prop} {σ τ : State} (hστ : Keep κ σ τ) (on : Bool) :
    Keep κ σ (State.pwrgd τ on) := by
  unfold State.pwrgd
  repeat' (first | with_reducible assumption | with_reducible apply State.emit_keep)

theorem State.railsCut_keep {κ : Prop} {σ τ : State} (hστ : Keep κ σ τ) (n : HealthNote) :
    Keep κ σ (State.railsCut τ n) := by
  unfold State.railsCut
  repeat' (first | with_reducible assumption | with_reducible apply State.pwrgd_keep | with_reducible apply State.lossNotice_keep | with_reducible apply State.railsFall_keep | with_reducible apply State.modMd_keep | intro _ _ _ | intro _ _ | intro _ | with_reducible refine Keep.of ?_)

theorem State.trip_keep {κ : Prop} {σ τ : State} (hστ : Keep κ σ τ) (n : Nat) (temp : BitVec 12) :
    Keep κ σ (State.trip τ n temp) := by
  unfold State.trip
  repeat' (first | with_reducible assumption | with_reducible apply State.railsCut_keep | with_reducible apply State.modMd_keep | with_reducible apply State.emit_keep | with_reducible apply State.afterNow_keep | split | intro _ _ _ | intro _ _ | intro _ | with_reducible refine Keep.of ?_)

theorem State.railsStart_keep {κ : Prop} {σ τ : State} (hστ : Keep κ σ τ)  :
    Keep κ σ (State.railsStart τ) := by
  unfold State.railsStart
  repeat' (first | with_reducible assumption | with_reducible apply State.modMd_keep | split | intro _ _ _ | intro _ _ | intro _ | with_reducible refine Keep.of ?_)

theorem execPwrEnAssert_keep {κ : Prop} {σ τ : State} (hστ : Keep κ σ τ)  :
    KeepRes κ σ (execPwrEnAssert τ) := by
  unfold execPwrEnAssert
  repeat' (first | with_reducible assumption | with_reducible apply State.railsStart_keep | with_reducible apply State.modMd_keep | with_reducible apply KeepRes.next | intro _ _ _ | intro _ _ | intro _ | with_reducible refine Keep.of ?_)

theorem State.railsRemove_keep {κ : Prop} {σ τ : State} (hστ : Keep κ σ τ)  :
    Keep κ σ (State.railsRemove τ) := by
  unfold State.railsRemove
  repeat' (first | with_reducible assumption | with_reducible apply State.pwrgd_keep | with_reducible apply State.railsFall_keep | with_reducible apply State.modMd_keep | intro _ _ _ | intro _ _ | intro _ | with_reducible refine Keep.of ?_)

theorem execPwrEnDeassert_keep {κ : Prop} {σ τ : State} (hστ : Keep κ σ τ)  :
    KeepRes κ σ (execPwrEnDeassert τ) := by
  unfold execPwrEnDeassert
  repeat' (first | with_reducible assumption | with_reducible apply State.railsRemove_keep | with_reducible apply State.modMd_keep | with_reducible apply State.emit_keep | with_reducible apply KeepRes.next | split | intro _ _ _ | intro _ _ | intro _ | with_reducible refine Keep.of ?_)

theorem State.fusesLoad_keep {κ : Prop} {σ τ : State} (hστ : Keep κ σ τ)  :
    Keep κ σ (State.fusesLoad τ) := by
  unfold State.fusesLoad
  repeat' (first | with_reducible assumption | with_reducible apply State.applySpare_keep | with_reducible apply Keep.foldl | intro _ _ _ | intro _ _ | intro _)

theorem execRailInLimits_keep {κ : Prop} {σ τ : State} (hστ : Keep κ σ τ) (r : Fin 6) :
    KeepRes κ σ (execRailInLimits r τ) := by
  unfold execRailInLimits
  repeat' (first | with_reducible assumption | with_reducible apply State.fusesLoad_keep | with_reducible apply State.pwrgd_keep | with_reducible apply State.modMd_keep | with_reducible apply KeepRes.next | split | intro _ _ _ | intro _ _ | intro _ | with_reducible refine Keep.of ?_)

theorem execRailOrderTimeout_keep {κ : Prop} {σ τ : State} (hστ : Keep κ σ τ)  :
    KeepRes κ σ (execRailOrderTimeout τ) := by
  unfold execRailOrderTimeout
  repeat' (first | with_reducible assumption | with_reducible apply State.railsRemove_keep | with_reducible apply State.modMd_keep | with_reducible apply KeepRes.next | split | intro _ _ _ | intro _ _ | intro _ | with_reducible refine Keep.of ?_)

theorem execRailDischarged_keep {κ : Prop} {σ τ : State} (hστ : Keep κ σ τ) (r : Fin 6) :
    KeepRes κ σ (execRailDischarged r τ) := by
  unfold execRailDischarged
  repeat' (first | with_reducible assumption | with_reducible apply State.railsStart_keep | with_reducible apply State.modMd_keep | with_reducible apply KeepRes.next | split | intro _ _ _ | intro _ _ | intro _ | with_reducible refine Keep.of ?_)

theorem execUndervoltage_keep {κ : Prop} {σ τ : State} (hστ : Keep κ σ τ)  :
    KeepRes κ σ (execUndervoltage τ) := by
  unfold execUndervoltage
  repeat' (first | with_reducible assumption | with_reducible apply State.railsCut_keep | with_reducible apply KeepRes.next | split)

theorem execRegulatorFault_keep {κ : Prop} {σ τ : State} (hστ : Keep κ σ τ) (r : Fin 7) :
    KeepRes κ σ (execRegulatorFault r τ) := by
  unfold execRegulatorFault
  repeat' (first | with_reducible assumption | with_reducible apply State.railsCut_keep | with_reducible apply KeepRes.next | split)

theorem execLossOfSupply_keep {κ : Prop} {σ τ : State} (hστ : Keep κ σ τ) : KeepRes κ σ (execLossOfSupply τ) := by
  unfold execLossOfSupply
  refine KeepRes.next ?_
  split
  · have h := State.railsFall_keep hστ
    generalize State.railsFall τ = u at h
    exact Keep.ofTabs h ⟨rfl, rfl, rfl⟩ id id id (fun _ => rfl) (by simp) (fun _ => ⟨rfl, rfl⟩) ⟨Nat.le_refl _, Nat.le_refl _⟩ (fun _ => Nat.le_refl _)
  · exact hστ

theorem State.fwLoad_keep {κ : Prop} {σ τ : State} (hστ : Keep κ σ τ) (c : Nat) (active other : Bool) : Keep κ σ (τ.fwLoad c active other).1 := by
  unfold State.fwLoad
  dsimp only
  by_cases ht : (τ.comp c).spare.st = .trial
  · rw [if_pos ht]
    have h1 := State.fwChanged_keep (State.modFw_keep (State.modComp_keep (State.fwAudit_keep hστ 0x22 c (entVersion (τ.comp c).spare.entry)
        (entVersion (τ.comp c).active.entry)) c (fun y => y.setSpare { y.spare with st := .failed })
        (Nat.le_of_eq (FwComp.setSpare_floor _ _).symm)) (fun f =>
          { f with sess := f.sess.map (fun x => { x with reason := Status.hwFault.code, rcomp := c }) }) (fun _ => rfl))
    rw [if_neg (c := (τ.comp c).spare.st = .previous ∧ other = true) (by rw [ht]; intro h; cases h.1)]
    split
    · exact State.fwChanged_keep (State.trialStart_keep hστ _)
    · split
      · exact h1
      · exact h1
  · rw [if_neg ht, if_neg (fun h => ht h.1)]
    split
    · exact hστ
    · split
      · dsimp only
        refine State.modComp_keep (State.fwAudit_keep hστ _ _ _ _) _ _ ?_
        have e : (τ.fwAudit 0x22 c (entVersion (τ.comp c).active.entry) (entVersion (τ.comp c).spare.entry)).fw = τ.fw := State.audit_fw _ _
        rw [e]
        split
        · exact Nat.le_refl _
        · exact Nat.le_refl _
      · exact hστ

theorem State.fwSweep_keep {κ : Prop} {σ τ : State} (hστ : Keep κ σ τ)  :
    Keep κ σ (State.fwSweep τ) := by
  unfold State.fwSweep
  repeat' (first | with_reducible assumption | with_reducible apply State.modComp_keep | with_reducible apply Keep.foldl | exact Nat.le_of_eq (FwComp.setSpare_floor _ _).symm | exact Nat.le_refl _ | split | intro _ _ _ | intro _ _ | intro _)

theorem execSupplyGood_keep {κ : Prop} {σ τ : State} (hστ : Keep κ σ τ) (active : Bool) (other : Bool) :
    KeepRes κ σ (execSupplyGood active other τ) := by
  unfold execSupplyGood
  repeat' (first | with_reducible assumption | with_reducible apply State.fwSweep_keep | with_reducible apply State.fwLoad_keep | with_reducible apply State.railsStart_keep | with_reducible apply State.modMd_keep | with_reducible apply State.auditDevice_keep | with_reducible apply State.emit_keep | with_reducible apply KeepRes.next | split | intro _ _ _ | intro _ _ | intro _ | with_reducible refine Keep.of ?_)

theorem State.startDone_keep {κ : Prop} {σ τ : State} (hστ : Keep κ σ τ)  :
    Keep κ σ (State.startDone τ) := by
  unfold State.startDone
  repeat' (first | with_reducible assumption | with_reducible apply State.modMd_keep | with_reducible apply State.reviewDegraded_keep | with_reducible apply State.postFault_keep | with_reducible apply State.emit_keep | split | intro _ _ _ | intro _ _ | intro _ | with_reducible refine Keep.of ?_)

theorem State.startTry_keep {κ : Prop} {σ τ : State} (hστ : Keep κ σ τ)  :
    Keep κ σ (State.startTry τ) := by
  unfold State.startTry
  repeat' (first | with_reducible assumption | with_reducible apply State.startDone_keep | split)

theorem execComponentVerified_keep {κ : Prop} {σ τ : State} (hστ : Keep κ σ τ) (c : FwId) (active : Bool) (other : Bool) :
    KeepRes κ σ (execComponentVerified c active other τ) := by
  unfold execComponentVerified
  repeat' (first | with_reducible assumption | with_reducible apply State.startTry_keep | with_reducible apply State.fwLoad_keep | with_reducible apply State.modMd_keep | with_reducible apply KeepRes.next | split | intro _ _ _ | intro _ _ | intro _ | with_reducible refine Keep.of ?_)

theorem execHbmTrainingDone_keep {κ : Prop} {σ τ : State} (hστ : Keep κ σ τ) (hot : List StackId) (units : List UnitFinding) (sts : List StallId) :
    KeepRes κ σ (execHbmTrainingDone hot units sts τ) := by
  unfold execHbmTrainingDone
  repeat' (first | with_reducible assumption | with_reducible apply State.startTry_keep | with_reducible apply State.modMd_keep | with_reducible apply State.hbmUp_keep | with_reducible apply State.pchsFail_keep | with_reducible apply State.stacksUp_keep | with_reducible apply State.mapOutStall_keep | with_reducible apply Keep.foldl | with_reducible apply KeepRes.next | split | intro _ _ _ | intro _ _ | intro _ | with_reducible refine Keep.of ?_)

theorem State.hostReset_keep {κ : Prop} {σ τ : State} (hστ : Keep κ σ τ)  :
    Keep κ σ (State.hostReset τ) := by
  unfold State.hostReset
  repeat' (first | with_reducible assumption | with_reducible apply State.modMd_keep | intro _ _ _ | intro _ _ | intro _ | with_reducible refine Keep.of ?_)

theorem execPerstAssert_keep {κ : Prop} {σ τ : State} (hστ : Keep κ σ τ)  :
    KeepRes κ σ (execPerstAssert τ) := by
  unfold execPerstAssert
  repeat' (first | with_reducible assumption | with_reducible apply State.hostReset_keep | with_reducible apply State.modMd_keep | with_reducible apply State.chipReset_keep | with_reducible apply KeepRes.next | split | intro _ _ _ | intro _ _ | intro _ | with_reducible refine Keep.of ?_)

theorem execPerstDeassert_keep {κ : Prop} {σ τ : State} (hστ : Keep κ σ τ)  :
    KeepRes κ σ (execPerstDeassert τ) := by
  unfold execPerstDeassert
  repeat' (first | with_reducible assumption | with_reducible apply State.modMd_keep | with_reducible apply KeepRes.next | intro _ _ _ | intro _ _ | intro _ | with_reducible refine Keep.of ?_)

theorem execCableOvercurrent_keep {κ : Prop} {σ τ : State} (hστ : Keep κ σ τ) (n : PortId) :
    KeepRes κ σ (execCableOvercurrent n τ) := by
  unfold execCableOvercurrent
  repeat' (first | with_reducible assumption | with_reducible apply State.modMd_keep | with_reducible apply State.linkLeave_keep | with_reducible apply Keep.foldl | with_reducible apply KeepRes.next | split | intro _ _ _ | intro _ _ | intro _ | with_reducible refine Keep.of ?_)

/-! ### Power -/

theorem execStallDoze_keep {κ : Prop} {σ τ : State} (hστ : Keep κ σ τ) (st : StallId) :
    KeepRes κ σ (execStallDoze st τ) := by
  unfold execStallDoze
  repeat' (first | with_reducible assumption | with_reducible apply State.setPwr_keep | with_reducible apply KeepRes.next | split)

theorem execStallNap_keep {κ : Prop} {σ τ : State} (hστ : Keep κ σ τ) (st : StallId) :
    KeepRes κ σ (execStallNap st τ) := by
  unfold execStallNap
  repeat' (first | with_reducible assumption | with_reducible apply State.setPwr_keep | with_reducible apply KeepRes.next | split)

theorem execStallDark_keep {κ : Prop} {σ τ : State} (hστ : Keep κ σ τ) (st : StallId) :
    KeepRes κ σ (execStallDark st τ) := by
  unfold execStallDark
  repeat' (first | with_reducible assumption | with_reducible apply State.setPwr_keep | with_reducible apply KeepRes.next | split)

theorem execStallWake_keep {κ : Prop} {σ τ : State} (hστ : Keep κ σ τ) (st : StallId) :
    KeepRes κ σ (execStallWake st τ) := by
  unfold execStallWake
  repeat' (first | with_reducible assumption | with_reducible apply State.wakeStall_keep | with_reducible apply KeepRes.next | split)

theorem State.modPw_keep {κ : Prop} {σ τ : State} (hστ : Keep κ σ τ) (f : Power → Power) : Keep κ σ (τ.modPw f) :=
  State.retune_keep (Keep.of hστ ⟨rfl, rfl, rfl⟩ ⟨rfl, rfl⟩ rfl ⟨rfl, rfl, rfl, rfl⟩ rfl)

theorem execPowerLimitPeriod_keep {κ : Prop} {σ τ : State} (hστ : Keep κ σ τ) (watts : Nat) :
    KeepRes κ σ (execPowerLimitPeriod watts τ) := by
  unfold execPowerLimitPeriod
  repeat' (first | with_reducible assumption | with_reducible apply State.modPw_keep | with_reducible apply State.afterAny_keep | with_reducible apply KeepRes.next | split | intro _ _ _ | intro _ _ | intro _ | with_reducible refine Keep.of ?_)

theorem State.pwrLimitWrite_keep {κ : Prop} {σ τ : State} (hστ : Keep κ σ τ) (v : Nat) :
    Keep κ σ (State.pwrLimitWrite τ v) := by
  unfold State.pwrLimitWrite
  repeat' (first | with_reducible assumption | with_reducible apply State.modPw_keep | with_reducible apply State.installerWrite_keep | with_reducible apply State.setRaw_keep | split | intro _ _ _ | intro _ _ | intro _ | with_reducible refine Keep.of ?_)

theorem execCurrentAlarm_keep {κ : Prop} {σ τ : State} (hστ : Keep κ σ τ)  :
    KeepRes κ σ (execCurrentAlarm τ) := by
  unfold execCurrentAlarm
  repeat' (first | with_reducible assumption | with_reducible apply State.modPw_keep | with_reducible apply KeepRes.next | intro _ _ _ | intro _ _ | intro _ | with_reducible refine Keep.of ?_)

theorem execCurrentAlarmClear_keep {κ : Prop} {σ τ : State} (hστ : Keep κ σ τ)  :
    KeepRes κ σ (execCurrentAlarmClear τ) := by
  unfold execCurrentAlarmClear
  repeat' (first | with_reducible assumption | with_reducible apply State.modPw_keep | with_reducible apply KeepRes.next | intro _ _ _ | intro _ _ | intro _ | with_reducible refine Keep.of ?_)

theorem State.modSensor_keep {κ : Prop} {σ τ : State} (hστ : Keep κ σ τ) (n : Nat) (f : Sensor → Sensor) :
    Keep κ σ (State.modSensor τ n f) := by
  unfold State.modSensor
  repeat' (first | with_reducible assumption | with_reducible apply State.modPw_keep | intro _ _ _ | intro _ _ | intro _ | with_reducible refine Keep.of ?_)

theorem execDieSensorRead_keep {κ : Prop} {σ τ : State} (hστ : Keep κ σ τ) (n : SensorId) (temp : Option (BitVec 12)) :
    KeepRes κ σ (execDieSensorRead n temp τ) := by
  unfold execDieSensorRead
  repeat' (first | with_reducible assumption | with_reducible apply State.modSensor_keep | with_reducible apply State.trip_keep | with_reducible apply KeepRes.next | split | intro _ _ _ | intro _ _ | intro _ | with_reducible refine Keep.of ?_)

theorem execThermalCeilingStep_keep {κ : Prop} {σ τ : State} (hστ : Keep κ σ τ) (n : SensorId) :
    KeepRes κ σ (execThermalCeilingStep n τ) := by
  unfold execThermalCeilingStep
  repeat' (first | with_reducible assumption | with_reducible apply State.modSensor_keep | with_reducible apply KeepRes.next | split | intro _ _ _ | intro _ _ | intro _ | with_reducible refine Keep.of ?_)

end Sys2Proof.Machine
end

