-- ==== Sys2Proof/Laws/KeepRest.lean ====
section
/-! SUPPORT. `Keep` of the packer, registers, pairs, PCIe, the Porter, sequenced events and sideband: one lemma for each operation and meaning. -/

namespace Sys2Proof.Machine

set_option Elab.async false
set_option linter.all false

/-! ### Packer -/

/-- The state that a unit's decode leaves. -/
@[reducible] def UnitOut.state : UnitOut → State
  | .wait s => s
  | .err s _ => s
  | .bad s _ => s
  | .poisoned s _ => s
  | .got s _ => s

theorem unitResult_state (s : State) (r : Reader) (d : TDesc) (u ha : Nat) (h payload : List Byte) (lens : List Nat) (g : Seg) (seg : Bool) :
    (unitResult s r d u ha h payload lens g seg).state = s := by
  unfold unitResult
  dsimp only
  repeat' (first | rfl | split)

theorem State.decodeUnit_keep {κ : Prop} {σ τ : State} (hστ : Keep κ σ τ) (r : Reader) (p n : Nat) (csr : Option Nat) (d : TDesc) (u : Nat) (first : Option Nat) :
    Keep κ σ (τ.decodeUnit r p n csr d u first).state := by
  unfold State.decodeUnit
  extract_lets ad seg stop
  have hs : ∀ x, Keep κ σ (stop x).state := by
    intro x
    subst stop
    dsimp only
    split
    · exact hστ
    · split
      · exact hστ
      · exact hστ
  have hu : ∀ t h pl lens g, Keep κ σ t → Keep κ σ (unitResult t r d u ad.1 h pl lens g seg).state := by
    intro t h pl lens g ht
    rw [unitResult_state]
    exact ht
  clear_value stop
  repeat' (first | with_reducible exact hs _ | with_reducible exact hu _ _ _ _ _ hστ | with_reducible exact hu _ _ _ _ _ (State.endUse_keep hστ _) | split | with_reducible exact State.addUse_keep (State.slotTake_keep hστ _ _) _ | with_reducible exact hστ | dsimp only)

theorem State.decodeUnit_wait {κ : Prop} {σ τ : State} (hστ : Keep κ σ τ) {r : Reader} {p n : Nat} {csr : Option Nat} {d : TDesc} {u : Nat} {first : Option Nat} {v : State}
    (hv : τ.decodeUnit r p n csr d u first = .wait v) : Keep κ σ v := by
  have h := State.decodeUnit_keep hστ r p n csr d u first; rw [hv] at h; exact h

theorem State.decodeUnit_err {κ : Prop} {σ τ : State} (hστ : Keep κ σ τ) {r : Reader} {p n : Nat} {csr : Option Nat} {d : TDesc} {u : Nat} {first : Option Nat} {v : State} {e : XErr}
    (hv : τ.decodeUnit r p n csr d u first = .err v e) : Keep κ σ v := by
  have h := State.decodeUnit_keep hστ r p n csr d u first; rw [hv] at h; exact h

theorem State.decodeUnit_bad {κ : Prop} {σ τ : State} (hστ : Keep κ σ τ) {r : Reader} {p n : Nat} {csr : Option Nat} {d : TDesc} {u : Nat} {first : Option Nat} {v : State} {e : XErr}
    (hv : τ.decodeUnit r p n csr d u first = .bad v e) : Keep κ σ v := by
  have h := State.decodeUnit_keep hστ r p n csr d u first; rw [hv] at h; exact h

theorem State.decodeUnit_poisoned {κ : Prop} {σ τ : State} (hστ : Keep κ σ τ) {r : Reader} {p n : Nat} {csr : Option Nat} {d : TDesc} {u : Nat} {first : Option Nat} {v : State} {a : Nat}
    (hv : τ.decodeUnit r p n csr d u first = .poisoned v a) : Keep κ σ v := by
  have h := State.decodeUnit_keep hστ r p n csr d u first; rw [hv] at h; exact h

theorem State.decodeUnit_got {κ : Prop} {σ τ : State} (hστ : Keep κ σ τ) {r : Reader} {p n : Nat} {csr : Option Nat} {d : TDesc} {u : Nat} {first : Option Nat} {v : State} {g : Seg}
    (hv : τ.decodeUnit r p n csr d u first = .got v g) : Keep κ σ v := by
  have h := State.decodeUnit_keep hστ r p n csr d u first; rw [hv] at h; exact h

theorem State.poisonBlock_keep {κ : Prop} {σ τ : State} (hστ : Keep κ σ τ) (st : Nat) (x : Xfer) (l : Launch) (src : TDesc) (d : TDesc) (seg : Bool) (u : Nat) :
    Keep κ σ (State.poisonBlock τ st x l src d seg u) := by
  unfold State.poisonBlock
  repeat' (first | with_reducible assumption | with_reducible apply Edit.count_keep | with_reducible apply State.devStore_keep | with_reducible apply Keep.foldl | split | intro _ _ _ | intro _ _ | intro _ | with_reducible refine Keep.of ?_)

theorem State.chanUnit_keep {κ : Prop} {σ τ : State} (hστ : Keep κ σ τ) (st ch : Nat) : Keep κ σ (τ.chanUnit st ch) := by
  unfold State.chanUnit
  split
  · exact hστ
  · split
    · exact hστ
    · split
      · split
        · extract_lets +onlyGivenNames seg u
          split
          · exact hστ
          · extract_lets +onlyGivenNames dev push
            have hp : ∀ v g, Keep κ σ v → Keep κ σ (push v g) := fun v g h => State.modXfer_keep h _ _ _ _
            clear_value push dev seg u
            refine State.onRows_keep hστ _ _ _ ?_
            split
            · rename_i h; exact State.decodeUnit_wait hστ h
            · rename_i h
              have h1 := State.decodeUnit_err hστ h
              split
              · exact State.pairFail_keep h1 _ _ _ _ _ _ _
              · exact State.xferErr_keep h1 _ _ _ _
            · rename_i h
              have h1 := State.decodeUnit_bad hστ h
              refine State.xferErr_keep ?_ _ _ _ _
              split
              · exact State.poisonBlock_keep h1 _ _ _ _ _ _ _
              · exact h1
            · rename_i h
              have h1 := State.decodeUnit_poisoned hστ h
              split
              · exact hp _ _ h1
              · exact State.xferErr_keep h1 _ _ _ _
            · rename_i h; exact hp _ _ (State.decodeUnit_got hστ h)
        · exact hστ
      · exact hστ

theorem State.loadDone_keep {κ : Prop} {σ τ : State} (hστ : Keep κ σ τ) (st : Nat) (sp : Nat) (l : Nat) (t : TileLoad) (d : TDesc) (plain : Bool) :
    Keep κ σ (State.loadDone τ st sp l t d plain) := by
  unfold State.loadDone
  repeat' (first | with_reducible assumption | with_reducible apply State.tileArrives_keep | split | intro _ _ _ | intro _ _ | intro _)

theorem State.loadGot_keep {κ : Prop} {σ τ : State} (hστ : Keep κ σ τ) (st : Nat) (sp : Nat) (l : Nat) (t : TileLoad) (d : TDesc) (need : List Nat) (plain : Bool) (k : Kept') :
    Keep κ σ (State.loadGot τ st sp l t d need plain k) := by
  unfold State.loadGot
  repeat' (first | with_reducible assumption | with_reducible apply State.loadDone_keep | with_reducible apply State.modLoad_keep | split | intro _ _ _ | intro _ _ | intro _ | with_reducible refine Keep.of ?_)

theorem State.tileUnit_keep {κ : Prop} {σ τ : State} (hστ : Keep κ σ τ) (st sp : Nat) : Keep κ σ (τ.tileUnit st sp) := by
  unfold State.tileUnit
  split
  · exact hστ
  · split
    · extract_lets +onlyGivenNames seg e need
      split
      · exact hστ
      · extract_lets +onlyGivenNames r first'
        clear_value first' e need
        split
        · rename_i h; exact State.decodeUnit_wait hστ h
        · rename_i h; exact State.rdErr_keep (State.decodeUnit_err hστ h) _ _ _
        · rename_i h; exact State.rdErr_keep (State.decodeUnit_bad hστ h) _ _ _
        · rename_i h; exact State.rdPoison_keep (State.decodeUnit_poisoned hστ h) _ _
        · rename_i h; exact State.loadGot_keep (State.decodeUnit_got hστ h) _ _ _ _ _ _ _ _
    · exact State.rdErr_keep hστ _ _ _
    · exact State.rdErr_keep hστ _ _ _
    · exact hστ

theorem execBlockDecode_keep {κ : Prop} {σ τ : State} (hστ : Keep κ σ τ) (st : StallId) (eng : Fin 12) :
    KeepRes κ σ (execBlockDecode st eng τ) := by
  unfold execBlockDecode
  repeat' (first | with_reducible assumption | with_reducible apply State.tileUnit_keep | with_reducible apply State.chanUnit_keep | with_reducible apply KeepRes.next | split)

theorem execEntDecoderTableLoad_keep {κ : Prop} {σ τ : State} (hστ : Keep κ σ τ) (st : StallId) :
    KeepRes κ σ (execEntDecoderTableLoad st τ) := by
  unfold execEntDecoderTableLoad
  repeat' (first | with_reducible assumption | with_reducible apply State.modStall_keep | with_reducible apply KeepRes.next | split | intro _ _ _ | intro _ _ | intro _ | with_reducible refine Keep.of ?_)

theorem State.keepPieces_keep {κ : Prop} {σ τ : State} (hστ : Keep κ σ τ) (st l p : Nat) (csr : Option Nat) (pcs : List (Nat × Nat)) :
    Keep κ σ (State.keepPieces τ st l p csr pcs) := by
  unfold State.keepPieces
  repeat' (first | with_reducible assumption | with_reducible apply State.modStall_keep | split | intro _ _ _ | intro _ _ | intro _ | with_reducible refine Keep.of ?_)

theorem State.tileExpand_keep {κ : Prop} {σ τ : State} (hστ : Keep κ σ τ) (st : Nat) (sp : Nat) :
    Keep κ σ (State.tileExpand τ st sp) := by
  unfold State.tileExpand
  repeat' (first | with_reducible assumption | with_reducible apply State.keepPieces_keep | with_reducible apply State.tileArrives_keep | with_reducible apply State.rdErr_keep | with_reducible apply State.rdPoison_keep | with_reducible apply State.raiseFlags_keep | split | intro _ _ _ | intro _ _ | intro _ | with_reducible refine Keep.of ?_)

theorem State.chanExpand_keep {κ : Prop} {σ τ : State} (hστ : Keep κ σ τ) (st ch : Nat) : Keep κ σ (τ.chanExpand st ch) := by
  unfold State.chanExpand
  split
  · exact hστ
  · split
    · exact hστ
    · split
      · exact hστ
      · split
        · extract_lets +onlyGivenNames r csr
          clear_value r csr
          refine State.onRows_keep hστ _ _ _ ?_
          split
          · exact State.xferErr_keep hστ _ _ _ _
          · extract_lets +onlyGivenNames ns
            clear_value ns
            split
            · exact State.xferErr_keep hστ _ _ _ _
            · extract_lets +onlyGivenNames codes b data s1
              have h1 : Keep κ σ s1 := State.keepPieces_keep (State.raiseFlags_keep hστ _ _ _ _) _ _ _ _ _
              clear_value s1 data codes b
              exact State.modXfer_keep h1 _ _ _ _
        · exact hστ

theorem execFactorExpandTile_keep {κ : Prop} {σ τ : State} (hστ : Keep κ σ τ) (st : StallId) (eng : Fin 12) :
    KeepRes κ σ (execFactorExpandTile st eng τ) := by
  unfold execFactorExpandTile
  repeat' (first | with_reducible assumption | with_reducible apply State.chanExpand_keep | with_reducible apply State.tileExpand_keep | with_reducible apply KeepRes.next | split)

theorem State.unitStore_keep {κ : Prop} {σ τ : State} (hστ : Keep κ σ τ) (l : Launch) (who : Option FaultInfo) (d : TDesc) (n : Nat) (u : Nat) (t : Option EncTable) (raw : List FByte) (record : List FByte) :
    Keep κ σ (State.unitStore τ l who d n u t raw record) := by
  unfold State.unitStore
  repeat' (first | with_reducible assumption | with_reducible apply State.devStore_keep | split | intro _ _ _ | intro _ _ | intro _)

theorem State.encodeAll_keep {κ : Prop} {σ τ : State} (hστ : Keep κ σ τ) (st : Nat) (ch : Nat) (x : Xfer) (l : Launch) (d : TDesc) (n : Nat) (t : Option EncTable) (data : XData) :
    Keep κ σ (State.encodeAll τ st ch x l d n t data) := by
  unfold State.encodeAll
  repeat' (first | with_reducible assumption | with_reducible apply State.unitStore_keep | with_reducible apply State.pumpChan_keep | with_reducible apply State.xferErr_keep | with_reducible apply State.modXfer_keep | with_reducible apply Keep.foldl | split | intro _ _ _ | intro _ _ | intro _ | with_reducible refine Keep.of ?_)

theorem State.encodeCount_keep {κ : Prop} {σ τ : State} (hστ : Keep κ σ τ) (st : Nat) (ch : Nat) (x : Xfer) (l : Launch) (d : TDesc) (n : Nat) (data : XData) :
    Keep κ σ (State.encodeCount τ st ch x l d n data) := by
  unfold State.encodeCount
  repeat' (first | with_reducible assumption | with_reducible apply State.xferErr_keep | with_reducible apply State.modXfer_keep | with_reducible apply State.slotBuild_keep | with_reducible apply State.addUse_keep | with_reducible apply State.postError_keep | exact fun _ h => h | split | intro _ _ _ | intro _ _ | intro _ | with_reducible refine Keep.of ?_)

theorem execEncodedWritePass_keep {κ : Prop} {σ τ : State} (hστ : Keep κ σ τ) (st : StallId) (ch : ChanId) (ups : List (Nat × BitVec 39)) : KeepRes κ σ (execEncodedWritePass st ch ups τ) := by
  unfold execEncodedWritePass
  refine KeepRes.next ?_
  split
  · exact hστ
  · split
    · exact hστ
    · split
      · split
        · split
          · exact hστ
          · refine State.onRows_keep hστ _ _ _ ?_
            split
            · exact hστ
            · rename_i h; exact State.xferErr_keep (State.xferFetch_err hστ h) _ _ _ _
            · rename_i h
              have h1 := State.xferFetch_got hστ h
              split
              · exact State.encodeAll_keep h1 _ _ _ _ _ _ _ _
              · split
                · exact State.encodeCount_keep h1 _ _ _ _ _ _ _
                · split
                  · exact State.encodeAll_keep h1 _ _ _ _ _ _ _ _
                  · exact h1
        · exact hστ
      · exact hστ

theorem execEntTableBuildDone_keep {κ : Prop} {σ τ : State} (hστ : Keep κ σ τ) (st : StallId) (ch : ChanId) :
    KeepRes κ σ (execEntTableBuildDone st ch τ) := by
  unfold execEntTableBuildDone
  repeat' (first | with_reducible assumption | with_reducible apply State.modXfer_keep | with_reducible apply State.slotFinish_keep | with_reducible apply KeepRes.next | split | intro _ _ _ | intro _ _ | intro _ | with_reducible refine Keep.of ?_)

/-! ### Registers -/

theorem State.unpair_keep {κ : Prop} {σ τ : State} (hστ : Keep κ σ τ)  :
    Keep κ σ (State.unpair τ) := by
  unfold State.unpair
  repeat' (first | with_reducible assumption | with_reducible apply State.portEnable_keep | with_reducible apply State.reviewDegraded_keep | with_reducible apply State.finishAwaiting_keep | with_reducible apply State.pairForget_keep | with_reducible apply State.modPair_keep | with_reducible apply Keep.foldl | split | intro _ _ _ | intro _ _ | intro _ | with_reducible refine Keep.of ?_)

theorem State.setMode_keep {κ : Prop} {σ τ : State} (hστ : Keep κ σ τ) (m : Nat) :
    Keep κ σ (State.setMode τ m) := by
  unfold State.setMode
  repeat' (first | with_reducible assumption | with_reducible apply State.unpair_keep | with_reducible apply State.modPair_keep | split | intro _ _ _ | intro _ _ | intro _ | with_reducible refine Keep.of ?_)

theorem State.modeWrite_keep {κ : Prop} {σ τ : State} (hστ : Keep κ σ τ) (v : Nat) :
    Keep κ σ (State.modeWrite τ v) := by
  unfold State.modeWrite
  repeat' (first | with_reducible assumption | with_reducible apply State.setMode_keep | with_reducible apply State.installerWrite_keep | intro _ _ _ | intro _ _ | intro _)

theorem execModeWrite_keep {κ : Prop} {σ τ : State} (hστ : Keep κ σ τ) (m : Fin 4) :
    KeepRes κ σ (execModeWrite m τ) := by
  unfold execModeWrite
  repeat' (first | with_reducible assumption | with_reducible apply State.modeWrite_keep | with_reducible apply State.settleHost_keep | with_reducible apply KeepRes.next)

theorem State.maskWrite_keep {κ : Prop} {σ τ : State} (hστ : Keep κ σ τ) (off : Nat) (v : Nat) (m : Nat) (pitch : Option Nat) (ignored : Bool) :
    Keep κ σ (State.maskWrite τ off v m pitch ignored) := by
  unfold State.maskWrite
  repeat' (first | with_reducible assumption | with_reducible apply State.installerWrite_keep | with_reducible apply State.setRaw_keep | intro _ _ _ | intro _ _ | intro _)

theorem State.ringWrite_keep {κ : Prop} {σ τ : State} (hστ : Keep κ σ τ) (base : Nat) (off : Nat) (v : Nat) (free : Nat) (k : State → State) (hk : ∀ (x0 : State), Keep κ σ x0 → Keep κ σ (k x0)) :
    Keep κ σ (State.ringWrite τ base off v free k) := by
  unfold State.ringWrite
  repeat' (first | with_reducible assumption | apply hk | with_reducible apply State.installerWrite_keep | with_reducible apply State.setRaw_keep | split | intro _ _ _ | intro _ _ | intro _ | dsimp only)

theorem State.pitchWrite_keep {κ : Prop} {σ τ : State} (hστ : Keep κ σ τ) (p : Nat) (k : Nat) (v : Nat) :
    Keep κ σ (State.pitchWrite τ p k v) := by
  unfold State.pitchWrite
  repeat' (first | with_reducible assumption | with_reducible apply State.maskWrite_keep | with_reducible apply State.xlatWrite_keep | with_reducible apply State.prstWrite_keep | with_reducible apply State.pcfgWrite_keep | with_reducible apply State.wakeFront_keep | with_reducible apply State.quietWrite_keep | with_reducible apply State.setRaw_keep | split | intro _ _ _ | intro _ _ | intro _ | with_reducible refine Keep.of ?_)

theorem State.regionWrite_keep {κ : Prop} {σ τ : State} (hστ : Keep κ σ τ) (n : Nat) (k : Nat) (v : Nat) :
    Keep κ σ (State.regionWrite τ n k v) := by
  unfold State.regionWrite
  repeat' (first | with_reducible assumption | with_reducible apply State.maskWrite_keep | with_reducible apply State.csWrite_keep | split | intro _ _ _ | intro _ _ | intro _ | with_reducible refine Keep.of ?_)

set_option maxHeartbeats 400000 in
theorem State.pfWrite_keep {κ : Prop} {σ τ : State} (hστ : Keep κ σ τ) (off v : Nat) : Keep κ σ (τ.pfWrite off v) := by
  unfold State.pfWrite
  have hm : ∀ m p b, Keep κ σ (τ.maskWrite off v m p b) := fun m p b => State.maskWrite_keep hστ _ _ _ _ _
  repeat' (first | with_reducible assumption | with_reducible exact hm _ _ _ | with_reducible apply State.timeLoad_keep | with_reducible apply State.tsyncWrite_keep | with_reducible apply State.ringWrite_keep | with_reducible apply State.dumpCfgWrite_keep | with_reducible apply State.crstWrite_keep | with_reducible apply State.pwrLimitWrite_keep | with_reducible apply State.pitchWrite_keep | with_reducible apply State.regionWrite_keep | with_reducible apply State.csresWrite_keep | with_reducible apply State.quietWrite_keep | with_reducible apply State.portWrite_keep | with_reducible apply State.winWrite_keep | with_reducible apply State.modeWrite_keep | with_reducible apply State.setRaw_keep | with_reducible apply Keep.ite | split | (intro _ _) | with_reducible refine Keep.of ?_ ⟨rfl, rfl, rfl⟩ ⟨rfl, rfl⟩ rfl ⟨rfl, rfl, rfl, rfl⟩ rfl)

theorem State.countReg_keep {κ : Prop} {σ τ : State} (hστ : Keep κ σ τ) (fn : Nat) :
    Keep κ σ (State.countReg τ fn) := by
  unfold State.countReg
  repeat' (first | with_reducible assumption | with_reducible apply State.setFld_keep | split)

theorem State.regWrite_keep {κ : Prop} {σ τ : State} (hστ : Keep κ σ τ) (fn : Nat) (off : Nat) (v : Nat) :
    Keep κ σ (State.regWrite τ fn off v) := by
  unfold State.regWrite
  repeat' (first | with_reducible assumption | with_reducible apply State.countReg_keep | with_reducible apply State.pfWrite_keep | with_reducible apply State.fnWrite_keep | split)

theorem execRegisterWrite_keep {κ : Prop} {σ τ : State} (hστ : Keep κ σ τ) (fn : FnId) (off : Nat) (size : Nat) (v : W64) (poison : Bool) :
    KeepRes κ σ (execRegisterWrite fn off size v poison τ) := by
  unfold execRegisterWrite
  repeat' (first | with_reducible assumption | with_reducible apply State.regWrite_keep | with_reducible apply State.countReg_keep | with_reducible apply State.settleHost_keep | with_reducible apply KeepRes.next | split)

/-! ### Pair -/

theorem State.copyLines_keep {κ : Prop} {σ τ : State} (hστ : Keep κ σ τ) (arg : W64) (data : List Byte) :
    Keep κ σ (State.copyLines τ arg data) := by
  unfold State.copyLines
  repeat' (first | with_reducible assumption | with_reducible apply State.writeLine_keep | with_reducible apply Keep.foldl | split | intro _ _ _ | intro _ _ | intro _)

theorem State.copyDeposit_keep {κ : Prop} {σ τ : State} (hστ : Keep κ σ τ) (st : Nat) (ch : Nat) (data : List Byte) :
    Keep κ σ (State.copyDeposit τ st ch data) := by
  unfold State.copyDeposit
  repeat' (first | with_reducible assumption | with_reducible apply State.fill_keep | with_reducible apply State.xferErr_keep | with_reducible apply State.modXfer_keep | with_reducible apply State.modNet_keep | with_reducible refine State.fill_ok ?_ (by assumption) | with_reducible refine fun _ hu => State.fill_ok ?_ hu | split | intro _ _ _ | intro _ _ | intro _ | with_reducible refine Keep.of ?_)

theorem State.takePairWrite_keep {κ : Prop} {σ τ : State} (hστ : Keep κ σ τ) (arg : W64) (data : List Byte) :
    Keep κ σ (State.takePairWrite τ arg data) := by
  unfold State.takePairWrite
  repeat' (first | with_reducible assumption | with_reducible apply State.copyDeposit_keep | with_reducible apply State.copyLines_keep | with_reducible apply State.bayWrites_keep | with_reducible apply State.modPair_keep | split | intro _ _ _ | intro _ _ | intro _ | with_reducible refine Keep.of ?_)

theorem State.adoptQueue_keep {κ : Prop} {σ τ : State} (hστ : Keep κ σ τ) (n : Nat) (q : Queue) :
    Keep κ σ (State.adoptQueue τ n q) := by
  unfold State.adoptQueue
  repeat' (first | with_reducible assumption | with_reducible apply Edit.put_keep | intro _ _ _ | intro _ _ | intro _ | with_reducible refine Keep.of ?_)

theorem State.copyLaunch_keep {κ : Prop} {σ τ : State} (hστ : Keep κ σ τ) (entry : Nat) (x : Launch) :
    Keep κ σ (State.copyLaunch τ entry x) := by
  unfold State.copyLaunch
  repeat' (first | with_reducible assumption | with_reducible apply Edit.put_keep | with_reducible apply State.launchOn_keep | with_reducible apply State.wakeStall_keep | with_reducible apply State.digest_keep | with_reducible apply Keep.foldl | intro _ _ _ | intro _ _ | intro _ | with_reducible refine Keep.of ?_)

theorem State.copyLanded_keep {κ : Prop} {σ τ : State} (hστ : Keep κ σ τ) (st : Nat) (ch : Nat) (c : Nat) :
    Keep κ σ (State.copyLanded τ st ch c) := by
  unfold State.copyLanded
  repeat' (first | with_reducible assumption | with_reducible apply State.xferErr_keep | with_reducible apply State.modXfer_keep | with_reducible apply State.modPair_keep | split | intro _ _ _ | intro _ _ | intro _ | with_reducible refine Keep.of ?_)

theorem State.takeRec_keep {κ : Prop} {σ τ : State} (hστ : Keep κ σ τ) (r : PairRec) :
    Keep κ σ (State.takeRec τ r) := by
  unfold State.takeRec
  repeat' (first | with_reducible assumption | with_reducible apply State.copyLanded_keep | with_reducible apply State.copyLaunch_keep | with_reducible apply State.adoptQueue_keep | with_reducible apply State.regWrite_keep | with_reducible apply State.landed_keep | with_reducible apply Edit.put_keep | with_reducible apply State.resetRequest_keep | with_reducible apply State.abortLaunch_keep | with_reducible apply State.writeLine_keep | with_reducible apply State.modPair_keep | split | intro _ _ _ | intro _ _ | intro _ | with_reducible refine Keep.of ?_)

theorem State.takePairState_keep {κ : Prop} {σ τ : State} (hστ : Keep κ σ τ) (seq : Nat) (data : List Byte) :
    Keep κ σ (State.takePairState τ seq data) := by
  unfold State.takePairState
  repeat' (first | with_reducible assumption | with_reducible apply State.takeRec_keep | with_reducible apply State.modPair_keep | with_reducible apply Keep.foldl | intro _ _ _ | intro _ _ | intro _ | with_reducible refine Keep.of ?_)

theorem State.pairRow_keep {κ : Prop} {σ τ : State} (hστ : Keep κ σ τ) (n mt : Nat) (act : State → Msg → State)
    (hact : ∀ (x0 : State) (x1 : Msg), Keep κ σ x0 → Keep κ σ (act x0 x1)) : Keep κ σ (τ.pairRow n mt act) := by
  unfold State.pairRow
  split
  · exact hστ
  · rename_i m hm
    split
    · exact hστ
    · refine State.onRoute_keep hστ _ ?_
      have ht := State.takeMsg_keep hστ m
      split
      · exact State.passOn_keep ht _
      · split
        · exact State.refuseMsg_keep ht _ _
        · split
          · exact ht
          · exact hact _ _ ht

theorem execPairWrite_keep {κ : Prop} {σ τ : State} (hστ : Keep κ σ τ) (n : Nat) :
    KeepRes κ σ (execPairWrite n τ) := by
  unfold execPairWrite
  repeat' (first | with_reducible assumption | with_reducible apply State.pairRow_keep | with_reducible apply State.takePairWrite_keep | with_reducible apply State.sendAck_keep | with_reducible apply KeepRes.next | split | intro _ _ _ | intro _ _ | intro _)

theorem execPairState_keep {κ : Prop} {σ τ : State} (hστ : Keep κ σ τ) (n : Nat) :
    KeepRes κ σ (execPairState n τ) := by
  unfold execPairState
  repeat' (first | with_reducible assumption | with_reducible apply State.pairRow_keep | with_reducible apply State.takePairState_keep | with_reducible apply State.sendAck_keep | with_reducible apply KeepRes.next | split | intro _ _ _ | intro _ _ | intro _)

theorem execPairDigest_keep {κ : Prop} {σ τ : State} (hστ : Keep κ σ τ) (n : Nat) :
    KeepRes κ σ (execPairDigest n τ) := by
  unfold execPairDigest
  repeat' (first | with_reducible assumption | with_reducible apply State.pairRow_keep | with_reducible apply State.sendAck_keep | with_reducible apply State.feDone_keep | with_reducible apply State.finishLaunch_keep | with_reducible apply State.modPair_keep | with_reducible apply KeepRes.next | split | intro _ _ _ | intro _ _ | intro _ | with_reducible refine Keep.of ?_)

theorem State.takeWhole_keep {κ : Prop} {σ τ : State} (hστ : Keep κ σ τ)  :
    Keep κ σ (State.takeWhole τ) := by
  unfold State.takeWhole
  repeat' (first | with_reducible assumption | with_reducible apply State.takePairState_keep | with_reducible apply State.takePairWrite_keep | with_reducible apply State.takeMsg_keep | with_reducible apply State.modLink_keep | with_reducible apply Keep.foldl | split | intro _ _ _ | intro _ _ | intro _ | with_reducible refine Keep.of ?_)

theorem State.failDesc_keep {κ : Prop} {σ τ : State} (hστ : Keep κ σ τ) (q : Nat) (d : Desc) :
    Keep κ σ (State.failDesc τ q d) := by
  unfold State.failDesc
  repeat' (first | with_reducible assumption | with_reducible apply State.finishDesc_keep | split | with_reducible refine Keep.of ?_)

theorem State.failQueues_keep {κ : Prop} {σ τ : State} (hστ : Keep κ σ τ)  :
    Keep κ σ (State.failQueues τ) := by
  unfold State.failQueues
  repeat' (first | with_reducible assumption | with_reducible apply State.failDesc_keep | with_reducible apply State.modQueue_keep | with_reducible apply Keep.foldl | split | intro _ _ _ | intro _ _ | intro _ | with_reducible refine Keep.of ?_)

theorem State.fenceWords_keep {κ : Prop} {σ τ : State} (hστ : Keep κ σ τ)  :
    Keep κ σ (State.fenceWords τ) := by
  unfold State.fenceWords
  repeat' (first | with_reducible assumption | with_reducible apply State.writeDev_keep | with_reducible apply Keep.foldl | split | intro _ _ _ | intro _ _ | intro _ | with_reducible refine Keep.of ?_)

theorem State.takeover_keep {κ : Prop} {σ τ : State} (hστ : Keep κ σ τ) (epoch : Nat) :
    Keep κ σ (State.takeover τ epoch) := by
  unfold State.takeover
  repeat' (first | with_reducible assumption | with_reducible apply State.fenceWords_keep | with_reducible apply State.failQueues_keep | with_reducible apply State.takeWhole_keep | with_reducible apply State.replaceEvent_keep | with_reducible apply State.writePsb_keep | with_reducible apply State.abortLaunch_keep | with_reducible apply State.wakeFront_keep | with_reducible apply State.pairForget_keep | with_reducible apply State.modPair_keep | with_reducible apply State.eventMsg_keep | with_reducible apply State.hostWrite_keep | with_reducible apply State.emit_keep | with_reducible apply State.setFld_keep | with_reducible apply Keep.foldl | intro _ _ _ | intro _ _ | intro _ | with_reducible refine Keep.of ?_)

theorem execPairFail_keep {κ : Prop} {σ τ : State} (hστ : Keep κ σ τ) (n : Nat) :
    KeepRes κ σ (execPairFail n τ) := by
  unfold execPairFail
  repeat' (first | with_reducible assumption | with_reducible apply State.takeover_keep | with_reducible apply State.pairRow_keep | with_reducible apply KeepRes.next | split | intro _ _ _ | intro _ _ | intro _)

theorem State.partnerLost_keep {κ : Prop} {σ τ : State} (hστ : Keep κ σ τ)  :
    Keep κ σ (State.partnerLost τ) := by
  unfold State.partnerLost
  repeat' (first | with_reducible assumption | with_reducible apply State.takeover_keep | with_reducible apply State.pairBreak_keep | split)

theorem execPairJoin_keep {κ : Prop} {σ τ : State} (hστ : Keep κ σ τ) (mode : Fin 4) (live : Nat) (off : Bool) :
    KeepRes κ σ (execPairJoin mode live off τ) := by
  unfold execPairJoin
  repeat' (first | with_reducible assumption | with_reducible apply State.portDisable_keep | with_reducible apply State.pairShow_keep | with_reducible apply State.pairTell_keep | with_reducible apply State.modPair_keep | with_reducible apply State.afterNow_keep | with_reducible apply Keep.foldl | with_reducible apply KeepRes.next | split | intro _ _ _ | intro _ _ | intro _ | with_reducible refine Keep.of ?_)

theorem execHeartbeat_keep {κ : Prop} {σ τ : State} (hστ : Keep κ σ τ)  :
    KeepRes κ σ (execHeartbeat τ) := by
  unfold execHeartbeat
  repeat' (first | with_reducible assumption | with_reducible apply State.emit_keep | with_reducible apply KeepRes.next | split)

theorem execHeartbeatReceive_keep {κ : Prop} {σ τ : State} (hστ : Keep κ σ τ) (bridge : Bool) (partner : Fin 5) :
    KeepRes κ σ (execHeartbeatReceive bridge partner τ) := by
  unfold execHeartbeatReceive
  repeat' (first | with_reducible assumption | with_reducible apply State.unpair_keep | with_reducible apply State.pairBreak_keep | with_reducible apply State.standDown_keep | with_reducible apply State.finishAwaiting_keep | with_reducible apply State.pairForget_keep | with_reducible apply State.modPair_keep | with_reducible apply State.afterNow_keep | with_reducible apply KeepRes.next | split | intro _ _ _ | intro _ _ | intro _ | with_reducible refine Keep.of ?_)

theorem execHeartbeatSilence_keep {κ : Prop} {σ τ : State} (hστ : Keep κ σ τ)  :
    KeepRes κ σ (execHeartbeatSilence τ) := by
  unfold execHeartbeatSilence
  repeat' (first | with_reducible assumption | with_reducible apply State.partnerLost_keep | with_reducible apply State.pairBreak_keep | with_reducible apply State.afterNow_keep | with_reducible apply KeepRes.next | split | intro _ _ _ | intro _ _ | intro _)

theorem execPowerLoss_keep {κ : Prop} {σ τ : State} (hστ : Keep κ σ τ) (_cause : Nat) :
    KeepRes κ σ (execPowerLoss _cause τ) := by
  unfold execPowerLoss
  repeat' (first | with_reducible assumption | with_reducible apply State.partnerLost_keep | with_reducible apply KeepRes.next | split)

theorem execBridgeCreditTimeout_keep {κ : Prop} {σ τ : State} (hστ : Keep κ σ τ)  :
    KeepRes κ σ (execBridgeCreditTimeout τ) := by
  unfold execBridgeCreditTimeout
  repeat' (first | with_reducible assumption | with_reducible apply State.pairBreak_keep | with_reducible apply KeepRes.next | split)

/-! ### Pcie -/

theorem State.releaseVec_keep {κ : Prop} {σ τ : State} (hστ : Keep κ σ τ) (fn : Nat) (v : Nat) :
    Keep κ σ (State.releaseVec τ fn v) := by
  unfold State.releaseVec
  repeat' (first | with_reducible assumption | with_reducible apply State.modMsi_keep | with_reducible apply State.emit_keep | split | intro _ _ _ | intro _ _ | intro _ | with_reducible refine Keep.of ?_)

theorem State.setFnMask_keep {κ : Prop} {σ τ : State} (hστ : Keep κ σ τ) (fn : Nat) (on : Bool) :
    Keep κ σ (State.setFnMask τ fn on) := by
  unfold State.setFnMask
  repeat' (first | with_reducible assumption | with_reducible apply State.releaseVec_keep | with_reducible apply Keep.foldl | split | intro _ _ _ | intro _ _ | intro _ | with_reducible refine Keep.of ?_)

theorem State.cfgDo_keep {κ : Prop} {σ τ : State} (hστ : Keep κ σ τ) (fn : Nat) (r : CfgReq) :
    Keep κ σ (State.cfgDo τ fn r).1 := by
  unfold State.cfgDo
  repeat' (first | with_reducible assumption | with_reducible apply State.setFnMask_keep | with_reducible apply State.vfCut_keep | split | with_reducible refine Keep.of ?_)

theorem execPcieConfigRequest_keep {κ : Prop} {σ τ : State} (hστ : Keep κ σ τ) (fn : FnId) (r : CfgReq) :
    KeepRes κ σ (execPcieConfigRequest fn r τ) := by
  unfold execPcieConfigRequest
  repeat' (first | with_reducible assumption | with_reducible apply State.cfgDo_keep | with_reducible apply State.emit_keep | with_reducible apply KeepRes.next | split)

theorem State.logAer_keep {κ : Prop} {σ τ : State} (hστ : Keep κ σ τ) (fn : Option Nat) :
    Keep κ σ (State.logAer τ fn) := by
  unfold State.logAer
  repeat' (first | with_reducible assumption | with_reducible refine Keep.of ?_)

theorem execPcieCompletionError_keep {κ : Prop} {σ τ : State} (hστ : Keep κ σ τ) (r : HostRead) :
    KeepRes κ σ (execPcieCompletionError r τ) := by
  unfold execPcieCompletionError
  repeat' (first | with_reducible assumption | with_reducible apply State.logAer_keep | with_reducible apply State.xferErr_keep | with_reducible apply State.fetchReturn_keep | with_reducible apply State.scanReturn_keep | with_reducible apply State.hostAsk_keep | with_reducible apply KeepRes.next | split | with_reducible refine Keep.of ?_)

/-! ### Porter -/

theorem State.atChan_keep {κ : Prop} {σ τ : State} (hστ : Keep κ σ τ) (st : Nat) (f : FmtA) {go : State} (hgo : Keep κ σ go) : Keep κ σ (τ.atChan st f go) := by
  unfold State.atChan
  repeat' (first | with_reducible assumption | split)

theorem State.portIssue_keep {κ : Prop} {σ τ : State} (hστ : Keep κ σ τ) (st : Nat) (c : Nat) (f : FmtA) (x : Xfer) :
    Keep κ σ (State.portIssue τ st c f x) := by
  unfold State.portIssue
  repeat' (first | with_reducible assumption | with_reducible apply State.pumpChan_keep | with_reducible apply State.retire_keep | with_reducible apply State.tickSerial_keep | with_reducible apply State.modChan_keep | exact fun _ h => h | intro _ _ _ | intro _ _ | intro _ | with_reducible refine Keep.of ?_)

theorem execPcopy_keep {κ : Prop} {σ τ : State} (hστ : Keep κ σ τ) (st : StallId) (cx : CtxId) (f : FmtA) : KeepRes κ σ (execPcopy st cx f τ) := by
  unfold execPcopy
  extract_lets +onlyGivenNames c v trn hs hd
  refine KeepRes.next (State.issue_keep hστ _ _ _ _ _ _ _ (State.atChan_keep hστ _ _ ?_))
  split
  · split
    · exact State.badProgram_keep hστ _ _ _
    · extract_lets +onlyGivenNames ra rd pa pd
      clear_value ra rd pa pd
      split
      · exact State.badProgram_keep hστ _ _ _
      · exact State.seqFault_keep hστ _ _ _ _ _
      · exact State.badProgram_keep hστ _ _ _
      · exact State.seqFault_keep hστ _ _ _ _ _
      · split
        · exact State.badProgram_keep hστ _ _ _
        · split
          · exact State.seqDenied_keep hστ _ _ _ _ _ _
          · split
            · exact State.seqDenied_keep hστ _ _ _ _ _ _
            · exact State.portIssue_keep hστ _ _ _ _
  · exact State.badProgram_keep hστ _ _ _

theorem State.portPost_keep {κ : Prop} {σ τ : State} (hστ : Keep κ σ τ) (st : Nat) (cx : Nat) (op : Nat) (f : FmtA) (ds : List TDesc) (x : Xfer) :
    Keep κ σ (State.portPost τ st cx op f ds x) := by
  unfold State.portPost
  repeat' (first | with_reducible assumption | with_reducible apply State.portIssue_keep | with_reducible apply State.seqDenied_keep | split)

theorem execPgath_keep {κ : Prop} {σ τ : State} (hστ : Keep κ σ τ) (st : StallId) (cx : CtxId) (f : FmtA) : KeepRes κ σ (execPgath st cx f τ) := by
  unfold execPgath
  extract_lets +onlyGivenNames c
  refine KeepRes.next (State.issue_keep hστ _ _ _ _ _ _ _ (State.atChan_keep hστ _ _ ?_))
  split
  · extract_lets +onlyGivenNames ok
    clear_value ok
    split
    · exact State.badProgram_keep hστ _ _ _
    · exact State.portPost_keep hστ _ _ _ _ _ _
  · exact State.badProgram_keep hστ _ _ _

theorem execPwalk_keep {κ : Prop} {σ τ : State} (hστ : Keep κ σ τ) (st : StallId) (cx : CtxId) (f : FmtA) : KeepRes κ σ (execPwalk st cx f τ) := by
  unfold execPwalk
  extract_lets +onlyGivenNames c a g
  refine KeepRes.next (State.issue_keep hστ _ _ _ _ _ _ _ (State.atChan_keep hστ _ _ ?_))
  split
  · split
    · exact State.badProgram_keep hστ _ _ _
    · exact State.portIssue_keep hστ _ _ _ _
  · exact State.badProgram_keep hστ _ _ _

theorem execPconv_keep {κ : Prop} {σ τ : State} (hστ : Keep κ σ τ) (st : StallId) (cx : CtxId) (f : FmtA) : KeepRes κ σ (execPconv st cx f τ) := by
  unfold execPconv
  extract_lets +onlyGivenNames c
  refine KeepRes.next (State.issue_keep hστ _ _ _ _ _ _ _ (State.atChan_keep hστ _ _ ?_))
  split
  · extract_lets +onlyGivenNames toFb ok
    clear_value toFb ok
    split
    · exact State.badProgram_keep hστ _ _ _
    · exact State.portPost_keep hστ _ _ _ _ _ _
  · exact State.badProgram_keep hστ _ _ _

theorem State.portMail_keep {κ : Prop} {σ τ : State} (hστ : Keep κ σ τ) (st cx op : Nat) (kind : XKind) (f : FmtA) (t : BitVec 512) (g : W64) : Keep κ σ (τ.portMail st cx op kind f t g) := by
  unfold State.portMail
  refine State.atChan_keep hστ _ _ ?_
  split
  · exact State.badProgram_keep hστ _ _ _
  · extract_lets +onlyGivenNames p
    clear_value p
    split
    · exact State.badProgram_keep hστ _ _ _
    · split
      · exact State.seqDenied_keep (State.sentRec_keep hστ _ _ _ _ _ _) _ _ _ _ _ _
      · exact State.portPost_keep hστ _ _ _ _ _ _

theorem execPsend_keep {κ : Prop} {σ τ : State} (hστ : Keep κ σ τ) (st : StallId) (cx : CtxId) (f : FmtA) :
    KeepRes κ σ (execPsend st cx f τ) := by
  unfold execPsend
  repeat' (first | with_reducible assumption | with_reducible apply State.portMail_keep | with_reducible apply State.issue_keep | with_reducible apply KeepRes.next)

theorem execPpost_keep {κ : Prop} {σ τ : State} (hστ : Keep κ σ τ) (st : StallId) (cx : CtxId) (f : FmtA) :
    KeepRes κ σ (execPpost st cx f τ) := by
  unfold execPpost
  repeat' (first | with_reducible assumption | with_reducible apply State.portMail_keep | with_reducible apply State.issue_keep | with_reducible apply KeepRes.next)

theorem execPtime_keep {κ : Prop} {σ τ : State} (hστ : Keep κ σ τ) (st : StallId) (cx : CtxId) (f : FmtA) :
    KeepRes κ σ (execPtime st cx f τ) := by
  unfold execPtime
  repeat' (first | with_reducible assumption | with_reducible apply Edit.count_keep | with_reducible apply State.issue_keep | with_reducible apply State.retire_keep | with_reducible apply KeepRes.next | split | intro _ _ _ | intro _ _ | intro _)

theorem execAtens_keep {κ : Prop} {σ τ : State} (hστ : Keep κ σ τ) (st : StallId) (cx : CtxId) (f : FmtA) : KeepRes κ σ (execAtens st cx f τ) := by
  unfold execAtens
  extract_lets +onlyGivenNames c
  refine KeepRes.next (State.issue_keep hστ _ _ _ _ _ _ _ (State.atChan_keep hστ _ _ ?_))
  split
  · extract_lets +onlyGivenNames ok
    clear_value ok
    split
    · exact State.badProgram_keep hστ _ _ _
    · exact State.portPost_keep hστ _ _ _ _ _ _
  · exact State.badProgram_keep hστ _ _ _

theorem State.chanPair_keep {κ : Prop} {σ τ : State} (hστ : Keep κ σ τ) (st ch : Nat) : Keep κ σ (τ.chanPair st ch) := by
  unfold State.chanPair
  split
  · exact hστ
  · rename_i x hx
    split
    · exact hστ
    · split
      · extract_lets +onlyGivenNames n
        split
        · exact hστ
        · extract_lets +onlyGivenNames push
          have hp : ∀ g, Keep κ σ (push g) := fun g => State.modXfer_keep hστ _ _ _ _
          clear_value push n
          refine State.onRows_keep hστ _ _ _ ?_
          split
          · split
            · exact hp _
            · exact State.pairFail_keep hστ _ _ _ _ _ _ _
          · split
            · exact State.pairFail_keep hστ _ _ _ _ _ _ _
            · exact hστ
          · extract_lets +onlyGivenNames first
            clear_value first
            split
            · exact State.pairFail_keep hστ _ _ _ _ _ _ _
            · exact hp _
      · exact hστ

theorem State.streamPair_keep {κ : Prop} {σ τ : State} (hστ : Keep κ σ τ) (st : Nat) (sp : Nat) :
    Keep κ σ (State.streamPair τ st sp) := by
  unfold State.streamPair
  repeat' (first | with_reducible assumption | with_reducible apply State.loadGot_keep | with_reducible apply State.rdErr_keep | with_reducible apply State.rdStop_keep | split | intro _ _ _ | intro _ _ | intro _ | with_reducible refine Keep.of ?_)

theorem execPorterPairCheck_keep {κ : Prop} {σ τ : State} (hστ : Keep κ σ τ) (st : StallId) (eng : Fin 20) :
    KeepRes κ σ (execPorterPairCheck st eng τ) := by
  unfold execPorterPairCheck
  repeat' (first | with_reducible assumption | with_reducible apply State.streamPair_keep | with_reducible apply State.chanPair_keep | with_reducible apply State.walkPair_keep | with_reducible apply KeepRes.next | split)

theorem State.portEnd_keep {κ : Prop} {σ τ : State} (hστ : Keep κ σ τ) (st ch : Nat) (x : Xfer) (n : Nat) {z : Stored}
    (hz : ∀ u, z = .ok u → Keep κ σ u) : Keep κ σ (τ.portEnd st ch x n z) := by
  cases z with
  | ok u => exact State.pumpChan_keep (State.xferMoved_keep (hz u rfl) _ _ _ _) _ _ _
  | error e => exact State.xferErr_keep hστ _ _ _ _

theorem State.copyEnd_keep {κ : Prop} {σ τ : State} (hστ : Keep κ σ τ) (st ch : Nat) (x : Xfer) (l : Launch) (a d : TDesc) (host : List Byte) (ups : List (Nat × BitVec 39)) : Keep κ σ (τ.copyEnd st ch x l a d host ups) := by
  unfold State.copyEnd
  extract_lets +onlyGivenNames packedDst bytes src dst asked
  have ha : ∀ u, Keep κ σ u → Keep κ σ (asked u) := fun u hu => State.bufferCopy_keep (State.hostAsk_keep hu _) _ _ _ _
  clear_value packedDst bytes src dst asked
  split
  · split
    · split
      · rename_i h; exact State.modXfer_keep (ha _ (State.xferFetch_got hστ h)) _ _ _ _
      · exact hστ
    · exact hστ
  · split
    · extract_lets +onlyGivenNames need
      clear_value need
      split
      · exact hστ
      · exact State.portEnd_keep hστ _ _ _ _ (fun u h => State.segsStore_ok hστ h)
    · split
      · exact hστ
      · rename_i h; exact State.xferErr_keep (State.xferFetch_err hστ h) _ _ _ _
      · rename_i s0 data h
        have h0 := State.xferFetch_got hστ h
        extract_lets +onlyGivenNames s'
        have h1 : Keep κ σ s' := by
          subst s'
          split
          · exact ha _ h0
          · exact h0
        clear_value s'
        exact State.portEnd_keep h1 _ _ _ _ (fun u h => State.xferStore_ok h1 h)

theorem State.convEnd_keep {κ : Prop} {σ τ : State} (hστ : Keep κ σ τ) (st : Nat) (ch : Nat) (x : Xfer) (l : Launch) (a : TDesc) (d : TDesc) (ups : List (Nat × BitVec 39)) :
    Keep κ σ (State.convEnd τ st ch x l a d ups) := by
  unfold State.convEnd
  repeat' (first | with_reducible assumption | with_reducible apply State.portEnd_keep | with_reducible apply State.xferStore_keep | with_reducible apply State.xferFetch_keep | with_reducible apply State.xferErr_keep | with_reducible apply State.raiseFlags_keep | with_reducible apply State.afterAny_keep | with_reducible refine State.xferFetch_got ?_ (by assumption) | with_reducible refine fun _ hu => State.xferFetch_got ?_ hu | with_reducible refine State.xferFetch_err ?_ (by assumption) | with_reducible refine fun _ hu => State.xferFetch_err ?_ hu | with_reducible refine State.xferStore_ok ?_ (by assumption) | with_reducible refine fun _ hu => State.xferStore_ok ?_ hu | split | with_reducible refine Keep.of ?_)

theorem State.gatherRow_ok {κ : Prop} {σ τ : State} (hστ : Keep κ σ τ) {st : Nat} {x : Xfer} {l : Launch} {d : TDesc} {q : Nat} {fs : List FByte} {u : State}
    (hu : τ.gatherRow st x l d q fs = .ok u) : Keep κ σ u := by
  unfold State.gatherRow at hu
  try dsimp only at hu
  repeat' (first | contradiction | (cases hu; done) | split at hu)
  all_goals (first | contradiction | (injection hu with hu; subst hu))
  all_goals repeat' (first | with_reducible assumption | with_reducible apply Keep.foldl | with_reducible apply State.devStore_keep | with_reducible apply State.devStoreFb_keep | with_reducible apply State.hostWrite_keep | with_reducible apply State.digestHost_keep | with_reducible apply State.bayStoreRuns_keep | with_reducible apply State.putSeg_keep | with_reducible apply State.bayWrites_keep | intro _ _ _ | split)

theorem State.gatherRows_all {κ : Prop} {σ τ : State} (hστ : Keep κ σ τ) (st ch : Nat) (x : Xfer) (l : Launch) (a d : TDesc) (is : List (W32 × Nat)) :
    (∀ u, τ.gatherRows st ch x l a d is = .ok u → Keep κ σ u) ∧ (∀ e, τ.gatherRows st ch x l a d is = .error e → Keep κ σ e.1) := by
  unfold State.gatherRows
  dsimp only
  generalize hf : (fun (r : Except (State × XErr × Nat) State) (i : W32 × Nat) => _) = f
  have hstep : ∀ r i, ((∀ u, r = .ok u → Keep κ σ u) ∧ (∀ e, r = .error e → Keep κ σ e.1)) →
      ((∀ u, f r i = .ok u → Keep κ σ u) ∧ (∀ e, f r i = .error e → Keep κ σ e.1)) := by
    intro r i hr
    subst hf
    dsimp only
    split
    · exact ⟨fun u h => by (first | contradiction | cases h), fun e h => by injection h with h; subst h; exact hr.2 _ rfl⟩
    · rename_i s
      have hs := hr.1 s rfl
      split
      · exact ⟨fun u h => by (first | contradiction | cases h), fun e h => by injection h with h; subst h; exact hs⟩
      · have hsrc : ∀ c : State × Except XErr (List FByte), c = (if i.1 = 0xFFFFFFFF#32 then (s, .ok (clean (List.replicate (ceilDiv a.rowBits 8) 0)))
            else if a.loc = 0 then (s, s.devFlags l.pitch (some l.csr.toNat) (a.rowAt i.1.toNat) (ceilDiv a.rowBits 8))
            else ((s.bayFlags st (a.rowAt i.1.toNat) (ceilDiv (ceilDiv a.rowBits 8) 4)).1,
              .ok ((s.bayFlags st (a.rowAt i.1.toNat) (ceilDiv (ceilDiv a.rowBits 8) 4)).2.take (ceilDiv a.rowBits 8)))) → Keep κ σ c.1 := by
          intro c hc
          subst hc
          split
          · exact hs
          · split
            · exact hs
            · exact State.bayFlags_keep hs _ _ _
        generalize hc : (ite (i.1 = 0xFFFFFFFF#32) _ _ : State × Except XErr (List FByte)) = c
        have h1 := hsrc c hc.symm
        split
        · exact ⟨fun u h => by (first | contradiction | cases h), fun e h => by injection h with h; subst h; exact h1⟩
        · split
          · rename_i h2
            exact ⟨fun u h => by injection h with h; subst h; exact State.gatherRow_ok h1 (by assumption), fun e h => by (first | contradiction | cases h)⟩
          · exact ⟨fun u h => by (first | contradiction | cases h), fun e h => by injection h with h; subst h; exact h1⟩
  have key : ∀ (is : List (W32 × Nat)) r, ((∀ u, r = .ok u → Keep κ σ u) ∧ (∀ e, r = .error e → Keep κ σ e.1)) →
      ((∀ u, is.foldl f r = .ok u → Keep κ σ u) ∧ (∀ e, is.foldl f r = .error e → Keep κ σ e.1)) := by
    intro is
    induction is with
    | nil => exact fun _ h => h
    | cons i is ih => exact fun r h => ih _ (hstep r i h)
  exact key is _ ⟨fun u h => by injection h with h; subst h; exact hστ, fun e h => by (first | contradiction | cases h)⟩

theorem State.gatherRows_ok {κ : Prop} {σ τ : State} (hστ : Keep κ σ τ) {st ch : Nat} {x : Xfer} {l : Launch} {a d : TDesc} {is : List (W32 × Nat)} {u : State}
    (hu : τ.gatherRows st ch x l a d is = .ok u) : Keep κ σ u := (State.gatherRows_all hστ st ch x l a d is).1 u hu

theorem State.gatherRows_err {κ : Prop} {σ τ : State} (hστ : Keep κ σ τ) {st ch : Nat} {x : Xfer} {l : Launch} {a d : TDesc} {is : List (W32 × Nat)} {u : State} {e : XErr} {n : Nat}
    (hu : τ.gatherRows st ch x l a d is = .error (u, e, n)) : Keep κ σ u := (State.gatherRows_all hστ st ch x l a d is).2 _ hu

theorem State.gatherEnd_keep {κ : Prop} {σ τ : State} (hστ : Keep κ σ τ) (st ch : Nat) (x : Xfer) (l : Launch) (a i d : TDesc) (ups : List (Nat × BitVec 39)) :
    Keep κ σ (τ.gatherEnd st ch x l a i d ups) := by
  unfold State.gatherEnd
  extract_lets +onlyGivenNames r
  have hr : Keep κ σ r.1 := State.bayReadRange_keep (State.upset_keep hστ _ _) _ _ _
  clear_value r
  split
  · exact State.xferErr_keep hr _ _ _ _
  · split
    · rename_i h
      have h1 := State.gatherRows_ok hr h
      exact State.portEnd_keep h1 _ _ _ _ (fun u h => by cases h; exact h1)
    · rename_i h
      exact State.xferErr_keep (State.gatherRows_err hr h) _ _ _ _

theorem State.atensOne_ok {κ : Prop} {σ τ : State} (hστ : Keep κ σ τ) {st : Nat} {x : Xfer} {l : Launch} {el : Elem} {wide : Bool} {addr v : Nat} {u : State × Bool}
    (hu : τ.atensOne st x l el wide addr v = .ok u) : Keep κ σ u.1 := by
  unfold State.atensOne at hu
  try dsimp only at hu
  repeat' (first | contradiction | (cases hu; done) | split at hu)
  all_goals (first | contradiction | (injection hu with hu; subst hu))
  all_goals repeat' (first | with_reducible assumption | with_reducible apply Keep.foldl | with_reducible apply State.devStore_keep | with_reducible apply State.devStoreFb_keep | with_reducible apply State.hostWrite_keep | with_reducible apply State.digestHost_keep | with_reducible apply State.bayStoreRuns_keep | with_reducible apply State.putSeg_keep | with_reducible apply State.bayWrites_keep | intro _ _ _ | split)

theorem State.atensPoison_ok {κ : Prop} {σ τ : State} (hστ : Keep κ σ τ) {st : Nat} {x : Xfer} {l : Launch} {line : Nat} {u : State}
    (hu : τ.atensPoison st x l line = .ok u) : Keep κ σ u := by
  unfold State.atensPoison at hu
  split at hu
  · cases hu
  · injection hu with hu; subst hu; exact State.devStore_keep hστ _ _ _ _ _

theorem State.atensEnd_keep {κ : Prop} {σ τ : State} (hστ : Keep κ σ τ) (st ch : Nat) (x : Xfer) (l : Launch) (a d : TDesc) (ups : List (Nat × BitVec 39)) : Keep κ σ (τ.atensEnd st ch x l a d ups) := by
  unfold State.atensEnd
  extract_lets +onlyGivenNames wide n r cs bad out out'
  have hr : Keep κ σ r.1 := State.bayArrays_keep (State.upset_keep hστ _ _) _ _ _
  clear_value r cs bad wide n
  have hout : (∀ v, out = .ok v → Keep κ σ v.1) ∧ (∀ v, out = .error v → Keep κ σ v.1) := by
    subst out
    have h0 : (∀ v, (Except.ok (r.1, none) : Except (State × XErr × Nat) (State × Option Nat)) = .ok v → Keep κ σ v.1) ∧
        (∀ v, (Except.ok (r.1, none) : Except (State × XErr × Nat) (State × Option Nat)) = .error v → Keep κ σ v.1) :=
      ⟨fun v h => (by cases h; exact hr), fun v h => (by cases h)⟩
    generalize (Except.ok (r.1, none) : Except (State × XErr × Nat) (State × Option Nat)) = z at h0 ⊢
    generalize cs.zipIdx = zs
    induction zs generalizing z with
    | nil => exact h0
    | cons c zs ih =>
      refine ih _ ?_
      dsimp only
      split
      · exact ⟨fun v h => (by cases h), fun v h => (by cases h; exact h0.2 _ rfl)⟩
      · have h1 := h0.1 _ rfl
        split
        · exact ⟨fun v h => (by cases h; exact h1), fun v h => (by cases h)⟩
        · split
          · rename_i h2
            exact ⟨fun v h => (by cases h; exact State.atensOne_ok h1 h2), fun v h => (by cases h)⟩
          · exact ⟨fun v h => (by cases h), fun v h => (by cases h; exact h1)⟩
  have hout' : (∀ v, out' = .ok v → Keep κ σ v.1) ∧ (∀ v, out' = .error v → Keep κ σ v.1) := by
    subst out'
    clear_value out
    induction bad generalizing out with
    | nil => exact hout
    | cons c zs ih =>
      refine ih _ ?_
      dsimp only
      split
      · exact ⟨fun v h => (by cases h), fun v h => (by cases h; exact hout.2 _ rfl)⟩
      · have h1 := hout.1 _ rfl
        split
        · rename_i h2
          exact ⟨fun v h => (by cases h; exact State.atensPoison_ok h1 h2), fun v h => (by cases h)⟩
        · exact ⟨fun v h => (by cases h), fun v h => (by cases h; exact h1)⟩
  clear_value out out'
  split
  · exact State.xferErr_keep (hout'.2 _ rfl) _ _ _ _
  · have h1 := hout'.1 _ rfl
    exact State.portEnd_keep h1 _ _ _ _ (fun u h => by cases h; exact h1)
  · have h1 := State.raiseFlags_keep (hout'.1 _ rfl) st x.ctx true false
    extract_lets +onlyGivenNames s2
    split
    · exact State.xferErr_keep h1 _ _ _ _
    · exact State.portEnd_keep h1 _ _ _ _ (fun u h => by cases h; exact h1)

theorem State.walkEnd_keep {κ : Prop} {σ τ : State} (hστ : Keep κ σ τ) (st : Nat) (ch : Nat) (x : Xfer) (d : TDesc) :
    Keep κ σ (State.walkEnd τ st ch x d) := by
  unfold State.walkEnd
  repeat' (first | with_reducible assumption | with_reducible apply State.portEnd_keep | with_reducible apply State.xferStore_keep | with_reducible refine State.xferStore_ok ?_ (by assumption) | with_reducible refine fun _ hu => State.xferStore_ok ?_ hu | split | with_reducible refine Keep.of ?_)

theorem State.collStep_keep {κ : Prop} {σ τ : State} (hστ : Keep κ σ τ) (k : Option Nat) :
    Keep κ σ (State.collStep τ k) := by
  unfold State.collStep
  repeat' (first | with_reducible assumption | with_reducible apply State.modColl_keep | with_reducible apply State.pruneSlows_keep | with_reducible apply State.modNet_keep | split | intro _ _ _ | intro _ _ | intro _ | with_reducible refine Keep.of ?_)

theorem State.portAct_keep {κ : Prop} {σ τ : State} (hστ : Keep κ σ τ) (st ch : Nat) (x : Xfer) (host : List Byte) (ups : List (Nat × BitVec 39)) : Keep κ σ (τ.portAct st ch x host ups) := by
  unfold State.portAct
  split
  · exact hστ
  · refine State.onRows_keep hστ _ _ _ ?_
    extract_lets +onlyGivenNames ps
    clear_value ps
    split
    · exact hστ
    · split
      · split
        · split
          · exact State.copyEnd_keep (Keep.of hστ ⟨rfl, rfl, rfl⟩ ⟨rfl, rfl⟩ rfl ⟨rfl, rfl, rfl, rfl⟩ rfl) _ _ _ _ _ _ _ _
          · exact hστ
        · exact State.copyEnd_keep hστ _ _ _ _ _ _ _ _
      · exact State.gatherEnd_keep hστ _ _ _ _ _ _ _ _
      · exact State.walkEnd_keep hστ _ _ _ _
      · exact State.convEnd_keep hστ _ _ _ _ _ _ _
      · exact State.atensEnd_keep hστ _ _ _ _ _ _ _
      · exact hστ

theorem execPorterTransferComplete_keep {κ : Prop} {σ τ : State} (hστ : Keep κ σ τ) (st : StallId) (ch : ChanId) (host : List Byte) (ups : List (Nat × BitVec 39)) : KeepRes κ σ (execPorterTransferComplete st ch host ups τ) := by
  unfold execPorterTransferComplete
  extract_lets +onlyGivenNames c
  clear_value c
  refine KeepRes.next ?_
  split
  · exact State.collStep_keep (State.portEnd_keep hστ _ _ _ _ (fun u h => by cases h; exact hστ)) _
  · split
    · exact State.collStep_keep (State.portEnd_keep hστ _ _ _ _ (fun u h => by cases h; exact hστ)) _
    · exact State.portAct_keep hστ _ _ _ _ _
    · exact hστ

theorem State.remoteAct_keep {κ : Prop} {σ τ : State} (hστ : Keep κ σ τ) (st ch : Nat) (x : Xfer) (a d : TDesc) (ups : List (Nat × BitVec 39)) : Keep κ σ (τ.remoteAct st ch x a d ups) := by
  unfold State.remoteAct
  split
  · extract_lets +onlyGivenNames r data
    have hr : Keep κ σ r.1 := State.bayRuns_keep (State.upset_keep (State.rouse_keep hστ _) _ _) _ _
    clear_value r data
    split
    · exact State.xferErr_keep hr _ _ _ _
    · exact State.modXfer_keep hr _ _ _ _
  · split
    · split
      · exact hστ
      · rename_i h; exact State.xferErr_keep (State.xferFetch_err (State.rouse_keep hστ _) h) _ _ _ _
      · rename_i h
        have h1 := State.xferFetch_got (State.rouse_keep hστ _) h
        split
        · rename_i h2; exact State.pumpChan_keep (State.modXfer_keep (State.xferStore_ok h1 h2) _ _ _ _) _ _ _
        · exact State.xferErr_keep h1 _ _ _ _
    · exact hστ

theorem execRemoteBayRequest_keep {κ : Prop} {σ τ : State} (hστ : Keep κ σ τ) (st : StallId) (ch : ChanId) (ups : List (Nat × BitVec 39)) : KeepRes κ σ (execRemoteBayRequest st ch ups τ) := by
  unfold execRemoteBayRequest
  refine KeepRes.next ?_
  split
  · exact hστ
  · split
    · exact hστ
    · split
      · exact State.onRows_keep hστ _ _ _ (State.remoteAct_keep hστ _ _ _ _ _ _)
      · exact hστ

theorem execPorterStarvation_keep {κ : Prop} {σ τ : State} (hστ : Keep κ σ τ) (st : StallId) (ch : ChanId) :
    KeepRes κ σ (execPorterStarvation st ch τ) := by
  unfold execPorterStarvation
  repeat' (first | with_reducible assumption | with_reducible apply State.pumpChan_keep | with_reducible apply State.modChan_keep | with_reducible apply KeepRes.next | split | intro _ _ _ | intro _ _ | intro _ | with_reducible refine Keep.of ?_)

/-! ### SeqEvents -/

theorem execLdDataReturn_keep {κ : Prop} {σ τ : State} (hστ : Keep κ σ τ) (id : Nat) :
    KeepRes κ σ (execLdDataReturn id τ) := by
  unfold execLdDataReturn
  repeat' (first | with_reducible assumption | with_reducible apply State.arrive_keep | with_reducible apply State.dropReq_keep | with_reducible apply State.poisonFault_keep | with_reducible apply State.modCtx_keep | with_reducible apply KeepRes.next | exact fun _ h => h | split | intro _ _ _ | intro _ _ | intro _ | with_reducible refine Keep.of ?_)

theorem State.satLate_keep {κ : Prop} {σ τ : State} (hστ : Keep κ σ τ) (l : Nat) :
    Keep κ σ (State.satLate τ l) := by
  unfold State.satLate
  repeat' (first | with_reducible assumption | with_reducible apply State.modLaunch_keep | intro _ _ _ | intro _ _ | intro _ | with_reducible refine Keep.of ?_)

theorem execAtomicResponse_keep {κ : Prop} {σ τ : State} (hστ : Keep κ σ τ) (id : Nat) :
    KeepRes κ σ (execAtomicResponse id τ) := by
  unfold execAtomicResponse
  repeat' (first | with_reducible assumption | with_reducible apply State.satLate_keep | with_reducible apply State.raiseFlags_keep | with_reducible apply State.dropReq_keep | with_reducible apply State.contextFault_keep | with_reducible apply State.modCtx_keep | with_reducible apply KeepRes.next | exact fun _ h => h | split | intro _ _ _ | intro _ _ | intro _ | with_reducible refine Keep.of ?_)

theorem State.resume_keep {κ : Prop} {σ τ : State} (hστ : Keep κ σ τ) (st : Nat) (c : Nat) :
    Keep κ σ (State.resume τ st c) := by
  unfold State.resume
  repeat' (first | with_reducible assumption | with_reducible apply State.retire_keep | intro _ _ _ | intro _ _ | intro _ | with_reducible refine Keep.of ?_)

theorem execMfenComplete_keep {κ : Prop} {σ τ : State} (hστ : Keep κ σ τ) (st : StallId) (cx : CtxId) :
    KeepRes κ σ (execMfenComplete st cx τ) := by
  unfold execMfenComplete
  repeat' (first | with_reducible assumption | with_reducible apply State.resume_keep | with_reducible apply KeepRes.next | split | with_reducible refine Keep.of ?_)

theorem execWaituReturn_keep {κ : Prop} {σ τ : State} (hστ : Keep κ σ τ) (st : StallId) (cx : CtxId) :
    KeepRes κ σ (execWaituReturn st cx τ) := by
  unfold execWaituReturn
  repeat' (first | with_reducible assumption | with_reducible apply State.resume_keep | with_reducible apply KeepRes.next | split | with_reducible refine Keep.of ?_)

theorem execTokenGrant_keep {κ : Prop} {σ τ : State} (hστ : Keep κ σ τ) (n : Nat) :
    KeepRes κ σ (execTokenGrant n τ) := by
  unfold execTokenGrant
  repeat' (first | with_reducible assumption | with_reducible apply State.resume_keep | with_reducible apply State.grant_keep | with_reducible apply KeepRes.next | split | with_reducible refine Keep.of ?_)

theorem State.handleFree_keep {κ : Prop} {σ τ : State} (hστ : Keep κ σ τ) (st : Nat) (c : Nat) (k : Nat) :
    Keep κ σ (State.handleFree τ st c k) := by
  unfold State.handleFree
  repeat' (first | with_reducible assumption | with_reducible apply State.resume_keep | split)

theorem execDeferredTokenEffect_keep {κ : Prop} {σ τ : State} (hστ : Keep κ σ τ) (n : Nat) :
    KeepRes κ σ (execDeferredTokenEffect n τ) := by
  unfold execDeferredTokenEffect
  repeat' (first | with_reducible assumption | with_reducible apply State.handleFree_keep | with_reducible apply KeepRes.next | split | with_reducible refine Keep.of ?_)

theorem State.okSweep_keep {κ : Prop} {σ τ : State} (hστ : Keep κ σ τ) (l : Nat) (x : Launch) :
    Keep κ σ (State.okSweep τ l x) := by
  unfold State.okSweep
  repeat' (first | with_reducible assumption | with_reducible apply State.zeroRows_keep | with_reducible apply State.modStall_keep | with_reducible apply Keep.foldl | split | intro _ _ _ | intro _ _ | intro _ | with_reducible refine Keep.of ?_)

theorem execInstanceEnd_keep {κ : Prop} {σ τ : State} (hστ : Keep κ σ τ) (st : StallId) (cx : CtxId) :
    KeepRes κ σ (execInstanceEnd st cx τ) := by
  unfold execInstanceEnd
  repeat' (first | with_reducible assumption | with_reducible apply State.okSweep_keep | with_reducible apply State.leaveStall_keep | with_reducible apply State.finishLaunch_keep | with_reducible apply State.modLaunch_keep | with_reducible apply State.modCtx_keep | with_reducible apply Keep.foldl | with_reducible apply KeepRes.next | split | intro _ _ _ | intro _ _ | intro _ | with_reducible refine Keep.of ?_)

theorem State.sweptOne_keep {κ : Prop} {σ τ : State} (hστ : Keep κ σ τ) (l : Nat) (st : Nat) :
    Keep κ σ (State.sweptOne τ l st) := by
  unfold State.sweptOne
  repeat' (first | with_reducible assumption | with_reducible apply State.leaveStall_keep | with_reducible apply State.settleLaunch_keep | with_reducible apply State.finishLaunch_keep | with_reducible apply State.modLaunch_keep | with_reducible apply Keep.foldl | split | intro _ _ _ | intro _ _ | intro _ | with_reducible refine Keep.of ?_)

theorem State.pitchSwept_keep {κ : Prop} {σ τ : State} (hστ : Keep κ σ τ) (p : Nat) (st : Nat) :
    Keep κ σ (State.pitchSwept τ p st) := by
  unfold State.pitchSwept
  repeat' (first | with_reducible assumption | with_reducible apply State.resetSettle_keep | with_reducible apply State.resetSweep_keep | split | dsimp only)

theorem execSweepComplete_keep {κ : Prop} {σ τ : State} (hστ : Keep κ σ τ) (st : StallId) :
    KeepRes κ σ (execSweepComplete st τ) := by
  unfold execSweepComplete
  repeat' (first | with_reducible assumption | with_reducible apply State.pitchSwept_keep | with_reducible apply State.sweptOne_keep | with_reducible apply State.endUses_keep | with_reducible apply State.sweepStall_keep | with_reducible apply Keep.foldl | with_reducible apply KeepRes.next | split | intro _ _ _ | intro _ _ | intro _ | with_reducible refine Keep.of ?_)

theorem State.sweepFault_keep {κ : Prop} {σ τ : State} (hστ : Keep κ σ τ) (st : Nat) :
    Keep κ σ (State.sweepFault τ st) := by
  unfold State.sweepFault
  repeat' (first | with_reducible assumption | with_reducible apply State.postFault_keep | with_reducible refine Keep.of ?_)

theorem execSweepTimeout_keep {κ : Prop} {σ τ : State} (hστ : Keep κ σ τ) (st : StallId) :
    KeepRes κ σ (execSweepTimeout st τ) := by
  unfold execSweepTimeout
  repeat' (first | with_reducible assumption | with_reducible apply State.sweepFault_keep | with_reducible apply State.pitchSwept_keep | with_reducible apply State.sweptOne_keep | with_reducible apply State.endUses_keep | with_reducible apply State.mapOutStall_keep | with_reducible apply State.setPwr_keep | with_reducible apply State.sweepStall_keep | with_reducible apply Keep.foldl | with_reducible apply KeepRes.next | split | intro _ _ _ | intro _ _ | intro _ | with_reducible refine Keep.of ?_)

theorem State.unlisted_keep {κ : Prop} {σ τ : State} (hστ : Keep κ σ τ) (st : StallId) (cx : CtxId) (w : W64) :
    Keep κ σ (State.unlisted τ st cx w) := by
  unfold State.unlisted
  repeat' (first | with_reducible assumption | with_reducible apply State.retire_keep | with_reducible apply State.badProgram_keep | exact fun _ h => h | split)

theorem execInstructionCacheFill_keep {κ : Prop} {σ τ : State} (hστ : Keep κ σ τ) (st : StallId) (cx : CtxId) (line : Nat) :
    KeepRes κ σ (execInstructionCacheFill st cx line τ) := by
  unfold execInstructionCacheFill
  repeat' (first | with_reducible assumption | with_reducible apply State.unlisted_keep | with_reducible apply State.seqDenied_keep | with_reducible apply State.tablePoison_keep | with_reducible apply State.poisonFault_keep | with_reducible apply State.modStall_keep | with_reducible apply KeepRes.next | split | intro _ _ _ | intro _ _ | intro _ | with_reducible refine Keep.of ?_)

/-! ### Sideband -/

theorem State.spdmOpen_act (s : State) (x : Option Session) (r : SpdmReq) (y : Security) :
    ((s.spdmOpen x r).act y).installer = y.installer ∧ ((s.spdmOpen x r).act y).operators = y.operators ∧
    ((s.spdmOpen x r).act y).book = y.book := by
  unfold State.spdmOpen
  dsimp only
  repeat' (first | exact ⟨rfl, rfl, rfl⟩ | split)

theorem execSpdmMessage_keep {κ : Prop} {σ τ : State} (hστ : Keep κ σ τ) (vdm : Bool) (sess : Option Nat) (r : SpdmReq) : KeepRes κ σ (execSpdmMessage vdm sess r τ) := by
  unfold execSpdmMessage
  extract_lets d
  have hd : ∀ y : Security, (d.act y).installer = y.installer ∧ (d.act y).operators = y.operators ∧ (d.act y).book = y.book := by
    intro y
    subst d
    split
    · exact State.spdmOpen_act _ _ _ _
    · split
      · exact State.spdmOpen_act _ _ _ _
      · exact ⟨rfl, rfl, rfl⟩
  refine KeepRes.next ?_
  split
  · exact hστ
  · exact State.emit_keep (Keep.of hστ ⟨rfl, rfl, rfl⟩ ⟨rfl, rfl⟩ rfl
      ⟨(hd _).1, (hd _).2.1, by rw [(hd _).2.2], by rw [(hd _).2.2]⟩ rfl) _

theorem execMctpControlMessage_keep {κ : Prop} {σ τ : State} (hστ : Keep κ σ τ) (vdm : Bool) (r : MctpReq) :
    KeepRes κ σ (execMctpControlMessage vdm r τ) := by
  unfold execMctpControlMessage
  repeat' (first | with_reducible assumption | with_reducible apply State.emit_keep | with_reducible apply KeepRes.next | split | with_reducible refine Keep.of ?_)

theorem execJtagInstruction_keep {κ : Prop} {σ τ : State} (hστ : Keep κ σ τ) (op : JtagOp) :
    KeepRes κ σ (execJtagInstruction op τ) := by
  unfold execJtagInstruction
  repeat' (first | with_reducible assumption | with_reducible apply State.regWrite_keep | with_reducible apply State.emit_keep | with_reducible apply KeepRes.next | split | with_reducible refine Keep.of ?_)

end Sys2Proof.Machine
end

