-- ==== Sys2Proof/Laws/ExecKeep.lean ====
section
/-! SUPPORT. What no command undoes, of every command at once. -/

namespace Sys2Proof.Machine

set_option Elab.async false
set_option linter.all false

/-- Whether a command may change the key slots: ENROLL and REVOKE. -/
def mayKey : Instr → Bool
  | .enroll _ _ _ _ _ => true
  | .revoke _ _ _ => true
  | _ => false

/-- What no command undoes (`Keep`), of every command. -/
theorem exec_keep (c : Instr) (s : State) : KeepRes (mayKey c = false) s (exec c s) := by
  cases c with
  | nop st cx f => exact execNop_keep (Keep.refl _ _) st cx f
  | add st cx f => exact execAdd_keep (Keep.refl _ _) st cx f
  | sub st cx f => exact execSub_keep (Keep.refl _ _) st cx f
  | mul st cx f => exact execMul_keep (Keep.refl _ _) st cx f
  | mulh st cx f => exact execMulh_keep (Keep.refl _ _) st cx f
  | and st cx f => exact execAnd_keep (Keep.refl _ _) st cx f
  | or st cx f => exact execOr_keep (Keep.refl _ _) st cx f
  | xor st cx f => exact execXor_keep (Keep.refl _ _) st cx f
  | shl st cx f => exact execShl_keep (Keep.refl _ _) st cx f
  | shr st cx f => exact execShr_keep (Keep.refl _ _) st cx f
  | sar st cx f => exact execSar_keep (Keep.refl _ _) st cx f
  | addi st cx f => exact execAddi_keep (Keep.refl _ _) st cx f
  | movi st cx f => exact execMovi_keep (Keep.refl _ _) st cx f
  | movh st cx f => exact execMovh_keep (Keep.refl _ _) st cx f
  | cmp st cx f => exact execCmp_keep (Keep.refl _ _) st cx f
  | cmpi st cx f => exact execCmpi_keep (Keep.refl _ _) st cx f
  | plog st cx f => exact execPlog_keep (Keep.refl _ _) st cx f
  | mova st cx f => exact execMova_keep (Keep.refl _ _) st cx f
  | movg st cx f => exact execMovg_keep (Keep.refl _ _) st cx f
  | ld st cx f => exact execLd_keep (Keep.refl _ _) st cx f
  | st st cx f => exact execSt_keep (Keep.refl _ _) st cx f
  | ldb st cx f ups => exact execLdb_keep (Keep.refl _ _) st cx f ups
  | stb st cx f => exact execStb_keep (Keep.refl _ _) st cx f
  | flags st cx f => exact execFlags_keep (Keep.refl _ _) st cx f
  | br st cx f => exact execBr_keep (Keep.refl _ _) st cx f
  | jr st cx f => exact execJr_keep (Keep.refl _ _) st cx f
  | call st cx f => exact execCall_keep (Keep.refl _ _) st cx f
  | loop st cx f => exact execLoop_keep (Keep.refl _ _) st cx f
  | loopi st cx f => exact execLoopi_keep (Keep.refl _ _) st cx f
  | lbrk st cx f => exact execLbrk_keep (Keep.refl _ _) st cx f
  | endInst st cx f => exact execEndInst_keep (Keep.refl _ _) st cx f
  | tset st cx f => exact execTset_keep (Keep.refl _ _) st cx f
  | tget st cx f => exact execTget_keep (Keep.refl _ _) st cx f
  | tld st cx f => exact execTld_keep (Keep.refl _ _) st cx f
  | tst st cx f => exact execTst_keep (Keep.refl _ _) st cx f
  | tmov st cx f => exact execTmov_keep (Keep.refl _ _) st cx f
  | tadv st cx f => exact execTadv_keep (Keep.refl _ _) st cx f
  | pass st cx f => exact execPass_keep (Keep.refl _ _) st cx f
  | wld st cx f => exact execWld_keep (Keep.refl _ _) st cx f
  | ascl st cx f => exact execAscl_keep (Keep.refl _ _) st cx f
  | dctw st cx f => exact execDctw_keep (Keep.refl _ _) st cx f
  | satm st cx f => exact execSatm_keep (Keep.refl _ _) st cx f
  | splt st cx f => exact execSplt_keep (Keep.refl _ _) st cx f
  | vld st cx f ups => exact execVld_keep (Keep.refl _ _) st cx f ups
  | vst st cx f => exact execVst_keep (Keep.refl _ _) st cx f
  | vldc st cx f ups => exact execVldc_keep (Keep.refl _ _) st cx f ups
  | vstc st cx f => exact execVstc_keep (Keep.refl _ _) st cx f
  | vbc st cx f => exact execVbc_keep (Keep.refl _ _) st cx f
  | vlane st cx f => exact execVlane_keep (Keep.refl _ _) st cx f
  | vadd st cx f => exact execVadd_keep (Keep.refl _ _) st cx f
  | vsub st cx f => exact execVsub_keep (Keep.refl _ _) st cx f
  | vmul st cx f => exact execVmul_keep (Keep.refl _ _) st cx f
  | vfma st cx f => exact execVfma_keep (Keep.refl _ _) st cx f
  | vmax st cx f => exact execVmax_keep (Keep.refl _ _) st cx f
  | vmin st cx f => exact execVmin_keep (Keep.refl _ _) st cx f
  | vlog st cx f => exact execVlog_keep (Keep.refl _ _) st cx f
  | vsh st cx f => exact execVsh_keep (Keep.refl _ _) st cx f
  | vcmp st cx f => exact execVcmp_keep (Keep.refl _ _) st cx f
  | vsel st cx f => exact execVsel_keep (Keep.refl _ _) st cx f
  | vcvt st cx f => exact execVcvt_keep (Keep.refl _ _) st cx f
  | vsfu st cx f => exact execVsfu_keep (Keep.refl _ _) st cx f
  | vred st cx f => exact execVred_keep (Keep.refl _ _) st cx f
  | vrmax st cx f => exact execVrmax_keep (Keep.refl _ _) st cx f
  | vexpd st cx f => exact execVexpd_keep (Keep.refl _ _) st cx f
  | vsca st cx f => exact execVsca_keep (Keep.refl _ _) st cx f
  | vscf st cx f => exact execVscf_keep (Keep.refl _ _) st cx f
  | vwadd st cx f => exact execVwadd_keep (Keep.refl _ _) st cx f
  | vwcvt st cx f => exact execVwcvt_keep (Keep.refl _ _) st cx f
  | vwanc st cx f => exact execVwanc_keep (Keep.refl _ _) st cx f
  | vcvtt st cx f => exact execVcvtt_keep (Keep.refl _ _) st cx f
  | pcopy st cx f => exact execPcopy_keep (Keep.refl _ _) st cx f
  | pgath st cx f => exact execPgath_keep (Keep.refl _ _) st cx f
  | pwalk st cx f => exact execPwalk_keep (Keep.refl _ _) st cx f
  | pconv st cx f => exact execPconv_keep (Keep.refl _ _) st cx f
  | psend st cx f => exact execPsend_keep (Keep.refl _ _) st cx f
  | ppost st cx f => exact execPpost_keep (Keep.refl _ _) st cx f
  | ptime st cx f => exact execPtime_keep (Keep.refl _ _) st cx f
  | waitu st cx f => exact execWaitu_keep (Keep.refl _ _) st cx f
  | tkacq st cx f => exact execTkacq_keep (Keep.refl _ _) st cx f
  | tktry st cx f => exact execTktry_keep (Keep.refl _ _) st cx f
  | tkpass st cx f => exact execTkpass_keep (Keep.refl _ _) st cx f
  | tkrel st cx f => exact execTkrel_keep (Keep.refl _ _) st cx f
  | tkwait st cx f => exact execTkwait_keep (Keep.refl _ _) st cx f
  | aadd st cx f => exact execAadd_keep (Keep.refl _ _) st cx f
  | amin st cx f => exact execAmin_keep (Keep.refl _ _) st cx f
  | amax st cx f => exact execAmax_keep (Keep.refl _ _) st cx f
  | acas st cx f => exact execAcas_keep (Keep.refl _ _) st cx f
  | awadd st cx f => exact execAwadd_keep (Keep.refl _ _) st cx f
  | atens st cx f => exact execAtens_keep (Keep.refl _ _) st cx f
  | mfen st cx f => exact execMfen_keep (Keep.refl _ _) st cx f
  | mark st cx f => exact execMark_keep (Keep.refl _ _) st cx f
  | time st cx f => exact execTime_keep (Keep.refl _ _) st cx f
  | cyc st cx f => exact execCyc_keep (Keep.refl _ _) st cx f
  | ldDataReturn id => exact execLdDataReturn_keep (Keep.refl _ _) id
  | atomicResponse id => exact execAtomicResponse_keep (Keep.refl _ _) id
  | mfenComplete st cx => exact execMfenComplete_keep (Keep.refl _ _) st cx
  | waituReturn st cx => exact execWaituReturn_keep (Keep.refl _ _) st cx
  | tokenGrant n => exact execTokenGrant_keep (Keep.refl _ _) n
  | deferredTokenEffect n => exact execDeferredTokenEffect_keep (Keep.refl _ _) n
  | instanceEnd st cx => exact execInstanceEnd_keep (Keep.refl _ _) st cx
  | passEntry st sp => exact execPassEntry_keep (Keep.refl _ _) st sp
  | arraySlot st sp hold upset ups => exact execArraySlot_keep (Keep.refl _ _) st sp hold upset ups
  | outputRowsRelease st sp => exact execOutputRowsRelease_keep (Keep.refl _ _) st sp
  | sweepComplete st => exact execSweepComplete_keep (Keep.refl _ _) st
  | sweepTimeout st => exact execSweepTimeout_keep (Keep.refl _ _) st
  | remoteBayRequest st ch ups => exact execRemoteBayRequest_keep (Keep.refl _ _) st ch ups
  | bayCorrectedRewrite n => exact execBayCorrectedRewrite_keep (Keep.refl _ _) n
  | windowForce n => exact execWindowForce_keep (Keep.refl _ _) n
  | porterPairCheck st eng => exact execPorterPairCheck_keep (Keep.refl _ _) st eng
  | porterTransferComplete st ch host ups => exact execPorterTransferComplete_keep (Keep.refl _ _) st ch host ups
  | porterStarvation st ch => exact execPorterStarvation_keep (Keep.refl _ _) st ch
  | pageWalkHeaderRead st ch => exact execPageWalkHeaderRead_keep (Keep.refl _ _) st ch
  | scaleFrameCheck st ch => exact execScaleFrameCheck_keep (Keep.refl _ _) st ch
  | pageWalkEpochRead st ch => exact execPageWalkEpochRead_keep (Keep.refl _ _) st ch
  | blockDecode st eng => exact execBlockDecode_keep (Keep.refl _ _) st eng
  | encodedWritePass st ch ups => exact execEncodedWritePass_keep (Keep.refl _ _) st ch ups
  | entTableBuildDone st ch => exact execEntTableBuildDone_keep (Keep.refl _ _) st ch
  | entDecoderTableLoad st => exact execEntDecoderTableLoad_keep (Keep.refl _ _) st
  | factorExpandTile st eng => exact execFactorExpandTile_keep (Keep.refl _ _) st eng
  | memoryRead job u off o alt again => exact execMemoryRead_keep (Keep.refl _ _) job u off o alt again
  | memoryWrite job => exact execMemoryWrite_keep (Keep.refl _ _) job
  | memoryAtomic id o => exact execMemoryAtomic_keep (Keep.refl _ _) id o
  | atomicBufferEvict u => exact execAtomicBufferEvict_keep (Keep.refl _ _) u
  | patrolRead u o alt again => exact execPatrolRead_keep (Keep.refl _ _) u o alt again
  | stackTempReport k temp => exact execStackTempReport_keep (Keep.refl _ _) k temp
  | memoryUnitPowerDown u => exact execMemoryUnitPowerDown_keep (Keep.refl _ _) u
  | bellWrite fn off size data => exact execBellWrite_keep (Keep.refl _ _) fn off size data
  | callerStart  => exact execCallerStart_keep (Keep.refl _ _) 
  | doorbellScan g entries => exact execDoorbellScan_keep (Keep.refl _ _) g entries
  | groupRescan g entries => exact execGroupRescan_keep (Keep.refl _ _) g entries
  | frontEndIdleCheck  => exact execFrontEndIdleCheck_keep (Keep.refl _ _) 
  | descriptorFetch q slots => exact execDescriptorFetch_keep (Keep.refl _ _) q slots
  | cqDoorbellPoll q entry => exact execCqDoorbellPoll_keep (Keep.refl _ _) q entry
  | completionRecordWrite q => exact execCompletionRecordWrite_keep (Keep.refl _ _) q
  | statusBlockWrite k => exact execStatusBlockWrite_keep (Keep.refl _ _) k
  | watermarkRefresh p => exact execWatermarkRefresh_keep (Keep.refl _ _) p
  | descNop q => exact execDescNop_keep (Keep.refl _ _) q
  | launch q => exact execLaunch_keep (Keep.refl _ _) q
  | launchPlace q => exact execLaunchPlace_keep (Keep.refl _ _) q
  | wait q => exact execWait_keep (Keep.refl _ _) q
  | signal q => exact execSignal_keep (Keep.refl _ _) q
  | signalWriteVisible n => exact execSignalWriteVisible_keep (Keep.refl _ _) n
  | pageEdit q => exact execPageEdit_keep (Keep.refl _ _) q
  | tableRelease q => exact execTableRelease_keep (Keep.refl _ _) q
  | queueCreate q => exact execQueueCreate_keep (Keep.refl _ _) q
  | queueDelete q => exact execQueueDelete_keep (Keep.refl _ _) q
  | resync q entries => exact execResync_keep (Keep.refl _ _) q entries
  | resume q => exact execResume_keep (Keep.refl _ _) q
  | hostwin q => exact execHostwin_keep (Keep.refl _ _) q
  | kill q => exact execKill_keep (Keep.refl _ _) q
  | pitchReset q => exact execPitchReset_keep (Keep.refl _ _) q
  | fwOpen q hdr => exact execFwOpen_keep (Keep.refl _ _) q hdr
  | fwBlock q data => exact execFwBlock_keep (Keep.refl _ _) q data
  | fwCommit q => exact execFwCommit_keep (Keep.refl _ _) q
  | fwActivate q => exact execFwActivate_keep (Keep.refl _ _) q
  | slotAssign n q => exact execSlotAssign_keep (Keep.refl _ _) n q
  | blockedSlotRelease n => exact execBlockedSlotRelease_keep (Keep.refl _ _) n
  | sliceExpiry n => exact execSliceExpiry_keep (Keep.refl _ _) n
  | msixHoldExpiry fn v => exact execMsixHoldExpiry_keep (Keep.refl _ _) fn v
  | msixUnmask fn v => exact execMsixUnmask_keep (Keep.refl _ _) fn v
  | pitchEnable p v => exact execPitchEnable_keep (Keep.refl _ _) p v
  | pitchDisable p => exact execPitchDisable_keep (Keep.refl _ _) p
  | prstWarmCmd p => exact execPrstWarmCmd_keep (Keep.refl _ _) p
  | prstScrubCmd p => exact execPrstScrubCmd_keep (Keep.refl _ _) p
  | functionLevelReset fn => exact execFunctionLevelReset_keep (Keep.refl _ _) fn
  | vfDisable n => exact execVfDisable_keep (Keep.refl _ _) n
  | xlatInval p v => exact execXlatInval_keep (Keep.refl _ _) p v
  | csresWrite v => exact execCsresWrite_keep (Keep.refl _ _) v
  | csEnable n v => exact execCsEnable_keep (Keep.refl _ _) n v
  | csSeal n on => exact execCsSeal_keep (Keep.refl _ _) n on
  | lift n => exact execLift_keep (Keep.refl _ _) n
  | csStateDeferred n => exact execCsStateDeferred_keep (Keep.refl _ _) n
  | pkrEnEffect p n => exact execPkrEnEffect_keep (Keep.refl _ _) p n
  | tableAreaEnable p => exact execTableAreaEnable_keep (Keep.refl _ _) p
  | fctEnEffect p => exact execFctEnEffect_keep (Keep.refl _ _) p
  | fenceQuery fn i => exact execFenceQuery_keep (Keep.refl _ _) fn i
  | fenceDefine fn i owner => exact execFenceDefine_keep (Keep.refl _ _) fn i owner
  | fenceUndefine fn i => exact execFenceUndefine_keep (Keep.refl _ _) fn i
  | baywinOpen n v => exact execBaywinOpen_keep (Keep.refl _ _) n v
  | baywinClose n => exact execBaywinClose_keep (Keep.refl _ _) n
  | dumpRelease fn => exact execDumpRelease_keep (Keep.refl _ _) fn
  | stocktakeRelease  => exact execStocktakeRelease_keep (Keep.refl _ _) 
  | aqEnable fn v => exact execAqEnable_keep (Keep.refl _ _) fn v
  | aqDisable fn => exact execAqDisable_keep (Keep.refl _ _) fn
  | psbEnable fn v => exact execPsbEnable_keep (Keep.refl _ _) fn v
  | mailboxDisableEffect p inbox m => exact execMailboxDisableEffect_keep (Keep.refl _ _) p inbox m
  | timeLoad v => exact execTimeLoad_keep (Keep.refl _ _) v
  | tsyncWrite v => exact execTsyncWrite_keep (Keep.refl _ _) v
  | portEnable n v => exact execPortEnable_keep (Keep.refl _ _) n v
  | portDisable n => exact execPortDisable_keep (Keep.refl _ _) n
  | accept n => exact execAccept_keep (Keep.refl _ _) n
  | modeWrite m => exact execModeWrite_keep (Keep.refl _ _) m
  | crstGo  => exact execCrstGo_keep (Keep.refl _ _) 
  | crstDump  => exact execCrstDump_keep (Keep.refl _ _) 
  | registerWrite fn off size v poison => exact execRegisterWrite_keep (Keep.refl _ _) fn off size v poison
  | id bad => exact execId_keep (Keep.refl _ _) bad
  | enroll slot scheme key sig bad => exact execEnroll_keep (by simp [mayKey]) (Keep.refl _ _) slot scheme key sig bad
  | revoke slot sig bad => exact execRevoke_keep (by simp [mayKey]) (Keep.refl _ _) slot sig bad
  | policy word sig bad => exact execPolicy_keep (Keep.refl _ _) word sig bad
  | auditRead first count addr bad => exact execAuditRead_keep (Keep.refl _ _) first count addr bad
  | auditAck aseq bad => exact execAuditAck_keep (Keep.refl _ _) aseq bad
  | auditSeal bad => exact execAuditSeal_keep (Keep.refl _ _) bad
  | debugNonce bad => exact execDebugNonce_keep (Keep.refl _ _) bad
  | consent token bad => exact execConsent_keep (Keep.refl _ _) token bad
  | relock bad => exact execRelock_keep (Keep.refl _ _) bad
  | auditCheckpoint  => exact execAuditCheckpoint_keep (Keep.refl _ _) 
  | debugUnlock scheme sig => exact execDebugUnlock_keep (Keep.refl _ _) scheme sig
  | debugExpiry  => exact execDebugExpiry_keep (Keep.refl _ _) 
  | fwConfirm c => exact execFwConfirm_keep (Keep.refl _ _) c
  | fwTrialFailure c => exact execFwTrialFailure_keep (Keep.refl _ _) c
  | bar4Write fn off bytes poison => exact execBar4Write_keep (Keep.refl _ _) fn off bytes poison
  | bar4Read fn off n => exact execBar4Read_keep (Keep.refl _ _) fn off n
  | pcieConfigRequest fn r => exact execPcieConfigRequest_keep (Keep.refl _ _) fn r
  | pcieCompletionError r => exact execPcieCompletionError_keep (Keep.refl _ _) r
  | slowClockTick  => exact execSlowClockTick_keep (Keep.refl _ _) 
  | ppsEdge  => exact execPpsEdge_keep (Keep.refl _ _) 
  | tsyncExchange  => exact execTsyncExchange_keep (Keep.refl _ _) 
  | tsyncRequest n => exact execTsyncRequest_keep (Keep.refl _ _) n
  | tsyncReply n => exact execTsyncReply_keep (Keep.refl _ _) n
  | daybookHeadPoll k count => exact execDaybookHeadPoll_keep (Keep.refl _ _) k count
  | reclaimHeadPoll p count => exact execReclaimHeadPoll_keep (Keep.refl _ _) p count
  | linkTrained i full => exact execLinkTrained_keep (Keep.refl _ _) i full
  | linkTrainTimeout i => exact execLinkTrainTimeout_keep (Keep.refl _ _) i
  | ident n => exact execIdent_keep (Keep.refl _ _) n
  | identTimeout i => exact execIdentTimeout_keep (Keep.refl _ _) i
  | wiringWaitExpiry n => exact execWiringWaitExpiry_keep (Keep.refl _ _) n
  | lossOfSignal i => exact execLossOfSignal_keep (Keep.refl _ _) i
  | flitReceive i flit fec => exact execFlitReceive_keep (Keep.refl _ _) i flit fec
  | retryRequest i ack => exact execRetryRequest_keep (Keep.refl _ _) i ack
  | linkAckTimeout i => exact execLinkAckTimeout_keep (Keep.refl _ _) i
  | data n => exact execData_keep (Keep.refl _ _) n
  | ack n => exact execAck_keep (Keep.refl _ _) n
  | refuse n => exact execRefuse_keep (Keep.refl _ _) n
  | credit n => exact execCredit_keep (Keep.refl _ _) n
  | wreq n ups => exact execWreq_keep (Keep.refl _ _) n ups
  | wresp n ups => exact execWresp_keep (Keep.refl _ _) n ups
  | collEnd n => exact execCollEnd_keep (Keep.refl _ _) n
  | thermalSlow n => exact execThermalSlow_keep (Keep.refl _ _) n
  | slowLimitExpiry job => exact execSlowLimitExpiry_keep (Keep.refl _ _) job
  | peerEpoch n => exact execPeerEpoch_keep (Keep.refl _ _) n
  | pairWrite n => exact execPairWrite_keep (Keep.refl _ _) n
  | pairState n => exact execPairState_keep (Keep.refl _ _) n
  | pairDigest n => exact execPairDigest_keep (Keep.refl _ _) n
  | pairFail n => exact execPairFail_keep (Keep.refl _ _) n
  | pairJoin mode live off => exact execPairJoin_keep (Keep.refl _ _) mode live off
  | heartbeat  => exact execHeartbeat_keep (Keep.refl _ _) 
  | heartbeatReceive bridge partner => exact execHeartbeatReceive_keep (Keep.refl _ _) bridge partner
  | heartbeatSilence  => exact execHeartbeatSilence_keep (Keep.refl _ _) 
  | powerLoss cause => exact execPowerLoss_keep (Keep.refl _ _) cause
  | bridgeCreditTimeout  => exact execBridgeCreditTimeout_keep (Keep.refl _ _) 
  | hangWindow  => exact execHangWindow_keep (Keep.refl _ _) 
  | stocktakeReadTimeout words => exact execStocktakeReadTimeout_keep (Keep.refl _ _) words
  | stocktakeLimit  => exact execStocktakeLimit_keep (Keep.refl _ _) 
  | stallDoze st => exact execStallDoze_keep (Keep.refl _ _) st
  | stallNap st => exact execStallNap_keep (Keep.refl _ _) st
  | stallDark st => exact execStallDark_keep (Keep.refl _ _) st
  | stallWake st => exact execStallWake_keep (Keep.refl _ _) st
  | powerLimitPeriod watts => exact execPowerLimitPeriod_keep (Keep.refl _ _) watts
  | currentAlarm  => exact execCurrentAlarm_keep (Keep.refl _ _) 
  | currentAlarmClear  => exact execCurrentAlarmClear_keep (Keep.refl _ _) 
  | dieSensorRead n temp => exact execDieSensorRead_keep (Keep.refl _ _) n temp
  | thermalCeilingStep n => exact execThermalCeilingStep_keep (Keep.refl _ _) n
  | supplyGood active other => exact execSupplyGood_keep (Keep.refl _ _) active other
  | undervoltage  => exact execUndervoltage_keep (Keep.refl _ _) 
  | lossOfSupply  => exact execLossOfSupply_keep (Keep.refl _ _) 
  | pwrEnAssert  => exact execPwrEnAssert_keep (Keep.refl _ _) 
  | pwrEnDeassert  => exact execPwrEnDeassert_keep (Keep.refl _ _) 
  | railInLimits r => exact execRailInLimits_keep (Keep.refl _ _) r
  | railOrderTimeout  => exact execRailOrderTimeout_keep (Keep.refl _ _) 
  | regulatorFault r => exact execRegulatorFault_keep (Keep.refl _ _) r
  | cableOvercurrent n => exact execCableOvercurrent_keep (Keep.refl _ _) n
  | perstAssert  => exact execPerstAssert_keep (Keep.refl _ _) 
  | hbmTrainingDone hot units sts => exact execHbmTrainingDone_keep (Keep.refl _ _) hot units sts
  | dieToDieLaneFailure iod syn => exact execDieToDieLaneFailure_keep (Keep.refl _ _) iod syn
  | callerSilence c => exact execCallerSilence_keep (Keep.refl _ _) c
  | uncorrectableStateError loc syn => exact execUncorrectableStateError_keep (Keep.refl _ _) loc syn
  | clockOrPowerFault domain => exact execClockOrPowerFault_keep (Keep.refl _ _) domain
  | laneErrorRatioCheck i => exact execLaneErrorRatioCheck_keep (Keep.refl _ _) i
  | tensorOperationComplete st cx ups => exact execTensorOperationComplete_keep (Keep.refl _ _) st cx ups
  | instructionCacheFill st cx line => exact execInstructionCacheFill_keep (Keep.refl _ _) st cx line
  | scrubZeroingDone p => exact execScrubZeroingDone_keep (Keep.refl _ _) p
  | pitchRestoreDone p => exact execPitchRestoreDone_keep (Keep.refl _ _) p
  | computeDieResetDone => exact execComputeDieResetDone_keep (Keep.refl _ _)
  | componentVerified c active other => exact execComponentVerified_keep (Keep.refl _ _) c active other
  | railDischarged r => exact execRailDischarged_keep (Keep.refl _ _) r
  | spdmMessage vdm sess r => exact execSpdmMessage_keep (Keep.refl _ _) vdm sess r
  | mctpControlMessage vdm r => exact execMctpControlMessage_keep (Keep.refl _ _) vdm r
  | jtagInstruction op => exact execJtagInstruction_keep (Keep.refl _ _) op
  | perstDeassert  => exact execPerstDeassert_keep (Keep.refl _ _) 

end Sys2Proof.Machine
end

