-- ==== Sys2Proof/Laws/Memory.lean ====
section
/-! SUPPORT. Laws of memory, of the bays and of the register table: every operation keeps the canonical forms, and what a read gives after a
write. -/

namespace Sys2Proof.Machine

/-! ### Device memory -/

/-- The two halves of a canonical memory. -/
theorem Memory.wf_iff (m : Mem) : Memory.wf m = true ↔ Tab.wf (0 : Byte) m.bytes = true ∧ Tab.wf false m.poison = true := by
  simp [Memory.wf]

/-- The poison of a line set: that line's is as set, and every other line's as it was. -/
theorem Mem.poisoned_setPoison {m : Mem} (h : Tab.rising m.poison = true) (k : Nat) (v : Bool) (j : Nat) :
    (m.setPoison k v).poisoned j = if j = k then v else m.poisoned j := by
  have hl : (m.setPoison k v).isLost j = m.isLost j := rfl
  unfold Mem.poisoned
  rw [hl]
  split
  · subst j
    simp [Mem.setPoison, Tab.get_set_self h]
  · rename_i hj
    simp [Mem.setPoison, Tab.get_set_ne _ _ hj]

/-- Lines marked as a whole keep the bytes and the canonical form of the poison. -/
theorem Mem.wf_setLosts {α : Type} (f : α → Nat × Nat × Bool) (l : List α) {m : Mem} (h : Memory.wf m = true) :
    Memory.wf (l.foldl (fun (m : Mem) x => m.setLost (f x).1 (f x).2.1 (f x).2.2) m) = true := by
  induction l generalizing m with
  | nil => exact h
  | cons x l ih =>
    refine ih ?_
    rw [Memory.wf_iff] at h ⊢
    exact ⟨h.1, Tab.wf_clearRange h.2 _ _⟩

/-- Memory at reset is canonical. -/
theorem Memory.wf_reset : Memory.wf State.reset.mem = true := rfl

/-- Memory whose rails come up again is canonical. -/
theorem Memory.wf_repowered (m : Mem) : Memory.wf m.repowered = true := rfl

/-- A written line keeps the canonical form. -/
theorem Memory.wf_writeLine {s : State} (h : Memory.wf s.mem = true) (u o : Nat) (bs : List Byte) (poison : Bool) :
    Memory.wf (s.writeLine u o bs poison).mem = true := by
  rw [Memory.wf_iff] at h ⊢
  unfold State.writeLine
  simp only []
  split
  · exact h
  · split
    · dsimp only; exact ⟨h.1, Tab.wf_set h.2 _ _⟩
    · split
      · exact h
      · dsimp only; exact ⟨Tab.wf_setRange h.1 _ _, Tab.wf_set h.2 _ _⟩

/-- A poisoned line keeps the canonical form. -/
theorem Memory.wf_poisonLine {s : State} (h : Memory.wf s.mem = true) (u o : Nat) : Memory.wf (s.poisonLine u o).mem = true := by
  rw [Memory.wf_iff] at h ⊢
  unfold State.poisonLine
  dsimp only
  exact ⟨Tab.wf_clearRange h.1 _ _, Tab.wf_set h.2 _ _⟩

/-- A zeroed pitch keeps the canonical form. -/
theorem Memory.wf_zeroSpace {s : State} (h : Memory.wf s.mem = true) (p : Nat) (whole : Bool) : Memory.wf (s.zeroSpace p whole).mem = true := by
  have hm : ∀ b : Bool, Memory.wf (if b then (s.unitsOf p).foldl
      (fun (m : Mem) u => m.setLost (memKey u 0 / 64) (s.reserveStart u / 64) false) s.mem else s.mem) = true := by
    intro b
    split
    · exact Mem.wf_setLosts (fun u => (memKey u 0 / 64, s.reserveStart u / 64, false)) _ h
    · exact h
  have hm := hm (whole && s.mem.lost.any (·.2.2))
  rw [Memory.wf_iff] at hm ⊢
  exact ⟨Tab.wf_filter hm.1 _, Tab.wf_filter hm.2 _⟩

/-- Rails that fall leave a canonical memory. -/
theorem Memory.wf_railsFall (s : State) : Memory.wf s.railsFall.mem = true := rfl

/-- What a byte of memory reads as. -/
theorem memBytes_one (s : State) (u o : Nat) : s.memBytes u o 1 = [Tab.get 0 s.mem.bytes (memKey u o)] := rfl

/-- A line of a stack that is off is not written. -/
theorem writeLine_off {s : State} {u : Nat} (h : s.unitOff u = true) (o : Nat) (bs : List Byte) (poison : Bool) :
    s.writeLine u o bs poison = s := by
  simp [State.writeLine, h]

/-- A written byte reads as it was written, where the stack serves and the line is not poisoned or is written whole. -/
theorem writeLine_reads {s : State} (h : Memory.wf s.mem = true) {u o : Nat} {bs : List Byte} (hu : s.unitOff u = false)
    (hp : s.linePoison u o = false ∨ bs.length = 64) {i : Nat} (hi : i < bs.length) :
    Tab.get 0 (s.writeLine u o bs false).mem.bytes (memKey u o + i) = bs[i] := by
  have hp' : (s.linePoison u o && !(bs.length == 64)) = false := by
    rcases hp with hp | hp <;> simp [hp]
  rw [Memory.wf_iff] at h
  simp only [State.writeLine, hu, hp', Bool.false_eq_true, if_false]
  exact Tab.get_setRange_in h.1 _ _ _ hi

/-- A byte outside a written line reads as before. -/
theorem writeLine_leaves (s : State) (u o : Nat) (bs : List Byte) (poison : Bool) {k : Nat} (hk : k < memKey u o ∨ memKey u o + bs.length ≤ k) :
    Tab.get 0 (s.writeLine u o bs poison).mem.bytes k = Tab.get 0 s.mem.bytes k := by
  unfold State.writeLine
  simp only []
  split
  · rfl
  · split
    · rfl
    · split
      · rfl
      · exact Tab.get_setRange_ne _ _ hk

/-- The poison of a line after a write: the written line is poisoned as written, where the stack serves and the line was clean or is
written whole, and every other line stays as it was. -/
theorem writeLine_poisoned {s : State} (h : Memory.wf s.mem = true) (u o : Nat) (bs : List Byte) (poison : Bool) (k : Nat) :
    (s.writeLine u o bs poison).mem.poisoned k =
      if k = memKey u o / 64 ∧ s.unitOff u = false ∧ (poison = true ∨ s.linePoison u o = false ∨ bs.length = 64) then poison
      else s.mem.poisoned k := by
  have hr := ((Tab.wf_iff false _).1 ((Memory.wf_iff _).1 h).2).1
  unfold State.writeLine
  simp only []
  split
  · rename_i hu; simp [hu]
  · rename_i hu
    split
    · rename_i hp; subst hp; simp [Mem.poisoned_setPoison hr, hu]
    · rename_i hp
      split
      · rename_i hq; simp at hq; simp [hp, hq]
      · rename_i hq
        have e : ∀ b, ({ s.mem.setPoison (memKey u o / 64) false with bytes := b } : Mem).poisoned k =
            (s.mem.setPoison (memKey u o / 64) false).poisoned k := fun _ => rfl
        dsimp only
        rw [e, Mem.poisoned_setPoison hr]
        have hc : s.linePoison u o = false ∨ bs.length = 64 := by
          simp at hq
          by_cases hl : s.linePoison u o = true
          · exact .inr (hq hl)
          · exact .inl (by simpa using hl)
        simp [hp, hu, hc]

/-- The poison of any other line stays as it was. -/
theorem writeLine_poison_leaves {s : State} (h : Memory.wf s.mem = true) (u o : Nat) (bs : List Byte) (poison : Bool) {k : Nat}
    (hk : k ≠ memKey u o / 64) : (s.writeLine u o bs poison).mem.poisoned k = s.mem.poisoned k := by
  rw [writeLine_poisoned h, if_neg (fun hc => hk hc.1)]

/-- A line written with poison is poisoned. -/
theorem writeLine_poisons {s : State} (h : Memory.wf s.mem = true) {u : Nat} (hu : s.unitOff u = false) (o : Nat) (bs : List Byte) :
    (s.writeLine u o bs true).mem.poisoned (memKey u o / 64) = true := by
  rw [writeLine_poisoned h, if_pos ⟨rfl, hu, .inl rfl⟩]

/-! ### Bays -/

/-- A written bay word keeps the canonical form. -/
theorem bays_wf_bayWrite {s : State} (h : Tab.wf (0 : BitVec 39) s.bays = true) (st a : Nat) (w : W32) :
    Tab.wf (0 : BitVec 39) (s.bayWrite st a w).bays = true := Tab.wf_set h _ _

/-- Consecutive bay words written keep it. -/
theorem bays_wf_bayWrites {s : State} (h : Tab.wf (0 : BitVec 39) s.bays = true) (st a : Nat) (ws : List W32) :
    Tab.wf (0 : BitVec 39) (s.bayWrites st a ws).bays = true := by
  induction ws generalizing s a with
  | nil => exact h
  | cons w ws ih => exact ih (bays_wf_bayWrite h st a w) (a + 1)

/-- A written bay word is stored with its check bits. -/
theorem bayWord_bayWrite {s : State} (h : Tab.wf (0 : BitVec 39) s.bays = true) (st a : Nat) (w : W32) :
    (s.bayWrite st a w).bayWord (bayKey st a) = bayEncode w := Tab.get_set_self ((Tab.wf_iff _ _).1 h).1 _ _

/-- Every other bay word stays as it was. -/
theorem bayWord_bayWrite_ne (s : State) (st a : Nat) (w : W32) {k : Nat} (hk : k ≠ bayKey st a) :
    (s.bayWrite st a w).bayWord k = s.bayWord k := Tab.get_set_ne _ _ hk

/-! ### Registers -/

/-- A stored register keeps the keys rising. -/
theorem regs_rising_setRaw {s : State} (h : Tab.rising s.regs = true) (fn off v : Nat) : Tab.rising (s.setRaw fn off v).regs = true := by
  unfold State.setRaw
  split
  · exact Tab.rising_del h _
  · exact Tab.rising_put h _ _

/-- Every other register stays as it was. -/
theorem raw_setRaw_ne (s : State) (fn off v : Nat) {fn' off' : Nat} (hk : regKey fn' off' ≠ regKey fn off) :
    (s.setRaw fn off v).raw fn' off' = s.raw fn' off' := by
  unfold State.setRaw
  split
  · unfold State.raw; dsimp only; rw [Tab.find_del_ne _ hk]
  · unfold State.raw; dsimp only; rw [Tab.find_put_ne _ _ hk]

/-- The canonical forms hold at reset. -/
theorem canonical_reset_memory : Memory.wf State.reset.mem = true ∧ Tab.wf (0 : BitVec 39) State.reset.bays = true ∧
    Tab.rising State.reset.regs = true := ⟨rfl, rfl, rfl⟩

end Sys2Proof.Machine
end

