-- ==== Sys2Proof/Laws/State.lean ====
section
/-! SUPPORT. What the updates that every family shares leave unchanged: one lemma for each field and update, so that no proof unfolds a record
update. The field that an update changes has its own lemma where its value is plain. -/

namespace Sys2Proof.Machine

/-! ### modStall -/

@[simp] theorem State.modStall_pending (s : State) (i : Nat) (f : Stall → Stall) : (s.modStall i f).pending = s.pending := rfl
@[simp] theorem State.modStall_free (s : State) (i : Nat) (f : Stall → Stall) : (s.modStall i f).free = s.free := rfl
@[simp] theorem State.modStall_serial (s : State) (i : Nat) (f : Stall → Stall) : (s.modStall i f).serial = s.serial := rfl
@[simp] theorem State.modStall_chip (s : State) (i : Nat) (f : Stall → Stall) : (s.modStall i f).chip = s.chip := rfl
@[simp] theorem State.modStall_tokens (s : State) (i : Nat) (f : Stall → Stall) : (s.modStall i f).tokens = s.tokens := rfl
@[simp] theorem State.modStall_tokReqs (s : State) (i : Nat) (f : Stall → Stall) : (s.modStall i f).tokReqs = s.tokReqs := rfl
@[simp] theorem State.modStall_bays (s : State) (i : Nat) (f : Stall → Stall) : (s.modStall i f).bays = s.bays := rfl
@[simp] theorem State.modStall_rewrites (s : State) (i : Nat) (f : Stall → Stall) : (s.modStall i f).rewrites = s.rewrites := rfl
@[simp] theorem State.modStall_mem (s : State) (i : Nat) (f : Stall → Stall) : (s.modStall i f).mem = s.mem := rfl
@[simp] theorem State.modStall_regs (s : State) (i : Nat) (f : Stall → Stall) : (s.modStall i f).regs = s.regs := rfl
@[simp] theorem State.modStall_fe (s : State) (i : Nat) (f : Stall → Stall) : (s.modStall i f).fe = s.fe := rfl
@[simp] theorem State.modStall_dbk (s : State) (i : Nat) (f : Stall → Stall) : (s.modStall i f).dbk = s.dbk := rfl
@[simp] theorem State.modStall_flt (s : State) (i : Nat) (f : Stall → Stall) : (s.modStall i f).flt = s.flt := rfl
@[simp] theorem State.modStall_rcl (s : State) (i : Nat) (f : Stall → Stall) : (s.modStall i f).rcl = s.rcl := rfl
@[simp] theorem State.modStall_msi (s : State) (i : Nat) (f : Stall → Stall) : (s.modStall i f).msi = s.msi := rfl
@[simp] theorem State.modStall_clk (s : State) (i : Nat) (f : Stall → Stall) : (s.modStall i f).clk = s.clk := rfl
@[simp] theorem State.modStall_net (s : State) (i : Nat) (f : Stall → Stall) : (s.modStall i f).net = s.net := rfl
@[simp] theorem State.modStall_health (s : State) (i : Nat) (f : Stall → Stall) : (s.modStall i f).health = s.health := rfl
@[simp] theorem State.modStall_crst (s : State) (i : Nat) (f : Stall → Stall) : (s.modStall i f).crst = s.crst := rfl
@[simp] theorem State.modStall_watch (s : State) (i : Nat) (f : Stall → Stall) : (s.modStall i f).watch = s.watch := rfl
@[simp] theorem State.modStall_pair (s : State) (i : Nat) (f : Stall → Stall) : (s.modStall i f).pair = s.pair := rfl
@[simp] theorem State.modStall_sec (s : State) (i : Nat) (f : Stall → Stall) : (s.modStall i f).sec = s.sec := rfl
@[simp] theorem State.modStall_fw (s : State) (i : Nat) (f : Stall → Stall) : (s.modStall i f).fw = s.fw := rfl
@[simp] theorem State.modStall_pw (s : State) (i : Nat) (f : Stall → Stall) : (s.modStall i f).pw = s.pw := rfl
@[simp] theorem State.modStall_md (s : State) (i : Nat) (f : Stall → Stall) : (s.modStall i f).md = s.md := rfl
@[simp] theorem State.modStall_hostAcc (s : State) (i : Nat) (f : Stall → Stall) : (s.modStall i f).hostAcc = s.hostAcc := rfl
@[simp] theorem State.modStall_srcLast (s : State) (i : Nat) (f : Stall → Stall) : (s.modStall i f).srcLast = s.srcLast := rfl
@[simp] theorem State.modStall_srcSeq (s : State) (i : Nat) (f : Stall → Stall) : (s.modStall i f).srcSeq = s.srcSeq := rfl
@[simp] theorem State.modStall_out (s : State) (i : Nat) (f : Stall → Stall) : (s.modStall i f).out = s.out := rfl

/-! ### modCtx -/

@[simp] theorem State.modCtx_pending (s : State) (i c : Nat) (f : Ctx → Ctx) : (s.modCtx i c f).pending = s.pending := rfl
@[simp] theorem State.modCtx_free (s : State) (i c : Nat) (f : Ctx → Ctx) : (s.modCtx i c f).free = s.free := rfl
@[simp] theorem State.modCtx_serial (s : State) (i c : Nat) (f : Ctx → Ctx) : (s.modCtx i c f).serial = s.serial := rfl
@[simp] theorem State.modCtx_chip (s : State) (i c : Nat) (f : Ctx → Ctx) : (s.modCtx i c f).chip = s.chip := rfl
@[simp] theorem State.modCtx_tokens (s : State) (i c : Nat) (f : Ctx → Ctx) : (s.modCtx i c f).tokens = s.tokens := rfl
@[simp] theorem State.modCtx_tokReqs (s : State) (i c : Nat) (f : Ctx → Ctx) : (s.modCtx i c f).tokReqs = s.tokReqs := rfl
@[simp] theorem State.modCtx_bays (s : State) (i c : Nat) (f : Ctx → Ctx) : (s.modCtx i c f).bays = s.bays := rfl
@[simp] theorem State.modCtx_rewrites (s : State) (i c : Nat) (f : Ctx → Ctx) : (s.modCtx i c f).rewrites = s.rewrites := rfl
@[simp] theorem State.modCtx_mem (s : State) (i c : Nat) (f : Ctx → Ctx) : (s.modCtx i c f).mem = s.mem := rfl
@[simp] theorem State.modCtx_regs (s : State) (i c : Nat) (f : Ctx → Ctx) : (s.modCtx i c f).regs = s.regs := rfl
@[simp] theorem State.modCtx_fe (s : State) (i c : Nat) (f : Ctx → Ctx) : (s.modCtx i c f).fe = s.fe := rfl
@[simp] theorem State.modCtx_dbk (s : State) (i c : Nat) (f : Ctx → Ctx) : (s.modCtx i c f).dbk = s.dbk := rfl
@[simp] theorem State.modCtx_flt (s : State) (i c : Nat) (f : Ctx → Ctx) : (s.modCtx i c f).flt = s.flt := rfl
@[simp] theorem State.modCtx_rcl (s : State) (i c : Nat) (f : Ctx → Ctx) : (s.modCtx i c f).rcl = s.rcl := rfl
@[simp] theorem State.modCtx_msi (s : State) (i c : Nat) (f : Ctx → Ctx) : (s.modCtx i c f).msi = s.msi := rfl
@[simp] theorem State.modCtx_clk (s : State) (i c : Nat) (f : Ctx → Ctx) : (s.modCtx i c f).clk = s.clk := rfl
@[simp] theorem State.modCtx_net (s : State) (i c : Nat) (f : Ctx → Ctx) : (s.modCtx i c f).net = s.net := rfl
@[simp] theorem State.modCtx_health (s : State) (i c : Nat) (f : Ctx → Ctx) : (s.modCtx i c f).health = s.health := rfl
@[simp] theorem State.modCtx_crst (s : State) (i c : Nat) (f : Ctx → Ctx) : (s.modCtx i c f).crst = s.crst := rfl
@[simp] theorem State.modCtx_watch (s : State) (i c : Nat) (f : Ctx → Ctx) : (s.modCtx i c f).watch = s.watch := rfl
@[simp] theorem State.modCtx_pair (s : State) (i c : Nat) (f : Ctx → Ctx) : (s.modCtx i c f).pair = s.pair := rfl
@[simp] theorem State.modCtx_sec (s : State) (i c : Nat) (f : Ctx → Ctx) : (s.modCtx i c f).sec = s.sec := rfl
@[simp] theorem State.modCtx_fw (s : State) (i c : Nat) (f : Ctx → Ctx) : (s.modCtx i c f).fw = s.fw := rfl
@[simp] theorem State.modCtx_pw (s : State) (i c : Nat) (f : Ctx → Ctx) : (s.modCtx i c f).pw = s.pw := rfl
@[simp] theorem State.modCtx_md (s : State) (i c : Nat) (f : Ctx → Ctx) : (s.modCtx i c f).md = s.md := rfl
@[simp] theorem State.modCtx_hostAcc (s : State) (i c : Nat) (f : Ctx → Ctx) : (s.modCtx i c f).hostAcc = s.hostAcc := rfl
@[simp] theorem State.modCtx_srcLast (s : State) (i c : Nat) (f : Ctx → Ctx) : (s.modCtx i c f).srcLast = s.srcLast := rfl
@[simp] theorem State.modCtx_srcSeq (s : State) (i c : Nat) (f : Ctx → Ctx) : (s.modCtx i c f).srcSeq = s.srcSeq := rfl
@[simp] theorem State.modCtx_out (s : State) (i c : Nat) (f : Ctx → Ctx) : (s.modCtx i c f).out = s.out := rfl

/-! ### modSplit -/

@[simp] theorem State.modSplit_pending (s : State) (i k : Nat) (f : Split → Split) : (s.modSplit i k f).pending = s.pending := rfl
@[simp] theorem State.modSplit_free (s : State) (i k : Nat) (f : Split → Split) : (s.modSplit i k f).free = s.free := rfl
@[simp] theorem State.modSplit_serial (s : State) (i k : Nat) (f : Split → Split) : (s.modSplit i k f).serial = s.serial := rfl
@[simp] theorem State.modSplit_chip (s : State) (i k : Nat) (f : Split → Split) : (s.modSplit i k f).chip = s.chip := rfl
@[simp] theorem State.modSplit_tokens (s : State) (i k : Nat) (f : Split → Split) : (s.modSplit i k f).tokens = s.tokens := rfl
@[simp] theorem State.modSplit_tokReqs (s : State) (i k : Nat) (f : Split → Split) : (s.modSplit i k f).tokReqs = s.tokReqs := rfl
@[simp] theorem State.modSplit_bays (s : State) (i k : Nat) (f : Split → Split) : (s.modSplit i k f).bays = s.bays := rfl
@[simp] theorem State.modSplit_rewrites (s : State) (i k : Nat) (f : Split → Split) : (s.modSplit i k f).rewrites = s.rewrites := rfl
@[simp] theorem State.modSplit_mem (s : State) (i k : Nat) (f : Split → Split) : (s.modSplit i k f).mem = s.mem := rfl
@[simp] theorem State.modSplit_regs (s : State) (i k : Nat) (f : Split → Split) : (s.modSplit i k f).regs = s.regs := rfl
@[simp] theorem State.modSplit_fe (s : State) (i k : Nat) (f : Split → Split) : (s.modSplit i k f).fe = s.fe := rfl
@[simp] theorem State.modSplit_dbk (s : State) (i k : Nat) (f : Split → Split) : (s.modSplit i k f).dbk = s.dbk := rfl
@[simp] theorem State.modSplit_flt (s : State) (i k : Nat) (f : Split → Split) : (s.modSplit i k f).flt = s.flt := rfl
@[simp] theorem State.modSplit_rcl (s : State) (i k : Nat) (f : Split → Split) : (s.modSplit i k f).rcl = s.rcl := rfl
@[simp] theorem State.modSplit_msi (s : State) (i k : Nat) (f : Split → Split) : (s.modSplit i k f).msi = s.msi := rfl
@[simp] theorem State.modSplit_clk (s : State) (i k : Nat) (f : Split → Split) : (s.modSplit i k f).clk = s.clk := rfl
@[simp] theorem State.modSplit_net (s : State) (i k : Nat) (f : Split → Split) : (s.modSplit i k f).net = s.net := rfl
@[simp] theorem State.modSplit_health (s : State) (i k : Nat) (f : Split → Split) : (s.modSplit i k f).health = s.health := rfl
@[simp] theorem State.modSplit_crst (s : State) (i k : Nat) (f : Split → Split) : (s.modSplit i k f).crst = s.crst := rfl
@[simp] theorem State.modSplit_watch (s : State) (i k : Nat) (f : Split → Split) : (s.modSplit i k f).watch = s.watch := rfl
@[simp] theorem State.modSplit_pair (s : State) (i k : Nat) (f : Split → Split) : (s.modSplit i k f).pair = s.pair := rfl
@[simp] theorem State.modSplit_sec (s : State) (i k : Nat) (f : Split → Split) : (s.modSplit i k f).sec = s.sec := rfl
@[simp] theorem State.modSplit_fw (s : State) (i k : Nat) (f : Split → Split) : (s.modSplit i k f).fw = s.fw := rfl
@[simp] theorem State.modSplit_pw (s : State) (i k : Nat) (f : Split → Split) : (s.modSplit i k f).pw = s.pw := rfl
@[simp] theorem State.modSplit_md (s : State) (i k : Nat) (f : Split → Split) : (s.modSplit i k f).md = s.md := rfl
@[simp] theorem State.modSplit_hostAcc (s : State) (i k : Nat) (f : Split → Split) : (s.modSplit i k f).hostAcc = s.hostAcc := rfl
@[simp] theorem State.modSplit_srcLast (s : State) (i k : Nat) (f : Split → Split) : (s.modSplit i k f).srcLast = s.srcLast := rfl
@[simp] theorem State.modSplit_srcSeq (s : State) (i k : Nat) (f : Split → Split) : (s.modSplit i k f).srcSeq = s.srcSeq := rfl
@[simp] theorem State.modSplit_out (s : State) (i k : Nat) (f : Split → Split) : (s.modSplit i k f).out = s.out := rfl

/-! ### modChan -/

@[simp] theorem State.modChan_pending (s : State) (i c : Nat) (f : Chan → Chan) : (s.modChan i c f).pending = s.pending := rfl
@[simp] theorem State.modChan_free (s : State) (i c : Nat) (f : Chan → Chan) : (s.modChan i c f).free = s.free := rfl
@[simp] theorem State.modChan_serial (s : State) (i c : Nat) (f : Chan → Chan) : (s.modChan i c f).serial = s.serial := rfl
@[simp] theorem State.modChan_chip (s : State) (i c : Nat) (f : Chan → Chan) : (s.modChan i c f).chip = s.chip := rfl
@[simp] theorem State.modChan_tokens (s : State) (i c : Nat) (f : Chan → Chan) : (s.modChan i c f).tokens = s.tokens := rfl
@[simp] theorem State.modChan_tokReqs (s : State) (i c : Nat) (f : Chan → Chan) : (s.modChan i c f).tokReqs = s.tokReqs := rfl
@[simp] theorem State.modChan_bays (s : State) (i c : Nat) (f : Chan → Chan) : (s.modChan i c f).bays = s.bays := rfl
@[simp] theorem State.modChan_rewrites (s : State) (i c : Nat) (f : Chan → Chan) : (s.modChan i c f).rewrites = s.rewrites := rfl
@[simp] theorem State.modChan_mem (s : State) (i c : Nat) (f : Chan → Chan) : (s.modChan i c f).mem = s.mem := rfl
@[simp] theorem State.modChan_regs (s : State) (i c : Nat) (f : Chan → Chan) : (s.modChan i c f).regs = s.regs := rfl
@[simp] theorem State.modChan_fe (s : State) (i c : Nat) (f : Chan → Chan) : (s.modChan i c f).fe = s.fe := rfl
@[simp] theorem State.modChan_dbk (s : State) (i c : Nat) (f : Chan → Chan) : (s.modChan i c f).dbk = s.dbk := rfl
@[simp] theorem State.modChan_flt (s : State) (i c : Nat) (f : Chan → Chan) : (s.modChan i c f).flt = s.flt := rfl
@[simp] theorem State.modChan_rcl (s : State) (i c : Nat) (f : Chan → Chan) : (s.modChan i c f).rcl = s.rcl := rfl
@[simp] theorem State.modChan_msi (s : State) (i c : Nat) (f : Chan → Chan) : (s.modChan i c f).msi = s.msi := rfl
@[simp] theorem State.modChan_clk (s : State) (i c : Nat) (f : Chan → Chan) : (s.modChan i c f).clk = s.clk := rfl
@[simp] theorem State.modChan_net (s : State) (i c : Nat) (f : Chan → Chan) : (s.modChan i c f).net = s.net := rfl
@[simp] theorem State.modChan_health (s : State) (i c : Nat) (f : Chan → Chan) : (s.modChan i c f).health = s.health := rfl
@[simp] theorem State.modChan_crst (s : State) (i c : Nat) (f : Chan → Chan) : (s.modChan i c f).crst = s.crst := rfl
@[simp] theorem State.modChan_watch (s : State) (i c : Nat) (f : Chan → Chan) : (s.modChan i c f).watch = s.watch := rfl
@[simp] theorem State.modChan_pair (s : State) (i c : Nat) (f : Chan → Chan) : (s.modChan i c f).pair = s.pair := rfl
@[simp] theorem State.modChan_sec (s : State) (i c : Nat) (f : Chan → Chan) : (s.modChan i c f).sec = s.sec := rfl
@[simp] theorem State.modChan_fw (s : State) (i c : Nat) (f : Chan → Chan) : (s.modChan i c f).fw = s.fw := rfl
@[simp] theorem State.modChan_pw (s : State) (i c : Nat) (f : Chan → Chan) : (s.modChan i c f).pw = s.pw := rfl
@[simp] theorem State.modChan_md (s : State) (i c : Nat) (f : Chan → Chan) : (s.modChan i c f).md = s.md := rfl
@[simp] theorem State.modChan_hostAcc (s : State) (i c : Nat) (f : Chan → Chan) : (s.modChan i c f).hostAcc = s.hostAcc := rfl
@[simp] theorem State.modChan_srcLast (s : State) (i c : Nat) (f : Chan → Chan) : (s.modChan i c f).srcLast = s.srcLast := rfl
@[simp] theorem State.modChan_srcSeq (s : State) (i c : Nat) (f : Chan → Chan) : (s.modChan i c f).srcSeq = s.srcSeq := rfl
@[simp] theorem State.modChan_out (s : State) (i c : Nat) (f : Chan → Chan) : (s.modChan i c f).out = s.out := rfl

/-! ### tally -/

@[simp] theorem State.tally_pending (s : State) (i c : Nat) (f : Ctx → Ctx) : (s.tally i c f).pending = s.pending := rfl
@[simp] theorem State.tally_free (s : State) (i c : Nat) (f : Ctx → Ctx) : (s.tally i c f).free = s.free := rfl
@[simp] theorem State.tally_serial (s : State) (i c : Nat) (f : Ctx → Ctx) : (s.tally i c f).serial = s.serial := rfl
@[simp] theorem State.tally_chip (s : State) (i c : Nat) (f : Ctx → Ctx) : (s.tally i c f).chip = s.chip := rfl
@[simp] theorem State.tally_tokens (s : State) (i c : Nat) (f : Ctx → Ctx) : (s.tally i c f).tokens = s.tokens := rfl
@[simp] theorem State.tally_tokReqs (s : State) (i c : Nat) (f : Ctx → Ctx) : (s.tally i c f).tokReqs = s.tokReqs := rfl
@[simp] theorem State.tally_bays (s : State) (i c : Nat) (f : Ctx → Ctx) : (s.tally i c f).bays = s.bays := rfl
@[simp] theorem State.tally_rewrites (s : State) (i c : Nat) (f : Ctx → Ctx) : (s.tally i c f).rewrites = s.rewrites := rfl
@[simp] theorem State.tally_mem (s : State) (i c : Nat) (f : Ctx → Ctx) : (s.tally i c f).mem = s.mem := rfl
@[simp] theorem State.tally_regs (s : State) (i c : Nat) (f : Ctx → Ctx) : (s.tally i c f).regs = s.regs := rfl
@[simp] theorem State.tally_fe (s : State) (i c : Nat) (f : Ctx → Ctx) : (s.tally i c f).fe = s.fe := rfl
@[simp] theorem State.tally_dbk (s : State) (i c : Nat) (f : Ctx → Ctx) : (s.tally i c f).dbk = s.dbk := rfl
@[simp] theorem State.tally_flt (s : State) (i c : Nat) (f : Ctx → Ctx) : (s.tally i c f).flt = s.flt := rfl
@[simp] theorem State.tally_rcl (s : State) (i c : Nat) (f : Ctx → Ctx) : (s.tally i c f).rcl = s.rcl := rfl
@[simp] theorem State.tally_msi (s : State) (i c : Nat) (f : Ctx → Ctx) : (s.tally i c f).msi = s.msi := rfl
@[simp] theorem State.tally_clk (s : State) (i c : Nat) (f : Ctx → Ctx) : (s.tally i c f).clk = s.clk := rfl
@[simp] theorem State.tally_net (s : State) (i c : Nat) (f : Ctx → Ctx) : (s.tally i c f).net = s.net := rfl
@[simp] theorem State.tally_health (s : State) (i c : Nat) (f : Ctx → Ctx) : (s.tally i c f).health = s.health := rfl
@[simp] theorem State.tally_crst (s : State) (i c : Nat) (f : Ctx → Ctx) : (s.tally i c f).crst = s.crst := rfl
@[simp] theorem State.tally_watch (s : State) (i c : Nat) (f : Ctx → Ctx) : (s.tally i c f).watch = s.watch := rfl
@[simp] theorem State.tally_pair (s : State) (i c : Nat) (f : Ctx → Ctx) : (s.tally i c f).pair = s.pair := rfl
@[simp] theorem State.tally_sec (s : State) (i c : Nat) (f : Ctx → Ctx) : (s.tally i c f).sec = s.sec := rfl
@[simp] theorem State.tally_fw (s : State) (i c : Nat) (f : Ctx → Ctx) : (s.tally i c f).fw = s.fw := rfl
@[simp] theorem State.tally_pw (s : State) (i c : Nat) (f : Ctx → Ctx) : (s.tally i c f).pw = s.pw := rfl
@[simp] theorem State.tally_md (s : State) (i c : Nat) (f : Ctx → Ctx) : (s.tally i c f).md = s.md := rfl
@[simp] theorem State.tally_hostAcc (s : State) (i c : Nat) (f : Ctx → Ctx) : (s.tally i c f).hostAcc = s.hostAcc := rfl
@[simp] theorem State.tally_srcLast (s : State) (i c : Nat) (f : Ctx → Ctx) : (s.tally i c f).srcLast = s.srcLast := rfl
@[simp] theorem State.tally_srcSeq (s : State) (i c : Nat) (f : Ctx → Ctx) : (s.tally i c f).srcSeq = s.srcSeq := rfl
@[simp] theorem State.tally_out (s : State) (i c : Nat) (f : Ctx → Ctx) : (s.tally i c f).out = s.out := rfl

/-! ### retire -/

@[simp] theorem State.retire_pending (s : State) (i c : Nat) (f : Ctx → Ctx) : (s.retire i c f).pending = s.pending := rfl
@[simp] theorem State.retire_free (s : State) (i c : Nat) (f : Ctx → Ctx) : (s.retire i c f).free = s.free := rfl
@[simp] theorem State.retire_serial (s : State) (i c : Nat) (f : Ctx → Ctx) : (s.retire i c f).serial = s.serial := rfl
@[simp] theorem State.retire_chip (s : State) (i c : Nat) (f : Ctx → Ctx) : (s.retire i c f).chip = s.chip := rfl
@[simp] theorem State.retire_tokens (s : State) (i c : Nat) (f : Ctx → Ctx) : (s.retire i c f).tokens = s.tokens := rfl
@[simp] theorem State.retire_tokReqs (s : State) (i c : Nat) (f : Ctx → Ctx) : (s.retire i c f).tokReqs = s.tokReqs := rfl
@[simp] theorem State.retire_bays (s : State) (i c : Nat) (f : Ctx → Ctx) : (s.retire i c f).bays = s.bays := rfl
@[simp] theorem State.retire_rewrites (s : State) (i c : Nat) (f : Ctx → Ctx) : (s.retire i c f).rewrites = s.rewrites := rfl
@[simp] theorem State.retire_mem (s : State) (i c : Nat) (f : Ctx → Ctx) : (s.retire i c f).mem = s.mem := rfl
@[simp] theorem State.retire_regs (s : State) (i c : Nat) (f : Ctx → Ctx) : (s.retire i c f).regs = s.regs := rfl
@[simp] theorem State.retire_fe (s : State) (i c : Nat) (f : Ctx → Ctx) : (s.retire i c f).fe = s.fe := rfl
@[simp] theorem State.retire_dbk (s : State) (i c : Nat) (f : Ctx → Ctx) : (s.retire i c f).dbk = s.dbk := rfl
@[simp] theorem State.retire_flt (s : State) (i c : Nat) (f : Ctx → Ctx) : (s.retire i c f).flt = s.flt := rfl
@[simp] theorem State.retire_rcl (s : State) (i c : Nat) (f : Ctx → Ctx) : (s.retire i c f).rcl = s.rcl := rfl
@[simp] theorem State.retire_msi (s : State) (i c : Nat) (f : Ctx → Ctx) : (s.retire i c f).msi = s.msi := rfl
@[simp] theorem State.retire_clk (s : State) (i c : Nat) (f : Ctx → Ctx) : (s.retire i c f).clk = s.clk := rfl
@[simp] theorem State.retire_net (s : State) (i c : Nat) (f : Ctx → Ctx) : (s.retire i c f).net = s.net := rfl
@[simp] theorem State.retire_health (s : State) (i c : Nat) (f : Ctx → Ctx) : (s.retire i c f).health = s.health := rfl
@[simp] theorem State.retire_crst (s : State) (i c : Nat) (f : Ctx → Ctx) : (s.retire i c f).crst = s.crst := rfl
@[simp] theorem State.retire_watch (s : State) (i c : Nat) (f : Ctx → Ctx) : (s.retire i c f).watch = s.watch := rfl
@[simp] theorem State.retire_pair (s : State) (i c : Nat) (f : Ctx → Ctx) : (s.retire i c f).pair = s.pair := rfl
@[simp] theorem State.retire_sec (s : State) (i c : Nat) (f : Ctx → Ctx) : (s.retire i c f).sec = s.sec := rfl
@[simp] theorem State.retire_fw (s : State) (i c : Nat) (f : Ctx → Ctx) : (s.retire i c f).fw = s.fw := rfl
@[simp] theorem State.retire_pw (s : State) (i c : Nat) (f : Ctx → Ctx) : (s.retire i c f).pw = s.pw := rfl
@[simp] theorem State.retire_md (s : State) (i c : Nat) (f : Ctx → Ctx) : (s.retire i c f).md = s.md := rfl
@[simp] theorem State.retire_hostAcc (s : State) (i c : Nat) (f : Ctx → Ctx) : (s.retire i c f).hostAcc = s.hostAcc := rfl
@[simp] theorem State.retire_srcLast (s : State) (i c : Nat) (f : Ctx → Ctx) : (s.retire i c f).srcLast = s.srcLast := rfl
@[simp] theorem State.retire_srcSeq (s : State) (i c : Nat) (f : Ctx → Ctx) : (s.retire i c f).srcSeq = s.srcSeq := rfl
@[simp] theorem State.retire_out (s : State) (i c : Nat) (f : Ctx → Ctx) : (s.retire i c f).out = s.out := rfl

/-! ### modPitch -/

@[simp] theorem State.modPitch_pending (s : State) (p : Nat) (f : Pitch → Pitch) : (s.modPitch p f).pending = s.pending := rfl
@[simp] theorem State.modPitch_free (s : State) (p : Nat) (f : Pitch → Pitch) : (s.modPitch p f).free = s.free := rfl
@[simp] theorem State.modPitch_serial (s : State) (p : Nat) (f : Pitch → Pitch) : (s.modPitch p f).serial = s.serial := rfl
@[simp] theorem State.modPitch_chip (s : State) (p : Nat) (f : Pitch → Pitch) : (s.modPitch p f).chip = s.chip := rfl
@[simp] theorem State.modPitch_stalls (s : State) (p : Nat) (f : Pitch → Pitch) : (s.modPitch p f).stalls = s.stalls := rfl
@[simp] theorem State.modPitch_tokens (s : State) (p : Nat) (f : Pitch → Pitch) : (s.modPitch p f).tokens = s.tokens := rfl
@[simp] theorem State.modPitch_tokReqs (s : State) (p : Nat) (f : Pitch → Pitch) : (s.modPitch p f).tokReqs = s.tokReqs := rfl
@[simp] theorem State.modPitch_bays (s : State) (p : Nat) (f : Pitch → Pitch) : (s.modPitch p f).bays = s.bays := rfl
@[simp] theorem State.modPitch_rewrites (s : State) (p : Nat) (f : Pitch → Pitch) : (s.modPitch p f).rewrites = s.rewrites := rfl
@[simp] theorem State.modPitch_mem (s : State) (p : Nat) (f : Pitch → Pitch) : (s.modPitch p f).mem = s.mem := rfl
@[simp] theorem State.modPitch_regs (s : State) (p : Nat) (f : Pitch → Pitch) : (s.modPitch p f).regs = s.regs := rfl
@[simp] theorem State.modPitch_dbk (s : State) (p : Nat) (f : Pitch → Pitch) : (s.modPitch p f).dbk = s.dbk := rfl
@[simp] theorem State.modPitch_flt (s : State) (p : Nat) (f : Pitch → Pitch) : (s.modPitch p f).flt = s.flt := rfl
@[simp] theorem State.modPitch_rcl (s : State) (p : Nat) (f : Pitch → Pitch) : (s.modPitch p f).rcl = s.rcl := rfl
@[simp] theorem State.modPitch_msi (s : State) (p : Nat) (f : Pitch → Pitch) : (s.modPitch p f).msi = s.msi := rfl
@[simp] theorem State.modPitch_clk (s : State) (p : Nat) (f : Pitch → Pitch) : (s.modPitch p f).clk = s.clk := rfl
@[simp] theorem State.modPitch_net (s : State) (p : Nat) (f : Pitch → Pitch) : (s.modPitch p f).net = s.net := rfl
@[simp] theorem State.modPitch_health (s : State) (p : Nat) (f : Pitch → Pitch) : (s.modPitch p f).health = s.health := rfl
@[simp] theorem State.modPitch_crst (s : State) (p : Nat) (f : Pitch → Pitch) : (s.modPitch p f).crst = s.crst := rfl
@[simp] theorem State.modPitch_watch (s : State) (p : Nat) (f : Pitch → Pitch) : (s.modPitch p f).watch = s.watch := rfl
@[simp] theorem State.modPitch_pair (s : State) (p : Nat) (f : Pitch → Pitch) : (s.modPitch p f).pair = s.pair := rfl
@[simp] theorem State.modPitch_sec (s : State) (p : Nat) (f : Pitch → Pitch) : (s.modPitch p f).sec = s.sec := rfl
@[simp] theorem State.modPitch_fw (s : State) (p : Nat) (f : Pitch → Pitch) : (s.modPitch p f).fw = s.fw := rfl
@[simp] theorem State.modPitch_pw (s : State) (p : Nat) (f : Pitch → Pitch) : (s.modPitch p f).pw = s.pw := rfl
@[simp] theorem State.modPitch_md (s : State) (p : Nat) (f : Pitch → Pitch) : (s.modPitch p f).md = s.md := rfl
@[simp] theorem State.modPitch_hostAcc (s : State) (p : Nat) (f : Pitch → Pitch) : (s.modPitch p f).hostAcc = s.hostAcc := rfl
@[simp] theorem State.modPitch_srcLast (s : State) (p : Nat) (f : Pitch → Pitch) : (s.modPitch p f).srcLast = s.srcLast := rfl
@[simp] theorem State.modPitch_srcSeq (s : State) (p : Nat) (f : Pitch → Pitch) : (s.modPitch p f).srcSeq = s.srcSeq := rfl
@[simp] theorem State.modPitch_out (s : State) (p : Nat) (f : Pitch → Pitch) : (s.modPitch p f).out = s.out := rfl

/-! ### modSlot -/

@[simp] theorem State.modSlot_pending (s : State) (n : Nat) (f : Slot → Slot) : (s.modSlot n f).pending = s.pending := rfl
@[simp] theorem State.modSlot_free (s : State) (n : Nat) (f : Slot → Slot) : (s.modSlot n f).free = s.free := rfl
@[simp] theorem State.modSlot_serial (s : State) (n : Nat) (f : Slot → Slot) : (s.modSlot n f).serial = s.serial := rfl
@[simp] theorem State.modSlot_chip (s : State) (n : Nat) (f : Slot → Slot) : (s.modSlot n f).chip = s.chip := rfl
@[simp] theorem State.modSlot_stalls (s : State) (n : Nat) (f : Slot → Slot) : (s.modSlot n f).stalls = s.stalls := rfl
@[simp] theorem State.modSlot_tokens (s : State) (n : Nat) (f : Slot → Slot) : (s.modSlot n f).tokens = s.tokens := rfl
@[simp] theorem State.modSlot_tokReqs (s : State) (n : Nat) (f : Slot → Slot) : (s.modSlot n f).tokReqs = s.tokReqs := rfl
@[simp] theorem State.modSlot_bays (s : State) (n : Nat) (f : Slot → Slot) : (s.modSlot n f).bays = s.bays := rfl
@[simp] theorem State.modSlot_rewrites (s : State) (n : Nat) (f : Slot → Slot) : (s.modSlot n f).rewrites = s.rewrites := rfl
@[simp] theorem State.modSlot_mem (s : State) (n : Nat) (f : Slot → Slot) : (s.modSlot n f).mem = s.mem := rfl
@[simp] theorem State.modSlot_regs (s : State) (n : Nat) (f : Slot → Slot) : (s.modSlot n f).regs = s.regs := rfl
@[simp] theorem State.modSlot_dbk (s : State) (n : Nat) (f : Slot → Slot) : (s.modSlot n f).dbk = s.dbk := rfl
@[simp] theorem State.modSlot_flt (s : State) (n : Nat) (f : Slot → Slot) : (s.modSlot n f).flt = s.flt := rfl
@[simp] theorem State.modSlot_rcl (s : State) (n : Nat) (f : Slot → Slot) : (s.modSlot n f).rcl = s.rcl := rfl
@[simp] theorem State.modSlot_msi (s : State) (n : Nat) (f : Slot → Slot) : (s.modSlot n f).msi = s.msi := rfl
@[simp] theorem State.modSlot_clk (s : State) (n : Nat) (f : Slot → Slot) : (s.modSlot n f).clk = s.clk := rfl
@[simp] theorem State.modSlot_net (s : State) (n : Nat) (f : Slot → Slot) : (s.modSlot n f).net = s.net := rfl
@[simp] theorem State.modSlot_health (s : State) (n : Nat) (f : Slot → Slot) : (s.modSlot n f).health = s.health := rfl
@[simp] theorem State.modSlot_crst (s : State) (n : Nat) (f : Slot → Slot) : (s.modSlot n f).crst = s.crst := rfl
@[simp] theorem State.modSlot_watch (s : State) (n : Nat) (f : Slot → Slot) : (s.modSlot n f).watch = s.watch := rfl
@[simp] theorem State.modSlot_pair (s : State) (n : Nat) (f : Slot → Slot) : (s.modSlot n f).pair = s.pair := rfl
@[simp] theorem State.modSlot_sec (s : State) (n : Nat) (f : Slot → Slot) : (s.modSlot n f).sec = s.sec := rfl
@[simp] theorem State.modSlot_fw (s : State) (n : Nat) (f : Slot → Slot) : (s.modSlot n f).fw = s.fw := rfl
@[simp] theorem State.modSlot_pw (s : State) (n : Nat) (f : Slot → Slot) : (s.modSlot n f).pw = s.pw := rfl
@[simp] theorem State.modSlot_md (s : State) (n : Nat) (f : Slot → Slot) : (s.modSlot n f).md = s.md := rfl
@[simp] theorem State.modSlot_hostAcc (s : State) (n : Nat) (f : Slot → Slot) : (s.modSlot n f).hostAcc = s.hostAcc := rfl
@[simp] theorem State.modSlot_srcLast (s : State) (n : Nat) (f : Slot → Slot) : (s.modSlot n f).srcLast = s.srcLast := rfl
@[simp] theorem State.modSlot_srcSeq (s : State) (n : Nat) (f : Slot → Slot) : (s.modSlot n f).srcSeq = s.srcSeq := rfl
@[simp] theorem State.modSlot_out (s : State) (n : Nat) (f : Slot → Slot) : (s.modSlot n f).out = s.out := rfl

/-! ### modFe -/

@[simp] theorem State.modFe_pending (s : State) (f : FrontEnd → FrontEnd) : (s.modFe f).pending = s.pending := rfl
@[simp] theorem State.modFe_free (s : State) (f : FrontEnd → FrontEnd) : (s.modFe f).free = s.free := rfl
@[simp] theorem State.modFe_serial (s : State) (f : FrontEnd → FrontEnd) : (s.modFe f).serial = s.serial := rfl
@[simp] theorem State.modFe_chip (s : State) (f : FrontEnd → FrontEnd) : (s.modFe f).chip = s.chip := rfl
@[simp] theorem State.modFe_stalls (s : State) (f : FrontEnd → FrontEnd) : (s.modFe f).stalls = s.stalls := rfl
@[simp] theorem State.modFe_tokens (s : State) (f : FrontEnd → FrontEnd) : (s.modFe f).tokens = s.tokens := rfl
@[simp] theorem State.modFe_tokReqs (s : State) (f : FrontEnd → FrontEnd) : (s.modFe f).tokReqs = s.tokReqs := rfl
@[simp] theorem State.modFe_bays (s : State) (f : FrontEnd → FrontEnd) : (s.modFe f).bays = s.bays := rfl
@[simp] theorem State.modFe_rewrites (s : State) (f : FrontEnd → FrontEnd) : (s.modFe f).rewrites = s.rewrites := rfl
@[simp] theorem State.modFe_mem (s : State) (f : FrontEnd → FrontEnd) : (s.modFe f).mem = s.mem := rfl
@[simp] theorem State.modFe_regs (s : State) (f : FrontEnd → FrontEnd) : (s.modFe f).regs = s.regs := rfl
@[simp] theorem State.modFe_dbk (s : State) (f : FrontEnd → FrontEnd) : (s.modFe f).dbk = s.dbk := rfl
@[simp] theorem State.modFe_flt (s : State) (f : FrontEnd → FrontEnd) : (s.modFe f).flt = s.flt := rfl
@[simp] theorem State.modFe_rcl (s : State) (f : FrontEnd → FrontEnd) : (s.modFe f).rcl = s.rcl := rfl
@[simp] theorem State.modFe_msi (s : State) (f : FrontEnd → FrontEnd) : (s.modFe f).msi = s.msi := rfl
@[simp] theorem State.modFe_clk (s : State) (f : FrontEnd → FrontEnd) : (s.modFe f).clk = s.clk := rfl
@[simp] theorem State.modFe_net (s : State) (f : FrontEnd → FrontEnd) : (s.modFe f).net = s.net := rfl
@[simp] theorem State.modFe_health (s : State) (f : FrontEnd → FrontEnd) : (s.modFe f).health = s.health := rfl
@[simp] theorem State.modFe_crst (s : State) (f : FrontEnd → FrontEnd) : (s.modFe f).crst = s.crst := rfl
@[simp] theorem State.modFe_watch (s : State) (f : FrontEnd → FrontEnd) : (s.modFe f).watch = s.watch := rfl
@[simp] theorem State.modFe_pair (s : State) (f : FrontEnd → FrontEnd) : (s.modFe f).pair = s.pair := rfl
@[simp] theorem State.modFe_sec (s : State) (f : FrontEnd → FrontEnd) : (s.modFe f).sec = s.sec := rfl
@[simp] theorem State.modFe_fw (s : State) (f : FrontEnd → FrontEnd) : (s.modFe f).fw = s.fw := rfl
@[simp] theorem State.modFe_pw (s : State) (f : FrontEnd → FrontEnd) : (s.modFe f).pw = s.pw := rfl
@[simp] theorem State.modFe_md (s : State) (f : FrontEnd → FrontEnd) : (s.modFe f).md = s.md := rfl
@[simp] theorem State.modFe_hostAcc (s : State) (f : FrontEnd → FrontEnd) : (s.modFe f).hostAcc = s.hostAcc := rfl
@[simp] theorem State.modFe_srcLast (s : State) (f : FrontEnd → FrontEnd) : (s.modFe f).srcLast = s.srcLast := rfl
@[simp] theorem State.modFe_srcSeq (s : State) (f : FrontEnd → FrontEnd) : (s.modFe f).srcSeq = s.srcSeq := rfl
@[simp] theorem State.modFe_out (s : State) (f : FrontEnd → FrontEnd) : (s.modFe f).out = s.out := rfl

/-! ### tickSerial -/

@[simp] theorem State.tickSerial_pending (s : State) : (s.tickSerial).pending = s.pending := rfl
@[simp] theorem State.tickSerial_free (s : State) : (s.tickSerial).free = s.free := rfl
@[simp] theorem State.tickSerial_chip (s : State) : (s.tickSerial).chip = s.chip := rfl
@[simp] theorem State.tickSerial_stalls (s : State) : (s.tickSerial).stalls = s.stalls := rfl
@[simp] theorem State.tickSerial_tokens (s : State) : (s.tickSerial).tokens = s.tokens := rfl
@[simp] theorem State.tickSerial_tokReqs (s : State) : (s.tickSerial).tokReqs = s.tokReqs := rfl
@[simp] theorem State.tickSerial_bays (s : State) : (s.tickSerial).bays = s.bays := rfl
@[simp] theorem State.tickSerial_rewrites (s : State) : (s.tickSerial).rewrites = s.rewrites := rfl
@[simp] theorem State.tickSerial_mem (s : State) : (s.tickSerial).mem = s.mem := rfl
@[simp] theorem State.tickSerial_regs (s : State) : (s.tickSerial).regs = s.regs := rfl
@[simp] theorem State.tickSerial_fe (s : State) : (s.tickSerial).fe = s.fe := rfl
@[simp] theorem State.tickSerial_dbk (s : State) : (s.tickSerial).dbk = s.dbk := rfl
@[simp] theorem State.tickSerial_flt (s : State) : (s.tickSerial).flt = s.flt := rfl
@[simp] theorem State.tickSerial_rcl (s : State) : (s.tickSerial).rcl = s.rcl := rfl
@[simp] theorem State.tickSerial_msi (s : State) : (s.tickSerial).msi = s.msi := rfl
@[simp] theorem State.tickSerial_clk (s : State) : (s.tickSerial).clk = s.clk := rfl
@[simp] theorem State.tickSerial_net (s : State) : (s.tickSerial).net = s.net := rfl
@[simp] theorem State.tickSerial_health (s : State) : (s.tickSerial).health = s.health := rfl
@[simp] theorem State.tickSerial_crst (s : State) : (s.tickSerial).crst = s.crst := rfl
@[simp] theorem State.tickSerial_watch (s : State) : (s.tickSerial).watch = s.watch := rfl
@[simp] theorem State.tickSerial_pair (s : State) : (s.tickSerial).pair = s.pair := rfl
@[simp] theorem State.tickSerial_sec (s : State) : (s.tickSerial).sec = s.sec := rfl
@[simp] theorem State.tickSerial_fw (s : State) : (s.tickSerial).fw = s.fw := rfl
@[simp] theorem State.tickSerial_pw (s : State) : (s.tickSerial).pw = s.pw := rfl
@[simp] theorem State.tickSerial_md (s : State) : (s.tickSerial).md = s.md := rfl
@[simp] theorem State.tickSerial_hostAcc (s : State) : (s.tickSerial).hostAcc = s.hostAcc := rfl
@[simp] theorem State.tickSerial_srcLast (s : State) : (s.tickSerial).srcLast = s.srcLast := rfl
@[simp] theorem State.tickSerial_srcSeq (s : State) : (s.tickSerial).srcSeq = s.srcSeq := rfl
@[simp] theorem State.tickSerial_out (s : State) : (s.tickSerial).out = s.out := rfl

/-! ### afterAny -/

@[simp] theorem State.afterAny_pending (s : State) : (s.afterAny).pending = s.pending := rfl
@[simp] theorem State.afterAny_serial (s : State) : (s.afterAny).serial = s.serial := rfl
@[simp] theorem State.afterAny_chip (s : State) : (s.afterAny).chip = s.chip := rfl
@[simp] theorem State.afterAny_stalls (s : State) : (s.afterAny).stalls = s.stalls := rfl
@[simp] theorem State.afterAny_tokens (s : State) : (s.afterAny).tokens = s.tokens := rfl
@[simp] theorem State.afterAny_tokReqs (s : State) : (s.afterAny).tokReqs = s.tokReqs := rfl
@[simp] theorem State.afterAny_bays (s : State) : (s.afterAny).bays = s.bays := rfl
@[simp] theorem State.afterAny_rewrites (s : State) : (s.afterAny).rewrites = s.rewrites := rfl
@[simp] theorem State.afterAny_mem (s : State) : (s.afterAny).mem = s.mem := rfl
@[simp] theorem State.afterAny_regs (s : State) : (s.afterAny).regs = s.regs := rfl
@[simp] theorem State.afterAny_fe (s : State) : (s.afterAny).fe = s.fe := rfl
@[simp] theorem State.afterAny_dbk (s : State) : (s.afterAny).dbk = s.dbk := rfl
@[simp] theorem State.afterAny_flt (s : State) : (s.afterAny).flt = s.flt := rfl
@[simp] theorem State.afterAny_rcl (s : State) : (s.afterAny).rcl = s.rcl := rfl
@[simp] theorem State.afterAny_msi (s : State) : (s.afterAny).msi = s.msi := rfl
@[simp] theorem State.afterAny_clk (s : State) : (s.afterAny).clk = s.clk := rfl
@[simp] theorem State.afterAny_net (s : State) : (s.afterAny).net = s.net := rfl
@[simp] theorem State.afterAny_health (s : State) : (s.afterAny).health = s.health := rfl
@[simp] theorem State.afterAny_crst (s : State) : (s.afterAny).crst = s.crst := rfl
@[simp] theorem State.afterAny_watch (s : State) : (s.afterAny).watch = s.watch := rfl
@[simp] theorem State.afterAny_pair (s : State) : (s.afterAny).pair = s.pair := rfl
@[simp] theorem State.afterAny_sec (s : State) : (s.afterAny).sec = s.sec := rfl
@[simp] theorem State.afterAny_fw (s : State) : (s.afterAny).fw = s.fw := rfl
@[simp] theorem State.afterAny_pw (s : State) : (s.afterAny).pw = s.pw := rfl
@[simp] theorem State.afterAny_md (s : State) : (s.afterAny).md = s.md := rfl
@[simp] theorem State.afterAny_hostAcc (s : State) : (s.afterAny).hostAcc = s.hostAcc := rfl
@[simp] theorem State.afterAny_srcLast (s : State) : (s.afterAny).srcLast = s.srcLast := rfl
@[simp] theorem State.afterAny_srcSeq (s : State) : (s.afterAny).srcSeq = s.srcSeq := rfl
@[simp] theorem State.afterAny_out (s : State) : (s.afterAny).out = s.out := rfl

/-! ### emit -/

@[simp] theorem State.emit_pending (s : State) (o : Out) : (s.emit o).pending = s.pending := rfl
@[simp] theorem State.emit_free (s : State) (o : Out) : (s.emit o).free = s.free := rfl
@[simp] theorem State.emit_serial (s : State) (o : Out) : (s.emit o).serial = s.serial := rfl
@[simp] theorem State.emit_chip (s : State) (o : Out) : (s.emit o).chip = s.chip := rfl
@[simp] theorem State.emit_stalls (s : State) (o : Out) : (s.emit o).stalls = s.stalls := rfl
@[simp] theorem State.emit_tokens (s : State) (o : Out) : (s.emit o).tokens = s.tokens := rfl
@[simp] theorem State.emit_tokReqs (s : State) (o : Out) : (s.emit o).tokReqs = s.tokReqs := rfl
@[simp] theorem State.emit_bays (s : State) (o : Out) : (s.emit o).bays = s.bays := rfl
@[simp] theorem State.emit_rewrites (s : State) (o : Out) : (s.emit o).rewrites = s.rewrites := rfl
@[simp] theorem State.emit_mem (s : State) (o : Out) : (s.emit o).mem = s.mem := rfl
@[simp] theorem State.emit_regs (s : State) (o : Out) : (s.emit o).regs = s.regs := rfl
@[simp] theorem State.emit_fe (s : State) (o : Out) : (s.emit o).fe = s.fe := rfl
@[simp] theorem State.emit_dbk (s : State) (o : Out) : (s.emit o).dbk = s.dbk := rfl
@[simp] theorem State.emit_flt (s : State) (o : Out) : (s.emit o).flt = s.flt := rfl
@[simp] theorem State.emit_rcl (s : State) (o : Out) : (s.emit o).rcl = s.rcl := rfl
@[simp] theorem State.emit_msi (s : State) (o : Out) : (s.emit o).msi = s.msi := rfl
@[simp] theorem State.emit_clk (s : State) (o : Out) : (s.emit o).clk = s.clk := rfl
@[simp] theorem State.emit_net (s : State) (o : Out) : (s.emit o).net = s.net := rfl
@[simp] theorem State.emit_health (s : State) (o : Out) : (s.emit o).health = s.health := rfl
@[simp] theorem State.emit_crst (s : State) (o : Out) : (s.emit o).crst = s.crst := rfl
@[simp] theorem State.emit_watch (s : State) (o : Out) : (s.emit o).watch = s.watch := rfl
@[simp] theorem State.emit_pair (s : State) (o : Out) : (s.emit o).pair = s.pair := rfl
@[simp] theorem State.emit_sec (s : State) (o : Out) : (s.emit o).sec = s.sec := rfl
@[simp] theorem State.emit_fw (s : State) (o : Out) : (s.emit o).fw = s.fw := rfl
@[simp] theorem State.emit_pw (s : State) (o : Out) : (s.emit o).pw = s.pw := rfl
@[simp] theorem State.emit_md (s : State) (o : Out) : (s.emit o).md = s.md := rfl
@[simp] theorem State.emit_hostAcc (s : State) (o : Out) : (s.emit o).hostAcc = s.hostAcc := rfl
@[simp] theorem State.emit_srcLast (s : State) (o : Out) : (s.emit o).srcLast = s.srcLast := rfl
@[simp] theorem State.emit_srcSeq (s : State) (o : Out) : (s.emit o).srcSeq = s.srcSeq := rfl

/-! ### modClk -/

@[simp] theorem State.modClk_pending (s : State) (f : Clock → Clock) : (s.modClk f).pending = s.pending := rfl
@[simp] theorem State.modClk_free (s : State) (f : Clock → Clock) : (s.modClk f).free = s.free := rfl
@[simp] theorem State.modClk_serial (s : State) (f : Clock → Clock) : (s.modClk f).serial = s.serial := rfl
@[simp] theorem State.modClk_chip (s : State) (f : Clock → Clock) : (s.modClk f).chip = s.chip := rfl
@[simp] theorem State.modClk_stalls (s : State) (f : Clock → Clock) : (s.modClk f).stalls = s.stalls := rfl
@[simp] theorem State.modClk_tokens (s : State) (f : Clock → Clock) : (s.modClk f).tokens = s.tokens := rfl
@[simp] theorem State.modClk_tokReqs (s : State) (f : Clock → Clock) : (s.modClk f).tokReqs = s.tokReqs := rfl
@[simp] theorem State.modClk_bays (s : State) (f : Clock → Clock) : (s.modClk f).bays = s.bays := rfl
@[simp] theorem State.modClk_rewrites (s : State) (f : Clock → Clock) : (s.modClk f).rewrites = s.rewrites := rfl
@[simp] theorem State.modClk_mem (s : State) (f : Clock → Clock) : (s.modClk f).mem = s.mem := rfl
@[simp] theorem State.modClk_regs (s : State) (f : Clock → Clock) : (s.modClk f).regs = s.regs := rfl
@[simp] theorem State.modClk_fe (s : State) (f : Clock → Clock) : (s.modClk f).fe = s.fe := rfl
@[simp] theorem State.modClk_dbk (s : State) (f : Clock → Clock) : (s.modClk f).dbk = s.dbk := rfl
@[simp] theorem State.modClk_flt (s : State) (f : Clock → Clock) : (s.modClk f).flt = s.flt := rfl
@[simp] theorem State.modClk_rcl (s : State) (f : Clock → Clock) : (s.modClk f).rcl = s.rcl := rfl
@[simp] theorem State.modClk_msi (s : State) (f : Clock → Clock) : (s.modClk f).msi = s.msi := rfl
@[simp] theorem State.modClk_net (s : State) (f : Clock → Clock) : (s.modClk f).net = s.net := rfl
@[simp] theorem State.modClk_health (s : State) (f : Clock → Clock) : (s.modClk f).health = s.health := rfl
@[simp] theorem State.modClk_crst (s : State) (f : Clock → Clock) : (s.modClk f).crst = s.crst := rfl
@[simp] theorem State.modClk_watch (s : State) (f : Clock → Clock) : (s.modClk f).watch = s.watch := rfl
@[simp] theorem State.modClk_pair (s : State) (f : Clock → Clock) : (s.modClk f).pair = s.pair := rfl
@[simp] theorem State.modClk_sec (s : State) (f : Clock → Clock) : (s.modClk f).sec = s.sec := rfl
@[simp] theorem State.modClk_fw (s : State) (f : Clock → Clock) : (s.modClk f).fw = s.fw := rfl
@[simp] theorem State.modClk_pw (s : State) (f : Clock → Clock) : (s.modClk f).pw = s.pw := rfl
@[simp] theorem State.modClk_md (s : State) (f : Clock → Clock) : (s.modClk f).md = s.md := rfl
@[simp] theorem State.modClk_hostAcc (s : State) (f : Clock → Clock) : (s.modClk f).hostAcc = s.hostAcc := rfl
@[simp] theorem State.modClk_srcLast (s : State) (f : Clock → Clock) : (s.modClk f).srcLast = s.srcLast := rfl
@[simp] theorem State.modClk_srcSeq (s : State) (f : Clock → Clock) : (s.modClk f).srcSeq = s.srcSeq := rfl
@[simp] theorem State.modClk_out (s : State) (f : Clock → Clock) : (s.modClk f).out = s.out := rfl

/-! ### modNet -/

@[simp] theorem State.modNet_pending (s : State) (f : Net → Net) : (s.modNet f).pending = s.pending := rfl
@[simp] theorem State.modNet_free (s : State) (f : Net → Net) : (s.modNet f).free = s.free := rfl
@[simp] theorem State.modNet_serial (s : State) (f : Net → Net) : (s.modNet f).serial = s.serial := rfl
@[simp] theorem State.modNet_chip (s : State) (f : Net → Net) : (s.modNet f).chip = s.chip := rfl
@[simp] theorem State.modNet_stalls (s : State) (f : Net → Net) : (s.modNet f).stalls = s.stalls := rfl
@[simp] theorem State.modNet_tokens (s : State) (f : Net → Net) : (s.modNet f).tokens = s.tokens := rfl
@[simp] theorem State.modNet_tokReqs (s : State) (f : Net → Net) : (s.modNet f).tokReqs = s.tokReqs := rfl
@[simp] theorem State.modNet_bays (s : State) (f : Net → Net) : (s.modNet f).bays = s.bays := rfl
@[simp] theorem State.modNet_rewrites (s : State) (f : Net → Net) : (s.modNet f).rewrites = s.rewrites := rfl
@[simp] theorem State.modNet_mem (s : State) (f : Net → Net) : (s.modNet f).mem = s.mem := rfl
@[simp] theorem State.modNet_regs (s : State) (f : Net → Net) : (s.modNet f).regs = s.regs := rfl
@[simp] theorem State.modNet_fe (s : State) (f : Net → Net) : (s.modNet f).fe = s.fe := rfl
@[simp] theorem State.modNet_dbk (s : State) (f : Net → Net) : (s.modNet f).dbk = s.dbk := rfl
@[simp] theorem State.modNet_flt (s : State) (f : Net → Net) : (s.modNet f).flt = s.flt := rfl
@[simp] theorem State.modNet_rcl (s : State) (f : Net → Net) : (s.modNet f).rcl = s.rcl := rfl
@[simp] theorem State.modNet_msi (s : State) (f : Net → Net) : (s.modNet f).msi = s.msi := rfl
@[simp] theorem State.modNet_clk (s : State) (f : Net → Net) : (s.modNet f).clk = s.clk := rfl
@[simp] theorem State.modNet_health (s : State) (f : Net → Net) : (s.modNet f).health = s.health := rfl
@[simp] theorem State.modNet_crst (s : State) (f : Net → Net) : (s.modNet f).crst = s.crst := rfl
@[simp] theorem State.modNet_watch (s : State) (f : Net → Net) : (s.modNet f).watch = s.watch := rfl
@[simp] theorem State.modNet_pair (s : State) (f : Net → Net) : (s.modNet f).pair = s.pair := rfl
@[simp] theorem State.modNet_sec (s : State) (f : Net → Net) : (s.modNet f).sec = s.sec := rfl
@[simp] theorem State.modNet_fw (s : State) (f : Net → Net) : (s.modNet f).fw = s.fw := rfl
@[simp] theorem State.modNet_pw (s : State) (f : Net → Net) : (s.modNet f).pw = s.pw := rfl
@[simp] theorem State.modNet_md (s : State) (f : Net → Net) : (s.modNet f).md = s.md := rfl
@[simp] theorem State.modNet_hostAcc (s : State) (f : Net → Net) : (s.modNet f).hostAcc = s.hostAcc := rfl
@[simp] theorem State.modNet_srcLast (s : State) (f : Net → Net) : (s.modNet f).srcLast = s.srcLast := rfl
@[simp] theorem State.modNet_srcSeq (s : State) (f : Net → Net) : (s.modNet f).srcSeq = s.srcSeq := rfl
@[simp] theorem State.modNet_out (s : State) (f : Net → Net) : (s.modNet f).out = s.out := rfl

/-! ### modSec -/

@[simp] theorem State.modSec_pending (s : State) (f : Security → Security) : (s.modSec f).pending = s.pending := rfl
@[simp] theorem State.modSec_free (s : State) (f : Security → Security) : (s.modSec f).free = s.free := rfl
@[simp] theorem State.modSec_serial (s : State) (f : Security → Security) : (s.modSec f).serial = s.serial := rfl
@[simp] theorem State.modSec_chip (s : State) (f : Security → Security) : (s.modSec f).chip = s.chip := rfl
@[simp] theorem State.modSec_stalls (s : State) (f : Security → Security) : (s.modSec f).stalls = s.stalls := rfl
@[simp] theorem State.modSec_tokens (s : State) (f : Security → Security) : (s.modSec f).tokens = s.tokens := rfl
@[simp] theorem State.modSec_tokReqs (s : State) (f : Security → Security) : (s.modSec f).tokReqs = s.tokReqs := rfl
@[simp] theorem State.modSec_bays (s : State) (f : Security → Security) : (s.modSec f).bays = s.bays := rfl
@[simp] theorem State.modSec_rewrites (s : State) (f : Security → Security) : (s.modSec f).rewrites = s.rewrites := rfl
@[simp] theorem State.modSec_mem (s : State) (f : Security → Security) : (s.modSec f).mem = s.mem := rfl
@[simp] theorem State.modSec_regs (s : State) (f : Security → Security) : (s.modSec f).regs = s.regs := rfl
@[simp] theorem State.modSec_fe (s : State) (f : Security → Security) : (s.modSec f).fe = s.fe := rfl
@[simp] theorem State.modSec_dbk (s : State) (f : Security → Security) : (s.modSec f).dbk = s.dbk := rfl
@[simp] theorem State.modSec_flt (s : State) (f : Security → Security) : (s.modSec f).flt = s.flt := rfl
@[simp] theorem State.modSec_rcl (s : State) (f : Security → Security) : (s.modSec f).rcl = s.rcl := rfl
@[simp] theorem State.modSec_msi (s : State) (f : Security → Security) : (s.modSec f).msi = s.msi := rfl
@[simp] theorem State.modSec_clk (s : State) (f : Security → Security) : (s.modSec f).clk = s.clk := rfl
@[simp] theorem State.modSec_net (s : State) (f : Security → Security) : (s.modSec f).net = s.net := rfl
@[simp] theorem State.modSec_health (s : State) (f : Security → Security) : (s.modSec f).health = s.health := rfl
@[simp] theorem State.modSec_crst (s : State) (f : Security → Security) : (s.modSec f).crst = s.crst := rfl
@[simp] theorem State.modSec_watch (s : State) (f : Security → Security) : (s.modSec f).watch = s.watch := rfl
@[simp] theorem State.modSec_pair (s : State) (f : Security → Security) : (s.modSec f).pair = s.pair := rfl
@[simp] theorem State.modSec_fw (s : State) (f : Security → Security) : (s.modSec f).fw = s.fw := rfl
@[simp] theorem State.modSec_pw (s : State) (f : Security → Security) : (s.modSec f).pw = s.pw := rfl
@[simp] theorem State.modSec_md (s : State) (f : Security → Security) : (s.modSec f).md = s.md := rfl
@[simp] theorem State.modSec_hostAcc (s : State) (f : Security → Security) : (s.modSec f).hostAcc = s.hostAcc := rfl
@[simp] theorem State.modSec_srcLast (s : State) (f : Security → Security) : (s.modSec f).srcLast = s.srcLast := rfl
@[simp] theorem State.modSec_srcSeq (s : State) (f : Security → Security) : (s.modSec f).srcSeq = s.srcSeq := rfl
@[simp] theorem State.modSec_out (s : State) (f : Security → Security) : (s.modSec f).out = s.out := rfl

/-! ### modFw -/

@[simp] theorem State.modFw_pending (s : State) (f : Firmware → Firmware) : (s.modFw f).pending = s.pending := rfl
@[simp] theorem State.modFw_free (s : State) (f : Firmware → Firmware) : (s.modFw f).free = s.free := rfl
@[simp] theorem State.modFw_serial (s : State) (f : Firmware → Firmware) : (s.modFw f).serial = s.serial := rfl
@[simp] theorem State.modFw_chip (s : State) (f : Firmware → Firmware) : (s.modFw f).chip = s.chip := rfl
@[simp] theorem State.modFw_stalls (s : State) (f : Firmware → Firmware) : (s.modFw f).stalls = s.stalls := rfl
@[simp] theorem State.modFw_tokens (s : State) (f : Firmware → Firmware) : (s.modFw f).tokens = s.tokens := rfl
@[simp] theorem State.modFw_tokReqs (s : State) (f : Firmware → Firmware) : (s.modFw f).tokReqs = s.tokReqs := rfl
@[simp] theorem State.modFw_bays (s : State) (f : Firmware → Firmware) : (s.modFw f).bays = s.bays := rfl
@[simp] theorem State.modFw_rewrites (s : State) (f : Firmware → Firmware) : (s.modFw f).rewrites = s.rewrites := rfl
@[simp] theorem State.modFw_mem (s : State) (f : Firmware → Firmware) : (s.modFw f).mem = s.mem := rfl
@[simp] theorem State.modFw_regs (s : State) (f : Firmware → Firmware) : (s.modFw f).regs = s.regs := rfl
@[simp] theorem State.modFw_fe (s : State) (f : Firmware → Firmware) : (s.modFw f).fe = s.fe := rfl
@[simp] theorem State.modFw_dbk (s : State) (f : Firmware → Firmware) : (s.modFw f).dbk = s.dbk := rfl
@[simp] theorem State.modFw_flt (s : State) (f : Firmware → Firmware) : (s.modFw f).flt = s.flt := rfl
@[simp] theorem State.modFw_rcl (s : State) (f : Firmware → Firmware) : (s.modFw f).rcl = s.rcl := rfl
@[simp] theorem State.modFw_msi (s : State) (f : Firmware → Firmware) : (s.modFw f).msi = s.msi := rfl
@[simp] theorem State.modFw_clk (s : State) (f : Firmware → Firmware) : (s.modFw f).clk = s.clk := rfl
@[simp] theorem State.modFw_net (s : State) (f : Firmware → Firmware) : (s.modFw f).net = s.net := rfl
@[simp] theorem State.modFw_health (s : State) (f : Firmware → Firmware) : (s.modFw f).health = s.health := rfl
@[simp] theorem State.modFw_crst (s : State) (f : Firmware → Firmware) : (s.modFw f).crst = s.crst := rfl
@[simp] theorem State.modFw_watch (s : State) (f : Firmware → Firmware) : (s.modFw f).watch = s.watch := rfl
@[simp] theorem State.modFw_pair (s : State) (f : Firmware → Firmware) : (s.modFw f).pair = s.pair := rfl
@[simp] theorem State.modFw_sec (s : State) (f : Firmware → Firmware) : (s.modFw f).sec = s.sec := rfl
@[simp] theorem State.modFw_pw (s : State) (f : Firmware → Firmware) : (s.modFw f).pw = s.pw := rfl
@[simp] theorem State.modFw_md (s : State) (f : Firmware → Firmware) : (s.modFw f).md = s.md := rfl
@[simp] theorem State.modFw_hostAcc (s : State) (f : Firmware → Firmware) : (s.modFw f).hostAcc = s.hostAcc := rfl
@[simp] theorem State.modFw_srcLast (s : State) (f : Firmware → Firmware) : (s.modFw f).srcLast = s.srcLast := rfl
@[simp] theorem State.modFw_srcSeq (s : State) (f : Firmware → Firmware) : (s.modFw f).srcSeq = s.srcSeq := rfl
@[simp] theorem State.modFw_out (s : State) (f : Firmware → Firmware) : (s.modFw f).out = s.out := rfl

/-! ### modCrst -/

@[simp] theorem State.modCrst_pending (s : State) (f : Crst → Crst) : (s.modCrst f).pending = s.pending := rfl
@[simp] theorem State.modCrst_free (s : State) (f : Crst → Crst) : (s.modCrst f).free = s.free := rfl
@[simp] theorem State.modCrst_serial (s : State) (f : Crst → Crst) : (s.modCrst f).serial = s.serial := rfl
@[simp] theorem State.modCrst_chip (s : State) (f : Crst → Crst) : (s.modCrst f).chip = s.chip := rfl
@[simp] theorem State.modCrst_stalls (s : State) (f : Crst → Crst) : (s.modCrst f).stalls = s.stalls := rfl
@[simp] theorem State.modCrst_tokens (s : State) (f : Crst → Crst) : (s.modCrst f).tokens = s.tokens := rfl
@[simp] theorem State.modCrst_tokReqs (s : State) (f : Crst → Crst) : (s.modCrst f).tokReqs = s.tokReqs := rfl
@[simp] theorem State.modCrst_bays (s : State) (f : Crst → Crst) : (s.modCrst f).bays = s.bays := rfl
@[simp] theorem State.modCrst_rewrites (s : State) (f : Crst → Crst) : (s.modCrst f).rewrites = s.rewrites := rfl
@[simp] theorem State.modCrst_mem (s : State) (f : Crst → Crst) : (s.modCrst f).mem = s.mem := rfl
@[simp] theorem State.modCrst_regs (s : State) (f : Crst → Crst) : (s.modCrst f).regs = s.regs := rfl
@[simp] theorem State.modCrst_fe (s : State) (f : Crst → Crst) : (s.modCrst f).fe = s.fe := rfl
@[simp] theorem State.modCrst_dbk (s : State) (f : Crst → Crst) : (s.modCrst f).dbk = s.dbk := rfl
@[simp] theorem State.modCrst_flt (s : State) (f : Crst → Crst) : (s.modCrst f).flt = s.flt := rfl
@[simp] theorem State.modCrst_rcl (s : State) (f : Crst → Crst) : (s.modCrst f).rcl = s.rcl := rfl
@[simp] theorem State.modCrst_msi (s : State) (f : Crst → Crst) : (s.modCrst f).msi = s.msi := rfl
@[simp] theorem State.modCrst_clk (s : State) (f : Crst → Crst) : (s.modCrst f).clk = s.clk := rfl
@[simp] theorem State.modCrst_net (s : State) (f : Crst → Crst) : (s.modCrst f).net = s.net := rfl
@[simp] theorem State.modCrst_health (s : State) (f : Crst → Crst) : (s.modCrst f).health = s.health := rfl
@[simp] theorem State.modCrst_watch (s : State) (f : Crst → Crst) : (s.modCrst f).watch = s.watch := rfl
@[simp] theorem State.modCrst_pair (s : State) (f : Crst → Crst) : (s.modCrst f).pair = s.pair := rfl
@[simp] theorem State.modCrst_sec (s : State) (f : Crst → Crst) : (s.modCrst f).sec = s.sec := rfl
@[simp] theorem State.modCrst_fw (s : State) (f : Crst → Crst) : (s.modCrst f).fw = s.fw := rfl
@[simp] theorem State.modCrst_pw (s : State) (f : Crst → Crst) : (s.modCrst f).pw = s.pw := rfl
@[simp] theorem State.modCrst_md (s : State) (f : Crst → Crst) : (s.modCrst f).md = s.md := rfl
@[simp] theorem State.modCrst_hostAcc (s : State) (f : Crst → Crst) : (s.modCrst f).hostAcc = s.hostAcc := rfl
@[simp] theorem State.modCrst_srcLast (s : State) (f : Crst → Crst) : (s.modCrst f).srcLast = s.srcLast := rfl
@[simp] theorem State.modCrst_srcSeq (s : State) (f : Crst → Crst) : (s.modCrst f).srcSeq = s.srcSeq := rfl
@[simp] theorem State.modCrst_out (s : State) (f : Crst → Crst) : (s.modCrst f).out = s.out := rfl

/-! ### modPair -/

@[simp] theorem State.modPair_pending (s : State) (f : Pair → Pair) : (s.modPair f).pending = s.pending := rfl
@[simp] theorem State.modPair_free (s : State) (f : Pair → Pair) : (s.modPair f).free = s.free := rfl
@[simp] theorem State.modPair_serial (s : State) (f : Pair → Pair) : (s.modPair f).serial = s.serial := rfl
@[simp] theorem State.modPair_chip (s : State) (f : Pair → Pair) : (s.modPair f).chip = s.chip := rfl
@[simp] theorem State.modPair_stalls (s : State) (f : Pair → Pair) : (s.modPair f).stalls = s.stalls := rfl
@[simp] theorem State.modPair_tokens (s : State) (f : Pair → Pair) : (s.modPair f).tokens = s.tokens := rfl
@[simp] theorem State.modPair_tokReqs (s : State) (f : Pair → Pair) : (s.modPair f).tokReqs = s.tokReqs := rfl
@[simp] theorem State.modPair_bays (s : State) (f : Pair → Pair) : (s.modPair f).bays = s.bays := rfl
@[simp] theorem State.modPair_rewrites (s : State) (f : Pair → Pair) : (s.modPair f).rewrites = s.rewrites := rfl
@[simp] theorem State.modPair_mem (s : State) (f : Pair → Pair) : (s.modPair f).mem = s.mem := rfl
@[simp] theorem State.modPair_regs (s : State) (f : Pair → Pair) : (s.modPair f).regs = s.regs := rfl
@[simp] theorem State.modPair_fe (s : State) (f : Pair → Pair) : (s.modPair f).fe = s.fe := rfl
@[simp] theorem State.modPair_dbk (s : State) (f : Pair → Pair) : (s.modPair f).dbk = s.dbk := rfl
@[simp] theorem State.modPair_flt (s : State) (f : Pair → Pair) : (s.modPair f).flt = s.flt := rfl
@[simp] theorem State.modPair_rcl (s : State) (f : Pair → Pair) : (s.modPair f).rcl = s.rcl := rfl
@[simp] theorem State.modPair_msi (s : State) (f : Pair → Pair) : (s.modPair f).msi = s.msi := rfl
@[simp] theorem State.modPair_clk (s : State) (f : Pair → Pair) : (s.modPair f).clk = s.clk := rfl
@[simp] theorem State.modPair_net (s : State) (f : Pair → Pair) : (s.modPair f).net = s.net := rfl
@[simp] theorem State.modPair_health (s : State) (f : Pair → Pair) : (s.modPair f).health = s.health := rfl
@[simp] theorem State.modPair_crst (s : State) (f : Pair → Pair) : (s.modPair f).crst = s.crst := rfl
@[simp] theorem State.modPair_watch (s : State) (f : Pair → Pair) : (s.modPair f).watch = s.watch := rfl
@[simp] theorem State.modPair_sec (s : State) (f : Pair → Pair) : (s.modPair f).sec = s.sec := rfl
@[simp] theorem State.modPair_fw (s : State) (f : Pair → Pair) : (s.modPair f).fw = s.fw := rfl
@[simp] theorem State.modPair_pw (s : State) (f : Pair → Pair) : (s.modPair f).pw = s.pw := rfl
@[simp] theorem State.modPair_md (s : State) (f : Pair → Pair) : (s.modPair f).md = s.md := rfl
@[simp] theorem State.modPair_hostAcc (s : State) (f : Pair → Pair) : (s.modPair f).hostAcc = s.hostAcc := rfl
@[simp] theorem State.modPair_srcLast (s : State) (f : Pair → Pair) : (s.modPair f).srcLast = s.srcLast := rfl
@[simp] theorem State.modPair_srcSeq (s : State) (f : Pair → Pair) : (s.modPair f).srcSeq = s.srcSeq := rfl
@[simp] theorem State.modPair_out (s : State) (f : Pair → Pair) : (s.modPair f).out = s.out := rfl

/-! ### modMd -/

@[simp] theorem State.modMd_pending (s : State) (f : Module → Module) : (s.modMd f).pending = s.pending := rfl
@[simp] theorem State.modMd_free (s : State) (f : Module → Module) : (s.modMd f).free = s.free := rfl
@[simp] theorem State.modMd_serial (s : State) (f : Module → Module) : (s.modMd f).serial = s.serial := rfl
@[simp] theorem State.modMd_chip (s : State) (f : Module → Module) : (s.modMd f).chip = s.chip := rfl
@[simp] theorem State.modMd_stalls (s : State) (f : Module → Module) : (s.modMd f).stalls = s.stalls := rfl
@[simp] theorem State.modMd_tokens (s : State) (f : Module → Module) : (s.modMd f).tokens = s.tokens := rfl
@[simp] theorem State.modMd_tokReqs (s : State) (f : Module → Module) : (s.modMd f).tokReqs = s.tokReqs := rfl
@[simp] theorem State.modMd_bays (s : State) (f : Module → Module) : (s.modMd f).bays = s.bays := rfl
@[simp] theorem State.modMd_rewrites (s : State) (f : Module → Module) : (s.modMd f).rewrites = s.rewrites := rfl
@[simp] theorem State.modMd_mem (s : State) (f : Module → Module) : (s.modMd f).mem = s.mem := rfl
@[simp] theorem State.modMd_regs (s : State) (f : Module → Module) : (s.modMd f).regs = s.regs := rfl
@[simp] theorem State.modMd_fe (s : State) (f : Module → Module) : (s.modMd f).fe = s.fe := rfl
@[simp] theorem State.modMd_dbk (s : State) (f : Module → Module) : (s.modMd f).dbk = s.dbk := rfl
@[simp] theorem State.modMd_flt (s : State) (f : Module → Module) : (s.modMd f).flt = s.flt := rfl
@[simp] theorem State.modMd_rcl (s : State) (f : Module → Module) : (s.modMd f).rcl = s.rcl := rfl
@[simp] theorem State.modMd_msi (s : State) (f : Module → Module) : (s.modMd f).msi = s.msi := rfl
@[simp] theorem State.modMd_clk (s : State) (f : Module → Module) : (s.modMd f).clk = s.clk := rfl
@[simp] theorem State.modMd_net (s : State) (f : Module → Module) : (s.modMd f).net = s.net := rfl
@[simp] theorem State.modMd_health (s : State) (f : Module → Module) : (s.modMd f).health = s.health := rfl
@[simp] theorem State.modMd_crst (s : State) (f : Module → Module) : (s.modMd f).crst = s.crst := rfl
@[simp] theorem State.modMd_watch (s : State) (f : Module → Module) : (s.modMd f).watch = s.watch := rfl
@[simp] theorem State.modMd_pair (s : State) (f : Module → Module) : (s.modMd f).pair = s.pair := rfl
@[simp] theorem State.modMd_sec (s : State) (f : Module → Module) : (s.modMd f).sec = s.sec := rfl
@[simp] theorem State.modMd_fw (s : State) (f : Module → Module) : (s.modMd f).fw = s.fw := rfl
@[simp] theorem State.modMd_pw (s : State) (f : Module → Module) : (s.modMd f).pw = s.pw := rfl
@[simp] theorem State.modMd_hostAcc (s : State) (f : Module → Module) : (s.modMd f).hostAcc = s.hostAcc := rfl
@[simp] theorem State.modMd_srcLast (s : State) (f : Module → Module) : (s.modMd f).srcLast = s.srcLast := rfl
@[simp] theorem State.modMd_srcSeq (s : State) (f : Module → Module) : (s.modMd f).srcSeq = s.srcSeq := rfl
@[simp] theorem State.modMd_out (s : State) (f : Module → Module) : (s.modMd f).out = s.out := rfl

/-! ### modRegion -/

@[simp] theorem State.modRegion_pending (s : State) (n : Nat) (f : CsRegion → CsRegion) : (s.modRegion n f).pending = s.pending := rfl
@[simp] theorem State.modRegion_free (s : State) (n : Nat) (f : CsRegion → CsRegion) : (s.modRegion n f).free = s.free := rfl
@[simp] theorem State.modRegion_serial (s : State) (n : Nat) (f : CsRegion → CsRegion) : (s.modRegion n f).serial = s.serial := rfl
@[simp] theorem State.modRegion_chip (s : State) (n : Nat) (f : CsRegion → CsRegion) : (s.modRegion n f).chip = s.chip := rfl
@[simp] theorem State.modRegion_stalls (s : State) (n : Nat) (f : CsRegion → CsRegion) : (s.modRegion n f).stalls = s.stalls := rfl
@[simp] theorem State.modRegion_tokens (s : State) (n : Nat) (f : CsRegion → CsRegion) : (s.modRegion n f).tokens = s.tokens := rfl
@[simp] theorem State.modRegion_tokReqs (s : State) (n : Nat) (f : CsRegion → CsRegion) : (s.modRegion n f).tokReqs = s.tokReqs := rfl
@[simp] theorem State.modRegion_bays (s : State) (n : Nat) (f : CsRegion → CsRegion) : (s.modRegion n f).bays = s.bays := rfl
@[simp] theorem State.modRegion_rewrites (s : State) (n : Nat) (f : CsRegion → CsRegion) : (s.modRegion n f).rewrites = s.rewrites := rfl
@[simp] theorem State.modRegion_regs (s : State) (n : Nat) (f : CsRegion → CsRegion) : (s.modRegion n f).regs = s.regs := rfl
@[simp] theorem State.modRegion_fe (s : State) (n : Nat) (f : CsRegion → CsRegion) : (s.modRegion n f).fe = s.fe := rfl
@[simp] theorem State.modRegion_dbk (s : State) (n : Nat) (f : CsRegion → CsRegion) : (s.modRegion n f).dbk = s.dbk := rfl
@[simp] theorem State.modRegion_flt (s : State) (n : Nat) (f : CsRegion → CsRegion) : (s.modRegion n f).flt = s.flt := rfl
@[simp] theorem State.modRegion_rcl (s : State) (n : Nat) (f : CsRegion → CsRegion) : (s.modRegion n f).rcl = s.rcl := rfl
@[simp] theorem State.modRegion_msi (s : State) (n : Nat) (f : CsRegion → CsRegion) : (s.modRegion n f).msi = s.msi := rfl
@[simp] theorem State.modRegion_clk (s : State) (n : Nat) (f : CsRegion → CsRegion) : (s.modRegion n f).clk = s.clk := rfl
@[simp] theorem State.modRegion_net (s : State) (n : Nat) (f : CsRegion → CsRegion) : (s.modRegion n f).net = s.net := rfl
@[simp] theorem State.modRegion_health (s : State) (n : Nat) (f : CsRegion → CsRegion) : (s.modRegion n f).health = s.health := rfl
@[simp] theorem State.modRegion_crst (s : State) (n : Nat) (f : CsRegion → CsRegion) : (s.modRegion n f).crst = s.crst := rfl
@[simp] theorem State.modRegion_watch (s : State) (n : Nat) (f : CsRegion → CsRegion) : (s.modRegion n f).watch = s.watch := rfl
@[simp] theorem State.modRegion_pair (s : State) (n : Nat) (f : CsRegion → CsRegion) : (s.modRegion n f).pair = s.pair := rfl
@[simp] theorem State.modRegion_sec (s : State) (n : Nat) (f : CsRegion → CsRegion) : (s.modRegion n f).sec = s.sec := rfl
@[simp] theorem State.modRegion_fw (s : State) (n : Nat) (f : CsRegion → CsRegion) : (s.modRegion n f).fw = s.fw := rfl
@[simp] theorem State.modRegion_pw (s : State) (n : Nat) (f : CsRegion → CsRegion) : (s.modRegion n f).pw = s.pw := rfl
@[simp] theorem State.modRegion_md (s : State) (n : Nat) (f : CsRegion → CsRegion) : (s.modRegion n f).md = s.md := rfl
@[simp] theorem State.modRegion_hostAcc (s : State) (n : Nat) (f : CsRegion → CsRegion) : (s.modRegion n f).hostAcc = s.hostAcc := rfl
@[simp] theorem State.modRegion_srcLast (s : State) (n : Nat) (f : CsRegion → CsRegion) : (s.modRegion n f).srcLast = s.srcLast := rfl
@[simp] theorem State.modRegion_srcSeq (s : State) (n : Nat) (f : CsRegion → CsRegion) : (s.modRegion n f).srcSeq = s.srcSeq := rfl
@[simp] theorem State.modRegion_out (s : State) (n : Nat) (f : CsRegion → CsRegion) : (s.modRegion n f).out = s.out := rfl

/-! ### modStack -/

@[simp] theorem State.modStack_pending (s : State) (k : Nat) (f : Stack → Stack) : (s.modStack k f).pending = s.pending := rfl
@[simp] theorem State.modStack_free (s : State) (k : Nat) (f : Stack → Stack) : (s.modStack k f).free = s.free := rfl
@[simp] theorem State.modStack_serial (s : State) (k : Nat) (f : Stack → Stack) : (s.modStack k f).serial = s.serial := rfl
@[simp] theorem State.modStack_chip (s : State) (k : Nat) (f : Stack → Stack) : (s.modStack k f).chip = s.chip := rfl
@[simp] theorem State.modStack_stalls (s : State) (k : Nat) (f : Stack → Stack) : (s.modStack k f).stalls = s.stalls := rfl
@[simp] theorem State.modStack_tokens (s : State) (k : Nat) (f : Stack → Stack) : (s.modStack k f).tokens = s.tokens := rfl
@[simp] theorem State.modStack_tokReqs (s : State) (k : Nat) (f : Stack → Stack) : (s.modStack k f).tokReqs = s.tokReqs := rfl
@[simp] theorem State.modStack_bays (s : State) (k : Nat) (f : Stack → Stack) : (s.modStack k f).bays = s.bays := rfl
@[simp] theorem State.modStack_rewrites (s : State) (k : Nat) (f : Stack → Stack) : (s.modStack k f).rewrites = s.rewrites := rfl
@[simp] theorem State.modStack_regs (s : State) (k : Nat) (f : Stack → Stack) : (s.modStack k f).regs = s.regs := rfl
@[simp] theorem State.modStack_fe (s : State) (k : Nat) (f : Stack → Stack) : (s.modStack k f).fe = s.fe := rfl
@[simp] theorem State.modStack_dbk (s : State) (k : Nat) (f : Stack → Stack) : (s.modStack k f).dbk = s.dbk := rfl
@[simp] theorem State.modStack_flt (s : State) (k : Nat) (f : Stack → Stack) : (s.modStack k f).flt = s.flt := rfl
@[simp] theorem State.modStack_rcl (s : State) (k : Nat) (f : Stack → Stack) : (s.modStack k f).rcl = s.rcl := rfl
@[simp] theorem State.modStack_msi (s : State) (k : Nat) (f : Stack → Stack) : (s.modStack k f).msi = s.msi := rfl
@[simp] theorem State.modStack_clk (s : State) (k : Nat) (f : Stack → Stack) : (s.modStack k f).clk = s.clk := rfl
@[simp] theorem State.modStack_net (s : State) (k : Nat) (f : Stack → Stack) : (s.modStack k f).net = s.net := rfl
@[simp] theorem State.modStack_health (s : State) (k : Nat) (f : Stack → Stack) : (s.modStack k f).health = s.health := rfl
@[simp] theorem State.modStack_crst (s : State) (k : Nat) (f : Stack → Stack) : (s.modStack k f).crst = s.crst := rfl
@[simp] theorem State.modStack_watch (s : State) (k : Nat) (f : Stack → Stack) : (s.modStack k f).watch = s.watch := rfl
@[simp] theorem State.modStack_pair (s : State) (k : Nat) (f : Stack → Stack) : (s.modStack k f).pair = s.pair := rfl
@[simp] theorem State.modStack_sec (s : State) (k : Nat) (f : Stack → Stack) : (s.modStack k f).sec = s.sec := rfl
@[simp] theorem State.modStack_fw (s : State) (k : Nat) (f : Stack → Stack) : (s.modStack k f).fw = s.fw := rfl
@[simp] theorem State.modStack_pw (s : State) (k : Nat) (f : Stack → Stack) : (s.modStack k f).pw = s.pw := rfl
@[simp] theorem State.modStack_md (s : State) (k : Nat) (f : Stack → Stack) : (s.modStack k f).md = s.md := rfl
@[simp] theorem State.modStack_hostAcc (s : State) (k : Nat) (f : Stack → Stack) : (s.modStack k f).hostAcc = s.hostAcc := rfl
@[simp] theorem State.modStack_srcLast (s : State) (k : Nat) (f : Stack → Stack) : (s.modStack k f).srcLast = s.srcLast := rfl
@[simp] theorem State.modStack_srcSeq (s : State) (k : Nat) (f : Stack → Stack) : (s.modStack k f).srcSeq = s.srcSeq := rfl
@[simp] theorem State.modStack_out (s : State) (k : Nat) (f : Stack → Stack) : (s.modStack k f).out = s.out := rfl

/-! ### setBook -/

@[simp] theorem State.setBook_pending (s : State) (b : Book) : (s.setBook b).pending = s.pending := rfl
@[simp] theorem State.setBook_free (s : State) (b : Book) : (s.setBook b).free = s.free := rfl
@[simp] theorem State.setBook_serial (s : State) (b : Book) : (s.setBook b).serial = s.serial := rfl
@[simp] theorem State.setBook_chip (s : State) (b : Book) : (s.setBook b).chip = s.chip := rfl
@[simp] theorem State.setBook_stalls (s : State) (b : Book) : (s.setBook b).stalls = s.stalls := rfl
@[simp] theorem State.setBook_tokens (s : State) (b : Book) : (s.setBook b).tokens = s.tokens := rfl
@[simp] theorem State.setBook_tokReqs (s : State) (b : Book) : (s.setBook b).tokReqs = s.tokReqs := rfl
@[simp] theorem State.setBook_bays (s : State) (b : Book) : (s.setBook b).bays = s.bays := rfl
@[simp] theorem State.setBook_rewrites (s : State) (b : Book) : (s.setBook b).rewrites = s.rewrites := rfl
@[simp] theorem State.setBook_mem (s : State) (b : Book) : (s.setBook b).mem = s.mem := rfl
@[simp] theorem State.setBook_regs (s : State) (b : Book) : (s.setBook b).regs = s.regs := rfl
@[simp] theorem State.setBook_fe (s : State) (b : Book) : (s.setBook b).fe = s.fe := rfl
@[simp] theorem State.setBook_dbk (s : State) (b : Book) : (s.setBook b).dbk = s.dbk := rfl
@[simp] theorem State.setBook_flt (s : State) (b : Book) : (s.setBook b).flt = s.flt := rfl
@[simp] theorem State.setBook_rcl (s : State) (b : Book) : (s.setBook b).rcl = s.rcl := rfl
@[simp] theorem State.setBook_msi (s : State) (b : Book) : (s.setBook b).msi = s.msi := rfl
@[simp] theorem State.setBook_clk (s : State) (b : Book) : (s.setBook b).clk = s.clk := rfl
@[simp] theorem State.setBook_net (s : State) (b : Book) : (s.setBook b).net = s.net := rfl
@[simp] theorem State.setBook_health (s : State) (b : Book) : (s.setBook b).health = s.health := rfl
@[simp] theorem State.setBook_crst (s : State) (b : Book) : (s.setBook b).crst = s.crst := rfl
@[simp] theorem State.setBook_watch (s : State) (b : Book) : (s.setBook b).watch = s.watch := rfl
@[simp] theorem State.setBook_pair (s : State) (b : Book) : (s.setBook b).pair = s.pair := rfl
@[simp] theorem State.setBook_fw (s : State) (b : Book) : (s.setBook b).fw = s.fw := rfl
@[simp] theorem State.setBook_pw (s : State) (b : Book) : (s.setBook b).pw = s.pw := rfl
@[simp] theorem State.setBook_md (s : State) (b : Book) : (s.setBook b).md = s.md := rfl
@[simp] theorem State.setBook_hostAcc (s : State) (b : Book) : (s.setBook b).hostAcc = s.hostAcc := rfl
@[simp] theorem State.setBook_srcLast (s : State) (b : Book) : (s.setBook b).srcLast = s.srcLast := rfl
@[simp] theorem State.setBook_srcSeq (s : State) (b : Book) : (s.setBook b).srcSeq = s.srcSeq := rfl
@[simp] theorem State.setBook_out (s : State) (b : Book) : (s.setBook b).out = s.out := rfl

/-! ### modLaunch -/

@[simp] theorem State.modLaunch_pending (s : State) (l : Nat) (f : Launch → Launch) : (s.modLaunch l f).pending = s.pending := by unfold State.modLaunch; split <;> rfl
@[simp] theorem State.modLaunch_free (s : State) (l : Nat) (f : Launch → Launch) : (s.modLaunch l f).free = s.free := by unfold State.modLaunch; split <;> rfl
@[simp] theorem State.modLaunch_serial (s : State) (l : Nat) (f : Launch → Launch) : (s.modLaunch l f).serial = s.serial := by unfold State.modLaunch; split <;> rfl
@[simp] theorem State.modLaunch_chip (s : State) (l : Nat) (f : Launch → Launch) : (s.modLaunch l f).chip = s.chip := by unfold State.modLaunch; split <;> rfl
@[simp] theorem State.modLaunch_stalls (s : State) (l : Nat) (f : Launch → Launch) : (s.modLaunch l f).stalls = s.stalls := by unfold State.modLaunch; split <;> rfl
@[simp] theorem State.modLaunch_tokens (s : State) (l : Nat) (f : Launch → Launch) : (s.modLaunch l f).tokens = s.tokens := by unfold State.modLaunch; split <;> rfl
@[simp] theorem State.modLaunch_tokReqs (s : State) (l : Nat) (f : Launch → Launch) : (s.modLaunch l f).tokReqs = s.tokReqs := by unfold State.modLaunch; split <;> rfl
@[simp] theorem State.modLaunch_bays (s : State) (l : Nat) (f : Launch → Launch) : (s.modLaunch l f).bays = s.bays := by unfold State.modLaunch; split <;> rfl
@[simp] theorem State.modLaunch_rewrites (s : State) (l : Nat) (f : Launch → Launch) : (s.modLaunch l f).rewrites = s.rewrites := by unfold State.modLaunch; split <;> rfl
@[simp] theorem State.modLaunch_mem (s : State) (l : Nat) (f : Launch → Launch) : (s.modLaunch l f).mem = s.mem := by unfold State.modLaunch; split <;> rfl
@[simp] theorem State.modLaunch_regs (s : State) (l : Nat) (f : Launch → Launch) : (s.modLaunch l f).regs = s.regs := by unfold State.modLaunch; split <;> rfl
@[simp] theorem State.modLaunch_dbk (s : State) (l : Nat) (f : Launch → Launch) : (s.modLaunch l f).dbk = s.dbk := by unfold State.modLaunch; split <;> rfl
@[simp] theorem State.modLaunch_flt (s : State) (l : Nat) (f : Launch → Launch) : (s.modLaunch l f).flt = s.flt := by unfold State.modLaunch; split <;> rfl
@[simp] theorem State.modLaunch_rcl (s : State) (l : Nat) (f : Launch → Launch) : (s.modLaunch l f).rcl = s.rcl := by unfold State.modLaunch; split <;> rfl
@[simp] theorem State.modLaunch_msi (s : State) (l : Nat) (f : Launch → Launch) : (s.modLaunch l f).msi = s.msi := by unfold State.modLaunch; split <;> rfl
@[simp] theorem State.modLaunch_clk (s : State) (l : Nat) (f : Launch → Launch) : (s.modLaunch l f).clk = s.clk := by unfold State.modLaunch; split <;> rfl
@[simp] theorem State.modLaunch_net (s : State) (l : Nat) (f : Launch → Launch) : (s.modLaunch l f).net = s.net := by unfold State.modLaunch; split <;> rfl
@[simp] theorem State.modLaunch_health (s : State) (l : Nat) (f : Launch → Launch) : (s.modLaunch l f).health = s.health := by unfold State.modLaunch; split <;> rfl
@[simp] theorem State.modLaunch_crst (s : State) (l : Nat) (f : Launch → Launch) : (s.modLaunch l f).crst = s.crst := by unfold State.modLaunch; split <;> rfl
@[simp] theorem State.modLaunch_watch (s : State) (l : Nat) (f : Launch → Launch) : (s.modLaunch l f).watch = s.watch := by unfold State.modLaunch; split <;> rfl
@[simp] theorem State.modLaunch_pair (s : State) (l : Nat) (f : Launch → Launch) : (s.modLaunch l f).pair = s.pair := by unfold State.modLaunch; split <;> rfl
@[simp] theorem State.modLaunch_sec (s : State) (l : Nat) (f : Launch → Launch) : (s.modLaunch l f).sec = s.sec := by unfold State.modLaunch; split <;> rfl
@[simp] theorem State.modLaunch_fw (s : State) (l : Nat) (f : Launch → Launch) : (s.modLaunch l f).fw = s.fw := by unfold State.modLaunch; split <;> rfl
@[simp] theorem State.modLaunch_pw (s : State) (l : Nat) (f : Launch → Launch) : (s.modLaunch l f).pw = s.pw := by unfold State.modLaunch; split <;> rfl
@[simp] theorem State.modLaunch_md (s : State) (l : Nat) (f : Launch → Launch) : (s.modLaunch l f).md = s.md := by unfold State.modLaunch; split <;> rfl
@[simp] theorem State.modLaunch_hostAcc (s : State) (l : Nat) (f : Launch → Launch) : (s.modLaunch l f).hostAcc = s.hostAcc := by unfold State.modLaunch; split <;> rfl
@[simp] theorem State.modLaunch_srcLast (s : State) (l : Nat) (f : Launch → Launch) : (s.modLaunch l f).srcLast = s.srcLast := by unfold State.modLaunch; split <;> rfl
@[simp] theorem State.modLaunch_srcSeq (s : State) (l : Nat) (f : Launch → Launch) : (s.modLaunch l f).srcSeq = s.srcSeq := by unfold State.modLaunch; split <;> rfl
@[simp] theorem State.modLaunch_out (s : State) (l : Nat) (f : Launch → Launch) : (s.modLaunch l f).out = s.out := by unfold State.modLaunch; split <;> rfl

/-! ### modQueue -/

@[simp] theorem State.modQueue_pending (s : State) (q : Nat) (f : Queue → Queue) : (s.modQueue q f).pending = s.pending := by unfold State.modQueue; split <;> rfl
@[simp] theorem State.modQueue_free (s : State) (q : Nat) (f : Queue → Queue) : (s.modQueue q f).free = s.free := by unfold State.modQueue; split <;> rfl
@[simp] theorem State.modQueue_serial (s : State) (q : Nat) (f : Queue → Queue) : (s.modQueue q f).serial = s.serial := by unfold State.modQueue; split <;> rfl
@[simp] theorem State.modQueue_chip (s : State) (q : Nat) (f : Queue → Queue) : (s.modQueue q f).chip = s.chip := by unfold State.modQueue; split <;> rfl
@[simp] theorem State.modQueue_stalls (s : State) (q : Nat) (f : Queue → Queue) : (s.modQueue q f).stalls = s.stalls := by unfold State.modQueue; split <;> rfl
@[simp] theorem State.modQueue_tokens (s : State) (q : Nat) (f : Queue → Queue) : (s.modQueue q f).tokens = s.tokens := by unfold State.modQueue; split <;> rfl
@[simp] theorem State.modQueue_tokReqs (s : State) (q : Nat) (f : Queue → Queue) : (s.modQueue q f).tokReqs = s.tokReqs := by unfold State.modQueue; split <;> rfl
@[simp] theorem State.modQueue_bays (s : State) (q : Nat) (f : Queue → Queue) : (s.modQueue q f).bays = s.bays := by unfold State.modQueue; split <;> rfl
@[simp] theorem State.modQueue_rewrites (s : State) (q : Nat) (f : Queue → Queue) : (s.modQueue q f).rewrites = s.rewrites := by unfold State.modQueue; split <;> rfl
@[simp] theorem State.modQueue_mem (s : State) (q : Nat) (f : Queue → Queue) : (s.modQueue q f).mem = s.mem := by unfold State.modQueue; split <;> rfl
@[simp] theorem State.modQueue_regs (s : State) (q : Nat) (f : Queue → Queue) : (s.modQueue q f).regs = s.regs := by unfold State.modQueue; split <;> rfl
@[simp] theorem State.modQueue_dbk (s : State) (q : Nat) (f : Queue → Queue) : (s.modQueue q f).dbk = s.dbk := by unfold State.modQueue; split <;> rfl
@[simp] theorem State.modQueue_flt (s : State) (q : Nat) (f : Queue → Queue) : (s.modQueue q f).flt = s.flt := by unfold State.modQueue; split <;> rfl
@[simp] theorem State.modQueue_rcl (s : State) (q : Nat) (f : Queue → Queue) : (s.modQueue q f).rcl = s.rcl := by unfold State.modQueue; split <;> rfl
@[simp] theorem State.modQueue_msi (s : State) (q : Nat) (f : Queue → Queue) : (s.modQueue q f).msi = s.msi := by unfold State.modQueue; split <;> rfl
@[simp] theorem State.modQueue_clk (s : State) (q : Nat) (f : Queue → Queue) : (s.modQueue q f).clk = s.clk := by unfold State.modQueue; split <;> rfl
@[simp] theorem State.modQueue_net (s : State) (q : Nat) (f : Queue → Queue) : (s.modQueue q f).net = s.net := by unfold State.modQueue; split <;> rfl
@[simp] theorem State.modQueue_health (s : State) (q : Nat) (f : Queue → Queue) : (s.modQueue q f).health = s.health := by unfold State.modQueue; split <;> rfl
@[simp] theorem State.modQueue_crst (s : State) (q : Nat) (f : Queue → Queue) : (s.modQueue q f).crst = s.crst := by unfold State.modQueue; split <;> rfl
@[simp] theorem State.modQueue_watch (s : State) (q : Nat) (f : Queue → Queue) : (s.modQueue q f).watch = s.watch := by unfold State.modQueue; split <;> rfl
@[simp] theorem State.modQueue_pair (s : State) (q : Nat) (f : Queue → Queue) : (s.modQueue q f).pair = s.pair := by unfold State.modQueue; split <;> rfl
@[simp] theorem State.modQueue_sec (s : State) (q : Nat) (f : Queue → Queue) : (s.modQueue q f).sec = s.sec := by unfold State.modQueue; split <;> rfl
@[simp] theorem State.modQueue_fw (s : State) (q : Nat) (f : Queue → Queue) : (s.modQueue q f).fw = s.fw := by unfold State.modQueue; split <;> rfl
@[simp] theorem State.modQueue_pw (s : State) (q : Nat) (f : Queue → Queue) : (s.modQueue q f).pw = s.pw := by unfold State.modQueue; split <;> rfl
@[simp] theorem State.modQueue_md (s : State) (q : Nat) (f : Queue → Queue) : (s.modQueue q f).md = s.md := by unfold State.modQueue; split <;> rfl
@[simp] theorem State.modQueue_hostAcc (s : State) (q : Nat) (f : Queue → Queue) : (s.modQueue q f).hostAcc = s.hostAcc := by unfold State.modQueue; split <;> rfl
@[simp] theorem State.modQueue_srcLast (s : State) (q : Nat) (f : Queue → Queue) : (s.modQueue q f).srcLast = s.srcLast := by unfold State.modQueue; split <;> rfl
@[simp] theorem State.modQueue_srcSeq (s : State) (q : Nat) (f : Queue → Queue) : (s.modQueue q f).srcSeq = s.srcSeq := by unfold State.modQueue; split <;> rfl
@[simp] theorem State.modQueue_out (s : State) (q : Nat) (f : Queue → Queue) : (s.modQueue q f).out = s.out := by unfold State.modQueue; split <;> rfl

/-! ### setRaw -/

@[simp] theorem State.setRaw_pending (s : State) (fn off v : Nat) : (s.setRaw fn off v).pending = s.pending := by unfold State.setRaw; split <;> rfl
@[simp] theorem State.setRaw_free (s : State) (fn off v : Nat) : (s.setRaw fn off v).free = s.free := by unfold State.setRaw; split <;> rfl
@[simp] theorem State.setRaw_serial (s : State) (fn off v : Nat) : (s.setRaw fn off v).serial = s.serial := by unfold State.setRaw; split <;> rfl
@[simp] theorem State.setRaw_chip (s : State) (fn off v : Nat) : (s.setRaw fn off v).chip = s.chip := by unfold State.setRaw; split <;> rfl
@[simp] theorem State.setRaw_stalls (s : State) (fn off v : Nat) : (s.setRaw fn off v).stalls = s.stalls := by unfold State.setRaw; split <;> rfl
@[simp] theorem State.setRaw_tokens (s : State) (fn off v : Nat) : (s.setRaw fn off v).tokens = s.tokens := by unfold State.setRaw; split <;> rfl
@[simp] theorem State.setRaw_tokReqs (s : State) (fn off v : Nat) : (s.setRaw fn off v).tokReqs = s.tokReqs := by unfold State.setRaw; split <;> rfl
@[simp] theorem State.setRaw_bays (s : State) (fn off v : Nat) : (s.setRaw fn off v).bays = s.bays := by unfold State.setRaw; split <;> rfl
@[simp] theorem State.setRaw_rewrites (s : State) (fn off v : Nat) : (s.setRaw fn off v).rewrites = s.rewrites := by unfold State.setRaw; split <;> rfl
@[simp] theorem State.setRaw_mem (s : State) (fn off v : Nat) : (s.setRaw fn off v).mem = s.mem := by unfold State.setRaw; split <;> rfl
@[simp] theorem State.setRaw_fe (s : State) (fn off v : Nat) : (s.setRaw fn off v).fe = s.fe := by unfold State.setRaw; split <;> rfl
@[simp] theorem State.setRaw_dbk (s : State) (fn off v : Nat) : (s.setRaw fn off v).dbk = s.dbk := by unfold State.setRaw; split <;> rfl
@[simp] theorem State.setRaw_flt (s : State) (fn off v : Nat) : (s.setRaw fn off v).flt = s.flt := by unfold State.setRaw; split <;> rfl
@[simp] theorem State.setRaw_rcl (s : State) (fn off v : Nat) : (s.setRaw fn off v).rcl = s.rcl := by unfold State.setRaw; split <;> rfl
@[simp] theorem State.setRaw_msi (s : State) (fn off v : Nat) : (s.setRaw fn off v).msi = s.msi := by unfold State.setRaw; split <;> rfl
@[simp] theorem State.setRaw_clk (s : State) (fn off v : Nat) : (s.setRaw fn off v).clk = s.clk := by unfold State.setRaw; split <;> rfl
@[simp] theorem State.setRaw_net (s : State) (fn off v : Nat) : (s.setRaw fn off v).net = s.net := by unfold State.setRaw; split <;> rfl
@[simp] theorem State.setRaw_health (s : State) (fn off v : Nat) : (s.setRaw fn off v).health = s.health := by unfold State.setRaw; split <;> rfl
@[simp] theorem State.setRaw_crst (s : State) (fn off v : Nat) : (s.setRaw fn off v).crst = s.crst := by unfold State.setRaw; split <;> rfl
@[simp] theorem State.setRaw_watch (s : State) (fn off v : Nat) : (s.setRaw fn off v).watch = s.watch := by unfold State.setRaw; split <;> rfl
@[simp] theorem State.setRaw_pair (s : State) (fn off v : Nat) : (s.setRaw fn off v).pair = s.pair := by unfold State.setRaw; split <;> rfl
@[simp] theorem State.setRaw_sec (s : State) (fn off v : Nat) : (s.setRaw fn off v).sec = s.sec := by unfold State.setRaw; split <;> rfl
@[simp] theorem State.setRaw_fw (s : State) (fn off v : Nat) : (s.setRaw fn off v).fw = s.fw := by unfold State.setRaw; split <;> rfl
@[simp] theorem State.setRaw_pw (s : State) (fn off v : Nat) : (s.setRaw fn off v).pw = s.pw := by unfold State.setRaw; split <;> rfl
@[simp] theorem State.setRaw_md (s : State) (fn off v : Nat) : (s.setRaw fn off v).md = s.md := by unfold State.setRaw; split <;> rfl
@[simp] theorem State.setRaw_hostAcc (s : State) (fn off v : Nat) : (s.setRaw fn off v).hostAcc = s.hostAcc := by unfold State.setRaw; split <;> rfl
@[simp] theorem State.setRaw_srcLast (s : State) (fn off v : Nat) : (s.setRaw fn off v).srcLast = s.srcLast := by unfold State.setRaw; split <;> rfl
@[simp] theorem State.setRaw_srcSeq (s : State) (fn off v : Nat) : (s.setRaw fn off v).srcSeq = s.srcSeq := by unfold State.setRaw; split <;> rfl
@[simp] theorem State.setRaw_out (s : State) (fn off v : Nat) : (s.setRaw fn off v).out = s.out := by unfold State.setRaw; split <;> rfl

/-! ### What an update changes -/

@[simp] theorem State.emit_out (s : State) (o : Out) : (s.emit o).out = s.out ++ [o] := rfl
@[simp] theorem State.tickSerial_serial (s : State) : s.tickSerial.serial = s.serial + 1 := rfl
@[simp] theorem State.afterAny_free (s : State) : s.afterAny.free = s.free + 1 := rfl
@[simp] theorem State.modFe_fe (s : State) (f : FrontEnd → FrontEnd) : (s.modFe f).fe = f s.fe := rfl
@[simp] theorem State.modClk_clk (s : State) (f : Clock → Clock) : (s.modClk f).clk = f s.clk := rfl
@[simp] theorem State.modNet_net (s : State) (f : Net → Net) : (s.modNet f).net = f s.net := rfl
@[simp] theorem State.modSec_sec (s : State) (f : Security → Security) : (s.modSec f).sec = f s.sec := rfl
@[simp] theorem State.modFw_fw (s : State) (f : Firmware → Firmware) : (s.modFw f).fw = f s.fw := rfl
@[simp] theorem State.modCrst_crst (s : State) (f : Crst → Crst) : (s.modCrst f).crst = f s.crst := rfl
@[simp] theorem State.modPair_pair (s : State) (f : Pair → Pair) : (s.modPair f).pair = f s.pair := rfl
@[simp] theorem State.modMd_md (s : State) (f : Module → Module) : (s.modMd f).md = f s.md := rfl

/-- A changed stall of the package. -/
theorem State.stall_modStall (s : State) (i : Nat) (h : i < 48) (f : Stall → Stall) : (s.modStall i f).stall i = f (s.stall i) := by
  simp [State.modStall, State.stall, h]

/-- Every other stall. -/
theorem State.stall_modStall_ne (s : State) {i j : Nat} (h : j ≠ i) (f : Stall → Stall) : (s.modStall i f).stall j = s.stall j := by
  simp only [State.modStall, State.stall]
  rw [Vector.getElem?_setIfInBounds]; simp [Ne.symm h]

/-- A changed pitch. -/
theorem State.pitch_modPitch (s : State) (p : Nat) (h : p < 24) (f : Pitch → Pitch) : (s.modPitch p f).pitch p = f (s.pitch p) := by
  simp [State.modPitch, State.pitch, h]

/-- Every other pitch. -/
theorem State.pitch_modPitch_ne (s : State) {p q : Nat} (h : q ≠ p) (f : Pitch → Pitch) : (s.modPitch p f).pitch q = s.pitch q := by
  simp only [State.modPitch, State.pitch]
  rw [Vector.getElem?_setIfInBounds]; simp [Ne.symm h]

end Sys2Proof.Machine
end

