-- ==== Sys2Proof/Laws/Programs.lean ====
section
/-! SUPPORT. Laws of what every instruction of a stall program shares: what `issue`, `tally`, `retire` and `retireV` can do, in the words of the
statements. -/

namespace Sys2Proof.Cert

open Sys2Proof.Machine

/-- Everything `issue` can do: nothing, a launch ended with BAD_PROGRAM, a step of the flow alone, or the instruction's own effect. -/
theorem issue_cases (s : State) (st cx op : Nat) (gn : Bool) (gp : Nat) (enc : Bool) (regs : List PendReg) (body : State) :
    s.issue st cx op gn gp enc regs body = s ∨ s.issue st cx op gn gp enc regs body = s.badProgram st cx op ∨
    (s.guard st cx gn gp = false ∧ s.issue st cx op gn gp enc regs body = s.retire st cx id) ∨
    (Executes s st cx gn gp enc regs ∧ s.issue st cx op gn gp enc regs body = body) := by
  unfold State.issue Executes
  cases s.atIssue st cx <;> cases s.inImage st cx <;> cases s.guard st cx gn gp <;> cases enc <;> cases (s.ctxOf st cx).waits regs <;> simp

/-- An instruction that executes has its own effect. -/
theorem issue_executes {s : State} {st cx op : Nat} {gn : Bool} {gp : Nat} {enc enc' : Bool} {regs : List PendReg} {body : State}
    (h : Executes s st cx gn gp enc regs) (he : enc = true → enc' = true) : s.issue st cx op gn gp enc' regs body = body := by
  obtain ⟨h1, h2, h3, h4, h5⟩ := h
  simp [State.issue, h1, h2, h3, he h4, h5]

/-- An instruction of a context that is not at issue has no effect. -/
theorem issue_not_at_issue {s : State} {st cx : Nat} (h : s.atIssue st cx = false) (op : Nat) (gn : Bool) (gp : Nat) (enc : Bool)
    (regs : List PendReg) (body : State) : s.issue st cx op gn gp enc regs body = s := by
  simp [State.issue, h]

/-- An instruction whose guard is false only runs on. -/
theorem issue_guarded {s : State} {st cx : Nat} {gn : Bool} {gp : Nat} (h : s.atIssue st cx = true) (hi : s.inImage st cx = true)
    (hg : s.guard st cx gn gp = false) (op : Nat) (enc : Bool) (regs : List PendReg) (body : State) :
    s.issue st cx op gn gp enc regs body = s.retire st cx id := by
  simp [State.issue, h, hi, hg]

/-- What counting an instruction changes on its stall, and what its context becomes. -/
theorem tally_kept (s : State) (st : StallId) (cx : CtxId) (f : Ctx → Ctx) :
    StallKept s (s.tally st cx f) st cx 0 ∧ (s.tally st cx f).ctxOf st cx = f (s.ctxOf st cx) := by
  refine ⟨⟨?_, ?_, ?_, ?_, ?_⟩, ?_⟩
  · intro i hi
    simp only [State.tally, State.modCtx]
    rw [State.stall_modStall_ne _ hi, State.stall_modStall_ne _ hi]
  · simp only [State.tally, State.modCtx]; rw [State.stall_modStall _ _ st.isLt, State.stall_modStall _ _ st.isLt]
  · simp only [State.tally, State.modCtx]; rw [State.stall_modStall _ _ st.isLt, State.stall_modStall _ _ st.isLt]
  · simp only [State.tally, State.modCtx]; rw [State.stall_modStall _ _ st.isLt, State.stall_modStall _ _ st.isLt]; simp
  · intro k hk
    simp only [State.tally, State.modCtx, State.ctxOf]; rw [State.stall_modStall _ _ st.isLt, State.stall_modStall _ _ st.isLt]
    simp only; rw [Vector.getElem?_setIfInBounds]; simp [Ne.symm hk]
  · simp only [State.tally, State.modCtx, State.ctxOf]; rw [State.stall_modStall _ _ st.isLt, State.stall_modStall _ _ st.isLt]
    simp

/-- An instruction that retires from a state whose stalls are those of `s` steps on. -/
theorem stepsOn_retire (s0 s : State) (st : StallId) (cx : CtxId) (f : Ctx → Ctx) (h : s0.stalls = s.stalls) :
    StepsOn s (s0.retire st cx f) st cx 0 (f (s.ctxOf st cx)) := by
  have := tally_kept s0 st cx (fun x => (f x).advance)
  have e : ∀ i, s0.stall i = s.stall i := by intro i; simp only [State.stall, h]
  have e2 : ∀ i k, s0.ctxOf i k = s.ctxOf i k := by intro i k; simp only [State.ctxOf, e]
  obtain ⟨⟨h1, h2, h3, h3', h4⟩, h5⟩ := this
  simp only [e, e2] at *
  exact ⟨⟨h1, h2, h3, h3', h4⟩, by rw [State.retire, h5]; rfl⟩

/-- … with cycles of the vector unit. -/
theorem stepsOn_retireV (s0 s : State) (st : StallId) (cx : CtxId) (n : Nat) (f : Ctx → Ctx) (h : s0.stalls = s.stalls) :
    StepsOn s (s0.retireV st cx n f) st cx n (f (s.ctxOf st cx)) := by
  obtain ⟨⟨h1, h2, h3, h3', h4⟩, h5⟩ := stepsOn_retire s0 s st cx f h
  unfold State.retireV
  refine ⟨⟨?_, ?_, ?_, ?_, ?_⟩, ?_⟩
  · intro i hi; rw [State.stall_modStall_ne _ hi]; exact h1 i hi
  · rw [State.stall_modStall _ _ st.isLt]; exact h2
  · rw [State.stall_modStall _ _ st.isLt]; exact h3
  · rw [State.stall_modStall _ _ st.isLt]; simp only; rw [h3']; simp
  · intro k hk; simp only [State.ctxOf]; rw [State.stall_modStall _ _ st.isLt]; exact h4 k hk
  · simp only [State.ctxOf]; rw [State.stall_modStall _ _ st.isLt]; exact h5

/-- A command whose outcome is a retirement has that whole effect. -/
theorem retires_of_retire (s : State) (st : StallId) (cx : CtxId) (c : Instr) (f : Ctx → Ctx)
    (h : exec c s = .next (s.retire st cx f)) : Retires s st cx 0 c (f (s.ctxOf st cx)) :=
  ⟨_, h, rfl, stepsOn_retire s s st cx f rfl⟩

/-- … with cycles of the vector unit. -/
theorem retires_of_retireV (s : State) (st : StallId) (cx : CtxId) (n) (c : Instr) (f : Ctx → Ctx)
    (h : exec c s = .next (s.retireV st cx n f)) : Retires s st cx n c (f (s.ctxOf st cx)) :=
  ⟨_, h, rfl, stepsOn_retireV s s st cx n f rfl⟩

/-- A command whose outcome is a jump has that whole effect. -/
theorem jumps_of_tally (s : State) (st : StallId) (cx : CtxId) (c : Instr) (f : Ctx → Ctx) (tg : W64)
    (h : exec c s = .next (s.tally st cx (fun x => (f x).jump tg))) : Jumps s st cx c (f (s.ctxOf st cx)) tg := by
  refine ⟨_, h, rfl, ?_⟩
  have := tally_kept s st cx (fun x => (f x).jump tg)
  exact ⟨this.1, by rw [this.2]; rfl⟩

/-- A general register written; g0 stays zero. -/
theorem withG_setG (c : Ctx) (d : Fin 32) (v : W64) : WithG c d v (c.setG d v) := by
  refine ⟨?_, ?_, ?_⟩
  · simp [Ctx.getG, Ctx.setG]; split <;> simp_all
  · intro r hr
    simp only [Ctx.getG, Ctx.setG]; split
    · rfl
    · split
      · rfl
      · simp only; rw [Vector.getElem?_setIfInBounds]; simp [Ne.symm hr]
  · unfold Ctx.setG; split <;> rfl

/-- A predicate written; p0 stays true. -/
theorem withP_setP (c : Ctx) (d : Nat) (hd : d < 8) (v : Bool) : WithP c d v (c.setP d v) := by
  refine ⟨?_, ?_, ?_⟩
  · simp [Ctx.getP, Ctx.setP]; split <;> simp_all
  · intro r hr
    simp only [Ctx.getP, Ctx.setP]; split
    · rfl
    · split
      · rfl
      · simp only; rw [Vector.getElem?_setIfInBounds]; simp [Ne.symm hr]
  · unfold Ctx.setP; split <;> rfl

/-- An address register written. -/
theorem withA_setA (c : Ctx) (d : Nat) (hd : d < 16) (v : W64) : WithA c d v (c.setA d v) := by
  refine ⟨?_, ?_, ?_⟩
  · simp [Ctx.getA, Ctx.setA, hd]
  · intro r hr
    simp only [Ctx.getA, Ctx.setA]; rw [Vector.getElem?_setIfInBounds]; simp [Ne.symm hr]
  · rfl

/-- A tensor-descriptor register written. -/
theorem withT_setT (c : Ctx) (d : Nat) (hd : d < 16) (v) : WithT c d v (c.setT d v) := by
  refine ⟨?_, ?_, ?_⟩
  · simp [Ctx.getT, Ctx.setT, hd]
  · intro r hr
    simp only [Ctx.getT, Ctx.setT]; rw [Vector.getElem?_setIfInBounds]; simp [Ne.symm hr]
  · rfl

/-- A vector register written. -/
theorem withV_setV (c : Ctx) (d : Nat) (hd : d < 16) (v) : WithV c d v (c.setV d v) := by
  refine ⟨?_, ?_, ?_⟩
  · simp [Ctx.getV, Ctx.setV, hd]
  · intro r hr
    simp only [Ctx.getV, Ctx.setV]; rw [Vector.getElem?_setIfInBounds]; simp [Ne.symm hr]
  · rfl

theorem putsT_of_retire (s : State) (st : StallId) (cx : CtxId) (c : Instr) (d : Nat) (hd : d < 16) (v)
    (h : exec c s = .next (s.retire st cx (fun x => x.setT d v))) : PutsT s st cx c d v :=
  ⟨_, withT_setT _ _ hd _, retires_of_retire s st cx c _ h⟩

theorem putsV_of_retireV (s : State) (st : StallId) (cx : CtxId) (n) (c : Instr) (d : Nat) (hd : d < 16) (v)
    (h : exec c s = .next (s.retireV st cx n (fun x => x.setV d v))) : PutsV s st cx n c d v :=
  ⟨_, withV_setV _ _ hd _, retires_of_retireV s st cx n c _ h⟩

theorem putsGV_of_retireV (s : State) (st : StallId) (cx : CtxId) (n) (c : Instr) (d : Fin 32) (v)
    (h : exec c s = .next (s.retireV st cx n (fun x => x.setG d v))) : PutsGV s st cx n c d v :=
  ⟨_, withG_setG _ _ _, retires_of_retireV s st cx n c _ h⟩

theorem putsG_of_retire (s : State) (st : StallId) (cx : CtxId) (c : Instr) (d : Fin 32) (v : W64)
    (h : exec c s = .next (s.retire st cx (fun x => x.setG d v))) : PutsG s st cx c d v :=
  ⟨_, withG_setG _ _ _, retires_of_retire s st cx c _ h⟩

theorem putsP_of_retire (s : State) (st : StallId) (cx : CtxId) (c : Instr) (d : Nat) (hd : d < 8) (v : Bool)
    (h : exec c s = .next (s.retire st cx (fun x => x.setP d v))) : PutsP s st cx c d v :=
  ⟨_, withP_setP _ _ hd _, retires_of_retire s st cx c _ h⟩

theorem putsA_of_retire (s : State) (st : StallId) (cx : CtxId) (c : Instr) (d : Nat) (hd : d < 16) (v : W64)
    (h : exec c s = .next (s.retire st cx (fun x => x.setA d v))) : PutsA s st cx c d v :=
  ⟨_, withA_setA _ _ hd _, retires_of_retire s st cx c _ h⟩

end Sys2Proof.Cert
end

