-- ==== Sys2Proof/Tests/Slice0.lean ====
section
/-! SUPPORT. The author's own tests: for each statement with hypotheses a state and operands that meet them clause by clause, ill-formed commands
that the checks refuse, and small results taken from the spec's tables. -/

namespace Sys2Proof.Tests

set_option Elab.async false

open Sys2Proof.Machine Sys2Proof.Cert

/-- A test of the state after a command. -/
def after (r : Res) (p : State → Bool) : Bool :=
  match r with
  | .next t => p t
  | _ => false

/-- Pitch 0 is RUNNING with memory unit 0 and stalls 0 and 1, and belongs to VF 1. Its first 2 MiB of addresses are mapped, written. -/
def base : State :=
  { State.reset with
    regs := [(regKey 0 (offXlat 0), 0x0001000000200000#64), (regKey 0 (offPcfg 0), 0x1000001#64)],
    mem := { Mem.reset with bytes := [(0x200000, 3)] },
    md := { Module.reset with numVfs := 24 },
    fe := { FrontEnd.reset with pitches := FrontEnd.reset.pitches.setIfInBounds 0 { Pitch.reset with state := .running } } }

/-- A launch of pitch 0 on stall 0, from SQ 7. -/
def run0 : Launch :=
  { pitch := 0, sq := 7, hseq := 5, mask := 1, prog := 0x1000, codeLen := 64, image := [], param := 0, seed := 9, rows := [some (0, 3071), none, none, none],
    csr := 0, strictOvf := false, shape := 0, splits := [(0, 0, 1)], running := [0], sweeping := [], start := 0, ended := none,
    tillSat := false, nonfinite := false, faulted := false, retained := false, progress := 0, digest := 0 }

/-- Launch 0 runs on stall 0, whose contexts, splits and channels are those of `x`. -/
def live (x : Stall) (toks : List Token) : State :=
  { base with fe := { base.fe with launches := [(0, run0)], nextLaunch := 1 }, tokens := toks, stalls := base.stalls.setIfInBounds 0 x }

/-- A stall whose context 0 is `c`. -/
def with0 (c : Ctx) : Stall := { Stall.reset with ctx := Stall.reset.ctx.setIfInBounds 0 c, pwr := .active }

/-- An instance that has started: g1 = 5, g2 = 3, a1 = 0x100, p1 true. -/
def c0 : Ctx :=
  { Ctx.reset with live := true, launch := 0, g := (Ctx.reset.g.setIfInBounds 1 5).setIfInBounds 2 3, a := Ctx.reset.a.setIfInBounds 1 0x100,
                   p := Ctx.reset.p.setIfInBounds 1 true }

/-- The state of the scalar tests. -/
def s0 : State := live (with0 c0) []

/-- A format-A instruction of registers and X, without a guard; and those of formats B and C. -/
def fa (d s1 s2 s3 : Fin 32) (x : BitVec 32) : FmtA := ⟨false, 0, d, s1, s2, s3, x⟩
def fb (d s1 : Fin 32) (i : BitVec 42) : FmtB := ⟨false, 0, d, s1, i⟩
def fc (s1 : Fin 32) (x : BitVec 15) (off : BitVec 32) : FmtC := ⟨false, 0, s1, x, off⟩

/-- Context 0 of stall 0 executes an instruction in a state. -/
abbrev Ready (s : State) (enc : Bool) (needs : List PendReg) : Prop :=
  s.atIssue 0 0 = true ∧ s.inImage 0 0 = true ∧ s.guard 0 0 false 0 = true ∧ enc = true ∧ (s.ctxOf 0 0).waits needs = false

/-- Whether general register `r` of context 0 of stall 0 holds a value, and the program counter another. -/
def gIs (r : Nat) (v : W64) (pc : Nat) (t : State) : Bool := (t.ctxOf 0 0).getG r == v && (t.ctxOf 0 0).pc.toNat == pc

/-! ### Instructions that touch registers -/

theorem test_witness_IntegerResults :
    Ready s0 ((0 : Fin 32) == 0 && xOnly (fa 31 1 2 0 0).x 0) (gs [31, 1, 2]) ∧ Ready s0 (xOnly 0 0) [] ∧
    Ready s0 ((0 : Fin 32) == 0 && xOnly 0x7F 0x7F) (gs [31, 1, 0]) := by decide +kernel

theorem test_integer_results :
    after (exec (.add 0 0 (fa 31 1 2 0 0)) s0) (gIs 31 8 1) ∧ after (exec (.sub 0 0 (fa 31 2 1 0 0)) s0) (gIs 31 0xFFFFFFFFFFFFFFFE 1) ∧
    after (exec (.mul 0 0 (fa 0 1 2 0 0)) s0) (gIs 0 0 1) ∧ after (exec (.shl 0 0 (fa 3 1 0 0 0x7F)) s0) (gIs 3 0x8000000000000000 1) ∧
    after (exec (.shr 0 0 (fa 3 1 2 0 0)) s0) (gIs 3 0 1) := by decide +kernel

theorem test_witness_MoveAndPredicateResults :
    Ready s0 ((0 : Fin 32) == 0 && (0 : Fin 32) == 0) (gs [0, 1]) ∧ Ready s0 ((0 : Fin 32) == 0) (gs [31]) ∧
    Ready s0 (decide ((0x3FFFFF : BitVec 42).toNat < 2 ^ 22)) (gs [4, 1]) ∧
    Ready s0 (decide ((15 : Fin 32).val < 16) && (0 : Fin 32) == 0 && (0 : Fin 32) == 0) (gs [1]) ∧
    Ready s0 (decide ((15 : Fin 32).val < 16) && (0 : Fin 32) == 0 && (0 : Fin 32) == 0 && xOnly 0 0) (gs [3]) ∧
    Ready s0 ((0 : Fin 32) == 0 && (0 : Fin 32) == 0 && (0 : Fin 32) == 0 && xOnly 0 0) (gs [3]) ∧
    (Ready s0 (decide ((7 : Fin 32).val < 8) && (0 : Fin 32) == 0) (gs [2, 1]) ∧ (false = true ↔ condition 6 5 3)) ∧
    (Ready s0 (decide ((0 : Fin 32).val < 8) && (0 : Fin 32) == 0) (gs [1]) ∧ (true = true ↔ condition 2 3 5)) ∧
    Ready s0 (decide ((7 : Fin 32).val < 8) && decide ((1 : Fin 32).val < 8) && decide ((7 : Fin 32).val < 8) && (0 : Fin 32) == 0) [] := by
  refine ⟨?_, ?_, ?_, ?_, ?_, ?_, ⟨?_, ?_⟩, ⟨?_, ?_⟩, ?_⟩ <;> first | decide +kernel | simp [condition]

theorem test_move_results :
    after (exec (.addi 0 0 (fa 3 1 0 0 0xFFFFFFFF)) s0) (gIs 3 4 1) ∧ after (exec (.movi 0 0 (fb 3 0 0x20000000000)) s0) (gIs 3 0xFFFFFE0000000000 1) ∧
    after (exec (.movh 0 0 (fb 3 1 0x3FFFFF)) s0) (gIs 3 0xFFFFFC0000000005 1) ∧ after (exec (.movg 0 0 (fa 3 1 0 0 0)) s0) (gIs 3 0x100 1) ∧
    after (exec (.cmp 0 0 (fa 1 2 1 0 2)) s0) (fun t => (t.ctxOf 0 0).getP 1) ∧
    after (exec (.cmpi 0 0 (fa 1 1 1 0 5)) s0) (fun t => !(t.ctxOf 0 0).getP 1) := by decide +kernel

/-- Two loops run: the inner has one instruction left of a body at 0 to 3. -/
def sLoop : State := live (with0 { c0 with loops := [⟨0, 4, 2⟩, ⟨0, 8, 1⟩] }) []

theorem test_witness_FlowResults :
    (Ready s0 ((0 : Fin 32) == 0 && (0 : BitVec 15) == 0) [] ∧ (s0.ctxOf 0 0).leavesBody 0xFFFFFFFFFFFFFFFF = false) ∧
    (Ready sLoop ((0 : Fin 32) == 0 && (0 : BitVec 15) == 0) [] ∧ (sLoop.ctxOf 0 0).leavesBody 3 = false) ∧
    (Ready s0 ((0 : BitVec 15) == 0 && (0 : BitVec 32) == 0) (gs [1]) ∧ (s0.ctxOf 0 0).leavesBody 5 = false) ∧
    Ready s0 ((0 : Fin 32) == 0 && (0 : BitVec 15) == 0) [.g 31] ∧
    (Ready s0 ((0 : BitVec 32) == 0) (gs [1]) ∧ (s0.ctxOf 0 0).mayLoop 32767 = true ∧ (s0.ctxOf 0 0).getG 1 ≠ 0 ∧ (s0.ctxOf 0 0).getG 0 = 0) ∧
    (Ready sLoop ((0 : Fin 32) == 0) [] ∧ (sLoop.ctxOf 0 0).mayLoop 3 = true) ∧
    (Ready sLoop ((0 : Fin 32) == 0 && (0 : BitVec 15) == 0 && (0 : BitVec 32) == 0) [] ∧ (sLoop.ctxOf 0 0).loops = [⟨0, 4, 2⟩, ⟨0, 8, 1⟩]) := by
  decide +kernel

theorem test_flow_results :
    after (exec (.br 0 0 (fc 0 0 0xFFFFFFFF)) s0) (fun t => (t.ctxOf 0 0).pc == 0xFFFFFFFFFFFFFFFF) ∧
    after (exec (.call 0 0 (fc 0 0 7)) s0) (gIs 31 1 7) ∧ after (exec (.loop 0 0 (fc 0 3 0)) s0) (gIs 0 0 4) ∧
    after (exec (.lbrk 0 0 (fc 0 0 0)) sLoop) (gIs 0 0 4) ∧
    after (exec (.endInst 0 0 (fc 0 0 0)) s0) (fun t => (t.ctxOf 0 0).wait == .ended) := by decide +kernel

theorem test_witness_DescriptorRegisterResults :
    (Ready s0 (decide ((15 : Fin 32).val < 16) && (0 : Fin 32) == 0 && (0 : Fin 32) == 0) (gs [1] ++ ts [15]) ∧ (7 : BitVec 32).toNat < 8) ∧
    (Ready s0 (decide ((15 : Fin 32).val < 16) && decide ((0 : Fin 32).val < 16) && (0 : Fin 32) == 0 && (0 : Fin 32) == 0 && xOnly 0 0) (ts [15, 0])) ∧
    (Ready s0 (decide ((15 : Fin 32).val < 16) && decide ((0 : Fin 32).val < 16) && (0 : Fin 32) == 0) (gs [2] ++ ts [15, 0]) ∧ (3 : BitVec 32).toNat < 4) := by
  decide +kernel

theorem test_descriptor_results :
    after (exec (.tset 0 0 (fa 2 1 0 0 7)) s0) (fun t => (t.ctxOf 0 0).getT 2 == 5 <<< 448) ∧
    after (exec (.tadv 0 0 (fa 2 0 1 0 3)) s0) (fun t => (t.ctxOf 0 0).getT 2 == 5 <<< 80) := by decide +kernel

/-! ### Memory requests, tokens, waits, bays -/

/-- Where device address 0x100 of pitch 0 lies. -/
def at100 : Place := { unit := 0, off := 0x100, replica := none, region := none }

/-- An address that the program may use. -/
abbrev Gets (s : State) (use : Use) (base v : W64) (n : Nat) (pl : Place) : Prop :=
  s.launch? (s.ctxOf 0 0).launch = some run0 ∧ base.toNat < 2 ^ 48 ∧ v.toNat < 2 ^ 48 ∧ v.toNat % n = 0 ∧
  s.areaRefuses run0.pitch use v.toNat n = false ∧
  s.translate run0.pitch (some run0.csr.toNat) (if use = .read then .read else .write) v.toNat = .ok pl

theorem test_witness_MemoryAndAtomicInstructions :
    (Ready s0 (decide ((1 : Fin 32).val < 16) && (0 : Fin 32) == 0 && (0 : Fin 32) == 0) (gs [31]) ∧ Gets s0 .read 0x100 (effective 0x100 0) 8 at100) ∧
    (Ready s0 ((0 : Fin 32) == 0 && decide ((1 : Fin 32).val < 16) && (0 : Fin 32) == 0) (gs [2]) ∧
      Gets s0 .write 0x100 (effective 0x100 0x1FFEF8) 8 { at100 with off := 0x1FFFF8 }) ∧
    (Ready s0 (decide ((15 : Fin 32).val < 16) && decide ((1 : Fin 32).val < 16) && (0 : Fin 32) == 0 && (0 : Fin 32) == 0) (ts [15]) ∧
      Gets s0 .read 0x100 (effective 0x100 0xFFFFFF00) 64 { at100 with off := 0 }) ∧
    (Ready s0 ((0 : Fin 32) == 0 && decide ((1 : Fin 32).val < 16) && decide ((15 : Fin 32).val < 16) && (0 : Fin 32) == 0) (ts [15]) ∧
      Gets s0 .write 0x100 (effective 0x100 0) 64 at100) ∧
    (Ready s0 (decide ((1 : Fin 32).val < 16) && (0 : Fin 32) == 0 && (3 : BitVec 32) == BitVec.ofNat 32 (3 : Fin 4)) (gs [0, 2]) ∧
      Gets s0 .atomic 0x100 0x100 8 at100) ∧
    (Ready s0 (decide ((1 : Fin 32).val < 16) && (0 : BitVec 32) == 0) (gs [3, 2, 1]) ∧ Gets s0 .atomic 0x100 0x100 16 at100) := by
  refine ⟨?_, ?_, ?_, ?_, ?_, ?_⟩ <;> decide +kernel

/-- Stall 0 has as many requests outstanding as its station has reservations, and one more. -/
def sFull : State :=
  let q : MemReq := ⟨0, .ctx 0 1 0, 0, 0, 0, .store [], 0, at100, none⟩
  { s0 with mem := { s0.mem with reqs := List.replicate (Config.replyPlaces 0 + 1) q } }

theorem test_witness_room : Ready sFull (decide ((1 : Fin 32).val < 16)) (gs [3]) ∧ sFull.mem.room 0 0 (.load 3) = false ∧ s0.mem.room 0 0 (.load 3) = true := by
  have e : (sFull.mem.reqs.filter (fun r => r.client.station == 0)).length = Config.replyPlaces 0 + 1 := by
    show (List.filter _ (List.replicate _ _)).length = _
    rw [List.filter_replicate, if_pos (by decide), List.length_replicate]
  have h : sFull.mem.replyRoom 0 = false := decide_eq_false (by omega)
  refine ⟨by decide +kernel, ?_, by decide +kernel⟩
  show (sFull.mem.replyRoom 0 && _) = false
  rw [h, Bool.false_and]

theorem test_memory_requests :
    after (exec (.ld 0 0 (fa 3 1 0 0 0)) s0) (fun t => t.mem.reqs.map (·.addr) == [0x100] && (t.ctxOf 0 0).pend == [.g 3]) ∧
    after (exec (.st 0 0 (fa 0 1 2 0 8)) s0) (fun t => t.mem.reqs.map (·.kind) == [.store [3, 0, 0, 0, 0, 0, 0, 0]] && (t.ctxOf 0 0).pend == []) ∧
    after (exec (.acas 0 0 (fa 3 1 1 2 0)) s0) (fun t => t.mem.reqs.map (·.kind) == [.atom .cas 3 5 3]) := by decide +kernel

/-- The token of rows 0 to 9 of bay 0 for a client, under handle 1. -/
def tok (k : Client) (ds : List Deferred) : Token := { rows := ⟨0, 0, 0, 9⟩, client := k, stall := 0, ctx := 0, handle := 1, launch := 0, deferred := ds }

/-- A request of context 0 for rows 3 to 5 of bay 0 for VEC. -/
def ask : TokReq := { rows := ⟨0, 0, 3, 5⟩, client := .vec, stall := 0, ctx := 0, handle := 2, launch := 0 }

/-- A state with a token. -/
def sTok (k : Client) (ds : List Deferred) : State := live (with0 c0) [tok k ds]

theorem test_witness_TokenInstructions :
    (Ready s0 (tokEnc (fa 2 2 1 0 8) && (0 : Fin 32) == 0) (gs [2, 1]) ∧ s0.tokRequest 0 0 (fa 2 2 1 0 8) = some ask ∧
      s0.grantable ask.rows = true ∧ s0.outranked s0.tokReqs ask = false) ∧
    (Ready (sTok .seq [⟨0, none⟩]) (tokEnc (fa 2 2 1 7 8) && decide ((7 : Fin 32).val < 8)) (gs [2, 1]) ∧
      (sTok .seq [⟨0, none⟩]).tokRequest 0 0 (fa 2 2 1 7 8) = some ask ∧ (sTok .seq [⟨0, none⟩]).grantable ask.rows = false) ∧
    (Ready (sTok .seq []) (decide ((1 : Fin 32).val < 16) && (0 : Fin 32) == 0 && (0 : Fin 32) == 0 && (0 : Fin 32) == 0 && xOnly 4 0x1F) [] ∧
      (sTok .seq []).tokenOf 0 0 1 = some (tok .seq []) ∧ (tok .seq []).deferred.all (fun d => d.tgt.isSome) = true ∧
      Client.ofCode 4 = some (.feed 0) ∧ (sTok .seq []).launch? 0 = some run0 ∧ run0.owns 0 (.feed 0) = true ∧
      (tok .seq []).rows.stall = 0) ∧
    (Ready (sTok .seq [⟨0, some .vec⟩]) (xOnly 0 0) [] ∧ (sTok .seq [⟨0, some .vec⟩]).tokenOf 0 0 1 = some (tok .seq [⟨0, some .vec⟩]) ∧
      (tok .seq [⟨0, some .vec⟩]).deferred.all (fun d => d.tgt.isSome) = true) ∧
    (Ready (sTok .seq []) (xOnly 0 0) [] ∧ (sTok .seq []).handleBusy 0 0 1 = false) := by decide +kernel

theorem test_token_results :
    after (exec (.tkacq 0 0 (fa 2 2 1 0 8)) s0) (fun t => t.tokens.map (·.rows) == [⟨0, 0, 3, 5⟩]) ∧
    after (exec (.tktry 0 0 (fa 2 2 1 7 8)) (sTok .seq [⟨0, none⟩])) (fun t => !(t.ctxOf 0 0).getP 7 && t.tokens.length == 1) ∧
    after (exec (.tkrel 0 0 (fa 1 0 0 0 0)) (sTok .seq [])) (fun t => t.tokens.map (·.deferred) == [[⟨0, none⟩]]) := by decide +kernel

/-- Context 0 has a posted store that no controller has performed. -/
def sStore : State :=
  let q : MemReq := { id := 0, client := .ctx 0 0 0, pitch := 0, pc := 0, op := 0x14, kind := .store [1, 2, 3, 4, 5, 6, 7, 8], addr := 0x100,
                      place := at100, served := none }
  { s0 with serial := 1, mem := { s0.mem with reqs := [q] } }

theorem test_witness_WaitAndTimeInstructions :
    (Ready s0 (xOnly 2 0xFF1F) [] ∧ s0.unitCount 0 0 2 = some 0) ∧ (Ready sStore (xOnly 2 0xFF1F) [] ∧ sStore.unitCount 0 0 2 = some 1) ∧
    s0.writesBefore 0 0 s0.serial = false ∧ sStore.writesBefore 0 0 sStore.serial = true ∧
    Ready s0 (xOnly 0x3007 0x7007 && decide (0x3007 / 2 ^ 12 % 8 < 4)) (gs [3]) ∧ s0.launch? (s0.ctxOf 0 0).launch = some run0 := by decide +kernel

theorem test_wait_results :
    after (exec (.waitu 0 0 (fa 0 0 0 0 2)) sStore) (fun t => (t.ctxOf 0 0).wait == .unit 2 0 && (t.ctxOf 0 0).pc == 0) ∧
    after (exec (.waitu 0 0 (fa 0 0 0 0 0x102)) sStore) (gIs 0 0 1) ∧
    after (exec (.mfen 0 0 (fa 0 0 0 0 0)) sStore) (fun t => (t.ctxOf 0 0).wait == .fence 1) := by decide +kernel

/-- Tokens of SEQ and VEC over rows 0 and 1, and of VEC over rows 256 to 511, of bay 0; word 0x100 holds 7. -/
def sBay (e : BitVec 39) : State :=
  { live (with0 c0) [{ tok .seq [] with rows := ⟨0, 0, 0, 1⟩ }, { tok .vec [] with rows := ⟨0, 0, 256, 511⟩ }, { tok .vec [] with rows := ⟨0, 0, 2, 2⟩ }] with
    bays := if e = 0 then [] else [(0x100, e)] }

/-- The word 7 with its check bits, worked out by hand from R163: positions 1 to 3 of the data lie at 3, 5 and 6, so that c0 = 1 + 1 + 0,
c1 = 1 + 0 + 1, c2 = 0 + 1 + 1 are even, and the overall parity is odd. -/
def seven : BitVec 39 := bayEncode 7

theorem test_witness_BayInstructions :
    (sBay seven).canonical ∧
    (Ready (sBay seven) (decide ((1 : Fin 32).val < 16)) (gs [3]) ∧ (sBay seven).cover 0 0 .seq [rowSpan 0 0x100 1] = .held ∧
      bayDecode (stored (sBay seven) 0 0x100) = .good 7) ∧
    (bayDecode (stored ((sBay seven).upsetOnly 0 [(0x100, 1)] [0x100]) 0 0x100) = .corrected 7) ∧
    (BayAddress (effective 0x100 0x100) ∧ (sBay 0).cover 0 0 .vec [rowSpan 0 0x200 256] = .held ∧ (0x200 : Nat) % 256 = 0) ∧
    (BayAddress (effective 0x100 0xFF00) ∧ (sBay 0).cover 0 0 .vec [columnRows 0 0x10000] = .held ∧ (0x10000 : Nat) / 256 % 4096 + 255 ≤ 3071) := by
  unfold State.canonical BayAddress; decide +kernel

theorem test_witness_bay_words (k : Nat) : bayDecode (stored (sBay 0) 0 k) = .good 0 := by
  show bayDecode 0 = .good 0
  decide +kernel

theorem test_bay_results :
    after (exec (.ldb 0 0 (fa 3 1 0 0 0) [(0x100, 1)]) (sBay seven)) (fun t => gIs 3 7 1 t && t.rewrites == [(0x100, seven)]) ∧
    after (exec (.stb 0 0 (fa 0 1 1 0 1)) (sBay 0)) (fun t => t.bayWord 0x101 == bayEncode 5 && t.bayWord 0x100 == 0) ∧
    after (exec (.vst 0 0 (fa 0 1 0 0 0x100)) (sBay 0)) (fun t => t.bayWord 0x2FF == 0 && (t.ctxOf 0 0).pc == 1) := by decide +kernel

/-! ### Lanes, tensors, transfers, passes -/

/-- A tensor descriptor (Table 5-3): BASE, LOC, FMT, AXES, SBASE and two extents, of which a second has stride `e0`; an unused one holds 1. -/
def td (base loc fmt axes sbase e0 e1 : Nat) : BitVec 512 :=
  BitVec.ofNat 512 (base + loc * 2 ^ 48 + fmt * 2 ^ 64 + axes * 2 ^ 72 + sbase * 2 ^ 192 + e0 * 2 ^ 256 + max 1 e1 * (2 ^ 144 * 2 ^ 144) + 2 ^ 160 * 2 ^ 160 + 2 ^ 176 * 2 ^ 176 + e0 * (2 ^ 192 * 2 ^ 192))

/-- Descriptors: t1 a BF16 tensor of 32 elements in row 0 of bay 0, t2 the FB form of it in rows 1 to 3, t3 and t4 WIDE ones in rows 4 to 7, t5 an
FP32 tensor of 32 in row 8, t6 a BF16 one in device memory, t7 an index of 2, t8 two rows of 16 BF16 in memory, t9 their copy in row 10,
t10 an MX tensor of 32 in row 12, t11 an FP32 tensor of 32 in memory, t12 a tile of page walks. -/
def tcs : Vector (BitVec 512) 16 :=
  #v[0, td 0 1 2 0 0 32 0, td 0x100 1 0x20 0 0x200 32 0, td 0x400 1 0x40 0 0x500 32 0, td 0x600 1 0x40 0 0x700 32 0, td 0x800 1 1 0 0 32 0,
     td 0x1000 0 2 0 0 32 0, td 0x900 1 1 0 0 2 0, td 0x2000 0 2 1 0 16 2, td 0xA00 1 2 1 0 16 2, td 0xC00 1 0x30 0 0 32 0, td 0x3000 0 1 0 0 32 0,
     td 0xE00 1 2 1 0 16 2, 0, 0, 0]

/-- An instance with those descriptors; g1 = 5, a1 = 0x100. -/
def cT : Ctx := { c0 with t := tcs, g := (c0.g.setIfInBounds 3 0x3F80).setIfInBounds 4 0x10000 }

/-- It runs with a VEC token and a token of channel 7 over rows 0 to 15 of bay 0. -/
def sT : State := live (with0 cT) [{ tok .vec [] with rows := ⟨0, 0, 0, 15⟩ }]

theorem test_witness_LaneInstructions :
    Ready sT (decide ((15 : Fin 32).val < 16) && xOnly 0 0) (gs [1]) ∧ ((0xFF : BitVec 32).toNat = (255 : Fin 256)) ∧
    ((2 : BitVec 32).toNat < 3 ∧ (1 : BitVec 32).toNat < 2 ∧ (3 : BitVec 32).toNat < 4) := by decide +kernel

/-- v1 holds fives, v2 threes. -/
def sV : State := live (with0 { c0 with v := (c0.v.setIfInBounds 1 (Vector.replicate 256 5)).setIfInBounds 2 (Vector.replicate 256 3) }) []

/-- Whether lane 255 of vector register `r` holds a value. -/
def vIs (r : Nat) (a : W32) (t : State) : Bool := ((t.ctxOf 0 0).getV r)[255] == a

theorem test_lane_results :
    after (exec (.vsub 0 0 (fa 1 2 1 0 2)) sV) (vIs 1 0xFFFFFFFE) ∧
    after (exec (.vlane 0 0 (fa 3 1 0 0 255)) sV) (gIs 3 5 1) ∧
    after (exec (.vred 0 0 (fa 3 1 0 0 2)) sV) (gIs 3 1280 1) := by
  refine ⟨?_, ?_, ?_⟩ <;> decide +kernel

theorem test_witness_ComparisonAndReduction :
    ((0x12 : BitVec 32).toNat < 32 ∧ (0x12 : BitVec 32).toNat % 8 < 4 ∧ (0x12 : BitVec 32).toNat / 8 < 3) ∧ (5 : BitVec 32).toNat < 6 ∧
    RMode.ofCode ((0x62 : BitVec 32).toNat / 16 % 4) = some .sr ∧ (0x62 : BitVec 32).toNat < 128 ∧ (0x62 : BitVec 32).toNat % 4 < 3 ∧
    (0x62 : BitVec 32).toNat / 4 % 4 < 3 ∧ sT.launch? (sT.ctxOf 0 0).launch = some run0 ∧ Ready sT (decide ((15 : Fin 32).val < 16) && xOnly 0 0) [] := by
  decide +kernel

/-- VRED by maximum of equal lanes is their value. -/
theorem test_witness_reduction (a : Vector W32 256) (h : a = Vector.replicate 256 5) :
    (∃ i : Fin 256, (5 : W64) = a[i].signExtend 64) ∧ ∀ i : Fin 256, a[i].toInt ≤ (5 : W64).toInt := by
  subst h; exact ⟨⟨0, by simp⟩, fun i => by simp⟩

/-- A descriptor register of the test context, parsed. -/
def tp (i : Nat) : Option TDesc := sT.tensor 0 0 ((sT.ctxOf 0 0).getT i)

/-- A bay tensor of one dimension as it is parsed. -/
def bt (base : Nat) (f : Fmt) (sbase e0 : Nat) : TDesc :=
  { base := base, loc := 1, stall := 0, fmt := f, ndim := 1, raxis := 0, tag := 0, ceil := 0, originK := 0, sbase := sbase, ext := [e0], stride := [1] }

def d1 : TDesc := bt 0 ⟨.plain, .bf16⟩ 0 32
def d2 : TDesc := bt 0x100 ⟨.fb, .fp8e4m3⟩ 0x200 32
def d3 : TDesc := bt 0x400 ⟨.wide, .fp32⟩ 0x500 32
def d4 : TDesc := bt 0x600 ⟨.wide, .fp32⟩ 0x700 32
def d5 : TDesc := bt 0x800 ⟨.plain, .fp32⟩ 0 32

theorem test_parse : tp 1 = some d1 ∧ tp 2 = some d2 ∧ tp 3 = some d3 ∧ tp 4 = some d4 ∧ tp 5 = some d5 := by decide +kernel

theorem test_witness_TensorInstructions :
    (d1.loc = 1 ∧ d1.fits = true ∧ d1.fmt = ⟨.plain, .bf16⟩ ∧ d2.loc = 1 ∧ d2.fits = true ∧ d2.fmt.fam = .fb ∧ d2.count = d1.count ∧
      d2.extent 0 = d1.extent d1.raxis ∧ RMode.ofCode 2 = some .sr ∧ (sT.ctxOf 0 0).vecq.length < 4 ∧ sT.cover 0 0 .vec (d2.rows 0 ++ d1.rows 0) ≠ .missing ∧
      sT.holdsSplit 0 0 (4 % 4) = true) ∧
    (d3.fits = true ∧ d4.fits = true ∧ d3.fmt.fam = .wide ∧ d4.fmt.fam = .wide ∧ d3.count = d4.count ∧ d3.count = d1.count ∧ d3.rowCount ≤ 256 ∧
      d1.fmt.el ≠ .fp32 ∧ ((sT.ctxOf 0 0).getG 3).setWidth 16 = 0x3F80#16 ∧ d5.fmt.fam = .plain ∧ d1.fmt.fam = .plain ∧ d5.count = d1.count ∧ d5.fits = true ∧
      sT.cover 0 0 .vec (d3.rows 0 ++ d3.rows 0 ++ d4.rows 0) ≠ .missing ∧ sT.cover 0 0 .vec (d1.rows 0 ++ d5.rows 0) ≠ .missing) ∧
    Ready sT (decide ((2 : Fin 32).val < 16) && decide ((1 : Fin 32).val < 16) && (0 : Fin 32) == 0) (gs [3] ++ ts [2, 1]) := by
  refine ⟨?_, ?_, ?_⟩ <;> decide +kernel

theorem test_tensor_ops :
    after (exec (.vscf 0 0 (fa 2 1 3 0 0)) sT) (fun t => (t.ctxOf 0 0).vecq.length == 1 && (t.ctxOf 0 0).pend == [.g 3]) ∧
    after (exec (.vwadd 0 0 (fa 3 3 4 0 0)) sT) (fun t => (t.ctxOf 0 0).vecq.length == 1 && (t.ctxOf 0 0).pend == []) := by decide +kernel

/-- Bay tensors of two dimensions, and tensors in device memory, as they are parsed. -/
def b2 (base : Nat) (f : Fmt) (e0 e1 : Nat) : TDesc := { bt base f 0 e0 with ndim := 2, ext := [e0, e1], stride := [1, e0] }
def dv (d : TDesc) (base : Nat) : TDesc := { d with base := base, loc := 0 }

def d6 : TDesc := dv d1 0x1000
def d7 : TDesc := bt 0x900 ⟨.plain, .fp32⟩ 0 2
def d9 : TDesc := b2 0xA00 ⟨.plain, .bf16⟩ 16 2
def d8 : TDesc := dv d9 0x2000
def d10 : TDesc := bt 0xC00 ⟨.mx, .fp8e4m3⟩ 0 32
def d11 : TDesc := dv d5 0x3000
def d12 : TDesc := b2 0xE00 ⟨.plain, .bf16⟩ 16 2

theorem test_parse_more : tp 6 = some d6 ∧ tp 7 = some d7 ∧ tp 8 = some d8 ∧ tp 9 = some d9 ∧ tp 10 = some d10 ∧ tp 11 = some d11 ∧ tp 12 = some d12 := by
  decide +kernel

/-- Host window 0 of pitch 0 allows reads and writes, and outbound mailbox 5 is in force. -/
def sP : State :=
  { sT with fe := { sT.fe with wins := [(0, 0x100000#64, 0x10000#64, 3)] },
            regs := [(regKey 0 (offXlat 0), 0x0001000000200000#64), (regKey 0 (offPcfg 0), 0x1000001#64), (regKey 1 (offObox 5), 3)] }

/-- Its channel 7 holds four transfers. -/
def sFull4 : State := State.modChan sP 0 7 (fun x => { x with xfers := List.replicate 4 (transfer sP 0 0 .send 0 0 0 0 7 []) })

theorem test_witness_PorterInstructions :
    (sP.launch? (sP.ctxOf 0 0).launch = some run0 ∧ (sP.chanOf 0 7).xfers.length < 4 ∧
      sFull4.launch? (sFull4.ctxOf 0 0).launch = some run0 ∧ 4 ≤ (sFull4.chanOf 0 7).xfers.length ∧ (0x207 : BitVec 32).toNat % 8 = 7 ∧
      Ready sFull4 (portOpts 0x187 0x1C0) (ts [6, 1]) ∧ Ready sFull4 (portOpts 7 0) (ts [6, 1, 2]) ∧ Ready sFull4 (portOpts 0x8007 0x18000) (gs [2] ++ ts [6]) ∧
      Ready sFull4 (portOpts 0x207 0x600) (ts [6, 1])) ∧
    (d1.fmt = d6.fmt ∧ sidesOk d1 d6 0 false false = true ∧ sP.pkDst 0 d6 = .none ∧ d1.loc = 1) ∧
    (d6.fmt = d6.fmt ∧ sP.intoOwn 0 (sP.pkSrc 0 d6) { d6 with base := 0x1100 } = false ∧ sidesOk d6 { d6 with base := 0x1100 } 0 false false = true) ∧
    (sidesOk d6 d1 0 true false = true ∧ (match sP.hostSide 0 d6 0 with | .ok w => w == 0x100000 | .error _ => false) = true) ∧
    (sidesOk d12 d9 0 false false = true ∧ transposeOk d12 { d9 with ext := [2, 16] } false false = true) ∧
    (d8.fmt = d9.fmt ∧ d8.fmt.fam = .plain ∧ d8.rowBits % 8 = 0 ∧ d8.loc ≠ 2 ∧ d9.loc ≠ 2 ∧ d7.loc = 1 ∧ d7.ndim = 1 ∧ d7.fmt = ⟨.plain, .fp32⟩ ∧ d7.fits = true ∧
      d8.ndim ≤ 2 ∧ d9.extent 0 = d8.extent 0 ∧ d9.rowCount = d7.extent 0 ∧ d9.dataBytes true ≤ 2 ^ 32 ∧ d8.dataBytes true ≤ 2 ^ 32 ∧ d8.loc = 0 ∧ d9.fits = true ∧
      boundsMeet (d8.bounds 0 false) (d9.bounds 0 false) = false ∧ sP.meetsPacked 0 0 [d8, d9] = false) ∧
    (d12.loc = 1 ∧ d12.ndim = 2 ∧ d12.raxis = 0 ∧ d12.fits = true ∧ ((sP.ctxOf 0 0).getA 1).toNat % 64 = 0 ∧ (5 : W64).toNat / 2 ^ 22 % 2 ^ 10 = 0) ∧
    (sidesOk d10 d2 0 false false = true ∧ d10.streamLen = d2.streamLen ∧ convPair d10.fmt d2.fmt = true ∧ d10.loc ≠ 2 ∧ d2.loc ≠ 2 ∧
      sP.meetsPacked 0 0 [d10, d2] = false) ∧
    ((sP.tensor 0 0 ((sP.ctxOf 0 0).getT 5)).map TDesc.elemsOnly = some d5.elemsOnly ∧ (sP.tensor 0 0 ((sP.ctxOf 0 0).getT 11)).map TDesc.elemsOnly = some d11.elemsOnly ∧ d5.fmt = d11.fmt ∧ d5.fmt = ⟨.plain, .fp32⟩ ∧ d5.loc = 1 ∧ d11.loc = 0 ∧ d5.ext = d11.ext ∧ sidesOk d5.elemsOnly d11.elemsOnly 0 false false = true ∧
      sP.meetsPacked 0 0 [d11.elemsOnly] = false) ∧
    (d1.fmt.fam = .plain ∧ d1.fits = true ∧ sendOk 7 5 (d1.dataBytes true) = true ∧ d1.dataBytes true ≤ 2 ^ 24 ∧
      sP.outboxActive 0 ((5 : W64).toNat % 256) = true ∧ sendOk 0x10007 5 (d1.dataBytes true) = true ∧ sP.meetsPacked 0 0 [d1] = false) ∧
    Ready sP (decide ((6 : Fin 32).val < 16) && decide ((1 : Fin 32).val < 16) && portOpts 0x187 0x1C0) (ts [6, 1]) := by
  refine ⟨?_, ?_, ?_, ?_, ?_, ?_, ?_, ?_, ?_, ?_, ?_⟩ <;> decide +kernel

theorem test_porter_queues :
    after (exec (.psend 0 0 (fa 0 1 5 0 7)) sFull4) (fun t => (t.chanOf 0 7).xfers.length == 4 && (t.ctxOf 0 0).pc == 0) ∧
    after (exec (.pcopy 0 0 (fa 6 1 0 0 7)) sP) (fun t => (t.chanOf 0 7).xfers.map (·.kind) == [.copy] && (t.ctxOf 0 0).pc == 1) ∧
    after (exec (.pconv 0 0 (fa 2 10 0 0 7)) sP) (fun t => (t.chanOf 0 7).xfers.map (·.kind) == [.conv]) ∧
    after (exec (.atens 0 0 (fa 11 5 0 0 7)) sP) (fun t => (t.chanOf 0 7).xfers.map (·.kind) == [.atens]) := by
  refine ⟨?_, ?_, ?_, ?_⟩ <;> decide +kernel

/-- A pass of mode 0: one BF16 vector of 256, converted on entry, against a tile of FP8 weights in device memory, into 256 columns of BF16. -/
def aVec : TDesc := bt 0 ⟨.plain, .bf16⟩ 0 256
def oVec : TDesc := bt 0x200 ⟨.plain, .bf16⟩ 0 256
def wTile : TDesc := dv (b2 0 ⟨.plain, .fp8e4m3⟩ 256 256) 0x10000

def sA : State :=
  live (with0 { cT with t := ((cT.t.setIfInBounds 1 (td 0 1 2 0 0 256 0)).setIfInBounds 2 (td 0x10000 0 0x10 1 0 256 256)).setIfInBounds 3 (td 0x200 1 2 0 0 256 0),
                        g := cT.g.setIfInBounds 5 0x40 }) []

/-- A pass of context 1 waits there. -/
def sOther : State :=
  State.modSplit sA 0 0 (fun x => { x with waiting := [{ passOf sA 0 0 (fa 3 1 2 0 5) 0 0x40 0 0 aVec oVec none with ctx := 1 }], passCount := 1 })

theorem test_witness_ArrayInstructions :
    (sA.launch? (sA.ctxOf 0 0).launch = some run0 ∧ run0.holds 0 (0 : SplitId) = true ∧ (0xC : BitVec 32).toNat % 4 = 0) ∧
    ((sA.splitOf 0 0).passes.any (fun q => q.ctx == 0) = false) ∧
    (sA.tensor 0 0 ((sA.ctxOf 0 0).getT 1) = some aVec ∧ sA.tensor 0 0 ((sA.ctxOf 0 0).getT 2) = some wTile ∧
      sA.tensor 0 0 ((sA.ctxOf 0 0).getT 3) = some oVec ∧ weightFmt wTile.fmt = true ∧ wTile.originK % 32 = 0) ∧
    (run0.splitsOn 0 = some (0, 1) ∧ 1 = 2 ^ (sA.stall 0).config ∧ sA.passCount 0 0 = 0 ∧ sOther.passCount 0 0 = 0 ∧
      (sOther.splitOf 0 0).passes ≠ [] ∧ sOther.launch? (sOther.ctxOf 0 0).launch = some run0 ∧ Ready sOther (xOnly 2 3) []) ∧
    ((sA.ctxOf 0 0).getG (5 % 32) = 0x40 ∧ (sA.splitOf 0 0).passes.length < 2 ∧ (passOf sA 0 0 (fa 3 1 2 0 5) 0 0x40 0 0 aVec oVec none).wordOk = true ∧
      (passOf sA 0 0 (fa 3 1 2 0 5) 0 0x40 0 0 aVec oVec none).shapeOk false aVec wTile oVec none = true ∧
      (sA.splitOf 0 0).loads.find? (fun t => t.pass.isNone && t.desc == (sA.ctxOf 0 0).getT 2) = none) ∧
    Ready sA (decide ((3 : Fin 32).val < 16) && decide ((1 : Fin 32).val < 16) && xOnly 5 0x1F) (gs [5] ++ ts [3, 1, 2]) := by
  refine ⟨?_, ?_, ?_, ?_, ?_, ?_⟩ <;> decide +kernel

theorem test_array_results :
    after (exec (.ascl 0 0 (fa 0 3 0 0 0)) sA) (fun t => (t.splitOf 0 0).ascl == 0x3F80#16) ∧
    after (exec (.dctw 0 0 (fa 0 1 0 0 0xC)) sA) (fun t => (t.splitOf 0 0).dctl.toList == [0x3F80, 0x3F80, 0x3F80, 5]) ∧
    after (exec (.splt 0 0 (fa 0 0 0 0 2)) sA) (fun t => (t.stall 0).config == 2 && (t.launch? 0).map (·.splits) == some [(0, 0, 4)]) ∧
    after (exec (.splt 0 0 (fa 0 0 0 0 2)) sOther) (fun t => (t.stall 0).config == 0 && (t.launch? 0).map (·.faulted) == some true) ∧
    after (exec (.pass 0 0 (fa 3 1 2 0 5)) sA) (fun t => (t.splitOf 0 0).waiting.map (·.num) == [0] && (t.splitOf 0 0).loads.length == 1) := by
  refine ⟨?_, ?_, ?_, ?_, ?_⟩ <;> decide +kernel

/-! ### Answers, completions, events of a stall -/

/-- A request of context 0 for address 0x100, with its answer. -/
def req (k : MemKind) (a : Option MemAns) : MemReq :=
  { id := 3, client := .ctx 0 0 0, pitch := 0, pc := 0, op := 0x13, kind := k, addr := 0x100, place := at100, served := a }

/-- Context 0 waits for register 3 and a request is under way. -/
def sReq (k : MemKind) (a : Option MemAns) : State :=
  let t := live (with0 { c0 with pend := [.g 3] }) []
  { t with serial := 9, mem := { t.mem with reqs := [req k a] } }

/-- Context 0 runs another launch by the time the answer comes. -/
def sLate : State :=
  let t := live (with0 { c0 with launch := 1, pend := [.g 3] }) []
  { t with mem := { t.mem with reqs := [req (.atom .cas 3 0 0) (some ⟨[7, 0, 0, 0, 0, 0, 0, 1], false, false⟩)] } }

theorem test_witness_MemoryAnswers :
    (sLate.runsAt 0 0 0 = false ∧ sLate.req? 3 = some (req (.atom .cas 3 0 0) (some ⟨[7, 0, 0, 0, 0, 0, 0, 1], false, false⟩))) ∧
    (∀ k ∈ [MemKind.load 3, .loadT 15, .atom .cas 3 0 0], (sReq k none).runsAt 0 0 0 = true) ∧
    (∀ k ∈ [MemKind.load 3, .loadT 15, .atom .cas 3 0 0], ∀ a ∈ [(⟨[7, 0, 0, 0, 0, 0, 0, 1], false, false⟩ : MemAns)],
      (sReq k (some a)).req? 3 = some (req k (some a)) ∧ (req k (some a)).client = .ctx 0 0 0 ∧ a.poison = false ∧ a.sat = false) ∧
    ((sReq (.atom .addTill 31 0 0) (some ⟨[], false, true⟩)).launch? 0 = some run0 ∧ run0.strictOvf = false ∧
      ((sReq (.atom .addTill 31 0 0) (some ⟨[], false, true⟩)).ctxOf 0 0).launch = 0) := by
  refine ⟨?_, ?_, ?_, ?_⟩ <;> decide +kernel

theorem test_answer_results :
    after (exec (.atomicResponse 3) sLate) (fun t => (t.ctxOf 0 0).getG 3 == 0 && t.mem.reqs == []) ∧
    after (exec (.ldDataReturn 3) (sReq (.load 3) (some ⟨[7, 0, 0, 0, 0, 0, 0, 1], false, false⟩)))
      (fun t => (t.ctxOf 0 0).getG 3 == 0x0100000000000007 && (t.ctxOf 0 0).pend == [] && t.mem.reqs == []) ∧
    after (exec (.atomicResponse 3) (sReq (.atom .addTill 3 0 0) (some ⟨[], false, true⟩)))
      (fun t => (t.ctxOf 0 0).getG 3 == 1 && (t.ctxOf 0 0).tillSat && (t.launch? 0).map (·.tillSat) == some true) := by decide +kernel

/-- Context 0 stopped at an instruction for a reason. -/
def sWait (w : Wait) : State := live (with0 { c0 with wait := w }) []

/-- The same with the waiting request or a token of its own. -/
def sAsk : State := { sWait .token with tokReqs := [ask] }

/-- A store of the context is under way while it waits. -/
def sHeldBack (w : Wait) : State := let t := sWait w; { t with serial := 9, mem := { t.mem with reqs := [req (.store [1]) none] } }

/-- Its stall runs an instance of a launch that also runs on stall 1. -/
def sTwo : State :=
  { sWait .ended with fe := { s0.fe with launches := [(0, { run0 with splits := [(0, 0, 1), (1, 0, 1)], running := [0, 1] })] } }

theorem test_witness_WaitsEnd :
    (((sWait (.fence 0)).ctxOf 0 0).wait = .fence 0 ∧ (sWait (.fence 0)).writesBefore 0 0 0 = false ∧ ((sHeldBack (.fence 9)).ctxOf 0 0).wait = .fence 9 ∧ (sHeldBack (.fence 9)).writesBefore 0 0 9 = true) ∧
    (((sWait (.unit 2 0)).ctxOf 0 0).wait = .unit 2 0 ∧ (sWait (.unit 2 0)).unitCount 0 0 2 = some 0 ∧ ((sHeldBack (.unit 2 0)).ctxOf 0 0).wait = .unit 2 0 ∧ (sHeldBack (.unit 2 0)).unitCount 0 0 2 = some 1) ∧
    (sAsk.tokReqs[0]? = some ask ∧ sAsk.grantable ask.rows = true ∧ sAsk.outranked (sAsk.tokReqs.take 0) ask = false) ∧
    ((sTok .seq [⟨0, some .vec⟩]).tokens[0]? = some (tok .seq [⟨0, some .vec⟩]) ∧
      (sTok .seq [⟨0, some .vec⟩]).clientBusy (tok .seq [⟨0, some .vec⟩]) 0 = false ∧ ((sTok .seq [⟨0, some .vec⟩]).ctxOf 0 0).wait ≠ .handle 1) ∧
    ((sWait .ended).launchIn 0 0 = some run0 ∧ (sWait .ended).ctxBusy 0 0 = false ∧ run0.running.any (· != 0) = false) ∧
    (sTwo.ctxBusy 0 0 = false ∧ (sTwo.launchIn 0 0).map (fun x => x.running.any (· != 0)) = some true) := by
  refine ⟨?_, ?_, ?_, ?_, ?_, ?_⟩ <;> decide +kernel

theorem test_wait_ends :
    after (exec (.mfenComplete 0 0) (sWait (.fence 0))) (fun t => (t.ctxOf 0 0).wait == .none && (t.ctxOf 0 0).pc == 1) ∧
    after (exec (.tokenGrant 0) sAsk) (fun t => t.tokReqs == [] && t.tokens.length == 1 && (t.ctxOf 0 0).wait == .none) ∧
    after (exec (.deferredTokenEffect 0) (sTok .seq [⟨0, some .vec⟩])) (fun t => t.tokens == [tok .vec []]) ∧
    after (exec (.instanceEnd 0 0) sTwo) (fun t => (t.launch? 0).map (·.running) == some [1] && !(t.ctxOf 0 0).live) ∧
    after (exec (.instanceEnd 0 0) (sWait .ended)) (fun t => t.launch? 0 == none) := by
  refine ⟨?_, ?_, ?_, ?_, ?_⟩ <;> decide +kernel

/-- A measured scale is on its way to g3: eight FP32 zeros of row 8 under a VEC token. -/
def opScale : VecOp := { serial := 0, pc := 0, kind := .vsca none, d := 0, s1 := td 0x800 1 1 0 0 8 0, s2 := 0, reg := 3, rows := [⟨0, 0, 8, 8⟩] }
def sScale : State := live (with0 { cT with vecq := [opScale], pend := [.g 3] }) [{ tok .vec [] with rows := ⟨0, 0, 8, 8⟩ }]

/-- Word 0 of its image names no instruction. -/
def sUnlisted : State := let t := sWait .none; { t with mem := { t.mem with bytes := [(0x1047, 0xFC), (0x200000, 3)] } }

set_option maxRecDepth 100000 in
theorem test_witness_FillsAndTensorCompletion :
    ((sWait .none).launchIn 0 0 = some run0 ∧ run0.ended = none ∧ 8 * 7 < run0.codeLen ∧
      (sWait .none).readDev 0 (some 0) (run0.prog + 64 + 64 * 7) 64 = .ok (List.replicate 64 0)) ∧
    ((seqInstr 0 0 0).isSome = true ∧ seqInstr 0 0 0xFC00000000000000 = none ∧ sUnlisted.launchIn 0 0 = some run0 ∧ ((sUnlisted.ctxOf 0 0).pc.toNat / 8 = 0) ∧
      sUnlisted.readDev 0 (some 0) (run0.prog + 64) 64 = .ok (List.replicate 7 0 ++ [0xFC] ++ List.replicate 56 0) ∧
      sUnlisted.atIssue 0 0 = true ∧ sUnlisted.inImage 0 0 = true ∧ sUnlisted.guard 0 0 (wordGn 0xFC00000000000000) (wordGp 0xFC00000000000000) = true) ∧
    ((sScale.ctxOf 0 0).vecq = [opScale] ∧ sScale.cover 0 0 .vec opScale.rows = .held ∧ sScale.tensor 0 0 opScale.s1 = some (bt 0x800 ⟨.plain, .fp32⟩ 0 8) ∧
      (sScale.readSpans 0 (bt 0x800 ⟨.plain, .fp32⟩ 0 8).spans).2 = ([List.replicate 8 0], none)) ∧
    (sScale.readSpans 0 (bt 0x800 ⟨.plain, .fp32⟩ 0 8).spans).1 = sScale := by
  refine ⟨?_, ?_, ?_, rfl⟩ <;> decide +kernel

theorem test_unlisted_opcode :
    after (exec (.instructionCacheFill 0 0 0) sUnlisted) (fun t => (t.launch? 0).map (·.faulted) == some true) ∧
    after (exec (.instructionCacheFill 0 0 1) sUnlisted) (fun t => (t.launch? 0).map (·.faulted) == some false && (t.stall 0).icache.map (·.1) == [66]) := by
  refine ⟨?_, ?_⟩ <;> decide +kernel

/-- The first tile of a waiting pass is in place. -/
def sEntry : State :=
  let q := passOf sA 0 0 (fa 3 1 2 0 5) 0 0x40 0 1 aVec oVec none
  let l : TileLoad := { num := 0, serial := 0, ctx := 0, pc := 0, op := 0x40, pass := some 0, index := 0, desc := q.wgt, diag := false, pairs := [],
                        data := some ⟨.fp8e4m3, 256, 256, [], [], [], []⟩, issued := 256 }
  { State.modSplit sA 0 0 (fun x => { x with waiting := [q], loads := [l], passCount := 1, tileCount := 1 }) with
    tokens := [{ tok (.feed 0) [] with rows := ⟨0, 0, 0, 0⟩ }] }

/-- What it latches. -/
def pEntry : Option Pass := (sEntry.splitOf 0 0).latch (passOf sA 0 0 (fa 3 1 2 0 5) 0 0x40 0 1 aVec oVec none) aVec wTile oVec

/-- The pass has reached its last slot. -/
def sDone : State :=
  match pEntry with
  | some p => State.modSplit sA 0 0 (fun x => { x with flight := [p], slot := p.endSlot, passCount := 1 })
  | none => sA

theorem test_witness_ArrayEvents :
    (sEntry.splitLaunch 0 0 = some (0, run0) ∧ (sEntry.splitOf 0 0).flight = [] ∧
      (sEntry.splitOf 0 0).loads.any (fun t => t.pass == some 0 && t.index == 0 && t.data.isSome && t.issued == 256) = true ∧
      sEntry.cover 0 0 (.feed 0) (aVec.rows 0) = .held ∧ pEntry.isSome = true) ∧
    ((sA.splitOf 0 0).waiting = [] ∧ (sA.splitOf 0 0).flight = [] ∧ (sA.splitOf 0 0).loads = [] ∧ (∀ p ∈ (sEntry.splitOf 0 0).flight, p.drains 0 = false) ∧
      (match pEntry with | some p => p.drains 0 | none => true) = false ∧ sA.launch? 0 = some run0) ∧
    ((sDone.splitOf 0 0).flight.map (fun p => decide (p.endSlot ≤ (sDone.splitOf 0 0).slot)) = [true] ∧ sDone.splitLaunch 0 0 = some (0, run0)) := by
  refine ⟨?_, ?_, ?_⟩ <;> decide +kernel

theorem test_array_events :
    after (exec (.passEntry 0 0) sEntry) (fun t => (t.splitOf 0 0).waiting == [] && (t.splitOf 0 0).flight.length == 1) ∧
    after (exec (.arraySlot 0 0 false none []) sA) (fun t => (t.splitOf 0 0).slot == 1 && (t.stall 0).slots == 1) ∧
    after (exec (.outputRowsRelease 0 0) sDone) (fun t => (t.splitOf 0 0).flight.length == 0 && (t.launch? 0).map (·.progress) == some 1) := by
  refine ⟨?_, ?_, ?_⟩ <;> decide +kernel

/-- Launch 0 has ended and its sweeper runs on stalls 0 and 1; row 5 of bay 0 of stall 0 holds a word. -/
def sSweep : State :=
  { live (with0 { c0 with live := false }) [tok .seq []] with
    bays := [(5 * 256, seven), (2 ^ 22, seven)],
    fe := { s0.fe with launches := [(0, { run0 with ended := some .ok, running := [], sweeping := [0, 1], rows := [some (5, 5), none, none, none] })] } }

theorem test_witness_SweepEvents :
    (sSweep.pitchOfStall 0 = some 0 ∧ (sSweep.pitch 0).state ≠ .resetting ∧ sSweep.sweepsOn 0 = [0] ∧ sSweep.mem.entUse = [] ∧
      (sSweep.launch? 0).map (fun x => x.sweeping.any (· != 0)) = some true) ∧ sSweep.pstall 0 < 52 := by
  refine ⟨?_, ?_⟩ <;> decide +kernel

/-- A sweep clears the expander's buffer where the launch was its last user, and leaves it where another was (Table 18-6). -/
theorem test_sweep_factors :
    after (exec (.sweepComplete 0) (sSweep.modStall 0 (fun y => { y with factors := [(0, [1])], factorsBy := some 0 })))
      (fun t => (t.stall 0).factors == []) ∧
    after (exec (.sweepComplete 0) (sSweep.modStall 0 (fun y => { y with factors := [(0, [1])], factorsBy := some 1 })))
      (fun t => (t.stall 0).factors == [(0, [1])]) := by
  refine ⟨?_, ?_⟩ <;> decide +kernel

theorem test_sweep_results :
    after (exec (.sweepComplete 0) sSweep) (fun t => t.bays == [(2 ^ 22, seven)] && t.tokens == [] && (t.launch? 0).map (·.sweeping) == some [1]) ∧
    after (exec (.sweepTimeout 0) sSweep) (fun t => t.health.out.getLsbD (sSweep.pstall 0)) := by
  refine ⟨?_, ?_⟩ <;> decide +kernel

/-! ### Channels, controllers, the Packer -/

/-- A transfer of context 0 of stall 0. -/
def xf (k : XKind) (d s1 : BitVec 512) : Xfer :=
  { serial := 2, ctx := 0, launch := 0, pc := 0, kind := k, d := d, s1 := s1, s2 := 0, gval := 0, opts := 0, rows := [], srcHost := none, dstHost := none,
    walk := none, pairs := [], data := none, begun := true, written := false, wrote := 0, zeros := 0, enc := none, msg := 0, coll := none, step := 0,
    fwd := none }

/-- Channel 7 of stall 0 performs it, with these registers and bytes of memory besides. -/
def sX (x : Xfer) (regs : Tab W64) (bytes : List (Nat × Byte)) : State :=
  let t := live (with0 cT) []
  let y := t.stall 0
  { t with regs := t.regs ++ regs, mem := { t.mem with bytes := bytes ++ t.mem.bytes },
           stalls := t.stalls.setIfInBounds 0 { y with chans := y.chans.setIfInBounds 7 { Chan.reset with xfers := [x] } } }

/-- Bytes placed from an address. -/
def bytesAt (a : Nat) (bs : List Byte) : List (Nat × Byte) := bs.zipIdx.map (fun x => (a + x.2, x.1))

/-- A copy from the bays of stall 1, and the words that it reads. -/
def xRemote : Xfer := xf .copy (td 0x800 1 1 0 0 2 0) (td 0x900 (2 + 256) 1 0 0 2 0)
def dRemote : TDesc := { bt 0x900 ⟨.plain, .fp32⟩ 0 2 with loc := 2, stall := 1 }
def sRemote : State := { State.modStall (sX xRemote [] []) 1 (fun x => { x with pwr := .active }) with bays := [(2 ^ 22 + 0x900, seven)], rewrites := [(2 ^ 22 + 0x900, seven)] }

/-- The same with an uncorrectable word, and a copy into the bays of stall 1 whose data has come. -/
def sRemoteBad : State := { sRemote with bays := [(2 ^ 22 + 0x900, seven ^^^ 3)], rewrites := [] }
def xOut : Xfer := { xf .copy (td 0x900 (2 + 256) 1 0 0 2 0) (td 0x800 1 1 0 0 2 0) with data := some (.codes [(7, none), (0, none)]) }
def sOut : State := State.modStall (sX xOut [] []) 1 (fun x => { x with pwr := .active })

set_option maxRecDepth 100000 in
theorem test_witness_BayAndChannelEvents :
    sRemote.canonical ∧ sRemote.rewrites[0]? = some (2 ^ 22 + 0x900, seven) ∧ sRemoteBad.rewrites[0]? = none ∧
    ((sRemote.chanOf 0 7).xfers ≠ [] ∧ (sRemote.chanOf 0 6).xfers = [] ∧ (sRemote.stall 1).pwr = .active ∧
      (dRemote.dataOf (sRemoteBad.bayRuns 1 dRemote).2).flag ≠ none) ∧
    ((sOut.chanOf 0 7).actor? = some xOut ∧ TDesc.parse (sOut.stallsOf 0) xOut.d = some dRemote ∧ (XData.codes [(7, none), (0, none)]).flag = none ∧
      (match sOut.xferStore 0 xOut dRemote (.codes [(7, none), (0, none)]) with | .ok _ => true | .error _ => false) = true) ∧
    ((sRemote.chanOf 0 7).actor? = some xRemote ∧ sRemote.launch? 0 = some run0 ∧ TDesc.parse (sRemote.stallsOf 0) xRemote.s1 = some dRemote ∧
      TDesc.parse (sRemote.stallsOf 0) xRemote.d = some { d7 with base := 0x800 } ∧ sRemote.cover 0 0 (.port 7) [] = .held ∧
      sideOf dRemote none = .remote ∧ dRemote.dataOf (sRemote.bayRuns 1 dRemote).2 = .codes [(7, none), (0, none)]) ∧
    (sRemote.bayRuns 1 dRemote).1 = sRemote := by
  refine ⟨by unfold State.canonical; decide +kernel, ?_, ?_, ?_, ?_, ?_, rfl⟩ <;> decide +kernel

theorem test_remote_read :
    after (exec (.remoteBayRequest 0 7 []) sRemote)
      (fun t => ((t.chanOf 0 7).xfers.map (·.data)) == [some (.codes [(7, none), (0, none)])]) = true ∧
    after (exec (.remoteBayRequest 0 7 []) sRemoteBad) (fun t => (t.launch? 0).map (·.faulted) == some true) = true ∧
    after (exec (.remoteBayRequest 0 7 []) sOut) (fun t => t.bayWord (2 ^ 22 + 0x900) == seven && (t.chanOf 0 7).xfers.map (·.written) == [true]) = true ∧
    after (exec (.porterStarvation 0 7) sRemote) (fun t => (t.chanOf 0 7).starving) = true := by
  refine ⟨?_, ?_, ?_, ?_⟩ <;> decide +kernel

/-- A request that a controller has still to serve, in memory whose bytes 0x100 and on begin 5, 0, 0, 0. -/
def sServe (k : MemKind) : State :=
  let t := sReq k none
  { t with mem := { t.mem with bytes := [(0x100, 5), (0x200000, 3)], atomicBuf := [memKey 3 64 / 64] } }

set_option maxRecDepth 100000 in
theorem test_witness_MemoryServes :
    (∀ k ∈ [MemKind.load 3, .loadT 15, .store [1, 2, 3, 4, 5, 6, 7, 8], .atom .addI32 3 9 0],
      (sServe k).req? 3 = some (req k none) ∧ (sServe k).reqBlocked (req k none) = false ∧ (sServe k).canonical) ∧
    ((sServe (.load 3)).pair.state = .independent ∧ (sServe (.load 3)).linePoison 0 0x100 = false ∧
      (sServe (.load 3)).countsIn 0 0x100 4 = []) ∧
    bayDecode (bayEncode (BitVec.ofNat 32 (leNat (([1, 2, 3, 4, 5, 6, 7, 8] : List Byte).drop (4 * 1) |>.take 4))) ^^^ 3) = .poisoned := by
  unfold State.canonical
  refine ⟨?_, ?_, ?_⟩ <;> decide +kernel

theorem test_served :
    after (exec (.memoryRead (some ⟨3, none⟩) 0 0x100 .good .good .good) (sServe (.load 3)))
      (fun t => (t.req? 3).bind (·.served) == some ⟨[5, 0, 0, 0, 0, 0, 0, 0], false, false⟩) ∧
    after (exec (.memoryWrite ⟨3, none⟩) (sServe (.store [1, 2, 3, 4, 0, 0, 0, 0])))
      (fun t => t.mem.bytes == [(0x100, 1), (0x101, 2), (0x102, 3), (0x103, 4), (0x200000, 3)] && t.req? 3 == none) ∧
    after (exec (.memoryAtomic 3 .good) (sServe (.atom .addI32 3 9 0)))
      (fun t => t.mem.bytes == [(0x100, 14), (0x200000, 3)] && ((t.req? 3).bind (·.served)).map (·.bytes) == some [5, 0, 0, 0]) ∧
    after (exec (.memoryWrite ⟨3, some ⟨.controller, 0, 1, 3⟩⟩) (sServe (.store [1, 2, 3, 4, 0, 0, 0, 0]))) (fun t => t.linePoison 0 0x100) := by
  refine ⟨?_, ?_, ?_, ?_⟩ <;> decide +kernel

theorem test_witness_ControllerAndStackEvents :
    ((sServe (.load 3)).mem.atomicBuf.find? (fun k => k / 2 ^ 29 == (3 : UnitId).val) = some (memKey 3 64 / 64) ∧
      (sServe (.load 3)).mem.pwr[3]? = some .active ∧ (sServe (.load 3)).unitOff 3 = false ∧ (sServe (.load 3)).mem.patrol[3]? = some 0 ∧
      (∀ r ∈ (sServe (.load 3)).mem.reqs, r.place.unit ≠ 3)) ∧
    (State.reset.stack 0 = Stack.reset ∧ ∀ p : Fin 24, (State.reset.pitch p).state = .off) := by
  refine ⟨?_, ?_⟩ <;> decide +kernel

set_option maxRecDepth 100000 in
theorem test_stack_steps :
    after (exec (.stackTempReport 2 (86 * 8)) State.reset) (fun t => (t.stack 2).step == 1) ∧
    after (exec (.stackTempReport 2 (105 * 8)) State.reset) (fun t => (t.stack 2).step == 3 && (t.stack 2).off && !(t.stack 3).off) := by
  refine ⟨?_, ?_⟩ <;> decide +kernel

theorem test_witness_UncorrectableLine :
    (sServe (.load 3)).canonical ∧ 0x140 < (sServe (.load 3)).unitC 0 ∧ (sServe (.load 3)).unitOff 0 = false ∧ (sServe (.load 3)).regionAt 0 0x140 = none := by
  unfold State.canonical
  refine ⟨?_, ?_, ?_, ?_⟩ <;> decide +kernel

theorem test_uncorrectable :
    after (exec (.memoryRead none 0 0x100 .bad .good .good) (sServe (.load 3)))
      (fun t => t.linePoison 0 0x100 && t.mem.bytes == [(0x200000, 3)]) := by decide +kernel

/-- An FB copy of one segment: its trailer by Table 2-3, whose CRC lies over 4,096 zeros and the trailer's first 28 bytes. -/
def xPair : Xfer := xf .copy (td 0x4000 0 0x20 0 0x8000 32 0) (td 0x10000 0 0x20 0 0x20000 32 0)
def segBytes : List Byte := [0, 0, 0x20, 1, 0, 0, 0, 0, 32] ++ List.replicate 19 0
def recBytes : List Byte := [0, 0, 0x20, 0, 0, 0, 0, 0, 0x80, 0x3F]
def gPair : SegPair := ⟨List.replicate 4096 0, segBytes ++ [0x68, 0x9D, 0x80, 0xA7], recBytes ++ List.replicate 158 0⟩
def aPair : TDesc := { dv d2 0x10000 with sbase := 0x20000 }
def sPair : State :=
  sX xPair [] [(0x11002, 0x20), (0x11003, 1), (0x11008, 32), (0x1101C, 0x68), (0x1101D, 0x9D), (0x1101E, 0x80), (0x1101F, 0xA7), (0x20002, 0x20),
    (0x20008, 0x80), (0x20009, 0x3F)]

/-- One bit of the CRC on numbers. -/
def crcBitN (a : Nat) : Nat := if a % 2 = 1 then (a / 2) ^^^ 0xEDB88320 else a / 2

/-- The bits of a byte, and bytes, of the CRC with each register worked out before the next. -/
def crcBits : Nat → Nat → Nat
  | 0, a => a
  | n + 1, a => match crcBitN a with
    | 0 => crcBits n 0
    | k + 1 => crcBits n (k + 1)
def crcGo : List Byte → Nat → Nat
  | [], a => a
  | b :: bs, a => match crcBits 8 (a ^^^ b.toNat) with
    | 0 => crcGo bs 0
    | k + 1 => crcGo bs (k + 1)

theorem crcBitN_eq (c : W32) : (crcBit c).toNat = crcBitN c.toNat := by
  unfold crcBit crcBitN
  have h : c.getLsbD 0 = decide (c.toNat % 2 = 1) := by simp [BitVec.getLsbD, Nat.testBit_zero]
  rw [h]; by_cases g : c.toNat % 2 = 1 <;> simp [g, Nat.shiftRight_eq_div_pow]

theorem crcBits_succ (n a : Nat) : crcBits (n + 1) a = crcBits n (crcBitN a) := by
  rw [crcBits]; split <;> simp_all

theorem crcBits_zero (a : Nat) : crcBits 0 a = a := rfl

theorem crcGo_cons (b : Byte) (bs : List Byte) (a : Nat) : crcGo (b :: bs) a = crcGo bs (crcBits 8 (a ^^^ b.toNat)) := by
  rw [crcGo]; split <;> simp_all

theorem crcGo_eq (bs : List Byte) (c : W32) : (bs.foldl crcByte c).toNat = crcGo bs c.toNat := by
  induction bs generalizing c with
  | nil => rfl
  | cons b bs ih =>
    rw [crcGo_cons, List.foldl_cons, ih]
    have : (crcByte c b).toNat = crcBits 8 (c.toNat ^^^ b.toNat) := by
      have h : c.toNat ^^^ b.toNat = (c ^^^ b.zeroExtend 32).toNat := by
        have := b.isLt
        rw [BitVec.toNat_xor, BitVec.toNat_setWidth, Nat.mod_eq_of_lt (by omega)]
      rw [h]; simp only [crcByte, crcBits_succ, crcBits_zero, crcBitN_eq]
    rw [this]

set_option maxRecDepth 1000000 in
theorem crcGo_zero : crcGo (List.replicate 4096 0) 0xFFFFFFFF = 954466286 := by decide +kernel

theorem crc_of_segment : (crc32 (gPair.elems ++ gPair.trailer.take 28)).toNat = 0xA7809D68 := by
  have h : ((List.replicate 4096 (0 : Byte)).foldl crcByte 0xFFFFFFFF#32) = 0x38E3FFEE#32 := by
    apply BitVec.eq_of_toNat_eq; rw [crcGo_eq]; exact crcGo_zero
  have g : (crc32 (gPair.elems ++ gPair.trailer.take 28)) = segBytes.foldl crcByte 0x38E3FFEE#32 ^^^ 0xFFFFFFFF#32 := by
    unfold crc32; rw [List.foldl_append, ← h]; rfl
  rw [g]; decide +kernel

theorem gPair_passes : gPair.fails aPair.fmt.el (aPair.want 0 0) = none := by
  unfold SegPair.fails; simp only []; rw [crc_of_segment]; decide +kernel

/-- A message that has been answered. -/
def xSent : Xfer := { xf .send (td 0x1000 0 2 0 0 32 0) 0 with written := true, wrote := 64 }

set_option maxRecDepth 100000 in
theorem test_witness_PorterEvents :
    ((sPair.chanOf 0 7).actor? = some xPair ∧ TDesc.parse (sPair.stallsOf 0) xPair.s1 = some aPair ∧
      (TDesc.parse (sPair.stallsOf 0) xPair.d).isSome = true ∧ sPair.pkSrc 0 aPair = .none ∧ aPair.segments = 1) ∧
    sPair.readPair 0 (some 0) aPair.fmt.el aPair.base aPair.sbase 0 = .got gPair ∧ gPair.fails aPair.fmt.el (aPair.want 0 0) = none ∧
    (OneEach sPair 0 7 ∧ OneEach (sX xSent [] []) 0 7) ∧ xSent.opt 5 5 = 0 ∧ ((sX xSent [] []).chanOf 0 7).xfers = [xSent] := by
  unfold OneEach
  refine ⟨?_, ?_, gPair_passes, ?_, ?_, ?_⟩ <;> decide +kernel

theorem test_porter_events :
    after (exec (.porterTransferComplete 0 7 [] []) (sX xSent [] [])) (fun t => (t.chanOf 0 7).nXfers == 1 && (t.chanOf 0 7).nBytes == 64) := by
  decide +kernel

/-- A page list by Table 9-2: epoch 7, 32 rows in pages of 32, one layer and head of dimension 32 in FB FP8, frames of two pages at
0x100000 and of one at 0x80000; the entry of its page, and the page's scale frame. -/
def hdrBytes : List Byte :=
  [0, 0, 0, 0, 7, 0, 0, 0, 32, 0, 0, 0, 4, 0, 0, 0, 1, 0x20, 9, 0, 1, 0, 1, 1] ++ [0, 0, 0x10, 0, 0, 0, 0, 0] ++ [0, 0, 8, 0, 0, 0, 0, 0] ++
  [2, 0, 0, 0, 1, 0, 0, 0] ++ List.replicate 16 0
def entBytes : List Byte := [3, 0, 0, 0, 2, 0, 0, 0xAB]
def frmBytes : List Byte := [9, 0, 0x20, 0xAB, 0, 0, 0, 0, 1, 0, 0, 0, 1] ++ List.replicate 51 0

/-- A key walk of it: 64 rows by 256 columns into the bays. -/
def wNew : Walk := ⟨0x40000#64, [], [], [], 0, [], false⟩
def wHead : Walk := ⟨0x40000#64, hdrBytes, [0], [leNat entBytes], 0, [], false⟩
def xWalk (w : Walk) : Xfer := { xf .walk (td 0x100 1 0x20 1 0x4000 64 256) 0 with walk := some w }
def sWalk (w : Walk) : State := sX (xWalk w) [] (bytesAt 0x40000 hdrBytes ++ bytesAt 0x40040 entBytes ++ bytesAt 0x82000 frmBytes)
def wDone : Walk := { wHead with checked := 1, got := [⟨0, [], []⟩] }

set_option maxRecDepth 100000 in
theorem test_witness_PageWalkEvents :
    (∀ w ∈ [wNew, wHead, wDone], (sWalk w).frontWalk 0 7 = some (xWalk w, w, run0) ∧ OneEach (sWalk w) 0 7) ∧
    ((sWalk wNew).readDev 0 (some 0) 0x40000 64 = .ok hdrBytes ∧ (TDesc.parse ((sWalk wNew).stallsOf 0) (xWalk wNew).d).map (fun d =>
        some d.fmt == plFmt hdrBytes && d.extent 0 == plDim hdrBytes + 32 && d.extent 1 == 256) = some true ∧ plOk hdrBytes = true ∧
      (sWalk wNew).inRegion 0 0x40000 64 = false ∧ (sWalk wNew).readDev 0 (some 0) 0x40040 8 = .ok entBytes) ∧
    (plScale hdrBytes (leNat entBytes) = 0x82000 ∧ (sWalk wHead).readDev 0 (some 0) 0x82000 64 = .ok frmBytes ∧ plTag hdrBytes = 9 ∧
      bits (leNat entBytes) 63 56 = 0xAB ∧ plSegs hdrBytes ⟨.fb, .fp8e4m3⟩ = 1 ∧ zeroAt frmBytes 13 51 = true) ∧
    (sWalk wDone).readDev 0 (some 0) 0x40004 4 = .ok [7, 0, 0, 0] := by
  unfold OneEach
  refine ⟨?_, ?_, ?_, ?_⟩ <;> decide +kernel

theorem test_walk_events :
    after (exec (.pageWalkHeaderRead 0 7) (sWalk wNew)) (fun t => (t.chanOf 0 7).xfers == [xWalk wHead]) ∧
    after (exec (.scaleFrameCheck 0 7) (sWalk wHead)) (fun t => (t.chanOf 0 7).xfers == [xWalk { wHead with checked := 1 }]) ∧
    after (exec (.pageWalkEpochRead 0 7) (sWalk wDone)) (fun t => (t.chanOf 0 7).xfers == [xWalk { wDone with closed := true }]) := by
  refine ⟨?_, ?_, ?_⟩ <;> decide +kernel

/-- Region 0 of VF 1 holds ZRUN units, with encoding writes, at 0x40000, their headers at 0x50000; region 1 ENT units at 0x60000; region 2
factor sets at 0x70000; the table area, of 64 slots that are all building, lies at 0x80000. -/
def regP : Tab W64 :=
  [(regKey 1 (offPkr 0), 0x40032#64), (regKey 1 (offPkr 0 + 8), 0x40000#64), (regKey 1 (offPkr 0 + 16), 0x50000#64),
   (regKey 1 (offPkr 1), 0x60034#64), (regKey 1 (offPkr 1 + 8), 0x60000#64), (regKey 1 (offPkr 1 + 16), 0x52000#64),
   (regKey 1 (offPkr 2), 0x70026#64), (regKey 1 (offPkr 2 + 8), 0x70000#64), (regKey 1 (offPktbl), 0x80002#64)]

/-- A BF16 tensor of 32 packed as ZRUN: element 31 alone is not zero. -/
def zHead : List Byte := [10, 0, 64, 0, 1, 1] ++ List.replicate 10 0
def zRun : List Byte := [0, 0, 0, 0x80, 0, 0, 0, 0, 0x80, 0x3F]
def xZrun : Xfer := xf .copy (td 0x1000 0 2 0 0 32 0) (td 0x40000 0 2 0 0 32 0)
def sZrun : State := sX xZrun regP (bytesAt 0x50000 zHead ++ bytesAt 0x40000 zRun)

/-- A factor set of rank 1 for a BF16 tensor of two by two: U is (1, 2), V is (1, 3). -/
def lHead : List Byte :=
  [8, 0, 0, 0, 8, 0, 0, 0, 3, 1, 0, 0, 0, 0, 0, 0, 2, 0, 0, 0, 2, 0, 0, 0] ++ [0, 0, 1, 0, 0, 0, 0, 0] ++ [0, 1, 1, 0, 0, 0, 0, 0] ++ List.replicate 24 0
def xLowr : Xfer := xf .copy (td 0x1000 0 2 1 0 2 2) (td 0x70000 0 2 1 0 2 2)
def sLowr : State := sX xLowr regP (bytesAt 0x70000 lHead ++ bytesAt 0x10000 [0x80, 0x3F, 0, 0x40] ++ bytesAt 0x10100 [0x80, 0x3F, 0x40, 0x40])

/-- An encoding write of BF16 zeros into the ENT region, whose table area has no free slot. -/
def xEnc : Xfer := xf .copy (td 0x60000 0 2 0 0 32 0) (td 0x1000 0 2 0 0 32 0)
def sEnc : State := sX xEnc regP ((List.range 64).map (fun i => (0x80003 + 1024 * i, 1)))

/-- A table of that write is being built in slot 0; and a block of stall 0 waits for the table of slot 1. -/
def uBuild : EntUse := { launch := 0, stall := 0, unit := 7, pitch := 0, slot := 0, building := true }
def uLoad : EntUse := { launch := 0, stall := 0, unit := 7, pitch := 0, slot := 1, building := false }
def sUse (u : EntUse) : State :=
  let t := sX { xEnc with enc := some ⟨some 0, 1, List.replicate 256 8, false⟩ } regP [(0x80003, 1), (0x80400, 5), (0x80402, 6), (0x80403, 2)]
  { t with mem := { t.mem with entUse := [u] } }

set_option maxRecDepth 100000 in
theorem test_witness_PackerEvents :
    (∀ s ∈ [sZrun, sLowr, sEnc, sUse uBuild, sUse uLoad], OneEach s 0 7 ∧ s.launch? 0 = some run0) ∧
    ((sZrun.chanOf 0 7).actor? = some xZrun ∧ (TDesc.parse (sZrun.stallsOf 0) xZrun.s1) = some (dv d1 0x40000) ∧
      (TDesc.parse (sZrun.stallsOf 0) xZrun.d).isSome = true ∧ sZrun.pkSrc 0 (dv d1 0x40000) = .unit 0 ∧ (dv d1 0x40000).units (sZrun.pkrSeg 0 0) = 1) ∧
    ((sLowr.chanOf 0 7).actor? = some xLowr ∧ (TDesc.parse (sLowr.stallsOf 0) xLowr.s1).map (fun a =>
        sLowr.pkSrc 0 a == .lowr 2 && a.loc == 0 && match sLowr.lowrRead (xLowr.reader 0 7) 0 (some 0) a with
          | .ok h => !h.base && (match sLowr.expand (xLowr.reader 0 7) 0 (some 0) 9 h a (List.range 2) 0 2 (List.range h.b.segments) with
            | .ok w => !w.nonfin
            | .error _ => false)
          | .error _ => false) = some true) ∧
    ((sEnc.chanOf 0 7).actor? = some xEnc ∧ TDesc.parse (sEnc.stallsOf 0) xEnc.s1 = some d6 ∧
      TDesc.parse (sEnc.stallsOf 0) xEnc.d = some (dv d1 0x60000) ∧ sEnc.pkDst 0 (dv d1 0x60000) = .unit 1 ∧ sEnc.pkrCodec 0 1 = 2 ∧
      (match sEnc.xferFetch 0 xEnc d6 [] [] with | .got _ _ => true | _ => false) = true ∧ sEnc.tableActive 0 = true ∧ sEnc.slotFirstFree 0 = none ∧
      sideOf d6 xEnc.srcHost ≠ .host ∧ sEnc.writeHeld 0 (some (dv d1 0x60000)) = false) ∧
    ((sUse uBuild).useOf 0 7 = some uBuild ∧ ((sUse uBuild).chanOf 0 7).actor?.map (fun x => x.enc.isSome) = some true ∧
      (sUse uLoad).slotId 0 1 = 5 ∧ (sUse uLoad).slotGen 0 1 = 6 ∧ ((sUse uLoad).stall 0).entHeld = []) := by
  unfold OneEach
  refine ⟨?_, ?_, ?_, ?_, ?_⟩ <;> decide +kernel

/-- Unit 0 of the ZRUN tensor decodes to 62 zero bytes and the one value. -/
theorem test_zrun_unit :
    (match sZrun.decodeUnit (xZrun.reader 0 7) 0 0 (some 0) (dv d1 0x40000) 0 none with
      | .got _ g => (g.elems.drop 60, g.elems.length)
      | _ => ([], 0)) = ([0, 0, 0x80, 0x3F], 64) := by decide +kernel

theorem test_packer_events :
    after (exec (.factorExpandTile 0 7) sLowr)
      (fun t => (t.chanOf 0 7).xfers.map (·.data) == [some (.codes [(0x3F80, none), (0x4000, none), (0x4040, none), (0x40C0, none)])]) ∧
    after (exec (.encodedWritePass 0 7 []) sEnc) (fun t => (t.chanOf 0 7).xfers.map (·.enc) == [some ⟨none, 0, [], true⟩]) ∧
    after (exec (.entDecoderTableLoad 0) (sUse uLoad)) (fun t => (t.stall 0).entHeld == [(5, 6)]) := by
  refine ⟨?_, ?_, ?_⟩ <;> decide +kernel
/-! ### Front end -/

/-- Pitch 0 has group 0 of VF 1, four slots, fences 16 to 31 whose words lie from 0x1000 on in a fence area in force, and RESYNC
blocks; its SQ 7 (an admin SQ or not) holds a head, its CQ is 8, SQ 9 is idle, and SQ 7 is resident in slot 0. -/
def sq7 (admin : Bool) (ds : List Desc) : Queue := { Queue.blank with admin := admin, fn := 1, cq := 8, base := 0x9000, descs := ds, newest := 5 }
def cq8 : Queue := { Queue.blank with isCq := true, fn := 1, base := 0xA000, status := 0xB000 }
def sq9 : Queue := { Queue.blank with fn := 1, cq := 8, status := 0xB040, newest := 3 }
def slot0 : Slot := { Slot.free with queue := some 7 }
def regF : Tab W64 :=
  [(regKey 0 (offXlat 0), 0x0001000000200000#64), (regKey 0 (offFrange 0), 0x100010#64), (regKey 0 (offSlots 0), 4), (regKey 0 (offPcfg 0), 0x1000001#64),
   (regKey 0 (offBgrp 0), 0x21), (regKey 1 offFnArea, 0x1003#64)]
def sF (x : Queue) : State :=
  { base with
    regs := regF,
    fe := { base.fe with st := .busy, queues := [(7, x), (8, cq8), (9, sq9)], fences := [(17, ⟨7, 4, none⟩)],
                         slots := base.fe.slots.setIfInBounds 0 slot0 } }

/-- A head of five fields: opcode and flags, HSEQ 5, and a body. -/
def dsc (op : Byte) (body : List Byte) : Desc := fetched 5 ([op, 0, 0, 0, 5, 0, 0, 0] ++ body)

/-- SQ 7 with that head. -/
def sH (admin : Bool) (op : Byte) (body : List Byte) : State := sF (sq7 admin [dsc op body])

/-- A head meets what its statement asks. -/
def headsB (s : State) (op : Nat) : Bool :=
  match s.headAt 7 with
  | some (x, d) => (s.headFails x d).isNone && d.op == op && s.mayStart 7 x
  | none => false

theorem headsB_spec {s : State} {op : Nat} (h : headsB s op = true) : ∃ x d, Heads s 7 op x d := by
  unfold headsB at h
  split at h
  · rename_i x d e; simp only [Bool.and_eq_true, Option.isNone_iff_eq_none, beq_iff_eq] at h; exact ⟨x, d, e, h.1.1, h.1.2, h.2⟩
  · exact absurd h (by decide)

/-- Where FK time has been read 40 ns or more ahead of the clock, a reading gives that time again. -/
theorem now_floor {s : State} (h : s.clk.time.toNat + 40 ≤ s.clk.floor.toNat) (g : s.clk.floor.toNat < 2 ^ 63) : s.now = s.clk.floor := by
  unfold State.now
  have k : Config.fineNs s.free % 40 < 40 := Nat.mod_lt _ (by decide)
  have e : (s.clk.time + BitVec.ofNat 64 (Config.fineNs s.free % 40)).toNat = s.clk.time.toNat + Config.fineNs s.free % 40 := by
    rw [BitVec.toNat_add, BitVec.toNat_ofNat]; omega
  simp only []
  split
  · rw [if_neg (by rw [BitVec.toNat_sub, e]; omega)]
  · rw [if_neg (by rw [BitVec.toNat_sub]; omega)]

/-- The front end with its state and pending bells. -/
def sC (st : FeState) (pend : BitVec 64) : State := { sF (sq7 false []) with fe := { (sF (sq7 false [])).fe with st := st, pendMask := pend } }

/-- Group 0 had something new at 200 ms. -/
def sActive : State :=
  let s := sC .busy 0
  { s with clk := { s.clk with time := 100000000, floor := 200000000 }, fe := { s.fe with lastNew := [(0, 200000000)] } }

/-- Pitch 0 resets meanwhile. -/
def sClosed : State :=
  let s := sC .busy 0
  { s with fe := { s.fe with pitches := s.fe.pitches.setIfInBounds 0 { Pitch.reset with state := .resetting } } }

theorem test_witness_CallerEvents :
    ((sC .busy 0).groupOpen 0 = true ∧ sClosed.fnServes 1 = true ∧ sClosed.groupFn 0 = some 1 ∧ sClosed.fe.st = .busy ∧ sClosed.groupOpen 0 = false ∧
      sClosed.fe.pendMask = 0) ∧
    ((sC .asleep 0).fnServes 1 = true ∧ (sC .asleep 0).mem.reqs = [] ∧ (sC .asleep 0).groupFn 0 = some 1 ∧ (sC .asleep 0).fe.st = .asleep) ∧
    ((sC .busy 0).groupFn 0 = some 1 ∧ (sC .busy 0).dieDown = false ∧ (sC .busy 0).fe.reading.getLsbD 0 = false ∧ (sC .busy 0).groupFn 5 = none) ∧
    ((sC .asleep 1).dieDown = false ∧ (sC .asleep 1).fe.pendMask ≠ 0) ∧
    ((sC .busy 0).awake = true ∧ { (sC .busy 0) with fe := { (sC .busy 0).fe with reading := 1 } }.fe.reading.getLsbD 0 = true) ∧
    sActive.groupActive 0 = true ∧
    ((sC .busy 0).feBusy = false ∧ (∀ g : Fin 64, (sC .busy 0).groupActive g = false) ∧ (sC .busy 0).fe.foundNew = false) ∧
    ((sC .check 0).dieDown = false ∧ (sC .check 0).fe.wake = false) := by
  refine ⟨?_, ?_, ?_, ?_, ?_, ?_, ?_, ?_⟩ <;> first | decide +kernel | skip
  show decide (sActive.now.toNat ≤ _) = true
  rw [now_floor (by decide +kernel) (by decide +kernel)]; decide +kernel

theorem test_bells_and_scans :
    after (exec (.bellWrite 1 0 4 0) sClosed) (fun t => t.fe.reading == 0 && t.fe.pendMask == 1) ∧
    (sC .busy 0).entryAt 1 5 = 40 ∧
    after (exec (.bellWrite 1 0 4 0) (sC .busy 0)) (fun t => t.fe.reading == 1 && t.fe.pendMask == 0) ∧
    after (exec (.bellWrite 1 0 4 5) (sC .busy 0)) (fun t => t.fld 1 offAccErr 15 0 == 1 && t.fe.reading == 0) ∧
    after (exec .frontEndIdleCheck (sC .check 0)) (fun t => t.fe.st == .asleep) := by
  refine ⟨?_, ?_, ?_, ?_, ?_⟩ <;> decide +kernel

/-- SQ 9 has had three descriptors; its entry tells of two more, of as many with a wrong index, or of none; CQ 8 has had two records. -/
def sD : State := let s := sC .busy 0; { s with fe := { s.fe with queues := [(7, sq7 false []), (8, { cq8 with newest := 2 }), (9, { sq9 with nextIdx := 3 })] } }

theorem test_witness_DoorbellEntries :
    (sD.queue? 9 = some { sq9 with nextIdx := 3 } ∧ sD.queueOpen sq9 = true) ∧
    (sD.queue? 8).map (·.isCq) = some true ∧ ((sD.scanEntry 9 0x1000500000005).queue? 9).map (·.reason) = some 0x11 ∧
    ((sD.scanEntry 9 0x500000005).queue? 9).map (·.toFetch) = some 2 ∧ ((sD.scanEntry 9 0x700000005).queue? 9).map (·.reason) = some 0x11 ∧
    ((sD.scanEntry 9 0x300000003).queue? 9).map (·.toFetch) = some 0 ∧ ((sD.scanEntry 8 0x200000002).queue? 8).map (·.consumed) = some 2 := by
  refine ⟨?_, ?_, ?_, ?_, ?_, ?_, ?_⟩ <;> decide +kernel

/-- SQ 9 may fetch one descriptor of its ring; CQ 8 has a record that waits; and the pitch block of pitch 0 is on. -/
def sQ : State :=
  let s := sC .busy 0
  { s with
    regs := [(regKey 0 (offXlat 0), 0x0001000000200000#64), (regKey 0 (offFrange 0), 0x100010#64), (regKey 0 (offSlots 0), 4),
      (regKey 0 (offPcfg 0), 0x1000001#64), (regKey 0 (offBgrp 0), 0x21), (regKey 1 offPsb, 0xC001#64)],
    fe := { s.fe with queues := [(7, sq7 false []), (8, { cq8 with waiting := [⟨9, 3, 0, 0, 0, none⟩], dirty := true }), (9, { sq9 with toFetch := 1 })] } }

/-- SQ 9 waits for a slot, which SQ 7, blocked on a fence, may have to give up; or SQ 7 alone runs in turns of one slot. -/
def dWait : Desc := { dsc 0x02 ([17, 0] ++ List.replicate 6 0 ++ [9]) with blocked := true }
def sS (given : BitVec 64) (slots : List (Nat × Slot)) (sched : BitVec 64) (d9 : List Desc) : State :=
  let s := sC .busy 0
  { s with
    clk := { s.clk with time := 100000000, floor := 200000000 },
    regs := [(regKey 0 (offXlat 0), 0x0001000000200000#64), (regKey 0 (offFrange 0), 0x100010#64), (regKey 0 (offSlots 0), given),
      (regKey 0 (offPcfg 0), 0x1000001#64), (regKey 0 (offBgrp 0), 0x21), (regKey 1 offSched, sched)],
    fe := { s.fe with queues := [(7, sq7 false [dWait]), (8, cq8), (9, { sq9 with descs := d9 })],
                      slots := slots.foldl (fun v x => v.setIfInBounds x.1 x.2) (Vector.replicate 64 Slot.free) } }

/-- The callers sleep; or both SQs want the one slot in turns. -/
def asleep (s : State) : State := { s with fe := { s.fe with st := .asleep } }
def sTurns : State := sS 1 [(0, slot0)] 1 [dsc 0 []]

theorem test_witness_SlotWakes :
    (let s := asleep (sS 1 [(0, slot0)] 0 [dsc 0 []])
     s.fe.st = .asleep ∧ s.dieDown = false ∧ s.pairIdle = false ∧ s.tidy.slotOf 0 = slot0 ∧ s.tidy.slotsGiven 0 ≤ (s.tidy.slotsHeld 0).length ∧
       s.tidy.nextResident 0 ≠ none ∧ (s.tidy.lowestSlot 0 Cond.isBlocked).map (·.1) = some 0) ∧
    (let s0 := sTurns.tidy
     sTurns.awake = true ∧ s0.slotOf 0 = slot0 ∧ s0.rotates 0 = true ∧ s0.nextResident 0 ≠ none) ∧
    ((sTurns.tidy.slotOf 0).since.toNat + max 50000 (ceilDiv (sTurns.tidy.slice 0 * (sTurns.tidy.eff 7 + 1) * 1000) 8) ≤ sTurns.tidy.now.toNat) := by
  refine ⟨?_, ?_, ?_⟩ <;> first | decide +kernel | skip
  rw [now_floor (by decide +kernel) (by decide +kernel)]; decide +kernel

theorem test_witness_QueueAndSlotEvents :
    ((sQ.queue? 9) = some { sq9 with toFetch := 1 } ∧ sQ.awake = true ∧ sQ.queueOpen sq9 = true ∧ fieldAt ([0, 0, 0, 0, 4, 0, 0, 0]) 4 4 = 4) ∧
    ((sQ.recordDue 8).map (fun e => e.2.sq) = some 9 ∧ sQ.pair.state = .independent ∧ sQ.pair.heldOut = [] ∧ sQ.dieDown = false) ∧
    ((sQ.pitch 0).state ≠ .off ∧ sQ.inFlight 0 = [] ∧ sQ.psbOn 0 = true) ∧
    (let s0 := (sS 1 [] 0 [dsc 0 []]).tidy
     (s0.queue? 9).map (fun x => s0.pitchOfFn x.fn) = some (some 0) ∧ s0.nextResident 0 = some 9 ∧ (s0.slotOf 0).queue = none ∧
       (s0.slotsHeld 0).length < s0.slotsGiven 0) ∧
    (let s0 := (sS 1 [(0, slot0)] 0 [dsc 0 []]).tidy
     s0.slotOf 0 = slot0 ∧ s0.slotsGiven 0 ≤ (s0.slotsHeld 0).length ∧ s0.nextResident 0 ≠ none ∧
       (s0.lowestSlot 0 Cond.isBlocked).map (·.1) = some 0) ∧
    (let s0 := (sS 1 [(0, { slot0 with queue := some 9 })] 1 [dsc 0 []]).tidy
     s0.slotOf 0 = { slot0 with queue := some 9 } ∧ s0.rotates 0 = true ∧ s0.nextResident 0 = none ∧
       (s0.slotOf 0).since.toNat + max 50000 (ceilDiv (s0.slice 0 * (s0.eff 9 + 1) * 1000) 8) ≤ s0.now.toNat) := by
  refine ⟨?_, ?_, ?_, ?_, ?_, ?_, ?_, ?_, ?_⟩ <;> first | decide +kernel | skip
  rw [now_floor (by decide +kernel) (by decide +kernel)]; decide +kernel

theorem test_queue_events :
    after (exec (.blockedSlotRelease 0) (asleep (sS 1 [(0, slot0)] 0 [dsc 0 []]))) (fun t => t.fe.wake && (t.slotOf 0).queue == some 7) ∧
    after (exec (.descriptorFetch 9 [[0, 0, 0, 0, 4, 0, 0, 0]]) sQ)
      (fun t => (t.queue? 9).map (fun y => (y.newest, y.nextIdx, y.toFetch, y.descs.length)) == some (4, 1, 0, 1)) ∧
    after (exec (.slotAssign 0 9) (sS 1 [] 0 [dsc 0 []])) (fun t => (t.slotOf 0).queue == some 9) ∧
    after (exec (.blockedSlotRelease 0) (sS 1 [(0, slot0)] 0 [dsc 0 []])) (fun t => (t.slotOf 0).queue == none) := by
  refine ⟨?_, ?_, ?_, ?_⟩ <;> decide +kernel

/-! ### Descriptors -/

theorem test_witness_HeadCompletes :
    ((sH false 0 []).queue? 7 = some (sq7 false [dsc 0 []]) ∧ (sq7 false [dsc 0 []]).desc? 5 = some (dsc 0 []) ∧ (dsc 0 []).finished = false ∧
      (sH false 0 []).queue? 8 = some cq8 ∧ ¬((dsc 0 []).quiet = true ∧ Status.ok = Status.ok)) ∧
    ((sH false 0x7F []).headAt 7).map (fun e => (sH false 0x7F []).headFails e.1 e.2) = some (some .badDescriptor) := by
  refine ⟨?_, ?_⟩ <;> decide +kernel

/-- Body of a WAIT or SIGNAL of fence 17; of a LAUNCH of the program at 0x4000 on stalls 0 and 1 with PARAM 0xAB and SEED 9, rows 0 to 9 of bay 0. -/
def bFence (v : Byte) : List Byte := [17, 0] ++ List.replicate 6 0 ++ [v]
def bLaunch : List Byte :=
  [0, 0x40, 0, 0, 0, 0] ++ [0xAB, 0, 0, 0, 0, 0] ++ List.replicate 6 0 ++ [3, 0, 0, 0, 0, 0] ++ [9, 0, 0, 0, 0, 0, 0, 0] ++
  [0, 0x90, 0] ++ [0xFF, 0x0F, 0] ++ [0xFF, 0x0F, 0] ++ [0xFF, 0x0F, 0]

/-- The launch before it may be placed, and in PLACE, with its program's header in memory. -/
def sLaunch (blocked : Bool) : State :=
  let s := sF (sq7 false [{ dsc 0x01 bLaunch with blocked := blocked }])
  { s with mem := { s.mem with bytes := [(0x4000, 0x49), (0x4001, 0x48), (0x4002, 0x4C), (0x4003, 0x4D), (0x4004, 1), (0x4008, 8), (0x200000, 3)] } }

/-- Fence 17 has a SIGNAL of 9 on its way. -/
def sSig : State := let s := sH false 0 []; { s with fe := { s.fe with fences := [(17, ⟨7, 4, some (7, 5, 9)⟩)] } }

/-- A launch whose parameter header, at 0x6000, says that it is to be skipped. -/
def bSkip : List Byte := bLaunch.take 12 ++ [0, 0x60, 0, 0, 0, 0] ++ bLaunch.drop 18
def sSkip : State :=
  let s := sF (sq7 false [{ dsc 0x01 bSkip with blocked := true }])
  { s with mem := { s.mem with bytes := [(0x6000, 1), (0x200000, 3)] } }

/-- The word of fence 17 is poisoned; and a SIGNAL of a fence that is not defined, whose SQ has no slot. -/
def pois (s : State) : State := { s with mem := { s.mem with poison := [(0x40, true)] } }
def sNoSlot : State :=
  let s := sH false 3 ([18, 0] ++ List.replicate 6 0 ++ [9])
  { s with fe := { s.fe with slots := base.fe.slots } }

set_option maxRecDepth 100000 in
theorem test_witness_LaunchAndFence :
    (headsB sSkip 0x01 = true ∧ (dsc 0x01 bSkip).phdr = 0x6000 ∧ (dsc 0x01 bSkip).ovr = none ∧ sSkip.maskFails 0 (dsc 0x01 bSkip).mask = none ∧
      sSkip.placeable (dsc 0x01 bSkip).mask (dsc 0x01 bSkip).shape (dsc 0x01 bSkip).allot = true ∧
      sSkip.firstToPlace 0 7 { dsc 0x01 bSkip with blocked := true } = true ∧
      sSkip.readDev 0 (some (dsc 0x01 bSkip).csr) 0x6000 64 = .ok (1 :: List.replicate 63 0)) ∧
    (headsB (pois (sH false 0x03 (bFence 9))) 0x03 = true ∧ (pois (sH false 0x03 (bFence 9))).fenceFails 0 7 (dsc 3 (bFence 9)) true = none ∧
      (pois (sH false 0x03 (bFence 9))).fenceWordFails 0 17 ≠ none) ∧
    ((sNoSlot.headAt 7).map (fun e => (sNoSlot.headFails e.1 e.2, e.2.op)) = some (none, 3) ∧
      sNoSlot.mayStart 7 (sq7 false []) = false ∧ sNoSlot.fenceFails 0 7 (dsc 3 ([18, 0] ++ List.replicate 6 0 ++ [9])) true ≠ none) ∧
    ((pois sSig).fence? 17 = some ⟨7, 4, some (7, 5, 9)⟩ ∧ (pois sSig).leads = false ∧ (pois sSig).fenceWordFails 0 17 ≠ none) := by
  refine ⟨?_, ?_, ?_, ?_⟩ <;> decide +kernel

set_option maxRecDepth 100000 in
theorem test_launch_and_fence :
    after (exec (.launchPlace 7) sSkip) (fun t => t.fe.launches.length == 0 && (t.queue? 8).map (·.waiting.map (·.cflags)) == some [4]) ∧
    after (exec (.signal 7) (pois (sH false 0x03 (bFence 9)))) (fun t => (t.fence? 17).map (·.value) == some 4 && (t.queue? 8).map (·.waiting.map (·.status)) == some [0x20]) ∧
    after (exec (.signal 7) sNoSlot) (fun t => (t.queue? 8).map (·.waiting.length) == some 1) ∧
    after (exec (.signalWriteVisible 17) (pois sSig)) (fun t => (t.fence? 17) == some ⟨7, 4, none⟩) := by
  refine ⟨?_, ?_, ?_, ?_⟩ <;> decide +kernel

set_option maxRecDepth 100000 in
theorem test_witness_ServiceDescriptors :
    (headsB (sH false 0x00 []) 0x00 = true ∧ headsB (sH false 0x02 (bFence 4)) 0x02 = true ∧ headsB (sH false 0x03 (bFence 9)) 0x03 = true ∧
      headsB (sLaunch false) 0x01 = true ∧ headsB (sLaunch true) 0x01 = true ∧ (sF (sq7 false [])).pitchOfFn 1 = some 0) ∧
    ((dsc 0x01 bLaunch).phdr = 0 ∧ (sLaunch false).maskFails 0 (dsc 0x01 bLaunch).mask = none) ∧
    ((sLaunch true).placeable (dsc 0x01 bLaunch).mask (dsc 0x01 bLaunch).shape (dsc 0x01 bLaunch).allot = true ∧
      (sLaunch true).firstToPlace 0 7 { dsc 0x01 bLaunch with blocked := true } = true ∧
      (match (sLaunch true).progHeader 0 0 0x4000 with | .ok x => x | .error _ => none) = some (0, 8) ∧ (sLaunch true).regionFails 0 0 = none ∧
      maskStalls (dsc 0x01 bLaunch).mask = [0, 1] ∧ (sLaunch true).freeSplit 1 0 = some (0, 0, 1)) ∧
    ((sH false 2 (bFence 4)).fenceFails 0 7 (dsc 2 (bFence 4)) false = none ∧ (sH false 3 (bFence 9)).fenceFails 0 7 (dsc 3 (bFence 9)) true = none ∧
      (sH false 3 (bFence 9)).fence? 17 = some ⟨7, 4, none⟩ ∧ (sH false 3 (bFence 9)).fenceWordFails 0 17 = none) ∧
    (sSig.fence? 17 = some ⟨7, 4, some (7, 5, 9)⟩ ∧ (sSig.queue? 7).isSome = true ∧ sSig.canonical ∧
      sSig.translate 0 none .write 0x1008 = .ok ⟨0, 0x1008, none, none⟩ ∧ sSig.linePoison 0 0x1008 = false) := by
  unfold State.canonical
  refine ⟨?_, ?_, ?_, ?_, ?_⟩ <;> decide +kernel

set_option maxRecDepth 100000 in
theorem test_service_descriptors :
    after (exec (.launchPlace 7) (sLaunch true)) (fun t => t.fe.launches.length == 1 && (t.ctxOf 1 0).getG 3 == 1 && (t.ctxOf 1 0).getG 1 == 0xAB) ∧
    after (exec (.wait 7) (sH false 2 (bFence 4))) (fun t => (t.queue? 8).map (·.waiting.map (·.status)) == some [0]) ∧
    after (exec (.signal 7) (sH false 3 (bFence 2))) (fun t => (t.queue? 8).map (·.waiting.map (·.status)) == some [0x11]) ∧
    after (exec (.signalWriteVisible 17) sSig) (fun t => (t.fence? 17).map (·.value) == some 9 && t.mem.bytes == [(0x1008, 9), (0x200000, 3)]) := by
  refine ⟨?_, ?_, ?_, ?_⟩ <;> decide +kernel

/-- The heads of Tables 13-9 to 13-11: an edit of entry 3 of the list at 0x40000 to 5, TABLE_RELEASE of (5, 6), QUEUE_CREATE of CQ 10, QUEUE_DELETE
and RESUME of SQ 9, RESYNC and PITCH_RESET of 0xFF, HOSTWIN of window 3 with and without PERM, KILL of descriptors 9 and 3 of SQ 9. -/
def sEdit : State :=
  let s := sH false 0x04 ([0, 0, 4, 0, 0, 0] ++ [0, 0, 5, 0, 0, 0] ++ [1, 0])
  { s with mem := { s.mem with bytes := bytesAt 0x40000 hdrBytes ++ [(0x50000, 3), (0x50008, 5)] ++ s.mem.bytes } }
def sRel (cnt : List (Nat × Byte)) : State :=
  let s := sH false 0x05 [5, 0, 6]
  { s with regs := s.regs ++ [(regKey 1 offPktbl, 0x80002#64)], mem := { s.mem with bytes := cnt ++ s.mem.bytes } }
def sNine (op : Byte) (body : List Byte) (y : Queue) : State := let s := sH true op body; { s with fe := { s.fe with queues := Tab.put s.fe.queues 9 y } }
def bCreate : List Byte := [10, 0, 1, 4, 0, 0, 0xFF, 0] ++ [0, 0xD0] ++ List.replicate 6 0 ++ [0x40, 0xD0] ++ List.replicate 6 0 ++ [7]
def bWin (perm : Byte) : List Byte := [3, perm] ++ List.replicate 6 0 ++ [0, 0x10] ++ List.replicate 6 0 ++ [0, 0x20]

set_option maxRecDepth 100000 in
theorem test_witness_AdminDescriptors :
    (headsB sEdit 0x04 = true ∧ sEdit.readDev 0 none 0x40000 64 = .ok hdrBytes ∧ plOk hdrBytes = true ∧
      (match sEdit.readDev 0 none 0x50000 16 with
        | .ok bs => editOk (plCap hdrBytes) bs && (sEdit.pageEdit 0 0x40000 hdrBytes [EditRec.parse bs] none).stop == none
        | _ => false) = true) ∧
    (headsB (sRel []) 0x05 = true ∧ (sRel [(0x80000, 5), (0x80002, 6), (0x80003, 2)]).slotReady 0 5 6 = some 0 ∧
      (sRel [(0x80000, 5), (0x80002, 6), (0x80003, 2)]).slotCount 0 0 = 0 ∧
      (sRel [(0x80000, 5), (0x80002, 6), (0x80003, 2), (0x80004, 1)]).slotReady 0 5 6 = some 0 ∧
      (sRel [(0x80000, 5), (0x80002, 6), (0x80003, 2), (0x80004, 1)]).slotCount 0 0 = 1 ∧ (sRel []).slotReady 0 5 6 = none) ∧
    (headsB (sH true 0x40 bCreate) 0x40 = true ∧ (sH true 0x40 bCreate).queue? 10 = none) ∧
    (headsB (sH true 0x41 [9, 0]) 0x41 = true ∧ (sH true 0x41 [9, 0]).queue? 9 = some sq9 ∧ (sH true 0x41 [9, 0]).adminPair 9 sq9 = false ∧
      (∀ e ∈ (sH true 0x41 [9, 0]).fe.fences, e.2.owner ≠ 9)) ∧
    (headsB (sNine 0x43 [9, 0, 1, 0] { sq9 with state := .held }) 0x43 = true ∧
      (sNine 0x43 [9, 0, 1, 0] { sq9 with state := .held }).queue? 9 = some { sq9 with state := .held }) ∧
    (headsB (sH true 0x42 [0xFF]) 0x42 = true ∧ (sH true 0x42 [0xFF]).servedPitch 1 = some 0 ∧ ((sH true 0x42 [0xFF]).pitch 0).state = .running ∧
      headsB (sH true 0x42 [0xFF, 1]) 0x42 = true ∧ (sH true 0x42 [0xFF, 1]).pitchQueues 0 = [7, 8, 9] ∧ sq9.state = .active ∧ sq9.admin = false) ∧
    (headsB (sH true 0x44 (bWin 3)) 0x44 = true ∧ headsB (sH true 0x44 (bWin 0)) 0x44 = true) ∧
    (headsB (sH true 0x45 [9, 0, 0, 0, 9]) 0x45 = true ∧ headsB (sH true 0x45 [9, 0, 0, 0, 3]) 0x45 = true ∧
      (sH true 0x45 [9, 0, 0, 0, 9]).queueOf 1 9 = true ∧ 2 ^ 31 ≤ (sq9.newest - 9).toNat ∧ (sq9.newest - 3).toNat < 2 ^ 31) ∧
    headsB (sH true 0x46 [0xFF]) 0x46 = true := by
  refine ⟨?_, ?_, ?_, ?_, ?_, ?_, ?_, ?_, ?_⟩ <;> decide +kernel

/-- Status and INFO of the record that waits in CQ 8. -/
def recs (t : State) : Option (List (Nat × W64)) := (t.queue? 8).map (·.waiting.map (fun r => (r.status, r.info)))

set_option maxRecDepth 100000 in
theorem test_admin_descriptors :
    after (exec (.resync 7 []) (sH true 0x42 [0xFF, 1])) (fun t => (t.queue? 9).map (·.state) == some .held && (t.queue? 7).map (·.state) == some .active) ∧
    after (exec (.pageEdit 7) sEdit) (fun t => recs t == some [(0, 0)] && Tab.get 0 t.mem.bytes 0x40058 == 5 && Tab.get 0 t.mem.bytes 0x40004 == 7) ∧
    after (exec (.tableRelease 7) (sRel [])) (fun t => recs t == some [(0x42, 0)]) ∧
    after (exec (.tableRelease 7) (sRel [(0x80000, 5), (0x80002, 6), (0x80003, 2), (0x80004, 1)])) (fun t => recs t == some [(0, 0)] && t.slotState 0 0 == 3) ∧
    after (exec (.queueCreate 7) (sH true 0x40 bCreate)) (fun t => (t.queue? 10).map (fun z => (z.newest, z.base, z.status)) == some (6, 0xD000, 0xD040)) ∧
    after (exec (.queueDelete 7) (sH true 0x41 [9, 0])) (fun t => recs t == some [(0, 0)] && t.queue? 9 == none) ∧
    after (exec (.resume 7) (sNine 0x43 [9, 0, 1, 0] { sq9 with state := .held })) (fun t => (t.queue? 9).map (·.state) == some .active) ∧
    after (exec (.hostwin 7) (sH true 0x44 (bWin 3))) (fun t => t.fe.wins == [(3, 0x1000, 0x2000, 3)]) ∧
    after (exec (.kill 7) (sH true 0x45 [9, 0, 0, 0, 9])) (fun t => recs t == some [(0, 2)]) ∧
    after (exec (.pitchReset 7) (sH true 0x46 [0xFF])) (fun t => (t.pitch 0).state == .resetting && (t.pitch 0).joined == [(7, 5)]) := by
  refine ⟨?_, ?_, ?_, ?_, ?_, ?_, ?_, ?_, ?_, ?_⟩ <;> decide +kernel
/-! ### Set-up -/

/-- A state with registers set. -/
def wr (s : State) (l : List ((Nat × Nat) × W64)) : State := l.foldl (fun s x => { s with regs := Tab.put s.regs (regKey x.1.1 x.1.2) x.2 }) s

theorem accepts {s : State} {fn off : Nat} (h : s.mem.reqs = []) (g : s.writeOff off = false) (k : s.pair.state = .independent) : Accepts s fn off :=
  ⟨by unfold State.settleHost; rw [h]; rfl, g, k⟩

/-- A pitch in a step of its reset. -/
def sRst (step : Nat) (zeroing : Bool) : State :=
  { base with fe := { base.fe with pitches := base.fe.pitches.setIfInBounds 0 { Pitch.reset with state := .resetting, step := step, zeroing := zeroing, cause := 2 } } }

/-- A stack of the pitch has lost its memory. -/
def sLost : State :=
  { base with fe := { base.fe with pitches := base.fe.pitches.setIfInBounds 0 { Pitch.reset with state := .resetting, step := 7, cause := 2, lost := true } } }

set_option maxRecDepth 100000 in
theorem test_witness_PitchResets :
    (Accepts State.reset 0 (offPcfg 0) ∧ (State.reset.pitch 0).state = .off ∧ State.reset.sec.unlocked = false ∧
      (∀ u : Fin 24, State.reset.unitOff u = false ∧ State.reset.ownerOf u = none) ∧ bits (0x1000001 : Nat) 23 0 ≠ 0) ∧
    (Accepts base 0 (offPcfg 0) ∧ Accepts base 0 (offPrst 0) ∧ (base.pitch 0).state = .running ∧
      base.pcfgFixed 0 (setBits (base.raw 0 (offPcfg 0)) 24 24 0) = false) ∧
    (base.fnThere 1 = true ∧ base.servedPitch 1 = some 0 ∧ base.md.numVfs = 24) ∧
    (((sRst 6 true).pitch 0).state = .resetting ∧ ((sRst 6 true).pitch 0).step = 6 ∧ ((sRst 6 true).pitch 0).zeroing = true) ∧
    (((sRst 7 false).pitch 0).step = 7 ∧ ((sRst 7 false).pitch 0).disabling = false ∧ ((sRst 7 false).pitch 0).scrub = false ∧
      ((sRst 7 false).pitch 0).teardown = false ∧ ((sRst 7 false).pitch 0).lost = false ∧
      (sRst 7 false).pair.state = .independent ∧ State.reset.fld 0 (offPcfg 0) 24 24 = 0 ∧ sLost.pitch 0 = { Pitch.reset with state := .resetting, step := 7, cause := 2, lost := true }) ∧ (sRst 7 false).canonical := by
  refine ⟨⟨accepts rfl ?_ ?_, ?_⟩, ⟨accepts rfl ?_ ?_, accepts rfl ?_ ?_, ?_⟩, ?_, ?_, ?_, by unfold State.canonical; decide +kernel⟩ <;> decide +kernel

set_option maxRecDepth 100000 in
theorem test_pitch_resets :
    after (exec (.pitchRestoreDone 0) sLost) (fun t => (t.pitch 0).state == .failed) ∧
    after (exec (.pitchEnable 0 0x1000001) State.reset) (fun t => (t.pitch 0).state == .resetting && (t.pitch 0).cause == 6 && (t.pitch 0).enabling) ∧
    after (exec (.pitchDisable 0) base) (fun t => (t.pitch 0).state == .resetting && (t.pitch 0).cause == 7 && (t.pitch 0).disabling) ∧
    after (exec (.functionLevelReset 1) base) (fun t => (t.pitch 0).cause == 3 && (t.pitch 0).teardown) ∧
    after (exec (.vfDisable 0) base) (fun t => (t.pitch 0).cause == 4 && t.md.numVfs == 0) ∧
    after (exec (.pitchRestoreDone 0) (sRst 7 false)) (fun t => (t.pitch 0).state == .running && (t.pitch 0).count == 1) := by
  refine ⟨?_, ?_, ?_, ?_, ?_, ?_⟩ <;> decide +kernel

/-- Common stock of 100 pages in each unit; region 0, on units 4 and 5, is to lie from page 0 on, 10 pages. -/
def vCs : W64 := 0x0000000A00000000
def sCs (st : CsState) (held : Option (Bool × Bool)) (low : W64) : State :=
  let s := wr State.reset [((0, offCsres), 100), ((0, offCsCtl 0), vCs + low), ((0, offCsMap 0), 0x30)]
  { s with mem := { s.mem with regions := s.mem.regions.setIfInBounds 0 ⟨st, held⟩ } }

/-- Window 0 on rows 0 to 9 of bay 1 of stall 2, without and with its ACTIVE bit. -/
def vWin : W64 := 0x0000000090004201
def sWin (v : W64) : State := wr State.reset [((0, offBayWin 0), v)]

set_option maxRecDepth 100000 in
theorem test_witness_DeviceSetUp :
    (Accepts base 0 (offXlat 0) ∧ Accepts State.reset 0 offCsres ∧ (∀ k : Fin 24, (State.reset.pitch k).state = .off) ∧
      bits (100 : W64).toNat 13 0 < State.reset.chip.part.unitBytes / 2 ^ 21) ∧
    (Accepts (sCs .off none 0) 0 (offCsCtl 0) ∧ (sCs .off none 0).raw 0 (offCsCtl 0) = vCs.toNat ∧ (sCs .off none 0).csBusy 0 = false ∧
      ((sCs .off none 0).setRaw 0 (offCsCtl 0) (csFixedMask (vCs + 1).toNat + bits (vCs + 1).toNat 1 0)).csReady 0 = true) ∧
    (∀ st ∈ [CsState.load, .sealed, .quarantined], ((sCs st none 1).region 0).state = st ∧ (sCs st none 1).raw 0 (offCsCtl 0) = vCs.toNat + 1) ∧
    (csFixedMask (vCs.toNat + 1) + bits (vCs.toNat + 1) 1 0 = vCs.toNat + 1 ∧ (sCs .quarantined none 1).csDirty 0 = false) ∧
    (((sCs .load (some (true, true)) 1).region 0).held = some (true, true) ∧ (sCs .load (some (true, true)) 1).csBusy 0 = false) ∧
    ((sWin vWin).winOpen 0 = false ∧ (sWin vWin).winReady 0 = true) ∧
    ((sWin 0).raw 0 (offBayWin 0) = 0 ∧ (∀ k : Fin 8, (sWin 0).winOpen k = false) ∧ (sWin 0).stallHeld 2 = false ∧ bits vWin.toNat 13 8 = 2) ∧
    (sWin (vWin + 8)).winOpen 0 = true ∧ (∀ s ∈ [State.reset, base, sCs .off none 0, sWin vWin], s.canonical) := by
  unfold State.canonical
  refine ⟨⟨accepts rfl ?_ ?_, accepts rfl ?_ ?_, ?_⟩, ⟨accepts rfl ?_ ?_, ?_⟩, ?_, ?_, ?_, ?_, ?_, ?_, ?_⟩ <;> decide +kernel

set_option maxRecDepth 100000 in
theorem test_device_set_up :
    after (exec (.csEnable 0 (vCs + 1)) (sCs .off none 0)) (fun t => (t.region 0).state == .load) ∧
    after (exec (.csSeal 0 true) (sCs .load none 1)) (fun t => (t.region 0).state == .sealed) ∧
    after (exec (.lift 0) (sCs .quarantined none 1)) (fun t => (t.region 0).state == .sealed) ∧
    after (exec (.csStateDeferred 0) (sCs .load (some (true, true)) 1)) (fun t => (t.region 0) == ⟨.sealed, none⟩) ∧
    after (exec (.windowForce 0) (sWin vWin)) (fun t => t.winOpen 0 && (t.stall 2).pwr == .active) ∧
    after (exec (.baywinOpen 0 vWin) (sWin 0)) (fun t => t.winOpen 0 && t.winStall 0 == 2 && t.winBay 0 == 1 && t.winLast 0 == 9) ∧
    after (exec (.baywinClose 0) (sWin (vWin + 8))) (fun t => !t.winOpen 0) := by
  refine ⟨?_, ?_, ?_, ?_, ?_, ?_, ?_⟩ <;> decide +kernel

/-! ### Function set-up -/

/-- Values of PT_AQ_CFG's fields: SQ 4, CQ 5, vector 0xFF; the four addresses; and a register of a pitch block. -/
def vAq : W64 := 0x00FF000500040001
def sAq : State :=
  wr (sF (sq7 false [])) [((1, offAqSqb), 0x20004), ((1, offAqCqb), 0x30004), ((1, offAqSqsb), 0x40000), ((1, offAqCqsb), 0x40040), ((1, offDba), 0x50000)]

/-- The admin pair of VF 1 is SQ 4 and CQ 5. -/
def sq4 : Queue := { Queue.blank with admin := true, fn := 1, cq := 5 }
def sAdm : State :=
  let s := wr sAq [((1, offAqCfg), 0x00FF000500040003)]
  { s with fe := { s.fe with queues := [(4, sq4), (5, { cq8 with admin := true }), (7, sq7 false []), (8, cq8), (9, sq9)] } }

set_option maxRecDepth 100000 in
theorem test_witness_FunctionSetUp :
    (∀ s ∈ [sAq, sAdm], s.canonical ∧ s.mem.reqs = [] ∧ s.fnThere 1 = true ∧ s.servedPitch 1 = some 0 ∧ s.dieDown = false ∧ s.pair.state = .independent) ∧
    sAq.settleHost 1 = sAq ∧ (sAq.fenceRange 0 = (16, 16) ∧ sAq.fence? 17 = some ⟨7, 4, none⟩ ∧ sAq.fence? 18 = none ∧ sAq.fenceWordFails 0 18 = none) ∧
    ((sAq.queue? 7) = some (sq7 false []) ∧ (∀ e ∈ sAq.fe.queues, e.2.head? = none)) ∧
    (sAq.raw 1 offAqCfg = 0xFF * 2 ^ 48 ∧
      State.aqReady (sAq.setRaw 1 offAqCfg (blend (0xFF * 2 ^ 48) (setBits vAq.toNat 0 0 1) (fnRw offAqCfg))) 1 = true) ∧
    (sAdm.fld 1 offAqCfg 1 0 = 3 ∧ sAdm.fld 1 offAqCfg 63 63 = 0 ∧ sAdm.fld 1 offAqCfg 25 16 = 4 ∧ sAdm.queue? 4 = some sq4) ∧
    sAq.raw 1 offPsb = 0 := by
  unfold State.canonical
  refine ⟨?_, rfl, ?_, ?_, ?_, ?_, ?_⟩ <;> decide +kernel

set_option maxRecDepth 100000 in
theorem test_function_set_up :
    after (exec (.fenceDefine 1 18 9) sAq) (fun t => t.fence? 18 == some ⟨9, 0, none⟩ && t.fld 1 offFnDef 29 28 == 1) ∧
    after (exec (.fenceUndefine 1 17) sAq) (fun t => t.fence? 17 == none) ∧
    after (exec (.aqEnable 1 vAq) sAq) (fun t => (t.queue? 4).map (·.cq) == some 5 && (t.queue? 5).map (·.isCq) == some true && t.fld 1 offAqCfg 1 1 == 1) ∧
    after (exec (.aqDisable 1) sAdm) (fun t => t.queue? 4 == none && t.fld 1 offAqCfg 1 0 == 0) := by
  refine ⟨?_, ?_, ?_, ?_⟩ <;> decide +kernel

/-- Registers of VF 1 with a change of EN that has not taken effect. -/
def sEn (off : Nat) (v : W64) (more : List ((Nat × Nat) × W64)) : State := wr base (((1, off), v + 0x8000000000000000) :: more)

/-- A message for inbound mailbox 3 is posted; outbound mailbox 3 is idle; a PSEND uses outbound mailbox 5. -/
def sBusyIn : State :=
  let s := wr (sX (xf .post (td 0x900 1 1 0 0 2 0) 0) [] []) [((1, offIbox 3), 2 + 0x8000000000000000)]
  { s with fe := { s.fe with launches := [] }, net := { s.net with posted := [(3, [⟨0, 7, 2, 8, none⟩])] } }
def sOutOff : State := sEn (offObox 3) 2 []
def sSentOut : State :=
  { sOutOff with net := { sOutOff.net with sent := [{ msgid := 77, stall := 0, chan := 7, xfer := 2, pitch := 0, credit := some (3, 64), dst := 3, win := false, granted := false, coll := none, time := 0, seq := 0 }] } }
def sBusyOut : State := sX { xf .send (td 0x1000 0 2 0 0 32 0) 0 with gval := 5 } [] []

def sE1 : State := sEn (offPkr 0) 0x40013 [((1, offPkr 0 + 8), (0x40000 : W64)), ((1, offPkr 0 + 16), 0x50000)]
def sE2 : State := sEn offPktbl 0x80001 []
def sE3 : State := sEn offFctBase 0x60001 [((1, offFctFrames), (16 : W64))]

set_option maxRecDepth 100000 in
theorem test_witness_MailboxWaits :
    (sBusyIn.inFlight 0 = [] ∧ sBusyIn.pair.state = .independent ∧ sBusyIn.pfld 0 (offIbox 3) 63 63 = 1 ∧ sBusyIn.pfld 0 (offIbox 3) 0 0 = 0 ∧
      sBusyIn.inboxBusy 0 3 = true) ∧
    (sOutOff.inFlight 0 = [] ∧ sOutOff.pfld 0 (offObox 3) 63 63 = 1 ∧ sOutOff.pfld 0 (offObox 3) 0 0 = 0 ∧ sOutOff.outboxBusy 0 3 = false) ∧
    sBusyOut.outboxBusy 0 5 = true ∧ (sSentOut.inFlight 0 = [] ∧ sSentOut.pfld 0 (offObox 3) 63 63 = 1 ∧ sSentOut.pfld 0 (offObox 3) 0 0 = 0 ∧
      sSentOut.outboxBusy 0 3 = true) := by
  refine ⟨?_, ?_, ?_, ?_⟩ <;> decide +kernel

set_option maxRecDepth 100000 in
theorem test_witness_EnableEffects :
    (base.inFlight 0 = [] ∧ base.pair.state = .independent) ∧
    (sE1.canonical ∧ sE1.pfld 0 (offPkr 0) 63 63 = 1 ∧ sE1.pfld 0 (offPkr 0) 0 0 = 1 ∧
      (sE1.setFld (sE1.fnOf 0) (offPkr 0) 63 63 0).pkrReady 0 0 = true) ∧
    ((sEn (offPkr 0) 0x40012 []).pfld 0 (offPkr 0) 63 63 = 1 ∧ (sEn (offPkr 0) 0x40012 []).pfld 0 (offPkr 0) 0 0 = 0) ∧
    (sE2.pfld 0 offPktbl 63 63 = 1 ∧ sE2.pfld 0 offPktbl 0 0 = 1 ∧ sE2.mapped 0 (sE2.tableArea 0).1 (sE2.tableArea 0).2 = true ∧
       sE2.inRegion 0 (sE2.tableArea 0).1 (sE2.tableArea 0).2 = false ∧ sE2.fctActive 0 = false) ∧
    (sEn offPktbl 0x80002 []).pfld 0 offPktbl 0 0 = 0 ∧
    (sE3.pfld 0 offFctBase 63 63 = 1 ∧ sE3.pfld 0 offFctBase 0 0 = 1 ∧ sE3.frames 0 = 16 ∧ sE3.privWritable 0 (sE3.fctArea 0).1 (sE3.fctArea 0).2 = true ∧
       sE3.inPacked 0 (sE3.fctArea 0).1 (sE3.fctArea 0).2 = false ∧ sE3.tableActive 0 = false ∧ sE3.inFences 0 (sE3.fctArea 0).1 (sE3.fctArea 0).2 = false) ∧
    (sEn offFctBase 0x60002 []).pfld 0 offFctBase 0 0 = 0 ∧
    ((sEn (offIbox 3) 2 []).pfld 0 (offIbox 3) 63 63 = 1 ∧ (sEn (offIbox 3) 2 []).pfld 0 (offIbox 3) 0 0 = 0 ∧ (sEn (offIbox 3) 2 []).inboxBusy 0 3 = false) := by
  refine ⟨?_, ⟨by unfold State.canonical; decide +kernel, ?_⟩, ?_, ?_, ?_, ?_, ?_, ?_⟩ <;> decide +kernel

set_option maxRecDepth 100000 in
theorem test_enable_effects :
    after (exec (.pkrEnEffect 0 0) sE1)
      (fun t => t.pkrActive 0 0 && t.pfld 0 (offPkr 0) 63 63 == 0) ∧
    after (exec (.fctEnEffect 0) sE3) (fun t => t.fctActive 0) ∧
    after (exec (.mailboxDisableEffect 0 true 3) (sEn (offIbox 3) 2 [])) (fun t => t.pfld 0 (offIbox 3) 1 1 == 0) := by
  refine ⟨?_, ?_, ?_⟩ <;> decide +kernel

/-- Vector 0 of VF 1 holds two causes back since time 0, unmasked, or has a message pending under its mask. -/
def sMsi (v : MsiVec) : State := { base with msi := [(64, v)], clk := { base.clk with time := 100000000, floor := 200000000 } }
def vHeld : MsiVec := { MsiVec.reset with mask := false, count := 2, addr := 0xFEE00000, data := 7 }
def vPend : MsiVec := { MsiVec.reset with pend := true, addr := 0xFEE00000, data := 7 }

/-- The rings of pitch 0 and of the installer are full. -/
def full (n : W64) : Ring := { Ring.zero with written := n }
def sRing : State :=
  let s := wr base [((1, offDbk), 0x10001), ((1, offDbk + 8), 8), ((1, offFlt), 0x20001), ((1, offFlt + 8), 6),
    ((1, offRclBase), 0x30001), ((1, offRclSize), 64), ((1, offRclHead), 0x40000)]
  { s with dbk := s.dbk.setIfInBounds 0 (full 256), flt := s.flt.setIfInBounds 0 (full 64), rcl := s.rcl.setIfInBounds 0 (full 64) }

/-- An FK2-D1536 whose pitches are all off; and a host that is up. -/
def sPkg : State := { State.reset with chip := { State.reset.chip with part := .d1536 }, md := { State.reset.md with hostUp := true, started := true } }

/-- The pitch of VF 1 is off; a group read and a CQ's counts are under way; a copy reads host memory; the host is up before the block has started. -/
def sIdleFn : State := { sMsi vPend with fe := FrontEnd.reset }
def sCqWait : State := { sQ with fe := { sQ.fe with reading := 1 } }
def sHostCopy : State := sX { xf .copy (td 0x800 1 1 0 0 2 0) (td 0x900 0 1 0 0 2 0) with srcHost := some 0x100000 } [] []
def sEarly : State := { sPkg with md := { sPkg.md with started := false } }

set_option maxRecDepth 100000 in
theorem test_witness_HostRequests :
    ((sCqWait.queue? 8).map (fun x => (x.isCq, x.waiting.length)) = some (true, 1) ∧ sCqWait.awake = true ∧ sCqWait.fe.reading.getLsbD 0 = true) ∧
    ((sHostCopy.chanOf 0 7).actor?.map (·.srcHost) = some (some 0x100000)) ∧
    (sEarly.md.hostUp = true ∧ sEarly.fnThere 0 = true ∧ sEarly.md.started = false ∧ sPkg.fnThere 1 = false) ∧
    (sPkg.dieDown = false ∧ fnNamed offAqCfg = true ∧ pfNamed offModPair = true ∧ fnNamed 0xFFF8 = false) := by
  refine ⟨?_, ?_, ?_, ?_⟩ <;> decide +kernel

set_option maxRecDepth 100000 in
theorem test_host_requests :
    after (exec (.msixUnmask 1 0) sIdleFn) (fun t => t.out == [] && (t.msiOf 1 0).pend && !(t.msiOf 1 0).mask) ∧
    after (exec (.pcieConfigRequest 0 (.read 4)) sEarly) (fun t => t.out == [.config 0 none]) ∧
    after (exec (.pcieConfigRequest 0 (.numVfs 3)) sPkg) (fun t => t.md.numVfs == 3) ∧
    after (exec (.pcieConfigRequest 1 .msixSize) { sMsi vPend with md := { base.md with hostUp := true, started := true } })
      (fun t => t.out == [.config 1 (some [(sMsi vPend).tableSize 1])]) ∧
    after (exec (.pcieCompletionError (.scan 0)) sCqWait) (fun t => !t.fe.reading.getLsbD 0) ∧
    after (exec (.pcieCompletionError (.cqCount 8)) sCqWait) (fun t => t.md.aer == 2) ∧
    after (exec (.pcieCompletionError (.porter 0 7)) sHostCopy) (fun t => (t.launch? 0).map (·.faulted) == some true) := by
  refine ⟨?_, ?_, ?_, ?_, ?_, ?_, ?_⟩ <;> decide +kernel

set_option maxRecDepth 100000 in
theorem test_witness_HostCommands :
    (((sMsi vHeld).msiOf 1 0) = vHeld ∧ Tab.rising (sMsi vHeld).msi = true ∧ (sMsi vHeld).pair.heldOut = [] ∧ vHeld.hold = 0 ∧
      (sMsi vHeld).msiMasked 1 0 = false ∧ (sMsi vHeld).now = 200000000) ∧
    ((sMsi vPend).settleHost 1 = sMsi vPend ∧ (sMsi vPend).fnThere 1 = true ∧ 0 < (sMsi vPend).tableSize 1 ∧ (sMsi vPend).md.fnMask.getLsbD 1 = false ∧
      sIdleFn.fnIdle 1 = true ∧ sIdleFn.fnThere 1 = true ∧ 0 < sIdleFn.tableSize 1 ∧ (sIdleFn.msiOf 1 0) = vPend ∧ sIdleFn.settleHost 1 = sIdleFn) ∧
    (sRing.canonical ∧ sRing.ringActive (sRing.dbkReg 0) 8 20 = true ∧ (sRing.dbk[0]).full (sRing.ringSize (sRing.dbkReg 0)) = true ∧
      sRing.ringActive (sRing.fltReg 0) 6 16 = true ∧ (sRing.flt[0]).full (sRing.ringSize (sRing.fltReg 0)) = true ∧ sRing.rclActive 0 = true ∧
      (sRing.rcl[0]).full (sRing.pfld 0 offRclSize 16 0) = true) ∧
    (Accepts sPkg 0 offModPair ∧ (sPkg.d1536 = true ∧ sPkg.livePitches = []) ∧ Accepts sPkg 0 offHangWin ∧ Accepts sPkg 0 offGhDumpCfg ∧ sPkg.settleHost 0 = sPkg ∧
      sPkg.fnThere 0 = true ∧ sPkg.md.hostUp = true ∧ sPkg.md.started = true ∧ sPkg.md.numVfs ≤ 24) ∧
    ((sQ.queue? 9).map (·.toFetch) = some 1 ∧ sQ.awake = true) := by
  unfold State.canonical
  refine ⟨⟨?_, ?_, ?_, ?_, ?_, now_floor ?_ ?_⟩, ⟨rfl, ?_, ?_, ?_, ?_, ?_, ?_, ?_, rfl⟩, ?_, ⟨accepts rfl ?_ ?_, ?_, accepts rfl ?_ ?_, accepts rfl ?_ ?_, rfl, ?_, ?_, ?_, ?_⟩, ?_⟩ <;>
    decide +kernel

set_option maxRecDepth 100000 in
theorem test_host_commands :
    after (exec (.msixUnmask 1 0) (sMsi vPend)) (fun t => t.out == [.msix 1 0 0xFEE00000 7] && !(t.msiOf 1 0).pend) ∧
    after (exec (.daybookHeadPoll (.daybook 0) 100) sRing) (fun t => (t.dbk[0]).consumed == 100) ∧
    after (exec (.reclaimHeadPoll 0 10) sRing) (fun t => (t.rcl[0]).consumed == 10) ∧
    after (exec (.registerWrite 0 offHangWin 8 0x12345678 false) sPkg) (fun t => t.fld 0 offHangWin 16 0 == 0x5678 || t.fld 0 offHangWin 16 0 == 0x15678) ∧
    after (exec (.registerWrite 0 offHangWin 4 1 false) sPkg) (fun t => t.fld 0 offAccErr 31 16 == 1) ∧
    after (exec (.pcieConfigRequest 0 .ident) sPkg) (fun t => t.out.length == 1) ∧
    after (exec (.pcieCompletionError (.fetch 9)) sQ) (fun t => (t.queue? 9).map (·.toFetch) == some 0 && t.md.aer == 2) := by
  refine ⟨?_, ?_, ?_, ?_, ?_, ?_, ?_⟩ <;> decide +kernel
/-! ### Time, links, messages, pairs -/

/-- The clock has been read 100 ms ahead; a load of 5 waits or not; GH_TSYNC holds `v`. -/
def sT1 (v : W64) (load : Option W64) : State :=
  let s := wr State.reset [((0, offTsync), v)]
  { s with clk := { s.clk with time := 100000000, floor := 200000000, loadPending := load } }

/-- A message of a type for this chip, which is 0, from chip 3 with no epoch behind it: PITCH, MBOX, TYPE, LEN, JOB, MSGID, ARG and data. -/
def msg (dst dp mb ty len job arg : Nat) (data : List Byte) : Msg :=
  { id := 5, link := some 8, vc := 0, flits := 1, early := false, route := 0,
    bytes := leBytes 2 dst ++ leBytes 1 dp ++ leBytes 1 mb ++ leBytes 2 3 ++ leBytes 1 2 ++ leBytes 1 ty ++ leBytes 4 len ++ List.replicate 18 0 ++
      leBytes 2 job ++ List.replicate 4 0 ++ leBytes 4 77 ++ leBytes 8 arg ++ data }

/-- It has arrived. -/
def sM (s : State) (m : Msg) : State := { s with net := { s.net with arrived := [m] } }

/-- A follower whose exchange began at 7, and its stratum-2 peer on port 2. -/
def sFoll (st : Nat) (m : Option Msg) : State :=
  let s := sT1 0x202 none
  let t := { s with clk := { s.clk with tstate := st, exch := if m.isSome then some 7 else none },
                    net := { s.net with links := s.net.links.setIfInBounds 8 { Link.reset with state := .routed } } }
  match m with
  | some m => sM t m
  | none => t

/-- A load waits that no pitch but a later one bars. -/
def sLate2 : State := { wr base [] with clk := { base.clk with loadPending := some 5 } }

set_option maxRecDepth 100000 in
theorem test_witness_TimeEvents :
    (sLate2.clk.loadPending = some 5 ∧ sLate2.fld 0 offTsync 3 3 = 0 ∧ sLate2.livePitches ≠ []) ∧
    (Accepts State.reset 0 offTimeLoad ∧ State.reset.livePitches = [] ∧ Accepts base 0 offTimeLoad ∧ base.livePitches ≠ [] ∧ Accepts State.reset 0 offTsync) ∧
    ((sT1 0 none).clk.loadPending = none ∧ (sT1 0 (some 5)).clk.loadPending = some 5 ∧ (sT1 0 (some 5)).fld 0 offTsync 3 3 = 0 ∧
      (sT1 9 (some 5)).fld 0 offTsync 3 3 = 1) ∧
    (State.reset.tsRole ≠ 1 ∧ (sT1 9 (some 5)).tsRole = 1 ∧ (sT1 9 (some 5)).fld 0 offTsync 2 2 = 0 ∧
      (sT1 5 none).tsRole = 1 ∧ (sT1 5 none).fld 0 offTsync 2 2 = 1 ∧ (sT1 5 none).fld 0 offTsync 3 3 = 0 ∧ (sT1 5 none).clk.ppsLast = none) ∧
    (100000 < (ppsTheta 200000000).natAbs ∧ (ppsTheta 1000000007).natAbs = 7) ∧
    ((sFoll tsAcquiring none).tsRole = 2 ∧ (sFoll tsAcquiring none).clk.exch = none ∧
      (sFoll tsAcquiring none).trainedLinks ((sFoll tsAcquiring none).fld 0 offTsync 10 8) = [8]) ∧
    (∀ ty ∈ [mtTsyncReq, mtTsyncRep], ∀ st ∈ [tsAcquiring, tsLocked],
      let m := msg 0 0 0 ty 0 0 0 []
      let s := sFoll st (some m)
      s.msg? 5 = some m ∧ m.mtype = ty ∧ m.link = some 8 ∧ s.tsRole = 2 ∧ 8 / 4 = s.fld 0 offTsync 10 8 ∧ s.clk.exch = some 7 ∧ s.livePitches = []) := by
  refine ⟨?_, ⟨accepts rfl ?_ ?_, ?_, accepts rfl ?_ ?_, ?_, accepts rfl ?_ ?_⟩, ?_, ?_, ?_, ?_, ?_⟩ <;> decide +kernel

set_option maxRecDepth 100000 in
theorem test_time_events :
    after (exec .slowClockTick sLate2) (fun t => t.clk.time == base.clk.time + 40 && t.clk.loadPending == none && !t.clk.valid) ∧
    after (exec (.timeLoad 9) State.reset) (fun t => t.clk.loadPending == some 9) ∧
    after (exec (.tsyncWrite 5) State.reset) (fun t => t.clk.tstate == tsAcquiring && t.clk.hops == 0 && t.raw 0 offTsync == 5) ∧
    after (exec .slowClockTick (sT1 0 (some 5))) (fun t => t.clk.time == 5 && t.clk.valid) ∧
    after (exec .slowClockTick (sT1 0 none)) (fun t => t.clk.time == 100000040) ∧
    after (exec .ppsEdge (sT1 9 (some 5))) (fun t => t.clk.time == 5) := by
  refine ⟨?_, ?_, ?_, ?_, ?_, ?_⟩ <;> decide +kernel

/-- Link 8 of port 2 in a state; the port enabled and planned for port 1 of chip 3. -/
def lk (st : LState) : Link := { Link.reset with state := st, seen := some (3, 1, 0) }
def sL (l : Link) : State :=
  let s := wr State.reset [((0, offPort 2), 0x100309)]
  { s with net := { s.net with links := s.net.links.setIfInBounds 8 l } }
def sTrain : State := { sL Link.reset with net := { Net.reset with links := (List.range 4).foldl (fun v k => v.setIfInBounds (8 + k) { Link.reset with state := .train }) Net.reset.links } }

/-- What port 2 sees, port 1 of chip 3, is what port 4 is planned for, and the other way round. -/
def sSwap (other : Bool) : State :=
  let s := wr State.reset ([((0, offPort 2), 0x100409)] ++ if other then [((0, offPort 4), 0x100309)] else [])
  let a : Link := { lk .quarantined with unreported := true }
  let b : Link := { lk .quarantined with seen := some (4, 1, 0) }
  { s with net := { s.net with links := (s.net.links.setIfInBounds 8 a).setIfInBounds 16 b } }

set_option maxRecDepth 100000 in
theorem test_witness_LinkStates :
    (Accepts State.reset 0 (offPort 2) ∧ State.reset.raw 0 (offPort 2) = 0 ∧ (∀ j : Fin 32, State.reset.link j = Link.reset) ∧ State.reset.pair.portsHeld = false) ∧
    (Accepts sTrain 0 (offPort 2) ∧ sTrain.fld 0 (offPort 2) 0 0 = 1 ∧ (∀ j ∈ portLinks 2, sTrain.link j = { Link.reset with state := .train }) ∧
      sTrain.net.held = [] ∧ sTrain.fld 0 (offPort 2) 2 2 = 0) ∧
    (∀ st ∈ [LState.train, .ident, .routed, .quarantined], (sL (lk st)).link 8 = lk st ∧ (sL (lk st)).fld 0 (offPort 2) 0 0 = 1 ∧ (lk st).heads = []) ∧
    ((sL (lk .train)).md.cableOff.getLsbD 2 = false ∧ (sL (lk .train)).health.replace = false ∧ (lk .routed).trained = true ∧ (lk .routed).half = false) ∧
    (∀ j : Fin 32, (sL (lk .train)).link j = (if j = 8 then lk .train else Link.reset)) ∧
    ((∀ b, ((sSwap b).link 8).unreported = true ∧ (sSwap b).portSeen 2 = some (3, 1, 0)) ∧
      (List.range 8).find? (fun b => b != 2 && (sSwap false).planOf b == some (3, 1)) = none ∧
      (List.range 8).find? (fun b => b != 2 && (sSwap true).planOf b == some (3, 1)) = some 4 ∧ (sSwap true).portSeen 4 = some (4, 1, 0) ∧
      (sSwap true).planOf 2 = some (4, 1)) := by
  refine ⟨⟨accepts rfl ?_ ?_, ?_⟩, ⟨accepts rfl ?_ ?_, ?_⟩, ?_, ?_, ?_, ?_⟩ <;> decide +kernel

theorem quiet_reset : WiringQuiet State.reset := by
  intro i
  show (((Vector.replicate 32 Link.reset)[i]?).getD Link.reset).unreported = false
  rw [Vector.getElem?_replicate]; split <;> rfl

/-- A good DATA flit of KIND 2 on VC 0, numbered `q`. -/
def flit (q : Nat) : List Byte := flitBytes q 0 2 0 0 0 [1, 2, 3]
def good : List Byte := [0, 0, 0, 0, 2, 0, 0, 0, 1, 2, 3] ++ List.replicate 241 0
def goodFlit : List Byte := good ++ [0xA7, 0x81, 0x34, 0xEF]
def kept (r : Nat) : Link := { lk .routed with kept := [⟨5, flit 5, r⟩], txSeq := 5 }

/-- What IDENT and PEER_EPOCH tell: chip, port, link index, epoch. -/
def mIdent (port idx ep : Nat) : Msg := msg 0 0 0 mtIdent 0 0 (3 + port * 2 ^ 12 + idx * 2 ^ 16 + ep * 2 ^ 32) []
def mEpoch (e : Nat) : Msg := msg 0 0 0 mtPeerEpoch 0 0 (3 + e * 2 ^ 16) []

set_option maxRecDepth 100000 in
theorem test_witness_LinkMessages :
    (∀ m ∈ [mIdent 1 0 0, mIdent 2 0 0, mEpoch 0, mEpoch 4], (sM (sL (lk .ident)) m).msg? 5 = some m ∧ m.link = some 8 ∧
      ((sM (sL (lk .ident)) m).link 8).state = .ident) ∧
    (let s := sM (sL (lk .ident)) (mIdent 1 0 0)
     bits (mIdent 1 0 0).arg 11 0 = 3 ∧ s.learns 3 (bits (mIdent 1 0 0).arg 47 32) false = false ∧ s.planOf 2 = some (3, bits (mIdent 1 0 0).arg 14 12) ∧
       s.planOf 2 ≠ some (3, bits (mIdent 2 0 0).arg 14 12) ∧ bits (mIdent 1 0 0).arg 17 16 = 0) ∧
    ((sL (lk .ident)).learns 3 (bits (mEpoch 0).arg 31 16) (bit (mEpoch 0).arg 32) = false ∧
      (sL (lk .ident)).learns 3 (bits (mEpoch 4).arg 31 16) (bit (mEpoch 4).arg 32) = true ∧ 3 ≠ (sL (lk .ident)).chipId ∧
      epochBefore ((sL (lk .ident)).epochOf 3) 4 = true) ∧
    ((lk .routed).trained = true ∧ (lk .routed).waiting = [] ∧ flitGood [] true = false ∧ fieldAt goodFlit 4 1 = 2 ∧ fieldAt goodFlit 5 1 = 0 ∧
      fieldAt goodFlit 0 2 = ((lk .routed).rxSeq + 1).toNat ∧ fieldAt (flit 7) 0 2 ≠ ((lk .routed).rxSeq + 1).toNat) ∧
    ((∀ f ∈ (kept 0).kept, f.replays < 7) ∧ (∃ f ∈ keptAfter (kept 7).kept (4 : BitVec 16).toNat, 7 ≤ f.replays) ∧ (kept 7).kept ≠ [] ∧
      (lk .routed).kept = []) := by
  refine ⟨?_, ?_, ?_, ?_, ?_⟩ <;> decide +kernel


theorem good_flit : flitGood goodFlit true = true := by
  have e : goodFlit.take 252 = good := by decide +kernel
  have h : (good.foldl crcByte 0xFFFFFFFF#32) = 0x10CB7E58#32 := by
    apply BitVec.eq_of_toNat_eq; rw [crcGo_eq]; decide +kernel
  have g : crc32 good = 0xEF3481A7#32 := by unfold crc32; rw [h]; rfl
  unfold flitGood; rw [e, g]; decide +kernel

theorem test_ident_mismatch :
    after (exec (.ident 5) (sM (sL (lk .ident)) (mIdent 2 0 0))) (fun t => (t.link 8).state == .quarantined && (t.link 8).seen == some (3, 2, 0)) := by
  decide +kernel

/-- Pitch 0 with inbox 3 bound to pitch 2 of chip 3 and outbox 5 bound to its mailbox 9, of which one credit is held; a buffer of 8 bytes posted at inbox
3 by channel 7 of stall 0; and a message of outbox 5 sent that awaits its answer. -/
def xPost : Xfer := xf .post (td 0x900 1 1 0 0 2 0) 0
def sent5 : Sent := { msgid := 77, stall := 0, chan := 7, xfer := 2, pitch := 0, credit := some (5, 64), dst := 3, win := false, granted := false, coll := none, time := 0, seq := 0 }
def sBox (posted : List (Nat × List Posted)) (sent : List Sent) (m : Msg) : State :=
  let s := wr (sX xPost [] []) [((1, offIbox 3), 0x02000303), ((1, offObox 5), 0x0902000303)]
  { s with net := { s.net with arrived := [m], posted := posted, sent := sent, credits := [(5, [16])] } }
def post3 : Posted := ⟨0, 7, 2, 8, none⟩
def mD (dp mb job : Nat) : Msg := msg 0 dp mb mtData 8 job 0 [1, 2, 3, 4, 5, 6, 7, 8]

/-- What `Reached` asks. -/
def reachedB (s : State) (mt : Nat) (m : Msg) : Bool :=
  s.msg? 5 == some m && !s.behind m && !m.early && m.mtype == mt && m.dst == s.chipId && s.pair.state == .independent && !s.dieDown && !s.learns m.srcChip m.sepoch false &&
  !epochBefore m.sepoch (s.epochOf m.srcChip) && m.depoch == s.net.epoch.toNat

theorem reachedB_spec {s : State} {mt : Nat} {m : Msg} (h : reachedB s mt m = true) : Reached s 5 mt m := by
  simp only [reachedB, Bool.and_eq_true, beq_iff_eq, Bool.not_eq_true'] at h
  obtain ⟨⟨⟨⟨⟨⟨⟨⟨⟨h1, h2⟩, h3⟩, h4⟩, h5⟩, h6⟩, h7⟩, h8⟩, h9⟩, h10⟩ := h
  exact ⟨h1, ⟨h2, fun e => absurd e (by rw [h3]; decide)⟩, h4, h5, h6, h7, h8, h9, h10⟩

/-- A flit of KIND 4 that carries a whole DATA message; its CRC by R412. -/
def lastBytes : List Byte := [0, 0, 0, 0, 4, 0, 0, 0] ++ (mD 0 3 0).bytes ++ List.replicate 188 0
def lastFlit : List Byte := lastBytes ++ [0xB2, 0x57, 0xA0, 0x1F]

theorem last_flit_good : flitGood lastFlit true = true := by
  have e : lastFlit.take 252 = lastBytes := by decide +kernel
  have h : (lastBytes.foldl crcByte 0xFFFFFFFF#32) = 0xE05FA84D#32 := by
    apply BitVec.eq_of_toNat_eq; rw [crcGo_eq]; decide +kernel
  have g : crc32 lastBytes = 0x1FA057B2#32 := by unfold crc32; rw [h]; rfl
  unfold flitGood; rw [e, g]; decide +kernel

theorem test_witness_FlitEnds :
    (fieldAt lastFlit 4 1 = 4 ∧ fieldAt lastFlit 5 1 = 0 ∧ fieldAt lastFlit 0 2 = ((lk .routed).rxSeq + 1).toNat) ∧
    ((sL (lk .routed)).net.held = [] ∧ (lk .routed).waiting = [] ∧ (lk .routed).state ≠ .quarantined ∧ (mD 0 3 0).mtype ≠ mtWreq) ∧
    (keptAfter (kept 0).kept (4 : BitVec 16).toNat ≠ [] ∧ keptAfter (kept 0).kept (5 : BitVec 16).toNat = []) := by
  refine ⟨?_, ?_, ?_⟩ <;> decide +kernel

/-- The same message for chip 9, or in a chip reset, or of an epoch that is over, or to another of this chip's. -/
def mGate (dst : Nat) (sep dep : Byte) : Msg := let m := mD 0 3 0; { m with bytes := leBytes 2 dst ++ (m.bytes.drop 2).take 10 ++ [sep, 0, dep, 0] ++ m.bytes.drop 16 }
def sGate (m : Msg) : State := let s := sBox [] [] m; { s with net := { s.net with epochs := [(3, 4)] } }
def sDown (m : Msg) : State := { sGate m with crst := { Crst.reset with step := 5 } }

set_option maxRecDepth 100000 in
theorem test_witness_MessageGate :
    (∀ m ∈ [mGate 9 4 0, mGate 0 4 0, mGate 0 3 0, mGate 0 4 1], (sGate m).msg? 5 = some m ∧ m.mtype = mtData) ∧
    ((mGate 9 4 0).dst ≠ (sGate (mGate 9 4 0)).chipId ∧ ((sGate (mGate 9 4 0)).takeMsg (mGate 9 4 0)).routePort (some 2) 9 = none) ∧
    ((mGate 0 4 0).dst = (sGate (mGate 0 4 0)).chipId ∧ (sDown (mGate 0 4 0)).dieDown = true ∧
      (sDown (mGate 0 4 0)).pair.state ≠ .stoodDown) ∧
    ((sGate (mGate 0 3 0)).learns 3 3 false = false ∧ epochBefore (mGate 0 3 0).sepoch ((sGate (mGate 0 3 0)).epochOf 3) = true ∧
      epochBefore (mGate 0 4 1).sepoch ((sGate (mGate 0 4 1)).epochOf 3) = false ∧ (mGate 0 4 1).depoch ≠ (sGate (mGate 0 4 1)).net.epoch.toNat) := by
  refine ⟨?_, ?_, ?_, ?_⟩ <;> decide +kernel

/-- Answers to message 77, and credits for outbox 5. -/
def mAns (ty arg : Nat) : Msg := msg 0 0 9 ty 0 0 arg []
def at3 : List (Nat × List Posted) := [(3, [post3])]

/-- A second message of its flow waits behind it; and one that came on a link before that link was ROUTED. -/
def sBehind : State := { sGate (mD 0 3 0) with net := { (sGate (mD 0 3 0)).net with arrived := [mD 0 3 0, { mD 0 3 0 with id := 6 }] } }
def mEarly : Msg := { mD 0 3 0 with early := true }
def sEarlyOn (st : LState) : State := let s := sGate mEarly; { s with net := { s.net with links := s.net.links.setIfInBounds 8 { Link.reset with state := st } } }
/-- A message for chip 9 whose head met an entry that names port 4, whose link 16 is ROUTED. -/
def mOn : Msg := { mGate 9 4 0 with route := 12 }
def sOn : State := let s := sGate mOn; { s with net := { s.net with links := s.net.links.setIfInBounds 16 { Link.reset with state := .routed } } }

set_option maxRecDepth 100000 in
theorem test_witness_WayOfMessages :
    (sBehind.msg? 6 = some { mD 0 3 0 with id := 6 } ∧ sBehind.behind { mD 0 3 0 with id := 6 } = true ∧ sBehind.behind (mD 0 3 0) = false) ∧
    (∀ st ∈ [LState.ident, .quarantined], (sEarlyOn st).msg? 5 = some mEarly ∧ (sEarlyOn st).behind mEarly = false ∧ mEarly.link = some 8 ∧
      ((sEarlyOn st).link 8).state = st) ∧
    (sOn.msg? 5 = some mOn ∧ sOn.behind mOn = false ∧ mOn.early = false ∧ mOn.dst ≠ sOn.chipId ∧ (sOn.takeMsg mOn).routeBy (some 2) mOn.route = some 4) := by
  refine ⟨?_, ?_, ?_⟩ <;> decide +kernel

theorem test_way_of_messages :
    after (exec (.data 5) (sEarlyOn .ident)) (fun t => t.net.arrived == [mEarly]) ∧
    after (exec (.data 5) (sEarlyOn .quarantined)) (fun t => t.net.arrived == []) := by
  refine ⟨?_, ?_⟩ <;> decide +kernel

set_option maxRecDepth 100000 in
theorem test_witness_MailboxMessages :
    (∀ m ∈ [mD 24 3 0, mD 0 4 0, mD 0 3 1, mD 0 3 0], reachedB (sBox at3 [] m) mtData m = true) ∧
    ((sBox at3 [] (mD 0 3 0)).inboxActive 0 3 = true ∧ (sBox at3 [] (mD 0 3 0)).pfld 0 (offIbox 3) 19 8 = (mD 0 3 0).srcChip ∧
      (sBox at3 [] (mD 0 3 0)).pfld 0 (offIbox 3) 28 24 = (mD 0 3 0).spitch ∧ (sBox at3 [] (mD 0 3 0)).inboxActive 0 4 = false) ∧
    ((mD 0 3 1).job ≠ 0 ∧ (mD 0 3 0).job = 0 ∧ (sBox [] [] (mD 0 3 0)).postedAt 0 3 = [] ∧ (sBox at3 [] (mD 0 3 0)).postedAt 0 3 = [post3] ∧
      (sBox at3 [] (mD 0 3 0)).xferAt 0 7 2 = some xPost ∧ TDesc.parse (base.stallsOf 0) xPost.d = some d7 ∧
      (match (((sBox at3 [] (mD 0 3 0)).takeMsg (mD 0 3 0)).setPosted 0 3 []).fill 0 xPost d7 (mD 0 3 0).data with | .ok _ => true | .error _ => false) = true) ∧
    (reachedB (sBox [] [sent5] (mAns mtAck 77)) mtAck (mAns mtAck 77) = true ∧ (sBox [] [sent5] (mAns mtAck 77)).sent? 77 false = some sent5 ∧
      (sBox [] [] (mAns mtAck 77)).sent? 77 false = none ∧ (sBox [] [] (mAns mtAck 77)).pair.sent = []) ∧
    (let m := mAns mtRefuse (77 + 0x51 * 2 ^ 32)
     reachedB (sBox [] [sent5] m) mtRefuse m = true ∧ (sBox [] [sent5] m).net.sent.find? (fun y => y.msgid == bits m.arg 31 0) = some sent5 ∧
       Status.ofCode (bits m.arg 47 32) = some .peerUnreachable ∧ Tab.rising (sBox [] [sent5] m).net.credits = true) ∧
    (∀ a ∈ [64 + 9 * 2 ^ 24, 9 * 2 ^ 24 + 2 ^ 32], reachedB (sBox [] [] (mAns mtCredit a)) mtCredit (mAns mtCredit a) = true ∧
      (sBox [] [] (mAns mtCredit a)).outboxFor 0 (3, 2, bits (mAns mtCredit a).arg 31 24) = some 5) ∧
    (sBox [] [] (mAns mtCredit 0)).outboxFor 0 (3, 2, bits (mAns mtCredit 0).arg 31 24) = none := by
  refine ⟨?_, ?_, ?_, ?_, ?_, ?_, ?_⟩ <;> decide +kernel

set_option maxRecDepth 100000 in
theorem test_mailbox_messages :
    after (exec (.ack 5) (sBox [] [sent5] (mAns mtAck 77))) (fun t => t.net.sent == [] && ((t.xferAt 0 7 2).map (·.written)) == some true) ∧
    after (exec (.credit 5) (sBox [] [] (mAns mtCredit (64 + 9 * 2 ^ 24)))) (fun t => t.creditsOf 0 5 == [16, 64]) ∧
    after (exec (.credit 5) (sBox [] [] (mAns mtCredit (9 * 2 ^ 24 + 2 ^ 32)))) (fun t => t.creditsOf 0 5 == []) := by
  refine ⟨?_, ?_, ?_⟩ <;> decide +kernel

/-- A window request or its answer; a request of ours that was granted; a collective of job 0; a suspension of job 4. -/
def mW (ty arg : Nat) (data : List Byte) : Msg := msg 0 0 0 ty 8 0 arg data
def sentW : Sent := { sent5 with win := true, granted := true, credit := none }
def coll4 : Coll :=
  { serial := 6, pitch := 0, addr := 0x3000, header := [], members := [], nextSend := 0, nextRecv := 0, done := 0, launches := [], slowed := false }
def slow4 : Slow := { job := 4, first := 0, origins := [(0x6000, 2, 9)], holding := [(0x6000, 2)] }
def sW (m : Msg) (g : List Grant) (sent : List Sent) (cs : List Coll) (sl : List Slow) : State :=
  let s := sX { xf .send 0 (td 0x900 1 1 0 0 2 0) with begun := true } [] []
  { s with net := { s.net with arrived := [m], grants := g, sent := sent, colls := cs, slows := sl },
           clk := { s.clk with time := 1000000000000, floor := 2000000000000 } }

set_option maxRecDepth 100000 in
theorem test_witness_WindowAndCollectiveMessages :
    (∀ ty ∈ [mtWreq, mtWresp, mtCollEnd, mtSlow], reachedB (sW (mW ty 77 []) [] [] [] []) ty (mW ty 77 []) = true) ∧
    ((sW (mW mtWresp 77 []) [⟨3, 77, 0, 0x900, 8, 0⟩] [] [] []).net.grants.find? (fun y => y.chip == 3 && y.msgid == 77) = some ⟨3, 77, 0, 0x900, 8, 0⟩ ∧
      (sW (mW mtWresp 77 []) [] [] [] []).sent? 77 true = none ∧ (sW (mW mtWresp 77 []) [] [sentW] [] []).sent? 77 true = some sentW ∧
      sentW.granted = true ∧ (sW (mW mtWresp 77 []) [] [sentW] [] []).xferAt 0 7 2 = some { xf .send 0 (td 0x900 1 1 0 0 2 0) with begun := true } ∧
      (TDesc.parse (base.stallsOf 0) (td 0x900 1 1 0 0 2 0)).isSome = true) ∧
    ((sW (mW mtCollEnd 0x60 []) [] [] [coll4] []).net.colls.find? (fun k => k.pitch == 0 && k.job == 0 && k.id == 0) = some coll4 ∧
      Status.ofCode (bits (mW mtCollEnd 0x60 []).arg 15 0) = some .hwFault) ∧
    (let m := mW mtSlow (4 + 0x6000 * 2 ^ 16) []
     bits m.arg 47 40 = 0 ∧ slow4.job = bits m.arg 15 0 ∧ bits m.arg 31 16 = 0x6000) ∧
    (bits (mW mtSlow (2 ^ 40) []).arg 47 40 ≠ 0 ∧ (sW (mW mtSlow (2 ^ 40) []) [] [] [coll4] []).net.colls.filter (fun c => c.job == 0) ≠ []) ∧
    (let m := mW mtSlow (4 + 0x6000 * 2 ^ 16 + 2 * 2 ^ 32 + 2 ^ 40) (leBytes 8 9)
     bits m.arg 47 40 ≠ 0 ∧ slow4.job = bits m.arg 15 0 ∧ ∃ o ∈ slow4.origins, o.1 = bits m.arg 31 16 ∧ o.2.2 = BitVec.ofNat 64 (leNat (m.data.take 8))) ∧
    ((sW (mW mtSlow 0 []) [] [] [] [{ slow4 with first := 2000000000000 }]).now = 2000000000000 ∧ 0 < (sW (mW mtSlow 0 []) [] [] [] [slow4]).slowLimit) ∧
    ((sW (mW mtSlow 0 []) [] [] [] [slow4]).slowLimit ≤ 1000000000000 ∧
      (sW (mW mtSlow 0 []) [] [] [] [slow4]).clk.floor = 2000000000000) := by
  refine ⟨?_, ?_, ?_, ?_, ?_, ?_, ⟨now_floor ?_ ?_, ?_⟩, ?_⟩ <;> decide +kernel

/-- An FK2-D1536 whose bridge link 28 carries messages of chip 3, in a place of a pair. -/
def sPair2 (p : Pair) (m : Option Msg) : State :=
  let s := { sPkg with regs := [(regKey 0 (offPcfg 0), 0x1000001#64), (regKey 0 (offPort 7), 0x700309#64)], pair := p, clk := { sPkg.clk with time := 100000000, floor := 200000000 }, md := { sPkg.md with clerk := true, rails := 6 } }
  { s with net := { s.net with arrived := m.toList, links := s.net.links.setIfInBounds 28 { Link.reset with state := .routed, seen := some (3, 7, 0) } } }
def pr (mode : Nat) (primary : Bool) (st : PairState) : Pair := { Pair.reset with mode := mode, primary := primary, state := st }
def mP (ty arg : Nat) (data : List Byte) : Msg := { msg 0 0 0 ty 0 0 arg data with link := some 28 }

set_option maxRecDepth 100000 in
theorem test_witness_PairEvents :
    (∀ ty ∈ [mtPairWrite, mtPairState, mtPairDigest, mtPairFail], (sPair2 (pr 1 false .paired) (some (mP ty 0 (List.replicate 64 7)))).msg? 5 = some (mP ty 0 (List.replicate 64 7)) ∧
      (mP ty 0 (List.replicate 64 7)).mtype = ty ∧ (mP ty 0 (List.replicate 64 7)).early = false ∧
      (sPair2 (pr 1 false .paired) (some (mP ty 0 (List.replicate 64 7)))).behind (mP ty 0 (List.replicate 64 7)) = false ∧ (mP ty 0 (List.replicate 64 7)).dst = (sPair2 (pr 1 false .paired) none).chipId ∧
      (mP ty 0 (List.replicate 64 7)).link.map (· / 4) = some 7 ∧ (mP ty 0 (List.replicate 64 7)).depoch = (sPair2 (pr 1 false .paired) none).net.epoch.toNat) ∧
    ((sPair2 (pr 1 false .paired) none).shadow = true ∧ (sPair2 (pr 1 false .paired) none).d1536 = true ∧ (sPair2 (pr 1 false .paired) none).dieDown = false ∧
      (mP mtPairWrite 0 (List.replicate 64 7)).data.length = 64 ∧ (sPair2 (pr 1 false .paired) none).livePitches = [] ∧
      64 ≤ (sPair2 (pr 1 false .paired) none).spaceOf 0) ∧
    ((sPair2 (pr 2 true .paired) none).leads = true ∧ (sPair2 (pr 2 true .paired) none).pair.mode = 2 ∧ (sPair2 (pr 2 true .paired) none).pair.awaiting = []) ∧
    ((sPair2 (pr 2 false .joining) none).pair.state = .joining ∧ (sPair2 (pr 2 false .joining) none).routedLinks 7 = [28] ∧
      (sPair2 (pr 2 false .joining) none).planOf 7 = some ((sPair2 (pr 2 false .joining) none).partner, 7) ∧
      ((sPair2 (pr 2 false .joining) none).portSeen 7).map (fun x => (x.1, x.2.1)) = (sPair2 (pr 2 false .joining) none).planOf 7 ∧
      (sPair2 (pr 2 false .joining) none).liveStalls = 48) ∧
    ((sPair2 Pair.reset none).md.clerk = true ∧ (sPair2 Pair.reset none).pair.state ≠ .paired) ∧
    ((sPair2 (pr 2 true .paired) none).pair.beatBridge.toNat + 1000000 ≤ 200000000) := by
  refine ⟨?_, ?_, ?_, ?_, ?_, ?_⟩ <;> decide +kernel

theorem test_heartbeats :
    after (exec .heartbeat (sPair2 Pair.reset none)) (fun t => t.out.length == 2) ∧
    after (exec .heartbeatSilence (sPair2 Pair.reset none)) (fun t => t.pair == Pair.reset) := by
  refine ⟨?_, ?_⟩ <;> decide +kernel
/-! ### Chip resets, power, the module -/

/-- A stocktake area of 1 MiB that is ready; a stocktake at its first unit; and the compute-die reset. -/
def sStock (cfg : W64) (k : Option Stock) (step : Nat) (held : Bool) : State :=
  let s := wr State.reset [((0, offGhDumpBase), 0x100001), ((0, offGhDumpCfg), cfg)]
  { s with crst := { Crst.reset with step := step, stock := k, held := held } }
def k0 : Stock := ⟨0, 5, 64, 0, 0, false⟩

/-- A launch is watched: it had the moves it has, or one less, at the last window. -/
def sHang (w : Option Watch) : State :=
  let s := wr (live (with0 c0) []) [((0, offHangWin), 0x10001)]
  { s with health := { s.health with hangWin := 0x10001 }, watch := w.toList.map (fun x => (0, x)), clk := { s.clk with time := 100000000, floor := 200000000 } }

set_option maxRecDepth 100000 in
theorem test_witness_ChipResets :
    (Accepts State.reset 0 offCrst ∧ ResetFree State.reset ∧ State.reset.stockOk = false) ∧
    (Accepts (sStock 1 none 0 false) 0 offCrst ∧ ResetFree (sStock 1 none 0 false) ∧ (sStock 1 none 0 false).stockOk = true) ∧
    ((sStock 1 none 5 false).crst.held = false ∧ (sStock 1 none 5 false).crst.step = 5 ∧ (sStock 1 none 5 false).crst.stock = none ∧
      (sStock 1 none 5 false).crst.perst = false ∧ (sStock 1 none 5 true).crst.held = true) ∧
    ((sStock 1 (some k0) 4 false).crst.stock = some k0 ∧ k0.next < k0.total ∧ k0.bytes + 16 + 8 * 4 ≤ (sStock 1 (some k0) 4 false).stockRoom) ∧
    ((sHang none).health.hangAt.toNat + (sHang none).hangWindow ≤ 200000000 ∧ (sHang none).clk.floor = 200000000 ∧ (sHang none).hangOn = true ∧
      (sHang none).dieDown = false ∧ (sHang none).subjects.map (fun x => (x.key, x.moves)) = [(0, 0)] ∧ (wr State.reset [((0, offHangWin), 0x10001)]).subjects.length = 0) ∧
    (∀ b, Tab.find (sHang (some ⟨0, 5, b⟩)).watch 0 = some ⟨0, 5, b⟩) ∧ { (sHang none) with health := { Health.reset with hangWin := 1 } }.hangOn = false := by
  unfold ResetFree
  refine ⟨⟨accepts rfl ?_ ?_, ?_⟩, ⟨accepts rfl ?_ ?_, ?_⟩, ?_, ?_, ?_, ?_, ?_⟩ <;> decide +kernel

theorem test_chip_resets :
    after (exec .crstGo State.reset) (fun t => t.crst.cause == 1 && t.crst.count == 1 && t.crst.step == 5 && t.net.epoch == 1) ∧
    after (exec .crstDump State.reset) (fun t => t.crst.step == 5 && t.fld 0 offGhDumpCfg 47 32 == 1) ∧
    after (exec .computeDieResetDone (sStock 1 none 5 false)) (fun t => t.crst.step == 6 && t.raw 0 offGhDumpBase == 0x100001) := by
  refine ⟨?_, ?_, ?_⟩ <;> decide +kernel

theorem test_witness_FatalFaults :
    ResetFree State.reset ∧ (State.reset.pitch 0).state = .off ∧ ((base.pitch 0).state = .running ∧ base.pair.state = .independent) ∧
    ((sStock 1 none 5 true).crst.held = true ∧ (sStock 1 none 5 true).md.started = true ∧ (sStock 1 none 5 true).pair.state = .independent) ∧
    (s0.dieDown = false ∧ s0.pair.state = .independent ∧ s0.pstall 0 < 52 ∧ s0.launchesOn 0 = [0] ∧ s0.launch? 0 = some run0 ∧ run0.ended = none) := by
  unfold ResetFree
  refine ⟨?_, ?_, ?_, ?_, ?_⟩ <;> decide +kernel

theorem test_fatal_faults :
    after (exec (.uncorrectableStateError (.stall 0 true) 7) s0) (fun t => (t.launch? 0).map (·.ended) == some (some .hwFault) && t.health.out.getLsbD (s0.pstall 0)) ∧
    after (exec (.callerSilence 1) State.reset) (fun t => t.crst.cause == 2 && t.crst.step == 5) ∧
    after (exec (.uncorrectableStateError (.pitchState 0) 7) base) (fun t => (t.pitch 0).cause == 5 && t.crst.step == 0) := by
  refine ⟨?_, ?_, ?_⟩ <;> decide +kernel

/-- Stall 2, which pitch 0 does not hold, in a power state at 200 ms; and stall 0, which it holds. -/
def sPwr (st : PwrState) (pol : W64) : State :=
  let x : Stall := { Stall.reset with pwr := st, policy := pol }
  { base with stalls := (base.stalls.setIfInBounds 2 x).setIfInBounds 0 x, clk := { base.clk with time := 100000000, floor := 200000000 } }

/-- It dozes under a window in force. -/
def sWinNap : State := wr (sPwr .doze 20) [((0, offBayWin 0), vWin + 8)]

set_option maxRecDepth 100000 in
theorem test_witness_SleepStates :
    (((sPwr .active 0).stall 2).pwr = .active ∧ (sPwr .active 0).dieDown = false ∧ (sPwr .active 0).stallWork 2 = false ∧ (s0.stallWork 0 = true ∧ (s0.stall 0).pwr = .active)) ∧
    (((sPwr .doze 20).stall 2).pwr = .doze ∧ (sPwr .doze 20).stallHeld 2 = false ∧ (sPwr .doze 20).stallWork 2 = false ∧ (sPwr .doze 20).stallResets 2 = false ∧
      (sPwr .doze 20).windowOn 2 = false ∧ (sWinNap.windowOn 2 = true ∧ (sWinNap.stall 2).pwr = .doze) ∧
      ((sPwr .doze 20).stall 2).idleFrom.toNat + ((sPwr .doze 20).stall 2).napIdle ≤ 200000000 + 80 ∧
      ∀ x : Stall, x.idleFrom = 300000000 → 200000000 + 80 < x.idleFrom.toNat + x.napIdle) ∧
    (((sPwr .nap 0x0000000100010000).stall 2).pwr = .nap ∧ bit ((sPwr .nap 0x0000000100010000).stall 2).policy.toNat 16 = true ∧
      (sPwr .nap 0x0000000100010000).windowOn 2 = false ∧
      ((sPwr .nap 0x0000000100010000).stall 2).freeFrom.toNat + ((sPwr .nap 0x0000000100010000).stall 2).darkIdle ≤ 200000000 ∧
      bit ((sPwr .nap 0).stall 2).policy.toNat 16 = false) ∧
    ((sPwr .nap 0).inService 0 = true ∧ (sPwr .nap 0).pitchOfStall 0 ≠ none ∧ { (sPwr .nap 0) with health := { Health.reset with out := 1 } }.inService 0 = false) ∧
    (sPwr .nap 0).now = 200000000 := by
  refine ⟨?_, ⟨?_, ?_, ?_, ?_, ?_, ?_, ?_, fun x h => ?_⟩, ?_, ?_, now_floor ?_ ?_⟩ <;> first | decide +kernel | skip
  rw [h]; show 200000080 < 300000000 + x.napIdle; omega

theorem test_sleep_states :
    after (exec (.stallDoze 2) (sPwr .active 0)) (fun t => (t.stall 2).pwr == .doze) ∧
    after (exec (.stallWake 0) (sPwr .nap 0)) (fun t => (t.stall 0).pwr == .active && (t.stall 0).wakes == 1) := by
  refine ⟨?_, ?_⟩ <;> decide +kernel

/-- Limiting in a stage. -/
def sLim (stage ceil k : Nat) : State := { base with pw := { base.pw with stage := stage, ceil := ceil, k := k } }

set_option maxRecDepth 100000 in
theorem test_witness_PowerAndHeat :
    (base.limitW < 5000 ∧ ¬ base.limitW < 1000 ∧ base.pw.readings.length < 19) ∧
    (∀ x ∈ [(0, 74, 0), (1, 64, 0), (2, 40, 0), (2, 32, 0), (3, 32, 7), (3, 32, 2), (4, 32, 2)], (sLim x.1 x.2.1 x.2.2).pw.stage = x.1 ∧
      (sLim x.1 x.2.1 x.2.2).limitW < 5000) ∧
    ({ Stall.reset with fstep := 70 }.fstep > 64) ∧
    ((115 * 8 : BitVec 12).toInt = 115 * 8 ∧ (114 * 8 : BitVec 12).toInt < 115 * 8 ∧ base.md.rails ≠ 0 ∧ base.pair.state = .independent) ∧
    (base.pw.stage < 3 ∧ (∀ x ∈ base.sensorsOf 0, x.acts < 3) ∧ (base.sensor 0).valid = false) := by
  refine ⟨?_, ?_, ?_, ?_, ?_⟩ <;> decide +kernel

theorem test_power_and_heat :
    after (exec (.powerLimitPeriod 5000) (sLim 3 32 7)) (fun t => t.pw.stage == 3 && t.pw.k == 6) ∧
    after (exec .currentAlarm base) (fun t => t.pw.alarm && (t.stall 0).ithr) ∧
    after (exec (.dieSensorRead 3 (some (115 * 8))) base) (fun t => t.md.rails == 0 && t.md.latched && t.md.tripped) ∧
    after (exec (.thermalCeilingStep 3) base) (fun t => (t.sensor 3).ceil == 73) := by
  refine ⟨?_, ?_, ?_, ?_⟩ <;> decide +kernel

/-- The module as it stands in the rail order. -/
def sMd (f : Module → Module) : State := { State.reset with md := f State.reset.md }
def sOff : State := sMd (fun m => { m with rails := 0, started := false, pwrEn := false, verified := [], trained := false })

set_option maxRecDepth 100000 in
theorem test_witness_RailsAndSupply :
    (sOff.md.clerk = true ∧ sOff.md.rails = 0 ∧ sOff.md.applying = false ∧ sOff.md.removing = false ∧ sOff.md.latched = false ∧ sOff.md.tripTime = none) ∧
    (State.reset.md.rails = 6 ∧ State.reset.md.removing = false ∧ 0 < State.reset.md.rails ∧ State.reset.pair.state = .independent ∧ State.reset.md.supply = true) ∧
    (¬(State.reset.chip.part = .d1536 ∧ (2 : PortId).val = 7) ∧ (∀ j : Fin 32, ((sL (lk .routed)).link j).heads = []) ∧ ((sL (lk .routed)).link 8).state = .routed ∧ (sL (lk .routed)).pair.state = .independent ∧
      (sL (lk .routed)).md.rails = 6 ∧ (sL (lk .routed)).net.held = []) := by
  refine ⟨?_, ?_, ?_⟩ <;> decide +kernel

theorem test_rails_and_supply :
    after (exec .pwrEnAssert sOff) (fun t => t.md.applying && t.md.pwrEn) ∧
    after (exec (.railInLimits 5) (sMd (fun m => { m with rails := 5, applying := true }))) (fun t => t.md.rails == 6 && t.out == [.pin "PWRGD" true]) ∧
    after (exec .railOrderTimeout (sMd (fun m => { m with rails := 2, applying := true }))) (fun t => t.md.latched && t.md.removing) ∧
    after (exec (.railDischarged 2) (sMd (fun m => { m with rails := 3, removing := true }))) (fun t => t.md.rails == 2) ∧
    after (exec .undervoltage State.reset) (fun t => t.md.rails == 0 && t.md.notes == [⟨2, 0, 0⟩]) ∧
    after (exec .lossOfSupply State.reset) (fun t => !t.md.supply && t.regs == []) ∧
    after (exec (.cableOvercurrent 2) (sL (lk .routed))) (fun t => (t.link 8).state == .train && t.md.cableOff == 4) := by
  refine ⟨?_, ?_, ?_, ?_, ?_, ?_, ?_⟩ <;> decide +kernel

/-- The supply is down; start-up at LINK, at training and at FRONT; and the last step of a chip reset of pitch 0. -/
def sDown0 : State := sMd (fun m => { m with supply := false, clerk := false, pwrEn := false })
def sUp (v : List Nat) (tr : Bool) : State := sMd (fun m => { m with started := false, verified := v, trained := tr })
def sTrainEnd : State := { sRst 5 false with crst := { Crst.reset with step := 6, live := [0] } }

set_option maxRecDepth 100000 in
theorem test_witness_StartUp :
    (sDown0.md.supply = false ∧ (sDown0.comp 1).spare.st = .empty ∧ sDown0.md.pwrEn = false ∧ State.reset.md.supply = true) ∧
    ((sUp [] false).starting = true ∧ actOrder[(sUp [] false).md.verified.length]? = some 5 ∧ ((sUp [] false).comp 5).spare.st = .empty) ∧
    ((sUp [5, 4, 3] true).starting = true ∧ actOrder[(sUp [5, 4, 3] true).md.verified.length]? = some 2 ∧ ((sUp [5, 4, 3] true).comp 2).spare.st = .empty) ∧
    ((sUp [5, 4] false).starting = true ∧ (sUp [5, 4] false).md.verified.contains 4 = true ∧ (sUp [5, 4] false).md.verified.contains 2 = false ∧
      (sUp [5, 4] false).crst.step = 0 ∧ (sUp [5, 4] false).md.trained = false ∧ (∀ k : Fin 12, ((sUp [5, 4] false).stack k).off = false ∧ ((sUp [5, 4] false).stack k).step < 3)) ∧
    (sTrainEnd.crst.held = false ∧ sTrainEnd.crst.step = 6 ∧ sTrainEnd.crst.live = [0] ∧ (∀ u : Fin 24, sTrainEnd.unitOff u = false) ∧
      sTrainEnd.crst.unconfirmed = [] ∧ (sTrainEnd.comp 4).spare.st = .empty ∧ sTrainEnd.tableActive 0 = false ∧ (0 : Nat) ∈ sTrainEnd.unitsOf 0 ∧ (sTrainEnd.pitch 0).teardown = false ∧ sTrainEnd.crst.perst = false ∧
      (∀ k : Fin 12, (sTrainEnd.stack k).off = false ∧ (sTrainEnd.stack k).step < 3)) ∧
    (State.reset.md.started = true ∧ (sUp [] false).md.started = false) := by
  refine ⟨?_, ?_, ?_, ?_, ?_, ?_⟩ <;> decide +kernel

set_option maxRecDepth 100000 in
theorem test_start_up :
    after (exec (.supplyGood true false) sDown0) (fun t => t.md.supply && t.md.clerk) ∧
    after (exec (.componentVerified 1 true false) (sUp [5, 4, 3] true)) (fun t => t.md.started) ∧
    after (exec (.hbmTrainingDone [] [] []) sTrainEnd) (fun t => t.crst.step == 0 && (t.pitch 0).state == .running && t.fe.wake) ∧
    after (exec (.hbmTrainingDone [] [.silent 0 [64]] []) sTrainEnd) (fun t => t.crst.step == 0 && (t.pitch 0).state == .failed) ∧
    after (exec .perstAssert State.reset) (fun t => t.crst.cause == 3 && t.md.perst && !t.md.hostUp) := by
  refine ⟨?_, ?_, ?_, ?_, ?_⟩ <;> decide +kernel
/-! ### Security, firmware, the set-up window, the sideband -/

/-- A device with an installer key, or with none, whose pitches are off; and with pitch 0 running. -/
def key1 : Key := ⟨1, List.replicate 97 5⟩
def sKey (k : Option Key) (pol : BitVec 6) : State := { State.reset with sec := { State.reset.sec with installer := k, policy := pol } }

theorem test_witness_KeyCommands :
    ((∀ k ∈ [none, some key1], (sKey k 0x0E).mem.reqs = [] ∧ (sKey k 0x0E).sec.book.stalled = false ∧ (sKey k 0x0E).livePitches = [] ∧
      ((sKey k 0x0E).pitch 0).state = .off) ∧ (sKey none 0x0E).settleHost 0 = sKey none 0x0E ∧ (sKey none 0x0E).canonical) ∧
    (bit (sKey none 0x0E).ialg 0 = true ∧ bit (sKey none 0x0A).ialg 0 = true ∧ bit (sKey none 0x08).ialg 0 = false ∧ (List.replicate 97 (5 : Byte)).length = keyLen 1) ∧
    (base.livePitches ≠ [] ∧ (base.pitch 0).state ≠ .off ∧ base.sec.book.stalled = false) ∧
    (bits (0x0E : BitVec 6).toNat 4 3 ≠ 0 ∧ bits (0x06 : BitVec 6).toNat 4 3 = 0) := by
  refine ⟨⟨?_, rfl, by unfold State.canonical; decide +kernel⟩, ?_, ?_, ?_⟩ <;> decide +kernel

theorem test_key_commands :
    after (exec (.enroll 2 1 (List.replicate 97 5) [] false) (sKey none 0x0E)) (fun t => t.sec.installer == some key1 && t.sec.result == 0) ∧
    after (exec (.enroll 2 1 (List.replicate 97 5) [] false) (sKey (some key1) 0x0E)) (fun t => t.sec.count == 0 && t.sec.result == 0x10) ∧
    after (exec (.revoke 2 [] false) (sKey (some key1) 0x0E)) (fun t => t.sec.installer == some key1 && t.sec.result == 0x10) ∧
    after (exec (.policy 0x06 [] false) (sKey (some key1) 0x0E)) (fun t => t.sec.policy == 0x0E && t.sec.result == 0x11) := by
  refine ⟨?_, ?_, ?_, ?_⟩ <;> decide +kernel

/-- A book with a record at its write point, some records open; a consent token up to FK time 300 ms. -/
def sBook (op : Nat) : State :=
  let b : Book := { Book.reset with next := 9, point := 9, slots := [(7, (8, List.replicate 128 1))], open' := op, oldest := 200000000, sealedAt := 3 }
  { sKey (some key1) 0x2E with sec := { (sKey (some key1) 0x2E).sec with book := b, nonce := some (List.replicate 32 7) },
                               clk := { State.reset.clk with time := 100000000, floor := 200000000 } }
def tokenB : List Byte := List.replicate 56 0 ++ leBytes 8 300000000
def sDbg (un : Bool) (floor : W64) : State :=
  let s := sBook 0
  { s with sec := { s.sec with consent := some tokenB, unlocked := un }, clk := { s.clk with floor := floor } }

set_option maxRecDepth 100000 in
theorem test_witness_AuditAndDebug :
    ((sBook 3).settleHost 0 = sBook 3 ∧ (sBook 3).canonical ∧ (sBook 3).sec.book.stalled = false) ∧
    ((((sBook 3).sec.book.inOrder.filter (fun e => decide (5 ≤ e.1))).take 4).map (·.2) = [List.replicate 128 1] ∧
      (((sBook 3).sec.book.inOrder.filter (fun e => decide (50 ≤ e.1))).take 4).map (·.2) = []) ∧
    ((sBook 0).sec.book.open' = 0 ∧ (sBook 3).sec.book.open' ≠ 0 ∧ (sBook 3).sec.book.open' < 256 ∧ 256 ≤ (sBook 300).sec.book.open' ∧ BookRoom (sBook 3)) ∧
    ((sKey none 0x0E).debugAllowed = false ∧ (sBook 3).debugAllowed = true) ∧
    ((sDbg false 200000000).sec.consent = some tokenB ∧ (sDbg false 200000000).livePitches = [] ∧ (sDbg false 200000000).sec.unlocked = false ∧
      200000000 ≤ (sDbg false 200000000).notAfter ∧ (sBook 3).sec.consent = none) ∧
    ((sDbg true 400000000).sec.unlocked = true ∧ (sDbg true 400000000).notAfter < 400000000) := by
  unfold BookRoom
  refine ⟨⟨rfl, by unfold State.canonical; decide +kernel, ?_⟩, ?_, ?_, ?_, ?_, ?_⟩ <;> decide +kernel

theorem test_debug_expires :
    after (exec .debugExpiry (sDbg false 400000000)) (fun t => t.sec.consent == some tokenB) ∧
    after (exec (.auditSeal false) (sBook 0)) (fun t => t.sec.book.sealedAt == 3) := by
  refine ⟨?_, ?_⟩ <;> decide +kernel

/-- SQ 7 is the PF's admin SQ with a firmware descriptor; component `c` has an image of 100 bytes in a state; its session. -/
def ent100 : List Byte := shippedEntry.take 8 ++ leBytes 4 100 ++ shippedEntry.drop 12
def sess (c : Nat) : FwSess := ⟨1, [c], 0xC000, 0, 0, 0, 0⟩
def sFw (c : Nat) (st : FwSt) (op : Byte) (body : List Byte) : State :=
  let s := sF { sq7 true [dsc op body] with fn := 0 }
  let z : FwComp := { FwComp.reset with b := ⟨st, ent100, [], 1⟩ }
  { s with fw := { s.fw with comps := s.fw.comps.setIfInBounds (c - 1) z, sess := some (sess c) } }
def bBlock (c : Byte) (off len : Nat) : List Byte := [c, 0, 0, 0] ++ leBytes 4 off ++ leBytes 4 len ++ List.replicate 4 0 ++ leBytes 8 0xD000

/-- The LINK activation has come to port 7; and a LINK image in a state after a number of trial starts. -/
def sPort : State :=
  let s := sFw 5 .committed 0x63 [5]
  { s with fw := { s.fw with port := some (7, 5, 7, (portLinks 7).map (fun i => (s.link i).state)) } }
def sTrial (st : FwSt) (n : Nat) : State :=
  { base with fw := { base.fw with comps := base.fw.comps.setIfInBounds 4 { FwComp.reset with b := ⟨st, ent100, [], n⟩ } } }

set_option maxRecDepth 100000 in
theorem test_witness_FirmwareUpdate :
    ((∃ x d, Heads (sFw 1 .loading 0x60 []) 7 0x60 x d) ∧ (sFw 1 .loading 0x60 []).openFails [] 0 false = some .badDescriptor) ∧
    ((∃ x d, Heads (sFw 1 .loading 0x61 (bBlock 1 4096 100)) 7 0x61 x d) ∧
      ((sFw 1 .loading 0x61 []).comp 1).spare = ⟨.loading, ent100, [], 1⟩ ∧ entLength ent100 = 100 ∧
      fieldAt (dsc 0x61 (bBlock 1 4096 100)).bytes 12 4 = 4096 ∧ fieldAt (dsc 0x61 (bBlock 1 4096 100)).bytes 16 4 = 100) ∧
    ((∃ x d, Heads (sFw 1 .loading 0x61 (bBlock 1 0 100)) 7 0x61 x d) ∧ fieldAt (dsc 0x61 (bBlock 1 0 100)).bytes 12 4 = 0 ∧
      fieldAt (dsc 0x61 (bBlock 1 0 100)).bytes 8 1 = 1 ∧ fieldAt (dsc 0x61 (bBlock 1 0 100)).bytes 16 4 = 100) ∧
    ((∃ x d, Heads (sFw 1 .loading 0x62 [1]) 7 0x62 x d) ∧ (sFw 1 .loading 0x62 [1]).fw.sess = some (sess 1) ∧ 1 ∈ (sess 1).comps) ∧
    ((∀ c ∈ [1, 4, 5], (sFw c .committed 0x63 [BitVec.ofNat 8 c]).activateFails c = false) ∧
      (∃ x d, Heads (sFw 1 .committed 0x63 [1]) 7 0x63 x d) ∧ (∃ x d, Heads (sFw 4 .committed 0x63 [4]) 7 0x63 x d) ∧
      (∃ x d, Heads (sFw 5 .committed 0x63 [5]) 7 0x63 x d) ∧ (sFw 5 .committed 0x63 [5]).fw.port = none) ∧
    ((∃ x d, Heads sPort 7 0x63 x d) ∧ sPort.activateFails 5 = false ∧
      ∃ b, sPort.fw.port = some (7, (dsc 0x63 [5]).hseq, 7, b) ∧ sPort.portBack 7 b = true) ∧
    ((∃ x d, Heads (sFw 1 .loading 0x63 [1]) 7 0x63 x d) ∧ (sFw 1 .loading 0x63 [1]).activateFails 1 = true) ∧
    (((sTrial .trial 1).comp 5).spare.st = .trial ∧ ((sTrial .trial 1).comp 5).spare.trials < 2 ∧ 2 ≤ ((sTrial .trial 2).comp 5).spare.trials ∧
      ((sTrial .trial 2).comp 5).spare.st = .trial ∧ ((sTrial .loading 0).comp 5).spare.st ≠ .trial) := by
  refine ⟨⟨headsB_spec ?_, ?_⟩, ⟨headsB_spec ?_, ?_, ?_, ?_⟩, ⟨headsB_spec ?_, ?_⟩, ⟨headsB_spec ?_, rfl, ?_⟩,
    ⟨?_, headsB_spec ?_, headsB_spec ?_, headsB_spec ?_, ?_⟩, ⟨headsB_spec ?_, ?_, _, rfl, ?_⟩, ⟨headsB_spec ?_, ?_⟩, ?_⟩ <;> decide +kernel

theorem test_firmware_update :
    after (exec (.fwConfirm 4) (sTrial .trial 1)) (fun t => (t.comp 5).active.st == .active && (t.comp 5).active.entry == ent100 && (t.comp 5).spare.st == .previous) ∧
    after (exec (.fwTrialFailure 4) (sTrial .trial 1)) (fun t => (t.comp 5).spare.trials == 2) ∧
    after (exec (.fwTrialFailure 4) (sTrial .trial 2)) (fun t => (t.comp 5).spare.st == .failed) ∧
    after (exec (.fwActivate 7) (sFw 4 .committed 0x63 [4])) (fun t => (t.comp 4).spare.st == .armed) ∧
    after (exec (.fwBlock 7 [1]) (sFw 1 .loading 0x61 (bBlock 1 4096 100))) (fun t => (t.comp 1).spare == ⟨.loading, ent100, [], 1⟩) := by
  refine ⟨?_, ?_, ?_, ?_, ?_⟩ <;> decide +kernel

/-- The host is up and the die serves; the die is held in reset; or debug is unlocked with every scope. -/
def sHost : State := { base with md := { base.md with hostUp := true } }
def sHeld : State := { sHost with crst := { sHost.crst with held := true } }
def sOpen : State :=
  { sHost with sec := { sHost.sec with unlocked := true, spdmStep := 3, consent := some (List.replicate 64 0xFF) } }
def hostBytes : List Byte := [1, 2, 3, 4]

set_option maxRecDepth 100000 in
theorem test_witness_WindowAndSideband :
    (sHost.md.hostUp = true ∧ sHost.dieDown = false ∧ sHost.fnThere 1 = true ∧ sHost.fnThere 5 = true) ∧
    (sHost.hostView 5 0x100 = none ∧ sHost.hostView 1 0x100 = some (0, 0x100, false) ∧ lineRuns 0x100 hostBytes.length = [(0x100, hostBytes.length)] ∧
      sHost.hostPlace 0 false .csWrite 0x100 hostBytes.length = .ok at100 ∧ sHost.settleHost 1 = sHost ∧
      sHost.hostPlace 0 false .read 0x100 4 = .ok at100) ∧
    (sHost.hostView 1 0x40000000 = some (0, 0x40000000, false) ∧ lineRuns 0x40000000 hostBytes.length = [(0x40000000, hostBytes.length)] ∧
      sHost.hostPlace 0 false .csWrite 0x40000000 hostBytes.length = .denied false) ∧
    (sHeld.md.hostUp = true ∧ sHeld.dieDown = true ∧ sHeld.fnThere 1 = true) ∧
    (sOpen.endpointUp true = true ∧ sOpen.endpointUp false = true ∧ sOpen.sec.spdmStep = 3 ∧ sOpen.session? 9 = none) ∧
    ({ sOpen with md := { sOpen.md with clerk := false } : State }.endpointUp false = false) ∧
    (sOpen.md.supply = true ∧ sHost.sec.unlocked = false ∧ sOpen.jtagMay 0 = true ∧ sOpen.jtagMay 1 = true ∧ sOpen.jtagMay 3 = true) := by
  refine ⟨?_, ⟨?_, ?_, ?_, ?_, rfl, ?_⟩, ?_, ?_, ?_, ?_, ?_⟩ <;> decide +kernel

theorem test_pldm :
    after (exec (.mctpControlMessage false (.pldm (.read (.pitch 0)))) sOpen) (fun t => t.out == [.pldmReading false (some 1)]) ∧
    after (exec (.mctpControlMessage false (.pldm (.read (.pitch 0)))) { sOpen with crst := { Crst.reset with step := 5 } })
      (fun t => t.out == [.pldmReading false none]) ∧
    after (exec (.mctpControlMessage true (.pldm (.read (.stackTemp 2)))) { sOpen with mem := { sOpen.mem with hbms := sOpen.mem.hbms.setIfInBounds 2 { Stack.reset with temp := -8 } } })
      (fun t => t.out == [.pldmReading true (some (-8))]) := by
  refine ⟨?_, ?_, ?_⟩ <;> decide +kernel

theorem test_window_and_sideband :
    after (exec (.bar4Write 5 0x100 hostBytes false) sHost) (fun t => t.fld 5 offAccErr 47 32 == 1 && t.mem.reqs == []) ∧
    after (exec (.bar4Write 1 0x100 hostBytes false) sHost) (fun t => t.mem.reqs.length == 1) ∧
    after (exec (.bar4Read 1 0x200000 4) sHeld) (fun t => t.out == [.readData 1 [0, 0, 0, 0] false]) ∧
    after (exec (.mctpControlMessage true (.setEid 9)) sOpen) (fun t => t.out == [.mctp true (some 9)] && t.eid true == 9) ∧
    after (exec (.jtagInstruction (.memRead 0 0x200000 2)) sOpen) (fun t => t.out == [.jtag (some 3)]) ∧
    after (exec (.jtagInstruction (.memRead 0 0x200000 2)) sHost) (fun t => t.out == [.jtag none]) := by
  refine ⟨?_, ?_, ?_, ?_, ?_, ?_⟩ <;> decide +kernel

/-! ### The code of a memory line -/

/-- A line of 64 bytes, and its word with one symbol and with two symbols changed: a data symbol, the metadata, a check symbol. -/
def lineB : List Byte := (List.range 64).map (BitVec.ofNat 8)

theorem test_line_code_roots : gfSyndromes (lineEncode lineB true) = (0, 0, 0) ∧ gfSyndromes (lineEncode lineB false) = (0, 0, 0) := by
  refine ⟨?_, ?_⟩ <;> decide +kernel

theorem test_line_code :
    lineDecode (lineEncode lineB false) = .good ∧ lineDecode (symbolError (lineEncode lineB false) 8 0xBEEF) = .corrected 5 ∧
    lineDecode (symbolError (lineEncode lineB false) 35 1) = .corrected 32 ∧ lineDecode (symbolError (lineEncode lineB false) 0 0x8000) = .corrected 33 ∧
    lineDecode (symbolError (symbolError (lineEncode lineB false) 8 0xBEEF) 20 3) = .bad ∧
    lineDecode (symbolError (symbolError (lineEncode lineB false) 0 1) 35 1) = .bad := by
  refine ⟨?_, ?_, ?_, ?_, ?_, ?_⟩ <;> decide +kernel

/-! ### The whole block -/

/-- ADD by context 0 of stall 0 waits in the queue, before another. -/
def addI : Instr := .add 0 0 (fa 1 2 3 0 0)
def sPend : State := { s0 with pending := [addI, .auditCheckpoint] }
/-- Context 0 of stall 0 lies beyond its image. -/
def sPast : State := live (with0 { c0 with pc := 64 }) []

set_option maxRecDepth 100000 in
theorem test_witness_StepTakesFront :
    sPend.pending = addI :: [Instr.auditCheckpoint] ∧ s0.pending = [] ∧ step s0 = .next s0 := ⟨rfl, rfl, rfl⟩

set_option maxRecDepth 100000 in
theorem test_witness_CanonicalKept : sPend.canonical ∧ ∃ t, step sPend = .next t := ⟨by unfold State.canonical; decide +kernel, _, rfl⟩

theorem test_witness_NothingUndone : ∃ t, exec addI s0 = .next t := ⟨_, rfl⟩

theorem test_witness_InstructionGuards :
    guardOf addI = some (0, 0, false, 0) ∧ base.atIssue 0 0 = false ∧ (sPast.atIssue 0 0 = true ∧ sPast.inImage 0 0 = false) ∧
    (s0.atIssue 0 0 = true ∧ s0.inImage 0 0 = true ∧ s0.guard 0 0 false 2 = false ∧ s0.guard 0 0 true 1 = false) := by
  refine ⟨rfl, ?_, ?_, ?_⟩ <;> decide +kernel

/-- The 4-bit codes 1, 2, 3 of two bytes; the 6-bit codes of three bytes: 0x41 + 2^12 = 1 + 1 * 2^6 + 1 * 2^12. -/
theorem test_sub_byte_elements :
    unpackCodes 4 [0x21, 0x03] 3 = [1, 2, 3] ∧ unpackCodes 6 [0x41, 0x10, 0x00] 4 = [1, 1, 1, 0] ∧
    packCodes 6 [1, 1, 1, 0] = [0x41, 0x10, 0x00] ∧ (∀ c ∈ [1, 1, 1, 0], c < 2 ^ 6) := by decide

theorem test_sequence_order :
    precedes 0xFFFFFFFF 0 = true ∧ precedes 0 0x7FFFFFFF = true ∧ precedes 0 0x80000000 = false ∧ precedes 5 5 = false := by decide

/-! ### Ill-formed commands, one for each check -/

/-- A word address beyond a bay, and an empty pattern. -/
theorem test_ill_formed_upsets :
    (∀ u ∈ [[(2 ^ 22, (1 : BitVec 39))], [(0, 0)]], Instr.wf (.ldb 0 0 (fa 0 0 0 0 0) u) = false ∧ Instr.wf (.vld 0 0 (fa 0 0 0 0 0) u) = false ∧
      Instr.wf (.vldc 0 0 (fa 0 0 0 0 0) u) = false ∧ Instr.wf (.remoteBayRequest 0 0 u) = false ∧ Instr.wf (.porterTransferComplete 0 0 [] u) = false ∧
      Instr.wf (.encodedWritePass 0 0 u) = false ∧ Instr.wf (.wreq 0 u) = false ∧ Instr.wf (.wresp 0 u) = false ∧
      Instr.wf (.tensorOperationComplete 0 0 u) = false) ∧
    upsOk [(2 ^ 22 - 1, 1)] = true := by decide

/-- A symbol beyond the 36 of a codeword, in each place of a command; a line that is not aligned, and one beyond its unit. -/
theorem test_ill_formed_lines :
    (∀ o ∈ [LineOutcome.corrected 36], Instr.wf (.memoryRead none 0 0 o .good .good) = false ∧ Instr.wf (.memoryRead none 0 0 .bad o .good) = false ∧
      Instr.wf (.memoryRead none 0 0 .bad .bad o) = false ∧ Instr.wf (.memoryAtomic 0 o) = false ∧ Instr.wf (.patrolRead 0 o .good .good) = false ∧
      Instr.wf (.patrolRead 0 .bad o .good) = false ∧ Instr.wf (.patrolRead 0 .bad .bad o) = false) ∧
    Instr.wf (.memoryRead none 0 1 .good .good .good) = false ∧ Instr.wf (.memoryRead none 0 (2 ^ 35) .good .good .good) = false ∧
    Instr.wf (.hbmTrainingDone [] [.silent 0 [2 ^ 29]] []) = false ∧
    Instr.wf (.memoryRead none 0 64 (.corrected 35) .bad .good) = true := by decide

/-- Bells and registers beyond their pages, or of no size; entries beyond the count; slots of no 64 bytes; too many functions and links. -/
theorem test_ill_formed_front_end :
    Instr.wf (.bellWrite 0 4095 2 0) = false ∧ Instr.wf (.bellWrite 0 0 3 0) = false ∧ Instr.wf (.doorbellScan 0 []) = false ∧
    Instr.wf (.groupRescan 0 []) = false ∧ Instr.wf (.descriptorFetch 0 [[0]]) = false ∧ Instr.wf (.descriptorFetch 0 (List.replicate 17 (List.replicate 64 0))) = false ∧
    Instr.wf (.resync 0 [(1024, 0)]) = false ∧ Instr.wf (.vfDisable 25) = false ∧ Instr.wf (.registerWrite 0 (2 ^ 25 - 4) 8 0 false) = false ∧
    Instr.wf (.registerWrite 0 0 5 0 false) = false := by decide

/-- Headers and blocks beyond their fields. The last bytes are never made: a list of 2^32 is only spoken of. -/
theorem test_ill_formed_lengths :
    (∀ l : List Byte, 2 ^ 32 ≤ l.length → Instr.wf (.fwBlock 0 l) = false ∧ Instr.wf (.porterTransferComplete 0 0 l []) = false) ∧
    (∀ l : List Byte, 16384 < l.length → Instr.wf (.fwOpen 0 l) = false) := by
  refine ⟨fun l h => ⟨?_, ?_⟩, fun l h => ?_⟩ <;> simp [Instr.wf] <;> omega

/-- Numbers of the security commands and of the module's events beyond their fields; flits of no 256 bytes. -/
theorem test_ill_formed_numbers :
    Instr.wf (.enroll 256 1 [] [] false) = false ∧ Instr.wf (.enroll 2 256 [] [] false) = false ∧ Instr.wf (.revoke 256 [] false) = false ∧
    Instr.wf (.auditRead (2 ^ 64) 1 0 false) = false ∧ Instr.wf (.auditRead 0 (2 ^ 32) 0 false) = false ∧ Instr.wf (.auditAck (2 ^ 64) false) = false ∧
    Instr.wf (.debugUnlock 256 []) = false ∧ Instr.wf (.flitReceive 0 [] false) = false ∧ Instr.wf (.slowLimitExpiry (2 ^ 32)) = false ∧
    Instr.wf (.pairJoin 0 49 false) = false ∧ Instr.wf (.powerLoss 256) = false ∧ Instr.wf (.stocktakeReadTimeout (2 ^ 32)) = false ∧
    Instr.wf (.hbmTrainingDone (List.replicate 13 0) [] []) = false ∧ Instr.wf (.hbmTrainingDone [] [] (List.replicate 49 0)) = false ∧
    Instr.wf (.instructionCacheFill 0 0 (2 ^ 17)) = false := by decide

set_option maxRecDepth 10000 in
/-- Host accesses of no bytes, too many, or beyond BAR4; configuration requests; array words. -/
theorem test_ill_formed_host :
    Instr.wf (.bar4Write 0 0 [] false) = false ∧ Instr.wf (.bar4Write 0 0 (List.replicate 513 0) false) = false ∧
    Instr.wf (.bar4Write 0 (2 ^ 36 - 1) [0, 0] false) = false ∧ Instr.wf (.bar4Read 0 0 0) = false ∧ Instr.wf (.bar4Read 0 0 4097) = false ∧
    Instr.wf (.bar4Read 0 (2 ^ 36) 1) = false ∧ Instr.wf (.pcieConfigRequest 0 (.read 4096)) = false ∧ Instr.wf (.pcieConfigRequest 0 (.read 2)) = false ∧
    Instr.wf (.pcieConfigRequest 0 (.numVfs 25)) = false ∧ Instr.wf (.pcieConfigRequest 0 (.write 4096)) = false ∧
    Instr.wf (.pcieConfigRequest 0 (.write 2)) = false ∧ Instr.wf (.arraySlot 0 0 false none [(0, 0)]) = false := by decide

/-- SPDM, MCTP and JTAG requests. -/
theorem test_ill_formed_sideband :
    (∀ r ∈ [SpdmReq.getCertificate 8 0 0, .getCertificate 0 (2 ^ 16) 0, .getCertificate 0 0 (2 ^ 16), .challenge 8 (List.replicate 32 0), .challenge 0 [],
        .getMeasurements 256 (List.replicate 32 0), .getMeasurements 0 [], .keyExchange 8 true, .finish (some 8) [] true, .other 256],
      Instr.wf (.spdmMessage false none r) = false) ∧
    (∀ r ∈ [MctpReq.setEid 256, .other 256, .pldm (.base 256), .pldm (.pdr (2 ^ 32)), .pldm (.other 0 0), .pldm (.other 64 0), .pldm (.other 1 256)], Instr.wf (.mctpControlMessage false r) = false) ∧
    (∀ r ∈ [JtagOp.regRead 0 (2 ^ 25), .regRead 0 4, .regWrite 0 (2 ^ 25) 0, .regWrite 0 4 0, .memRead 0 (2 ^ 35) 1], Instr.wf (.jtagInstruction r) = false) := by
  decide
end Sys2Proof.Tests
end

section
/-! PROOF. Sequence numbers (R6), and the moves, comparisons and predicate operations of Table 5-7. -/

namespace Sys2Proof.Machine

/-! ### Sequence numbers -/

/-- R6, on the distance from `a` to `b` modulo 2^32. -/
theorem precedes_iff (a b : W32) :
    precedes a b = true ↔ 1 ≤ (b.toNat + 2 ^ 32 - a.toNat) % 2 ^ 32 ∧ (b.toNat + 2 ^ 32 - a.toNat) % 2 ^ 32 ≤ 2 ^ 31 - 1 := by
  have hd : (b - a).toNat = (b.toNat + 2 ^ 32 - a.toNat) % 2 ^ 32 := by
    rw [BitVec.toNat_sub]; congr 1; omega
  simp only [precedes, hd, Bool.and_eq_true, decide_eq_true_eq]

/-- A number at distance 0 or 2^31 is at that distance in both directions, and neither precedes the other. -/
theorem precedes_eq_false_of_dist {a b : W32}
    (h : (b.toNat + 2 ^ 32 - a.toNat) % 2 ^ 32 = 0 ∨ (b.toNat + 2 ^ 32 - a.toNat) % 2 ^ 32 = 2 ^ 31) :
    precedes a b = false ∧ precedes b a = false := by
  have ha := a.isLt
  have hb := b.isLt
  constructor <;> rw [Bool.eq_false_iff, ne_eq, precedes_iff] <;> omega

/-! ### The words and predicates that the instructions write -/

/-- MOVH's word is the low 22 bits of the immediate above the low 42 of the register. -/
theorem ofNat_movh_eq_append (g : W64) (i : BitVec 42) :
    BitVec.ofNat 64 (g.toNat % 2 ^ 42 + i.toNat % 2 ^ 22 * 2 ^ 42) = i.extractLsb' 0 22 ++ g.extractLsb' 0 42 := by
  have hg : g.toNat % 2 ^ 42 < 2 ^ 42 := Nat.mod_lt _ (by decide)
  apply BitVec.eq_of_toNat_eq
  rw [BitVec.toNat_append, BitVec.extractLsb'_toNat, BitVec.extractLsb'_toNat, Nat.shiftRight_zero, Nat.shiftRight_zero,
    ← Nat.shiftLeft_add_eq_or_of_lt hg, Nat.shiftLeft_eq, BitVec.toNat_ofNat, Nat.mod_eq_of_lt (by omega), Nat.add_comm]

/-- The word of FLAGS holds TILL_SAT as bit 0 and NONFINITE as bit 1. -/
theorem flagWord_eq (c : Ctx) : c.flagWord = BitVec.ofNat 64 (c.tillSat.toNat + 2 * c.nonfinite.toNat) := by
  cases ht : c.tillSat <;> cases hn : c.nonfinite <;> simp [Ctx.flagWord, b2n, ht, hn]

/-! ### The encoding checks that read a number -/

/-- A 42-bit immediate below 2^22 has nothing above its bit 21. -/
theorem ushiftRight_eq_zero_of_lt {i : BitVec 42} (h : i.toNat < 2 ^ 22) : (i >>> 22 == 0) = true := by
  rw [beq_iff_eq]
  apply BitVec.eq_of_toNat_eq
  rw [BitVec.toNat_ushiftRight, Nat.shiftRight_eq_div_pow, Nat.div_eq_of_lt h]; rfl

/-- A word below 2^k has no bit outside the mask of its low k bits. -/
theorem xOnly_of_lt_two_pow {x : BitVec 32} {k : Nat} (h : x.toNat < 2 ^ k) : xOnly x (2 ^ k - 1) = true := by
  rw [xOnly, beq_iff_eq]
  apply BitVec.eq_of_getLsbD_eq
  intro i hi
  rw [BitVec.getLsbD_and, BitVec.getLsbD_not, BitVec.getLsbD_ofNat, Nat.testBit_two_pow_sub_one]
  rcases Nat.lt_or_ge i k with hik | hik
  · simp [hi, hik]
  · have hx : x.getLsbD i = false := Nat.testBit_lt_two_pow (Nat.lt_of_lt_of_le h (Nat.pow_le_pow_right (by decide) hik))
    simp [hx]

end Sys2Proof.Machine

namespace Sys2Proof.Cert
open Sys2Proof.Machine

/-! ### Conditions and predicate operations -/

/-- Each of the seven conditions of CMP and CMPI is the truth value of what Table 5-7 says of it. -/
theorem scalarCond_eq_some {k : Nat} (hk : k < 7) {a b : W64} {v : Bool} (hv : v = true ↔ condition k a b) :
    scalarCond k a b = some v := by
  suffices h : ∃ w, scalarCond k a b = some w ∧ (w = true ↔ condition k a b) by
    obtain ⟨w, hw, hc⟩ := h
    rw [hw, Bool.eq_iff_iff.2 (hc.trans hv.symm)]
  match k, hk with
  | 0, _ => exact ⟨_, rfl, beq_iff_eq⟩
  | 1, _ => exact ⟨_, rfl, bne_iff_ne⟩
  | 2, _ => exact ⟨_, rfl, BitVec.slt_iff_toInt_lt⟩
  | 3, _ => exact ⟨_, rfl, by simp [condition, BitVec.slt_eq_decide]⟩
  | 4, _ => exact ⟨_, rfl, BitVec.ult_iff_toNat_lt⟩
  | 5, _ => exact ⟨_, rfl, by simp [condition, BitVec.ult_eq_decide]⟩
  | 6, _ =>
    refine ⟨_, rfl, (precedes_iff _ _).trans ?_⟩
    simp only [BitVec.truncate_eq_setWidth, BitVec.toNat_setWidth, condition]
    have ha : a.toNat % 2 ^ 32 < 2 ^ 32 := Nat.mod_lt _ (by decide)
    have hd : (b.toNat % 2 ^ 32 + 2 ^ 32 - a.toNat % 2 ^ 32) % 2 ^ 32 = (b.toNat + 2 ^ 32 - a.toNat % 2 ^ 32) % 2 ^ 32 := by omega
    rw [hd]

/-- The four operations of PLOG. -/
theorem predOp_eq_predicateOf {k : Nat} (hk : k < 4) (a b : Bool) : predOp (k % 4) a b = predicateOf k a b := by
  match k, hk with
  | 0, _ => rfl
  | 1, _ => rfl
  | 2, _ => cases a <;> cases b <;> rfl
  | 3, _ => rfl

/-! ### One register written by an instruction that executes -/

section
variable {s : State} {st : StallId} {cx : CtxId} {op : Nat} {gn : Bool} {gp : Nat} {enc enc' : Bool} {regs : List PendReg} {c : Instr}

/-- An instruction that executes and whose body retires has that whole effect; `enc'` is the encoding check as the model writes it. -/
theorem retires_of_issue {fn : Ctx → Ctx} (h : Executes s st cx gn gp enc regs) (he : enc = true → enc' = true)
    (hx : exec c s = .next (s.issue st cx op gn gp enc' regs (s.retire st cx fn))) : Retires s st cx 0 c (fn (s.ctxOf st cx)) :=
  retires_of_retire s st cx c fn (by rw [hx, issue_executes h he])

/-- … which writes a general register with a value that it takes from its context. -/
theorem putsG_of_issue {d : Fin 32} {val : Ctx → W64} {v : W64} (h : Executes s st cx gn gp enc regs) (he : enc = true → enc' = true)
    (hx : exec c s = .next (s.issue st cx op gn gp enc' regs (s.retire st cx fun x => x.setG d (val x))))
    (hv : val (s.ctxOf st cx) = v) : PutsG s st cx c d v :=
  ⟨_, hv ▸ withG_setG _ d _, retires_of_issue h he hx⟩

/-- … a predicate. -/
theorem putsP_of_issue {d : Nat} {v : Bool} (hd : d < 8) (h : Executes s st cx gn gp enc regs) (he : enc = true → enc' = true)
    (hx : exec c s = .next (s.issue st cx op gn gp enc' regs (s.retire st cx fun x => x.setP d v))) : PutsP s st cx c d v :=
  ⟨_, withP_setP _ d hd v, retires_of_issue h he hx⟩

/-- … an address register. -/
theorem putsA_of_issue {d : Nat} {v : W64} (hd : d < 16) (h : Executes s st cx gn gp enc regs) (he : enc = true → enc' = true)
    (hx : exec c s = .next (s.issue st cx op gn gp enc' regs (s.retire st cx fun x => x.setA d v))) : PutsA s st cx c d v :=
  ⟨_, withA_setA _ d hd v, retires_of_issue h he hx⟩

/-- The encoding of an instruction that executes passes its check. -/
theorem Executes.encoding (h : Executes s st cx gn gp enc regs) : enc = true := by
  obtain ⟨-, -, -, he, -⟩ := h
  exact he

end

/-! ### Comparisons and predicate operations -/

/-- CMP writes the condition that X names. -/
theorem cmp_putsP {s : State} {st : StallId} {cx : CtxId} {f : FmtA} {v : Bool}
    (h : Executes s st cx f.gn f.gp (decide (f.d.val < 8) && f.s3 == 0) (gs [f.s1, f.s2])) (hk : f.x.toNat < 7)
    (hv : v = true ↔ condition f.x.toNat ((s.ctxOf st cx).getG f.s1) ((s.ctxOf st cx).getG f.s2)) :
    PutsP s st cx (.cmp st cx f) f.d v := by
  obtain ⟨hd, -⟩ := Bool.and_eq_true_iff.1 h.encoding
  have hm : f.x.toNat % 8 = f.x.toNat := Nat.mod_eq_of_lt (by omega)
  have hx : xOnly f.x 7 = true := xOnly_of_lt_two_pow (k := 3) (by omega)
  refine putsP_of_issue (of_decide_eq_true hd) h (fun he => ?_) ?_ (op := 0x0E) (enc' := inFile f.d 8 && unused f.s3 && xOnly f.x 7)
  · exact Bool.and_eq_true_iff.2 ⟨he, hx⟩
  · rw [exec_cmp, execCmp, hm, scalarCond_eq_some hk hv]

/-- CMPI writes the condition that its S2 field names. -/
theorem cmpi_putsP {s : State} {st : StallId} {cx : CtxId} {f : FmtA} {v : Bool}
    (h : Executes s st cx f.gn f.gp (decide (f.d.val < 8) && f.s3 == 0) (gs [f.s1])) (hk : f.s2.val < 7)
    (hv : v = true ↔ condition f.s2 ((s.ctxOf st cx).getG f.s1) (f.x.signExtend 64)) :
    PutsP s st cx (.cmpi st cx f) f.d v := by
  obtain ⟨hd, h3⟩ := Bool.and_eq_true_iff.1 h.encoding
  have h2 : inFile f.s2 8 = true := decide_eq_true (by omega)
  refine putsP_of_issue (of_decide_eq_true hd) h (fun _ => ?_) ?_ (op := 0x0F) (enc' := inFile f.d 8 && inFile f.s2 8 && unused f.s3)
  · exact Bool.and_eq_true_iff.2 ⟨Bool.and_eq_true_iff.2 ⟨hd, h2⟩, h3⟩
  · rw [exec_cmpi, execCmpi, sx, scalarCond_eq_some hk hv]

/-- PLOG writes the operation that X names. -/
theorem plog_putsP {s : State} {st : StallId} {cx : CtxId} {f : FmtA}
    (h : Executes s st cx f.gn f.gp (decide (f.d.val < 8) && decide (f.s1.val < 8) && decide (f.s2.val < 8) && f.s3 == 0) [])
    (hk : f.x.toNat < 4) :
    PutsP s st cx (.plog st cx f) f.d (predicateOf f.x.toNat ((s.ctxOf st cx).getP f.s1) ((s.ctxOf st cx).getP f.s2)) := by
  have he := h.encoding
  simp only [Bool.and_eq_true, decide_eq_true_eq] at he
  obtain ⟨⟨⟨hd, -⟩, -⟩, -⟩ := he
  have hx : xOnly f.x 3 = true := xOnly_of_lt_two_pow (k := 2) hk
  rw [← predOp_eq_predicateOf hk]
  exact putsP_of_issue hd h (fun he => Bool.and_eq_true_iff.2 ⟨he, hx⟩) (exec_plog st cx f s)

/-! ### The statements -/

/-- Settles O59: the first clause is R6 on the distance, and at distance 0 or 2^31 neither number precedes the other. -/
theorem sequenceOrder : Obligations.SequenceOrder := by
  unfold Obligations.SequenceOrder
  refine fun a b => ⟨precedes_iff a b, fun h => precedes_eq_false_of_dist (h.imp_left ?_)⟩
  rintro rfl
  rw [Nat.add_sub_cancel_left, Nat.mod_self]

/-- The moves of Table 5-7: each issues, and its body writes one register. -/
theorem moveResults : MoveResults := by
  intro s st cx f b
  refine ⟨fun h => ?addi, fun h => ?movi, fun h => ?movh, fun h => ?mova, fun h => ?movg, fun h => ?flags⟩
  case addi => exact putsG_of_issue h id (exec_addi st cx f s) rfl
  case movi => exact putsG_of_issue h id (exec_movi st cx b s) rfl
  case movh =>
    exact putsG_of_issue h (fun he => ushiftRight_eq_zero_of_lt (of_decide_eq_true he)) (exec_movh st cx b s) (ofNat_movh_eq_append _ _)
  case mova =>
    have he := h.encoding
    simp only [Bool.and_eq_true, decide_eq_true_eq] at he
    obtain ⟨⟨hd, -⟩, -⟩ := he
    exact putsA_of_issue hd h id (exec_mova st cx f s)
  case movg => exact putsG_of_issue h id (exec_movg st cx f s) rfl
  case flags => exact putsG_of_issue h id (exec_flags st cx f s) (flagWord_eq _)

/-- The comparisons and predicate operations of Table 5-7. -/
theorem predicateResults : PredicateResults :=
  fun _ _ _ _ _ => ⟨cmp_putsP, cmpi_putsP, plog_putsP⟩

/-- Settles O3: the moves and the predicate instructions, each through what its body writes when it issues. -/
theorem moveAndPredicateResults : Obligations.MoveAndPredicateResults := by
  unfold Obligations.MoveAndPredicateResults
  exact ⟨moveResults, predicateResults⟩

end Sys2Proof.Cert
end

section
/-! PROOF. Every command completes, and keeps the queue and the package. -/

namespace Sys2Proof.Machine

/-- The arm of every command is a next state that its meaning builds: none raises a fault or a refusal. -/
theorem exec_completes (c : Instr) (s : State) : ∃ t, exec c s = .next t := by
  cases c <;> exact ⟨_, rfl⟩

end Sys2Proof.Machine

namespace Sys2Proof.Cert
open Sys2Proof.Machine

/-- Settles O56: a command completes by `exec_completes`, and what no command undoes (`exec_keep`) holds the queue and the package. -/
theorem everyCommandCompletes : Obligations.EveryCommandCompletes := by
  unfold Obligations.EveryCommandCompletes
  intro c s
  obtain ⟨t, ht⟩ := exec_completes c s
  have keep := (exec_keep c s).out t ht
  exact ⟨t, ht, keep.pending, keep.chip⟩

end Sys2Proof.Cert
end

section
/-! PROOF. The compute die's reset at the primary of a mirrored pair. -/

namespace Sys2Proof.Cert
open Sys2Proof.Machine

/-- The primary of a pair in MIRROR mode at step 5 of a chip reset. Its pitch 0 holds memory unit 0, has its translation table at 2 MiB with
page 0 cached, and the Packer's table area at device address 0, which mirror range 0 covers. Slot 0 of that area is READY, and bridge link 28
carries messages. -/
def mirrorPrimary : State :=
  { State.reset with
    chip := { Chip.reset with part := .d1536 }
    mem := { Mem.reset with bytes := [(memKey 0 3, 2)], tlb := [(0, 3)] }
    regs := [(regKey 0 (offXlat 0), 0x0001000000200000), (regKey 0 (offPcfg 0), 0x1000001),
      (regKey 1 offPktbl, 2), (regKey 1 (offMir 0), 2)]
    net := { Net.reset with links := Net.reset.links.setIfInBounds 28 { Link.reset with state := .routed } }
    crst := { Crst.reset with step := 5 }
    pair := { Pair.reset with mode := 1, primary := true, state := .paired } }

/-- Its memory, bays and registers are in their canonical forms. -/
theorem mirrorPrimary_canonical : mirrorPrimary.canonical := by
  unfold State.canonical
  decide +kernel

/-- The compute die's reset clears COUNT of the READY slot (R256), and the copy of that line goes to the secondary (R482, R483): a message of
64 data bytes on link 28, for which the next message number moves on. -/
theorem dieReset_mirrorPrimary_sends :
    mirrorPrimary.net.nextMsg = 0 ∧ mirrorPrimary.dieReset.net.nextMsg = 1 ∧ mirrorPrimary.dieReset.pair.sent = [(0, 28, 64)] := by
  decide +kernel

/-- COMPUTE_DIE_RESET_DONE in that state is the compute die's reset, and step 6 follows. -/
theorem exec_computeDieResetDone_mirrorPrimary :
    exec .computeDieResetDone mirrorPrimary = .next (mirrorPrimary.dieReset.modCrst fun c => { c with step := 6 }) := rfl

/-- Refutes O42: its clause on the compute die's reset keeps the net as it was for every state, but at the primary of a mirrored pair the
write of an ENT slot in a mirror range sends a copy over the bridge. -/
theorem not_chipResets : ¬ Obligations.ChipResets := by
  unfold Obligations.ChipResets
  intro h
  obtain ⟨-, -, hdone, -⟩ := h mirrorPrimary ⟨0, 0, 0, 0, 0, false⟩ 0 ⟨0, 0, 0, 0, []⟩ ⟨0, 0, false⟩ mirrorPrimary_canonical
  obtain ⟨t, ht, -, -, -, -, -, hnet, -⟩ := hdone rfl rfl rfl rfl
  have hreset := Host.Outcome.next.inj (exec_computeDieResetDone_mirrorPrimary.symm.trans ht)
  rw [← hreset, State.modCrst_net] at hnet
  obtain ⟨hbefore, hafter, -⟩ := dieReset_mirrorPrimary_sends
  rw [hnet, hbefore] at hafter
  exact Nat.zero_ne_one hafter

end Sys2Proof.Cert
end

section
/-! PROOF. Packed codes as digits: the bytes of a stream are the digits of one number in base 256, its codes the digits of the same number in
base 2^w (R29). The model's files import no library, so neither does what stands here. -/

namespace Sys2Proof

/-! ### The number that bytes spell -/

theorem leNat_cons_div (b : Byte) (bs : List Byte) : leNat (b :: bs) / 256 = leNat bs := by
  rw [leNat, Nat.add_mul_div_left _ _ (by decide), Nat.div_eq_of_lt b.isLt, Nat.zero_add]

theorem leNat_cons_mod (b : Byte) (bs : List Byte) : leNat (b :: bs) % 256 = b.toNat := by
  rw [leNat, Nat.add_mul_mod_self_left, Nat.mod_eq_of_lt b.isLt]

theorem leNat_drop (bs : List Byte) (k : Nat) : leNat (bs.drop k) = leNat bs / 256 ^ k := by
  induction k generalizing bs with
  | zero => rw [List.drop_zero, Nat.pow_zero, Nat.div_one]
  | succ k ih =>
    cases bs with
    | nil => rw [List.drop_nil, leNat, Nat.zero_div]
    | cons b bs => rw [List.drop_succ_cons, ih, Nat.pow_succ', ← Nat.div_div_eq_div_mul, leNat_cons_div]

theorem leNat_take (bs : List Byte) (k : Nat) : leNat (bs.take k) = leNat bs % 256 ^ k := by
  induction k generalizing bs with
  | zero => rw [List.take_zero, leNat, Nat.pow_zero, Nat.mod_one]
  | succ k ih =>
    cases bs with
    | nil => rw [List.take_nil, leNat, Nat.zero_mod]
    | cons b bs => rw [List.take_succ_cons, leNat, ih, Nat.pow_succ', Nat.mod_mul, leNat_cons_mod, leNat_cons_div]

theorem leNat_singleton (b : Byte) : leNat [b] = b.toNat := by
  rw [leNat, leNat, Nat.mul_zero, Nat.add_zero]

/-- A number read back from its first `n` bytes loses what lies beyond them. -/
theorem leNat_leBytes (n v : Nat) : leNat (leBytes n v) = v % 256 ^ n := by
  induction n generalizing v with
  | zero => rw [leBytes, leNat, Nat.pow_zero, Nat.mod_one]
  | succ n ih => rw [leBytes, leNat, ih, BitVec.toNat_ofNat, Nat.pow_succ' (n := n), Nat.mod_mul (b := 256 ^ n)]

/-! ### A code in a window of bytes -/

/-- A field of `w` bits at bit `p` is the same in the lowest `n` bits alone, where it lies within them. -/
theorem mod_two_pow_div_mod {p w n : Nat} (h : p + w ≤ n) (v : Nat) : v % 2 ^ n / 2 ^ p % 2 ^ w = v / 2 ^ p % 2 ^ w := by
  have hn : 2 ^ n = 2 ^ p * 2 ^ (n - p) := by rw [← Nat.pow_add, Nat.add_sub_of_le (by omega)]
  rw [hn, Nat.mod_mul_right_div_self, Nat.mod_mod_of_dvd _ (Nat.pow_dvd_pow 2 (by omega))]

/-- Code `i` of a stream is field `i` of `w` bits of the number that its bytes spell. -/
theorem getElem?_unpackCodes {i n : Nat} (hi : i < n) (w : Nat) (bs : List Byte) :
    (unpackCodes w bs n)[i]? = some (leNat bs / 2 ^ (w * i) % 2 ^ w) := by
  rw [unpackCodes, List.getElem?_map, List.getElem?_range hi, Option.map_some]

/-- A code that starts at bit `p` of byte `k` can be read from the `m` bytes there alone, where it ends within them. -/
theorem getElem?_unpackCodes_of_window {w i n k m p : Nat} (hi : i < n) (hstart : w * i = 8 * k + p) (hend : p + w ≤ 8 * m)
    (bs : List Byte) : (unpackCodes w bs n)[i]? = some (leNat ((bs.drop k).take m) / 2 ^ p % 2 ^ w) := by
  have hbytes (j : Nat) : 256 ^ j = 2 ^ (8 * j) := Nat.pow_mul 2 8 j |>.symm
  rw [getElem?_unpackCodes hi, hstart, leNat_take, leNat_drop, hbytes, hbytes, mod_two_pow_div_mod hend, Nat.div_div_eq_div_mul,
    ← Nat.pow_add]

/-- 4-bit formats: element 2i + j lies in half `j` of byte `i`. -/
theorem getElem?_unpackCodes_four {i j n : Nat} {bs : List Byte} (hj : j < 2) (hn : 2 * i + j < n) (hi : i < bs.length) :
    (unpackCodes 4 bs n)[2 * i + j]? = bs[i]?.map (fun b => (b.extractLsb' (4 * j) 4).toNat) := by
  have hbyte : (bs.drop i).take 1 = [bs[i]] := by rw [List.drop_eq_getElem_cons hi, List.take_succ_cons, List.take_zero]
  rw [getElem?_unpackCodes_of_window (k := i) (m := 1) (p := 4 * j) hn (by omega) (by omega), hbyte, leNat_singleton,
    List.getElem?_eq_getElem hi, Option.map_some, BitVec.extractLsb'_toNat, Nat.shiftRight_eq_div_pow]

/-- 6-bit formats: element 4i + j lies at bit 6j of the three bytes from byte 3i. -/
theorem getElem?_unpackCodes_six {i j n : Nat} (hj : j < 4) (hn : 4 * i + j < n) (bs : List Byte) :
    (unpackCodes 6 bs n)[4 * i + j]? = some (leNat ((bs.drop (3 * i)).take 3) / 2 ^ (6 * j) % 2 ^ 6) :=
  getElem?_unpackCodes_of_window hn (by omega) (by omega) bs

/-! ### Codes packed and unpacked -/

/-- The number whose digits in base 2^w are the lowest `w` bits of the codes. -/
def codesNat (w : Nat) (cs : List Nat) : Nat := cs.foldr (fun c acc => c % 2 ^ w + acc * 2 ^ w) 0

theorem packCodes_eq_leBytes (w : Nat) (cs : List Nat) : packCodes w cs = leBytes (ceilDiv (w * cs.length) 8) (codesNat w cs) := rfl

theorem codesNat_nil (w : Nat) : codesNat w [] = 0 := rfl

theorem codesNat_cons (w c : Nat) (cs : List Nat) : codesNat w (c :: cs) = c % 2 ^ w + 2 ^ w * codesNat w cs := by
  rw [codesNat, List.foldr_cons, Nat.mul_comm, codesNat]

theorem codesNat_cons_mod (w c : Nat) (cs : List Nat) : codesNat w (c :: cs) % 2 ^ w = c % 2 ^ w := by
  rw [codesNat_cons, Nat.add_mul_mod_self_left, Nat.mod_mod]

theorem codesNat_cons_div (w c : Nat) (cs : List Nat) : codesNat w (c :: cs) / 2 ^ w = codesNat w cs := by
  have hw : 0 < 2 ^ w := Nat.two_pow_pos w
  rw [codesNat_cons, Nat.add_mul_div_left _ _ hw, Nat.div_eq_of_lt (Nat.mod_lt c hw), Nat.zero_add]

theorem codesNat_lt (w : Nat) (cs : List Nat) : codesNat w cs < 2 ^ (w * cs.length) := by
  induction cs with
  | nil => exact Nat.two_pow_pos _
  | cons c cs ih =>
    rw [List.length_cons, Nat.mul_succ, Nat.pow_add, ← Nat.div_lt_iff_lt_mul (Nat.two_pow_pos w), codesNat_cons_div]
    exact ih

/-- Digit `i` in base 2^w is code `i`. -/
theorem codesNat_div_mod (w : Nat) {cs : List Nat} {i : Nat} (hi : i < cs.length) : codesNat w cs / 2 ^ (w * i) % 2 ^ w = cs[i] % 2 ^ w := by
  induction cs generalizing i with
  | nil => exact absurd hi (Nat.not_lt_zero i)
  | cons c cs ih =>
    cases i with
    | zero => rw [Nat.mul_zero, Nat.pow_zero, Nat.div_one, codesNat_cons_mod, List.getElem_cons_zero]
    | succ i =>
      rw [Nat.mul_succ, Nat.add_comm, Nat.pow_add, ← Nat.div_div_eq_div_mul, codesNat_cons_div, List.getElem_cons_succ]
      exact ih (Nat.lt_of_succ_lt_succ hi)

/-- The bytes of a packed stream are enough to hold all its codes. -/
theorem leNat_packCodes (w : Nat) (cs : List Nat) : leNat (packCodes w cs) = codesNat w cs := by
  have hbits : w * cs.length ≤ 8 * ceilDiv (w * cs.length) 8 := by rw [ceilDiv]; omega
  rw [packCodes_eq_leBytes, leNat_leBytes, Nat.mod_eq_of_lt]
  calc codesNat w cs
      < 2 ^ (w * cs.length) := codesNat_lt w cs
    _ ≤ 2 ^ (8 * ceilDiv (w * cs.length) 8) := Nat.pow_le_pow_right (by decide) hbits
    _ = 256 ^ ceilDiv (w * cs.length) 8 := Nat.pow_mul 2 8 _

/-- Codes packed and unpacked keep their lowest `w` bits. -/
theorem unpackCodes_packCodes (w : Nat) (cs : List Nat) : unpackCodes w (packCodes w cs) cs.length = cs.map (· % 2 ^ w) := by
  refine List.ext_getElem? fun i => ?_
  rcases Nat.lt_or_ge i cs.length with hi | hi
  · rw [getElem?_unpackCodes hi, leNat_packCodes, codesNat_div_mod w hi, List.getElem?_map, List.getElem?_eq_getElem hi, Option.map_some]
  · rw [unpackCodes, List.getElem?_eq_none (by rwa [List.length_map, List.length_range]),
      List.getElem?_eq_none (by rwa [List.length_map])]

/-- Codes of `w` bits are their own lowest bits. -/
theorem map_mod_two_pow_of_lt {w : Nat} {cs : List Nat} (hcs : ∀ c ∈ cs, c < 2 ^ w) : cs.map (· % 2 ^ w) = cs :=
  (List.map_congr_left fun c hc => Nat.mod_eq_of_lt (hcs c hc)).trans (List.map_id' cs)

end Sys2Proof

namespace Sys2Proof.Cert
open Sys2Proof.Machine

/-- Settles O60: where a code stands is read off the one number that the bytes spell, and unpacking reads that number's digits back. -/
theorem subByteElements : Obligations.SubByteElements := by
  unfold Obligations.SubByteElements
  exact fun bs n i cs => ⟨
    getElem?_unpackCodes_four (j := 0) (by decide),
    getElem?_unpackCodes_four (j := 1) (by decide),
    fun j hj hn _ => getElem?_unpackCodes_six hj hn bs,
    fun w _ hcs => (unpackCodes_packCodes w cs).trans (map_mod_two_pow_of_lt hcs)⟩

end Sys2Proof.Cert
end

section
/-! PROOF. Rules of a Porter channel: what a change of one channel and an instruction that retires leave of their stall. -/

namespace Sys2Proof.Machine

section
variable (s : State) (st : StallId)

/-! ### One channel changed -/

/-- Of its stall, a changed channel leaves everything but the channels. -/
theorem State.stall_modChan (ch : Nat) (f : Chan → Chan) :
    (s.modChan st ch f).stall st = { s.stall st with chans := (s.stall st).chans.setIfInBounds ch (f (s.chanOf st ch)) } :=
  State.stall_modStall s st st.isLt _

theorem State.stall_modChan_ne {i : Nat} (hi : i ≠ st) (ch : Nat) (f : Chan → Chan) : (s.modChan st ch f).stall i = s.stall i :=
  State.stall_modStall_ne s hi _

theorem State.chanOf_modChan {ch : Nat} (hch : ch < 8) (f : Chan → Chan) : (s.modChan st ch f).chanOf st ch = f (s.chanOf st ch) := by
  rw [State.chanOf, State.stall_modChan, Vector.getElem?_setIfInBounds_self_of_lt hch]; rfl

theorem State.chanOf_modChan_ne {ch k : Nat} (hk : k ≠ ch) (f : Chan → Chan) : (s.modChan st ch f).chanOf st k = s.chanOf st k := by
  rw [State.chanOf, State.stall_modChan, Vector.getElem?_setIfInBounds_ne (Ne.symm hk)]; rfl

theorem State.ctxOf_modChan (ch k : Nat) (f : Chan → Chan) : (s.modChan st ch f).ctxOf st k = s.ctxOf st k := by
  rw [State.ctxOf, State.stall_modChan]; rfl

/-! ### The stall of an instruction that retires -/

/-- Of its stall, an instruction that retires changes its context and the tally ISSUE. -/
theorem State.stall_retire (cx : Nat) (f : Ctx → Ctx) :
    (s.retire st cx f).stall st =
      { s.stall st with ctx := (s.stall st).ctx.setIfInBounds cx (f (s.ctxOf st cx)).advance, issue := (s.stall st).issue + 1 } := by
  rw [State.retire, State.tally, State.modCtx, State.stall_modStall _ st st.isLt, State.stall_modStall _ st st.isLt]; rfl

theorem State.chanOf_retire (cx k : Nat) (f : Ctx → Ctx) : (s.retire st cx f).chanOf st k = s.chanOf st k := by
  rw [State.chanOf, State.stall_retire]; rfl

/-! ### A transfer put into a queue -/

/-- A transfer put last into the queue of a channel, and numbered: what `State.portIssue` does before its instruction retires. -/
def State.queueXfer (ch : Nat) (x : Xfer) : State := (s.modChan st ch fun y => { y with xfers := y.xfers ++ [x] }).tickSerial

theorem State.portIssue_eq (cx : CtxId) (f : FmtA) (x : Xfer) :
    s.portIssue st cx f x = State.pumpChan 4 st (f.x.toNat % 8) ((s.queueXfer st (f.x.toNat % 8) x).retire st cx id) := rfl

theorem State.stall_tickSerial (i : Nat) : s.tickSerial.stall i = s.stall i := rfl

theorem State.stall_queueXfer (ch : Nat) (x : Xfer) :
    (s.queueXfer st ch x).stall st = (s.modChan st ch fun y => { y with xfers := y.xfers ++ [x] }).stall st := by
  rw [State.queueXfer, State.stall_tickSerial]

theorem State.stall_queueXfer_ne {i : Nat} (hi : i ≠ st) (ch : Nat) (x : Xfer) : (s.queueXfer st ch x).stall i = s.stall i := by
  rw [State.queueXfer, State.stall_tickSerial, State.stall_modChan_ne s st hi]

theorem State.ctxOf_queueXfer (ch k : Nat) (x : Xfer) : (s.queueXfer st ch x).ctxOf st k = s.ctxOf st k := by
  rw [State.ctxOf, State.stall_queueXfer, ← State.ctxOf, State.ctxOf_modChan]

theorem State.chanOf_queueXfer {ch : Nat} (hch : ch < 8) (x : Xfer) :
    (s.queueXfer st ch x).chanOf st ch = { s.chanOf st ch with xfers := (s.chanOf st ch).xfers ++ [x] } := by
  rw [State.chanOf, State.stall_queueXfer, ← State.chanOf, State.chanOf_modChan s st hch]

theorem State.chanOf_queueXfer_ne {ch k : Nat} (hk : k ≠ ch) (x : Xfer) : (s.queueXfer st ch x).chanOf st k = s.chanOf st k := by
  rw [State.chanOf, State.stall_queueXfer, ← State.chanOf, State.chanOf_modChan_ne s st hk]

end

end Sys2Proof.Machine
end

section
/-! PROOF. The Porter instructions: each that executes waits at a full channel (R121), and else, once its operands pass the checks of the
instruction, posts its transfer (R174). -/

namespace Sys2Proof.Machine

theorem bit_toNat {n : Nat} (x : BitVec n) (i : Nat) : bit x.toNat i = x.getLsbD i := by
  rw [bit, BitVec.getLsbD, Nat.testBit_eq_decide_div_mod_eq]; rfl

/-- An address register alone is an operand where it fits 48 bits and is aligned (R125, R150). -/
theorem devOperand_eq_some {a : W64} {n : Nat} (h48 : a.toNat < 2 ^ 48) (hn : a.toNat % n = 0) : devOperand a 0 n = some a.toNat := by
  have hv : a + sx 0 = a := BitVec.add_zero a
  simp only [devOperand, hv, Nat.div_eq_of_lt h48, hn, ne_eq, not_true_eq_false, decide_false, Bool.or_self, if_neg Bool.false_ne_true]

theorem pitchOfLaunch_eq {s : State} {n : Nat} {l : Launch} (h : s.launch? n = some l) : s.pitchOfLaunch n = l.pitch := by
  rw [State.pitchOfLaunch, h]; rfl

/-- A transfer that meets no packed region, where none may, is posted. -/
theorem portPost_of_meets_none {s : State} {st cx op : Nat} {f : FmtA} {ds : List TDesc} (h : s.meetsPacked st cx ds = false) (x : Xfer) :
    s.portPost st cx op f ds x = s.portIssue st cx f x := by
  rw [State.portPost, h]; rfl

/-! ### The sides of a PCOPY -/

/-- What PCOPY takes of a side: the host address of its window, or none where it names no window and keeps what is asked of it then. -/
theorem window_eq_ok {host : Bool} {r : Except Status W64} {w : Option W64} {p : Prop}
    (h : if host then ∃ v, r = .ok v ∧ w = some v else w = none ∧ p) :
    (if host then r.map some else .ok none) = Except.ok w ∧ (host = false → p) := by
  cases host with
  | false =>
    obtain ⟨rfl, hp⟩ := h
    exact ⟨rfl, fun _ => hp⟩
  | true =>
    obtain ⟨v, rfl, rfl⟩ := h
    exact ⟨rfl, nofun⟩

/-- What the packed regions make of a side of a PCOPY: nothing, unless the side is device memory. -/
theorem packedSide {host : Bool} {loc : Nat} {k : Pk} {p : Pk → Prop} (hnone : p .none) (hdev : host = false → loc = 0 → p k) :
    p (if host || loc != 0 then .none else k) := by
  cases host with
  | true => exact hnone
  | false =>
    rcases Nat.eq_zero_or_pos loc with rfl | hloc
    · exact hdev rfl rfl
    · rw [Bool.false_or, if_pos (bne_iff_ne.2 (Nat.ne_of_gt hloc))]
      exact hnone

/-- A side that no region refuses: none holds it where the copy transposes (R249). -/
def Pk.Admits (trn : Bool) (k : Pk) : Prop := k ≠ .refused ∧ (trn = true → k = .none)

theorem Pk.none_admits (trn : Bool) : Pk.none.Admits trn := ⟨nofun, fun _ => rfl⟩

theorem Pk.Admits.not_refused {trn : Bool} {k : Pk} (h : k.Admits trn) : ¬(decide (k = .refused) || trn && k != .none) = true := by
  obtain ⟨href, htrn⟩ := h
  simpa [href] using htrn

end Sys2Proof.Machine

namespace Sys2Proof.Cert
open Sys2Proof.Machine

/-! ### A transfer at its channel -/

section
variable {s go : State} {st : StallId} {cx : CtxId} {f : FmtA} {c : Instr} {op : Nat} {enc enc' : Bool} {regs : List PendReg}

/-- A command that issues a transfer puts it last into the queue of its channel and runs on. -/
theorem posts_of_portIssue {x : Xfer} (h : exec c s = .next (s.portIssue st cx f x)) : Posts s st cx (f.x.toNat % 8) c x := by
  have hch : f.x.toNat % 8 < 8 := Nat.mod_lt _ (by decide)
  obtain ⟨⟨hothers, -, -, -, hctx⟩, hruns⟩ :=
    stepsOn_retire (s.queueXfer st (f.x.toNat % 8) x) (s.queueXfer st (f.x.toNat % 8) x) st cx id rfl
  refine ⟨_, h, (s.queueXfer st (f.x.toNat % 8) x).retire st cx id, State.portIssue_eq s st cx f x, rfl, rfl, fun i hi => ?stalls, ?stall,
    ?issue, ?runs, fun k hk => ?contexts, ?channel, fun k hk => ?channels⟩
  case stalls => rw [hothers i hi, State.stall_queueXfer_ne s st hi]
  case stall => rw [State.stall_retire, State.stall_queueXfer, State.stall_modChan]
  case issue => rw [State.stall_retire, State.stall_queueXfer, State.stall_modChan]
  case runs => rw [← State.ctxOf_queueXfer s st]; exact hruns
  case contexts => rw [hctx k hk, State.ctxOf_queueXfer]
  case channel => rw [State.chanOf_retire, State.chanOf_queueXfer s st hch]
  case channels => rw [State.chanOf_retire, State.chanOf_queueXfer_ne s st hk]

/-- A Porter instruction that executes at a channel with room, and whose operands pass its checks, posts its transfer. -/
theorem posts_of_issue {x : Xfer} (h : Executes s st cx f.gn f.gp enc regs) (he : enc = enc')
    (hroom : (s.chanOf st (f.x.toNat % 8)).xfers.length < 4) (hgo : go = s.portIssue st cx f x)
    (hx : exec c s = .next (s.issue st cx op f.gn f.gp enc' regs (s.atChan st f go))) : Posts s st cx (f.x.toNat % 8) c x :=
  posts_of_portIssue (by rw [hx, issue_executes h (fun e => he ▸ e), State.atChan, if_neg (Nat.not_le.2 hroom), hgo])

/-- A Porter instruction that executes and finds its channel full leaves the state as it is, whatever its operands. -/
theorem waits_of_issue (h : Executes s st cx f.gn f.gp enc regs) (he : enc = enc')
    (hfull : 4 ≤ (s.chanOf st (f.x.toNat % 8)).xfers.length)
    (hx : exec c s = .next (s.issue st cx op f.gn f.gp enc' regs (s.atChan st f go))) : exec c s = .next s := by
  rw [hx, issue_executes h (fun e => he ▸ e), State.atChan, if_pos hfull]

/-- PSEND and PPOST, which share their checks, post their transfer where the operands keep R418. -/
theorem posts_of_portMail {kind : XKind} {t : BitVec 512} {g : W64} {d : TDesc} (h : Executes s st cx f.gn f.gp enc regs) (he : enc = enc')
    (hroom : (s.chanOf st (f.x.toNat % 8)).xfers.length < 4)
    (hx : exec c s = .next (s.issue st cx op f.gn f.gp enc' regs (s.portMail st cx op kind f t g)))
    (hd : s.tensor st cx t = some d) (hfam : d.fmt.fam = .plain) (hloc : d.loc ≠ 2) (hfit : d.loc = 1 → d.fits = true)
    (hok : sendOk f.x g (d.dataBytes true) = true) (hlen : d.dataBytes true ≤ 2 ^ 24)
    (hbox : kind = .send → bits f.x.toNat 16 15 = 0 → s.outboxActive (s.pitchOfLaunch (s.ctxOf st cx).launch) (g.toNat % 256) = true)
    (hpk : s.meetsPacked st cx [d] = false) :
    Posts s st cx (f.x.toNat % 8) c
      (transfer s st cx kind (if kind = .post then t else 0) (if kind = .send then t else 0) 0 g f.x (d.bayRows st false)) := by
  refine posts_of_issue h he hroom ?_ hx
  simp only [hd, portPost_of_meets_none hpk]
  refine (if_neg ?operand).trans (if_neg ?outbox)
  case operand => simpa [-Nat.reducePow, hfam, hloc, hok, Nat.not_lt.2 hlen] using hfit
  case outbox => simpa using hbox

end

/-- Settles O12: the checks of each instruction are those that the statement names, and `posts_of_issue` and `waits_of_issue` say what an
instruction does behind them. -/
theorem porterInstructions : Obligations.PorterInstructions := by
  unfold Obligations.PorterInstructions
  intro s st cx f a i d l wa wd
  dsimp only
  intro hl
  refine ⟨fun hfull => ⟨?_, ?_, ?_, ?_, ?_, ?_, ?_⟩, fun hroom => ⟨?pcopy, ?pgath, ?pwalk, ?pconv, ?atens, ?psend, ?ppost⟩⟩
  · exact fun h => waits_of_issue h rfl hfull (exec_pcopy st cx f s)
  · exact fun h => waits_of_issue h rfl hfull (exec_pgath st cx f s)
  · exact fun h => waits_of_issue h rfl hfull (exec_pwalk st cx f s)
  · exact fun h => waits_of_issue h rfl hfull (exec_pconv st cx f s)
  · exact fun h => waits_of_issue h rfl hfull (exec_atens st cx f s)
  · exact fun h => waits_of_issue h rfl hfull (exec_psend st cx f s)
  · exact fun h => waits_of_issue h rfl hfull (exec_ppost st cx f s)
  case pcopy =>
    intro ha hd hfmt hsides htrn hsrc hdst hx
    obtain ⟨hwa, hpa⟩ := window_eq_ok hsrc
    obtain ⟨hwd, hpd⟩ := window_eq_ok hdst
    refine posts_of_issue hx rfl hroom ?_ (exec_pcopy st cx f s)
    simp only [hl, ha, hd, bit_toNat, hwa, hwd]
    refine (if_neg ?checks).trans ((if_neg ?program).trans ((if_neg ?source).trans (if_neg ?destination)))
    case checks => simpa [hfmt] using And.intro hsides htrn
    case program =>
      refine packedSide (p := (· ≠ .badProgram)) nofun fun hhost hloc => ?_
      obtain ⟨-, hprog, -⟩ := hpd hhost hloc
      exact hprog
    case source => exact (packedSide (Pk.none_admits _) hpa).not_refused
    case destination =>
      have hadmits := packedSide (host := f.x.getLsbD 8) (loc := d.loc) (k := s.pkDst l.pitch d) (Pk.none_admits (f.x.getLsbD 6))
        fun hhost hloc => by
          obtain ⟨href, -, hnone, -⟩ := hpd hhost hloc
          exact ⟨href, hnone⟩
      have hown (hhost : f.x.getLsbD 8 = false) (hloc : d.loc = 0) := by
        obtain ⟨-, -, -, hown⟩ := hpd hhost hloc
        exact packedSide (p := fun k => s.intoOwn l.pitch k d = false) rfl hown
      rw [Bool.or_eq_true, not_or]
      exact ⟨hadmits.not_refused, by simpa using hown⟩
  case pgath =>
    intro ha hi hd hfmt hfam hrow hsrc hdst hiloc hidim hifmt hifit hext hrows hdlen halen hafit hdfit hmeet hpk hx
    refine posts_of_issue hx rfl hroom ?_ (exec_pgath st cx f s)
    simp only [ha, hi, hd, portPost_of_meets_none hpk]
    refine if_neg ?_
    simpa [-Nat.reducePow, ← hfmt, hfam, hrow, hsrc, hdst, hiloc, hidim, hifmt, hifit, hext, hrows, hdlen, halen, hmeet,
      Classical.or_iff_not_imp_left] using And.intro hafit hdfit
  case pwalk =>
    intro hd hloc hdim haxis hfit h48 hal hopt hg22 hg48 hx
    have hlist : ¬2 ≤ bits f.x.toNat 16 15 := Nat.not_le.2 hopt
    have hmid : bits ((s.ctxOf st cx).getG f.s2).toNat 31 22 = 0 := hg22
    have htop : bits ((s.ctxOf st cx).getG f.s2).toNat 63 48 = 0 := by rw [bits, Nat.div_eq_of_lt hg48, Nat.zero_mod]
    refine posts_of_issue hx rfl hroom ?_ (exec_pwalk st cx f s)
    simp only [devOperand_eq_some h48 hal, hd, BitVec.ofNat_toNat, BitVec.setWidth_eq]
    refine if_neg ?_
    simp [hlist, hmid, htop, hloc, hdim, haxis, hfit]
  case pconv =>
    intro ha hd hsrc hdst hsides hpair hpk hx
    refine posts_of_issue hx rfl hroom ?_ (exec_pconv st cx f s)
    simp only [ha, hd, portPost_of_meets_none hpk]
    refine if_neg ?_
    simpa [hsrc, hdst, hsides, bits, Classical.or_iff_not_imp_left] using hpair
  case atens =>
    intro ha hd hfmt hkind hsrc hdst hext hsides hpk hx
    refine posts_of_issue hx rfl hroom ?_ (exec_atens st cx f s)
    simp only [ha, hd, portPost_of_meets_none hpk]
    refine if_neg ?_
    simpa [← hfmt, hsrc, hdst, hext, hsides, Classical.or_iff_not_imp_left] using hkind
  case psend =>
    intro ha hfam hloc hfit hok hlen hbox hpk hx
    rw [← pitchOfLaunch_eq hl] at hbox
    exact posts_of_portMail hx rfl hroom (exec_psend st cx f s) ha hfam hloc hfit hok hlen (fun _ => hbox) hpk
  case ppost =>
    intro hd hfam hloc hfit hok hlen hpk hx
    exact posts_of_portMail hx rfl hroom (exec_ppost st cx f s) hd hfam hloc hfit hok hlen nofun hpk

end Sys2Proof.Cert
end

section
/-! PROOF. The Porter's events: a pair taken in, and a message that completes. -/

namespace Sys2Proof.Machine

theorem State.chanOf_of_stalls_eq {s t : State} (h : t.stalls = s.stalls) (st k : Nat) : t.chanOf st k = s.chanOf st k := by
  rw [State.chanOf, State.stall, h]; rfl

theorem State.launch?_modLaunch {s : State} {n : Nat} {l : Launch} (h : s.launch? n = some l) (f : Launch → Launch) :
    (s.modLaunch n f).launch? n = some (f l) := by
  rw [State.modLaunch, h]
  exact Tab.find_put_self _ _ _

/-- A channel with nothing outstanding has nothing to begin. -/
theorem State.pumpChan_of_empty {s : State} {st ch : Nat} (h : (s.chanOf st ch).xfers = []) (n : Nat) : State.pumpChan n st ch s = s := by
  cases n with
  | zero => rfl
  | succ n => rw [State.pumpChan, Chan.actor?, h]; rfl

/-- A transfer whose tokens cover its rows makes its accesses (R145). -/
theorem State.onRows_of_held {s : State} {st ch : Nat} {x : Xfer} (h : s.cover st x.ctx (.port ch) x.rows = .held) (go : State) :
    s.onRows st ch x go = go := by
  rw [State.onRows, h]

/-! ### A transfer that completes -/

/-- Without LOG a transfer writes no record: its channel stamps the time alone (R190, R574). -/
theorem State.portRec_of_unlogged {x : Xfer} (h : x.opt 5 5 = 0) (s : State) (st ch : Nat) (status : Status) (bytes : Nat) :
    s.portRec st ch x status bytes = s.afterStamp (srcChan st ch) := by
  rw [State.portRec]
  cases s.launch? x.launch with
  | none => rfl
  | some l => exact if_neg fun ⟨hlog, _⟩ => absurd (h.symm.trans hlog) (by decide)

/-- The oldest copying transfer of a channel completes as soon as it has made its last access (R189). -/
theorem State.xferMoved_of_front {s : State} {st ch : Nat} {x : Xfer} (h : (s.chanOf st ch).front? = some x) (bytes : Nat) :
    s.xferMoved st ch x bytes = s.xferDone st ch x bytes := by
  rw [State.xferMoved, h]
  exact if_pos (.inr rfl)

/-- What R193 keeps of a transfer of `bytes` bytes that completes at `time`, after `i` for the transfers before it. -/
def ChanInfo.after (i : ChanInfo) (x : Xfer) (time : W64) (bytes : Nat) : ChanInfo :=
  { time := time, bytes := BitVec.ofNat 64 bytes, zeros := if x.kind = .conv then BitVec.ofNat 64 x.zeros else i.zeros, count := i.count + 1 }

/-- A channel from which transfer `x` has gone, counted with its bytes. -/
def Chan.done (c : Chan) (x : Xfer) (time : W64) (bytes : Nat) : Chan :=
  { c with xfers := c.xfers.filter (fun y => y.serial != x.serial), nXfers := c.nXfers + 1, nBytes := c.nBytes + BitVec.ofNat 64 bytes,
           info := c.info.setIfInBounds x.ctx ((c.info[x.ctx]?.getD ChanInfo.zero).after x time bytes) }

theorem Chan.xfers_done_of_only {c : Chan} {x : Xfer} (h : c.xfers = [x]) (time : W64) (bytes : Nat) : (c.done x time bytes).xfers = [] := by
  rw [Chan.done, h]; simp

theorem Chan.info_done {x : Xfer} (hctx : x.ctx < 4) (c : Chan) (time : W64) (bytes : Nat) :
    (c.done x time bytes).info[x.ctx]? = some ((c.info[x.ctx]?.getD ChanInfo.zero).after x time bytes) :=
  Vector.getElem?_setIfInBounds_self_of_lt hctx

theorem ChanInfo.after_of_not_conv {x : Xfer} (h : x.kind ≠ .conv) (i : ChanInfo) (time : W64) (bytes : Nat) :
    i.after x time bytes = { time := time, bytes := BitVec.ofNat 64 bytes, zeros := i.zeros, count := i.count + 1 } := by
  rw [ChanInfo.after, if_neg h]

/-- A transfer without LOG completes: the stamp, its channel, and its launch's progress. -/
theorem State.xferDone_of_unlogged {x : Xfer} (h : x.opt 5 5 = 0) (s : State) (st ch : Nat) (bytes : Nat) :
    s.xferDone st ch x bytes =
      ((s.afterStamp (srcChan st ch)).modChan st ch fun c => c.done x (s.stamp (srcChan st ch)) bytes).modLaunch x.launch
        fun l => { l with progress := l.progress + 1 } := by
  rw [State.xferDone, State.portRec_of_unlogged h]; rfl

section
variable {s : State} {x : Xfer} (hlog : x.opt 5 5 = 0) (bytes : Nat)
include hlog

theorem State.chanOf_xferDone (st : StallId) (ch : ChanId) :
    (s.xferDone st ch x bytes).chanOf st ch = (s.chanOf st ch).done x (s.stamp (srcChan st ch)) bytes := by
  rw [State.xferDone_of_unlogged hlog, State.chanOf_of_stalls_eq (State.modLaunch_stalls _ _ _), State.chanOf_modChan _ st ch.isLt]; rfl

theorem State.chanOf_xferDone_ne (st : StallId) {ch k : Nat} (hk : k ≠ ch) : (s.xferDone st ch x bytes).chanOf st k = s.chanOf st k := by
  rw [State.xferDone_of_unlogged hlog, State.chanOf_of_stalls_eq (State.modLaunch_stalls _ _ _), State.chanOf_modChan_ne _ st hk]; rfl

theorem State.launch?_xferDone {l : Launch} (hl : s.launch? x.launch = some l) (st ch : Nat) :
    (s.xferDone st ch x bytes).launch? x.launch = some { l with progress := l.progress + 1 } := by
  rw [State.xferDone_of_unlogged hlog]
  exact State.launch?_modLaunch (s := (s.afterStamp (srcChan st ch)).modChan st ch _) hl _

theorem State.mem_xferDone (st ch : Nat) : (s.xferDone st ch x bytes).mem = s.mem := by
  rw [State.xferDone_of_unlogged hlog, State.modLaunch_mem]; rfl

theorem State.out_xferDone (st ch : Nat) : (s.xferDone st ch x bytes).out = s.out := by
  rw [State.xferDone_of_unlogged hlog, State.modLaunch_out]; rfl

end

end Sys2Proof.Machine

namespace Sys2Proof.Cert
open Sys2Proof.Machine

/-- A command that changes one transfer of a channel, whose numbers are distinct, has that whole effect. -/
theorem movesXfer_of_modXfer {s : State} {st : StallId} {ch : ChanId} {c : Instr} {x : Xfer} {f : Xfer → Xfer} (hone : OneEach s st ch)
    (hx : x ∈ (s.chanOf st ch).xfers) (h : exec c s = .next (s.modXfer st ch x.serial f)) : MovesXfer s c st ch x (f x) := by
  refine ⟨_, h, rfl, fun i hi => State.stall_modChan_ne s st hi _ _, ?_, fun k hk => State.chanOf_modChan_ne s st hk _, ?_⟩
  · rw [State.modXfer, State.stall_modChan]
  · rw [State.modXfer, State.chanOf_modChan s st ch.isLt]
    congr 1
    refine List.map_congr_left fun z hz => ?_
    split
    next hs => rw [hone z hz x hx hs]
    next => rfl

/-- PORTER_TRANSFER_COMPLETE on a channel whose one transfer is a message that has been answered, of no collective and without LOG: the
transfer completes, and nothing is left to begin. -/
theorem exec_porterTransferComplete_of_answered {s : State} {st : StallId} {ch : ChanId} {x : Xfer} (hx : (s.chanOf st ch).front? = some x)
    (hkind : x.kind = .send) (hwritten : x.written = true) (hcoll : x.coll = none) (hlog : x.opt 5 5 = 0)
    (honly : (s.chanOf st ch).xfers = [x]) (h : List Byte) (ups : List (Nat × BitVec 39)) :
    exec (.porterTransferComplete st ch h ups) s = .next (s.xferDone st ch x x.wrote) := by
  have hempty : ((s.xferDone st ch x x.wrote).chanOf st ch).xfers = [] := by
    rw [State.chanOf_xferDone hlog, Chan.xfers_done_of_only honly]
  have hpost : (s.chanOf st ch).xfers.find? (fun y => y.kind == .post && y.written && y.fwd.isNone) = none := by
    rw [honly]; simp [hkind]
  have hfront : (s.chanOf st ch).front?.filter (·.written) = some x := by rw [hx, Option.filter_some, if_pos hwritten]
  rw [exec_porterTransferComplete, execPorterTransferComplete, hpost]
  simp only [hfront, hcoll, State.collStep, State.portEnd, State.xferMoved_of_front hx, State.pumpChan_of_empty hempty]

/-- Settles O21: a pair that passes is one change of one transfer, and a message that completes leaves its channel empty, so that nothing
begins behind it. -/
theorem porterEvents : Obligations.PorterEvents := by
  unfold Obligations.PorterEvents
  intro s st ch eng x l a d g h hone hl
  refine ⟨?pairCheck, ?complete⟩
  case pairCheck =>
    intro heng hx hcov hkind ha hd hfam hloc hpk hn hg
    dsimp only
    intro hpass
    have hpair : s.chanPair st ch = s.modXfer st ch x.serial
        fun y => { y with pairs := y.pairs ++ [(x.pairs.length, some ⟨g.elems, g.trailer, g.record⟩)] } := by
      rw [State.chanPair, hx]
      simp only [hl, ha, hd]
      rw [if_neg (by simp [hkind, hfam, hloc, hpk, hn]), State.onRows_of_held hcov, hg]
      simp only [hpass]
    refine movesXfer_of_modXfer hone (List.mem_of_find?_eq_some hx) ?_ (f := fun y => { y with pairs := y.pairs ++ _ })
    rw [exec_porterPairCheck, execPorterPairCheck, if_pos (heng ▸ ch.isLt), heng, hpair]
  case complete =>
    intro hx hkind hwritten hcoll hlog honly hctx
    refine ⟨_, exec_porterTransferComplete_of_answered hx hkind hwritten hcoll hlog honly h [], ?_⟩
    dsimp only
    have hconv : x.kind ≠ .conv := hkind ▸ nofun
    rw [State.chanOf_xferDone hlog, Chan.xfers_done_of_only honly, Chan.info_done hctx, ChanInfo.after_of_not_conv hconv]
    exact ⟨rfl, rfl, rfl, rfl, fun k hk => State.chanOf_xferDone_ne hlog _ st hk, State.launch?_xferDone hlog _ hl st ch,
      State.mem_xferDone hlog _ st ch, State.out_xferDone hlog _ st ch⟩

end Sys2Proof.Cert
end

section
/-! PROOF. The steps of a page walk: the header, the scale frames, and the closing read of the epoch. -/

namespace Sys2Proof.Machine

/-- The walk that a channel performs is one of the transfers of that channel. -/
theorem State.mem_xfers_of_frontWalk {s : State} {st ch : Nat} {x : Xfer} {w : Walk} {l : Launch} (h : s.frontWalk st ch = some (x, w, l)) :
    x ∈ (s.chanOf st ch).xfers := by
  rw [State.frontWalk] at h
  split at h
  next => cases h
  next y hy =>
    split at h
    next =>
      split at h
      next => cases h; exact List.mem_of_find?_eq_some hy
      next => cases h
    next => cases h

/-- A walk's read that succeeds meets no packed region, and is a read of device memory (R249). -/
theorem State.of_walkRead_eq_ok {s : State} {l : Launch} {a n : Nat} {bs : List Byte} (h : s.walkRead l a n = .ok bs) :
    s.inRegion l.pitch a n = false ∧ s.readDev l.pitch (some l.csr.toNat) a n = .ok bs := by
  rw [State.walkRead] at h
  split at h
  next => cases h
  next hfree => exact ⟨Bool.eq_false_iff.2 hfree, h⟩

end Sys2Proof.Machine

namespace Sys2Proof.Cert
open Sys2Proof.Machine

/-- A step of the walk that a channel performs changes that walk alone. -/
theorem movesXfer_of_frontWalk {s : State} {st : StallId} {ch : ChanId} {c : Instr} {x : Xfer} {w : Walk} {l : Launch} {f : Xfer → Xfer}
    (hone : OneEach s st ch) (hw : s.frontWalk st ch = some (x, w, l)) (h : exec c s = .next (s.modXfer st ch x.serial f)) :
    MovesXfer s c st ch x (f x) :=
  movesXfer_of_modXfer hone (State.mem_xfers_of_frontWalk hw) h

/-- Settles O22: each step passes the checks that the statement names, and what is left of it is one change of the walk. -/
theorem pageWalkEvents : Obligations.PageWalkEvents := by
  unfold Obligations.PageWalkEvents
  intro s st ch x w l d h es sf ep i e f hone hw
  refine ⟨fun a k bs => State.of_walkRead_eq_ok, ?header, ?frame, ?epoch⟩
  case header =>
    intro hnew hcov hread hd hok hlayer hhead hfmt hrows hcols hentries
    refine movesXfer_of_frontWalk hone hw ?_ (f := fun y => { y with walk := some _ })
    have hshape : ¬(plLayers h ≤ x.layer ∨ plHeads h ≤ x.head ∨ some d.fmt ≠ plFmt h ∨
        d.extent 0 ≠ (if x.valueTile then 256 else plDim h + 32) ∨ d.extent 1 ≠ 256) := by
      simp [Nat.not_le.2 hlayer, Nat.not_le.2 hhead, hfmt, hrows, hcols]
    rw [exec_pageWalkHeaderRead, execPageWalkHeaderRead, hw]
    simp only [hnew, hcov, hread, hd, hok, if_neg hshape, hentries, List.isEmpty_nil, Bool.not_true, Bool.false_eq_true, if_false]
  case frame =>
    intro hpage hentry hfmt hfam hgot hread htag hcode hkey hindex hsegs hsize hzero
    refine movesXfer_of_frontWalk hone hw ?_ (f := fun y => { y with pairs := [], walk := some _ })
    rw [exec_scaleFrameCheck, execScaleFrameCheck, hw]
    simp [hpage, hentry, hfmt, hgot, hread, htag, hcode, hkey, hindex, hsegs, hsize, hzero, hfam]
  case epoch =>
    intro hopen hheader hall hread hepoch
    refine movesXfer_of_frontWalk hone hw ?_ (f := fun y => { y with walk := some _ })
    rw [exec_pageWalkEpochRead, execPageWalkEpochRead, hw]
    simp [hopen, hheader, hall, hread, hepoch]

end Sys2Proof.Cert
end

section
/-! PROOF. What the operations that records, messages and writes of memory are made of leave of the front end: one rule for each. -/

namespace Sys2Proof.Machine

/-- What every step of a fold keeps, the fold keeps. -/
theorem foldl_keeps {σ α β : Type} (π : σ → β) {f : σ → α → σ} (h : ∀ s a, π (f s a) = π s) (l : List α) (s : σ) :
    π (l.foldl f s) = π s := by
  induction l generalizing s with
  | nil => rfl
  | cons a l ih => rw [List.foldl_cons, ih, h]

/-- A choice between two that keep something keeps it. -/
theorem ite_keeps {σ β : Type} (π : σ → β) {p : Prop} [Decidable p] {a b : σ} {v : β} (ha : π a = v) (hb : π b = v) :
    π (if p then a else b) = v := by
  split
  · exact ha
  · exact hb

section
variable (s : State)

/-! ### Time, numbers and output -/

@[simp] theorem State.afterNow_fe : s.afterNow.fe = s.fe := rfl
@[simp] theorem State.afterStamp_fe (src : Nat) : (s.afterStamp src).fe = s.fe := rfl
@[simp] theorem State.afterSeq_fe (src : Nat) : (s.afterSeq src).fe = s.fe := rfl
@[simp] theorem State.modMsi_fe (fn v : Nat) (f : MsiVec → MsiVec) : (s.modMsi fn v f).fe = s.fe := rfl
@[simp] theorem State.zeroBays_fe (st : Nat) : (s.zeroBays st).fe = s.fe := rfl
@[simp] theorem State.setFld_fe (fn off hi lo v : Nat) : (s.setFld fn off hi lo v).fe = s.fe := State.setRaw_fe s fn off _

@[simp] theorem State.hostWrite_fe (fn : Option Nat) (a : Nat) (bs : List Byte) : (s.hostWrite fn a bs).fe = s.fe :=
  ite_keeps State.fe rfl rfl

@[simp] theorem State.hostShow_fe (fn a : Nat) (bs : List Byte) : (s.hostShow fn a bs).fe = s.fe :=
  ite_keeps State.fe rfl (State.hostWrite_fe s _ a bs)

@[simp] theorem State.emitAfter_fe (o : Out) : (s.emitAfter o).fe = s.fe := ite_keeps State.fe rfl rfl

/-! ### Records and event messages -/

@[simp] theorem State.putDbk_fe (k : Nat) (r : DbkRec) : (s.putDbk k r).fe = s.fe :=
  ite_keeps State.fe rfl (ite_keeps State.fe rfl (ite_keeps State.fe rfl (State.hostWrite_fe _ _ _ _)))

@[simp] theorem State.postDbkF_fe (fl : Nat) (ks : List Nat) (c : DbkClass) (src type : Nat) (payload : List Byte) :
    (s.postDbkF fl ks c src type payload).fe = s.fe :=
  ite_keeps State.fe rfl (foldl_keeps State.fe (fun s k => s.putDbk_fe k _) _ _)

@[simp] theorem State.postDbk_fe (ks : List Nat) (c : DbkClass) (src type : Nat) (payload : List Byte) :
    (s.postDbk ks c src type payload).fe = s.fe := s.postDbkF_fe 0 ks c src type payload

@[simp] theorem State.putFlt_fe (k : Nat) (f : FaultInfo) (time : W64) (src : Nat) (seq : W32) : (s.putFlt k f time src seq).fe = s.fe :=
  ite_keeps State.fe rfl (ite_keeps State.fe rfl (State.hostWrite_fe _ _ _ _))

@[simp] theorem State.eventMsg_fe (p : Nat) : (s.eventMsg p).fe = s.fe :=
  ite_keeps State.fe rfl (ite_keeps State.fe rfl (ite_keeps State.fe rfl (State.emitAfter_fe _ _)))

@[simp] theorem State.postFault_fe (src : Nat) (f : FaultInfo) : (s.postFault src f).fe = s.fe := by
  unfold State.postFault
  have hrings (s : State) (ks : List Nat) (time : W64) (seq : W32) : (ks.foldl (fun s k => s.putFlt k f time src seq) s).fe = s.fe :=
    foldl_keeps State.fe (fun s k => s.putFlt_fe k f time src seq) ks s
  cases f.pitch with
  | none => simp [hrings]
  | some p => exact ite_keeps State.fe (by simp [hrings]) (by simp [hrings])

@[simp] theorem State.audit_fe (r : AuditRec) : (s.audit r).fe = s.fe := by
  unfold State.audit
  dsimp only
  split <;> rfl

@[simp] theorem State.auditReset_fe (fn p target cause : Nat) (scrub : Bool) : (s.auditReset fn p target cause scrub).fe = s.fe :=
  s.audit_fe _

/-! ### Links and the pair -/

@[simp] theorem State.pump_fe (n i : Nat) : (State.pump n i s).fe = s.fe := by
  induction n generalizing s with
  | zero => rfl
  | succ n ih =>
    rw [State.pump]
    dsimp only
    split
    · rfl
    · exact ite_keeps State.fe rfl (ih _)

@[simp] theorem State.queueOn_fe (i vc msg : Nat) (bs : List Byte) : (s.queueOn i vc msg bs).fe = s.fe := State.pump_fe _ _ _

@[simp] theorem State.forwardBy_fe (e : Nat) (inPort : Option Nat) (vcIn : Nat) (bs : List Byte) : (s.forwardBy e inPort vcIn bs).fe = s.fe := by
  unfold State.forwardBy
  dsimp only
  repeat' split
  all_goals simp

@[simp] theorem State.engineSend_fe (h : Head) (data : List Byte) : (s.engineSend h data).fe = s.fe :=
  ite_keeps State.fe (State.forwardBy_fe _ _ _ _ _) rfl

@[simp] theorem State.tellNeighbours_fe (c : Coll) (mtype arg : Nat) (data : List Byte) : (s.tellNeighbours c mtype arg data).fe = s.fe :=
  ite_keeps State.fe rfl (foldl_keeps State.fe (fun s _ => s.engineSend_fe _ _) _ _)

@[simp] theorem State.sendCredit_fe (p m size : Nat) (reset : Bool) : (s.sendCredit p m size reset).fe = s.fe :=
  ite_keeps State.fe rfl (State.engineSend_fe _ _ _)

@[simp] theorem State.pairGo_fe (m : PairMsg) : (s.pairGo m).fe = s.fe := State.queueOn_fe _ _ _ _ _

@[simp] theorem State.pairPump_fe : s.pairPump.fe = s.fe := by
  rw [State.pairPump, State.modPair_fe]
  refine foldl_keeps (fun r : State × List PairMsg => r.1.fe) (fun r m => ?_) _ _
  exact ite_keeps (fun r : State × List PairMsg => r.1.fe) rfl (r.1.pairGo_fe m)

@[simp] theorem State.pairSend_fe (m : PairMsg) : (s.pairSend m).fe = s.fe := State.pairPump_fe _
@[simp] theorem State.pairTell_fe (rs : List PairRec) : (s.pairTell rs).fe = s.fe := State.pairSend_fe _ _
@[simp] theorem State.pairCopy_fe (r : PairRec) : (s.pairCopy r).fe = s.fe := ite_keeps State.fe (State.pairTell_fe _ _) rfl

@[simp] theorem State.pairSync_fe : s.pairSync.fe = s.fe :=
  ite_keeps State.fe rfl (ite_keeps State.fe rfl (State.pairTell_fe _ _))

@[simp] theorem State.pairFlush_fe : s.pairFlush.fe = s.fe :=
  ite_keeps State.fe ((State.modPair_fe _ _).trans (foldl_keeps State.fe (fun s o => s.emit_fe o) _ _)) rfl

@[simp] theorem State.pairShow_fe : s.pairShow.fe = s.fe := (State.pairFlush_fe _).trans s.pairSync_fe

/-! ### Stalls and their transfers -/

@[simp] theorem State.setPwr_fe (st : Nat) (tgt : PwrState) : (s.setPwr st tgt).fe = s.fe := by
  unfold State.setPwr
  dsimp only
  repeat' split
  all_goals simp

@[simp] theorem State.wakeStall_fe (st : Nat) : (s.wakeStall st).fe = s.fe := s.setPwr_fe st _

@[simp] theorem State.stopOn_fe (l : Nat) (y : Nat × Nat × Nat) : (s.stopOn l y).fe = s.fe := rfl

@[simp] theorem State.portRec_fe (st ch : Nat) (x : Xfer) (status : Status) (bytes : Nat) : (s.portRec st ch x status bytes).fe = s.fe := by
  unfold State.portRec
  split
  · rfl
  · exact ite_keeps State.fe (State.postDbk_fe _ _ _ _ _ _) rfl

@[simp] theorem State.failRec_fe (st ch : Nat) (x : Xfer) (status : Status) : (s.failRec st ch x status).fe = s.fe :=
  ite_keeps State.fe (State.portRec_fe _ _ _ _ _ _) rfl

/-! ### Lines of memory -/

@[simp] theorem State.poisonedWrite_fe (p u o : Nat) (who : Option FaultInfo) : (s.poisonedWrite p u o who).fe = s.fe := State.postFault_fe _ _ _

@[simp] theorem State.writeLine_fe (u o : Nat) (bs : List Byte) (poison : Bool) : (s.writeLine u o bs poison).fe = s.fe :=
  ite_keeps State.fe rfl (ite_keeps State.fe rfl (ite_keeps State.fe rfl rfl))

@[simp] theorem State.writeCopy_fe (p u o : Nat) (who : Option FaultInfo) (bs : List Byte) (poison : Bool) :
    (s.writeCopy p u o who bs poison).fe = s.fe :=
  ite_keeps State.fe (State.poisonedWrite_fe _ _ _ _ _) (State.writeLine_fe _ _ _ _ _)

@[simp] theorem State.mirrorLine_fe (p a : Nat) (pl : Place) : (s.mirrorLine p a pl).fe = s.fe :=
  ite_keeps State.fe (State.pairSend_fe _ _) rfl

end

end Sys2Proof.Machine
end

section
/-! PROOF. The pitches through the operations of the front end: what a reset sets of a pitch, and that nothing else changes it. -/

namespace Sys2Proof.Machine

/-! ### The marks of a pitch -/

/-- What a reset that begins sets of its pitch and the statements name (R382): the state, cause and kind, the mask, and the descriptors
that asked for it. -/
structure PitchMark where
  state : PState
  cause : Nat
  scrub : Bool
  masked : Bool
  joined : List (Nat × W32)

/-- The marks of one pitch. -/
def Pitch.mark (x : Pitch) : PitchMark := ⟨x.state, x.cause, x.scrub, x.masked, x.joined⟩

/-- The marks of every pitch. -/
def State.marks (s : State) : Vector PitchMark 24 := s.fe.pitches.map Pitch.mark

theorem State.mark_pitch (s : State) (k : Nat) : (s.pitch k).mark = s.marks[k]?.getD Pitch.reset.mark := by
  rw [State.pitch, State.marks, Vector.getElem?_map, Option.getD_map]

/-- A pitch that is not off is one of the 24. -/
theorem State.pitch_lt_of_state_ne_off {s : State} {p : Nat} (h : (s.pitch p).state ≠ .off) : p < 24 := by
  refine Nat.lt_of_not_le fun hp => h ?_
  rw [State.pitch, Vector.getElem?_eq_none hp]; rfl

/-- What leaves the front end leaves the marks. -/
theorem State.marks_of_fe {s t : State} (h : t.fe = s.fe) : t.marks = s.marks := by rw [State.marks, h]; rfl

section
variable (s : State)

theorem State.marks_modPitch (p : Nat) (f : Pitch → Pitch) : (s.modPitch p f).marks = s.marks.setIfInBounds p (f (s.pitch p)).mark := by
  rw [State.marks, State.modPitch, Vector.map_setIfInBounds]; rfl

/-- A change of a pitch that leaves its marks. -/
theorem State.marks_modPitch_of_mark (p : Nat) {f : Pitch → Pitch} (h : ∀ x, (f x).mark = x.mark) : (s.modPitch p f).marks = s.marks := by
  rw [State.marks_modPitch, h, State.mark_pitch]
  refine Vector.ext fun i hi => ?_
  rw [Vector.getElem_setIfInBounds]
  split
  next hp => subst hp; rw [Vector.getElem?_eq_getElem hi, Option.getD_some]
  next => rfl

/-! ### Queues, slots and launches -/

theorem State.marks_modFe_of_pitches {f : FrontEnd → FrontEnd} (h : ∀ e, (f e).pitches = e.pitches) : (s.modFe f).marks = s.marks := by
  rw [State.marks, State.modFe_fe, h]; rfl

@[simp] theorem State.marks_modQueue (q : Nat) (f : Queue → Queue) : (s.modQueue q f).marks = s.marks := by
  unfold State.modQueue
  split <;> rfl

@[simp] theorem State.marks_modLaunch (l : Nat) (f : Launch → Launch) : (s.modLaunch l f).marks = s.marks := by
  unfold State.modLaunch
  split <;> rfl

@[simp] theorem State.marks_modSlot (n : Nat) (f : Slot → Slot) : (s.modSlot n f).marks = s.marks := rfl
@[simp] theorem State.marks_wakeFront : s.wakeFront.marks = s.marks := rfl
@[simp] theorem State.marks_dropQueue (q : Nat) : (s.dropQueue q).marks = s.marks := rfl
@[simp] theorem State.marks_freeSlots (p : Nat) : (s.freeSlots p).marks = s.marks := rfl

@[simp] theorem State.marks_startDesc (q : Nat) (h : W32) : (s.startDesc q h).marks = s.marks := by
  unfold State.startDesc
  dsimp only
  split <;> simp

@[simp] theorem State.marks_descDone (q : Nat) (h : W32) (launch : Option Nat) : (s.descDone q h launch).marks = s.marks := by
  have hpsb (t : State) (p : Nat) : (t.modPitch p fun x => { x with psbDirty := true }).marks = t.marks :=
    t.marks_modPitch_of_mark p fun _ => by rfl
  unfold State.descDone
  cases launch with
  | none =>
    dsimp only
    split
    all_goals exact s.marks_modQueue q _
  | some l =>
    dsimp only
    rw [State.marks_wakeFront]
    split
    · rw [hpsb]
      split
      all_goals exact s.marks_modQueue q _
    · split
      all_goals exact s.marks_modQueue q _

@[simp] theorem State.marks_finishDesc (q : Nat) (h : W32) (st : Status) (cflags : Nat) (info : W64) (launch : Option Nat) :
    (s.finishDesc q h st cflags info launch).marks = s.marks := by
  unfold State.finishDesc
  dsimp only
  repeat' split
  all_goals simp

@[simp] theorem State.marks_abortLaunch (l : Nat) (st : Status) (faulted : Bool) : (s.abortLaunch l st faulted).marks = s.marks := by
  unfold State.abortLaunch
  split
  · rfl
  next x hx =>
    refine ite_keeps State.marks rfl ((State.marks_modLaunch _ _ _).trans ?_)
    exact foldl_keeps State.marks (fun s y => State.marks_of_fe (s.stopOn_fe l y)) _ _

/-! ### Status blocks -/

@[simp] theorem State.marks_writePsb (p : Nat) : (s.writePsb p).marks = s.marks := by
  refine ite_keeps State.marks (State.marks_modPitch_of_mark _ p fun _ => by rfl) ?_
  exact (State.marks_modPitch_of_mark _ p fun _ => by rfl).trans (State.marks_of_fe (State.hostShow_fe _ _ _ _))

@[simp] theorem State.marks_writeBlock (q : Nat) : (s.writeBlock q).marks = s.marks := by
  unfold State.writeBlock
  split
  · rfl
  next x hx =>
    have hshow := State.marks_of_fe ((s.afterStamp (srcQueue q)).hostShow_fe x.fn x.status.toNat
      (x.blockBytes q (s.stamp (srcQueue q)) (x.sseq + 1)))
    exact hshow

/-! ### Writes of memory -/

@[simp] theorem State.marks_keepImage (l a n : Nat) (pl : Place) : (s.keepImage l a n pl).marks = s.marks := by
  unfold State.keepImage
  split
  · rfl
  · exact ite_keeps State.marks rfl (State.marks_modLaunch _ _ _)

@[simp] theorem State.marks_digest (l : Nat) (rec : List Byte) : (s.digest l rec).marks = s.marks := by
  unfold State.digest
  repeat' split
  all_goals rfl

@[simp] theorem State.marks_writePlace (p a : Nat) (pl : Place) (who : Option FaultInfo) (bs : List Byte) (poison : Bool) :
    (s.writePlace p a pl who bs poison).marks = s.marks := by
  have hcopy (t : State) (u o : Nat) : (t.writeCopy p u o who bs poison).marks = t.marks := State.marks_of_fe (t.writeCopy_fe p u o who bs poison)
  have hmirror (t : State) : (t.mirrorLine p a pl).marks = t.marks := State.marks_of_fe (t.mirrorLine_fe p a pl)
  unfold State.writePlace
  dsimp only
  repeat' split
  all_goals simp [hcopy, hmirror]

@[simp] theorem State.marks_writeDev (p : Nat) (csr : Option Nat) (acc : Acc) (who : Option FaultInfo) (a : Nat) (bs : List Byte)
    (poison : Bool) : (s.writeDev p csr acc who a bs poison).marks = s.marks := by
  refine foldl_keeps (fun r : State × List Byte => r.1.marks) (fun r pc => ?_) _ (s, bs)
  dsimp only
  rw [State.writePiece]
  split
  · exact State.marks_writePlace _ _ _ _ _ _ _
  · rfl

@[simp] theorem State.marks_writeDump (p : Nat) (time : W64) (src : Nat) (seq : W32) (queue : Nat) (h : W32) (st : Status)
    (sections : List (List Byte)) : (s.writeDump p time src seq queue h st sections).marks = s.marks :=
  (State.marks_of_fe (State.setFld_fe _ _ _ _ _ _)).trans (State.marks_writeDev _ _ _ _ _ _ _ _)

/-! ### Faults, and the ends of collectives -/

@[simp] theorem State.marks_retainLaunch (l : Nat) (time : W64) (src : Nat) (seq : W32) (st : Status) :
    (s.retainLaunch l time src seq st).marks = s.marks := by
  unfold State.retainLaunch
  split
  · rfl
  · exact ite_keeps State.marks ((State.marks_modLaunch _ _ _).trans (State.marks_writeDump _ _ _ _ _ _ _ _ _)) rfl

@[simp] theorem State.marks_contextFault (l src : Nat) (lstall : Option Nat) (st : Status) (ukind uindex syndrome addr : Nat) :
    (s.contextFault l src lstall st ukind uindex syndrome addr).marks = s.marks := by
  unfold State.contextFault State.contextFaultF
  split
  · rfl
  · refine ite_keeps State.marks (State.marks_of_fe (State.postFault_fe _ _ _)) ?_
    exact (State.marks_of_fe (State.postFault_fe _ _ _)).trans ((State.marks_abortLaunch _ _ _ _).trans (State.marks_retainLaunch _ _ _ _ _ _))

@[simp] theorem State.marks_xferFault (st ch : Nat) (x : Xfer) (status : Status) (addr : Nat) :
    (s.xferFault st ch x status addr).marks = s.marks :=
  (State.marks_contextFault _ _ _ _ _ _ _ _ _).trans (State.marks_of_fe (State.failRec_fe _ _ _ _ _))

@[simp] theorem State.marks_endColl (k : Nat) (st : Status) : (s.endColl k st).marks = s.marks := by
  unfold State.endColl
  split
  · rfl
  · refine (State.marks_of_fe (State.tellNeighbours_fe _ _ _ _ _)).trans ?_
    exact foldl_keeps State.marks (fun s y => State.marks_xferFault _ _ _ _ _ _) _ _

@[simp] theorem State.marks_dropPitchNet (p : Nat) : (s.dropPitchNet p).marks = s.marks := by
  unfold State.dropPitchNet State.endColls
  refine (foldl_keeps State.marks (fun s m => State.marks_of_fe (s.sendCredit_fe p m 0 true)) _ _).trans ?_
  exact foldl_keeps State.marks (fun s (c : Coll) => s.marks_endColl c.serial .peerReset) _ _

/-! ### A reset that begins -/

@[simp] theorem State.marks_resetDesc (p q : Nat) (d : Desc) : (s.resetDesc p q d).marks = s.marks := by
  have hreport (t : State) : (t.modPitch p fun x => { x with toReport := x.toReport ++ [(q, d.hseq)] }).marks = t.marks :=
    t.marks_modPitch_of_mark p fun _ => by rfl
  unfold State.resetDesc
  dsimp only
  repeat' split
  all_goals simp [hreport]

/-- A reset that begins marks its pitch, and no other (R382). -/
theorem State.marks_resetBegin (p cause : Nat) (scrub : Bool) :
    (s.resetBegin p cause scrub).marks = s.marks.setIfInBounds p ⟨.resetting, cause, scrub, true, (s.pitch p).joined⟩ := by
  have hmsi (t : State) (fn : Nat) (f : MsiVec → MsiVec) (vs : List Nat) : (vs.foldl (fun s v => s.modMsi fn v f) t).marks = t.marks :=
    foldl_keeps State.marks (fun s v => State.marks_of_fe (s.modMsi_fe fn v f)) vs t
  have hdbk (t : State) (ks : List Nat) (c : DbkClass) (src type : Nat) (bs : List Byte) : (t.postDbk ks c src type bs).marks = t.marks :=
    State.marks_of_fe (t.postDbk_fe ks c src type bs)
  have hwake (t : State) (sts : List Nat) : (sts.foldl (fun s st => if s.inService st then s.wakeStall st else s) t).marks = t.marks :=
    foldl_keeps State.marks (fun s st => ite_keeps State.marks (State.marks_of_fe (s.wakeStall_fe st)) rfl) sts t
  have hdescs (t : State) (q : Nat) (ds : List Desc) : (ds.foldl (fun s d => s.resetDesc p q d) t).marks = t.marks :=
    foldl_keeps State.marks (fun s d => s.marks_resetDesc p q d) ds t
  have hreqs (t : State) (rs : List MemReq) : ({ t with mem := { t.mem with reqs := rs } } : State).marks = t.marks := rfl
  unfold State.resetBegin
  dsimp only
  refine ite_keeps State.marks (State.marks_writeDump _ _ _ _ _ _ _ _ _ |>.trans ?_) ?_
  all_goals
    rw [State.marks_dropPitchNet, hreqs]
    refine (foldl_keeps State.marks (fun t q => ?_) _ _).trans ?_
    · split
      · exact hdescs _ _ _
      · rfl
    · rw [hwake, State.marks_freeSlots, hdbk, State.marks_writePsb, hmsi, State.marks_modPitch]
      rfl

/-- A reset asked for of a RUNNING pitch begins. -/
theorem State.marks_resetRequest_of_running {p : Nat} (h : (s.pitch p).state = .running) (cause : Nat) (scrub teardown : Bool) :
    (s.resetRequest p cause scrub teardown).marks = s.marks.setIfInBounds p ⟨.resetting, cause, scrub, true, (s.pitch p).joined⟩ := by
  have hcopy : (s.pairCopy (.reset p cause scrub)).pitch p = s.pitch p := by rw [State.pitch, State.pairCopy_fe]; rfl
  have hmarks : ((s.pairCopy (.reset p cause scrub)).modPitch p fun x => { x with teardown := teardown }).marks = s.marks :=
    (State.marks_modPitch_of_mark _ p fun _ => by rfl).trans (State.marks_of_fe (s.pairCopy_fe _))
  have hjoined : (((s.pairCopy (.reset p cause scrub)).modPitch p fun x => { x with teardown := teardown }).pitch p).joined =
      (s.pitch p).joined := by
    refine congrArg PitchMark.joined (a₁ := Pitch.mark _) (a₂ := Pitch.mark _) ?_
    rw [State.mark_pitch, State.mark_pitch, hmarks]
  unfold State.resetRequest
  dsimp only
  rw [hcopy, h]
  dsimp only
  rw [State.marks_resetBegin, hmarks, hjoined]

/-! ### What ends a command of the front end -/

@[simp] theorem State.marks_closeQueue (q : Nat) : (s.closeQueue q).marks = s.marks := by
  have hfld (t : State) (fn off hi lo v : Nat) : (t.setFld fn off hi lo v).marks = t.marks := State.marks_of_fe (t.setFld_fe fn off hi lo v)
  unfold State.closeQueue
  split
  · rfl
  · split
    · refine ite_keeps State.marks ?_ rfl
      rw [hfld, State.aqOff, hfld, State.marks_dropQueue, State.marks_dropQueue]
    · exact ite_keeps State.marks rfl (by simp)

@[simp] theorem State.marks_mirTidy : s.mirTidy.marks = s.marks := by
  have hfld (t : State) (fn off hi lo v : Nat) : (t.setFld fn off hi lo v).marks = t.marks := State.marks_of_fe (t.setFld_fe fn off hi lo v)
  unfold State.mirTidy
  refine foldl_keeps State.marks (fun s e => ?_) _ _
  dsimp only
  split
  · split
    · exact ite_keeps State.marks (by rw [hfld, hfld]) rfl
    · rfl
  · rfl

@[simp] theorem State.marks_tidy : s.tidy.marks = s.marks := by
  unfold State.tidy
  dsimp only
  rw [State.marks_modFe_of_pitches _ fun _ => by rfl]
  refine foldl_keeps State.marks (fun s n => ?_) _ _
  split
  · exact ite_keeps State.marks (State.marks_modSlot _ _ _) rfl
  · rfl

@[simp] theorem State.marks_issueReads : s.issueReads.marks = s.marks :=
  ite_keeps State.marks (State.marks_modFe_of_pitches _ fun _ => by rfl) rfl

/-- What ends a command of the front end marks no pitch. -/
@[simp] theorem State.marks_feDone : s.feDone.marks = s.marks := by
  unfold State.feDone
  rw [State.marks_of_fe (State.pairShow_fe _), State.marks_issueReads, State.marks_tidy, State.marks_mirTidy]
  exact foldl_keeps State.marks (fun s q => s.marks_closeQueue q) _ _

end
end Sys2Proof.Machine
end

section
/-! PROOF. The queues of the front end: what a head that starts and completes, and a status block that is written, leave of them. -/

namespace Sys2Proof.Machine

section
variable (s : State)

/-! ### One queue changed -/

theorem State.queue?_modQueue {q : Nat} {x : Queue} (h : s.queue? q = some x) (f : Queue → Queue) :
    (s.modQueue q f).queue? q = some { f x with dirty := true } := by
  rw [State.modQueue, h]
  exact Tab.find_put_self _ _ _

theorem State.queue?_modQueue_ne {q m : Nat} (h : m ≠ q) (f : Queue → Queue) : (s.modQueue q f).queue? m = s.queue? m := by
  unfold State.modQueue
  split
  · exact Tab.find_put_ne _ _ h
  · rfl

/-- Two changes of a queue that agree on it are one. -/
theorem State.modQueue_congr {q : Nat} {f g : Queue → Queue} (h : ∀ x, s.queue? q = some x → f x = g x) : s.modQueue q f = s.modQueue q g := by
  unfold State.modQueue
  split
  next x hx => rw [h x hx]
  next => rfl

/-- Of the queues, a head that starts changes its own (R367). -/
theorem State.queue?_startDesc_ne {q m : Nat} (h : m ≠ q) (hseq : W32) : (s.startDesc q hseq).queue? m = s.queue? m := by
  unfold State.startDesc
  dsimp only
  split
  all_goals exact s.queue?_modQueue_ne h _

@[simp] theorem State.startDesc_mem (q : Nat) (h : W32) : (s.startDesc q h).mem = s.mem := by
  unfold State.startDesc
  dsimp only
  split
  all_goals exact s.modQueue_mem q _

@[simp] theorem State.startDesc_stalls (q : Nat) (h : W32) : (s.startDesc q h).stalls = s.stalls := by
  unfold State.startDesc
  dsimp only
  split
  all_goals exact s.modQueue_stalls q _

/-! ### A queue but for its records and its block -/

/-- A queue without what a record that comes to wait in it (R338) and a status block that is written (R342) change. -/
def Queue.bare (x : Queue) : Queue := { x with waiting := [], sseq := 0, dirty := false }

/-- Queue `m` without them. -/
def State.bareQueue (m : Nat) : Option Queue := (s.queue? m).map Queue.bare

theorem State.bareQueue_of_queues {s t : State} (h : t.fe.queues = s.fe.queues) (m : Nat) : t.bareQueue m = s.bareQueue m := by
  rw [State.bareQueue, State.queue?, h]; rfl

theorem State.bareQueue_modQueue_ne {q m : Nat} (h : m ≠ q) (f : Queue → Queue) : (s.modQueue q f).bareQueue m = s.bareQueue m := by
  rw [State.bareQueue, s.queue?_modQueue_ne h]; rfl

/-- A change of any queue that leaves the rest of it. -/
theorem State.bareQueue_modQueue_of_bare (q m : Nat) {f : Queue → Queue} (h : ∀ x, (f x).bare = x.bare) :
    (s.modQueue q f).bareQueue m = s.bareQueue m := by
  by_cases hm : m = q
  · subst hm
    cases hx : s.queue? m with
    | none => rw [State.modQueue, hx]
    | some x =>
      rw [State.bareQueue, State.bareQueue, s.queue?_modQueue hx, hx]
      exact congrArg some (h x)
  · exact s.bareQueue_modQueue_ne hm f

theorem State.bareQueue_startDesc_ne {q m : Nat} (h : m ≠ q) (hseq : W32) : (s.startDesc q hseq).bareQueue m = s.bareQueue m := by
  rw [State.bareQueue, s.queue?_startDesc_ne h]; rfl

/-- Of the queues, a descriptor that is done changes its own. -/
theorem State.descDone_queues (q : Nat) (hseq : W32) (launch : Option Nat) :
    (s.descDone q hseq launch).fe.queues = (s.modQueue q fun x => x.complete hseq).fe.queues := by
  unfold State.descDone
  dsimp only
  generalize s.modQueue q (fun x => x.complete hseq) = t
  repeat' split
  all_goals rfl

theorem State.bareQueue_descDone_ne {q m : Nat} (h : m ≠ q) (hseq : W32) (launch : Option Nat) :
    (s.descDone q hseq launch).bareQueue m = s.bareQueue m :=
  (State.bareQueue_of_queues (s.descDone_queues q hseq launch) m).trans (s.bareQueue_modQueue_ne h _)

/-- A descriptor that completes changes its own queue, and of the others the records that wait (R338, R339). -/
theorem State.bareQueue_finishDesc_ne {q m : Nat} (h : m ≠ q) (hseq : W32) (st : Status) (cflags : Nat) (info : W64) (launch : Option Nat) :
    (s.finishDesc q hseq st cflags info launch).bareQueue m = s.bareQueue m := by
  have hdone := s.bareQueue_descDone_ne h hseq launch
  have hwaits (t : State) (cq : Nat) (r : CRec) :
      ((t.modQueue cq fun c => { c with waiting := c.waiting ++ [r] }).wakeFront).bareQueue m = t.bareQueue m :=
    t.bareQueue_modQueue_of_bare cq m fun _ => by rfl
  unfold State.finishDesc
  dsimp only
  refine ite_keeps (State.bareQueue · m) rfl ?_
  split
  · rfl
  split
  · rfl
  refine ite_keeps (State.bareQueue · m) rfl (ite_keeps (State.bareQueue · m) hdone ?_)
  rw [hwaits, s.bareQueue_modQueue_ne h]

theorem State.bareQueue_endHead_ne {q m : Nat} (h : m ≠ q) (hseq : W32) (st : Status) (info : W64) :
    (s.endHead q hseq st info).bareQueue m = s.bareQueue m :=
  (State.bareQueue_finishDesc_ne _ h _ _ _ _ _).trans (s.bareQueue_startDesc_ne h hseq)

/-! ### Status blocks -/

/-- A written status block numbers and cleans its queue (R342). -/
theorem State.queue?_writeBlock {q : Nat} {x : Queue} (h : s.queue? q = some x) :
    (s.writeBlock q).queue? q = some { x with sseq := x.sseq + 1, dirty := false } := by
  rw [State.writeBlock, h]
  exact Tab.find_put_self _ _ _

theorem State.queue?_writeBlock_ne {q m : Nat} (h : m ≠ q) : (s.writeBlock q).queue? m = s.queue? m := by
  unfold State.writeBlock
  split
  · rfl
  next x hx =>
    refine (Tab.find_put_ne _ _ h).trans ?_
    rw [State.hostShow_fe]; rfl

theorem State.bareQueue_writeBlock (q m : Nat) : (s.writeBlock q).bareQueue m = s.bareQueue m := by
  by_cases hm : m = q
  · subst hm
    cases hx : s.queue? m with
    | none => rw [State.writeBlock, hx]
    | some x => rw [State.bareQueue, State.bareQueue, s.queue?_writeBlock hx, hx]; rfl
  · rw [State.bareQueue, s.queue?_writeBlock_ne hm]; rfl

theorem State.bareQueue_writePsb (p m : Nat) : (s.writePsb p).bareQueue m = s.bareQueue m := by
  refine State.bareQueue_of_queues (ite_keeps (fun t : State => t.fe.queues) rfl ?_) m
  dsimp only
  rw [State.modPitch, State.hostShow_fe]; rfl

end
end Sys2Proof.Machine
end

section
/-! PROOF. The admin descriptors of Tables 13-9 to 13-11: what each does at the head of its queue. -/

namespace Sys2Proof.Machine

/-- A PITCH field of 0xFF names the function's own pitch (R336). -/
theorem State.namedPitch_own (s : State) (fn : Nat) : s.namedPitch fn 0xFF = s.servedPitch fn := if_pos rfl

/-- A RESYNC or PITCH_RESET with PITCH 0xFF names no other pitch. -/
theorem State.namesOther_eq_false_of_own {s : State} {x : Queue} {d : Desc} (hop : d.op = 0x42 ∨ d.op = 0x46)
    (hpitch : fieldAt d.bytes 8 1 = 0xFF) : s.namesOther x d = false := by
  rcases hop with hop | hop
  all_goals
    rw [State.namesOther, hop, hpitch, State.namedPitch_own]
    exact bne_self_eq_false _

/-- A KILL that names a queue of its own function names no other pitch. -/
theorem State.namesOther_eq_false_of_queueOf {s : State} {x : Queue} {d : Desc} (hop : d.op = 0x45)
    (hq : s.queueOf x.fn (fieldAt d.bytes 8 2) = true) : s.namesOther x d = false := by
  rw [State.namesOther, hop]
  exact congrArg not hq

/-! ### RESYNC with HOLD -/

/-- What RESYNC with HOLD does to queue `n`, where SQ `q` runs the RESYNC (R344). -/
def State.holdSq (q : Nat) (s : State) (n : Nat) : State :=
  match s.queue? n with
  | some y => if !y.isCq && n != q && y.state == .active then s.modQueue n (fun y => { y with state := .held, toFetch := 0 }) else s
  | none => s

/-- Queue `m` stands in HELD with nothing to fetch. -/
def State.isHeld (s : State) (m : Nat) : Prop := (s.queue? m).map (fun z => (z.state, z.toFetch)) = some (.held, 0)

/-- A queue is not touched where it is another's turn. -/
theorem State.queue?_holdSq_ne {q n m : Nat} (h : m ≠ n) (s : State) : (s.holdSq q n).queue? m = s.queue? m := by
  unfold State.holdSq
  split
  · exact ite_keeps (State.queue? · m) (s.queue?_modQueue_ne h _) rfl
  · rfl

theorem State.isHeld_holdSq_self {q n : Nat} {s : State} {z : Queue} (hn : n ≠ q) (hz : s.queue? n = some z) (hsq : z.isCq = false)
    (hactive : z.state = .active) : (s.holdSq q n).isHeld n := by
  have hcond : (!z.isCq && n != q && z.state == .active) = true := by simp [hsq, hn, hactive]
  unfold State.holdSq
  rw [hz]
  dsimp only
  rw [if_pos hcond, State.isHeld, s.queue?_modQueue hz]
  rfl

/-- A held queue stays held, whosever turn it is. -/
theorem State.isHeld_holdSq {q n m : Nat} {s : State} (h : s.isHeld m) : (s.holdSq q n).isHeld m := by
  by_cases hm : m = n
  · subst hm
    obtain ⟨z, hz, hzs⟩ := Option.map_eq_some_iff.1 h
    have hstate : z.state = .held := congrArg Prod.fst hzs
    have hcond : ¬(!z.isCq && m != q && z.state == .active) = true := by simp [hstate]
    unfold State.holdSq
    rw [hz]
    dsimp only
    rwa [if_neg hcond]
  · rwa [State.isHeld, State.queue?_holdSq_ne hm]

theorem State.isHeld_foldl_holdSq {q m : Nat} {s : State} (h : s.isHeld m) (qs : List Nat) : (qs.foldl (State.holdSq q) s).isHeld m := by
  induction qs generalizing s with
  | nil => exact h
  | cons n qs ih => exact ih (State.isHeld_holdSq h)

/-- RESYNC with HOLD holds every ACTIVE SQ in its list but its own. -/
theorem State.isHeld_foldl_holdSq_of_active {q m : Nat} {s : State} {z : Queue} {qs : List Nat} (hmem : m ∈ qs) (hm : m ≠ q)
    (hz : s.queue? m = some z) (hsq : z.isCq = false) (hactive : z.state = .active) : (qs.foldl (State.holdSq q) s).isHeld m := by
  induction qs generalizing s with
  | nil => exact absurd hmem List.not_mem_nil
  | cons n qs ih =>
    rw [List.foldl_cons]
    by_cases hn : m = n
    · exact State.isHeld_foldl_holdSq (hn ▸ State.isHeld_holdSq_self hm hz hsq hactive) qs
    · exact ih (List.mem_of_ne_of_mem hn hmem) ((State.queue?_holdSq_ne hn s).trans hz)

/-- Whether a queue is held shows in what records and status blocks leave of it. -/
theorem State.isHeld_of_bareQueue {s t : State} {m : Nat} (h : t.bareQueue m = s.bareQueue m) (hs : s.isHeld m) : t.isHeld m := by
  have hbare (u : State) : (u.queue? m).map (fun z => (z.state, z.toFetch)) = (u.bareQueue m).map fun z => (z.state, z.toFetch) := by
    rw [State.bareQueue, Option.map_map]; rfl
  rw [State.isHeld, hbare, h, ← hbare]
  exact hs

/-! ### QUEUE_CREATE -/

/-- A queue that QUEUE_CREATE makes, but for its status block, which is written at once (R546). -/
theorem State.bareQueue_makeQueue (s : State) (n : Nat) (x : Queue) (first : W32) :
    (s.makeQueue n x first).bareQueue n =
      some { x with newest := first - 1, started := first - 1, doneLow := first - 1, consumed := first - 1 }.bare := by
  rw [State.makeQueue, State.bareQueue_writeBlock]
  exact congrArg (Option.map Queue.bare) (Tab.find_put_self _ _ _)

theorem State.queue?_of_bareQueue {s : State} {m : Nat} {y : Queue} (h : s.bareQueue m = some y.bare) :
    ∃ z, s.queue? m = some z ∧ z.bare = y.bare := Option.map_eq_some_iff.1 h

/-! ### PITCH_RESET -/

/-- A change of one pitch's marks, read off each pitch. -/
theorem State.mark_pitch_of_marks {s t : State} {p : Nat} {m : PitchMark} (hp : p < 24) (h : t.marks = s.marks.setIfInBounds p m) :
    (t.pitch p).mark = m ∧ ∀ k, k ≠ p → (t.pitch k).mark = (s.pitch k).mark := by
  refine ⟨?_, fun k hk => ?_⟩
  · rw [State.mark_pitch, h, Vector.getElem?_setIfInBounds_self_of_lt hp, Option.getD_some]
  · rw [State.mark_pitch, h, Vector.getElem?_setIfInBounds_ne (Ne.symm hk), State.mark_pitch]

/-- The marks after a reset has been recorded, its descriptor started, and the reset begun for a RUNNING pitch (R381, R382). -/
theorem State.marks_reset_of_running {s : State} {p : Nat} (h : (s.pitch p).state = .running) (fn target q : Nat) (hseq : W32) (scrub : Bool) :
    ((((s.auditReset fn p target 1 scrub).startDesc q hseq).modPitch p fun y => { y with joined := y.joined ++ [(q, hseq)] }).resetRequest
        p 1 scrub false).marks =
      s.marks.setIfInBounds p ⟨.resetting, 1, scrub, true, (s.pitch p).joined ++ [(q, hseq)]⟩ := by
  have hp : p < 24 := State.pitch_lt_of_state_ne_off (by rw [h]; nofun)
  have hstart : ((s.auditReset fn p target 1 scrub).startDesc q hseq).marks = s.marks :=
    (State.marks_startDesc _ q hseq).trans (State.marks_of_fe (s.auditReset_fe fn p target 1 scrub))
  generalize (s.auditReset fn p target 1 scrub).startDesc q hseq = t at hstart ⊢
  have hmark : (t.pitch p).mark = (s.pitch p).mark := by rw [State.mark_pitch, State.mark_pitch, hstart]
  have hstate : (t.pitch p).state = .running := (congrArg PitchMark.state hmark).trans h
  have hjoined : (t.pitch p).joined = (s.pitch p).joined := congrArg PitchMark.joined hmark
  rw [State.marks_resetRequest_of_running, State.pitch_modPitch t p hp, State.marks_modPitch, Vector.setIfInBounds_setIfInBounds, hstart,
    ← hjoined]
  rw [State.pitch_modPitch t p hp]
  exact hstate

end Sys2Proof.Machine

namespace Sys2Proof.Cert
open Sys2Proof.Machine

theorem Heads.op_eq {s : State} {q op : Nat} {x : Queue} {d : Desc} (h : Heads s q op x d) : d.op = op := by
  obtain ⟨-, -, hop, -⟩ := h
  exact hop

/-- A head that may start now is met by its own row (R326, R356). -/
theorem startRow_of_heads {s : State} {q op : Nat} {x : Queue} {d : Desc} (h : Heads s q op x d) (act : State → Queue → Desc → State) :
    s.startRow q op act = (act s x d).feDone := by
  obtain ⟨hhead, hpass, hop, hstart⟩ := h
  rw [State.startRow, State.headRow, hhead]
  dsimp only
  rw [hpass]
  dsimp only
  rw [if_pos hop, if_pos hstart]

section
variable {s : State} {q : QueueId} {x : Queue} {d : Desc} {p : Nat}

/-- The CQ that a QUEUE_CREATE without a vector asks for (Table 13-9). -/
def createdCq (fn : Nat) (d : Desc) : Queue :=
  { Queue.blank with isCq := true, fn := fn, log2 := fieldAt d.bytes 11 1, base := BitVec.ofNat 64 (fieldAt d.bytes 16 8),
                     status := BitVec.ofNat 64 (fieldAt d.bytes 24 8), cq := fieldAt d.bytes 12 2, vector := 0xFF,
                     prio := fieldAt d.bytes 15 1 }

theorem exec_queueCreate_of_heads (h : Heads s q 0x40 x d) (hnew : s.queue? (fieldAt d.bytes 8 2) = none) (hcq : fieldAt d.bytes 10 1 = 1)
    (hvec : fieldAt d.bytes 14 1 = 0xFF) :
    exec (.queueCreate q) s = .next
      ((s.makeQueue (fieldAt d.bytes 8 2) (createdCq x.fn d) (BitVec.ofNat 32 (fieldAt d.bytes 32 4))).endHead q d.hseq .ok 0).feDone := by
  rw [exec_queueCreate, execQueueCreate, startRow_of_heads h]
  simp [hnew, hcq, hvec, createdCq]

/-- QUEUE_DELETE of an SQ that nothing keeps and that holds no descriptor: it waits for its queue to close (R336). -/
theorem exec_queueDelete_of_heads {y : Queue} (h : Heads s q 0x41 x d) (hy : s.queue? (fieldAt d.bytes 8 2) = some y) (hsq : y.isCq = false)
    (hpair : s.adminPair (fieldAt d.bytes 8 2) y = false) (hfences : ∀ e ∈ s.fe.fences, e.2.owner ≠ fieldAt d.bytes 8 2)
    (hclosing : y.closing = none) (hdescs : y.descs = []) :
    exec (.queueDelete q) s = .next ((s.startDesc q d.hseq).modQueue (fieldAt d.bytes 8 2)
      fun y => { y with toFetch := 0, closing := some (q.val, d.hseq) }).feDone := by
  have hfree : s.fe.fences.any (fun e => e.2.owner == fieldAt d.bytes 8 2) = false := by simpa using hfences
  rw [exec_queueDelete, execQueueDelete, startRow_of_heads h]
  simp [hy, hsq, hpair, hfree, hclosing, hdescs]

/-- RESUME of one queue in HELD without REBASE (R344). -/
theorem exec_resume_of_heads {y : Queue} (h : Heads s q 0x43 x d) (hone : fieldAt d.bytes 10 2 = 1) (hbase : fieldAt d.bytes 12 1 = 0)
    (hy : s.queue? (fieldAt d.bytes 8 2) = some y) (hsq : y.isCq = false) (hheld : y.state = .held) :
    exec (.resume q) s =
      .next ((s.modQueue (fieldAt d.bytes 8 2) fun y => { y with state := .active }).endHead q d.hseq .ok 0).feDone := by
  have hset : bit (fieldAt d.bytes 12 1) 0 = false := by rw [hbase]; rfl
  have hmod : (s.modQueue (fieldAt d.bytes 8 2) fun y => { y with state := if y.state = .held then .active else y.state }) =
      s.modQueue (fieldAt d.bytes 8 2) fun y => { y with state := .active } := by
    refine s.modQueue_congr fun z hz => ?_
    cases hy.symm.trans hz
    rw [hheld]; rfl
  rw [exec_resume, execResume, startRow_of_heads h]
  simp [hone, hset, hy, hsq, hmod]

/-- What RESYNC does behind its checks: the entries that it has read scanned, and every status block of the pitch written (R344). -/
def resynced (s t : State) (q : Nat) (hseq : W32) (p : Nat) (es : List (Nat × W64)) : State :=
  let qs := s.pitchQueues p
  let s2 := (es.filter (fun e => qs.contains e.1)).foldl (fun s e => s.scanEntry e.1 e.2) t
  ((qs.foldl (fun s n => s.writeBlock n) s2).writePsb p).finishDesc q hseq .ok 0 (BitVec.ofNat 64 (qs.length + b2n (s2.psbOn p))) none

/-- RESYNC of the function's own pitch, which is RUNNING. -/
theorem exec_resync_of_heads (h : Heads s q 0x42 x d) (hown : fieldAt d.bytes 8 1 = 0xFF) (hserved : s.servedPitch x.fn = some p)
    (hrun : (s.pitch p).state = .running) (es : List (Nat × W64)) :
    exec (.resync q es) s = .next (resynced s
      (if bit (fieldAt d.bytes 9 1) 0 then (s.pitchQueues p).foldl (State.holdSq q) (s.startDesc q d.hseq) else s.startDesc q d.hseq)
      q d.hseq p es).feDone := by
  have hname : s.namedPitch x.fn (fieldAt d.bytes 8 1) = some p := by rw [hown, State.namedPitch_own, hserved]
  have hother : s.namesOther x d = false := State.namesOther_eq_false_of_own (.inl h.op_eq) hown
  rw [exec_resync, execResync, startRow_of_heads h, hname]
  dsimp only
  rw [hother, hrun]
  rfl

/-- RESYNC with HOLD leaves every other ACTIVE SQ of the pitch in HELD. -/
theorem isHeld_resynced {m : Nat} {z : Queue} (hmem : m ∈ s.pitchQueues p) (hm : m ≠ q.val) (hz : s.queue? m = some z) (hsq : z.isCq = false)
    (hactive : z.state = .active) (hseq : W32) :
    (resynced s ((s.pitchQueues p).foldl (State.holdSq q) (s.startDesc q hseq)) q hseq p []).isHeld m := by
  refine State.isHeld_of_bareQueue ?_ (State.isHeld_foldl_holdSq_of_active hmem hm ((s.queue?_startDesc_ne hm hseq).trans hz) hsq hactive)
  refine (State.bareQueue_finishDesc_ne _ hm _ _ _ _ _).trans ((State.bareQueue_writePsb _ p m).trans ?_)
  exact foldl_keeps (State.bareQueue · m) (fun s n => s.bareQueue_writeBlock n m) _ _

/-- PITCH_RESET of the function's own pitch, which is RUNNING (R381). -/
theorem exec_pitchReset_of_heads (h : Heads s q 0x46 x d) (hown : fieldAt d.bytes 8 1 = 0xFF) (hserved : s.servedPitch x.fn = some p)
    (hrun : (s.pitch p).state = .running) :
    exec (.pitchReset q) s = .next
      ((((s.auditReset x.fn p (q.val * 2 ^ 32 + d.hseq.toNat) 1 (fieldAt d.bytes 9 1 == 1)).startDesc q d.hseq).modPitch p
        fun y => { y with joined := y.joined ++ [(q.val, d.hseq)] }).resetRequest p 1 (fieldAt d.bytes 9 1 == 1) false).feDone := by
  have hname : s.namedPitch x.fn (fieldAt d.bytes 8 1) = some p := by rw [hown, State.namedPitch_own, hserved]
  have hother : s.namesOther x d = false := State.namesOther_eq_false_of_own (.inr h.op_eq) hown
  rw [exec_pitchReset, execPitchReset, startRow_of_heads h, hname]
  dsimp only
  rw [hother, hrun]
  rfl

end

/-- Settles O29: a head that starts meets its own row, whose checks are those that the statement names; what a row leaves of other queues is
read off `bareQueue`, and what a reset sets of its pitch off `marks`. -/
theorem adminDescriptors : Obligations.AdminDescriptors := by
  unfold Obligations.AdminDescriptors
  intro s q x d p n i y h bs es
  dsimp only
  intro hfn hx
  refine ⟨?edit, ?release, ?create, ?delete, ?resume, ?resync, ?hold, ?window, ?unwindow, ?kill, ?reset⟩
  case edit =>
    intro hh hlist hok hrecs hall hvalid hstop
    have hset : bit (fieldAt d.bytes 22 1) 0 = false := by rw [hvalid]; rfl
    rw [EndsHead, FrontEndGives, exec_pageEdit, execPageEdit, startRow_of_heads hh]
    simp only [hfn, hlist, hok, hrecs, hall, hset, hstop, Bool.not_true, Bool.false_and, Bool.or_self, Bool.false_eq_true, if_false]
  case release =>
    intro hh
    have hrow : exec (.tableRelease q) s = .next (((s.slotRelease p (fieldAt d.bytes 8 2) (fieldAt d.bytes 10 1)).1.endHead q d.hseq
        (if (s.slotRelease p (fieldAt d.bytes 8 2) (fieldAt d.bytes 10 1)).2 then .ok else .tableMissing) 0).feDone) := by
      rw [exec_tableRelease, execTableRelease, startRow_of_heads hh, hfn]
    simp only [EndsHead, FrontEndGives, hrow, State.slotRelease]
    refine ⟨fun hi hcount => ?_, fun hi hcount => ?_, fun hi => ?_⟩
    · simp [hi, hcount]
    · simp [hi, hcount]
    · simp [hi]
  case create =>
    intro hh hnew hcq hvec
    have hne : fieldAt d.bytes 8 2 ≠ q := fun e => by rw [e, hx] at hnew; cases hnew
    refine ⟨_, exec_queueCreate_of_heads hh hnew hcq hvec, _, rfl, ?_⟩
    obtain ⟨z, hz, hbare⟩ := State.queue?_of_bareQueue ((State.bareQueue_endHead_ne _ hne d.hseq .ok 0).trans
      (s.bareQueue_makeQueue (fieldAt d.bytes 8 2) (createdCq x.fn d) (BitVec.ofNat 32 (fieldAt d.bytes 32 4))))
    exact ⟨z, hz, congrArg Queue.isCq hbare, (congrArg Queue.fn hbare :), congrArg Queue.log2 hbare, congrArg Queue.base hbare,
      congrArg Queue.newest hbare, congrArg Queue.consumed hbare, congrArg Queue.state hbare, congrArg Queue.descs hbare⟩
  case delete =>
    intro hh hn hne hy hsq hpair hfences hclosing hdescs
    subst hn
    refine ⟨_, exec_queueDelete_of_heads hh hy hsq hpair hfences hclosing hdescs, _, rfl, ?_⟩
    rw [State.queue?_modQueue _ ((s.queue?_startDesc_ne hne d.hseq).trans hy), State.modQueue_mem, State.startDesc_mem,
      State.modQueue_stalls, State.startDesc_stalls]
    exact ⟨rfl, rfl, rfl⟩
  case resume =>
    intro hh hn hone hbase hy hsq hheld
    subst hn
    exact exec_resume_of_heads hh hone hbase hy hsq hheld
  case resync =>
    intro hh hown hhold hserved hrun
    have hset : ¬bit (fieldAt d.bytes 9 1) 0 = true := by rw [hhold]; decide
    rw [FrontEndGives, exec_resync_of_heads hh hown hserved hrun es, if_neg hset]
    rfl
  case hold =>
    intro hh hown hhold hserved hrun
    have hset : bit (fieldAt d.bytes 9 1) 0 = true := by rw [hhold]; decide
    refine ⟨_, exec_resync_of_heads hh hown hserved hrun [], _, rfl, ?_⟩
    rw [if_pos hset]
    exact fun m hmem hm z hz hsq hactive => isHeld_resynced hmem hm hz hsq hactive d.hseq
  case window =>
    intro hh hperm
    rw [EndsHead, FrontEndGives, exec_hostwin, execHostwin, startRow_of_heads hh, hfn]
    simp only [if_neg hperm, State.modFe]
  case unwindow =>
    intro hh hperm
    rw [EndsHead, FrontEndGives, exec_hostwin, execHostwin, startRow_of_heads hh, hfn]
    simp only [if_pos hperm, State.modFe]
  case kill =>
    intro hh hn hown hy hsq
    subst hn
    have hother : s.namesOther x d = false := State.namesOther_eq_false_of_queueOf hh.op_eq hown
    rw [FrontEndGives, FrontEndGives, exec_kill, execKill, startRow_of_heads hh]
    simp only [hy, hother, hsq, Bool.false_and, Bool.false_eq_true, if_false]
    exact ⟨fun hnew => by rw [if_neg (Nat.not_lt.2 hnew)], fun hold => by rw [if_pos hold]⟩
  case reset =>
    intro hh hown hserved hrun
    refine ⟨_, exec_pitchReset_of_heads hh hown hserved hrun, ?_⟩
    have hp : p < 24 := State.pitch_lt_of_state_ne_off (by rw [hrun]; nofun)
    obtain ⟨hself, hothers⟩ := State.mark_pitch_of_marks hp ((State.marks_feDone _).trans
      (State.marks_reset_of_running hrun x.fn (q.val * 2 ^ 32 + d.hseq.toNat) q d.hseq (fieldAt d.bytes 9 1 == 1)))
    refine ⟨congrArg PitchMark.state hself, congrArg PitchMark.cause hself, congrArg PitchMark.scrub hself, congrArg PitchMark.masked hself,
      ?_, fun k hk => congrArg PitchMark.state (hothers k hk)⟩
    show (q.val, d.hseq) ∈ (State.pitch _ p).mark.joined
    rw [hself]
    exact List.mem_append_right _ (List.mem_singleton_self _)

end Sys2Proof.Cert
end

section
/-! PROOF. A field of a register that is set: what it reads then, and what every other field and register keeps. -/

namespace Sys2Proof.Machine

/-! ### Fields of a number -/

theorem testBit_bits (v hi lo i : Nat) : (bits v hi lo).testBit i = (decide (i < hi + 1 - lo) && v.testBit (lo + i)) := by
  rw [bits, Nat.testBit_mod_two_pow, Nat.testBit_div_two_pow, Nat.add_comm i lo]

theorem bits_lt (v hi lo : Nat) : bits v hi lo < 2 ^ (hi + 1 - lo) := Nat.mod_lt _ (Nat.two_pow_pos _)

/-- A field that is set holds the value, and every other bit is as it was. -/
theorem testBit_setBits {hi lo : Nat} (h : lo ≤ hi) (w v i : Nat) :
    (setBits w hi lo v).testBit i = if lo ≤ i ∧ i ≤ hi then v.testBit (i - lo) else w.testBit i := by
  have hfield : v % 2 ^ (hi + 1 - lo) * 2 ^ lo + w % 2 ^ lo < 2 ^ (hi + 1) := by
    calc v % 2 ^ (hi + 1 - lo) * 2 ^ lo + w % 2 ^ lo < (v % 2 ^ (hi + 1 - lo) + 1) * 2 ^ lo := by
          rw [Nat.succ_mul]; exact Nat.add_lt_add_left (Nat.mod_lt _ (Nat.two_pow_pos _)) _
      _ ≤ 2 ^ (hi + 1 - lo) * 2 ^ lo := Nat.mul_le_mul_right _ (Nat.mod_lt _ (Nat.two_pow_pos _))
      _ = 2 ^ (hi + 1) := by rw [← Nat.pow_add]; congr 1; omega
  rw [setBits, Nat.add_assoc, Nat.mul_comm (w / _), Nat.testBit_two_pow_mul_add _ hfield, Nat.mul_comm (v % _),
    Nat.testBit_two_pow_mul_add _ (Nat.mod_lt _ (Nat.two_pow_pos _)), Nat.testBit_mod_two_pow, Nat.testBit_mod_two_pow,
    Nat.testBit_div_two_pow]
  rcases Nat.lt_or_ge i lo with hlo | hlo
  · have hhi : i < hi + 1 := by omega
    simp [hlo, hhi, Nat.not_le.2 hlo]
  · rcases Nat.lt_or_ge i (hi + 1) with hhi | hhi
    · have hin : i - lo < hi + 1 - lo := by omega
      simp [hhi, hlo, hin, Nat.le_of_lt_succ hhi, Nat.not_lt.2 hlo]
    · have hout : ¬i ≤ hi := by omega
      have hsub : i - (hi + 1) + (hi + 1) = i := by omega
      simp [Nat.not_lt.2 hhi, hout, hsub]

/-- A field of a 64-bit register that is set reads the value. -/
theorem bits_setBits_self {hi lo : Nat} (hlo : lo ≤ hi) (hhi : hi < 64) (w v : Nat) :
    bits (setBits w hi lo v % 2 ^ 64) hi lo = v % 2 ^ (hi + 1 - lo) := by
  refine Nat.eq_of_testBit_eq fun i => ?_
  rw [testBit_bits, Nat.testBit_mod_two_pow, testBit_setBits hlo, Nat.testBit_mod_two_pow]
  by_cases hin : i < hi + 1 - lo
  · have h64 : lo + i < 64 := by omega
    have hle : lo + i ≤ hi := by omega
    simp [hin, h64, hle]
  · simp [hin]

/-- A field of a 64-bit register keeps its value where a field apart from it is set. -/
theorem bits_setBits_of_disjoint {hi lo hi' lo' : Nat} (hlo : lo ≤ hi) (hhi' : hi' < 64) (hd : hi' < lo ∨ hi < lo') (w v : Nat) :
    bits (setBits w hi lo v % 2 ^ 64) hi' lo' = bits w hi' lo' := by
  refine Nat.eq_of_testBit_eq fun i => ?_
  rw [testBit_bits, testBit_bits, Nat.testBit_mod_two_pow, testBit_setBits hlo]
  by_cases hin : i < hi' + 1 - lo'
  · have h64 : lo' + i < 64 := by omega
    have hout : ¬(lo ≤ lo' + i ∧ lo' + i ≤ hi) := by omega
    rw [if_neg hout]
    simp [h64]
  · simp [hin]

/-! ### Registers -/

theorem regKey_ne_of_off_ne (fn : Nat) {o off : Nat} (h : o ≠ off) : regKey fn o ≠ regKey fn off := by
  unfold regKey; omega

/-- The installer's registers lie above every offset of a function's own block (Table 22-6). -/
theorem regKey_ne_of_installer (fn : Nat) {o off : Nat} (hoff : off < 0x1400000) (ho : 0x1400000 ≤ o) (ho' : o < 2 ^ 32) :
    regKey 0 o ≠ regKey fn off := by
  unfold regKey; omega

theorem raw_setRaw_self {s : State} (h : Tab.rising s.regs = true) (fn off v : Nat) : (s.setRaw fn off v).raw fn off = v % 2 ^ 64 := by
  unfold State.setRaw
  split
  next hreset => rw [State.raw, Tab.find_del_self h]; exact hreset.symm
  next => rw [State.raw, Tab.find_put_self]; exact BitVec.toNat_ofNat v 64

section
variable {s : State} {fn off hi lo : Nat}

theorem State.rising_setFld (h : Tab.rising s.regs = true) (v : Nat) : Tab.rising (s.setFld fn off hi lo v).regs = true :=
  regs_rising_setRaw h _ _ _

theorem State.raw_setFld_ne {fn' off' : Nat} (hk : regKey fn' off' ≠ regKey fn off) (v : Nat) :
    (s.setFld fn off hi lo v).raw fn' off' = s.raw fn' off' := raw_setRaw_ne _ _ _ _ hk

theorem State.fld_setFld_self (h : Tab.rising s.regs = true) (hlo : lo ≤ hi) (hhi : hi < 64) (v : Nat) :
    (s.setFld fn off hi lo v).fld fn off hi lo = v % 2 ^ (hi + 1 - lo) := by
  rw [State.fld, State.setFld, raw_setRaw_self h, bits_setBits_self hlo hhi]

/-- Every other field of every register of the function keeps its value. -/
theorem State.fld_setFld_of_ne_or_disjoint (h : Tab.rising s.regs = true) (hlo : lo ≤ hi) {o hi' lo' : Nat} (hhi' : hi' < 64)
    (hd : o ≠ off ∨ hi' < lo ∨ hi < lo') (v : Nat) : (s.setFld fn off hi lo v).fld fn o hi' lo' = s.fld fn o hi' lo' := by
  by_cases ho : o = off
  · subst ho
    rw [State.fld, State.setFld, raw_setRaw_self h, bits_setBits_of_disjoint hlo hhi' (hd.resolve_left fun hne => hne rfl), State.fld]
  · rw [State.fld, State.raw_setFld_ne (regKey_ne_of_off_ne fn ho), State.fld]

@[simp] theorem State.setFld_mem (fn off hi lo v : Nat) : (s.setFld fn off hi lo v).mem = s.mem := State.setRaw_mem s fn off _
@[simp] theorem State.setFld_stalls (fn off hi lo v : Nat) : (s.setFld fn off hi lo v).stalls = s.stalls := State.setRaw_stalls s fn off _
@[simp] theorem State.setFld_chip (fn off hi lo v : Nat) : (s.setFld fn off hi lo v).chip = s.chip := State.setRaw_chip s fn off _
@[simp] theorem State.setFld_pair (fn off hi lo v : Nat) : (s.setFld fn off hi lo v).pair = s.pair := State.setRaw_pair s fn off _

/-- A pitch keeps its function where a register below the installer's is set (R372). -/
theorem State.fnOf_setFld (hoff : off < 0x1400000) (p v : Nat) : (s.setFld fn off hi lo v).fnOf p = s.fnOf p := by
  have hk : regKey 0 (offPcfg 0) ≠ regKey fn off := regKey_ne_of_installer fn hoff (by decide) (by decide)
  rw [State.fnOf, State.pf0, State.fld, State.raw_setFld_ne hk]
  rfl

end

end Sys2Proof.Machine
end

section
/-! PROOF. Where an EN in effect takes its checks from: translation and the areas of a pitch read memory, the installer's registers and the
fields below bit 63 of the pitch's own registers; and a write of whole lines changes memory alone. -/

namespace Sys2Proof.Machine

/-! ### Translation -/

/-- Two states with the same memory, part and installer's registers. -/
structure SameMap (s t : State) : Prop where
  mem : t.mem = s.mem
  chip : t.chip = s.chip
  raw : ∀ o, 0x1400000 ≤ o → o < 2 ^ 32 → t.raw 0 o = s.raw 0 o

section
variable {s t : State} (h : SameMap s t) {p : Nat}
include h

theorem SameMap.raw_offXlat (hp : p < 24) : t.raw 0 (offXlat p) = s.raw 0 (offXlat p) :=
  h.raw _ (by unfold offXlat; omega) (by unfold offXlat; omega)

theorem SameMap.raw_offPcfg (hp : p < 24) : t.raw 0 (offPcfg p) = s.raw 0 (offPcfg p) :=
  h.raw _ (by unfold offPcfg; omega) (by unfold offPcfg; omega)

theorem SameMap.raw_offFrange (hp : p < 24) : t.raw 0 (offFrange p) = s.raw 0 (offFrange p) :=
  h.raw _ (by unfold offFrange; omega) (by unfold offFrange; omega)

theorem SameMap.raw_offCsCtl {n : Nat} (hn : n < 16) : t.raw 0 (offCsCtl n) = s.raw 0 (offCsCtl n) :=
  h.raw _ (by unfold offCsCtl; omega) (by unfold offCsCtl; omega)

theorem SameMap.raw_offCsPitch {n : Nat} (hn : n < 16) : t.raw 0 (offCsPitch n) = s.raw 0 (offCsPitch n) :=
  h.raw _ (by unfold offCsPitch; omega) (by unfold offCsPitch; omega)

theorem SameMap.csresBytes : t.csresBytes = s.csresBytes := by
  rw [State.csresBytes, State.fld, h.raw _ (by decide) (by decide)]; rfl

theorem SameMap.unitC (u : Nat) : t.unitC u = s.unitC u := by
  rw [State.unitC, h.chip, h.mem]; rfl

theorem SameMap.unitsOf (hp : p < 24) : t.unitsOf p = s.unitsOf p := by
  rw [State.unitsOf, h.raw_offPcfg hp]; rfl

theorem SameMap.spaceOf (hp : p < 24) : t.spaceOf p = s.spaceOf p := by
  have hunit : t.unitC = s.unitC := funext h.unitC
  rw [State.spaceOf, State.pitchC, h.unitsOf hp, hunit, h.chip, h.csresBytes]; rfl

theorem SameMap.physPlace (hp : p < 24) (x : Nat) : t.physPlace p x = s.physPlace p x := by
  rw [State.physPlace, h.unitsOf hp]; rfl

theorem SameMap.csUnits {n : Nat} (hn : n < 16) (replica : Bool) : t.csUnits n replica = s.csUnits n replica := by
  rw [State.csUnits, h.raw _ (by unfold offCsMap; omega) (by unfold offCsMap; omega)]; rfl

theorem SameMap.csPlace {n : Nat} (hn : n < 16) (replica : Bool) (x : Nat) : t.csPlace n replica x = s.csPlace n replica x := by
  simp only [State.csPlace, State.reserveStart, State.fld, h.csUnits hn, h.raw_offCsCtl hn, h.unitC, h.csresBytes]

theorem SameMap.xlatEntry (hp : p < 24) (page : Nat) : t.xlatEntry p page = s.xlatEntry p page := by
  have hentry : t.tableEntry p page = s.tableEntry p page := by
    rw [State.tableEntry, State.tbase, State.fld, h.raw_offXlat hp, h.physPlace hp]
    simp only [State.linePoison, State.unitOff, State.memBytes, h.mem]
    rfl
  rw [State.xlatEntry, h.mem, hentry]; rfl

/-- They translate alike. -/
theorem SameMap.translate (hp : p < 24) (csr : Option Nat) (acc : Acc) (a : Nat) : t.translate p csr acc a = s.translate p csr acc a := by
  have hregion (e : Nat) : bits e 11 8 < 16 := bits_lt e 11 8
  simp only [State.translate, State.tsize, State.tbase, State.region, State.fld, h.raw_offXlat hp, h.xlatEntry hp, h.spaceOf hp,
    h.physPlace hp, h.mem, h.raw_offCsCtl (hregion _), h.raw_offCsPitch (hregion _), h.csUnits (hregion _), h.csPlace (hregion _)]
  rfl

end

theorem sameMap_setFld (s : State) (fn : Nat) {off : Nat} (hoff : off < 0x1400000) (hi lo v : Nat) :
    SameMap s (s.setFld fn off hi lo v) where
  mem := State.setFld_mem ..
  chip := State.setFld_chip ..
  raw _ ho ho' := State.raw_setFld_ne (regKey_ne_of_installer fn hoff ho ho') v

/-! ### The areas of a pitch -/

/-- Two states that differ for pitch `p` at most in bit 63 of its registers, where a change of EN waits (R242). -/
structure SameAreas (p : Nat) (s t : State) : Prop extends SameMap s t where
  pfld : ∀ o hi lo, hi < 63 → t.pfld p o hi lo = s.pfld p o hi lo

section
variable {s t : State} {p : Nat} (h : SameAreas p s t)
include h

theorem SameAreas.mapped (hp : p < 24) (a n : Nat) : t.mapped p a n = s.mapped p a n := by
  simp only [State.mapped, h.translate hp]

theorem SameAreas.privWritable (hp : p < 24) (a n : Nat) : t.privWritable p a n = s.privWritable p a n := by
  simp only [State.privWritable, h.translate hp]

theorem SameAreas.tableArea : t.tableArea p = s.tableArea p := by simp [State.tableArea, h.pfld]
theorem SameAreas.tableActive : t.tableActive p = s.tableActive p := by simp [State.tableActive, h.pfld]
theorem SameAreas.fctArea : t.fctArea p = s.fctArea p := by simp [State.fctArea, h.pfld]
theorem SameAreas.fctActive : t.fctActive p = s.fctActive p := by simp [State.fctActive, h.pfld]
theorem SameAreas.frames : t.frames p = s.frames p := by simp [State.frames, h.pfld]
theorem SameAreas.pkrActive (n : Nat) : t.pkrActive p n = s.pkrActive p n := by simp [State.pkrActive, h.pfld]
theorem SameAreas.pkrBase (n : Nat) : t.pkrBase p n = s.pkrBase p n := by simp [State.pkrBase, h.pfld]
theorem SameAreas.pkrLimit (n : Nat) : t.pkrLimit p n = s.pkrLimit p n := by simp [State.pkrLimit, h.pfld]
theorem SameAreas.pkrHdr (n : Nat) : t.pkrHdr p n = s.pkrHdr p n := by simp [State.pkrHdr, h.pfld]

theorem SameAreas.pkrHdrLen (n : Nat) : t.pkrHdrLen p n = s.pkrHdrLen p n := by
  simp [State.pkrHdrLen, State.pkrCodec, State.pkrUnit, State.pkrSeg, h.pfld, h.pkrBase, h.pkrLimit]

theorem SameAreas.inRegion (a n : Nat) : t.inRegion p a n = s.inRegion p a n := by
  simp only [State.inRegion, h.pkrActive, h.pkrBase, h.pkrLimit]

theorem SameAreas.inPacked (a n : Nat) : t.inPacked p a n = s.inPacked p a n := by
  simp only [State.inPacked, h.pkrActive, h.pkrBase, h.pkrLimit, h.pkrHdr, h.pkrHdrLen]

theorem SameAreas.inFences (hp : p < 24) (a n : Nat) : t.inFences p a n = s.inFences p a n := by
  have harea : t.fenceArea p = s.fenceArea p := by simp [State.fenceArea, State.fld, h.pfld, h.raw_offFrange hp]
  simp [State.inFences, State.fenceActive, harea, h.pfld, h.privWritable hp, h.pkrActive, h.pkrBase, h.pkrLimit, h.pkrHdr, h.pkrHdrLen,
    h.tableActive, h.tableArea, h.fctActive, h.fctArea]

end

/-! ### A write of whole lines -/

/-- A state without its memory. -/
def State.withoutMem (s : State) : State := { s with mem := State.reset.mem }

/-- A register reads the same whatever memory holds. -/
theorem State.pfld_eq_of_withoutMem_eq {s t : State} (h : t.withoutMem = s.withoutMem) (p off hi lo : Nat) :
    t.pfld p off hi lo = s.pfld p off hi lo := (congrArg (fun u : State => u.pfld p off hi lo) h :)

theorem State.mirrors_eq_of_withoutMem_eq {s t : State} (h : t.withoutMem = s.withoutMem) : t.mirrors = s.mirrors :=
  (congrArg State.mirrors h :)

section
variable {s : State}

theorem State.withoutMem_writeLine (u o : Nat) (bs : List Byte) (poison : Bool) : (s.writeLine u o bs poison).withoutMem = s.withoutMem :=
  ite_keeps State.withoutMem rfl (ite_keeps State.withoutMem rfl (ite_keeps State.withoutMem rfl rfl))

/-- A whole line is written even where it was poisoned (R284). -/
theorem State.writeCopy_of_whole {bs : List Byte} (h : bs.length = 64) (p u o : Nat) (who : Option FaultInfo) (poison : Bool) :
    s.writeCopy p u o who bs poison = s.writeLine u o bs poison := by
  rw [State.writeCopy, State.writeBarred, h]
  simp

theorem State.mirrorLine_of_not_mirrors (h : s.mirrors = false) (p a : Nat) (pl : Place) : s.mirrorLine p a pl = s := by
  have hact (n : Nat) : s.mirActive p n = false := by rw [State.mirActive, h]; rfl
  simp [State.mirrorLine, State.mirrored, hact]

/-- A whole line written for no launch, and copied to no partner, changes memory alone. -/
theorem State.withoutMem_writePiece {bs : List Byte} (hbs : bs.length = 64) (hm : s.mirrors = false) (p : Nat) (acc : Acc) (csr : Option Nat)
    (a : Nat) (poison : Bool) : (s.writePiece p acc csr none a bs poison).withoutMem = s.withoutMem := by
  have hmirror (t : State) (ht : t.withoutMem = s.withoutMem) (pl : Place) : (t.mirrorLine p a pl).withoutMem = s.withoutMem := by
    have htm : t.mirrors = false := (State.mirrors_eq_of_withoutMem_eq ht).trans hm
    rw [State.mirrorLine_of_not_mirrors htm, ht]
  unfold State.writePiece State.writePlace
  simp only [State.launchOf, State.writeCopy_of_whole hbs]
  repeat' split
  · rw [State.withoutMem_writeLine, State.withoutMem_writeLine]
  · exact State.withoutMem_writeLine ..
  · exact hmirror _ (State.withoutMem_writeLine ..) _
  · rfl

/-- What `writeDev` does at one piece of its range, with the bytes that are left. -/
def State.writeNext (p : Nat) (acc : Acc) (csr : Option Nat) (poison : Bool) (r : State × List Byte) (pc : Nat × Nat) : State × List Byte :=
  (r.1.writePiece p acc csr none pc.1 (r.2.take pc.2) poison, r.2.drop pc.2)

theorem State.withoutMem_foldl_writeNext {bs : List Byte} (hbs : bs.length % 64 = 0) (hm : s.mirrors = false) (p : Nat) (acc : Acc)
    (csr : Option Nat) (fuel : Nat) {a : Nat} (ha : a % 64 = 0) (poison : Bool) :
    ((pieces fuel a bs.length).foldl (State.writeNext p acc csr poison) (s, bs)).1.withoutMem = s.withoutMem := by
  induction fuel generalizing s bs a with
  | zero => rfl
  | succ fuel ih =>
    rw [pieces]
    split
    · rfl
    · have hlen : min bs.length (64 - a % 64) = 64 := by omega
      have hwrite := State.withoutMem_writePiece (s := s) (bs := bs.take 64) (by rw [List.length_take]; omega) hm p acc csr a poison
      have hlen' : bs.length - 64 = (bs.drop 64).length := List.length_drop.symm
      have hrest := ih (s := s.writePiece p acc csr none a (bs.take 64) poison) (bs := bs.drop 64) (a := a + 64) (by omega)
        ((State.mirrors_eq_of_withoutMem_eq hwrite).trans hm) (by omega)
      rw [hlen, List.foldl_cons, hlen']
      exact hrest.trans hwrite

/-- Whole lines written for no launch change memory alone. -/
theorem State.withoutMem_writeDev {bs : List Byte} (hbs : bs.length % 64 = 0) (hm : s.mirrors = false) {a : Nat} (ha : a % 64 = 0) (p : Nat)
    (csr : Option Nat) (acc : Acc) (poison : Bool) : (s.writeDev p csr acc none a bs poison).withoutMem = s.withoutMem :=
  State.withoutMem_foldl_writeNext hbs hm p acc csr _ ha poison

/-- So does a range of whole lines filled with one byte. -/
theorem State.withoutMem_writeDev_replicate {n : Nat} (hn : n % 64 = 0) (hm : s.mirrors = false) {a : Nat} (ha : a % 64 = 0) (p : Nat)
    (csr : Option Nat) (acc : Acc) (b : Byte) (poison : Bool) :
    (s.writeDev p csr acc none a (List.replicate n b) poison).withoutMem = s.withoutMem :=
  State.withoutMem_writeDev (by rwa [List.length_replicate]) hm ha p csr acc poison

end

end Sys2Proof.Machine
end

section
/-! PROOF. A change of EN that had to wait takes effect (R242, R253, R416, R548). -/

namespace Sys2Proof.Machine

/-- The state once a waiting change of EN is over: nothing waits in bit 63 of the register, and bit `k` says whether it is in force. -/
def State.settleEn (s : State) (p off k : Nat) (b : Bool) : State :=
  (s.setFld (s.fnOf p) off 63 63 0).setFld (s.fnOf p) off k k (b2n b)

section
variable {s : State} {p off k : Nat}

theorem b2n_mod_two (b : Bool) : b2n b % 2 = b2n b := by cases b <;> rfl

/-- What the checks of an EN read is the same before and after the mark of waiting is cleared. -/
theorem sameAreas_clearWait (hr : Tab.rising s.regs = true) (hoff : off < 0x1400000) :
    SameAreas p s (s.setFld (s.fnOf p) off 63 63 0) where
  toSameMap := sameMap_setFld s _ hoff 63 63 0
  pfld o hi lo hhi := by
    rw [State.pfld, State.fnOf_setFld hoff,
      State.fld_setFld_of_ne_or_disjoint hr (Nat.le_refl _) (Nat.lt_succ_of_lt hhi) (.inr (.inl hhi)), State.pfld]

@[simp] theorem State.settleEn_mem (s : State) (p off k : Nat) (b : Bool) : (s.settleEn p off k b).mem = s.mem := by simp [State.settleEn]
@[simp] theorem State.settleEn_stalls (s : State) (p off k : Nat) (b : Bool) : (s.settleEn p off k b).stalls = s.stalls := by
  simp [State.settleEn]
@[simp] theorem State.settleEn_pair (s : State) (p off k : Nat) (b : Bool) : (s.settleEn p off k b).pair = s.pair := by simp [State.settleEn]

theorem State.fnOf_settleEn (hoff : off < 0x1400000) (b : Bool) : (s.settleEn p off k b).fnOf p = s.fnOf p := by
  rw [State.settleEn, State.fnOf_setFld hoff, State.fnOf_setFld hoff]

theorem State.pfld_settleEn_self (hr : Tab.rising s.regs = true) (hoff : off < 0x1400000) (hk : k < 63) (b : Bool) :
    (s.settleEn p off k b).pfld p off k k = b2n b := by
  have hone : k + 1 - k = 1 := by omega
  rw [State.pfld, State.fnOf_settleEn hoff, State.settleEn,
    State.fld_setFld_self (State.rising_setFld hr 0) (Nat.le_refl k) (by omega), hone, Nat.pow_one, b2n_mod_two]

theorem State.pfld_settleEn_wait (hr : Tab.rising s.regs = true) (hoff : off < 0x1400000) (hk : k < 63) (b : Bool) :
    (s.settleEn p off k b).pfld p off 63 63 = 0 := by
  rw [State.pfld, State.fnOf_settleEn hoff, State.settleEn,
    State.fld_setFld_of_ne_or_disjoint (State.rising_setFld hr 0) (Nat.le_refl k) (by decide) (.inr (.inr hk)),
    State.fld_setFld_self hr (by decide) (by decide), Nat.zero_mod]

/-- The fields but the two that are set. -/
theorem State.pfld_settleEn_of_ne (hr : Tab.rising s.regs = true) (hoff : off < 0x1400000) {o hi lo : Nat} (hhi : hi < 63)
    (hd : o ≠ off ∨ hi < k ∨ k < lo) (b : Bool) : (s.settleEn p off k b).pfld p o hi lo = s.pfld p o hi lo := by
  rw [State.pfld, State.fnOf_settleEn hoff, State.settleEn,
    State.fld_setFld_of_ne_or_disjoint (State.rising_setFld hr 0) (Nat.le_refl k) (by omega) hd,
    State.fld_setFld_of_ne_or_disjoint hr (by decide) (by omega) (.inr (.inl hhi)), State.pfld]

/-! ### The four effects -/

/-- EN as it reads once the mark of waiting is cleared. -/
theorem State.fld_en_clearWait (hr : Tab.rising s.regs = true) : (s.setFld (s.fnOf p) off 63 63 0).fld (s.fnOf p) off 0 0 = s.pfld p off 0 0 :=
  State.fld_setFld_of_ne_or_disjoint hr (Nat.le_refl _) (by decide) (.inr (.inl (by decide))) 0

theorem State.pkrEffect_of_ready {n : Nat} (hr : Tab.rising s.regs = true) (hen : s.pfld p (offPkr n) 0 0 = 1)
    (hready : (s.setFld (s.fnOf p) (offPkr n) 63 63 0).pkrReady p n = true) : s.pkrEffect p n = s.settleEn p (offPkr n) 5 true := by
  rw [State.pkrEffect]
  rw [State.fld_en_clearWait hr, if_pos hen, hready]
  rfl

theorem State.pkrEffect_of_off {n : Nat} (hr : Tab.rising s.regs = true) (hen : s.pfld p (offPkr n) 0 0 = 0) :
    s.pkrEffect p n = s.settleEn p (offPkr n) 5 false := by
  have hoff : ¬s.pfld p (offPkr n) 0 0 = 1 := by omega
  rw [State.pkrEffect]
  rw [State.fld_en_clearWait hr, if_neg hoff]
  rfl

theorem State.tableEffect_of_off (hr : Tab.rising s.regs = true) (hen : s.pfld p offPktbl 0 0 = 0) :
    s.tableEffect p = s.settleEn p offPktbl 1 false := by
  rw [State.tableEffect]
  rw [State.fld_en_clearWait hr, if_pos hen]
  rfl

/-- A table area that comes into force is written as 1,024 lines of FREE slots (R253). -/
theorem State.tableEffect_of_ready (hr : Tab.rising s.regs = true) (hp : p < 24) (hen : s.pfld p offPktbl 0 0 = 1)
    (hmapped : s.mapped p (s.tableArea p).1 (s.tableArea p).2 = true) (hregion : s.inRegion p (s.tableArea p).1 (s.tableArea p).2 = false)
    (hfct : s.fctActive p = false) :
    s.tableEffect p =
      (s.settleEn p offPktbl 1 true).writeDev p none .write none (s.tableArea p).1 (List.replicate 65536 0) false := by
  have hoff : ¬s.pfld p offPktbl 0 0 = 0 := by omega
  have hsame : SameAreas p s (s.setFld (s.fnOf p) offPktbl 63 63 0) := sameAreas_clearWait hr (by decide)
  rw [State.tableEffect]
  rw [State.fld_en_clearWait hr, if_neg hoff, hsame.tableArea, hsame.mapped hp, hsame.inRegion, hsame.fctActive, hmapped, hregion, hfct]
  rfl

theorem State.fctEffect_of_off (hr : Tab.rising s.regs = true) (hen : s.pfld p offFctBase 0 0 = 0) :
    s.fctEffect p = s.settleEn p offFctBase 1 false := by
  rw [State.fctEffect]
  rw [State.fld_en_clearWait hr, hen]
  rfl

theorem State.fctEffect_of_ready (hr : Tab.rising s.regs = true) (hp : p < 24) (hen : s.pfld p offFctBase 0 0 = 1)
    (hlow : 1 ≤ s.frames p) (hhigh : s.frames p ≤ 2 ^ 26) (hpriv : s.privWritable p (s.fctArea p).1 (s.fctArea p).2 = true)
    (hpacked : s.inPacked p (s.fctArea p).1 (s.fctArea p).2 = false) (htable : s.tableActive p = false)
    (hfences : s.inFences p (s.fctArea p).1 (s.fctArea p).2 = false) : s.fctEffect p = s.settleEn p offFctBase 1 true := by
  have hsame : SameAreas p s (s.setFld (s.fnOf p) offFctBase 63 63 0) := sameAreas_clearWait hr (by decide)
  rw [State.fctEffect]
  rw [State.fld_en_clearWait hr, hsame.frames, hsame.fctArea, hsame.privWritable hp, hsame.inPacked, hsame.tableActive, hsame.inFences hp, hen,
    hpriv, hpacked, htable, hfences, decide_eq_true hlow, decide_eq_true hhigh]
  rfl

/-! ### Mailboxes -/

/-- A mailbox that something uses keeps its EN of 0 waiting (R416). -/
theorem State.boxEffect_of_busy {inbox : Bool} {m : Nat} (hen : s.pfld p (if inbox then offIbox m else offObox m) 0 0 = 0)
    (hbusy : (if inbox then s.inboxBusy p m else s.outboxBusy p m) = true) : s.boxEffect p inbox m = s := by
  rw [State.pfld] at hen
  rw [State.boxEffect]
  rw [hen, if_neg (by decide), if_pos hbusy]

theorem State.boxEffect_inbox_of_idle {m : Nat} (hen : s.pfld p (offIbox m) 0 0 = 0) (hidle : s.inboxBusy p m = false) :
    s.boxEffect p true m = (s.settleEn p (offIbox m) 1 false).setPosted p m [] := by
  rw [State.pfld] at hen
  simp only [State.boxEffect, if_true, hen, hidle]
  rfl

/-- An outbound mailbox that goes leaves its destination to the others that name it. -/
theorem State.boxEffect_outbox_of_idle {m : Nat} (hen : s.pfld p (offObox m) 0 0 = 0) (hidle : s.outboxBusy p m = false) :
    s.boxEffect p false m = (List.range 256).foldl (fun t n => if t.outboxDest p n = s.outboxDest p m then t.outboxOn p n else t)
      ((s.settleEn p (offObox m) 1 false).setCredits p m []) := by
  rw [State.pfld] at hen
  simp only [State.boxEffect, Bool.false_eq_true, if_false, hen, hidle]
  rfl

/-- In state `t` the mailbox at `off` is out of force, and nothing of its EN waits; memory and stalls are those of `s`. -/
def MailboxOut (s : State) (p off : Nat) (t : State) : Prop :=
  t.pfld p off 0 0 = 0 ∧ t.pfld p off 1 1 = 0 ∧ t.pfld p off 63 63 = 0 ∧ t.mem = s.mem ∧ t.stalls = s.stalls

theorem MailboxOut.modNet {t : State} (h : MailboxOut s p off t) (f : Net → Net) : MailboxOut s p off (t.modNet f) := h

theorem mailboxOut_settleEn (hoff : off < 0x1400000) (hr : Tab.rising s.regs = true) (hen : s.pfld p off 0 0 = 0) :
    MailboxOut s p off (s.settleEn p off 1 false) := by
  refine ⟨?_, State.pfld_settleEn_self hr hoff (by decide) false, State.pfld_settleEn_wait hr hoff (by decide) false,
    State.settleEn_mem .., State.settleEn_stalls ..⟩
  rw [State.pfld_settleEn_of_ne hr hoff (by decide) (.inr (.inl (by decide))), hen]

/-- A mailbox with EN 0 stays out of force where an outbound one comes into force. -/
theorem MailboxOut.outboxOn {n : Nat} {t : State} (h : MailboxOut s p off t) (hn : n < 256) : MailboxOut s p off (t.outboxOn p n) := by
  rw [State.outboxOn]
  split
  next hon =>
    obtain ⟨hen, hact, hwait, hmem, hstalls⟩ := h
    have hne : off ≠ offObox n := by
      intro he
      rw [← he, hen] at hon
      simp at hon
    have hfld (hi lo : Nat) : (t.setFld (t.fnOf p) (offObox n) 1 1 1).pfld p off hi lo = t.pfld p off hi lo := by
      rw [State.pfld, State.fnOf_setFld (by unfold offObox; omega), State.fld, State.raw_setFld_ne (regKey_ne_of_off_ne _ hne)]
      rfl
    exact ⟨(hfld ..).trans hen, (hfld ..).trans hact, (hfld ..).trans hwait, (State.setFld_mem ..).trans hmem,
      (State.setFld_stalls ..).trans hstalls⟩
  next => exact h

theorem mailboxOut_boxEffect_inbox {m : Nat} (hm : m < 256) (hr : Tab.rising s.regs = true) (hen : s.pfld p (offIbox m) 0 0 = 0)
    (hidle : s.inboxBusy p m = false) : MailboxOut s p (offIbox m) (s.boxEffect p true m) := by
  rw [State.boxEffect_inbox_of_idle hen hidle]
  exact (mailboxOut_settleEn (by unfold offIbox; omega) hr hen).modNet _

theorem mailboxOut_boxEffect_outbox {m : Nat} (hm : m < 256) (hr : Tab.rising s.regs = true) (hen : s.pfld p (offObox m) 0 0 = 0)
    (hidle : s.outboxBusy p m = false) : MailboxOut s p (offObox m) (s.boxEffect p false m) := by
  rw [State.boxEffect_outbox_of_idle hen hidle]
  refine List.foldlRecOn _ _ ((mailboxOut_settleEn (by unfold offObox; omega) hr hen).modNet _) fun t ht n hn => ?_
  split
  · exact ht.outboxOn (List.mem_range.1 hn)
  · exact ht

end

end Sys2Proof.Machine

namespace Sys2Proof.Cert
open Sys2Proof.Machine

section
variable {s : State} {p : Nat}

/-- A change of EN is due where it waits and the pitch has no launch in flight. -/
theorem enDue_of_waits {off : Nat} (hwait : s.pfld p off 63 63 = 1) (hflight : s.inFlight p = []) : s.enDue p off = true := by
  rw [State.enDue, hwait, hflight]; rfl

theorem exec_mailboxDisableEffect_of_waits {p : PitchId} {inbox : Bool} {m : Fin 256}
    (hwait : s.pfld p (if inbox then offIbox m else offObox m) 63 63 = 1) :
    exec (.mailboxDisableEffect p inbox m) s = .next (s.boxEffect p inbox m) := by
  rw [exec_mailboxDisableEffect, execMailboxDisableEffect, if_pos hwait]

end

/-- Settles O33: each row writes what is in force and clears the mark of waiting in one register (`settleEn`). -/
theorem enableEffects : Obligations.EnableEffects := by
  unfold Obligations.EnableEffects
  intro s p n m hcan hflight hpair
  obtain ⟨-, -, -, hr⟩ := hcan
  have hpkr : offPkr n < 0x1400000 := by unfold offPkr; omega
  refine ⟨fun hwait => ?region, fun hwait => ?table, fun hwait => ?counts, fun hwait hen hidle => ?inIdle, fun hwait hen hbusy => ?inBusy,
    fun hwait hen => ⟨fun hbusy => ?outBusy, fun hidle => ?outIdle⟩⟩
  case region =>
    rw [Gives, Gives, exec_pkrEnEffect, execPkrEnEffect, if_pos (enDue_of_waits hwait hflight)]
    refine ⟨fun hen hready => ⟨_, rfl, ?_⟩, fun hen => ⟨_, rfl, ?_⟩⟩
    · rw [State.pkrEffect_of_ready hr hen hready]
      refine ⟨beq_iff_eq.2 (State.pfld_settleEn_self hr hpkr (by decide) true), State.pfld_settleEn_wait hr hpkr (by decide) true,
        fun k hk _ => ?_, State.settleEn_mem ..⟩
      have hne : offPkr k ≠ offPkr n := by unfold offPkr; omega
      rw [State.pkrActive, State.pfld_settleEn_of_ne hr hpkr (by decide) (.inl hne), State.pkrActive]
    · rw [State.pkrEffect_of_off hr hen, State.pkrActive, State.pfld_settleEn_self hr hpkr (by decide)]
      exact ⟨rfl, State.pfld_settleEn_wait hr hpkr (by decide) false, State.settleEn_mem ..⟩
  case table =>
    rw [Gives, Gives, exec_tableAreaEnable, execTableAreaEnable, if_pos (enDue_of_waits hwait hflight)]
    refine ⟨fun hen => ⟨_, rfl, ?_⟩, fun hen hmapped hregion hfct => ⟨_, rfl, ?_⟩⟩
    · rw [State.tableEffect_of_off hr hen, State.tableActive, State.pfld_settleEn_self hr (by decide) (by decide)]
      exact ⟨rfl, State.pfld_settleEn_wait hr (by decide) (by decide) false, State.settleEn_mem ..⟩
    · rw [State.tableEffect_of_ready hr p.isLt hen hmapped hregion hfct]
      have hsettled : (s.settleEn p offPktbl 1 true).mirrors = false := by
        rw [State.mirrors, State.leads, State.settleEn_pair, hpair]; rfl
      have hwrite := State.withoutMem_writeDev_replicate (n := 65536) (by decide) hsettled (a := (s.tableArea p).1)
        (by rw [State.tableArea]; omega) p none .write 0 false
      rw [State.tableActive, State.pfld_eq_of_withoutMem_eq hwrite, State.pfld_eq_of_withoutMem_eq hwrite,
        State.pfld_settleEn_self hr (by decide) (by decide)]
      exact ⟨rfl, State.pfld_settleEn_wait hr (by decide) (by decide) true⟩
  case counts =>
    rw [Gives, Gives, exec_fctEnEffect, execFctEnEffect, if_pos (enDue_of_waits hwait hflight)]
    refine ⟨fun hen => ⟨_, rfl, ?_⟩, fun hen hlow hhigh hpriv hpacked htable hfences => ⟨_, rfl, ?_⟩⟩
    · rw [State.fctEffect_of_off hr hen, State.fctActive, State.pfld_settleEn_self hr (by decide) (by decide)]
      exact ⟨rfl, State.pfld_settleEn_wait hr (by decide) (by decide) false, State.settleEn_mem ..⟩
    · rw [State.fctEffect_of_ready hr p.isLt hen hlow hhigh hpriv hpacked htable hfences, State.fctActive,
        State.pfld_settleEn_self hr (by decide) (by decide)]
      exact ⟨rfl, State.pfld_settleEn_wait hr (by decide) (by decide) true, State.settleEn_mem ..⟩
  case inIdle =>
    obtain ⟨-, hact, hnowait, hmem, hstalls⟩ := mailboxOut_boxEffect_inbox m.isLt hr hen hidle
    exact ⟨_, exec_mailboxDisableEffect_of_waits (inbox := true) hwait, hact, hnowait, hmem, hstalls⟩
  case inBusy =>
    rw [exec_mailboxDisableEffect_of_waits (inbox := true) hwait, State.boxEffect_of_busy (inbox := true) hen hbusy]
  case outBusy =>
    rw [exec_mailboxDisableEffect_of_waits (inbox := false) hwait, State.boxEffect_of_busy (inbox := false) hen hbusy]
  case outIdle =>
    obtain ⟨-, hact, hnowait, hmem, hstalls⟩ := mailboxOut_boxEffect_outbox m.isLt hr hen hidle
    exact ⟨_, exec_mailboxDisableEffect_of_waits (inbox := false) hwait, hact, hnowait, hmem, hstalls⟩

end Sys2Proof.Cert
end

section
/-! PROOF. The canonical forms of memory, of the bays and of the registers, at reset and through every step. -/

namespace Sys2Proof.Cert
open Sys2Proof.Machine

/-- Settles O54: each of the four tables is empty at reset (`canonical_reset_memory`). -/
theorem resetCanonical : Obligations.ResetCanonical := by
  unfold Obligations.ResetCanonical
  obtain ⟨hmem, hbays, hregs⟩ := canonical_reset_memory
  obtain ⟨hbytes, hpoison⟩ := (Memory.wf_iff _).1 hmem
  exact ⟨hbytes, hpoison, hbays, hregs⟩

/-- A command that answers a next state keeps the canonical forms: it is one of the things that no command undoes (`exec_keep`). -/
theorem canonical_of_exec {c : Instr} {s t : State} (hs : s.canonical) (h : exec c s = .next t) : t.canonical :=
  ((exec_keep c s).out t h).canon hs

/-- Settles O55: a block with nothing to do keeps its state; else the command at the front runs on a state that differs from `s` in its queue
alone, and `canonical_of_exec` holds of it. -/
theorem canonicalKept : Obligations.CanonicalKept := by
  unfold Obligations.CanonicalKept
  intro s t hs hstep
  unfold step at hstep
  cases hpending : s.pending with
  | nil =>
    rw [hpending] at hstep
    exact Host.Outcome.next.inj hstep ▸ hs
  | cons c rest =>
    rw [hpending] at hstep
    have hrest : State.canonical { s with pending := rest } := hs
    exact canonical_of_exec hrest hstep

end Sys2Proof.Cert
end

section
/-! PROOF. What records, event messages and messages on the links change of a state, and that nothing else of it changes: one rule for each
operation. -/

namespace Sys2Proof.Machine

/-- A state without what records, event messages and messages on the links change: the free values drawn, the sources' times and sequences, the
rings, vectors and counts of requests and of errors, the audit book, what stands at the links and the bridge, and what has left the block. -/
def State.quiet (s : State) : State :=
  { s with
    free := 0, srcLast := [], srcSeq := [], msi := [], hostAcc := [], out := []
    dbk := Vector.replicate 25 Ring.zero, flt := Vector.replicate 25 Ring.zero
    clk := { s.clk with floor := 0 }
    net := { s.net with links := Net.reset.links, arrived := [], held := [], flows := [], nextMsg := 0 }
    health := { s.health with replace := false, lineBad := [], symbols := [], unrec := [], lastRec := [] }
    pair := { s.pair with waiting := [], sent := [], sentSeq := 0, heldOut := [] }
    sec := { s.sec with book := Book.reset } }

section
variable (s : State)

/-! ### Time, numbers and output -/

@[simp] theorem State.quiet_afterNow : s.afterNow.quiet = s.quiet := rfl
@[simp] theorem State.quiet_afterAny : s.afterAny.quiet = s.quiet := rfl
@[simp] theorem State.quiet_afterStamp (src : Nat) : (s.afterStamp src).quiet = s.quiet := rfl
@[simp] theorem State.quiet_afterSeq (src : Nat) : (s.afterSeq src).quiet = s.quiet := rfl
@[simp] theorem State.quiet_emit (o : Out) : (s.emit o).quiet = s.quiet := rfl
@[simp] theorem State.quiet_modMsi (fn v : Nat) (f : MsiVec → MsiVec) : (s.modMsi fn v f).quiet = s.quiet := rfl

@[simp] theorem State.quiet_hostWrite (fn : Option Nat) (a : Nat) (bs : List Byte) : (s.hostWrite fn a bs).quiet = s.quiet :=
  ite_keeps State.quiet rfl rfl

@[simp] theorem State.quiet_hostShow (fn a : Nat) (bs : List Byte) : (s.hostShow fn a bs).quiet = s.quiet :=
  ite_keeps State.quiet rfl (s.quiet_hostWrite _ a bs)

@[simp] theorem State.quiet_emitAfter (o : Out) : (s.emitAfter o).quiet = s.quiet := ite_keeps State.quiet rfl rfl

/-! ### Records and event messages -/

@[simp] theorem State.quiet_putDbk (k : Nat) (r : DbkRec) : (s.putDbk k r).quiet = s.quiet :=
  ite_keeps State.quiet rfl (ite_keeps State.quiet rfl (ite_keeps State.quiet rfl (State.quiet_hostWrite ..)))

@[simp] theorem State.quiet_postDbk (ks : List Nat) (c : DbkClass) (src type : Nat) (payload : List Byte) :
    (s.postDbk ks c src type payload).quiet = s.quiet :=
  ite_keeps State.quiet rfl (foldl_keeps State.quiet (fun s k => s.quiet_putDbk k _) _ _)

@[simp] theorem State.quiet_putFlt (k : Nat) (f : FaultInfo) (time : W64) (src : Nat) (seq : W32) :
    (s.putFlt k f time src seq).quiet = s.quiet :=
  ite_keeps State.quiet rfl (ite_keeps State.quiet rfl (State.quiet_hostWrite ..))

@[simp] theorem State.quiet_eventMsg (p : Nat) : (s.eventMsg p).quiet = s.quiet :=
  ite_keeps State.quiet rfl (ite_keeps State.quiet rfl (ite_keeps State.quiet rfl (State.quiet_emitAfter ..)))

@[simp] theorem State.quiet_postFault (src : Nat) (f : FaultInfo) : (s.postFault src f).quiet = s.quiet := by
  have hrings (t : State) (ks : List Nat) (time : W64) (seq : W32) : (ks.foldl (fun s k => s.putFlt k f time src seq) t).quiet = t.quiet :=
    foldl_keeps State.quiet (fun s k => s.quiet_putFlt k f time src seq) ks t
  unfold State.postFault
  cases f.pitch with
  | none => simp [hrings]
  | some p => exact ite_keeps State.quiet (by simp [hrings]) (by simp [hrings])

@[simp] theorem State.quiet_postEvent (ks : List Nat) (src type : Nat) (payload : List Byte) : (s.postEvent ks src type payload).quiet = s.quiet :=
  (foldl_keeps State.quiet (fun t k => ite_keeps State.quiet (t.quiet_eventMsg k) rfl) _ _).trans (State.quiet_postDbk ..)

@[simp] theorem State.quiet_replaceEvent (kind index status : Nat) : (s.replaceEvent kind index status).quiet = s.quiet :=
  (State.quiet_postEvent ..).trans (ite_keeps State.quiet rfl rfl)

@[simp] theorem State.quiet_reviewDegraded : s.reviewDegraded.quiet = s.quiet := ite_keeps State.quiet rfl rfl

@[simp] theorem State.quiet_audit (r : AuditRec) : (s.audit r).quiet = s.quiet := by
  unfold State.audit
  dsimp only
  split <;> rfl

end

/-! ### Messages on the links and the bridge -/

/-- A state without what messages on the links and the bridge change. -/
def State.unsent (s : State) : State :=
  { s with
    free := 0, out := []
    clk := { s.clk with floor := 0 }
    net := { s.net with links := Net.reset.links, arrived := [], held := [], flows := [], nextMsg := 0 }
    pair := { s.pair with waiting := [], sent := [], sentSeq := 0 } }

section
variable (s : State)

@[simp] theorem State.unsent_emit (o : Out) : (s.emit o).unsent = s.unsent := rfl

@[simp] theorem State.unsent_modLink (i : Nat) (f : Link → Link) : (s.modLink i f).unsent = s.unsent := rfl

@[simp] theorem State.unsent_sendFlit (i kind vc : Nat) (data : List Byte) : (s.sendFlit i kind vc data).unsent = s.unsent :=
  (State.unsent_emit ..).trans (s.unsent_modLink i _)

@[simp] theorem State.unsent_pump (n i : Nat) : (State.pump n i s).unsent = s.unsent := by
  induction n generalizing s with
  | zero => rfl
  | succ n ih =>
    rw [State.pump]
    dsimp only
    split
    · rfl
    · exact ite_keeps State.unsent rfl ((ih _).trans ((State.unsent_sendFlit ..).trans (s.unsent_modLink i _)))

@[simp] theorem State.unsent_queueOn (i vc msg : Nat) (bs : List Byte) : (s.queueOn i vc msg bs).unsent = s.unsent := State.unsent_pump ..

@[simp] theorem State.unsent_control (i mtype arg : Nat) (data : List Byte) : (s.control i mtype arg data).unsent = s.unsent :=
  State.unsent_queueOn ..

@[simp] theorem State.unsent_sendEpoch (chip epoch : Nat) (fresh : Bool) (but : Option Nat) :
    (s.sendEpoch chip epoch fresh but).unsent = s.unsent :=
  foldl_keeps State.unsent (fun s i => s.unsent_control i _ _ _) _ _

@[simp] theorem State.unsent_forwardBy (e : Nat) (inPort : Option Nat) (vcIn : Nat) (bs : List Byte) :
    (s.forwardBy e inPort vcIn bs).unsent = s.unsent := by
  unfold State.forwardBy
  dsimp only
  split
  · rfl
  split
  · rfl
  split
  · rfl
  split
  · exact ite_keeps State.unsent rfl (State.unsent_queueOn ..)
  · exact State.unsent_queueOn ..

@[simp] theorem State.unsent_engineSend (h : Head) (data : List Byte) : (s.engineSend h data).unsent = s.unsent :=
  ite_keeps State.unsent (State.unsent_forwardBy ..) rfl

@[simp] theorem State.unsent_tellNeighbours (c : Coll) (mtype arg : Nat) (data : List Byte) :
    (s.tellNeighbours c mtype arg data).unsent = s.unsent :=
  ite_keeps State.unsent rfl (foldl_keeps State.unsent (fun s _ => s.unsent_engineSend ..) _ _)

@[simp] theorem State.unsent_slowAll (k factor : Nat) (time : W64) : (s.slowAll k factor time).unsent = s.unsent :=
  foldl_keeps State.unsent (fun s c => s.unsent_tellNeighbours c _ _ _) _ _

@[simp] theorem State.unsent_pairGo (m : PairMsg) : (s.pairGo m).unsent = s.unsent := State.unsent_queueOn ..

@[simp] theorem State.unsent_pairPump : s.pairPump.unsent = s.unsent := by
  have hgo : ∀ (r : State × List PairMsg) (m : PairMsg),
      (if r.2.any (fun x => x.link == m.link) || !r.1.pairRoom m then (r.1, r.2 ++ [m]) else (r.1.pairGo m, r.2)).1.unsent = r.1.unsent :=
    fun r m => ite_keeps (fun r : State × List PairMsg => r.1.unsent) rfl (r.1.unsent_pairGo m)
  exact foldl_keeps (fun r : State × List PairMsg => r.1.unsent) hgo _ _

@[simp] theorem State.unsent_pairSend (m : PairMsg) : (s.pairSend m).unsent = s.unsent := State.unsent_pairPump _

@[simp] theorem State.unsent_pairCopy (r : PairRec) : (s.pairCopy r).unsent = s.unsent := ite_keeps State.unsent (State.unsent_pairSend ..) rfl

@[simp] theorem State.unsent_mirrorLine (p a : Nat) (pl : Place) : (s.mirrorLine p a pl).unsent = s.unsent :=
  ite_keeps State.unsent (State.unsent_pairSend ..) rfl

end

section
variable {s t : State} (h : t.unsent = s.unsent)
include h

theorem State.quiet_of_unsent : t.quiet = s.quiet := (congrArg State.quiet h :)
theorem State.srcSeq_of_unsent : t.srcSeq = s.srcSeq := (congrArg State.srcSeq h :)
theorem State.msi_of_unsent : t.msi = s.msi := (congrArg State.msi h :)

end

/-! ### What a state of the same quiet form shares -/

section
variable {s t : State} (h : t.quiet = s.quiet)
include h

/-- They stay alike under one memory. -/
theorem State.quiet_withMem (m : Mem) : State.quiet { t with mem := m } = State.quiet { s with mem := m } :=
  (congrArg (fun u : State => { u with mem := m }) h :)

theorem State.mem_of_quiet : t.mem = s.mem := (congrArg State.mem h :)
theorem State.regs_of_quiet : t.regs = s.regs := (congrArg State.regs h :)
theorem State.stalls_of_quiet : t.stalls = s.stalls := (congrArg State.stalls h :)
theorem State.fe_of_quiet : t.fe = s.fe := (congrArg State.fe h :)
theorem State.md_of_quiet : t.md = s.md := (congrArg State.md h :)
theorem State.crst_of_quiet : t.crst = s.crst := (congrArg State.crst h :)
theorem State.clkTime_of_quiet : t.clk.time = s.clk.time := (congrArg (fun u : State => u.clk.time) h :)
theorem State.pairState_of_quiet : t.pair.state = s.pair.state := (congrArg (fun u : State => u.pair.state) h :)

end

end Sys2Proof.Machine
end

section
/-! PROOF. A controller serves a load, a store and an atomic (R266, R278, R280, R503): each is one change of memory, and of what launches keep of
their images. -/

namespace Sys2Proof.Machine

/-! ### A package in no pair -/

section
variable {s : State} (h : s.pair.state = .independent)
include h

theorem State.leads_of_independent : s.leads = false := by rw [State.leads, h]; rfl
theorem State.mirrors_of_independent : s.mirrors = false := by rw [State.mirrors, State.leads_of_independent h]; rfl
theorem State.compares_of_independent : s.compares = false := by rw [State.compares, h]; rfl

theorem State.mirrored_of_independent (p a : Nat) : s.mirrored p a = false := by
  simp [State.mirrored, State.mirActive, State.mirrors_of_independent h]

theorem State.mirrorHolds_of_independent (r : MemReq) : s.mirrorHolds r = false := by
  rw [State.mirrorHolds, State.mirrored_of_independent h]; rfl

theorem State.digest_of_independent (l : Nat) (rec : List Byte) : s.digest l rec = s := by
  rw [State.digest, State.compares_of_independent h]; rfl

end

section
variable {s : State}

/-! ### The unit that a request reaches -/

/-- The power states of the units once a request has reached unit `u` (R503). -/
def State.pwrAwake (s : State) (u : Nat) : Vector UnitPwr 24 :=
  if s.mem.pwr[u]?.getD .active = .powerDown then s.mem.pwr.setIfInBounds u .active else s.mem.pwr

theorem State.wakeUnit_eq (u : Nat) : s.wakeUnit u = { s with mem := { s.mem with pwr := s.pwrAwake u } } := by
  unfold State.wakeUnit State.pwrAwake
  split <;> rfl

@[simp] theorem State.wakeUnit_mem (u : Nat) : (s.wakeUnit u).mem = { s.mem with pwr := s.pwrAwake u } := by rw [State.wakeUnit_eq]
@[simp] theorem State.wakeUnit_pair (u : Nat) : (s.wakeUnit u).pair = s.pair := by rw [State.wakeUnit_eq]

theorem State.pwrAwake_ne_powerDown (u : Nat) : (s.pwrAwake u)[u]? ≠ some .powerDown := by
  unfold State.pwrAwake
  split
  next h =>
    rw [Vector.getElem?_setIfInBounds, if_pos rfl]
    split <;> nofun
  next h => exact fun hp => h (by rw [hp]; rfl)

theorem State.lineRead_good {u : Nat} (h : s.unitOff u = false) (o : Nat) (alt again : LineOutcome) : s.lineRead u o .good alt again = s := by
  rw [State.lineRead, h]; rfl

theorem State.offRead_of_regionless {pl : Place} (h : pl.region = none) : s.offRead pl = s := by rw [State.offRead, h]

theorem State.unitOff_of_linePoison {u o : Nat} (h : s.linePoison u o = false) : s.unitOff u = false := (Bool.or_eq_false_iff.1 h).2

end

end Sys2Proof.Machine

namespace Sys2Proof.Cert
open Sys2Proof.Machine

/-! ### Changes of memory and of images -/

theorem MemOnly.of_mem (s : State) (m : Mem) : MemOnly s { s with mem := m } := ⟨rfl, rfl, fun _ => rfl⟩

theorem MemOnly.trans {s t u : State} (h : MemOnly s t) (g : MemOnly t u) : MemOnly s u := by
  obtain ⟨hrest, hfe, himages⟩ := h
  obtain ⟨grest, gfe, gimages⟩ := g
  refine ⟨?_, ?_, fun k => (gimages k).trans (himages k)⟩
  · rw [← hrest, ← grest]
  · rw [← hfe, ← gfe]

theorem memOnly_keepImage (s : State) (l a n : Nat) (pl : Place) : MemOnly s (s.keepImage l a n pl) := by
  unfold State.keepImage
  cases hx : s.launch? l with
  | none => exact MemOnly.of_mem s s.mem
  | some x =>
    dsimp only
    split
    · exact MemOnly.of_mem s s.mem
    · rw [State.modLaunch, hx]
      refine ⟨rfl, rfl, fun k => ?_⟩
      by_cases hk : k = l
      · subst hk
        rw [hx, State.launch?, Tab.find_put_self]
        rfl
      · rw [State.launch?, Tab.find_put_ne _ _ hk]
        rfl

theorem keepImage_mem (s : State) (l a n : Nat) (pl : Place) : (s.keepImage l a n pl).mem = s.mem := by
  unfold State.keepImage
  split
  · rfl
  · exact ite_keeps State.mem rfl (State.modLaunch_mem ..)

theorem MemOnly.pair_eq {s t : State} (h : MemOnly s t) : t.pair = s.pair := by
  obtain ⟨hrest, -, -⟩ := h
  exact (congrArg State.pair hrest :)

/-- The canonical forms of memory that stays as it was, and of all that is not memory. -/
theorem MemOnly.canonical {s t : State} (h : MemOnly s t) (hmem : t.mem = s.mem) (hs : s.canonical) : t.canonical := by
  obtain ⟨hrest, -, -⟩ := h
  have hbays : t.bays = s.bays := (congrArg State.bays hrest :)
  have hregs : t.regs = s.regs := (congrArg State.regs hrest :)
  rwa [State.canonical, hmem, hbays, hregs]

/-! ### Bytes written at a place -/

/-- What a write at a place changes: the bytes written, the poison of its line, and images. -/
structure Stored (s t : State) (pl : Place) (bs : List Byte) : Prop where
  memOnly : MemOnly s t
  mem : { t.mem with bytes := s.mem.bytes, poison := s.mem.poison } = s.mem
  bytes : StoresAt s t pl.unit pl.off bs

/-- A write to a clean line stores its bytes and changes no other byte (R266). -/
theorem storesAt_of_setRange {s t : State} (hs : s.canonical) {u o : Nat} {bs : List Byte}
    (h : t.mem.bytes = Tab.setRange 0 s.mem.bytes (memKey u o) bs) : StoresAt s t u o bs := by
  obtain ⟨hbytes, -, -, -⟩ := hs
  refine ⟨fun i hi => ?_, fun k hk => ?_⟩
  · rw [h, Tab.get_setRange_in hbytes _ _ _ hi, List.getElem?_eq_getElem hi, Option.getD_some]
  · rw [h, Tab.get_setRange_ne _ _ hk]

/-- The state once a write has kept what it replaces of its launch's image, and is in the launch's digest (R131, R490). -/
def noted (s : State) (p a : Nat) (pl : Place) (who : Option FaultInfo) (bs : List Byte) : State :=
  match s.launchOf who with
  | some l => (s.keepImage l a bs.length pl).digest l (writeRecord (devRecord p a) (a % 64) bs)
  | none => s

theorem noted_eq {s : State} (hind : s.pair.state = .independent) (p a : Nat) (pl : Place) (who : Option FaultInfo) (bs : List Byte) :
    MemOnly s (noted s p a pl who bs) ∧ (noted s p a pl who bs).mem = s.mem := by
  unfold noted
  split
  next l _ =>
    have hkept := memOnly_keepImage s l a bs.length pl
    rw [State.digest_of_independent (hkept.pair_eq ▸ hind)]
    exact ⟨hkept, keepImage_mem ..⟩
  next => exact ⟨.of_mem s s.mem, rfl⟩

/-- A write at a place with one copy. -/
theorem writePlace_of_single {pl : Place} (h : pl.replica = none) (s : State) (p a : Nat) (who : Option FaultInfo) (bs : List Byte)
    (poison : Bool) : s.writePlace p a pl who bs poison =
      if (noted s p a pl who bs).writeBarred pl.unit pl.off bs.length then (noted s p a pl who bs).writeCopy p pl.unit pl.off who bs poison
      else ((noted s p a pl who bs).writeCopy p pl.unit pl.off who bs poison).mirrorLine p a pl := by
  rw [State.writePlace, h]; rfl

/-- Where the line is clean and has one copy, and the package is in no pair, the write is that of one line. -/
theorem writePlace_of_clean {s : State} (hind : s.pair.state = .independent) {pl : Place} (hcopy : pl.replica = none)
    (hclean : s.linePoison pl.unit pl.off = false) (p a : Nat) (who : Option FaultInfo) (bs : List Byte) (poison : Bool) :
    s.writePlace p a pl who bs poison = (noted s p a pl who bs).writeLine pl.unit pl.off bs poison := by
  rw [writePlace_of_single hcopy]
  obtain ⟨hu, hmem⟩ := noted_eq hind p a pl who bs
  generalize noted s p a pl who bs = u at hu hmem ⊢
  have hbarred : u.writeBarred pl.unit pl.off bs.length = false := by
    rw [State.writeBarred, State.linePoison, State.unitOff, hmem, ← State.unitOff, ← State.linePoison, hclean, Bool.and_false]; rfl
  have hmirrors : (u.writeLine pl.unit pl.off bs poison).mirrors = false :=
    (State.mirrors_eq_of_withoutMem_eq (State.withoutMem_writeLine ..)).trans (State.mirrors_of_independent (hu.pair_eq ▸ hind))
  simp only [hbarred, State.writeCopy, Bool.false_eq_true, if_false, State.mirrorLine_of_not_mirrors hmirrors]

/-- A write of good bytes at a clean line. -/
theorem stored_writePlace {s : State} (hs : s.canonical) (hind : s.pair.state = .independent) {pl : Place} (hcopy : pl.replica = none)
    (hclean : s.linePoison pl.unit pl.off = false) (p a : Nat) (who : Option FaultInfo) (bs : List Byte) :
    Stored s (s.writePlace p a pl who bs false) pl bs := by
  rw [writePlace_of_clean hind hcopy hclean]
  obtain ⟨hu, hmem⟩ := noted_eq hind p a pl who bs
  generalize noted s p a pl who bs = u at hu hmem ⊢
  have hline : u.writeLine pl.unit pl.off bs false =
      { u with mem := { s.mem.setPoison (memKey pl.unit pl.off / 64) false with
        bytes := Tab.setRange 0 s.mem.bytes (memKey pl.unit pl.off) bs } } := by
    rw [State.writeLine, State.linePoison, State.unitOff, hmem, ← State.unitOff, ← State.linePoison, hclean,
      State.unitOff_of_linePoison hclean]
    rfl
  rw [hline]
  exact ⟨hu.trans (.of_mem u _), rfl, storesAt_of_setRange hs rfl⟩

/-- A write of poisoned data at a clean line marks the line, and that is all it does to memory (R280, R284). -/
theorem mem_writePlace_of_poison {s : State} (hind : s.pair.state = .independent) {pl : Place} (hcopy : pl.replica = none)
    (hclean : s.linePoison pl.unit pl.off = false) (p a : Nat) (who : Option FaultInfo) (bs : List Byte) :
    (s.writePlace p a pl who bs true).mem = s.mem.setPoison (memKey pl.unit pl.off / 64) true := by
  rw [writePlace_of_clean hind hcopy hclean]
  obtain ⟨-, hmem⟩ := noted_eq hind p a pl who bs
  rw [State.writeLine, State.unitOff, hmem, ← State.unitOff, State.unitOff_of_linePoison hclean]
  rfl

end Sys2Proof.Cert
end

section
/-! PROOF. The requests that a controller serves, and how it answers them. -/

namespace Sys2Proof.Cert
open Sys2Proof.Machine

/-- What a read of a place delivers where its line is good (R266). -/
def delivered (s : State) (pl : Place) (n : Nat) : MemAns :=
  ⟨s.memBytes (s.readPlace pl).1 (s.readPlace pl).2 n, s.linePoison (s.readPlace pl).1 (s.readPlace pl).2, false⟩

/-! ### Loads -/

/-- A good line outside common stock, whose stack serves, is delivered as it is stored (R266, R282). -/
theorem exec_memoryRead_of_load {s : State} {id : Nat} {r : MemReq} (h : Next s id r) {n : Nat}
    (hkind : (∃ g, r.kind = .load g ∧ n = 8) ∨ (∃ g, r.kind = .loadT g ∧ n = 64))
    (hregion : r.place.region = none) (hoff : s.unitOff (s.readPlace r.place).1 = false) (u : UnitId) (off : Nat) (alt again : LineOutcome) :
    exec (.memoryRead (some ⟨id, none⟩) u off .good alt again) s =
      .next ((s.wakeUnit (s.readPlace r.place).1).modReq id fun q => { q with served := some (delivered s r.place n) }) := by
  obtain ⟨hreq, hserved, hblocked⟩ := h
  have hread (o : Nat) : ((s.wakeUnit (s.readPlace r.place).1).lineRead (s.readPlace r.place).1 o .good alt again).offRead r.place =
      s.wakeUnit (s.readPlace r.place).1 := by
    rw [State.lineRead_good (by rw [State.wakeUnit_eq]; exact hoff), State.offRead_of_regionless hregion]
  rw [exec_memoryRead, execMemoryRead, hreq]
  simp only [hserved, hblocked, Option.isSome_none, Bool.or_self, Bool.false_eq_true, if_false, hread, State.carried, Bool.or_false]
  rw [State.wakeUnit_eq]
  rcases hkind with ⟨g, hk, rfl⟩ | ⟨g, hk, rfl⟩
  all_goals rw [hk]; rfl

/-- What MEMORY_READ shows of a load (R266, R503). -/
theorem gives_memoryRead_of_load {s : State} {id : Nat} {r : MemReq} (h : Next s id r) {n : Nat}
    (hkind : (∃ g, r.kind = .load g ∧ n = 8) ∨ (∃ g, r.kind = .loadT g ∧ n = 64))
    (hregion : r.place.region = none) (hoff : s.unitOff (s.readPlace r.place).1 = false) (u : UnitId) (off : Nat) (alt again : LineOutcome) :
    Gives s (.memoryRead (some ⟨id, none⟩) u off .good alt again) fun t =>
      { t with mem := s.mem } = s ∧ { t.mem with reqs := s.mem.reqs, pwr := s.mem.pwr } = s.mem ∧
      t.mem.reqs = answered s id ⟨s.memBytes (s.readPlace r.place).1 (s.readPlace r.place).2 n,
        s.linePoison (s.readPlace r.place).1 (s.readPlace r.place).2, false⟩ ∧
      t.mem.pwr[(s.readPlace r.place).1]? ≠ some .powerDown := by
  refine ⟨_, exec_memoryRead_of_load h hkind hregion hoff u off alt again, ?_⟩
  rw [State.wakeUnit_eq]
  exact ⟨rfl, rfl, rfl, State.pwrAwake_ne_powerDown _⟩

/-! ### Stores -/

/-- A store reaches its unit, its payload as it arrives is written, and it completes (R266, R280). -/
theorem exec_memoryWrite_of_store {s : State} {id : Nat} {r : MemReq} (h : Next s id r) (hind : s.pair.state = .independent) {bs : List Byte}
    (hkind : r.kind = .store bs) (e : Option WordUpset) :
    exec (.memoryWrite ⟨id, e⟩) s = .next ((((s.wakeUnit r.place.unit).carried e r.place.unit .tc1 bs).1).serveStore r
      ((s.wakeUnit r.place.unit).carried e r.place.unit .tc1 bs).2.1 ((s.wakeUnit r.place.unit).carried e r.place.unit .tc1 bs).2.2) := by
  obtain ⟨hreq, -, hblocked⟩ := h
  rw [exec_memoryWrite, execMemoryWrite, hreq]
  simp only [hblocked, State.mirrorHolds_of_independent hind, Bool.or_self, Bool.false_eq_true, if_false, hkind]

theorem canonical_wakeUnit {s : State} (hs : s.canonical) (u : Nat) : (s.wakeUnit u).canonical := by rw [State.wakeUnit_eq]; exact hs

/-- A store whose payload arrives good writes its bytes (R266). -/
theorem gives_memoryWrite_of_store {s : State} {id : Nat} {r : MemReq} (h : Next s id r) (hs : s.canonical) {bs : List Byte}
    (hkind : r.kind = .store bs) (hcopy : r.place.replica = none) (hind : s.pair.state = .independent)
    (hclean : s.linePoison r.place.unit r.place.off = false) :
    Gives s (.memoryWrite ⟨id, none⟩) fun t => MemOnly s t ∧
      { t.mem with bytes := s.mem.bytes, poison := s.mem.poison, reqs := s.mem.reqs, pwr := s.mem.pwr } = s.mem ∧
      t.mem.reqs = s.mem.reqs.filter (fun q => q.id != r.id) ∧ StoresAt s t r.place.unit r.place.off bs := by
  refine ⟨_, exec_memoryWrite_of_store h hind hkind none, ?_⟩
  have hs' := canonical_wakeUnit hs r.place.unit
  rw [State.wakeUnit_eq] at hs' ⊢
  obtain ⟨hmemOnly, hmem, hbytes⟩ := stored_writePlace hs' hind hcopy hclean r.pitch r.addr.toNat
    (State.whoOf { s with mem := { s.mem with pwr := s.pwrAwake r.place.unit } } r.client) bs
  have hreqs := congrArg Mem.reqs hmem
  refine ⟨((MemOnly.of_mem s _).trans hmemOnly).trans (.of_mem _ _), ?_, ?_, hbytes⟩
  · exact (congrArg (fun m : Mem => { m with reqs := s.mem.reqs, pwr := s.mem.pwr }) hmem :)
  · exact congrArg (List.filter fun q => q.id != r.id) hreqs

/-- A store whose payload has a word that cannot be corrected poisons its line (R280). -/
theorem gives_memoryWrite_of_upset {s : State} {id : Nat} {r : MemReq} (h : Next s id r) (hs : s.canonical) {bs : List Byte}
    (hkind : r.kind = .store bs) (hcopy : r.place.replica = none) (hind : s.pair.state = .independent)
    (hclean : s.linePoison r.place.unit r.place.off = false) {e : WordUpset}
    (hword : bayDecode (bayEncode (BitVec.ofNat 32 (leNat ((bs.drop (4 * e.word)).take 4))) ^^^ e.flips) = .poisoned) :
    Gives s (.memoryWrite ⟨id, some e⟩) fun t => t.linePoison r.place.unit r.place.off = true ∧ t.mem.bytes = s.mem.bytes ∧
      t.mem.reqs = s.mem.reqs.filter (fun q => q.id != r.id) := by
  refine ⟨_, exec_memoryWrite_of_store h hind hkind (some e), ?_⟩
  have hcarried : (s.wakeUnit r.place.unit).carried (some e) r.place.unit .tc1 bs =
      ((s.wakeUnit r.place.unit).postFault (upsetSrc e r.place.unit) (upsetInfo e 1 r.place.unit .tc1 0xFF), bs, true) := by
    simp only [State.carried, hword]; rfl
  rw [hcarried]
  have hquiet := (s.wakeUnit r.place.unit).quiet_postFault (upsetSrc e r.place.unit) (upsetInfo e 1 r.place.unit .tc1 0xFF)
  dsimp only
  generalize (s.wakeUnit r.place.unit).postFault (upsetSrc e r.place.unit) (upsetInfo e 1 r.place.unit .tc1 0xFF) = u at hquiet ⊢
  have hmem := State.mem_of_quiet hquiet
  have hpair : u.pair.state = .independent := (State.pairState_of_quiet hquiet).trans ((congrArg Pair.state (State.wakeUnit_pair _)).trans hind)
  rw [State.wakeUnit_mem] at hmem
  have hclean' : u.linePoison r.place.unit r.place.off = false := by
    rw [State.linePoison, State.unitOff, hmem]; exact hclean
  have hwritten := mem_writePlace_of_poison hpair hcopy hclean' r.pitch r.addr.toNat (u.whoOf r.client) bs
  rw [hmem] at hwritten
  obtain ⟨-, hpoison, -, -⟩ := hs
  have hmark := Mem.poisoned_setPoison (m := { s.mem with pwr := s.pwrAwake r.place.unit }) ((Tab.wf_iff _ _).1 hpoison).1
    (memKey r.place.unit r.place.off / 64) true (memKey r.place.unit r.place.off / 64)
  rw [if_pos rfl, ← hwritten] at hmark
  refine ⟨?_, ?_, congrArg (fun m => m.reqs.filter fun q => q.id != r.id) hwritten⟩
  · exact Bool.or_eq_true_iff.2 (.inl hmark)
  · exact (congrArg Mem.bytes hwritten :)

/-! ### Atomics -/

/-- What an atomic writes over what stands at its place (R278). -/
def atomicBytes (s : State) (r : MemReq) (op : AtomOp) (x y : W64) : List Byte :=
  leBytes op.size (op.apply (leNat (s.memBytes r.place.unit r.place.off op.size)) x y).1

/-- The answer of an atomic: what stood at its place (R278), and the saturation bit of a till-format add (R117). -/
def atomicAnswer (s : State) (r : MemReq) (op : AtomOp) (x y : W64) : MemAns :=
  ⟨s.memBytes r.place.unit r.place.off op.size, false, (op.apply (leNat (s.memBytes r.place.unit r.place.off op.size)) x y).2⟩

/-- An atomic on a clean line that touches no frame count, in a package of no pair. -/
theorem serveAtomic_eq {s : State} {r : MemReq} {st c l : Nat} (hclient : r.client = .ctx st c l) (hind : s.pair.state = .independent)
    (hclean : s.linePoison r.place.unit r.place.off = false) {op : AtomOp} (hcounts : s.countsIn r.pitch r.addr.toNat op.size = []) (x y : W64) :
    s.serveAtomic r op x y =
      (((s.keepImage l r.addr.toNat op.size r.place).writePlace r.pitch r.addr.toNat r.place none (atomicBytes s r op x y) false).bufferLine
        r.place.unit r.place.off).modReq r.id fun q => { q with served := some (atomicAnswer s r op x y) } := by
  have hkept : (s.keepImage l r.addr.toNat op.size r.place).pair.state = .independent := by
    rw [(memOnly_keepImage s l r.addr.toNat op.size r.place).pair_eq, hind]
  rw [State.serveAtomic, hclient]
  simp only [hclean, Bool.false_eq_true, if_false, hcounts, State.countsAround, List.map_nil, List.find?_nil, State.digest_of_independent hkept]
  rfl

/-- It changes memory and images alone, leaves its result at its place, and is answered. -/
theorem serveAtomic_stores {s : State} (hs : s.canonical) {r : MemReq} {st c l : Nat} (hclient : r.client = .ctx st c l)
    (hcopy : r.place.replica = none) (hind : s.pair.state = .independent) (hclean : s.linePoison r.place.unit r.place.off = false) {op : AtomOp}
    (hcounts : s.countsIn r.pitch r.addr.toNat op.size = []) (x y : W64) :
    MemOnly s (s.serveAtomic r op x y) ∧ StoresAt s (s.serveAtomic r op x y) r.place.unit r.place.off (atomicBytes s r op x y) ∧
      (s.serveAtomic r op x y).mem.reqs = answered s r.id (atomicAnswer s r op x y) := by
  rw [serveAtomic_eq hclient hind hclean hcounts]
  have hkept := memOnly_keepImage s l r.addr.toNat op.size r.place
  have hkeptMem := keepImage_mem s l r.addr.toNat op.size r.place
  generalize s.keepImage l r.addr.toNat op.size r.place = u at hkept hkeptMem ⊢
  have hclean' : u.linePoison r.place.unit r.place.off = false := by rw [State.linePoison, State.unitOff, hkeptMem]; exact hclean
  obtain ⟨hmemOnly, hmem, hbytes⟩ := stored_writePlace (hkept.canonical hkeptMem hs) (hkept.pair_eq ▸ hind) hcopy hclean' r.pitch r.addr.toNat none
    (atomicBytes s r op x y)
  rw [hkeptMem] at hmem
  rw [StoresAt, hkeptMem] at hbytes
  refine ⟨((hkept.trans hmemOnly).trans (.of_mem _ _)).trans (.of_mem _ _), hbytes, ?_⟩
  have hreqs := congrArg Mem.reqs hmem
  exact (congrArg (List.map fun q => if q.id = r.id then { q with served := some (atomicAnswer s r op x y) } else q) hreqs :)

/-- An atomic leaves its result at its place and answers with what stood there (R278). -/
theorem gives_memoryAtomic {s : State} {id : Nat} {r : MemReq} (h : Next s id r) (hs : s.canonical) {op : AtomOp} {g st c l : Nat} {x y : W64}
    (hkind : r.kind = .atom op g x y) (hclient : r.client = .ctx st c l) (hcopy : r.place.replica = none)
    (hind : s.pair.state = .independent) (hclean : s.linePoison r.place.unit r.place.off = false)
    (hcounts : s.countsIn r.pitch r.addr.toNat op.size = []) :
    Gives s (.memoryAtomic id .good) fun t => MemOnly s t ∧ StoresAt s t r.place.unit r.place.off (atomicBytes s r op x y) ∧
      t.mem.reqs = answered s r.id (atomicAnswer s r op x y) := by
  have hoff : (s.wakeUnit r.place.unit).unitOff r.place.unit = false := by
    rw [State.wakeUnit_eq]; exact State.unitOff_of_linePoison hclean
  obtain ⟨hreq, hserved, hblocked⟩ := h
  have hexec : exec (.memoryAtomic id .good) s = .next ((s.wakeUnit r.place.unit).serveAtomic r op x y) := by
    rw [exec_memoryAtomic, execMemoryAtomic, hreq]
    simp only [hserved, hblocked, State.mirrorHolds_of_independent hind, Option.isSome_none, Bool.or_self, Bool.false_eq_true, if_false, hkind,
      State.lineRead_good hoff]
  refine ⟨_, hexec, ?_⟩
  have hs' := canonical_wakeUnit hs r.place.unit
  rw [State.wakeUnit_eq] at hs' ⊢
  obtain ⟨hmemOnly, hrest⟩ := serveAtomic_stores hs' hclient hcopy hind hclean hcounts x y
  exact ⟨(MemOnly.of_mem s _).trans hmemOnly, hrest⟩

/-- Settles O18: each request has a rule of its own, a load, a store whose payload arrives good, one that does not, and an atomic. -/
theorem memoryServes : Obligations.MemoryServes := by
  unfold Obligations.MemoryServes
  intro s id off u alt again r h hs
  refine ⟨fun n hkind hregion hoff => ?load, fun bs hkind hcopy hind hclean => ?store, fun bs e hkind hcopy hind hclean hword => ?upset,
    fun op g st c l x y hkind hclient hcopy hind hclean hcounts => ?atomic⟩
  case load => exact gives_memoryRead_of_load h hkind hregion hoff u off alt again
  case store => exact gives_memoryWrite_of_store h hs hkind hcopy hind hclean
  case upset => exact gives_memoryWrite_of_upset h hs hkind hcopy hind hclean hword
  case atomic => exact gives_memoryAtomic h hs hkind hclient hcopy hind hclean hcounts

end Sys2Proof.Cert
end

section
/-! PROOF. What the controllers do of their own accord: atomic buffers, the patrol, and power down (R279, R283, R503). -/

namespace Sys2Proof.Cert
open Sys2Proof.Machine

/-- The three steps that a controller takes by itself. -/
theorem controllerEvents : ControllerEvents := by
  unfold ControllerEvents
  intro s u k a alt again
  refine ⟨fun hbuf => ?evict, fun hpwr hon ha => ?patrol, fun hpwr hidle => ?down⟩
  case evict => rw [exec_atomicBufferEvict, execAtomicBufferEvict, hbuf]
  case patrol =>
    have hcond : ¬((decide (s.mem.pwr[u.val]?.getD .active ≠ .active) || s.unitOff u) = true) := by
      rw [hpwr, hon]; decide
    have hread : State.unitOff { s with mem := { s.mem with patrol := s.mem.patrol.setIfInBounds u ((a + 64) % s.unitC u) } } u = false := hon
    rw [exec_patrolRead, execPatrolRead, if_neg hcond, ha]
    exact congrArg Host.Outcome.next (State.lineRead_good hread a alt again)
  case down =>
    have hserved : s.mem.reqs.all (fun r => r.place.unit != u.val || r.served.isSome) = true := by
      refine List.all_eq_true.2 fun r hr => ?_
      by_cases hunit : r.place.unit = u.val
      · simp [Option.isSome_iff_ne_none.2 (hidle r hr hunit)]
      · simp [hunit]
    have hcond : (decide (s.mem.pwr[u.val]?.getD .active = .active) && s.mem.reqs.all (fun r => r.place.unit != u.val || r.served.isSome)) = true := by
      rw [hpwr, hserved]; decide
    rw [exec_memoryUnitPowerDown, execMemoryUnitPowerDown, if_pos hcond]
    rfl

end Sys2Proof.Cert
end

section
/-! PROOF. The sequence numbers that sources give their records (R400): how records move them, where the table that keeps them rises by source. -/

namespace Sys2Proof.Machine

section
variable (s : State)

@[simp] theorem State.srcSeq_hostWrite (fn : Option Nat) (a : Nat) (bs : List Byte) : (s.hostWrite fn a bs).srcSeq = s.srcSeq :=
  ite_keeps State.srcSeq rfl rfl

@[simp] theorem State.srcSeq_putDbk (k : Nat) (r : DbkRec) : (s.putDbk k r).srcSeq = s.srcSeq :=
  ite_keeps State.srcSeq rfl (ite_keeps State.srcSeq rfl (ite_keeps State.srcSeq rfl (State.srcSeq_hostWrite ..)))

@[simp] theorem State.srcSeq_putFlt (k : Nat) (f : FaultInfo) (time : W64) (src : Nat) (seq : W32) :
    (s.putFlt k f time src seq).srcSeq = s.srcSeq :=
  ite_keeps State.srcSeq rfl (ite_keeps State.srcSeq rfl (State.srcSeq_hostWrite ..))

@[simp] theorem State.srcSeq_eventMsg (p : Nat) : (s.eventMsg p).srcSeq = s.srcSeq :=
  ite_keeps State.srcSeq rfl (ite_keeps State.srcSeq rfl (ite_keeps State.srcSeq rfl (ite_keeps State.srcSeq rfl rfl)))

/-- A record that every Daybook takes numbers its source once, however many rings it goes to (R400, R406). -/
theorem State.srcSeq_postDbk_always {ks : List Nat} (h : ks ≠ []) (src type : Nat) (payload : List Byte) :
    (s.postDbk ks .always src type payload).srcSeq = (s.afterSeq src).srcSeq := by
  have hall : ks.filter (fun k => s.dbkTakes k .always) = ks := List.filter_eq_self.2 fun _ _ => rfl
  unfold State.postDbk State.postDbkF
  simp only [hall, List.isEmpty_iff, h, if_false]
  exact foldl_keeps State.srcSeq (fun s k => s.srcSeq_putDbk k _) _ _

/-- An event numbers its source once. -/
theorem State.srcSeq_postEvent {ks : List Nat} (h : ks ≠ []) (src type : Nat) (payload : List Byte) :
    (s.postEvent ks src type payload).srcSeq = (s.afterSeq src).srcSeq :=
  (foldl_keeps State.srcSeq (fun t k => ite_keeps State.srcSeq (t.srcSeq_eventMsg k) rfl) _ _).trans (s.srcSeq_postDbk_always h src type payload)

theorem State.faultRings_ne_nil (f : FaultInfo) : s.faultRings f ≠ [] := by
  unfold State.faultRings
  repeat' split
  all_goals simp

/-- A fault numbers its source twice: its fault record, and its FAULT record in the Daybooks (R400). -/
theorem State.srcSeq_postFault (src : Nat) (f : FaultInfo) : (s.postFault src f).srcSeq = ((s.afterSeq src).afterSeq src).srcSeq := by
  have hrings (t : State) (ks : List Nat) (time : W64) (seq : W32) : (ks.foldl (fun s k => s.putFlt k f time src seq) t).srcSeq = t.srcSeq :=
    foldl_keeps State.srcSeq (fun s k => s.srcSeq_putFlt k f time src seq) ks t
  have hrecord (time : W64) (seq : W32) (payload : List Byte) :
      ((List.foldl (fun s k => s.putFlt k f time src seq) ((s.afterStamp src).afterSeq src) (s.faultRings f)).postDbk
        (s.faultRings f) .always src 0x11 payload).srcSeq = ((s.afterSeq src).afterSeq src).srcSeq := by
    rw [State.srcSeq_postDbk_always _ (s.faultRings_ne_nil f), State.afterSeq, State.seqOf, hrings]
    rfl
  unfold State.postFault
  dsimp only
  split
  · exact ite_keeps State.srcSeq ((State.srcSeq_eventMsg ..).trans (hrecord ..)) (hrecord ..)
  · exact hrecord ..

end

section
variable {s : State}

theorem Tab.rising_set {α : Type} [DecidableEq α] {t : Tab α} (h : Tab.rising t = true) (d : α) (k : Nat) (v : α) :
    Tab.rising (Tab.set d t k v) = true := ite_keeps Tab.rising (Tab.rising_del h k) (Tab.rising_put h k v)

theorem State.seqOf_afterSeq (h : Tab.rising s.srcSeq = true) (src : Nat) : (s.afterSeq src).seqOf src = s.seqOf src + 1 :=
  Tab.get_set_self h _ _

theorem State.seqOf_afterSeq_ne {src src' : Nat} (h : src' ≠ src) : (s.afterSeq src).seqOf src' = s.seqOf src' := Tab.get_set_ne _ _ h

theorem State.seqOf_of_srcSeq {t : State} (h : t.srcSeq = s.srcSeq) (src : Nat) : t.seqOf src = s.seqOf src := by rw [State.seqOf, h]; rfl

/-- The next two numbers of a source are consecutive. -/
theorem State.seqOf_afterSeq_twice (h : Tab.rising s.srcSeq = true) (src : Nat) :
    ((s.afterSeq src).afterSeq src).seqOf src = s.seqOf src + 2 := by
  rw [State.seqOf_afterSeq (Tab.rising_set h 0 _ _), State.seqOf_afterSeq h, BitVec.add_assoc]; rfl

end

end Sys2Proof.Machine
end

section
/-! PROOF. An uncorrectable line outside common stock (R282, R284): what the controller does with it, and the numbers of its records. -/

namespace Sys2Proof.Machine

/-! ### A range of keys cleared -/

theorem Tab.find_clearRange {α : Type} (t : Tab α) (lo hi k : Nat) :
    Tab.find (Tab.clearRange t lo hi) k = if lo ≤ k ∧ k < hi then none else Tab.find t k := by
  induction t with
  | nil => simp [Tab.clearRange, Tab.find]
  | cons e t ih =>
    obtain ⟨j, v⟩ := e
    rw [Tab.clearRange, List.filter_cons]
    rw [Tab.clearRange] at ih
    by_cases hj : lo ≤ j ∧ j < hi
    · have hne : k = j → lo ≤ k ∧ k < hi := fun h => h ▸ hj
      have hdrop : ¬(!(decide (lo ≤ j) && decide (j < hi))) = true := by simp [hj]
      rw [if_neg hdrop, ih, Tab.find]
      split
      · rfl
      next hk => rw [if_neg fun h => hk (hne h)]
    · have hkeep : (!(decide (lo ≤ j) && decide (j < hi))) = true := by
        simpa only [← Bool.decide_and, Bool.not_eq_true', decide_eq_false_iff_not] using hj
      rw [if_pos hkeep, Tab.find, ih, Tab.find]
      split
      next h => rw [if_neg (h ▸ hj)]
      next => rfl

/-- A key in the range reads as one that is not listed, and every other key as before. -/
theorem Tab.get_clearRange {α : Type} (d : α) (t : Tab α) (lo hi k : Nat) :
    Tab.get d (Tab.clearRange t lo hi) k = if lo ≤ k ∧ k < hi then d else Tab.get d t k := by
  rw [Tab.get, Tab.find_clearRange]
  split <;> rfl

/-! ### What becomes of the line -/

section
variable (s : State)

/-- A pseudo-channel that is mapped out is marked, and reported (R472, R474). -/
theorem State.quiet_mapOutPch (u k : Nat) : ∃ v, (s.mapOutPch u k).quiet = State.quiet { s with mem := { s.mem with pchOut := v } } := by
  unfold State.mapOutPch
  dsimp only
  split
  · exact ⟨s.mem.pchOut, rfl⟩
  · exact ⟨_, State.quiet_replaceEvent ..⟩

/-- A line that is counted changes no more than that. -/
theorem State.quiet_countLine (u o : Nat) : ∃ v, (s.countLine u o).quiet = State.quiet { s with mem := { s.mem with pchOut := v } } := by
  unfold State.countLine
  dsimp only
  split
  · exact State.quiet_mapOutPch _ u (pchOf o)
  · exact ⟨s.mem.pchOut, rfl⟩

theorem State.seqOf_replaceEvent {src : Nat} (h : src ≠ srcClerk) (kind index status : Nat) :
    (s.replaceEvent kind index status).seqOf src = s.seqOf src := by
  unfold State.replaceEvent
  dsimp only
  rw [State.seqOf_of_srcSeq (State.srcSeq_postEvent _ (List.cons_ne_nil 24 []) ..), State.seqOf_afterSeq_ne h]
  exact ite_keeps (State.seqOf · src) rfl rfl

/-- Only the clerk reports a pseudo-channel that a count has mapped out. -/
theorem State.seqOf_countLine {src : Nat} (h : src ≠ srcClerk) (u o : Nat) : (s.countLine u o).seqOf src = s.seqOf src := by
  have hmap (t : State) (k : Nat) : (t.mapOutPch u k).seqOf src = t.seqOf src :=
    ite_keeps (State.seqOf · src) rfl (State.seqOf_replaceEvent _ h ..)
  exact ite_keeps (State.seqOf · src) (hmap ..) rfl

/-- An uncorrectable line poisoned, reported and counted: of memory its data and its mark change, and the marks of pseudo-channels. -/
theorem State.quiet_lineLost (u o : Nat) :
    ∃ v, (s.lineLost u o).quiet = State.quiet { s.poisonLine u o with mem := { (s.poisonLine u o).mem with pchOut := v } } := by
  obtain ⟨v, hv⟩ := State.quiet_countLine ((s.poisonLine u o).postFault (srcMc u) (s.lineInfo 1 u o 0xFF)) u o
  refine ⟨v, hv.trans ?_⟩
  have hquiet := (s.poisonLine u o).quiet_postFault (srcMc u) (s.lineInfo 1 u o 0xFF)
  rw [State.mem_of_quiet hquiet]
  exact State.quiet_withMem hquiet _

/-- A controller numbers two records for a line that it has lost. -/
theorem State.seqOf_lineLost (h : Tab.rising s.srcSeq = true) (u o : Nat) : (s.lineLost u o).seqOf (srcMc u) = s.seqOf (srcMc u) + 2 := by
  have hne : srcMc u ≠ srcClerk := by unfold srcMc srcClerk; omega
  unfold State.lineLost
  rw [State.seqOf_countLine _ hne, State.seqOf_of_srcSeq (State.srcSeq_postFault ..)]
  exact State.seqOf_afterSeq_twice (s := s.poisonLine u o) h (srcMc u)

end

/-- A poisoned line has its mark, and every other line the mark it had. -/
theorem State.poisoned_poisonLine {s : State} (hs : s.canonical) (u o k : Nat) :
    (s.poisonLine u o).mem.poisoned k = if k = memKey u o / 64 then true else s.mem.poisoned k := by
  obtain ⟨-, hpoison, -, -⟩ := hs
  exact (Mem.poisoned_setPoison ((Tab.wf_iff _ _).1 hpoison).1 (memKey u o / 64) true k :)

/-- Its data reads zero, and every other byte as before. -/
theorem State.get_poisonLine (s : State) (u o k : Nat) :
    Tab.get 0 (s.poisonLine u o).mem.bytes k = if k / 64 = memKey u o / 64 then 0 else Tab.get 0 s.mem.bytes k := by
  refine (Tab.get_clearRange 0 s.mem.bytes _ _ k).trans ?_
  have hline : (64 * (memKey u o / 64) ≤ k ∧ k < 64 * (memKey u o / 64) + 64) ↔ k / 64 = memKey u o / 64 := by omega
  simp only [hline]

end Sys2Proof.Machine

namespace Sys2Proof.Cert
open Sys2Proof.Machine

/-- A line of a unit that is read for no request, where its stack serves and it lies in no region of common stock. -/
theorem exec_memoryRead_of_bad {s : State} {u : UnitId} {off : Nat} (hin : off < s.unitC u) (hon : s.unitOff u = false)
    (hregion : s.regionAt u off = none) (alt again : LineOutcome) :
    exec (.memoryRead none u off .bad alt again) s = .next ((s.wakeUnit u).lineLost u off) := by
  have hin' : ¬(s.unitC u ≤ off) := Nat.not_le.2 hin
  have hon' : (s.wakeUnit u).unitOff u = false := by rw [State.wakeUnit_eq]; exact hon
  have hregion' : (s.wakeUnit u).regionAt u off = none := by rw [State.wakeUnit_eq]; exact hregion
  rw [exec_memoryRead, execMemoryRead]
  simp only [hin', if_false, State.lineRead, hon', Bool.false_eq_true, hregion']

/-- What the statement says of an uncorrectable line, for every state whose table of sequence numbers rises by source as each step leaves it. -/
theorem gives_memoryRead_of_bad {s : State} {u : UnitId} {off : Nat} (hs : s.canonical) (hseqs : Tab.rising s.srcSeq = true)
    (hin : off < s.unitC u) (hon : s.unitOff u = false) (hregion : s.regionAt u off = none) (alt again : LineOutcome) :
    Gives s (.memoryRead none u off .bad alt again) fun t =>
      t.linePoison u off = true ∧
      (∀ i, i < 64 → Tab.get 0 t.mem.bytes (memKey u off / 64 * 64 + i) = 0) ∧
      (∀ k, k / 64 ≠ memKey u off / 64 → Tab.get 0 t.mem.bytes k = Tab.get 0 s.mem.bytes k) ∧
      (∀ k, k ≠ memKey u off / 64 → t.mem.poisoned k = s.mem.poisoned k) ∧
      t.seqOf (srcMc u) = s.seqOf (srcMc u) + 2 ∧ t.stalls = s.stalls ∧ t.regs = s.regs := by
  refine ⟨_, exec_memoryRead_of_bad hin hon hregion alt again, ?_⟩
  have hs' := canonical_wakeUnit hs u
  rw [State.wakeUnit_eq] at hs' ⊢
  generalize hw : ({ s with mem := { s.mem with pwr := s.pwrAwake u } } : State) = w at hs' ⊢
  obtain ⟨v, hv⟩ := State.quiet_lineLost w u off
  have hmem : (w.lineLost u off).mem = { (w.poisonLine u off).mem with pchOut := v } := State.mem_of_quiet hv
  have hpoisoned (k : Nat) := State.poisoned_poisonLine hs' u off k
  have hbytes (k : Nat) := State.get_poisonLine w u off k
  have hstalls := State.stalls_of_quiet hv
  have hregs := State.regs_of_quiet hv
  have hseq := State.seqOf_lineLost w (hw ▸ hseqs) u off
  subst hw
  refine ⟨?_, fun i hi => ?_, fun k hk => ?_, fun k hk => ?_, ?_, hstalls, hregs⟩
  · rw [State.linePoison, hmem]
    exact Bool.or_eq_true_iff.2 (.inl ((hpoisoned _).trans (if_pos rfl)))
  · rw [hmem]
    exact (hbytes _).trans (if_pos (by omega))
  · rw [hmem]
    exact (hbytes k).trans (if_neg hk)
  · rw [hmem]
    exact (hpoisoned k).trans (if_neg hk)
  · exact hseq

/-- A state in which controller 0 is listed twice among the sources' sequence numbers, with the last number of 32 bits and with 7. -/
def listedTwice : State := { State.reset with srcSeq := [(srcMc 0, 0xFFFFFFFF), (srcMc 0, 7)] }

theorem listedTwice_canonical : listedTwice.canonical := resetCanonical

theorem exec_memoryRead_listedTwice :
    exec (.memoryRead none 0 0 .bad .good .good) listedTwice = .next ((listedTwice.wakeUnit 0).lineLost 0 0) :=
  exec_memoryRead_of_bad (u := 0) (by decide +kernel) (by decide +kernel) (by decide +kernel) .good .good

/-- Its number becomes 0, which unlists the first entry and lets the second show. -/
theorem seqOf_lineLost_listedTwice : ((listedTwice.wakeUnit 0).lineLost 0 0).seqOf (srcMc 0) = 8 := by decide +kernel

/-- Refutes O19: `canonical` says nothing of the table of sequence numbers, and in a state that lists a controller there twice its numbers do not
run on. Where the table rises the statement holds (`gives_memoryRead_of_bad`). -/
theorem not_uncorrectableLine : ¬ Obligations.UncorrectableLine := by
  unfold Obligations.UncorrectableLine
  intro h
  obtain ⟨t, ht, -, -, -, -, hseq, -, -⟩ := h listedTwice 0 0 .good .good listedTwice_canonical (by decide +kernel) (by decide +kernel)
    (by decide +kernel) (by decide +kernel)
  rw [← Host.Outcome.next.inj (exec_memoryRead_listedTwice.symm.trans ht)] at hseq
  have hwrapped : listedTwice.seqOf (srcMc 0) + 2 = 1 := by decide +kernel
  exact absurd (seqOf_lineLost_listedTwice.symm.trans (hseq.trans hwrapped)) (by decide)

end Sys2Proof.Cert
end

section
/-! PROOF. The steps of a stack at a temperature report (R295, R297). -/

namespace Sys2Proof.Machine

/-- The step of a stack that has not shut down, by the limits of Table 11-13. -/
theorem Stack.nextStep_eq {x : Stack} (h : x.step < 3) (t : Int) :
    x.nextStep t = if 105 * 8 ≤ t then 3 else if 95 * 8 ≤ t ∨ (x.step = 2 ∧ 92 * 8 ≤ t) then 2
      else if 85 * 8 ≤ t ∨ (1 ≤ x.step ∧ 82 * 8 ≤ t) then 1 else 0 := by
  have hstep : x.step ≠ 3 := Nat.ne_of_lt h
  simp [Stack.nextStep, hstep]

section
variable (s : State)

/-! ### One stack changed -/

theorem State.stack_modStack {k : Nat} (hk : k < 12) (f : Stack → Stack) : (s.modStack k f).stack k = f (s.stack k) := by
  simp [State.modStack, State.stack, hk]

theorem State.stack_modStack_ne {j k : Nat} (h : j ≠ k) (f : Stack → Stack) : (s.modStack k f).stack j = s.stack j := by
  simp only [State.modStack, State.stack]
  rw [Vector.getElem?_setIfInBounds]; simp [Ne.symm h]

theorem State.stack_of_hbms {s t : State} (h : t.mem.hbms = s.mem.hbms) (k : Nat) : t.stack k = s.stack k := by rw [State.stack, h]; rfl

/-- A stack whose report changes its step takes it, records it, and tells the neighbours of open collectives of HOT (R295, R441). -/
def State.stackTakes (k : Nat) (temp : BitVec 12) (n : Nat) : State :=
  let t := s.stamp (srcMc (2 * k))
  let s1 := s.modStack k (fun x => { x with temp := temp, step := n, since := t })
  let s2 := s1.thermalRec k (s.stack k).step n temp
  if n = 2 then s2.slowAll k 128 t else if (s.stack k).step = 2 then s2.slowAll k 0 t else s2

/-- The record and the messages leave the rest of the state. -/
theorem State.quiet_stackTakes (k : Nat) (temp : BitVec 12) (n : Nat) : (s.stackTakes k temp n).quiet =
    (s.modStack k fun x => { x with temp := temp, step := n, since := s.stamp (srcMc (2 * k)) }).quiet := by
  have hslow (t : State) (f : Nat) (w : W64) : (t.slowAll k f w).quiet = t.quiet := State.quiet_of_unsent (t.unsent_slowAll k f w)
  refine ite_keeps State.quiet ((hslow ..).trans ?_) (ite_keeps State.quiet ((hslow ..).trans ?_) ?_)
  all_goals exact State.quiet_postDbk ..

/-- One record is numbered. -/
theorem State.srcSeq_stackTakes (k : Nat) (temp : BitVec 12) (n : Nat) :
    (s.stackTakes k temp n).srcSeq = (s.afterSeq (srcMc (2 * k))).srcSeq := by
  have hslow (t : State) (f : Nat) (w : W64) : (t.slowAll k f w).srcSeq = t.srcSeq := State.srcSeq_of_unsent (t.unsent_slowAll k f w)
  have hrings : s.stackPitches k ++ [24] ≠ [] := by simp
  refine ite_keeps State.srcSeq ((hslow ..).trans ?_) (ite_keeps State.srcSeq ((hslow ..).trans ?_) ?_)
  all_goals exact State.srcSeq_postDbk_always _ hrings ..

/-! ### A stack that shuts down -/

theorem State.quarantine_mem (n x u : Nat) : ∃ a b : Nat × Nat, ∃ r, (s.quarantine n x u).mem =
    { (if s.fld 0 (offCsCtl n) 2 2 = 1 then (s.poisonLine a.1 a.2).poisonLine b.1 b.2 else s.poisonLine a.1 a.2).mem with regions := r } :=
  ⟨s.csPlace n false x, s.csPlace n true x, _, (State.mem_of_quiet (State.quiet_postDbk ..) :)⟩

/-- A region that is quarantined leaves the stacks, and a byte that reads zero (R292). -/
theorem State.quarantine_hbms (n x u : Nat) : (s.quarantine n x u).mem.hbms = s.mem.hbms := by
  obtain ⟨a, b, r, h⟩ := s.quarantine_mem n x u
  rw [h]
  exact ite_keeps (fun t : State => t.mem.hbms) rfl rfl

theorem State.get_quarantine_of_zero {k : Nat} (hk : Tab.get 0 s.mem.bytes k = 0) (n x u : Nat) :
    Tab.get 0 (s.quarantine n x u).mem.bytes k = 0 := by
  have hline (t : State) (ht : Tab.get 0 t.mem.bytes k = 0) (a : Nat × Nat) : Tab.get 0 (t.poisonLine a.1 a.2).mem.bytes k = 0 := by
    rw [State.get_poisonLine, ht]
    split <;> rfl
  obtain ⟨a, b, r, h⟩ := s.quarantine_mem n x u
  rw [h]
  exact ite_keeps (fun t : State => Tab.get 0 t.mem.bytes k) (hline _ (hline s hk a) b) (hline s hk a)

/-- A stack of no pitch that shuts down is off, and what it held reads zero (R297, log 3). -/
theorem State.stackShutdown_of_unowned (hoff : ∀ p, (s.pitch p).state = .off) (k : Nat) :
    (s.stackShutdown k).mem.hbms = (s.modStack k fun x => { x with off := true }).mem.hbms ∧
      ∀ a, a / 2 ^ 36 = k → Tab.get 0 (s.stackShutdown k).mem.bytes a = 0 := by
  have hnone : (List.range 24).filter (fun p => (s.pitch p).state != .off && (s.unitsOf p).any (fun u => u / 2 == k)) = [] := by
    simp [hoff]
  unfold State.stackShutdown
  dsimp only
  rw [hnone, List.foldl_nil]
  refine List.foldlRecOn (motive := fun t : State => t.mem.hbms = (s.modStack k fun x => { x with off := true }).mem.hbms ∧
    ∀ a, a / 2 ^ 36 = k → Tab.get 0 t.mem.bytes a = 0) _ _ ?_ fun t ht n _ => ?_
  · rw [State.mem_of_quiet (State.quiet_replaceEvent ..)]
    dsimp only
    have hlost (l : List (Nat × Nat)) (m : Mem) : (l.foldl (fun (m : Mem) r => m.setLost r.1 r.2 true) m).hbms = m.hbms ∧
        (l.foldl (fun (m : Mem) r => m.setLost r.1 r.2 true) m).bytes = m.bytes :=
      ⟨foldl_keeps Mem.hbms (f := fun (m : Mem) (r : Nat × Nat) => m.setLost r.1 r.2 true) (fun _ _ => rfl) l m,
        foldl_keeps Mem.bytes (f := fun (m : Mem) (r : Nat × Nat) => m.setLost r.1 r.2 true) (fun _ _ => rfl) l m⟩
    refine ⟨(hlost ..).1, fun a ha => ?_⟩
    rw [(hlost ..).2]
    refine (Tab.get_clearRange ..).trans (if_pos ?_)
    unfold memKey
    omega
  · obtain ⟨hhbms, hzero⟩ := ht
    split
    · refine ⟨ite_keeps (fun t : State => t.mem.hbms) ((State.quarantine_hbms ..).trans hhbms) hhbms, fun a ha => ?_⟩
      exact ite_keeps (fun t : State => Tab.get 0 t.mem.bytes a) (t.get_quarantine_of_zero (hzero a ha) ..) (hzero a ha)
    · exact ⟨hhbms, hzero⟩

end

end Sys2Proof.Machine

namespace Sys2Proof.Cert
open Sys2Proof.Machine

/-! ### The report -/

section
variable {s : State} {k : StackId} {temp : BitVec 12} (hon : (s.stack k).off = false)
include hon

theorem exec_stackTempReport_of_same (h : (s.stack k).nextStep temp.toInt = (s.stack k).step) :
    exec (.stackTempReport k temp) s = .next (s.modStack k fun x => { x with temp := temp }) := by
  rw [exec_stackTempReport, execStackTempReport]
  simp only [hon, Bool.false_eq_true, if_false, h, if_true]

theorem exec_stackTempReport_of_change {n : Nat} (h : (s.stack k).nextStep temp.toInt = n) (hn : n ≠ (s.stack k).step) (hlt : n < 3) :
    exec (.stackTempReport k temp) s = .next (s.stackTakes k temp n) := by
  rw [exec_stackTempReport, execStackTempReport]
  simp only [hon, Bool.false_eq_true, if_false, h, hn, Nat.ne_of_lt hlt]
  rfl

theorem exec_stackTempReport_of_shutdown (h : (s.stack k).nextStep temp.toInt = 3) (hstep : (s.stack k).step < 3) :
    exec (.stackTempReport k temp) s = .next ((s.stackTakes k temp 3).stackShutdown k) := by
  rw [exec_stackTempReport, execStackTempReport]
  simp only [hon, Bool.false_eq_true, if_false, h, Nat.ne_of_gt hstep, if_true]
  rfl

/-- A step below SHUTDOWN: no other stack, byte, stall or register changes, and where the table of sequence numbers rises by source, as each step
leaves it, the stack's controller numbers one record. -/
theorem gives_stackTempReport_of_change (hseqs : Tab.rising s.srcSeq = true) {n : Nat} (h : (s.stack k).nextStep temp.toInt = n)
    (hn : n ≠ (s.stack k).step) (hlt : n < 3) : Gives s (.stackTempReport k temp) fun t =>
      (t.stack k).step = n ∧ (t.stack k).temp = temp ∧ (t.stack k).off = false ∧ (∀ j, j ≠ k.val → t.stack j = s.stack j) ∧
      { t.mem with hbms := s.mem.hbms } = s.mem ∧ t.stalls = s.stalls ∧ t.regs = s.regs ∧
      t.seqOf (srcMc (2 * k.val)) = s.seqOf (srcMc (2 * k.val)) + 1 := by
  refine ⟨_, exec_stackTempReport_of_change hon h hn hlt, ?_⟩
  have hquiet := s.quiet_stackTakes k temp n
  have hmem := State.mem_of_quiet hquiet
  have hself := (State.stack_of_hbms (congrArg Mem.hbms hmem) k).trans (s.stack_modStack k.isLt _)
  refine ⟨?_, ?_, ?_, fun j hj => ?_, ?_, (State.stalls_of_quiet hquiet :), (State.regs_of_quiet hquiet :), ?_⟩
  · rw [hself]
  · rw [hself]
  · rw [hself]; exact hon
  · exact (State.stack_of_hbms (congrArg Mem.hbms hmem) j).trans (s.stack_modStack_ne hj _)
  · rw [hmem]; rfl
  · rw [State.seqOf_of_srcSeq (s.srcSeq_stackTakes k temp n), State.seqOf_afterSeq hseqs]

/-- SHUTDOWN of a stack of no pitch: it is off, what it held reads zero, and no other stack changes. -/
theorem gives_stackTempReport_of_shutdown (h : (s.stack k).nextStep temp.toInt = 3) (hstep : (s.stack k).step < 3)
    (hoff : ∀ p, (s.pitch p).state = .off) : Gives s (.stackTempReport k temp) fun t =>
      (t.stack k).step = 3 ∧ (t.stack k).off = true ∧ (∀ j, j ≠ k.val → t.stack j = s.stack j) ∧
      ∀ a, a / 2 ^ 36 = k.val → Tab.get 0 t.mem.bytes a = 0 := by
  refine ⟨_, exec_stackTempReport_of_shutdown hon h hstep, ?_⟩
  have hquiet := s.quiet_stackTakes k temp 3
  have hhbms := congrArg Mem.hbms (State.mem_of_quiet hquiet)
  have hoff' (p : Nat) : ((s.stackTakes k temp 3).pitch p).state = .off := by
    rw [State.pitch, State.fe_of_quiet hquiet]; exact hoff p
  obtain ⟨hdown, hzero⟩ := State.stackShutdown_of_unowned _ hoff' k
  have hself := (State.stack_of_hbms hdown k).trans ((State.stack_modStack _ k.isLt _).trans
    (congrArg (fun x : Stack => { x with off := true }) ((State.stack_of_hbms hhbms k).trans (s.stack_modStack k.isLt _))))
  refine ⟨?_, ?_, fun j hj => ?_, hzero⟩
  · rw [hself]
  · rw [hself]
  · exact (State.stack_of_hbms hdown j).trans ((State.stack_modStack_ne _ hj _).trans
      ((State.stack_of_hbms hhbms j).trans (s.stack_modStack_ne hj _)))

end

/-- What the statement says of a report, for every state whose table of sequence numbers rises by source. -/
theorem stackSteps_of_rising {s : State} (hseqs : Tab.rising s.srcSeq = true) (k : StackId) (temp : BitVec 12) :
    let x := s.stack k
    let T := temp.toInt
    let n := if 105 * 8 ≤ T then 3 else if 95 * 8 ≤ T ∨ (x.step = 2 ∧ 92 * 8 ≤ T) then 2
      else if 85 * 8 ≤ T ∨ (1 ≤ x.step ∧ 82 * 8 ≤ T) then 1 else 0
    x.off = false → x.step < 3 →
    (n = x.step → exec (.stackTempReport k temp) s = .next { s with mem := { s.mem with hbms := s.mem.hbms.setIfInBounds k { x with temp := temp } } }) ∧
    (n ≠ x.step → n < 3 → Gives s (.stackTempReport k temp) fun t =>
      (t.stack k).step = n ∧ (t.stack k).temp = temp ∧ (t.stack k).off = false ∧ (∀ j, j ≠ k.val → t.stack j = s.stack j) ∧
      { t.mem with hbms := s.mem.hbms } = s.mem ∧ t.stalls = s.stalls ∧ t.regs = s.regs ∧ t.seqOf (srcMc (2 * k.val)) = s.seqOf (srcMc (2 * k.val)) + 1) ∧
    (n = 3 → (∀ p, (s.pitch p).state = .off) → Gives s (.stackTempReport k temp) fun t =>
      (t.stack k).step = 3 ∧ (t.stack k).off = true ∧ (∀ j, j ≠ k.val → t.stack j = s.stack j) ∧
      ∀ a, s.canonical → a / 2 ^ 36 = k.val → Tab.get 0 t.mem.bytes a = 0) := by
  intro x T n hon hlt
  have hstep : x.nextStep T = n := Stack.nextStep_eq hlt T
  refine ⟨fun hsame => ?same, fun hchange hbelow => ?change, fun hthree hoff => ?shutdown⟩
  case same => exact exec_stackTempReport_of_same hon (hstep.trans hsame)
  case change => exact gives_stackTempReport_of_change hon hseqs hstep hchange hbelow
  case shutdown =>
    obtain ⟨t, ht, hdown, hoff', hothers, hzero⟩ := gives_stackTempReport_of_shutdown hon (hstep.trans hthree) hlt hoff
    exact ⟨t, ht, hdown, hoff', hothers, fun a _ ha => hzero a ha⟩

/-- Stack 0 of that state at 85 °C takes step 1. -/
theorem exec_stackTempReport_listedTwice : exec (.stackTempReport 0 680) listedTwice = .next (listedTwice.stackTakes 0 680 1) :=
  exec_stackTempReport_of_change (s := listedTwice) (k := 0) (temp := 680) (n := 1) (by decide +kernel) (by decide +kernel) (by decide +kernel)
    (by decide)

theorem seqOf_stackTakes_listedTwice : (listedTwice.stackTakes 0 680 1).seqOf (srcMc 0) = 7 := by decide +kernel

/-- Refutes O20: a controller that the table of sequence numbers lists twice does not number the record of its stack's step with the next number.
What the controllers do of their own accord is as the statement says (`controllerEvents`), and so are the steps of the stacks where the table rises
(`stackSteps_of_rising`). -/
theorem not_controllerAndStackEvents : ¬ Obligations.ControllerAndStackEvents := by
  unfold Obligations.ControllerAndStackEvents StackSteps
  rintro ⟨-, hstacks⟩
  obtain ⟨-, hstep, -⟩ := hstacks listedTwice 0 680 (by decide +kernel) (by decide +kernel)
  obtain ⟨t, ht, -, -, -, -, -, -, -, hseq⟩ := hstep (by decide +kernel) (by decide +kernel)
  rw [← Host.Outcome.next.inj (exec_stackTempReport_listedTwice.symm.trans ht)] at hseq
  have hwrapped : listedTwice.seqOf (srcMc 0) + 1 = 0 := by decide +kernel
  exact absurd (seqOf_stackTakes_listedTwice.symm.trans (hseq.trans hwrapped)) (by decide)

end Sys2Proof.Cert
end

section
/-! PROOF. Start-up, component by component (R531, R569 to R571). -/

namespace Sys2Proof.Machine

section
variable {s : State}

/-! ### The image that a component loads -/

/-- A component whose active image passes runs it, where no trial waits. -/
theorem State.fwLoad_of_active {c : Nat} (h : (s.comp c).spare.st ≠ .trial) (other : Bool) : s.fwLoad c true other = (s, true) := by
  simp [State.fwLoad, h]

/-- A component with one image runs nothing where that fails. -/
theorem State.fwLoad_of_none {c : Nat} (h : (s.comp c).spare.st = .empty) (other : Bool) : s.fwLoad c false other = (s, false) := by
  simp [State.fwLoad, h]

/-- Erasing the slots of a session that is over changes the firmware alone (R532). -/
theorem State.fwSweep_keeps {β : Type} (π : State → β) (h : ∀ (t : State) (f : Firmware), π { t with fw := f } = π t) :
    π s.fwSweep = π s :=
  ite_keeps π rfl (foldl_keeps π (fun t _ => ite_keeps π (h t _) rfl) _ _)

theorem State.railsStart_of_low (h : s.md.pwrEn = false) : s.railsStart = s := by
  simp [State.railsStart, h]

/-! ### Step 5 -/

/-- REPLACE at the end of start-up: set, with its pins, where the package runs degraded (R476, R569). -/
def State.startReplace (s : State) : State :=
  if s.degraded && !s.health.replace then
    ({ s with health := { s.health with replace := true } }.emit (.pin "REPLACE_REQ#" false)).emit (.pin "AMBER" true)
  else s

theorem State.quiet_startReplace (s : State) : s.startReplace.quiet = s.quiet := ite_keeps State.quiet rfl rfl

/-- The state in which step 5 reports: VALID is clear, and the package has started. -/
def State.startedState (s : State) : State :=
  State.modMd { s with clk := { s.clk with valid := false } } fun m => { m with started := true, faults := 0 }

/-- What step 5 of start-up leaves, but for what it reports and the note of a thermal trip (R511). -/
theorem State.quiet_startDone : ∃ note, s.startDone.quiet = (s.startedState.modMd fun m => { m with tripNote := note }).quiet := by
  have hreplace := (State.quiet_startReplace s.startedState.reviewDegraded).trans s.startedState.quiet_reviewDegraded
  have hdone : s.startDone = (match s.startedState.reviewDegraded.startReplace.md.tripNote with
      | some (n, temp) => (s.startedState.reviewDegraded.startReplace.postFault srcClerk (FaultInfo.noCtx 4 .hwFault 0x31 n temp 0 none none)).modMd
          fun m => { m with tripNote := none }
      | none => s.startedState.reviewDegraded.startReplace) := rfl
  rw [hdone]
  generalize s.startedState.reviewDegraded.startReplace = v at hreplace
  split
  next n temp _ =>
    have hfault := v.quiet_postFault srcClerk (FaultInfo.noCtx 4 .hwFault 0x31 n temp 0 none none)
    exact ⟨none, (congrArg (fun t : State => t.modMd fun m => { m with tripNote := none }) (hfault.trans hreplace) :)⟩
  next => exact ⟨s.startedState.md.tripNote, hreplace⟩

/-! ### Training that finds nothing -/

theorem State.modStack_self {k : Nat} {f : Stack → Stack} (hf : f (s.stack k) = s.stack k) : s.modStack k f = s := by
  have hstack : s.mem.hbms.setIfInBounds k (s.stack k) = s.mem.hbms := by
    refine Vector.ext fun i hi => ?_
    rw [Vector.getElem_setIfInBounds]
    split
    next h => subst h; rw [State.stack, Vector.getElem?_eq_getElem hi, Option.getD_some]
    next => rfl
  rw [State.modStack, hf, hstack]

/-- Stacks that serve below SHUTDOWN, of which none is found hot, stay as they are (R294). -/
theorem State.stacksUp_nil (h : ∀ k, k < 12 → (s.stack k).off = false ∧ (s.stack k).step < 3) : s.stacksUp [] = s := by
  refine List.foldlRecOn (motive := (· = s)) _ _ rfl fun t ht k hmem => ?_
  subst ht
  obtain ⟨hon, hstep⟩ := h k (List.mem_range.1 hmem)
  have hne : (t.stack k).step ≠ 3 := Nat.ne_of_lt hstep
  simp only [List.any_nil, Bool.false_eq_true, if_false, hne, Bool.false_and, if_true]
  exact State.modStack_self (by rw [← hon])

end

end Sys2Proof.Machine

namespace Sys2Proof.Cert
open Sys2Proof.Machine

section
variable {s : State}

/-- The supply is good and GATE passes: the clerk runs (R531). -/
theorem gives_supplyGood_of_active (hdown : s.md.supply = false) (hspare : (s.comp 1).spare.st ≠ .trial) (hlow : s.md.pwrEn = false)
    (other : Bool) :
    Gives s (.supplyGood true other) fun t =>
      t.md.supply = true ∧ t.md.clerk = true ∧ t.md.applying = s.md.applying ∧ t.mem = s.mem ∧ t.clk.time = s.clk.time := by
  have hload := State.fwLoad_of_active (s := s.modMd fun m => { m with supply := true }) (c := 1) hspare other
  generalize hu : (s.modMd fun m => { m with supply := true }).modMd (fun m => { m with clerk := true }) = u
  have hsweep : u.fwSweep.md = u.md ∧ u.fwSweep.mem = u.mem ∧ u.fwSweep.clk = u.clk :=
    ⟨State.fwSweep_keeps State.md fun _ _ => rfl, State.fwSweep_keeps State.mem fun _ _ => rfl, State.fwSweep_keeps State.clk fun _ _ => rfl⟩
  have hquiet : (u.fwSweep.auditDevice 0x23 0 0 0 []).quiet = u.fwSweep.quiet := State.quiet_audit ..
  have hmd := State.md_of_quiet hquiet
  obtain ⟨hsweepMd, hsweepMem, hsweepClk⟩ := hsweep
  have hlow' : (u.fwSweep.auditDevice 0x23 0 0 0 []).md.pwrEn = false := by
    rw [hmd, hsweepMd, ← hu]; exact hlow
  refine ⟨u.fwSweep.auditDevice 0x23 0 0 0 [], ?_, ?_⟩
  · rw [exec_supplyGood, execSupplyGood, hdown]
    simp only [Bool.false_eq_true, if_false, hload, if_true, hu, State.railsStart_of_low hlow']
  · dsimp only
    rw [hmd, hsweepMd, State.mem_of_quiet hquiet, hsweepMem, State.clkTime_of_quiet hquiet, hsweepClk, ← hu]
    exact ⟨rfl, rfl, rfl, rfl, rfl⟩

/-- The supply is good and GATE has no image that passes: the compute die stays unpowered (R531). -/
theorem gives_supplyGood_of_none (hdown : s.md.supply = false) (hspare : (s.comp 1).spare.st = .empty) (other : Bool) :
    Gives s (.supplyGood false other) fun t => t.md.gateFailed = true ∧ t.md.applying = s.md.applying ∧
      t.out = s.out ++ [.pin "REPLACE_REQ#" false, .pin "AMBER" true] := by
  have hload := State.fwLoad_of_none (s := s.modMd fun m => { m with supply := true }) (c := 1) hspare other
  refine ⟨((((s.modMd fun m => { m with supply := true }).modMd fun m => { m with gateFailed := true }).emit (.pin "REPLACE_REQ#" false)).emit
    (.pin "AMBER" true)), ?_, rfl, rfl, ?_⟩
  · rw [exec_supplyGood, execSupplyGood, hdown]
    simp only [Bool.false_eq_true, if_false, hload]
  · simp

/-- The turn of a component in activation order other than GATE (Table 21-10). -/
def Turn (s : State) (c : FwId) : Prop :=
  s.starting = true ∧ actOrder[s.md.verified.length]? = some (c.val + 1) ∧ c.val ≠ 0

theorem Turn.starting {c : FwId} (h : Turn s c) : s.starting = true := by
  obtain ⟨hstarting, -, -⟩ := h
  exact hstarting

theorem exec_componentVerified_of_turn {c : FwId} (h : Turn s c) (active other : Bool) {run : Bool}
    (hload : s.fwLoad (c.val + 1) active other = (s, run)) : exec (.componentVerified c active other) s =
      .next (if run then (s.modMd fun m => { m with verified := m.verified ++ [c.val + 1] }).startTry else s) := by
  obtain ⟨hstarting, horder, hgate⟩ := h
  have hcond : (s.starting && actOrder[s.md.verified.length]? == some (c.val + 1) && c.val + 1 != 1) = true := by
    simp [hstarting, horder, hgate]
  rw [exec_componentVerified, execComponentVerified]
  simp only [hcond, if_true, hload]

theorem State.startTry_of_untrained (h : s.md.trained = false) : s.startTry = s := by
  simp [State.startTry, h]

/-- Once training is done and FRONT has passed, start-up ends (R569 step 5). -/
theorem State.startTry_of_trained (h : s.md.trained = true) (hfront : s.md.verified.contains 2 = true) (hstarted : s.md.started = false) :
    s.startTry = s.startDone := by
  simp only [State.startTry, h, hfront, hstarted]; rfl

theorem not_started_of_starting (h : s.starting = true) : s.md.started = false ∧ s.crst.held = false := by
  simp only [State.starting, Bool.and_eq_true, Bool.not_eq_true'] at h
  exact ⟨h.1.2, h.2⟩

/-- FRONT passes with training done: the package starts (R569, R571). -/
theorem gives_componentVerified_of_front {c : FwId} (h : Turn s c) (hfront : c.val = 1) (hspare : (s.comp 2).spare.st = .empty)
    (htrained : s.md.trained = true) (other : Bool) : Gives s (.componentVerified c true other) fun t =>
      t.md.started = true ∧ t.clk.valid = false ∧ t.mem = s.mem ∧ t.stalls = s.stalls := by
  have hne : (s.comp (c.val + 1)).spare.st ≠ .trial := by rw [hfront, hspare]; nofun
  obtain ⟨hstarted, -⟩ := not_started_of_starting h.starting
  generalize hu : (s.modMd fun m => { m with verified := m.verified ++ [c.val + 1] }) = u
  have hverified : u.md.verified.contains 2 = true := by rw [← hu, hfront]; simp
  have htry : u.startTry = u.startDone := State.startTry_of_trained (hu ▸ htrained) hverified (hu ▸ hstarted)
  obtain ⟨note, hnote⟩ := State.quiet_startDone (s := u)
  refine ⟨u.startDone, ?_, ?_⟩
  · rw [exec_componentVerified_of_turn h true other (State.fwLoad_of_active hne other), if_pos rfl, hu, htry]
  · subst hu
    exact ⟨congrArg Module.started (State.md_of_quiet hnote), (congrArg (fun t : State => t.clk.valid) hnote :),
      (State.mem_of_quiet hnote :), (State.stalls_of_quiet hnote :)⟩

/-- Training that finds nothing before FRONT has passed (R569 steps 3 and 4). -/
theorem exec_hbmTrainingDone_of_starting (hstarting : s.starting = true) (hmemc : s.md.verified.contains 4 = true)
    (hfront : s.md.verified.contains 2 = false) (hstep : s.crst.step = 0) (htrained : s.md.trained = false)
    (hstacks : ∀ k, k < 12 → (s.stack k).off = false ∧ (s.stack k).step < 3) :
    exec (.hbmTrainingDone [] [] []) s = .next (s.modMd fun m => { m with trained := true }) := by
  obtain ⟨hstarted, hheld⟩ := not_started_of_starting hstarting
  have htry : (s.modMd fun m => { m with trained := true }).startTry = s.modMd fun m => { m with trained := true } := by
    simp only [State.startTry, State.modMd_md, hfront, Bool.and_false, Bool.false_and, Bool.false_eq_true, if_false]
  rw [exec_hbmTrainingDone, execHbmTrainingDone, hheld, hstep]
  simp only [Bool.false_eq_true, if_false, hstarting, hmemc, htrained, State.stacksUp_nil hstacks]
  exact congrArg Host.Outcome.next htry

end

end Sys2Proof.Cert
end

section
/-! PROOF. Steps 6 to 8 of a chip reset with one pitch alive: what becomes of the pitch, and that no byte of memory changes (R465, R466). -/

namespace Sys2Proof.Machine

section
variable (s : State)

/-! ### Memory through the restoring of a pitch -/

@[simp] theorem State.postDbk_mem (ks : List Nat) (c : DbkClass) (src type : Nat) (payload : List Byte) :
    (s.postDbk ks c src type payload).mem = s.mem := State.mem_of_quiet (State.quiet_postDbk ..)

@[simp] theorem State.setPwr_mem (st : Nat) (tgt : PwrState) : (s.setPwr st tgt).mem = s.mem := by
  have hzero (t : State) : (t.zeroBays st).mem = t.mem := rfl
  have hnow (t : State) : t.afterNow.mem = t.mem := rfl
  unfold State.setPwr
  dsimp only
  repeat' split
  all_goals simp [hzero, hnow]

@[simp] theorem State.writePsb_mem (p : Nat) : (s.writePsb p).mem = s.mem :=
  ite_keeps State.mem rfl (State.mem_of_quiet (State.quiet_hostShow ..) :)

theorem State.restoreUnits_bytes (p : Nat) : (s.restoreUnits p).mem.bytes = s.mem.bytes := by
  have hunit (t : State) (u : Nat) : (if t.unitOff u then t else t.setUnitPwr u .active).mem.bytes = t.mem.bytes :=
    ite_keeps (fun t : State => t.mem.bytes) rfl rfl
  refine (congrArg Mem.bytes (foldl_keeps State.mem (fun t st => t.setPwr_mem st _) _ _)).trans ?_
  exact foldl_keeps (fun t : State => t.mem.bytes) hunit _ _

theorem State.restoreUnits_fe (p : Nat) : (s.restoreUnits p).fe = s.fe := by
  have hunit (t : State) (u : Nat) : (if t.unitOff u then t else t.setUnitPwr u .active).fe = t.fe := ite_keeps State.fe rfl rfl
  refine (foldl_keeps State.fe (fun t st => t.setPwr_fe st _) _ _).trans ?_
  exact foldl_keeps State.fe hunit _ _

/-! ### The pitch -/

/-- Whether a pitch does not run after a chip reset (R465). -/
def State.pitchLost (cut : Vector (BitVec 32) 24) (p : Nat) : Bool := (s.pitch p).lost || (s.unitsOf p).any (s.unitFails cut)

/-- What a pitch keeps through a chip reset, with the state that it comes back in (R465, R467). -/
def Pitch.back (x : Pitch) (lost : Bool) : Pitch :=
  { Pitch.reset with state := (if lost then .failed else .running), sseq := x.sseq, cause := x.cause, scrubbed := x.scrubbed,
                     psbActive := x.psbActive, lost := x.lost }

/-- A pitch that no teardown joins comes back without one (R467). -/
theorem State.pitchBack_of_kept {p : Nat} (h : (s.pitch p).teardown = false) (cut : Vector (BitVec 32) 24) : s.pitchBack cut p =
    (((s.modPitch p fun x => x.back (s.pitchLost cut p)).setFld 0 (offPcfg p) 24 24 1).restoreUnits p).writePsb p := by
  simp only [State.pitchBack, h, Bool.false_eq_true, if_false]
  rfl

/-- It runs or has failed, and its messages are not masked. -/
theorem State.pitch_pitchBack {p : Nat} (hp : p < 24) (h : (s.pitch p).teardown = false) (cut : Vector (BitVec 32) 24) :
    ((s.pitchBack cut p).pitch p).state = (if s.pitchLost cut p then .failed else .running) ∧ ((s.pitchBack cut p).pitch p).masked = false := by
  have hmarks : (s.pitchBack cut p).marks = s.marks.setIfInBounds p ((s.pitch p).back (s.pitchLost cut p)).mark := by
    rw [s.pitchBack_of_kept h, State.marks_writePsb, State.marks_of_fe (State.restoreUnits_fe ..), State.marks_of_fe (State.setFld_fe ..),
      State.marks_modPitch]
  obtain ⟨hmark, -⟩ := State.mark_pitch_of_marks hp hmarks
  exact ⟨congrArg PitchMark.state hmark, congrArg PitchMark.masked hmark⟩

theorem State.pitchBack_bytes {p : Nat} (h : (s.pitch p).teardown = false) (cut : Vector (BitVec 32) 24) :
    (s.pitchBack cut p).mem.bytes = s.mem.bytes := by
  rw [s.pitchBack_of_kept h, State.writePsb_mem, State.restoreUnits_bytes, State.setFld_mem]
  rfl

/-! ### The chip -/

/-- Of a state, the regions that come back change the regions alone (R465). -/
theorem State.regionsBack_eq (cut : Vector (BitVec 32) 24) : ∃ r, s.regionsBack cut = { s with mem := { s.mem with regions := r } } := by
  refine List.foldlRecOn (motive := fun t : State => ∃ r, t = { s with mem := { s.mem with regions := r } }) _ _ ⟨s.mem.regions, rfl⟩ ?_
  rintro t ⟨r, rfl⟩ n -
  exact ⟨_, rfl⟩

/-- What step 8 leaves of the record of a chip reset. -/
def Crst.over (c : Crst) : Crst := { c with step := 0, live := [], unconfirmed := [], touched := [], perst := false }

/-- The state with other regions of common stock and other power states of its memory units. -/
def State.withRegions (r : Vector CsRegion 16) (v : Vector UnitPwr 24) : State := { s with mem := { s.mem with regions := r, pwr := v } }

/-- Steps 6 to 8 with one pitch alive, but for the messages that they send. -/
theorem State.quiet_chipBack_of_one {p : Nat} (hlive : s.crst.live = [p]) (hperst : s.crst.perst = false)
    (hind : s.pair.state = .independent) (cut : Vector (BitVec 32) 24) :
    ∃ r v, (s.chipBack cut).quiet = (((s.withRegions r v).pitchBack cut p).modCrst Crst.over).wakeFront.quiet := by
  have hgone : (s.pair.state == PairState.stoodDown) = false := by rw [hind]; rfl
  obtain ⟨r, hr⟩ := s.regionsBack_eq cut
  refine ⟨r, Vector.ofFn fun u : Fin 24 => if ({ s with mem := { s.mem with regions := r } } : State).holdsRegion u &&
    !({ s with mem := { s.mem with regions := r } } : State).unitOff u then .active else .selfRefresh, ?_⟩
  unfold State.chipBack
  simp only [State.perstRegs, hperst, hgone, Bool.or_false, Bool.false_eq_true, if_false, hlive, List.foldl_cons, List.foldl_nil, hr]
  exact congrArg State.wakeFront ((State.quiet_reviewDegraded ..).trans ((State.quiet_eventMsg ..).trans (State.quiet_postDbk ..)))

/-- What ends a chip reset of which one pitch is left: the reset is over, the pitch is back, and FRONT fetches again. -/
theorem State.chipBack_of_one {p : Nat} (hp : p < 24) (hlive : s.crst.live = [p]) (hperst : s.crst.perst = false)
    (hind : s.pair.state = .independent) (hkept : (s.pitch p).teardown = false) (cut : Vector (BitVec 32) 24) :
    (s.chipBack cut).crst.step = 0 ∧ ((s.chipBack cut).pitch p).state = (if s.pitchLost cut p then .failed else .running) ∧
      ((s.chipBack cut).pitch p).masked = false ∧ (s.chipBack cut).mem.bytes = s.mem.bytes ∧ (s.chipBack cut).fe.wake = true := by
  obtain ⟨r, v, hquiet⟩ := s.quiet_chipBack_of_one hlive hperst hind cut
  have hfe := State.fe_of_quiet hquiet
  have hpitch : (s.chipBack cut).pitch p = ((s.withRegions r v).pitchBack cut p).pitch p :=
    (congrArg (fun e : FrontEnd => e.pitches[p]?.getD Pitch.reset) hfe :)
  obtain ⟨hstate, hmasked⟩ := (s.withRegions r v).pitch_pitchBack hp hkept cut
  refine ⟨(congrArg Crst.step (State.crst_of_quiet hquiet) :), ?_, ?_, ?_, (congrArg FrontEnd.wake hfe :)⟩
  · rw [hpitch, hstate]; rfl
  · rw [hpitch, hmasked]
  · rw [State.mem_of_quiet hquiet]
    exact (s.withRegions r v).pitchBack_bytes hkept cut

/-! ### Units that answer none of their stops -/

theorem State.silence_hbms (silent : List (UnitId × List Nat)) : (s.silence silent).mem.hbms = s.mem.hbms := by
  refine foldl_keeps (fun t : State => t.mem.hbms) (fun _ _ => ?_) silent s
  rfl

theorem State.silence_fw (silent : List (UnitId × List Nat)) : (s.silence silent).fw = s.fw := by
  refine foldl_keeps State.fw (fun _ _ => ?_) silent s
  rfl

/-- A line that is made undefined has other bytes; bytes outside it stay (R465). -/
theorem State.undefine_bytes {b : Nat} (lines : List Nat) (h : b / 64 ∉ lines) :
    Tab.get 0 (s.undefine lines).mem.bytes b = Tab.get 0 s.mem.bytes b := by
  unfold State.undefine
  refine List.foldlRecOn (motive := fun r : Tab Byte × Nat => Tab.get 0 r.1 b = Tab.get 0 s.mem.bytes b) lines _ rfl fun r hr k hk => ?_
  have hne : b / 64 ≠ k := fun he => h (he ▸ hk)
  rw [Tab.get_setRange_ne _ _ (by rw [List.length_map, List.length_range]; omega), hr]

/-- Training that finds nothing hot and no pseudo-channel bad ends the chip reset, whatever units are silent (R465). -/
theorem State.hbmUp_of_silent (hstacks : ∀ k, k < 12 → (s.stack k).off = false ∧ (s.stack k).step < 3) (hspare : (s.comp 4).spare.st = .empty)
    {units : List UnitFinding} (hpch : units.filterMap UnitFinding.pch? = []) :
    s.hbmUp [] units [] = (s.silence (units.filterMap UnitFinding.silent?)).chipBack s.mem.pchCut := by
  generalize hv : s.silence (units.filterMap UnitFinding.silent?) = v
  have hcold : v.stacksUp [] = v := State.stacksUp_nil fun k hk => by
    rw [State.stack, ← hv, State.silence_hbms]; exact hstacks k hk
  have hspare' : (v.comp 4).spare.st ≠ .armed := by
    rw [State.comp, ← hv, State.silence_fw]; exact hspare ▸ nofun
  simp only [State.hbmUp, hv, if_neg hspare', hcold, State.pchsFail, hpch, List.foldl_nil]

/-! ### Whether the pitch is lost -/

theorem State.unitsOf_lt {p u : Nat} (h : u ∈ s.unitsOf p) : u < 24 := List.mem_range.1 (List.mem_filter.1 h).1

/-- Where every unit is in service, has answered and lost no pseudo-channel, only a pitch lost before is lost. -/
theorem State.pitchLost_of_whole {p : Nat} (hon : ∀ u, u < 24 → s.unitOff u = false) (hconfirmed : s.crst.unconfirmed = []) :
    s.pitchLost s.mem.pchCut p = (s.pitch p).lost := by
  have hunits : (s.unitsOf p).any (s.unitFails s.mem.pchCut) = false := List.any_eq_false.2 fun u hu => by
    simp [State.unitFails, hon u (s.unitsOf_lt hu), hconfirmed]
  rw [State.pitchLost, hunits, Bool.or_false]

/-- A pitch with a unit that did not answer is lost. -/
theorem State.pitchLost_of_unconfirmed {p u : Nat} (hu : u ∈ s.unitsOf p) (h : u ∈ s.crst.unconfirmed) (cut : Vector (BitVec 32) 24) :
    s.pitchLost cut p = true := by
  have hfails : s.unitFails cut u = true := by simp [State.unitFails, h]
  rw [State.pitchLost, List.any_eq_true.2 ⟨u, hu, hfails⟩, Bool.or_true]

end

end Sys2Proof.Machine

namespace Sys2Proof.Cert
open Sys2Proof.Machine

section
variable {s : State} {p : PitchId}

theorem exec_hbmTrainingDone_of_reset (hheld : s.crst.held = false) (hstep : s.crst.step = 6) (hot : List StackId) (units : List UnitFinding)
    (sts : List StallId) : exec (.hbmTrainingDone hot units sts) s = .next (s.hbmUp hot units sts) := by
  rw [exec_hbmTrainingDone, execHbmTrainingDone, hheld, hstep]; rfl

/-- Step 6 of a chip reset that finds nothing: the pitch runs unless it was lost before (R465, R466). -/
theorem gives_hbmTrainingDone_of_whole (hheld : s.crst.held = false) (hstep : s.crst.step = 6) (hperst : s.crst.perst = false)
    (hlive : s.crst.live = [p.val]) (hon : ∀ u, u < 24 → s.unitOff u = false) (hconfirmed : s.crst.unconfirmed = [])
    (hstacks : ∀ k, k < 12 → (s.stack k).off = false ∧ (s.stack k).step < 3) (hspare : (s.comp 4).spare.st = .empty)
    (hind : s.pair.state = .independent) (hkept : (s.pitch p).teardown = false) : Gives s (.hbmTrainingDone [] [] []) fun t =>
      t.crst.step = 0 ∧ (t.pitch p).state = (if (s.pitch p).lost = true then .failed else .running) ∧ (t.pitch p).masked = false ∧
        t.mem.bytes = s.mem.bytes ∧ t.fe.wake = true := by
  have hup : s.hbmUp [] [] [] = s.chipBack s.mem.pchCut := s.hbmUp_of_silent hstacks hspare rfl
  refine ⟨s.chipBack s.mem.pchCut, ?_, ?_⟩
  · rw [exec_hbmTrainingDone_of_reset hheld hstep, hup]
  · rw [← s.pitchLost_of_whole hon hconfirmed]
    exact s.chipBack_of_one p.isLt hlive hperst hind hkept _

/-- Step 6 of a chip reset that finds a unit of the pitch silent: the pitch has failed, and no byte changes outside the lines that the unit
had taken writes of or lost (R465, R466). -/
theorem gives_hbmTrainingDone_of_silent (hheld : s.crst.held = false) (hstep : s.crst.step = 6) (hperst : s.crst.perst = false)
    (hlive : s.crst.live = [p.val]) {u : UnitId} (hunit : u.val ∈ s.unitsOf p) (hind : s.pair.state = .independent)
    (hstacks : ∀ k, k < 12 → (s.stack k).off = false ∧ (s.stack k).step < 3) (hspare : (s.comp 4).spare.st = .empty)
    (hkept : (s.pitch p).teardown = false) (ls : List Nat) : Gives s (.hbmTrainingDone [] [.silent u ls] []) fun t =>
      t.crst.step = 0 ∧ (t.pitch p).state = .failed ∧
        ∀ b, b / 64 ∉ s.crst.touched.filter (fun k => k / 2 ^ 29 == u.val) ++ ls.map (fun k => u.val * 2 ^ 29 + k % 2 ^ 29) →
          Tab.get 0 t.mem.bytes b = Tab.get 0 s.mem.bytes b := by
  have hup : s.hbmUp [] [.silent u ls] [] = (s.silence [(u, ls)]).chipBack s.mem.pchCut := s.hbmUp_of_silent hstacks hspare rfl
  have hlost : (s.silence [(u, ls)]).pitchLost s.mem.pchCut p = true :=
    (s.silence [(u, ls)]).pitchLost_of_unconfirmed (u := u.val) hunit (List.mem_cons_self (l := s.crst.unconfirmed)) _
  obtain ⟨hover, hstate, -, hbytes, -⟩ := (s.silence [(u, ls)]).chipBack_of_one p.isLt hlive hperst hind hkept s.mem.pchCut
  refine ⟨(s.silence [(u, ls)]).chipBack s.mem.pchCut, ?_, hover, ?_, fun b hb => ?_⟩
  · rw [exec_hbmTrainingDone_of_reset hheld hstep, hup]
  · rw [hstate, hlost, if_pos rfl]
  · rw [hbytes]
    exact s.undefine_bytes _ hb

end

end Sys2Proof.Cert
end

section
/-! PROOF. What serving the requests of a pitch leaves: the record of a chip reset, the module, the lock, the chip epoch and the marks of every
pitch (R463). -/

namespace Sys2Proof.Machine

/-- The record of a chip reset, the module, the lock of the secure processor and the chip epoch. -/
def State.plant (s : State) : Crst × Module × Bool × BitVec 16 := (s.crst, s.md, s.sec.unlocked, s.net.epoch)

theorem State.plant_of_quiet {s t : State} (h : t.quiet = s.quiet) : t.plant = s.plant := (congrArg State.plant h :)

/-- The plant and the marks of every pitch. -/
def State.gate (s : State) : (Crst × Module × Bool × BitVec 16) × Vector PitchMark 24 := (s.plant, s.marks)

theorem State.gate_of_quiet {s t : State} (h : t.quiet = s.quiet) : t.gate = s.gate :=
  Prod.ext (State.plant_of_quiet h) (State.marks_of_fe (State.fe_of_quiet h))

section
variable (s : State)

/-! ### Launches and registers -/

@[simp] theorem State.plant_modLaunch (l : Nat) (f : Launch → Launch) : (s.modLaunch l f).plant = s.plant := by simp [State.plant]
@[simp] theorem State.plant_setFld (fn off hi lo v : Nat) : (s.setFld fn off hi lo v).plant = s.plant := by simp [State.plant, State.setFld]

@[simp] theorem State.plant_abortLaunch (l : Nat) (st : Status) (faulted : Bool) : (s.abortLaunch l st faulted).plant = s.plant := by
  unfold State.abortLaunch
  split
  · rfl
  next x hx =>
    refine ite_keeps State.plant rfl ((State.plant_modLaunch _ _ _).trans ?_)
    exact foldl_keeps State.plant (f := fun s y => s.stopOn l y) (fun _ _ => rfl) _ _

@[simp] theorem State.plant_writePsb (p : Nat) : (s.writePsb p).plant = s.plant :=
  ite_keeps State.plant rfl (State.plant_of_quiet (State.quiet_hostShow ..) :)

/-! ### Writes of memory -/

@[simp] theorem State.plant_keepImage (l a n : Nat) (pl : Place) : (s.keepImage l a n pl).plant = s.plant := by
  unfold State.keepImage
  split
  · rfl
  · exact ite_keeps State.plant rfl (State.plant_modLaunch _ _ _)

@[simp] theorem State.plant_digest (l : Nat) (rec : List Byte) : (s.digest l rec).plant = s.plant := by
  unfold State.digest
  repeat' split
  all_goals rfl

@[simp] theorem State.plant_writeCopy (p unit off : Nat) (who : Option FaultInfo) (bs : List Byte) (poison : Bool) :
    (s.writeCopy p unit off who bs poison).plant = s.plant := by
  have hline : (s.writeLine unit off bs poison).plant = s.plant :=
    ite_keeps State.plant rfl (ite_keeps State.plant rfl (ite_keeps State.plant rfl rfl))
  exact ite_keeps State.plant (State.plant_of_quiet (State.quiet_postFault ..)) hline

@[simp] theorem State.plant_writePlace (p a : Nat) (pl : Place) (who : Option FaultInfo) (bs : List Byte) (poison : Bool) :
    (s.writePlace p a pl who bs poison).plant = s.plant := by
  have hmirror (t : State) : (t.mirrorLine p a pl).plant = t.plant := State.plant_of_quiet (State.quiet_of_unsent (t.unsent_mirrorLine p a pl))
  unfold State.writePlace
  dsimp only
  repeat' split
  all_goals simp [hmirror]

@[simp] theorem State.plant_writeDev (p : Nat) (csr : Option Nat) (acc : Acc) (who : Option FaultInfo) (a : Nat) (bs : List Byte)
    (poison : Bool) : (s.writeDev p csr acc who a bs poison).plant = s.plant := by
  refine foldl_keeps (fun r : State × List Byte => r.1.plant) (fun r pc => ?_) _ (s, bs)
  dsimp only
  rw [State.writePiece]
  split
  · exact State.plant_writePlace _ _ _ _ _ _ _
  · rfl

@[simp] theorem State.plant_writeDump (p : Nat) (time : W64) (src : Nat) (seq : W32) (queue : Nat) (h : W32) (st : Status)
    (sections : List (List Byte)) : (s.writeDump p time src seq queue h st sections).plant = s.plant :=
  (State.plant_setFld _ _ _ _ _ _).trans (State.plant_writeDev _ _ _ _ _ _ _ _)

@[simp] theorem State.plant_retainLaunch (l : Nat) (time : W64) (src : Nat) (seq : W32) (st : Status) :
    (s.retainLaunch l time src seq st).plant = s.plant := by
  unfold State.retainLaunch
  split
  · rfl
  · exact ite_keeps State.plant ((State.plant_modLaunch _ _ _).trans (State.plant_writeDump _ _ _ _ _ _ _ _ _)) rfl

@[simp] theorem State.plant_contextFault (l src : Nat) (lstall : Option Nat) (st : Status) (ukind uindex syndrome addr : Nat) :
    (s.contextFault l src lstall st ukind uindex syndrome addr).plant = s.plant := by
  unfold State.contextFault State.contextFaultF
  split
  · rfl
  · refine ite_keeps State.plant (State.plant_of_quiet (State.quiet_postFault ..)) ?_
    exact (State.plant_of_quiet (State.quiet_postFault ..)).trans ((State.plant_abortLaunch _ _ _ _).trans (State.plant_retainLaunch _ _ _ _ _ _))

/-! ### Requests served -/

@[simp] theorem State.gate_keepImage (l a n : Nat) (pl : Place) : (s.keepImage l a n pl).gate = s.gate :=
  Prod.ext (s.plant_keepImage ..) (s.marks_keepImage ..)

@[simp] theorem State.gate_digest (l : Nat) (rec : List Byte) : (s.digest l rec).gate = s.gate :=
  Prod.ext (s.plant_digest ..) (s.marks_digest ..)

@[simp] theorem State.gate_writePlace (p a : Nat) (pl : Place) (who : Option FaultInfo) (bs : List Byte) (poison : Bool) :
    (s.writePlace p a pl who bs poison).gate = s.gate :=
  Prod.ext (s.plant_writePlace ..) (s.marks_writePlace ..)

@[simp] theorem State.gate_contextFault (l src : Nat) (lstall : Option Nat) (st : Status) (ukind uindex syndrome addr : Nat) :
    (s.contextFault l src lstall st ukind uindex syndrome addr).gate = s.gate :=
  Prod.ext (s.plant_contextFault ..) (s.marks_contextFault ..)

@[simp] theorem State.gate_postError (k src : Nat) (st : Status) (what detail : Nat) : (s.postError k src st what detail).gate = s.gate :=
  State.gate_of_quiet (State.quiet_postDbk ..)

@[simp] theorem State.gate_bufferLine (unit off : Nat) : (s.bufferLine unit off).gate = s.gate := rfl
@[simp] theorem State.gate_dropReq (id : Nat) : (s.dropReq id).gate = s.gate := rfl
@[simp] theorem State.gate_modReq (id : Nat) (f : MemReq → MemReq) : (s.modReq id f).gate = s.gate := rfl

@[simp] theorem State.gate_reclaim (p unit kind frame : Nat) : (s.reclaim p unit kind frame).gate = s.gate := by
  have hcount : (((s.afterStamp (srcMc unit)).afterSeq (srcMc unit)).modPitch p fun x =>
      { x with rclCount := x.rclCount + 1, psbDirty := true }).gate = s.gate :=
    Prod.ext rfl (State.marks_modPitch_of_mark _ p fun _ => by rfl)
  exact ite_keeps State.gate rfl (ite_keeps State.gate hcount ((State.gate_of_quiet (State.quiet_hostWrite ..)).trans hcount))

@[simp] theorem State.gate_reclaims (p : Nat) (cs : List (Nat × Int × Int × Nat)) : (s.reclaims p cs).gate = s.gate := by
  refine foldl_keeps State.gate (fun t c => ?_) _ _
  exact ite_keeps State.gate (t.gate_reclaim ..) rfl

@[simp] theorem State.gate_serveStore (r : MemReq) (bs : List Byte) (poison : Bool) : (s.serveStore r bs poison).gate = s.gate :=
  (State.gate_dropReq ..).trans (State.gate_writePlace ..)

@[simp] theorem State.gate_serveHost (r : MemReq) (bs : List Byte) (poison : Bool) : (s.serveHost r bs poison).gate = s.gate :=
  (State.gate_dropReq ..).trans ((State.gate_writePlace ..).trans (State.gate_of_quiet (State.quiet_of_unsent (State.unsent_pairCopy ..))))

@[simp] theorem State.gate_serveAtomic (r : MemReq) (op : AtomOp) (x y : W64) : (s.serveAtomic r op x y).gate = s.gate := by
  unfold State.serveAtomic
  cases r.client with
  | host fn => exact s.gate_dropReq r.id
  | ctx st c l =>
    dsimp only
    split
    · exact State.gate_contextFault ..
    · split
      all_goals simp

@[simp] theorem State.gate_settle (p : Nat) : (s.settle p).gate = s.gate := by
  refine foldl_keeps State.gate (fun t r => ?_) _ _
  refine ite_keeps State.gate rfl ?_
  cases r.kind with
  | store bs => exact t.gate_serveStore r bs false
  | atom op a x y => exact t.gate_serveAtomic r op x y
  | hostWrite bs po => exact t.gate_serveHost r bs po
  | load a => rfl
  | loadT a => rfl

/-- Where nothing waits to be served, nothing is. -/
theorem State.settle_of_none (h : s.mem.reqs = []) (p : Nat) : s.settle p = s := by rw [State.settle, h]; rfl

end

end Sys2Proof.Machine
end

section
/-! PROOF. How a chip reset begins where no dump is taken (R463, R464), and what PERST# does of it (R571). -/

namespace Sys2Proof.Machine

section
variable (s : State)

/-! ### The steps before the requests are served -/

/-- The record of a chip reset that begins and takes no dump. -/
def State.crstOpened (cause : Nat) (perst : Bool) (src : Nat) (seq : W32) : Crst :=
  { Crst.reset with step := 5, cause := cause, count := s.crst.count + 1, perst := perst, t0 := s.now, src := src, seq := seq,
                    epoch := s.net.epoch.toNat, live := s.livePitches }

/-- A chip reset has been recorded and reported: its record, the chip epoch, the audit record, the lock and the 0x12 records. -/
def State.chipTold (crst : Crst) : State :=
  let s1 := { s with crst := crst, net := { s.net with epoch := s.net.epoch + 1 } }
  (s1.afterNow.auditChip crst.cause).relock.postDbk (crst.live ++ [24]) .always srcGate 0x12 (resetPayload 8 false crst.count)

/-- A pitch that a chip reset takes: RESETTING, with its messages masked. -/
def Pitch.taken (x : Pitch) : Pitch := { x with state := .resetting, step := 0, masked := true }

/-- A chip reset takes a pitch and shows it in its status block. -/
def State.takePitch (p : Nat) : State := (s.modPitch p Pitch.taken).writePsb p

/-- Every live pitch has been taken, and the chips around have been told the new epoch. -/
def State.chipTaken (live : List Nat) : State :=
  let s3 := live.foldl State.takePitch s
  s3.sendEpoch s3.chipId s3.net.epoch.toNat s3.net.fresh none

/-- What step 5 clears of the compute die. -/
def State.chipCut (held : List Nat) : State :=
  { s with stalls := s.stalls.map Stall.logicReset,
           mem := { s.mem with atomicBuf := [], reqs := [], entUse := [], pwr := Vector.replicate 24 .selfRefresh },
           fe := s.fe.cleared, tokens := [], tokReqs := [],
           net := { s.net with colls := [], posted := [], sent := [], grants := [], credits := [], slows := [] },
           fw := { s.fw with port := none, stale := 0 },
           crst := { s.crst with unconfirmed := (List.range 24).filter (fun u => s.unitOff u), touched := held } }

/-- The lines that the controllers had written to no stack: the atomic buffers' and those of requests still to be served. -/
def State.heldLines : List Nat :=
  s.mem.atomicBuf ++ (s.mem.reqs.filter (fun r => r.served.isNone && r.kind.lane == .tc1)).map (fun r => memKey r.place.unit r.place.off / 64)

/-- The state in which the compute die is cleared: reported, every pitch taken, and what the controllers had accepted performed. -/
def State.chipSettled (crst : Crst) : State :=
  crst.live.foldl State.settle ((s.chipTold crst).chipTaken crst.live)

/-- How a chip reset that takes no dump begins. -/
theorem State.chipBegin_of_calm {cause : Nat} (h : cause ≠ 2) (perst : Bool) (src : Nat) (seq : W32) :
    s.chipBegin cause false perst src seq = (s.chipSettled (s.crstOpened cause perst src seq)).chipCut
      ((s.chipTold (s.crstOpened cause perst src seq)).chipTaken s.livePitches).heldLines := by
  unfold State.chipBegin
  simp only [h, decide_false, Bool.false_and, Bool.or_false, Bool.not_false, if_true]
  rfl

/-! ### What they leave -/

/-- The lock of the secure processor is set, and its consent has gone (R518). -/
def State.locked : State := { s with sec := { s.sec with unlocked := false, consent := none } }

theorem State.quiet_relock : s.relock.quiet = s.locked.quiet := by
  unfold State.relock
  dsimp only
  split
  · exact (congrArg State.locked (s.quiet_audit _) :)
  · rfl

theorem State.quiet_chipTold (crst : Crst) : (s.chipTold crst).quiet =
    (State.locked { s with crst := crst, net := { s.net with epoch := s.net.epoch + 1 } }).quiet := by
  refine (State.quiet_postDbk ..).trans ((State.quiet_relock _).trans ?_)
  exact (congrArg State.locked (State.quiet_audit ..) :)

@[simp] theorem State.plant_takePitch (p : Nat) : (s.takePitch p).plant = s.plant := State.plant_writePsb ..

theorem State.marks_takePitch (p : Nat) : (s.takePitch p).marks = s.marks.setIfInBounds p (s.pitch p).taken.mark :=
  (State.marks_writePsb ..).trans (s.marks_modPitch p _)

/-- A pitch is RESETTING with its messages masked. -/
def State.Taken (p : Nat) : Prop := (s.pitch p).state = .resetting ∧ (s.pitch p).masked = true

theorem State.Taken.of_mark {s t : State} {p : Nat} (h : s.Taken p) (hmark : (t.pitch p).mark = (s.pitch p).mark) : t.Taken p := by
  obtain ⟨hstate, hmasked⟩ := h
  exact ⟨(congrArg PitchMark.state hmark).trans hstate, (congrArg PitchMark.masked hmark).trans hmasked⟩

theorem State.Taken.of_marks {s t : State} {p : Nat} (h : s.Taken p) (hmarks : t.marks = s.marks) : t.Taken p :=
  h.of_mark (by rw [State.mark_pitch, hmarks, State.mark_pitch])

/-- The pitch that is taken is taken, and those that were before. -/
theorem State.taken_takePitch {p q : Nat} (hq : q < 24) (h : p = q ∨ s.Taken p) : (s.takePitch q).Taken p := by
  obtain ⟨hself, hothers⟩ := State.mark_pitch_of_marks hq (s.marks_takePitch q)
  by_cases hpq : p = q
  · subst hpq
    exact ⟨congrArg PitchMark.state hself, congrArg PitchMark.masked hself⟩
  · exact (h.resolve_left hpq).of_mark (hothers p hpq)

/-- Every pitch of a list is taken, and those that were before. -/
theorem State.taken_foldl {p : Nat} (live : List Nat) (hlive : ∀ q ∈ live, q < 24) (h : p ∈ live ∨ s.Taken p) :
    (live.foldl State.takePitch s).Taken p := by
  induction live generalizing s with
  | nil => exact h.resolve_left List.not_mem_nil
  | cons q live ih =>
    obtain ⟨hq, hrest⟩ := List.forall_mem_cons.1 hlive
    refine ih (s.takePitch q) hrest ?_
    obtain hp | hp := h
    · obtain rfl | hp := List.mem_cons.1 hp
      · exact .inr (s.taken_takePitch hq (.inl rfl))
      · exact .inl hp
    · exact .inr (s.taken_takePitch hq (.inr hp))

theorem State.gate_chipTaken (live : List Nat) : (s.chipTaken live).gate = (live.foldl State.takePitch s).gate :=
  State.gate_of_quiet (State.quiet_of_unsent (State.unsent_sendEpoch ..))

/-! ### The state that step 5 clears -/

/-- It stands as the reset recorded it, whatever the requests served. -/
theorem State.plant_chipSettled (crst : Crst) : (s.chipSettled crst).plant = (crst, s.md, false, s.net.epoch + 1) := by
  have hsettled : (s.chipSettled crst).plant = ((s.chipTold crst).chipTaken crst.live).plant :=
    congrArg Prod.fst (foldl_keeps State.gate (fun t p => t.gate_settle p) crst.live _)
  have htaken : ((s.chipTold crst).chipTaken crst.live).plant = (s.chipTold crst).plant :=
    (congrArg Prod.fst (State.gate_chipTaken _ _)).trans (foldl_keeps State.plant (fun t p => t.plant_takePitch p) _ _)
  rw [hsettled, htaken, State.plant_of_quiet (s.quiet_chipTold crst)]
  rfl

theorem State.taken_chipSettled {p : Nat} {crst : Crst} (hlive : ∀ q ∈ crst.live, q < 24) (hp : p ∈ crst.live) :
    (s.chipSettled crst).Taken p := by
  have hsettled : (s.chipSettled crst).marks = ((s.chipTold crst).chipTaken crst.live).marks :=
    congrArg Prod.snd (foldl_keeps State.gate (fun t p => t.gate_settle p) crst.live _)
  exact ((s.chipTold crst).taken_foldl crst.live hlive (.inl hp)).of_marks (hsettled.trans (congrArg Prod.snd (State.gate_chipTaken _ _)))

theorem State.marks_chipCut (held : List Nat) : (s.chipCut held).marks = s.marks := by
  rw [State.marks, State.marks]
  exact Vector.map_map.trans rfl

/-! ### The interrupt vectors, where no request waits -/

@[simp] theorem State.hostShow_msi (fn a : Nat) (bs : List Byte) : (s.hostShow fn a bs).msi = s.msi :=
  ite_keeps State.msi rfl (ite_keeps State.msi rfl rfl)

@[simp] theorem State.audit_msi (r : AuditRec) : (s.audit r).msi = s.msi := by
  unfold State.audit
  dsimp only
  split <;> rfl

@[simp] theorem State.relock_msi : s.relock.msi = s.msi := ite_keeps State.msi (s.audit_msi _) rfl

@[simp] theorem State.putDbk_msi (k : Nat) (r : DbkRec) : (s.putDbk k r).msi = s.msi :=
  ite_keeps State.msi rfl (ite_keeps State.msi rfl (ite_keeps State.msi rfl (ite_keeps State.msi rfl rfl)))

@[simp] theorem State.postDbk_msi (ks : List Nat) (c : DbkClass) (src type : Nat) (payload : List Byte) :
    (s.postDbk ks c src type payload).msi = s.msi :=
  ite_keeps State.msi rfl (foldl_keeps State.msi (fun s k => s.putDbk_msi k _) _ _)

@[simp] theorem State.takePitch_msi (p : Nat) : (s.takePitch p).msi = s.msi := ite_keeps State.msi rfl (State.hostShow_msi ..)

theorem State.takePitch_mem (p : Nat) : (s.takePitch p).mem = s.mem := State.writePsb_mem ..

/-- Where no request waits, serving them changes nothing, and no vector changes. -/
theorem State.chipSettled_msi (h : s.mem.reqs = []) (crst : Crst) : (s.chipSettled crst).msi = s.msi := by
  have htold : (s.chipTold crst).mem = s.mem := (State.mem_of_quiet (s.quiet_chipTold crst) :)
  have htaken : ((s.chipTold crst).chipTaken crst.live).mem = (s.chipTold crst).mem :=
    (State.mem_of_quiet (State.quiet_of_unsent (State.unsent_sendEpoch ..))).trans
      (foldl_keeps State.mem (fun t p => t.takePitch_mem p) _ _)
  have hidle : s.chipSettled crst = (s.chipTold crst).chipTaken crst.live :=
    List.foldlRecOn (motive := (· = (s.chipTold crst).chipTaken crst.live)) _ _ rfl fun t ht p _ => by
      subst ht
      exact State.settle_of_none _ (by rw [htaken, htold, h]) p
  rw [hidle]
  calc ((s.chipTold crst).chipTaken crst.live).msi
      = (crst.live.foldl State.takePitch (s.chipTold crst)).msi := State.msi_of_unsent (State.unsent_sendEpoch ..)
    _ = (s.chipTold crst).msi := foldl_keeps State.msi (fun t p => t.takePitch_msi p) _ _
    _ = s.msi := (State.postDbk_msi ..).trans ((State.relock_msi _).trans (State.audit_msi ..))

end

end Sys2Proof.Machine

namespace Sys2Proof.Cert
open Sys2Proof.Machine

section
variable {s : State}

/-- A chip reset that takes no dump begins (R463, Table 18-16). -/
theorem chipBegins_of_calm {cause : Nat} (h : cause ≠ 2) (perst : Bool) (src : Nat) (seq : W32) :
    ChipBegins s (s.chipBegin cause false perst src seq) cause ∧ (s.chipBegin cause false perst src seq).md = s.md ∧
      (s.chipBegin cause false perst src seq).crst.perst = perst ∧
      (s.mem.reqs = [] → (s.chipBegin cause false perst src seq).msi = s.msi) := by
  rw [s.chipBegin_of_calm h]
  generalize hcrst : s.crstOpened cause perst src seq = crst
  generalize (State.heldLines _) = held
  have hplant := s.plant_chipSettled crst
  have hlive : crst.live = s.livePitches := hcrst ▸ rfl
  have hlt (q : Nat) (hq : q ∈ crst.live) : q < 24 := by
    rw [hlive] at hq
    exact List.mem_range.1 (List.mem_filter.1 hq).1
  obtain ⟨hrec, hmd, hlock, hepoch⟩ : (s.chipSettled crst).crst = crst ∧ (s.chipSettled crst).md = s.md ∧
      (s.chipSettled crst).sec.unlocked = false ∧ (s.chipSettled crst).net.epoch = s.net.epoch + 1 := by
    simpa only [State.plant, Prod.mk.injEq] using hplant
  have htaken (p : Nat) (hp : p ∈ s.livePitches) : ((s.chipSettled crst).chipCut held).Taken p :=
    (s.taken_chipSettled hlt (hlive ▸ hp)).of_marks (State.marks_chipCut _ held)
  have hcause : crst.cause = cause := hcrst ▸ rfl
  have hcount : crst.count = s.crst.count + 1 := hcrst ▸ rfl
  have hperst : crst.perst = perst := hcrst ▸ rfl
  refine ⟨⟨?_, ?_, hepoch, ?_, htaken, rfl, rfl, rfl, rfl, rfl, rfl, hlock⟩, hmd, ?_, fun hreqs => s.chipSettled_msi hreqs crst⟩
  · exact (congrArg Crst.cause hrec).trans hcause
  · exact (congrArg Crst.count hrec).trans hcount
  · exact (congrArg Crst.live hrec).trans hlive
  · exact (congrArg Crst.perst hrec).trans hperst

/-- PERST# of a package that has started begins a chip reset (R571). -/
theorem gives_perstAssert_of_started (hstarted : s.md.started = true) (hstep : s.crst.step = 0) (hheld : s.crst.held = false) :
    Gives s .perstAssert fun t => ChipBegins s t 3 ∧ t.md.perst = true ∧ t.md.hostUp = false ∧ t.md.numVfs = 0 ∧
      (s.mem.reqs = [] → t.msi = []) ∧ t.crst.perst = true := by
  generalize hw : s.hostReset.modMd (fun m => { m with perst := true }) = w
  have hwstep : w.crst.step = 0 := hw ▸ hstep
  have hwheld : w.crst.held = false := hw ▸ hheld
  obtain ⟨hbegins, hmd, hperst, hmsi⟩ := chipBegins_of_calm (s := w) (cause := 3) (by decide) true srcGate (w.seqOf srcGate)
  refine ⟨w.chipBegin 3 false true srcGate (w.seqOf srcGate), ?_, ?_⟩
  · rw [exec_perstAssert, execPerstAssert, hstarted, hw]
    simp only [if_true, State.chipReset, hwheld, hwstep, Bool.false_eq_true, if_false]
  · dsimp only
    rw [hmd, hperst]
    subst hw
    exact ⟨hbegins, rfl, rfl, rfl, hmsi, rfl⟩

/-- PERST# before the package has started only resets the host's side (R571). -/
theorem exec_perstAssert_of_not_started (h : s.md.started = false) : exec .perstAssert s =
    .next { s with msi := [], md := { s.md with perst := true, hostUp := false, numVfs := 0, fnMask := 0 } } := by
  rw [exec_perstAssert, execPerstAssert, h]
  rfl

theorem exec_supplyGood_of_supplied (h : s.md.supply = true) (active other : Bool) : exec (.supplyGood active other) s = .next s := by
  rw [exec_supplyGood, execSupplyGood, h]
  rfl

/-- A component with an image that passes has its turn before training is done; one with none leaves start-up where it stands (R531). -/
theorem exec_componentVerified_of_untrained {c : FwId} (h : Turn s c) (hspare : (s.comp (c.val + 1)).spare.st = .empty) (other : Bool) :
    (s.md.trained = false → exec (.componentVerified c true other) s = .next { s with md := { s.md with verified := s.md.verified ++ [c.val + 1] } }) ∧
      exec (.componentVerified c false other) s = .next s := by
  have hne : (s.comp (c.val + 1)).spare.st ≠ .trial := hspare ▸ nofun
  refine ⟨fun htrained => ?_, exec_componentVerified_of_turn h false other (State.fwLoad_of_none hspare other)⟩
  rw [exec_componentVerified_of_turn h true other (State.fwLoad_of_active hne other), if_pos rfl]
  exact congrArg Host.Outcome.next (State.startTry_of_untrained htrained)

/-- Settles O47: each part is a step of start-up, of PERST# or of the end of a chip reset, proved above. -/
theorem startUp : Obligations.StartUp := by
  unfold Obligations.StartUp
  intro s c b other p u ls _
  refine ⟨?supplied, ?gateFails, ?again, ?verified, ?started, ?trained, ?whole, ?silent, ?perst, ?early, ?deassert⟩
  case supplied => exact fun hdown hspare hlow => gives_supplyGood_of_active hdown hspare hlow other
  case gateFails => exact fun hdown hspare => gives_supplyGood_of_none hdown hspare other
  case again => exact fun h => exec_supplyGood_of_supplied h b other
  case verified => exact fun hstarting horder hgate hspare => exec_componentVerified_of_untrained ⟨hstarting, horder, hgate⟩ hspare other
  case started =>
    intro hstarting horder hfront hspare htrained
    exact gives_componentVerified_of_front ⟨hstarting, horder, by omega⟩ hfront hspare htrained other
  case trained => exact exec_hbmTrainingDone_of_starting
  case whole =>
    intro hheld hstep hperst hlive hon hconfirmed hstacks hspare hind hkept
    exact gives_hbmTrainingDone_of_whole hheld hstep hperst hlive hon hconfirmed hstacks hspare hind hkept
  case silent =>
    intro hheld hstep hperst hlive hunit hind hstacks hspare hkept
    exact gives_hbmTrainingDone_of_silent hheld hstep hperst hlive hunit hind hstacks hspare hkept ls
  case perst => exact fun hstarted hstep hheld _ => gives_perstAssert_of_started hstarted hstep hheld
  case early => exact exec_perstAssert_of_not_started
  case deassert => rfl

end

end Sys2Proof.Cert
end

section
/-! PROOF. What the callers' work leaves of a state: one rule for each operation that completing descriptors, scanning doorbell entries and
ending a command of the front end are made of. -/

namespace Sys2Proof.Machine

/-! ### A package in no pair -/

section
variable {s : State} (h : s.pair.state = .independent)
include h

theorem State.shadow_of_independent : s.shadow = false := by rw [State.shadow, h]; rfl
theorem State.pairIdle_of_independent : s.pairIdle = false := by rw [State.pairIdle, State.shadow_of_independent h, h]; rfl

/-- It holds nothing that it writes for a function back. -/
theorem State.hostShow_of_independent (fn a : Nat) (bs : List Byte) :
    s.hostShow fn a bs = (s.hostAsk (some fn)).emit (.hostWrite (BitVec.ofNat 64 a) bs) := by
  rw [State.hostShow, State.leads_of_independent h, State.hostWrite, State.shadow_of_independent h]
  rfl

/-- It has nothing to tell a partner. -/
theorem State.pairShow_of_independent (hheld : s.pair.heldOut = []) :
    s.pairShow = s.modPair fun p => { p with heldOut := [], heldTold := 0 } := by
  have hsync : s.pairSync = s := by rw [State.pairSync, State.leads_of_independent h]; rfl
  rw [State.pairShow, hsync, State.pairFlush, State.pairDrained, State.leads_of_independent h, hheld]
  rfl

end

/-! ### All but the queues, the slots and the wake -/

/-- A state without the queues and slots of the front end and its wake: what a descriptor that starts or completes leaves. -/
def State.offQueues (s : State) : State :=
  { s with fe := { s.fe with queues := [], slots := Vector.replicate 64 Slot.free, wake := false } }

section
variable (s : State)

@[simp] theorem State.offQueues_modSlot (n : Nat) (f : Slot → Slot) : (s.modSlot n f).offQueues = s.offQueues := rfl
@[simp] theorem State.offQueues_wakeFront : s.wakeFront.offQueues = s.offQueues := rfl

@[simp] theorem State.offQueues_modQueue (q : Nat) (f : Queue → Queue) : (s.modQueue q f).offQueues = s.offQueues := by
  unfold State.modQueue
  split <;> rfl

@[simp] theorem State.offQueues_startDesc (q : Nat) (h : W32) : (s.startDesc q h).offQueues = s.offQueues := by
  unfold State.startDesc
  dsimp only
  split <;> simp

/-- A descriptor that became no launch. -/
@[simp] theorem State.offQueues_descDone (q : Nat) (h : W32) : (s.descDone q h none).offQueues = s.offQueues := by
  refine Eq.trans ?_ (s.offQueues_modQueue q fun x => x.complete h)
  unfold State.descDone
  dsimp only
  generalize s.modQueue q (fun x => x.complete h) = t
  split
  all_goals rfl

@[simp] theorem State.offQueues_finishDesc (q : Nat) (h : W32) (st : Status) (cflags : Nat) (info : W64) :
    (s.finishDesc q h st cflags info none).offQueues = s.offQueues := by
  unfold State.finishDesc
  refine ite_keeps State.offQueues rfl ?_
  split
  · rfl
  split
  · rfl
  exact ite_keeps State.offQueues rfl (ite_keeps State.offQueues (s.offQueues_descDone q h) (by simp))

@[simp] theorem State.offQueues_endHead (q : Nat) (h : W32) (st : Status) (info : W64) : (s.endHead q h st info).offQueues = s.offQueues :=
  (State.offQueues_finishDesc ..).trans (s.offQueues_startDesc q h)

end

/-! ### Memory, stalls, registers and the state of the callers -/

/-- What no doorbell entry and no completion record touches. -/
def State.ground (s : State) : Mem × Vector Stall 48 × Tab W64 × FeState := (s.mem, s.stalls, s.regs, s.fe.st)

theorem State.ground_of_quiet {s t : State} (h : t.quiet = s.quiet) : t.ground = s.ground := (congrArg State.ground h :)

section
variable (s : State)

@[simp] theorem State.ground_hostAsk (fn : Option Nat) : (s.hostAsk fn).ground = s.ground := rfl
@[simp] theorem State.ground_wakeFront : s.wakeFront.ground = s.ground := rfl
@[simp] theorem State.ground_noteNew (g : Nat) : (s.noteNew g).ground = s.ground := rfl

@[simp] theorem State.ground_modQueue (q : Nat) (f : Queue → Queue) : (s.modQueue q f).ground = s.ground := by
  unfold State.modQueue
  split <;> rfl

@[simp] theorem State.ground_descDone (q : Nat) (h : W32) (launch : Option Nat) : (s.descDone q h launch).ground = s.ground := by
  refine Eq.trans ?_ (s.ground_modQueue q fun x => x.complete h)
  unfold State.descDone
  dsimp only
  generalize s.modQueue q (fun x => x.complete h) = t
  repeat' split
  all_goals rfl

@[simp] theorem State.ground_finishDesc (q : Nat) (h : W32) (st : Status) (cflags : Nat) (info : W64) (launch : Option Nat) :
    (s.finishDesc q h st cflags info launch).ground = s.ground := by
  unfold State.finishDesc
  refine ite_keeps State.ground rfl ?_
  split
  · rfl
  split
  · rfl
  exact ite_keeps State.ground rfl (ite_keeps State.ground (s.ground_descDone q h launch) (by simp))

@[simp] theorem State.ground_stopSq (q : Nat) : (s.stopSq q).ground = s.ground := s.ground_modQueue q _

@[simp] theorem State.ground_postDbk (ks : List Nat) (c : DbkClass) (src type : Nat) (payload : List Byte) :
    (s.postDbk ks c src type payload).ground = s.ground := State.ground_of_quiet (State.quiet_postDbk ..)

@[simp] theorem State.ground_doorbellError (q fn : Nat) : (s.doorbellError q fn).ground = s.ground := State.ground_postDbk ..

@[simp] theorem State.ground_stopBound (q : Nat) (x : Queue) : (s.stopBound q x).ground = s.ground := by
  refine ite_keeps State.ground (s.ground_stopSq q) ((foldl_keeps State.ground (fun s d => ?_) _ _).trans (s.ground_stopSq q))
  exact ite_keeps State.ground rfl (s.ground_finishDesc ..)

@[simp] theorem State.ground_stopCq (q : Nat) : (s.stopCq q).ground = s.ground := by
  unfold State.stopCq
  split
  · rfl
  next x _ =>
    refine (foldl_keeps State.ground (fun s (e : Nat × Queue) => ite_keeps State.ground (s.ground_stopBound e.1 e.2) rfl) _ _).trans ?_
    refine (foldl_keeps State.ground (fun s (r : CRec) => s.ground_descDone r.sq r.hseq r.launch) _ _).trans ?_
    rw [State.ground_doorbellError, State.ground_modQueue]

@[simp] theorem State.ground_sendMsi (fn v : Nat) : (s.sendMsi fn v).ground = s.ground :=
  ite_keeps State.ground rfl (State.ground_of_quiet (State.quiet_emitAfter ..))

@[simp] theorem State.ground_raiseCause (fn v : Nat) : (s.raiseCause fn v).ground = s.ground :=
  ite_keeps State.ground rfl (ite_keeps State.ground rfl (ite_keeps State.ground (State.ground_sendMsi ..) rfl))

@[simp] theorem State.ground_writeBlock (q : Nat) : (s.writeBlock q).ground = s.ground := by
  unfold State.writeBlock
  split
  · rfl
  next x _ => exact (State.ground_of_quiet ((State.quiet_hostShow ..).trans (s.quiet_afterStamp (srcQueue q))) :)

end

/-! ### Memory, stalls, launches and fences -/

/-- What the end of a command of the front end leaves of what its row has done. -/
def State.works (s : State) : Mem × Vector Stall 48 × Tab Launch × Tab Fence := (s.mem, s.stalls, s.fe.launches, s.fe.fences)

theorem State.works_of_quiet {s t : State} (h : t.quiet = s.quiet) : t.works = s.works := (congrArg State.works h :)
theorem State.works_of_offQueues {s t : State} (h : t.offQueues = s.offQueues) : t.works = s.works := (congrArg State.works h :)

section
variable (s : State)

@[simp] theorem State.works_dropQueue (q : Nat) : (s.dropQueue q).works = s.works := rfl
@[simp] theorem State.works_modPair (f : Pair → Pair) : (s.modPair f).works = s.works := rfl

@[simp] theorem State.works_setFld (fn off hi lo v : Nat) : (s.setFld fn off hi lo v).works = s.works := by simp [State.works, State.setFld]

@[simp] theorem State.works_modQueue (q : Nat) (f : Queue → Queue) : (s.modQueue q f).works = s.works :=
  State.works_of_offQueues (s.offQueues_modQueue q f)

@[simp] theorem State.works_finishDesc (q : Nat) (h : W32) (st : Status) (cflags : Nat) (info : W64) :
    (s.finishDesc q h st cflags info none).works = s.works := State.works_of_offQueues (s.offQueues_finishDesc q h st cflags info)

@[simp] theorem State.works_writeBlock (q : Nat) : (s.writeBlock q).works = s.works := by
  unfold State.writeBlock
  split
  · rfl
  next x _ => exact (State.works_of_quiet ((State.quiet_hostShow ..).trans (s.quiet_afterStamp (srcQueue q))) :)

@[simp] theorem State.works_closeQueue (q : Nat) : (s.closeQueue q).works = s.works := by
  unfold State.closeQueue
  split
  · rfl
  split
  · refine ite_keeps State.works ?_ rfl
    rw [State.works_setFld, State.aqOff, State.works_setFld, State.works_dropQueue, State.works_dropQueue]
  · exact ite_keeps State.works rfl (by simp)

@[simp] theorem State.works_mirTidy : s.mirTidy.works = s.works := by
  refine foldl_keeps State.works (fun s e => ?_) _ _
  refine ite_keeps State.works ?_ rfl
  split
  · exact ite_keeps State.works (by simp) rfl
  · rfl

/-- Only the slots and the order in which SQs wait for them change when slots are put in order. -/
theorem State.tidy_eq : ∃ v qs, s.tidy = { s with fe := { s.fe with slots := v, readyQ := qs } } := by
  unfold State.tidy
  dsimp only
  generalize hw : List.foldl _ s (List.range 64) = w
  have hslots : ∃ v, w = { s with fe := { s.fe with slots := v } } := by
    subst hw
    refine List.foldlRecOn (motive := fun t : State => ∃ v, t = { s with fe := { s.fe with slots := v } }) _ _ ⟨s.fe.slots, rfl⟩ ?_
    rintro t ⟨v, rfl⟩ n -
    split
    · split
      · exact ⟨_, rfl⟩
      · exact ⟨_, rfl⟩
    · exact ⟨_, rfl⟩
  obtain ⟨v, rfl⟩ := hslots
  exact ⟨v, _, rfl⟩

@[simp] theorem State.works_tidy : s.tidy.works = s.works := by
  obtain ⟨v, qs, h⟩ := s.tidy_eq
  rw [h]; rfl

@[simp] theorem State.works_issueReads : s.issueReads.works = s.works := ite_keeps State.works rfl rfl

@[simp] theorem State.works_pairTell (rs : List PairRec) : (s.pairTell rs).works = s.works :=
  (State.works_of_quiet (State.quiet_of_unsent (State.unsent_pairSend ..))).trans rfl

@[simp] theorem State.works_pairShow : s.pairShow.works = s.works := by
  have hsync : s.pairSync.works = s.works := ite_keeps State.works rfl (ite_keeps State.works rfl (State.works_pairTell ..))
  refine Eq.trans (ite_keeps State.works ((State.works_modPair _ _).trans ?_) rfl) hsync
  exact foldl_keeps State.works (fun t o => (rfl : (t.emit o).works = t.works)) _ _

@[simp] theorem State.works_feDone : s.feDone.works = s.works := by
  rw [State.feDone, State.works_pairShow, State.works_issueReads, State.works_tidy, State.works_mirTidy]
  exact foldl_keeps State.works (fun s q => s.works_closeQueue q) _ _

end

end Sys2Proof.Machine
end

section
/-! PROOF. A head that starts and completes: its queue, and the record that waits in its CQ (R326, R338, R339, R367). -/

namespace Sys2Proof.Machine

/-- A change of the descriptors of one HSEQ, as that HSEQ then reads. -/
theorem Queue.desc?_modDesc {x : Queue} {h : W32} {d : Desc} (hd : x.desc? h = some d) {f : Desc → Desc} (hf : ∀ e, (f e).hseq = e.hseq) :
    (x.modDesc h f).desc? h = some (f d) := by
  have hkey : ((fun e : Desc => e.hseq == h) ∘ fun e => if e.hseq = h then f e else e) = fun e => e.hseq == h := by
    funext e
    dsimp only [Function.comp_apply]
    split
    · rw [hf]
    · rfl
  have hh : d.hseq = h := eq_of_beq (List.find?_some hd :)
  unfold Queue.desc? at hd
  rw [Queue.desc?, Queue.modDesc, List.find?_map, hkey, hd, Option.map_some, if_pos hh]

section
variable {s : State}

theorem State.queue?_startDesc {q : Nat} {x : Queue} (hx : s.queue? q = some x) (h : W32) : (s.startDesc q h).queue? q =
    some { x.modDesc h (fun d => { d with started := true, blocked := false, slot := s.slotIn q }) with started := h, dirty := true } := by
  unfold State.startDesc
  dsimp only
  split
  all_goals exact s.queue?_modQueue hx _

/-- A descriptor whose record is not withheld: it has finished, and its record waits in its CQ (R338, R339). -/
theorem State.finishDesc_of_record {q : Nat} {x c : Queue} {h : W32} {d : Desc} {st : Status} (hshadow : s.shadow = false)
    (hx : s.queue? q = some x) (hd : x.desc? h = some d) (hfin : d.finished = false) (hc : s.queue? x.cq = some c) (hrun : c.state ≠ .stopped)
    (hquiet : ¬(d.quiet = true ∧ st = .ok)) (cflags : Nat) (info : W64) (launch : Option Nat) :
    s.finishDesc q h st cflags info launch =
      ((s.modQueue q fun x => x.modDesc h fun d => { d with started := true, blocked := false, finished := true }).modQueue x.cq
        fun c => { c with waiting := c.waiting ++ [⟨q, h, st.code, cflags, info, launch⟩] }).wakeFront := by
  have hstop : (c.state == QState.stopped || d.quiet && st == .ok) = false := by
    rw [Bool.or_eq_false_iff, beq_eq_false_iff_ne]
    exact ⟨hrun, Bool.eq_false_iff.2 fun h => hquiet (by simpa using h)⟩
  unfold State.finishDesc
  simp only [hshadow, hx, hd, hfin, hc, hstop, Bool.false_eq_true, if_false]

/-- A head that starts and completes with a record: what is then read of its queue and of its CQ. -/
theorem State.queues_endHead_of_record {q : Nat} {x c : Queue} {d : Desc} {st : Status} (hind : s.pair.state = .independent)
    (hx : s.queue? q = some x) (hd : x.desc? d.hseq = some d) (hfin : d.finished = false) (hc : s.queue? x.cq = some c)
    (hrun : c.state ≠ .stopped) (hcq : x.cq ≠ q) (hquiet : ¬(d.quiet = true ∧ st = .ok)) (info : W64) :
    ((s.endHead q d.hseq st info).queue? x.cq).map (·.waiting) = some (c.waiting ++ [⟨q, d.hseq, st.code, 0, info, none⟩]) ∧
      ((s.endHead q d.hseq st info).queue? q).map (fun y => (y.started, y.newest, y.nextIdx, y.doneCount)) =
        some (d.hseq, x.newest, x.nextIdx, x.doneCount) := by
  have hshadow : (s.startDesc q d.hseq).shadow = false :=
    (congrArg State.shadow (s.offQueues_startDesc q d.hseq) :).trans (State.shadow_of_independent hind)
  have hstarted := State.queue?_startDesc hx d.hseq
  have hc' : (s.startDesc q d.hseq).queue? x.cq = some c := (s.queue?_startDesc_ne hcq d.hseq).trans hc
  rw [State.endHead, State.finishDesc_of_record hshadow hstarted (Queue.desc?_modDesc hd fun _ => rfl) hfin hc' hrun hquiet]
  generalize s.startDesc q d.hseq = t at hstarted hc'
  constructor
  · show ((State.modQueue _ x.cq _).queue? x.cq).map _ = _
    rw [State.queue?_modQueue _ ((t.queue?_modQueue_ne hcq _).trans hc')]
    rfl
  · show ((State.modQueue _ x.cq _).queue? q).map _ = _
    rw [State.queue?_modQueue_ne _ hcq.symm, t.queue?_modQueue hstarted]
    rfl

end

end Sys2Proof.Machine

namespace Sys2Proof.Cert
open Sys2Proof.Machine

/-- A head that fails a check of R326 completes with that check's status, whatever row comes to it. -/
theorem headRow_of_fails {s : State} {q : Nat} {x : Queue} {d : Desc} {st : Status} (hhead : s.headAt q = some (x, d))
    (hfails : s.headFails x d = some st) (hown : s.installerDesc x d = false) (op : Nat) (act : State → Queue → Desc → State) :
    s.headRow q op act = (s.endHead q d.hseq st 0).feDone := by
  rw [State.headRow, hhead]
  simp only [hfails, hown, Bool.false_eq_true, if_false]

/-- Settles O27: the record is that of `finishDesc_of_record`, and all but the queues, the slots and the wake is as it was. -/
theorem headCompletes : Obligations.HeadCompletes := by
  unfold Obligations.HeadCompletes
  intro s q x c d st info hx hd hfin hc hrun hcq hind
  refine ⟨fun hquiet => ?_, fun hhead hfails hown => ?_⟩
  · obtain ⟨hwaits, hcounts⟩ := State.queues_endHead_of_record hind hx hd hfin hc hrun hcq hquiet info
    have hrest := s.offQueues_endHead q d.hseq st info
    exact ⟨hwaits, hcounts, (congrArg State.mem hrest :), (congrArg State.stalls hrest :), (congrArg State.regs hrest :),
      (congrArg State.out hrest :), (congrArg (fun t : State => t.fe.launches) hrest :), (congrArg (fun t : State => t.fe.fences) hrest :)⟩
  · rw [EndsHead, FrontEndGives, exec_descNop, execDescNop, State.startRow, headRow_of_fails hhead hfails hown]

end Sys2Proof.Cert
end

section
/-! PROOF. The doorbell entry of one queue (R321, R573, Table 13-1). -/

namespace Sys2Proof.Machine

/-! ### A queue stopped for a bad entry -/

/-- Queue `q` stands in STOPPED for BAD_DESCRIPTOR. -/
def State.isStopped (s : State) (q : Nat) : Prop := (s.queue? q).map (fun y => (y.state, y.reason)) = some (.stopped, 0x11)

section
variable {s : State} {q : Nat}

theorem State.isStopped_of_queues {t : State} (h : t.fe.queues = s.fe.queues) (hs : s.isStopped q) : t.isStopped q := by
  rwa [State.isStopped, State.queue?, h]

theorem State.isStopped_ite {c : Prop} [Decidable c] {a b : State} (ha : a.isStopped q) (hb : b.isStopped q) :
    (if c then a else b).isStopped q := by
  split
  · exact ha
  · exact hb

/-- A change that sets no stopped queue going leaves it stopped. -/
theorem State.isStopped_modQueue (h : s.isStopped q) (m : Nat) {f : Queue → Queue}
    (hf : ∀ x, (x.state, x.reason) = (QState.stopped, 0x11) → ((f x).state, (f x).reason) = (QState.stopped, 0x11)) :
    (s.modQueue m f).isStopped q := by
  by_cases hm : q = m
  · subst hm
    obtain ⟨x, hx, hstop⟩ := Option.map_eq_some_iff.1 h
    rw [State.isStopped, s.queue?_modQueue hx]
    exact congrArg some (hf x hstop)
  · rwa [State.isStopped, s.queue?_modQueue_ne hm]

theorem State.isStopped_descDone (h : s.isStopped q) (m : Nat) (hseq : W32) (launch : Option Nat) : (s.descDone m hseq launch).isStopped q :=
  State.isStopped_of_queues (s.descDone_queues m hseq launch) (State.isStopped_modQueue h m fun _ => id)

theorem State.isStopped_finishDesc (h : s.isStopped q) (m : Nat) (hseq : W32) (st : Status) (cflags : Nat) (info : W64) (launch : Option Nat) :
    (s.finishDesc m hseq st cflags info launch).isStopped q := by
  have hwaits (x : Queue) (r : CRec) : ((s.modQueue m fun x => x.modDesc hseq fun d =>
      { d with started := true, blocked := false, finished := true }).modQueue x.cq
        fun c => { c with waiting := c.waiting ++ [r] }).wakeFront.isStopped q := by
    refine State.isStopped_of_queues rfl (State.isStopped_modQueue (State.isStopped_modQueue h m ?_) x.cq ?_)
    all_goals exact fun _ => id
  unfold State.finishDesc
  refine State.isStopped_ite h ?_
  split
  · exact h
  split
  · exact h
  exact State.isStopped_ite h (State.isStopped_ite (State.isStopped_descDone h m hseq launch) (hwaits _ _))

theorem State.isStopped_stopSq (h : s.isStopped q) (m : Nat) : (s.stopSq m).isStopped q := State.isStopped_modQueue h m fun _ _ => rfl

theorem State.isStopped_stopBound (h : s.isStopped q) (m : Nat) (x : Queue) : (s.stopBound m x).isStopped q := by
  refine State.isStopped_ite (State.isStopped_stopSq h m) ?_
  refine List.foldlRecOn (motive := fun t : State => t.isStopped q) _ _ (State.isStopped_stopSq h m) fun t ht d _ => ?_
  exact State.isStopped_ite ht (State.isStopped_finishDesc ht ..)

theorem State.isStopped_doorbellError (h : s.isStopped q) (m fn : Nat) : (s.doorbellError m fn).isStopped q :=
  State.isStopped_of_queues (congrArg FrontEnd.queues (State.postDbk_fe ..)) h

/-- An SQ that stops has nothing to fetch. -/
theorem State.queue?_stopSq {x : Queue} (hx : s.queue? q = some x) :
    (s.stopSq q).queue? q = some { x with state := .stopped, reason := Status.badDescriptor.code, toFetch := 0, dirty := true } :=
  s.queue?_modQueue hx _

/-- A CQ that stops stays so through the stopping of its SQs (R573). -/
theorem State.isStopped_stopCq {x : Queue} (hx : s.queue? q = some x) : (s.stopCq q).isStopped q := by
  have hself : (s.modQueue q fun x => { x with state := .stopped, reason := Status.badDescriptor.code, waiting := [] }).isStopped q := by
    rw [State.isStopped, s.queue?_modQueue hx]; rfl
  unfold State.stopCq
  rw [hx]
  refine List.foldlRecOn (motive := fun t : State => t.isStopped q) _ _ ?_ fun t ht e _ =>
    State.isStopped_ite (State.isStopped_stopBound ht ..) ht
  refine List.foldlRecOn (motive := fun t : State => t.isStopped q) _ _ ?_ fun t ht r _ => State.isStopped_descDone ht ..
  exact State.isStopped_doorbellError hself ..

end

/-! ### What an entry says of its queue -/

/-- The queue's block shows the entry as read, where the callers scan the queue (Table 13-13). -/
def State.seeEntry (s : State) (q : Nat) (e : W64) (x : Queue) : State :=
  if x.dbSeen = e || !s.queueOpen x then s else s.modQueue q fun x => { x with dbSeen := e }

/-- How many numbers past `last` an entry's sequence is. -/
def entryAhead (e : W64) (last : W32) : Nat := (BitVec.ofNat 32 (e.toNat % 2 ^ 32) - last).toNat

/-- Whether an entry's index stands `n` slots past `idx` in a queue's ring. -/
def Queue.entryMeets (x : Queue) (e : W64) (idx n : Nat) : Prop :=
  (bits e.toNat 47 32 + 2 ^ x.log2 - idx % 2 ^ x.log2) % 2 ^ x.log2 = n % 2 ^ x.log2

section
variable {s : State} {q : Nat} {x : Queue} (hx : s.queue? q = some x) (e : W64)
include hx

/-- Of the queue, only what its block shows. -/
theorem State.queue?_seeEntry : ∃ d b, (s.seeEntry q e x).queue? q = some { x with dbSeen := d, dirty := b } ∧ (s.queueOpen x = true → d = e) := by
  unfold State.seeEntry
  by_cases hseen : x.dbSeen = e
  · refine ⟨x.dbSeen, x.dirty, ?_, fun _ => hseen⟩
    rw [if_pos (by simp [hseen])]
    exact hx
  · cases hopen : s.queueOpen x with
    | false => exact ⟨x.dbSeen, x.dirty, by simp [hx], nofun⟩
    | true => exact ⟨e, true, by simp [hseen, s.queue?_modQueue hx], fun _ => rfl⟩

/-! ### An SQ that the callers scan -/

section
variable (hsq : x.isCq = false) (hactive : x.state = .active) (hopen : s.queueOpen x = true) (hclosing : x.closing = none)
include hsq hactive hopen hclosing

/-- The entry tells of descriptors that the ring can hold (R321). -/
theorem State.scanEntry_of_told (hspare : bits e.toNat 63 48 = 0) (hnew : entryAhead e x.newest ≠ 0) (hroom : entryAhead e x.newest ≤ 2 ^ x.log2)
    (hidx : x.entryMeets e x.nextIdx (entryAhead e x.newest)) : s.scanEntry q e =
      ((s.seeEntry q e x).modQueue q fun y => { y with toFetch := entryAhead e x.newest }).modFe fun f => { f with foundNew := true } := by
  unfold entryAhead Queue.entryMeets at *
  unfold State.scanEntry State.seeEntry
  simp only [hx, hsq, hactive, hopen, hclosing, hspare, hnew, hroom, hidx, Bool.false_eq_true, if_false, ne_eq, not_true_eq_false,
    decide_false, Bool.not_true, Option.isSome_none, Bool.or_false, and_self, if_true, State.modFe]

/-- The entry tells of nothing new, which the callers note where they had something to fetch. -/
theorem State.scanEntry_of_none (hspare : bits e.toNat 63 48 = 0) (hnone : entryAhead e x.newest = 0) : s.scanEntry q e =
    if x.toFetch = 0 then s.seeEntry q e x else (s.seeEntry q e x).modQueue q fun y => { y with toFetch := 0 } := by
  unfold entryAhead at *
  unfold State.scanEntry State.seeEntry
  simp only [hx, hsq, hactive, hopen, hclosing, hspare, hnone, Bool.false_eq_true, if_false, ne_eq, not_true_eq_false,
    decide_false, Bool.not_true, Option.isSome_none, Bool.or_false, if_true]

/-- The entry is refused (R4, R321). -/
theorem State.scanEntry_of_refused (hbad : bits e.toNat 63 48 ≠ 0 ∨ entryAhead e x.newest ≠ 0 ∧
    ¬(entryAhead e x.newest ≤ 2 ^ x.log2 ∧ x.entryMeets e x.nextIdx (entryAhead e x.newest))) :
    s.scanEntry q e = ((s.seeEntry q e x).stopSq q).doorbellError q x.fn := by
  unfold entryAhead Queue.entryMeets at *
  unfold State.scanEntry State.seeEntry
  simp only [hx, hsq, hactive, hopen, hclosing, Bool.false_eq_true, if_false, ne_eq, not_true_eq_false,
    decide_false, Bool.not_true, Option.isSome_none, Bool.or_false]
  rcases hbad with hspare | ⟨hnew, hmisfit⟩
  · rw [if_pos hspare]
  · rw [if_neg hnew, if_neg hmisfit, ite_self]

end

/-! ### A CQ -/

section
variable (hcq : x.isCq = true) (hactive : x.state = .active)
include hcq hactive

/-- The entry tells of records consumed that have been written (R573). -/
theorem State.scanEntry_of_consumed (hspare : bits e.toNat 63 48 = 0) (hnew : entryAhead e x.consumed ≠ 0)
    (hwritten : entryAhead e x.consumed ≤ (x.newest - x.consumed).toNat) (hidx : x.entryMeets e x.headIdx (entryAhead e x.consumed)) :
    s.scanEntry q e = ((s.seeEntry q e x).modQueue q fun y => { y with
      consumed := BitVec.ofNat 32 (e.toNat % 2 ^ 32), headIdx := bits e.toNat 47 32 % 2 ^ x.log2 }).noteNew (q / 16) := by
  unfold entryAhead Queue.entryMeets at *
  unfold State.scanEntry State.seeEntry
  simp only [hx, hcq, hactive, hspare, hnew, hwritten, hidx, if_true, reduceCtorEq, if_false, ne_eq, not_true_eq_false, and_self]

/-- A reserved bit is set (R4). -/
theorem State.scanEntry_of_spare (hspare : bits e.toNat 63 48 ≠ 0) : s.scanEntry q e = (s.seeEntry q e x).stopCq q := by
  unfold State.scanEntry State.seeEntry
  simp only [hx, hcq, hactive, if_true, reduceCtorEq, if_false, if_pos hspare]

end
end

/-- No entry touches memory, a stall, a register or the state of the callers. -/
@[simp] theorem State.ground_scanEntry (s : State) (q : Nat) (e : W64) : (s.scanEntry q e).ground = s.ground := by
  have hfound (t : State) : ({ t with fe := { t.fe with foundNew := true } } : State).ground = t.ground := rfl
  unfold State.scanEntry
  split
  · rfl
  next x _ =>
    have hsee : (s.seeEntry q e x).ground = s.ground := ite_keeps State.ground rfl (s.ground_modQueue q _)
    unfold State.seeEntry at hsee
    dsimp only
    generalize (if (decide (x.dbSeen = e) || !s.queueOpen x) = true then s else s.modQueue q fun x => { x with dbSeen := e }) = t at hsee ⊢
    repeat' split
    all_goals simp only [hsee, hfound, State.ground_modQueue, State.ground_noteNew, State.ground_stopCq, State.ground_stopSq,
      State.ground_doorbellError]

end Sys2Proof.Machine

namespace Sys2Proof.Cert
open Sys2Proof.Machine

/-- Settles O25: by whether the queue is an SQ or a CQ and by what its entry says, each with the rule of its case. -/
theorem doorbellEntries : Obligations.DoorbellEntries := by
  unfold Obligations.DoorbellEntries
  intro s q e x hx
  obtain ⟨d, b, hseen, hd⟩ := State.queue?_seeEntry hx e
  have hground := s.ground_scanEntry q e
  refine ⟨?sq, ?cq, ?spare, (congrArg (·.1) hground :), (congrArg (·.2.1) hground :), (congrArg (·.2.2.1) hground :)⟩
  case sq =>
    intro hspare hsq hactive hopen hclosing
    obtain rfl := hd hopen
    refine ⟨fun hnew hroom hidx => ?_, fun hnew hmisfit => ?_, fun hnone => ?_⟩
    · rw [State.scanEntry_of_told hx _ hsq hactive hopen hclosing hspare hnew hroom hidx]
      refine ⟨?_, rfl⟩
      show ((State.modQueue _ q _).queue? q).map _ = _
      rw [State.queue?_modQueue _ hseen, ← hactive]
      rfl
    · rw [State.scanEntry_of_refused hx _ hsq hactive hopen hclosing (.inr ⟨hnew, hmisfit⟩), State.queue?, State.doorbellError,
        State.postError, State.postDbk_fe, ← State.queue?, State.queue?_stopSq hseen]
      rfl
    · rw [State.scanEntry_of_none hx _ hsq hactive hopen hclosing hspare hnone]
      split
      next hidle =>
        rw [hseen, ← hactive, ← hidle]
        rfl
      next =>
        rw [State.queue?_modQueue _ hseen, ← hactive]
        rfl
  case cq =>
    intro hspare hcq hactive _ hnew hwritten hidx
    rw [State.scanEntry_of_consumed hx _ hcq hactive hspare hnew hwritten hidx]
    show ((State.modQueue _ q _).queue? q).map _ = _
    rw [State.queue?_modQueue _ hseen, ← hactive]
    rfl
  case spare =>
    intro hspare hactive hscanned
    cases hcq : x.isCq with
    | false =>
      obtain ⟨hopen, hclosing⟩ := hscanned hcq
      rw [State.scanEntry_of_refused hx _ hcq hactive hopen hclosing (.inl hspare)]
      refine State.isStopped_doorbellError ?_ q x.fn
      rw [State.isStopped, State.queue?_stopSq hseen]
      rfl
    | true =>
      rw [State.scanEntry_of_spare hx _ hcq hactive hspare]
      exact State.isStopped_stopCq hseen

end Sys2Proof.Cert
end

section
/-! PROOF. Descriptors accepted, completion records and status blocks (R322, R338, R339, R342, R343, R573). -/

namespace Sys2Proof.Machine

/-! ### What has been sent stays sent -/

section
variable (s : State)

theorem State.out_descDone (q : Nat) (h : W32) (launch : Option Nat) : (s.descDone q h launch).out = s.out := by
  refine Eq.trans ?_ (s.modQueue_out q fun x => x.complete h)
  unfold State.descDone
  dsimp only
  generalize s.modQueue q (fun x => x.complete h) = t
  repeat' split
  all_goals rfl

theorem State.out_prefix_hostShow (fn a : Nat) (bs : List Byte) : s.out <+: (s.hostShow fn a bs).out := by
  unfold State.hostShow State.hostWrite
  split
  · exact List.prefix_rfl
  · split
    · exact List.prefix_rfl
    · exact List.prefix_append _ _

theorem State.out_prefix_writeBlock (q : Nat) : s.out <+: (s.writeBlock q).out := by
  unfold State.writeBlock
  split
  · exact List.prefix_rfl
  · exact State.out_prefix_hostShow (s.afterStamp (srcQueue q)) _ _ _

theorem State.out_prefix_sendMsi (fn v : Nat) : s.out <+: (s.sendMsi fn v).out := by
  unfold State.sendMsi State.emitAfter
  dsimp only
  split
  · exact List.prefix_rfl
  · split
    · exact List.prefix_append _ _
    · exact List.prefix_rfl

theorem State.out_prefix_raiseCause (fn v : Nat) : s.out <+: (s.raiseCause fn v).out := by
  unfold State.raiseCause
  dsimp only
  split
  · exact List.prefix_rfl
  · split
    · exact List.prefix_rfl
    · split
      · exact State.out_prefix_sendMsi (s.afterNow.modMsi fn v _) fn v
      · exact List.prefix_rfl

@[simp] theorem State.sendMsi_fe (fn v : Nat) : (s.sendMsi fn v).fe = s.fe := ite_keeps State.fe rfl (State.emitAfter_fe _ _)

@[simp] theorem State.raiseCause_fe (fn v : Nat) : (s.raiseCause fn v).fe = s.fe :=
  ite_keeps State.fe rfl (ite_keeps State.fe rfl (ite_keeps State.fe (State.sendMsi_fe _ fn v) rfl))

theorem State.queue?_descDone_ne {q m : Nat} (h : m ≠ q) (hseq : W32) (launch : Option Nat) :
    (s.descDone q hseq launch).queue? m = s.queue? m := by
  rw [State.queue?, s.descDone_queues q hseq launch]
  exact s.queue?_modQueue_ne h _

end

/-! ### A completion record written -/

section
variable {s : State} {q : Nat} {x : Queue} {r : CRec}

theorem State.queue?_of_recordDue (h : s.recordDue q = some (x, r)) : s.queue? q = some x := by
  unfold State.recordDue at h
  split at h
  · cases h
  next y hy =>
    split at h
    · cases h
    · split at h
      · cases h
      · cases h
        exact hy

/-- A record sent to the next slot of its CQ, one DSEQ on (R339). -/
def State.sendRecord (s : State) (q : Nat) (x : Queue) (r : CRec) : State :=
  ((s.afterStamp (srcQueue q)).hostShow x.fn (x.base.toNat + 32 * x.nextIdx) (r.bytes (s.stamp (srcQueue q)) (srcQueue q) (x.newest + 1))).modQueue q
    fun y => { y with newest := x.newest + 1, nextIdx := (y.nextIdx + 1) % 2 ^ y.log2, waiting := y.waiting.drop 1, records := y.records + 1 }

theorem State.queue?_sendRecord (hx : s.queue? q = some x) : (s.sendRecord q x r).queue? q =
    some { x with newest := x.newest + 1, nextIdx := (x.nextIdx + 1) % 2 ^ x.log2, waiting := x.waiting.drop 1, records := x.records + 1,
                  dirty := true } := by
  refine State.queue?_modQueue _ ?_ _
  rw [State.queue?, State.hostShow_fe]
  exact hx

/-- What follows a record that is sent: its descriptor is done, and the status blocks that count it are written (R338, R342). -/
def State.countRecord (s : State) (q : Nat) (r : CRec) : State := ((s.descDone r.sq r.hseq r.launch).writeBlock r.sq).writeBlock q

theorem State.writeRecord_of_due (h : s.recordDue q = some (x, r)) : s.writeRecord q =
    if x.vector = 0xFF then (s.sendRecord q x r).countRecord q r else ((s.sendRecord q x r).countRecord q r).raiseCause x.fn x.vector := by
  rw [State.writeRecord, h]
  rfl

theorem State.ground_writeRecord (h : s.recordDue q = some (x, r)) : (s.writeRecord q).ground = s.ground := by
  have hshow := State.ground_of_quiet ((State.quiet_hostShow ..).trans (s.quiet_afterStamp (srcQueue q)) :
    ((s.afterStamp (srcQueue q)).hostShow x.fn (x.base.toNat + 32 * x.nextIdx)
      (r.bytes (s.stamp (srcQueue q)) (srcQueue q) (x.newest + 1))).quiet = s.quiet)
  have hcount : ((s.sendRecord q x r).countRecord q r).ground = s.ground := by
    rw [State.countRecord, State.ground_writeBlock, State.ground_writeBlock, State.ground_descDone, State.sendRecord, State.ground_modQueue, hshow]
  rw [State.writeRecord_of_due h]
  exact ite_keeps State.ground hcount ((State.ground_raiseCause ..).trans hcount)

/-- The record is sent first. -/
theorem State.out_writeRecord (h : s.recordDue q = some (x, r)) (hind : s.pair.state = .independent) :
    s.out ++ [.hostWrite (BitVec.ofNat 64 (x.base.toNat + 32 * x.nextIdx)) (r.bytes (s.stamp (srcQueue q)) (srcQueue q) (x.newest + 1))] <+:
      (s.writeRecord q).out := by
  have hsent : (s.sendRecord q x r).out =
      s.out ++ [.hostWrite (BitVec.ofNat 64 (x.base.toNat + 32 * x.nextIdx)) (r.bytes (s.stamp (srcQueue q)) (srcQueue q) (x.newest + 1))] := by
    rw [State.sendRecord, State.modQueue_out, State.hostShow_of_independent (s := s.afterStamp (srcQueue q)) hind]
    rfl
  have hcount : (s.sendRecord q x r).out <+: ((s.sendRecord q x r).countRecord q r).out := by
    rw [← State.out_descDone _ r.sq r.hseq r.launch]
    exact (State.out_prefix_writeBlock _ r.sq).trans (State.out_prefix_writeBlock _ q)
  rw [← hsent, State.writeRecord_of_due h]
  split
  · exact hcount
  · exact hcount.trans (State.out_prefix_raiseCause _ x.fn x.vector)

/-- A CQ whose record names another queue: what is then read of it. -/
theorem State.queue?_writeRecord (h : s.recordDue q = some (x, r)) (hsq : r.sq ≠ q) :
    ((s.writeRecord q).queue? q).map (fun y => (y.newest, y.nextIdx, y.waiting)) =
      some (x.newest + 1, (x.nextIdx + 1) % 2 ^ x.log2, x.waiting.drop 1) := by
  have hsent : (s.sendRecord q x r).queue? q = _ := State.queue?_sendRecord (State.queue?_of_recordDue h)
  have hcount : (((s.sendRecord q x r).countRecord q r).queue? q).map (fun y => (y.newest, y.nextIdx, y.waiting)) =
      some (x.newest + 1, (x.nextIdx + 1) % 2 ^ x.log2, x.waiting.drop 1) := by
    rw [State.countRecord, State.queue?_writeBlock _ ((State.queue?_writeBlock_ne _ hsq.symm).trans
      ((State.queue?_descDone_ne _ hsq.symm r.hseq r.launch).trans hsent))]
    rfl
  rw [State.writeRecord_of_due h]
  split
  · exact hcount
  · rwa [State.queue?, State.raiseCause_fe]

end

/-! ### Blocks written by a package in no pair -/

section
variable {s : State} (hind : s.pair.state = .independent)
include hind

theorem State.out_writeBlock_of_independent {q : Nat} {x : Queue} (hx : s.queue? q = some x) :
    (s.writeBlock q).out = s.out ++ [.hostWrite x.status (x.blockBytes q (s.stamp (srcQueue q)) (x.sseq + 1))] := by
  unfold State.writeBlock
  rw [hx]
  dsimp only
  rw [State.hostShow_of_independent (s := s.afterStamp (srcQueue q)) hind, BitVec.ofNat_toNat, BitVec.setWidth_eq]
  rfl

theorem State.pair_writeBlock_of_independent (q : Nat) : (s.writeBlock q).pair = s.pair := by
  unfold State.writeBlock
  split
  · rfl
  · dsimp only
    rw [State.hostShow_of_independent (s := s.afterStamp (srcQueue q)) hind]
    rfl

/-- A pitch block that is on, written (R342). -/
theorem State.writePsb_of_independent {p : Nat} (hon : s.psbOn p = true) : s.writePsb p =
    (((s.afterStamp (srcPitch p)).hostAsk (some (s.fnOf p))).emit (.hostWrite (BitVec.ofNat 64 (s.psbAddr p))
      (s.psbBytes p (s.stamp (srcPitch p)) (s.watermarkNow p) ((s.pitch p).sseq + 1)))).modPitch p
        fun x => { x with sseq := (s.pitch p).sseq + 1, watermark := s.watermarkNow p, psbDirty := false } := by
  rw [State.writePsb, hon]
  dsimp only
  rw [State.hostShow_of_independent (s := s.afterStamp (srcPitch p)) hind]
  rfl

end

/-! ### A descriptor accepted -/

/-- A slot with the HSEQ that comes next, where the queue takes it (R322). -/
theorem State.accept_of_next {s : State} {q : Nat} {x : Queue} {b : List Byte} (hx : s.queue? q = some x) (htold : 0 < x.toFetch)
    (hroom : (x.descs.filter fun d => !d.started).length < 64) (hseq : fieldAt b 4 4 = (x.newest + 1).toNat) : s.accept q [b] =
      ((s.modQueue q fun y => { y with
        newest := x.newest + 1, nextIdx := (y.nextIdx + 1) % 2 ^ y.log2, toFetch := y.toFetch - 1,
        descs := y.descs ++ [Cert.fetched (x.newest + 1) b] }).postDbk [s.fnDbk x.fn] .fetch (srcQueue q) 0x01
          (leBytes 4 (x.newest + 1).toNat ++ leBytes 1 (Cert.fetched (x.newest + 1) b).op)) := by
  have hfn (f : Queue → Queue) : (s.modQueue q f).fnDbk x.fn = s.fnDbk x.fn := by
    simp [State.fnDbk, State.pitchOfFn, State.pf0, State.fld, State.raw]
  simp only [State.accept, hx, hseq, hfn, Nat.ne_of_gt htold, Nat.not_le.2 hroom, decide_false, Bool.or_self, Bool.false_eq_true, if_false,
    ne_eq, not_true_eq_false]
  rfl

end Sys2Proof.Machine

namespace Sys2Proof.Cert
open Sys2Proof.Machine

section
variable {s : State} {q : QueueId} {x : Queue}

/-- A descriptor accepted from the slots that arrive (R322). -/
theorem gives_descriptorFetch {b : List Byte} (hx : s.queue? q = some x) (hawake : s.awake = true) (hsq : x.isCq = false)
    (hactive : x.state = .active) (hopen : s.queueOpen x = true) (htold : 0 < x.toFetch)
    (hroom : (x.descs.filter fun d => !d.started).length < 64) (hseq : fieldAt b 4 4 = (x.newest + 1).toNat) :
    Gives s (.descriptorFetch q [b]) fun t => ∃ u : State, t = u.feDone ∧
      u.queue? q = some { x with newest := x.newest + 1, nextIdx := (x.nextIdx + 1) % 2 ^ x.log2, toFetch := x.toFetch - 1,
                                 descs := x.descs ++ [fetched (x.newest + 1) b], dirty := true } ∧
      (∀ k, k ≠ q.val → u.queue? k = s.queue? k) ∧ u.fe.foundNew = true ∧ u.mem = s.mem ∧ u.stalls = s.stalls ∧ u.regs = s.regs := by
  have hask : (s.hostAsk (some x.fn)).queue? q = some x := hx
  have haccept := State.accept_of_next hask htold hroom hseq
  refine ⟨(((s.hostAsk (some x.fn)).accept q [b]).noteNew (q.val / 16)).feDone, ?_, _, rfl, ?_, fun k hk => ?_, rfl, ?_⟩
  · rw [exec_descriptorFetch, execDescriptorFetch, State.fetchReturn, hx]
    simp [hawake, hsq, hactive, hopen, htold]
  · rw [haccept]
    show (State.postDbk _ _ _ _ _ _).queue? q = _
    rw [State.queue?, State.postDbk_fe]
    exact State.queue?_modQueue _ hask _
  · rw [haccept]
    show (State.postDbk _ _ _ _ _ _).queue? k = _
    rw [State.queue?, State.postDbk_fe]
    exact State.queue?_modQueue_ne _ hk _
  · have hground : (((s.hostAsk (some x.fn)).accept q [b]).noteNew (q.val / 16)).ground = s.ground := by
      rw [State.ground_noteNew, haccept, State.ground_postDbk, State.ground_modQueue, State.ground_hostAsk]
    exact ⟨(congrArg (·.1) hground :), (congrArg (·.2.1) hground :), (congrArg (·.2.2.1) hground :)⟩

/-- A completion record written (R338, R339). -/
theorem gives_completionRecordWrite {r : CRec} (hdue : s.recordDue q = some (x, r)) (hind : s.pair.state = .independent) (hsq : r.sq ≠ q) :
    Gives s (.completionRecordWrite q) fun t => ∃ u : State, t = u.feDone ∧
      (∃ post, u.out = s.out ++ .hostWrite (BitVec.ofNat 64 (x.base.toNat + 32 * x.nextIdx))
        (r.bytes (s.stamp (srcQueue q)) (srcQueue q) (x.newest + 1)) :: post) ∧
      (u.queue? q).map (fun y => (y.newest, y.nextIdx, y.waiting)) =
        some (x.newest + 1, (x.nextIdx + 1) % 2 ^ x.log2, x.waiting.drop 1) ∧ u.mem = s.mem ∧ u.stalls = s.stalls ∧ u.regs = s.regs := by
  have hground := State.ground_writeRecord hdue
  obtain ⟨post, hpost⟩ := State.out_writeRecord hdue hind
  refine ⟨(s.writeRecord q).feDone, ?_, _, rfl, ⟨post, ?_⟩, State.queue?_writeRecord hdue hsq,
    (congrArg (·.1) hground :), (congrArg (·.2.1) hground :), (congrArg (·.2.2.1) hground :)⟩
  · rw [exec_completionRecordWrite, execCompletionRecordWrite, hdue, Option.isSome_some, if_pos rfl]
  · rw [← hpost, List.append_assoc, List.singleton_append]

/-- A status block that is due, written (R342, R343). -/
theorem gives_statusBlockWrite (hx : s.queue? q = some x) (hdirty : x.dirty = true) (hdie : s.dieDown = false)
    (hind : s.pair.state = .independent) (hheld : s.pair.heldOut = []) :
    Gives s (.statusBlockWrite (.queue q)) fun t =>
      t.out = s.out ++ [.hostWrite x.status (x.blockBytes q (s.stamp (srcQueue q)) (x.sseq + 1))] ∧
      t.queue? q = some { x with sseq := x.sseq + 1, dirty := false } ∧ (∀ k, k ≠ q.val → t.queue? k = s.queue? k) ∧
      t.mem = s.mem ∧ t.stalls = s.stalls ∧ t.regs = s.regs := by
  have hrun : exec (.statusBlockWrite (.queue q)) s = .next (s.writeBlock q).pairShow := by
    rw [exec_statusBlockWrite, execStatusBlockWrite]
    simp [hx, hdirty, hdie, State.pairIdle_of_independent hind]
  have hpair := State.pair_writeBlock_of_independent hind q.val
  have hout := State.out_writeBlock_of_independent hind hx
  have hself := s.queue?_writeBlock hx
  have hothers (k : Nat) (hk : k ≠ q.val) := s.queue?_writeBlock_ne hk
  have hground := s.ground_writeBlock q
  generalize s.writeBlock q = w at *
  refine ⟨w.pairShow, hrun, ?_⟩
  rw [State.pairShow_of_independent (hpair ▸ hind) (hpair ▸ hheld)]
  exact ⟨hout, hself, hothers, congrArg (·.1) hground, congrArg (·.2.1) hground, congrArg (·.2.2.1) hground⟩

/-- The pitch block of an idle pitch, written again (R238). -/
theorem gives_watermarkRefresh {p : PitchId} (hon : (s.pitch p).state ≠ .off) (hdie : s.dieDown = false) (hind : s.pair.state = .independent)
    (hheld : s.pair.heldOut = []) (hidle : s.inFlight p = []) (hpsb : s.psbOn p = true) : Gives s (.watermarkRefresh p) fun t => ∃ bs,
      t.out = s.out ++ [.hostWrite (BitVec.ofNat 64 (s.psbAddr p)) bs] ∧
      t.pitch p = { s.pitch p with sseq := (s.pitch p).sseq + 1, watermark := s.watermarkNow p, psbDirty := false } ∧
      (∀ k, k ≠ p.val → t.pitch k = s.pitch k) ∧ t.mem = s.mem ∧ t.stalls = s.stalls ∧ t.regs = s.regs := by
  have hrun : exec (.watermarkRefresh p) s = .next (s.writePsb p).pairShow := by
    rw [exec_watermarkRefresh, execWatermarkRefresh]
    simp [hon, hdie, hidle, State.pairIdle_of_independent hind]
  rw [State.writePsb_of_independent hind hpsb] at hrun
  generalize s.psbBytes p (s.stamp (srcPitch p)) (s.watermarkNow p) ((s.pitch p).sseq + 1) = bs at hrun
  refine ⟨_, hrun, bs, ?_⟩
  rw [State.pairShow_of_independent (by exact hind) (by exact hheld)]
  have hpair (t : State) (f : Pair → Pair) (k : Nat) : (t.modPair f).pitch k = t.pitch k := rfl
  refine ⟨rfl, ?_, fun k hk => ?_, rfl, rfl, rfl⟩
  · rw [hpair, State.pitch_modPitch _ _ p.isLt]
    rfl
  · rw [hpair, State.pitch_modPitch_ne _ hk]
    rfl

end

/-- The first part of O26, each event with its rule. -/
theorem queueEvents : QueueEvents := by
  unfold QueueEvents
  intro s q p x b e r
  refine ⟨?fetch, ?poll, ?record, ?block, ?watermark⟩
  case fetch => exact gives_descriptorFetch
  case poll =>
    intro hx hawake hcq hwaits
    rw [FrontEndGives, exec_cqDoorbellPoll, execCqDoorbellPoll, hx]
    simp [hawake, hcq, hwaits]
  case record => exact gives_completionRecordWrite
  case block => exact gives_statusBlockWrite
  case watermark => exact gives_watermarkRefresh

end Sys2Proof.Cert
end

section
/-! PROOF. Service slots given and taken back (R356, R357, R359 to R361), and the timers that wake callers that sleep (R324). -/

namespace Sys2Proof.Machine

section
variable (s : State)

/-- A slot of the 64, changed. -/
theorem State.slotOf_modSlot {n : Nat} (h : n < 64) (f : Slot → Slot) : (s.modSlot n f).slotOf n = f (s.slotOf n) := by
  simp [State.modSlot, State.slotOf, h]

theorem State.slotOf_modSlot_ne {n k : Nat} (h : k ≠ n) (f : Slot → Slot) : (s.modSlot n f).slotOf k = s.slotOf k := by
  simp only [State.modSlot, State.slotOf]
  rw [Vector.getElem?_setIfInBounds_ne (Ne.symm h)]

/-- A state whose slots are in order differs from what it was in its front end alone. -/
theorem State.tidy_withFe : { s.tidy with fe := s.fe } = s := by
  obtain ⟨v, qs, h⟩ := s.tidy_eq
  rw [h]

/-- The same with a reading of the clock. -/
theorem State.tidy_withClk : { s.tidy with fe := s.fe, clk := s.clk, free := s.free } = s := by
  obtain ⟨v, qs, h⟩ := s.tidy_eq
  rw [h]

/-- A timer that is due acts where the callers run, and wakes them where they sleep. -/
theorem State.onTimer_of_awake (h : s.awake = true) (act : State) : s.onTimer true act = act := by
  have hrun : s.dieDown = false ∧ s.pairIdle = false := by
    simp only [State.awake, Bool.and_eq_true, Bool.not_eq_true'] at h
    exact ⟨h.1.2, h.2⟩
  obtain ⟨hdie, hpair⟩ := hrun
  rw [State.onTimer, hdie, hpair, h]
  rfl

theorem State.onTimer_of_asleep (h : s.fe.st = .asleep) (hdie : s.dieDown = false) (hpair : s.pairIdle = false) (act : State) :
    s.onTimer true act = s.wakeFront := by
  have hawake : s.awake = false := by rw [State.awake, h]; rfl
  rw [State.onTimer, hdie, hpair, hawake]
  rfl

end

end Sys2Proof.Machine

namespace Sys2Proof.Cert
open Sys2Proof.Machine

/-- In `s` SQ `q` of pitch `p` is blocked in slot `n` and has to give it up (R359). -/
def BlockedIn (s : State) (n : SlotId) (q : QueueId) (p : Nat) : Prop :=
  s.slotOf n = { s.slotOf n with queue := some q.val, pitch := p } ∧ s.slotsGiven p ≤ (s.slotsHeld p).length ∧
    s.nextResident p ≠ none ∧ (s.lowestSlot p Cond.isBlocked).map (·.1) = some n.val

/-- In `s` the time of SQ `q` of pitch `p` in slot `n` has run out (R361). -/
def DueIn (s : State) (n : SlotId) (q : QueueId) (p : Nat) : Prop :=
  s.slotOf n = { s.slotOf n with queue := some q.val, pitch := p } ∧ s.rotates p = true ∧
    (s.slotOf n).since.toNat + max 50000 (ceilDiv (s.slice p * (s.eff q + 1) * 1000) 8) ≤ s.now.toNat

section
variable {s : State} {n : SlotId} {q : QueueId} {p : Nat}

theorem exec_blockedSlotRelease_of_blocked (h : BlockedIn s.tidy n q p) :
    exec (.blockedSlotRelease n) s = .next (s.onTimer true (s.tidy.freeSlot n).tidy) := by
  obtain ⟨hslot, hfull, hnext, hlow⟩ := h
  have hqueue : (s.tidy.slotOf n).queue = some q.val := congrArg Slot.queue hslot
  have hpitch : (s.tidy.slotOf n).pitch = p := congrArg Slot.pitch hslot
  have hready : (s.tidy.nextResident p).isSome = true := Option.isSome_iff_ne_none.2 hnext
  rw [exec_blockedSlotRelease, execBlockedSlotRelease, hqueue, hpitch, hlow, hready, decide_eq_true hfull, beq_self_eq_true]
  rfl

theorem exec_sliceExpiry_of_due (h : DueIn s.tidy n q p) : exec (.sliceExpiry n) s = .next (s.onTimer true
    (if (s.tidy.nextResident p).isSome then (s.tidy.afterNow.freeSlot n).tidy
     else s.tidy.afterNow.modSlot n fun x => { x with since := s.tidy.now })) := by
  obtain ⟨hslot, hrotates, htime⟩ := h
  have hqueue : (s.tidy.slotOf n).queue = some q.val := congrArg Slot.queue hslot
  have hpitch : (s.tidy.slotOf n).pitch = p := congrArg Slot.pitch hslot
  rw [exec_sliceExpiry, execSliceExpiry]
  simp only [hqueue, hpitch, hrotates, decide_eq_true htime, Bool.and_self]

/-- SLOT_ASSIGN of a free slot to the SQ whose turn it is (R360, R361). -/
theorem exec_slotAssign_of_free {x : Queue} (hawake : s.awake = true) (hx : s.tidy.queue? q = some x) (hfn : s.tidy.pitchOfFn x.fn = some p)
    (hnext : s.tidy.nextResident p = some q.val) (hfree : (s.tidy.slotOf n).queue = none)
    (hroom : (s.tidy.slotsHeld p).length < s.tidy.slotsGiven p) : exec (.slotAssign n q) s = .next (s.tidy.reside n q p) := by
  rw [exec_slotAssign, execSlotAssign]
  simp only [hx, Option.bind_some, hfn, hawake, hnext, hfree, hroom, Bool.not_true, ne_eq, not_true_eq_false, decide_false, Bool.or_self,
    Bool.false_eq_true, if_false, Option.isNone_none, if_true]

end

/-- The second part of O26: the timers by `exec_blockedSlotRelease_of_blocked` and `exec_sliceExpiry_of_due`, and a slot by what it holds. -/
theorem slotEvents : SlotEvents := by
  unfold SlotEvents
  intro s n q p x
  have hslot (w : State) (h : { w with fe := s.fe } = s) (f : Slot → Slot) : (w.modSlot n f).slotOf n = f (w.slotOf n) ∧
      (∀ k, k ≠ n.val → (w.modSlot n f).slotOf k = w.slotOf k) ∧ { w.modSlot n f with fe := s.fe } = s :=
    ⟨w.slotOf_modSlot n.isLt f, fun _ hk => w.slotOf_modSlot_ne hk f, h⟩
  have hlater (w : State) (h : { w with fe := s.fe, clk := s.clk, free := s.free } = s) (f : Slot → Slot) :
      (w.afterNow.modSlot n f).slotOf n = f (w.slotOf n) ∧ (∀ k, k ≠ n.val → (w.afterNow.modSlot n f).slotOf k = w.slotOf k) ∧
        { w.afterNow.modSlot n f with fe := s.fe, clk := s.clk, free := s.free } = s :=
    ⟨w.afterNow.slotOf_modSlot n.isLt f, fun _ hk => w.afterNow.slotOf_modSlot_ne hk f, h⟩
  refine ⟨fun hst hdie hpair => ⟨fun hblocked => ?_, fun hdue => ?_⟩, fun hawake => ⟨?assign, ?release, ?again, ?turn⟩⟩
  · rw [exec_blockedSlotRelease_of_blocked hblocked, s.onTimer_of_asleep hst hdie hpair]
  · rw [exec_sliceExpiry_of_due hdue, s.onTimer_of_asleep hst hdie hpair]
  case assign =>
    intro hx hfn hnext hfree hroom
    exact ⟨_, exec_slotAssign_of_free hawake hx hfn hnext hfree hroom, _, rfl, hlater s.tidy s.tidy_withClk _⟩
  case release =>
    intro hblocked
    refine ⟨(s.tidy.freeSlot n).tidy, ?_, _, rfl, hslot s.tidy s.tidy_withFe _⟩
    rw [exec_blockedSlotRelease_of_blocked hblocked, s.onTimer_of_awake hawake]
  case again =>
    intro hdue hnone
    refine ⟨s.tidy.afterNow.modSlot n fun x => { x with since := s.tidy.now }, ?_, hlater s.tidy s.tidy_withClk _⟩
    rw [exec_sliceExpiry_of_due hdue, s.onTimer_of_awake hawake, hnone, Option.isSome_none, if_neg Bool.false_ne_true]
  case turn =>
    intro hdue hsome
    refine ⟨(s.tidy.afterNow.freeSlot n).tidy, ?_, _, rfl, hlater s.tidy s.tidy_withClk _⟩
    rw [exec_sliceExpiry_of_due hdue, s.onTimer_of_awake hawake, if_pos (Option.isSome_iff_ne_none.2 hsome)]

/-- Settles O26: the events of the queues and those of the slots. -/
theorem queueAndSlotEvents : Obligations.QueueAndSlotEvents := ⟨queueEvents, slotEvents⟩

end Sys2Proof.Cert
end

section
/-! PROOF. Bells, the pending mask, and how callers wake and sleep (R317, R319, R320, R323, R324, R382, Table 13-2). -/

namespace Sys2Proof.Machine

/-! ### Masks of groups -/

/-- The mask of one group. -/
theorem getLsbD_groupBit {g i : Nat} (hi : i < 64) : (BitVec.ofNat 64 (2 ^ g)).getLsbD i = decide (g = i) := by
  rw [BitVec.getLsbD_ofNat, Nat.testBit_two_pow, decide_eq_true hi, Bool.true_and]

/-- A mask with one group taken out. -/
theorem getLsbD_clearGroup (m : BitVec 64) {g i : Nat} (hi : i < 64) :
    (m &&& ~~~BitVec.ofNat 64 (2 ^ g)).getLsbD i = (m.getLsbD i && !decide (g = i)) := by
  rw [BitVec.getLsbD_and, BitVec.getLsbD_not, decide_eq_true hi, Bool.true_and, getLsbD_groupBit hi]

/-- A mask without a group keeps it out of its complement. -/
theorem groupBit_and_not {r : BitVec 64} {g : Nat} (h : r.getLsbD g = false) : BitVec.ofNat 64 (2 ^ g) &&& ~~~r = BitVec.ofNat 64 (2 ^ g) := by
  refine BitVec.eq_of_getLsbD_eq fun i hi => ?_
  rw [BitVec.getLsbD_and, BitVec.getLsbD_not, decide_eq_true hi, Bool.true_and, getLsbD_groupBit hi]
  by_cases hg : g = i
  · rw [← hg, h, Bool.not_false, Bool.and_true]
  · rw [decide_eq_false hg, Bool.false_and]

section
variable (s : State)

/-- Of the groups in a mask, those that are scanned now (R382). -/
theorem State.getLsbD_openOf (m : BitVec 64) {i : Nat} (hi : i < 64) : (s.openOf m).getLsbD i = (m.getLsbD i && s.groupOpen i) := by
  have hstep (a : BitVec 64) (g : Nat) : (if m.getLsbD g && !s.groupOpen g then a &&& ~~~BitVec.ofNat 64 (2 ^ g) else a).getLsbD i =
      (a.getLsbD i && !(decide (g = i) && (m.getLsbD i && !s.groupOpen i))) := by
    by_cases hg : g = i
    · subst hg
      split
      next h => rw [getLsbD_clearGroup a hi, h, Bool.and_true]
      next h => rw [Bool.eq_false_iff.2 h, Bool.and_false, Bool.not_false, Bool.and_true]
    · rw [decide_eq_false hg, Bool.false_and, Bool.not_false, Bool.and_true]
      split
      · rw [getLsbD_clearGroup a hi, decide_eq_false hg, Bool.not_false, Bool.and_true]
      · rfl
  have hfold (gs : List Nat) (a : BitVec 64) : (gs.foldl (fun a g =>
      if m.getLsbD g && !s.groupOpen g then a &&& ~~~BitVec.ofNat 64 (2 ^ g) else a) a).getLsbD i =
        (a.getLsbD i && !(decide (i ∈ gs) && (m.getLsbD i && !s.groupOpen i))) := by
    induction gs generalizing a with
    | nil => rw [decide_eq_false List.not_mem_nil, Bool.false_and, Bool.not_false, Bool.and_true]; rfl
    | cons g gs ih =>
      rw [List.foldl_cons, ih, hstep]
      by_cases hg : g = i
      · subst hg
        cases a.getLsbD g <;> cases m.getLsbD g && !s.groupOpen g <;> simp
      · simp [hg, Ne.symm hg]
  rw [State.openOf, hfold, decide_eq_true (List.mem_range.2 hi)]
  cases m.getLsbD i <;> cases s.groupOpen i <;> rfl

/-- A group that is scanned now is all that is scanned of its own mask. -/
theorem State.openOf_groupBit_of_open {g : Nat} (h : s.groupOpen g = true) : s.openOf (BitVec.ofNat 64 (2 ^ g)) = BitVec.ofNat 64 (2 ^ g) := by
  refine BitVec.eq_of_getLsbD_eq fun i hi => ?_
  rw [s.getLsbD_openOf _ hi, getLsbD_groupBit hi]
  by_cases hg : g = i
  · rw [← hg, h, Bool.and_true]
  · rw [decide_eq_false hg, Bool.false_and]

/-- Where its pitch resets, nothing is. -/
theorem State.openOf_groupBit_of_closed {g : Nat} (h : s.groupOpen g = false) (r : BitVec 64) :
    s.openOf (BitVec.ofNat 64 (2 ^ g) &&& r) = 0 := by
  refine BitVec.eq_of_getLsbD_eq fun i hi => ?_
  rw [s.getLsbD_openOf _ hi, BitVec.getLsbD_and, getLsbD_groupBit hi]
  by_cases hg : g = i
  · rw [← hg, h, Bool.and_false]; simp
  · rw [decide_eq_false hg, Bool.false_and, Bool.false_and]; simp

/-- The rank of a group among those of its function is the number of its lower ones (R317). -/
theorem idxOf_filter_range {P : Nat → Bool} {k n : Nat} (hk : k < n) (hP : P k = true) :
    ((List.range n).filter P).idxOf k = ((List.range k).filter P).length := by
  have hsplit : List.range n = List.range k ++ k :: (List.range (n - k - 1)).map (fun i => k + (i + 1)) := by
    obtain ⟨m, rfl⟩ : ∃ m, n = k + (m + 1) := ⟨n - k - 1, by omega⟩
    rw [List.range_add, List.range_succ_eq_map]
    simp
  have hlow : k ∉ (List.range k).filter P := fun h => absurd (List.mem_range.1 (List.mem_filter.1 h).1) (Nat.lt_irrefl k)
  rw [hsplit, List.filter_append, List.filter_cons_of_pos hP, List.idxOf_append, if_neg hlow, List.idxOf_cons_self, Nat.zero_add]

end

/-! ### Where a doorbell entry lies -/

/-- A group of a function is in force and names it. -/
theorem State.fld_of_groupFn {s : State} {fn g : Nat} (h : s.groupFn g = some fn) :
    (s.fld 0 (offBgrp g) 5 5 == 1 && s.fld 0 (offBgrp g) 4 0 == fn) = true := by
  unfold State.groupFn at h
  dsimp only at h
  split at h
  next hcond =>
    simp only [Bool.and_eq_true, decide_eq_true_eq] at hcond
    cases h
    simp [hcond.1.1]
  next => cases h

theorem State.entryAt_eq {s : State} {fn q : Nat} (hq : q < 1024) (h : s.groupFn (q / 16) = some fn) : s.entryAt fn q =
    s.fld fn offDba 63 12 * 4096 +
      128 * ((List.range (q / 16)).filter (fun k => s.fld 0 (offBgrp k) 5 5 == 1 && s.fld 0 (offBgrp k) 4 0 == fn)).length + 8 * (q % 16) := by
  rw [State.entryAt, State.groupsOf, idxOf_filter_range (by omega) (State.fld_of_groupFn h), State.dbaBase, Nat.add_assoc]

/-! ### Bells that are pending, and scans -/

/-- The state with a mask of pending bells. -/
def State.pend (s : State) (m : BitVec 64) : State := s.modFe fun f => { f with pendMask := m }

section
variable {s : State} (m : BitVec 64)

/-- Callers that do not run BUSY, or whose die is down, issue no read (R320). -/
theorem State.issueReads_pend_of_idle (h : s.fe.st ≠ .busy ∨ s.dieDown = true) : (s.pend m).issueReads = s.pend m := by
  have hidle : (decide (s.fe.st = .busy) && !s.dieDown) = false := by
    rcases h with h | h
    · rw [decide_eq_false h, Bool.false_and]
    · rw [h, Bool.not_true, Bool.and_false]
  exact if_neg (Bool.eq_false_iff.1 hidle)

/-- Callers that run BUSY issue the reads of what is pending, scanned now and not being read: each bit is cleared as its read leaves (R320). -/
theorem State.issueReads_pend_of_busy (hst : s.fe.st = .busy) (hdie : s.dieDown = false) {new : BitVec 64}
    (hnew : s.openOf (m &&& ~~~s.fe.reading) = new) :
    (s.pend m).issueReads = s.modFe fun f => { f with reading := f.reading ||| new, pendMask := m &&& ~~~new } := by
  subst hnew
  have hbusy : (decide (s.fe.st = .busy) && !s.dieDown) = true := by rw [decide_eq_true hst, hdie]; rfl
  exact if_pos hbusy

end

/-- Scanning a group's entries leaves the state of the callers. -/
theorem State.st_scanGroup (s : State) (g : Nat) (es : List W64) : (s.scanGroup g es).fe.st = s.fe.st :=
  foldl_keeps (fun t : State => t.fe.st) (fun t _ => congrArg (·.2.2.2) (t.ground_scanEntry _ _)) _ _

/-- Entries that return while the callers run BUSY are scanned, and their group has been passed. -/
theorem State.scanReturn_of_busy {s : State} {g : GroupId} (es : List W64) (hawake : s.awake = true) (hst : s.fe.st = .busy)
    (hread : s.fe.reading.getLsbD g = true) : s.scanReturn g es = (((s.hostAsk (s.groupFn g)).modFe fun f => { f with
      reading := f.reading &&& ~~~BitVec.ofNat 64 (2 ^ g.val), passed := f.passed ||| BitVec.ofNat 64 (2 ^ g.val) }).scanGroup g es).feDone := by
  have hdue : (s.awake && s.fe.reading.getLsbD g) = true := by rw [hawake, hread]; rfl
  refine (if_pos hdue).trans (congrArg State.feDone (if_neg ?_))
  rw [Bool.and_eq_true, decide_eq_true_eq, State.st_scanGroup]
  exact fun hfinal => FeState.noConfusion (hst.symm.trans hfinal.1)

end Sys2Proof.Machine

namespace Sys2Proof.Cert
open Sys2Proof.Machine

section
variable {s : State} {fn : FnId}

/-- A bell of a group of its function, where no BAR4 write of the function waits (R319, R537). -/
theorem exec_bellWrite_of_bell (hserves : s.fnServes fn = true) (hreqs : s.mem.reqs = []) {data : BitVec 32} (hdata : data.toNat < 64)
    (hgroup : s.groupFn data.toNat = some fn.val) : exec (.bellWrite fn 0 4 data) s =
      .next (s.pend (s.fe.pendMask ||| BitVec.ofNat 64 (2 ^ data.toNat))).issueReads := by
  have hthere : s.fnThere fn = true := (Bool.and_eq_true_iff.1 hserves).1
  have hsettle : s.settleHost fn = s := by rw [State.settleHost, hreqs]; rfl
  rw [exec_bellWrite, execBellWrite, hthere, hserves, hsettle, if_pos (show _ ∧ _ from ⟨rfl, rfl, hdata, hgroup⟩)]
  simp only [Bool.not_true, Bool.and_false, Bool.or_false, Bool.false_eq_true, if_false]
  rfl

/-- A write that is no bell is counted (R319). -/
theorem exec_bellWrite_of_not_bell (hserves : s.fnServes fn = true) (hdie : s.dieDown = false) {off size : Nat} {data : BitVec 32}
    (h : ¬(off = 0 ∧ size = 4 ∧ data.toNat < 64 ∧ s.groupFn data.toNat = some fn.val)) :
    exec (.bellWrite fn off size data) s = .next (s.setFld fn offAccErr 15 0 (s.fld fn offAccErr 15 0 + 1)) := by
  have hthere : s.fnThere fn = true := (Bool.and_eq_true_iff.1 hserves).1
  rw [exec_bellWrite, execBellWrite, hthere, hserves, if_neg h, hdie]
  simp

end

/-- Settles O24: a bell by what the callers are doing and whether its group is scanned, the rest by the row that each event has. -/
theorem callerEvents : Obligations.CallerEvents := by
  unfold Obligations.CallerEvents
  intro s fn g off size data es
  refine ⟨fun hserves hreqs => ⟨?asleepBell, ?busyBell, ?closedBell, ?noBell⟩, ?entry, ?start, ⟨?scan, ?rescan⟩, ?idle, ?sleep⟩
  case asleepBell =>
    rintro rfl rfl hdata hgroup hst
    rw [exec_bellWrite_of_bell hserves hreqs hdata hgroup, State.issueReads_pend_of_idle _ (.inl (hst ▸ nofun))]
    rfl
  case busyBell =>
    rintro rfl rfl hdata hgroup hst hdie hopen hpend hread
    have hmask : s.fe.pendMask ||| BitVec.ofNat 64 (2 ^ data.toNat) = BitVec.ofNat 64 (2 ^ data.toNat) := hpend ▸ BitVec.zero_or
    rw [exec_bellWrite_of_bell hserves hreqs hdata hgroup, hmask]
    generalize hb : BitVec.ofNat 64 (2 ^ data.toNat) = b
    have hnew : s.openOf (b &&& ~~~s.fe.reading) = b := by
      rw [← hb, groupBit_and_not hread, s.openOf_groupBit_of_open hopen]
    rw [State.issueReads_pend_of_busy b hst hdie hnew, BitVec.and_not_self, State.modFe, ← hpend]
  case closedBell =>
    rintro rfl rfl hdata hgroup hst hclosed hpend
    have hmask : s.fe.pendMask ||| BitVec.ofNat 64 (2 ^ data.toNat) = BitVec.ofNat 64 (2 ^ data.toNat) := hpend ▸ BitVec.zero_or
    have hnew := s.openOf_groupBit_of_closed hclosed (~~~s.fe.reading)
    rw [exec_bellWrite_of_bell hserves hreqs hdata hgroup, hmask]
    generalize BitVec.ofNat 64 (2 ^ data.toNat) = b at hnew ⊢
    cases hdie : s.dieDown with
    | true =>
      rw [State.issueReads_pend_of_idle b (.inr hdie)]
      rfl
    | false =>
      have hkeep : b &&& ~~~(0 : BitVec 64) = b := BitVec.and_allOnes
      have hread : s.fe.reading ||| 0 = s.fe.reading := BitVec.or_zero
      rw [State.issueReads_pend_of_busy b hst hdie hnew, State.modFe, hkeep, hread]
  case noBell => exact fun hbell hdie => exec_bellWrite_of_not_bell hserves hdie hbell
  case entry => exact fun q hq hgroup => State.entryAt_eq hq hgroup
  case start =>
    intro hst hdie hcause
    have hdue : (s.fe.pendMask != 0 || s.fe.wake) = true := by simpa using hcause
    rw [FrontEndGives, exec_callerStart, execCallerStart]
    simp only [hst, hdie, hdue, decide_true, Bool.not_false, Bool.and_self, if_true, State.modFe]
  case scan =>
    intro hawake hst hread
    refine ⟨_, ?_, _, rfl, rfl⟩
    rw [exec_doorbellScan, execDoorbellScan, State.scanReturn_of_busy es hawake hst hread]
    rfl
  case rescan =>
    intro hst hdie hactive hopen
    have hdue : (decide (s.fe.st = .busy) && !s.dieDown && s.groupActive g && s.groupOpen g) = true := by
      rw [hst, hdie, hactive, hopen]; rfl
    rw [FrontEndGives, exec_groupRescan, execGroupRescan]
    exact congrArg _ (if_pos hdue)
  case idle =>
    intro hdie hst hpend hread hwork hactive hnew
    have hall : (List.range 64).any (fun g => s.groupActive g && !s.fe.passed.getLsbD g) = false := by simp [hactive]
    generalize hopen : s.openOf s.allGroups = groups
    refine ⟨s.modFe fun f => { f with
      idlePending := true, wake := false, reading := groups, pendMask := f.pendMask &&& ~~~groups,
      st := if groups = 0 then .check else .final }, ?_, rfl, rfl, rfl, rfl, rfl, rfl⟩
    rw [exec_frontEndIdleCheck, execFrontEndIdleCheck, hdie, hst, hpend, hread, hwork, hnew, hall, hopen]
    rfl
  case sleep =>
    intro hdie hst hnew hpend hwake
    rw [exec_frontEndIdleCheck, execFrontEndIdleCheck, hdie, hst, hnew, hpend, hwake]
    rfl

end Sys2Proof.Cert
end

section
/-! PROOF. NOP, LAUNCH and its placement, WAIT and SIGNAL (R325, R329, R331, R352, R353, Table 5-1). -/

namespace Sys2Proof.Machine

/-! ### The context in which a launch starts (Table 5-1) -/

theorem Ctx.getG_setG_same (c : Ctx) {r : Nat} (hr : r < 32) (h0 : r ≠ 0) (v : W64) : (c.setG r v).getG r = v := by
  simp [Ctx.getG, Ctx.setG, h0, hr]

theorem Ctx.getG_setG_ne (c : Ctx) {r k : Nat} (h : r ≠ k) (v : W64) : (c.setG k v).getG r = c.getG r := by
  unfold Ctx.getG Ctx.setG
  refine ite_congr rfl (fun _ => rfl) fun _ => ?_
  split
  · rfl
  · rw [Vector.getElem?_setIfInBounds_ne (Ne.symm h)]

theorem Ctx.getG_reset (r : Nat) : Ctx.reset.getG r = 0 := by
  unfold Ctx.getG Ctx.reset
  by_cases hr : r < 32 <;> simp [hr]

/-- What runs in a context as its launch starts. -/
structure Started (l : Nat) (mask : BitVec 48) (param seed : W64) (entry st lo n : Nat) (e : Ctx) : Prop where
  live : e.live = true
  launch : e.launch = l
  pc : e.pc = BitVec.ofNat 64 entry
  param : e.getG 1 = param
  seed : e.getG 2 = seed
  rank : e.getG 3 = BitVec.ofNat 64 ((maskStalls mask).idxOf st)
  split : e.getG 4 = BitVec.ofNat 64 lo
  stalls : e.getG 5 = BitVec.ofNat 64 (maskStalls mask).length
  splits : e.getG 6 = BitVec.ofNat 64 n
  rest : ∀ r, 7 ≤ r → e.getG r = 0
  pend : e.pend = []

theorem started_startCtx (l : Nat) (mask : BitVec 48) (param seed : W64) (entry st lo n : Nat) :
    Started l mask param seed entry st lo n (startCtx l mask param seed entry st lo n) := by
  have hread (c : Ctx) (r : Nat) : Ctx.getG { c with live := true, launch := l, pc := BitVec.ofNat 64 entry } r = c.getG r := rfl
  have hword (v : W64) : BitVec.ofNat 64 v.toNat = v := by simp
  constructor <;> unfold startCtx <;> simp only [List.foldl_cons, List.foldl_nil, hread, hword]
  case param | seed | rank | split | stalls | splits => simp [Ctx.getG_setG_ne, Ctx.getG_setG_same]
  case rest =>
    intro r hr
    repeat rw [Ctx.getG_setG_ne _ (by omega)]
    exact Ctx.getG_reset r
  case pend => rfl

/-! ### Where it starts -/

section
variable (s : State) (l : Nat) (mask : BitVec 48) (param seed : W64) (entry shape : Nat)

theorem State.ctxOf_launchOn {st lo : Nat} (hst : st < 48) (hlo : lo < 4) (n : Nat) :
    (s.launchOn l mask param seed entry shape st lo n).ctxOf st lo = startCtx l mask param seed entry st lo n := by
  rw [State.ctxOf, State.launchOn, State.stall_modStall _ _ hst]
  simp [hlo]

theorem State.ctxOf_launchOn_ne {st st' : Nat} (h : st ≠ st') (lo n cx : Nat) :
    (s.launchOn l mask param seed entry shape st' lo n).ctxOf st cx = s.ctxOf st cx := by
  rw [State.ctxOf, State.launchOn, State.stall_modStall_ne _ h, State.ctxOf]

/-- The state once a launch has started on the stalls of a list, on each at the split that `at_` gives. -/
def State.launchAll (sts : List Nat) (at_ : Nat → Nat × Nat) : State :=
  (sts.map fun st => (st, at_ st)).foldl (fun s y => s.launchOn l mask param seed entry shape y.1 y.2.1 y.2.2) s

theorem State.fe_launchAll (sts : List Nat) (at_ : Nat → Nat × Nat) : (s.launchAll l mask param seed entry shape sts at_).fe = s.fe :=
  foldl_keeps State.fe (fun (u : State) (y : Nat × Nat × Nat) => (rfl : (u.launchOn l mask param seed entry shape y.1 y.2.1 y.2.2).fe = u.fe)) _ _

/-- A launch that starts on a list of stalls runs on each of them as Table 5-1 says. -/
theorem State.ctxOf_launchAll {sts : List Nat} (at_ : Nat → Nat × Nat) {st : Nat} (hst : st < 48) (hlo : (at_ st).1 < 4)
    (h : st ∈ sts ∨ s.ctxOf st (at_ st).1 = startCtx l mask param seed entry st (at_ st).1 (at_ st).2) :
    (s.launchAll l mask param seed entry shape sts at_).ctxOf st (at_ st).1 = startCtx l mask param seed entry st (at_ st).1 (at_ st).2 := by
  induction sts generalizing s with
  | nil => exact h.resolve_left List.not_mem_nil
  | cons k sts ih =>
    refine ih (s.launchOn l mask param seed entry shape k (at_ k).1 (at_ k).2) ?_
    by_cases hk : st = k
    · exact .inr (hk ▸ s.ctxOf_launchOn l mask param seed entry shape hst hlo _)
    · rw [s.ctxOf_launchOn_ne l mask param seed entry shape hk]
      exact h.imp_left fun hmem => (List.mem_cons.1 hmem).resolve_left hk

end

section
variable {s t : State} (h : t.works = s.works)
include h

theorem State.mem_of_works : t.mem = s.mem := (congrArg (·.1) h :)
theorem State.stalls_of_works : t.stalls = s.stalls := (congrArg (·.2.1) h :)
theorem State.launches_of_works : t.fe.launches = s.fe.launches := (congrArg (·.2.2.1) h :)
theorem State.fences_of_works : t.fe.fences = s.fe.fences := (congrArg (·.2.2.2) h :)

end

theorem State.works_startDesc (s : State) (q : Nat) (h : W32) : (s.startDesc q h).works = s.works :=
  State.works_of_offQueues (s.offQueues_startDesc q h)

theorem State.works_modPitch (s : State) (p : Nat) (f : Pitch → Pitch) : (s.modPitch p f).works = s.works := rfl

theorem State.works_pairCopy (s : State) (r : PairRec) : (s.pairCopy r).works = s.works := ite_keeps State.works (s.works_pairTell _) rfl

/-- The split that a launch of a shape takes on a stall. -/
def State.splitFor (s : State) (shape st : Nat) : Nat × Nat := ((s.freeSplit st shape).map (·.2)).getD (0, 1)

/-- A launch that is placed: its instances start, and its entry stands in the table of launches. -/
theorem State.placeLaunch_shows (s : State) (p q : Nat) (d : Desc) (entry len : Nat) : ∃ (u : State) (y : Launch),
    (s.placeLaunch p q d entry len).stalls =
      (u.launchAll s.fe.nextLaunch d.mask d.param d.seed entry d.shape (maskStalls d.mask) (s.splitFor d.shape)).stalls ∧
    (s.placeLaunch p q d entry len).fe.launches = Tab.put s.fe.launches s.fe.nextLaunch y ∧
    (y.pitch = p ∧ y.sq = q ∧ y.hseq = d.hseq ∧ y.mask = d.mask ∧ y.prog = d.prog ∧
      y.codeLen = len ∧ y.image = [] ∧ y.param = d.param ∧ y.seed = d.seed ∧ y.rows = d.allot ∧ y.ended = none ∧ y.running = maskStalls d.mask) := by
  unfold State.placeLaunch
  extract_lets l src mask stalls splits s1 t s2 s3 y fe4 s4 s5
  have hwoken : (stalls.foldl (fun s st => s.wakeStall st) s).fe = s.fe := foldl_keeps State.fe (fun t st => t.wakeStall_fe st) _ _
  have hstarted : s1.fe.launches = s.fe.launches :=
    (State.launches_of_works (State.works_startDesc ..)).trans (congrArg FrontEnd.launches hwoken)
  have hfe2 : s2.fe = s1.fe := ite_keeps State.fe (State.postDbk_fe ..) rfl
  have hfe3 : s3.fe = s2.fe := s2.fe_launchAll l mask d.param d.seed entry d.shape stalls (s.splitFor d.shape)
  have hshown : s5.works = s4.works := ite_keeps State.works (s4.works_pairCopy _) rfl
  have hrun : s4.stalls = (s2.launchAll l mask d.param d.seed entry d.shape stalls (s.splitFor d.shape)).stalls := rfl
  refine ⟨s2, y, ?_, ?_, rfl, rfl, rfl, rfl, rfl, rfl, rfl, rfl, rfl, rfl, rfl, rfl⟩
  · exact (State.stalls_of_works ((State.works_modPitch _ _ _).trans ((s5.works_modQueue _ _).trans hshown))).trans hrun
  · refine (State.launches_of_works ((State.works_modPitch _ _ _).trans ((s5.works_modQueue _ _).trans hshown))).trans ?_
    show Tab.put s3.fe.launches l y = _
    rw [hfe3, hfe2, hstarted]

/-! ### Fence words (R348, R353) -/

/-- A SIGNAL's write refused at its fence word is at most reported. -/
theorem State.quiet_fenceRefused (s : State) (p f : Nat) (st : Status) : (s.fenceRefused p f st).quiet = s.quiet := by
  unfold State.fenceRefused State.poisonedWrite
  split
  · exact State.quiet_postFault ..
  · rfl

/-- A word at an aligned address lies within one line. -/
theorem State.writeDev_of_word (s : State) {a : Nat} {bs : List Byte} (ha : a % 8 = 0) (hbs : bs.length = 8) (p : Nat) (csr : Option Nat)
    (acc : Acc) (who : Option FaultInfo) (poison : Bool) : s.writeDev p csr acc who a bs poison = s.writePiece p acc csr who a bs poison := by
  have hroom : min 8 (64 - a % 64) = 8 := by omega
  have hruns : lineRuns a 8 = [(a, 8)] := by
    rw [lineRuns, pieces, if_neg (by decide), hroom]
    rfl
  rw [State.writeDev, hbs, hruns, List.foldl_cons, List.foldl_nil, List.take_of_length_le (Nat.le_of_eq hbs)]

/-- The word of a fence lies in its pitch's area, at a multiple of 8. -/
theorem State.fenceWord_mod (s : State) (p n : Nat) : s.fenceWord p n % 8 = 0 := by
  rw [State.fenceWord, State.fenceArea]
  omega

/-- The state with the entry of a fence changed. -/
def State.setFence (s : State) (n : Nat) (f : Fence) : State := { s with fe := { s.fe with fences := Tab.put s.fe.fences n f } }

theorem State.works_setFence (s : State) (n : Nat) (f : Fence) :
    (s.setFence n f).works = (s.mem, s.stalls, s.fe.launches, Tab.put s.fe.fences n f) := rfl

/-- What works on as it did but for the entry of one fence. -/
theorem State.eq_of_works_setFence {s t u : State} {n : Nat} {f : Fence} (hu : u.fe.fences = s.fe.fences) (h : t.works = (u.setFence n f).works) :
    t.fence? n = some f ∧ (∀ k, k ≠ n → t.fence? k = s.fence? k) ∧ t.mem = u.mem ∧ t.stalls = u.stalls := by
  have hput : t.fe.fences = Tab.put s.fe.fences n f := hu ▸ State.fences_of_works (s := u.setFence n f) h
  unfold State.fence?
  rw [hput]
  exact ⟨Tab.find_put_self .., fun k hk => Tab.find_put_ne _ _ hk, State.mem_of_works (s := u.setFence n f) h,
    State.stalls_of_works (s := u.setFence n f) h⟩

section
variable {s : State} {n p q : Nat} {f : Fence} {h : W32} {v : W64} {y : Queue} (hfence : s.fence? n = some f)
  (hwriting : f.writing = some (q, h, v)) (howner : s.queue? f.owner = some y) (hpitch : s.pitchOfFn y.fn = some p)
include hfence hwriting howner hpitch

/-- A SIGNAL whose word can no longer be written leaves memory and the fence's value. -/
theorem State.works_signalDone_of_refused {no : Status} (hrefused : s.fenceWordFails p n = some no) :
    (s.signalDone n).works = (s.setFence n { f with writing := none }).works := by
  have hquiet := s.quiet_fenceRefused p n no
  have hfind : Tab.find s.fe.fences n = some f := hfence
  rw [State.signalDone, hfind]
  simp only [hwriting, howner, hpitch, Option.bind_some, hrefused]
  refine (State.works_finishDesc _ _ _ _ _ _).trans ?_
  show ((s.fenceRefused p n no).setFence n { f with writing := none }).works = _
  rw [State.works_setFence, State.works_setFence, State.mem_of_quiet hquiet, State.stalls_of_quiet hquiet, State.fe_of_quiet hquiet]

/-- A SIGNAL whose word is written: its fence takes the value. -/
theorem State.works_signalDone_of_written (hwritten : s.fenceWordFails p n = none) : (s.signalDone n).works =
    ((s.writeDev p none .write none (s.fenceWord p n) (leBytes 8 v.toNat) false).setFence n { f with value := v, writing := none }).works := by
  have hfind : Tab.find s.fe.fences n = some f := hfence
  rw [State.signalDone, hfind]
  simp only [hwriting, howner, hpitch, Option.bind_some, hwritten]
  refine (State.works_finishDesc _ _ _ _ _ _).trans ((State.works_of_quiet (State.quiet_postDbk ..)).trans ?_)
  rfl

end

end Sys2Proof.Machine

namespace Sys2Proof.Cert
open Sys2Proof.Machine

section
variable {s : State} {q : QueueId} {x : Queue} {d : Desc} {p : Nat}

/-- A head that passes its checks is met by its own row. -/
theorem headRow_of_passes {op : Nat} (hhead : s.headAt q = some (x, d)) (hpass : s.headFails x d = none) (hop : d.op = op)
    (act : State → Queue → Desc → State) : s.headRow q op act = (act s x d).feDone := by
  rw [State.headRow, hhead]
  simp only [hpass, hop, if_true]

/-- A launch in PLACE that nothing refuses is placed (R329). -/
theorem exec_launchPlace_of_placed {entry len : Nat} (hheads : Heads s q 0x01 x d) (hpitch : s.pitchOfFn x.fn = some p)
    (hblocked : d.blocked = true) (hphdr : d.phdr = 0) (hmask : s.maskFails p d.mask = none) (hroom : s.placeable d.mask d.shape d.allot = true)
    (hfirst : s.firstToPlace p q d = true) (hprog : s.progHeader p d.csr d.prog = .ok (some (entry, len)))
    (hregion : s.regionFails p d.csr = none) : exec (.launchPlace q) s = .next (s.placeLaunch p q d entry len).feDone := by
  rw [exec_launchPlace, execLaunchPlace, startRow_of_heads hheads]
  simp only [hpitch, hblocked, hphdr, State.tryPlace, hmask, hroom, hfirst, hprog, hregion, Bool.not_true, Bool.or_false, Bool.false_eq_true,
    if_false, decide_true, Bool.true_or, if_true]

/-- A launch whose parameter header says SKIP ends without a place (R331). -/
theorem exec_launchPlace_of_skipped {hd : List Byte} (hheads : Heads s q 0x01 x d) (hpitch : s.pitchOfFn x.fn = some p)
    (hblocked : d.blocked = true) (hphdr : d.phdr ≠ 0) (hovr : d.ovr = none) (hmask : s.maskFails p d.mask = none)
    (hroom : s.placeable d.mask d.shape d.allot = true) (hfirst : s.firstToPlace p q d = true)
    (hread : s.readDev p (some d.csr) d.phdr 64 = .ok hd) (hskip : fieldAt hd 0 1 = 1) (h1 : zeroAt hd 1 7 = true) (h14 : zeroAt hd 14 2 = true)
    (h30 : zeroAt hd 30 34 = true) : FrontEndGives s (.launchPlace q) ((s.startDesc q d.hseq).finishDesc q d.hseq .ok 4 0 none) := by
  have hreserved : bits 1 7 4 = 0 := by decide
  have hflag : bit 1 0 = true := by decide
  rw [FrontEndGives, exec_launchPlace, execLaunchPlace, startRow_of_heads hheads]
  simp only [hpitch, hblocked, hphdr, hovr, hmask, hroom, hfirst, State.readPhdr, hread, hskip, hreserved, hflag, h1, h14, h30, Bool.not_true,
    Bool.or_false, Bool.false_eq_true, if_false, decide_false, Option.isSome_none, Bool.and_true, Bool.or_true, if_true, ne_eq,
    not_true_eq_false]

/-- Where a SIGNAL's write is visible in a package that leads no other, it is done. -/
theorem exec_signalWriteVisible_of_alone {n : FenceId} {f : Fence} {w : Nat × W32 × W64} (hfence : s.fence? n = some f) (hwriting : f.writing = some w)
    (halone : s.leads = false) : exec (.signalWriteVisible n) s = .next (s.signalDone n).feDone := by
  rw [exec_signalWriteVisible, execSignalWriteVisible, hfence]
  simp only [hwriting, halone, Bool.not_false, if_true]

end

/-- What LAUNCH_PLACE leaves of a launch that it places: its entry, and its instances (Table 5-1). -/
theorem placeLaunch_places (s : State) (p q : Nat) (d : Desc) (entry len : Nat) :
    (∃ y, (s.placeLaunch p q d entry len).feDone.launch? s.fe.nextLaunch = some y ∧ y.pitch = p ∧ y.sq = q ∧ y.hseq = d.hseq ∧ y.mask = d.mask ∧
      y.prog = d.prog ∧ y.codeLen = len ∧ y.image = [] ∧ y.param = d.param ∧ y.seed = d.seed ∧ y.rows = d.allot ∧ y.ended = none ∧
      y.running = maskStalls d.mask) ∧
    ∀ st ∈ maskStalls d.mask, ∀ cfg lo k, s.freeSplit st d.shape = some (cfg, lo, k) → lo < 4 →
      Started s.fe.nextLaunch d.mask d.param d.seed entry st lo k ((s.placeLaunch p q d entry len).feDone.ctxOf st lo) := by
  obtain ⟨u, y, hstalls, hlaunches, hy⟩ := s.placeLaunch_shows p q d entry len
  have hworks := (s.placeLaunch p q d entry len).works_feDone
  generalize s.placeLaunch p q d entry len = t at hstalls hlaunches hworks ⊢
  refine ⟨⟨y, ?_, hy⟩, fun st hst cfg lo k hfree hlo => ?_⟩
  · rw [State.launch?, State.launches_of_works hworks, hlaunches, Tab.find_put_self]
  · have hsplit : s.splitFor d.shape st = (lo, k) := by rw [State.splitFor, hfree]; rfl
    have hbelow : st < 48 := List.mem_range.1 (List.mem_filter.1 hst).1
    have hctx := u.ctxOf_launchAll s.fe.nextLaunch d.mask d.param d.seed entry d.shape (s.splitFor d.shape) hbelow
      (by rw [hsplit]; exact hlo) (.inl hst)
    rw [hsplit] at hctx
    rw [State.ctxOf, State.stall, State.stalls_of_works hworks, hstalls, ← State.stall, ← State.ctxOf, hctx]
    exact started_startCtx ..

/-- Settles O28: each row meets the head that comes to start; a launch is placed as `placeLaunch_places` says; a SIGNAL's write that is visible or refused
leaves what `works_signalDone_of_written` and `works_signalDone_of_refused` say. -/
theorem serviceDescriptors : Obligations.ServiceDescriptors := by
  unfold Obligations.ServiceDescriptors
  intro s q x d p f n entry len hd no hpitch
  refine ⟨?nop, ?launch, ?place, ?skip, ?wait, ?signal, ?signalFails, ?refused, ?visible⟩
  case nop =>
    intro hheads
    rw [EndsHead, FrontEndGives, exec_descNop, execDescNop, startRow_of_heads hheads]
  case launch =>
    intro hheads hblocked hmask
    have hpass : (if d.phdr = 0 then s.maskFails p d.mask else none) = none := by
      split
      next h0 => exact hmask.resolve_left (not_not_intro h0)
      next => rfl
    rw [FrontEndGives, exec_launch, execLaunch, startRow_of_heads hheads]
    simp only [hpitch, hblocked, hpass, Bool.false_eq_true, if_false]
  case place =>
    intro hheads hblocked hphdr hmask hroom hfirst hprog hregion
    obtain ⟨hentry, hinstances⟩ := placeLaunch_places s p q d entry len
    refine ⟨_, exec_launchPlace_of_placed hheads hpitch hblocked hphdr hmask hroom hfirst hprog hregion, hentry, fun st hst cfg lo k hfree hlo => ?_⟩
    obtain ⟨hlive, hlaunch, hpc, hparam, hseed, hrank, hsplit, hstalls, hsplits, hrest, hpend⟩ := hinstances st hst cfg lo k hfree hlo
    exact ⟨hlive, hlaunch, hpc, hparam, hseed, hrank, hsplit, hstalls, hsplits, hrest, hpend⟩
  case skip => exact fun hheads => exec_launchPlace_of_skipped hheads hpitch
  case wait =>
    intro hheads hpass hfence hreached
    obtain ⟨hhead, hfails, hop, hstart⟩ := hheads
    rw [EndsHead, FrontEndGives, exec_wait, execWait, headRow_of_passes hhead hfails hop]
    simp only [hpitch, hpass, hfence, hreached, hstart, if_true]
  case signal =>
    intro hheads hpass hfence
    obtain ⟨hhead, hfails, hop, hstart⟩ := hheads
    rw [EndsHead, EndsHead, EndsHead, FrontEndGives, FrontEndGives, FrontEndGives, Gives, exec_signal, execSignal, headRow_of_passes hhead hfails hop]
    simp only [hpitch, hpass, hfence, hstart, Bool.not_true, Bool.false_eq_true, if_false]
    refine ⟨fun hbelow => ?below, fun habove hword => ?word, fun hequal => ?equal, fun habove hword => ?write⟩
    case below => rw [if_pos hbelow]
    case equal => rw [if_neg (by rw [hequal]; exact BitVec.lt_irrefl _), if_pos hequal]
    case word => rw [if_neg (BitVec.lt_asymm habove), if_neg (BitVec.ne_of_lt habove).symm, hword]
    case write =>
      rw [if_neg (BitVec.lt_asymm habove), if_neg (BitVec.ne_of_lt habove).symm, hword]
      have hstarted := s.offQueues_startDesc q d.hseq
      generalize s.startDesc q d.hseq = t at hstarted
      have hworks := State.works_of_offQueues hstarted
      obtain ⟨hself, hothers, hmem, hstalls⟩ := State.eq_of_works_setFence (u := t) (State.fences_of_works hworks)
        (rfl : (t.setFence d.fence { f with writing := some (q.val, d.hseq, d.value) }).works = _)
      exact ⟨_, rfl, t.setFence d.fence { f with writing := some (q.val, d.hseq, d.value) }, rfl, hself, hothers,
        hmem.trans (State.mem_of_works hworks), hstalls.trans (State.stalls_of_works hworks), (congrArg State.regs hstarted :)⟩
  case signalFails =>
    intro hhead hfails hop hfence
    rw [EndsHead, FrontEndGives, exec_signal, execSignal, headRow_of_passes hhead hfails hop]
    simp only [hpitch, hfence]
  case refused =>
    intro h v y hfence hwriting howner hown halone hrefused
    refine ⟨_, exec_signalWriteVisible_of_alone hfence hwriting halone, ?_⟩
    have hworks := (State.works_feDone _).trans (State.works_signalDone_of_refused hfence hwriting howner hown hrefused)
    generalize (s.signalDone n).feDone = t at hworks ⊢
    obtain ⟨hself, hothers, hmem, -⟩ := State.eq_of_works_setFence rfl hworks
    exact ⟨hself, hothers, hmem⟩
  case visible =>
    rintro h v y pl a rfl hfence hwriting howner hown hind hcanonical hactive htranslate hcopy hclean
    have hword : s.fenceWordFails p n = none := by
      rw [State.fenceWordFails, hactive, htranslate]
      simp only [hclean, Bool.not_true, Bool.false_eq_true, if_false]
    have hlen : (leBytes 8 v.toNat).length = 8 := rfl
    have hwrite : s.writeDev p none .write none (s.fenceWord p n) (leBytes 8 v.toNat) false =
        s.writePlace p (s.fenceWord p n) pl none (leBytes 8 v.toNat) false := by
      rw [s.writeDev_of_word (s.fenceWord_mod p n) hlen, State.writePiece, htranslate]
    obtain ⟨hmemOnly, -, hbytes⟩ := stored_writePlace hcanonical hind hcopy hclean p (s.fenceWord p n) none (leBytes 8 v.toNat)
    refine ⟨_, exec_signalWriteVisible_of_alone hfence hwriting (State.leads_of_independent hind), ?_⟩
    have hworks := (State.works_feDone _).trans (State.works_signalDone_of_written hfence hwriting howner hown hword)
    rw [hwrite] at hworks
    generalize (s.signalDone n).feDone = t at hworks ⊢
    generalize s.writePlace p (s.fenceWord p n) pl none (leBytes 8 v.toNat) false = u at hmemOnly hbytes hworks
    obtain ⟨hrest, hfe, -⟩ := hmemOnly
    have hfences : u.fe.fences = s.fe.fences := (congrArg FrontEnd.fences hfe :)
    have hstalls : u.stalls = s.stalls := (congrArg State.stalls hrest :)
    obtain ⟨hself, hothers, hmem, hkept⟩ := State.eq_of_works_setFence hfences hworks
    refine ⟨hself, hothers, ?_, hkept.trans hstalls⟩
    rwa [StoresAt, hmem]

end Sys2Proof.Cert
end
